-- ==== Sys2Proof/Word.lean ====
section
/-! DEFINITION. The word types of the Conaon: bytes, lanes, 64-bit words, payloads (spec/00 R3, spec/02 R9, spec/04 R58, R59). -/
namespace Sys2Proof

/-- One byte of memory. -/
abbrev Byte := BitVec 8

/-- One 32-bit lane of a vector token (R9). -/
abbrev Lane := BitVec 32

/-- A 64-bit value: an X register, an address, a scalar token's value (R9, R263). -/
abbrev Word := BitVec 64

/-- The sixteen lanes of a vector token. Lane l occupies bits [32l+31:32l], so the bytes stand as R59 stores them in
memory, and element i of width W occupies bits [W·i+W−1 : W·i] (R58), pairs of I64x8 included. -/
abbrev Payload := BitVec 512

/-- A WT16 weight (R71). -/
abbrev Weight := BitVec 16

end Sys2Proof
end

