-- ==== Sys2Proof/Syntax.lean ====
section
/-! DEFINITION. The instructions of the Conaon. The opcode table lists the part's steps, each whole and indivisible (spec/95); one
constructor of Instr stands for each row. A step that a program word names carries that word's fields; a move of the machine that
no word names carries nothing: the place it happens at, and what comes in from outside with it, is State.here. -/
namespace Sys2Proof

/-! ## Places -/

/-- A tile: die, die row and die column (R12; 64 clusters of 8 by 8 tiles on each of four dies). -/
structure TileId where
  die : Fin 4
  row : Fin 64
  col : Fin 64
  deriving DecidableEq, Repr

/-- A cluster by its logical number on its die (R267, R378). -/
structure ClusterId where
  die : Fin 4
  lcl : Fin 64
  deriving DecidableEq, Repr

/-- One of the eight slots of a tile's active plane (R12). -/
structure SlotId where
  tile : TileId
  slot : Fin 8
  deriving DecidableEq, Repr

/-- An input queue I0 to I7 of a tile (R12). -/
structure QueueId where
  tile : TileId
  q : Fin 8
  deriving DecidableEq, Repr

/-- A launch, by the handle it was given when it was accepted (R199). -/
structure LaunchId where
  die : Fin 4
  handle : Nat
  deriving DecidableEq, Repr

/-- A cache slice, by physical cluster (R230, R231). -/
structure SliceId where
  die : Fin 4
  pcl : Fin 64
  s : Fin 32
  deriving DecidableEq, Repr

/-- The engines that move segments of global memory and skip faults (R313). -/
inductive EngineId where
  | copy (c : ClusterId)
  | collective (die : Fin 4)
  | network (die : Fin 4)
  deriving DecidableEq, Repr

/-- The three networks (R9, R137). -/
inductive Net where
  | vector | scalar | control
  deriving DecidableEq, Repr

/-- The four links of a switch box (R138). -/
inductive Dir where
  | n | e | s | w
  deriving DecidableEq, Repr

/-- What the parity check of an arriving token finds (R143): nothing, an error in the payload alone, an error in the header group. -/
inductive Parity where
  | ok | payload | header
  deriving DecidableEq, Repr

/-- A local source of a switch box (R142): a PE output, or an output of a router operator (true output when `t`). -/
inductive LocalSrc where
  | pe (port : Fin 4)
  | op (g : Fin 2) (t : Bool)
  deriving DecidableEq, Repr

/-! ## Fields of node words (R35 to R40) -/

/-- Element types (R37). -/
inductive Ty where
  | i32 | n32 | i16x2 | n16x2 | i8x4 | n8x4 | f32 | bf16x2 | f16x2 | e4m3x4 | e5m2x4 | b32 | i64x8 | pkt
  deriving DecidableEq, Repr

/-- Operand sources (R36). -/
inductive Src where
  | queue (i : Fin 8)
  | const (k : Fin 8)
  | imm | zero | lane | latch
  deriving DecidableEq, Repr

/-- Rounding modes (R35, R67). -/
inductive Rm where
  | rne | rtz | rdn | rup
  deriving DecidableEq, Repr

/-- Overflow modes (R35, R68). -/
inductive Ov where
  | sat | inf | nan | trap
  deriving DecidableEq, Repr

/-- Valid-bit modes (R35). -/
inductive Vm where
  | conj | a | full | k7
  deriving DecidableEq, Repr

/-- Conditions (R44, R101). -/
inductive Cond where
  | eq | ne | lt | le | ltu | leu | gt | ge
  deriving DecidableEq, Repr

/-- A format N word without its opcode (R35). -/
structure NWord where
  ty : Ty
  sa : Src
  sb : Src
  sc : Src
  out : BitVec 4
  rm : Rm
  ov : Ov
  vm : Vm
  aux : BitVec 5
  wp : Bool
  gp : Bool
  so : Bool
  imm : BitVec 16
  deriving DecidableEq, Repr

/-- Classes of a memory node (R40). -/
inductive Cls where
  | stream | random | ordered
  deriving DecidableEq, Repr

/-- Spaces of a memory node (R40). -/
inductive Space where
  | global | wbuf | abuf | cbuf | window
  deriving DecidableEq, Repr

/-- Memory scopes (R26, R40). -/
inductive Scope where
  | tile | region | cluster | die | package | system
  deriving DecidableEq, Repr

/-- A format M word without its opcode (R40). -/
structure MWord where
  ty : Ty
  sa : Src
  sb : Src
  sc : Src
  out : BitVec 4
  cls : Cls
  space : Space
  aop : BitVec 4
  cpl : Bool
  cplPort : Fin 4
  scope : Scope
  fe : Bool
  imm : BitVec 16
  deriving DecidableEq, Repr

/-! ## Matrix, core, router words -/

/-- The half of the array a control token names (R41). -/
inductive Half where
  | whole | upper | lower
  deriving DecidableEq, Repr

/-- A format X word without its opcode (R41). -/
structure XWord where
  half : Half
  tyab : BitVec 4
  tyc : BitVec 4
  ringa : BitVec 4
  ringb : BitVec 4
  m1 : BitVec 6
  n1 : BitVec 6
  k1 : BitVec 8
  acc : Bool
  ctile : BitVec 6
  ofmt : BitVec 2
  popa : Bool
  popb : Bool
  deriving DecidableEq, Repr

/-- A format C word without its opcode (R44), its immediate widened as R45 says; `long` when a format E word follows. -/
structure CWord where
  long : Bool
  ty : BitVec 4
  xd : Fin 32
  xa : Fin 32
  xb : Fin 32
  aux : BitVec 3
  imm : Word
  deriving DecidableEq, Repr

/-- Data inputs of a router operator (R43): a vector link, PE O0 or O1, or an output of the other operator. -/
inductive RIn where
  | link (d : Dir)
  | o0 | o1 | otherT | otherF
  deriving DecidableEq, Repr

/-- Control inputs of a router operator (R43). -/
inductive RCtl where
  | link (d : Dir)
  | o3
  deriving DecidableEq, Repr

/-- Outputs of a router operator (R43). -/
inductive ROut where
  | link (d : Dir)
  | pe | none
  deriving DecidableEq, Repr

/-! ## What comes from outside -/

/-- A vector token (R9, R74): lanes and header. -/
structure VTok where
  valid : BitVec 16
  wt : Weight
  key : BitVec 16
  kind : BitVec 4
  fmt : BitVec 4
  thr : BitVec 8
  pay : Payload
  deriving DecidableEq, Repr

/-- What a packet of the network engine carries (R393, R398). `msg` is the sender's message number, `off` the byte offset; `bad` names the
64-byte granules of the bytes that are poisoned (R429). An acknowledgement is a bitmap: it names the packets that the endpoint has taken, each by its message
and offset. -/
inductive PacketBody where
  | send (msg : Nat) (tag : BitVec 16) (mlen : Nat) (rod : Bool) (off : Nat) (bytes : List Byte) (bad : List Nat)
  | write (msg : Nat) (raddr : Word) (mlen : Nat) (rod : Bool) (off : Nat) (bytes : List Byte) (bad : List Nat)
  | readRequest (msg : Nat) (raddr : Word) (mlen : Nat) (rod : Bool) (off : Nat)
  | readReturn (msg : Nat) (off : Nat) (bytes : List Byte) (bad : List Nat)
  | ack (pkts : List (Nat × Nat))
  | refuse (msg : Nat) (status : Nat)
  | unsupported
  deriving DecidableEq, Repr

/-- A packet on an Ultra Ethernet port (R393, R394): the addressing that an endpoint checks, the fabric address it is sent to, the security key
that it is protected under, if any, the key (R328) and the body. `plsn` numbers the ROD packets of one endpoint in sequence. -/
structure Packet where
  pid : Nat
  src : BitVec 128
  dst : BitVec 128
  sec : Option Byte
  job : BitVec 24
  pkey : BitVec 12
  plsn : Nat
  trimmed : Bool
  body : PacketBody
  deriving DecidableEq, Repr

/-- What a Yunajor Link flit carries (R389, R392): a request with the device and die that asks, its reply, the post of a collective's
member (OP, TY, RED, COUNT, NRANK; none of these where a member says that the collective has ended in disagreement), a granule of a member's
source (no bytes where it could not be read), a member's word that it has read all it needs, and the link's own acknowledgement of every flit before one and its request for a replay from one. -/
inductive FlitBody where
  | readRequest (id dev : Nat) (die : Fin 4) (pa : Nat)
  | writeRequest (id dev : Nat) (die : Fin 4) (pa : Nat) (bytes : List Byte) (full : Bool)
  | reply (id : Nat) (bytes : List Byte) (full : Bool)
  | join (tag : Word) (rank : Nat) (shape : List Nat)
  | chunk (tag : Word) (rank off : Nat) (bytes : List Byte) (bad : Bool)
  | done (tag : Word) (rank : Nat)
  | ack (seq : Nat)
  | replay (seq : Nat)
  deriving DecidableEq, Repr

/-- A flit (R389): destination device and die, link sequence number, key, body; `crcOk` says whether bytes 0-251 match the CRC. -/
structure Flit where
  dev : Nat
  die : Fin 4
  seq : Nat
  pkey : BitVec 12
  crcOk : Bool
  body : FlitBody
  deriving DecidableEq, Repr

/-- A send to Lodge (R421, R422): low 64 bits of its source fabric address, the die whose port received it, its bytes (header and body). -/
structure LodgeCmd where
  src : Word
  die : Fin 4
  bytes : List Byte
  deriving DecidableEq, Repr

/-- Where the step under way happens. An instruction with a word takes place at the core, slot, router operator, loader or array
that holds the word (R34, R54). A move without a word happens at a link, queue, launch, slice and so on, and some moves bring
something in from outside the package: a parity error, an uncorrectable error in an array's rows, a flit, a packet, a command, a temperature. -/
inductive Place where
  | none
  | core (c : ClusterId)
  | slot (s : SlotId)
  | router (t : TileId) (g : Fin 2)
  | loader (l : LaunchId) (p : Fin 4)
  | array (c : ClusterId) (q : Fin 2)
  | rowError (c : ClusterId) (q : Fin 2)
  | arrayGran (c : ClusterId) (q : Fin 2) (k : Nat)
  | link (t : TileId) (net : Net) (d : Dir) (parity : Parity)
  | source (t : TileId) (src : LocalSrc)
  | queue (q : QueueId)
  | tile (t : TileId)
  | launch (l : LaunchId)
  | thread (l : LaunchId) (thr : BitVec 8)
  | edge (l : LaunchId) (port : Fin 16)
  | access (t : TileId) (id : Nat)
  | landing (t : TileId) (id k : Nat)
  | item (die : Fin 4) (k : Nat)
  | window (s : SliceId) (w : Fin 8)
  | engine (e : EngineId)
  | granule (e : EngineId) (k : Nat)
  | arrival (c : ClusterId) (k : Nat)
  | barrier (c : ClusterId) (b : Fin 512)
  | merged (s : SliceId) (e : Nat)
  | die (d : Fin 4)
  | context (die : Fin 4) (ctx : BitVec 12)
  | port (die : Fin 4) (p : Fin 18) (incoming : Bool)
  | packetOf (die : Fin 4) (wr : Nat) (k : Nat)
  | endpoint (die : Fin 4) (ep : Fin 256)
  | lease (c : ClusterId) (k : Fin 10)
  | register (c : ClusterId) (reg : BitVec 16) (v : Word)
  | flit (die : Fin 4) (port : Fin 16) (f : Flit)
  | packet (die : Fin 4) (port : Fin 2) (p : Packet)
  | command (cmd : LodgeCmd)
  | hostWrite (pa : Nat) (bytes : List Byte)
  | hostRead (pa : Nat) (len : Nat)
  | heat (celsius : Nat)
  | power (ljbase : Word)
  deriving DecidableEq, Repr

/-! ## Opcodes by format (R34, R53) -/

/-- Node operations of format N (R53). -/
inductive NodeOp where
  | mov | ldi | add | sub | adds | subs | mul | mulh | mad | dot4 | min | max | abs | neg | and | or | xor | andn | not
  | shl | shr | sar | rol | clz | ctz | popc | brev | bfx | bfxs | bfi | cmp | sel
  | fadd | fsub | fmul | fma | fms | fnma | fmin | fmax | fabs | fneg | fcps | fcmp | fcls | fdota
  | frcp | frsq | fsqrt | fexp2 | flog2 | ftanh | fsigm
  | cvtup | cvtdn | cvtif | cvtfi | rndi | pack | unpk | scl | cmpr | clen
  | shuf | bcst | lrot | rsum | rmax | rmin | scan | vset | vget | cmpct
  | wget | wset | wmul | gapt | keyg | hdrg | hdrs | win | join | agg
  | bx | bxc | tspawn | tjoin | thalt | dsel | seq | btok | barn | evpost
  | mxn | mseq | radv | rstat
  deriving DecidableEq, Repr

/-- Memory nodes (R40, R53). -/
inductive MemOp where
  | agen | ld | st | ldf | stf | clre | atom | mcast | pref | cjoin | bkgive
  deriving DecidableEq, Repr

/-- Matrix operations (R41, R42). -/
inductive MatOp where
  | mmul | mmult | mzero | mstc | mldc
  deriving DecidableEq, Repr

/-- Control-core operations of format C (R44, R53). -/
inductive CoreOp where
  | nop | mov | ldi | add | sub | adds | subs | mul | mulh | mad | min | max | abs | neg | and | or | xor | andn | not
  | shl | shr | sar | rol | clz | ctz | popc | brev | bfx | bfxs | bfi | cmp | sel | div | divu | rem | remu
  | ld8 | ld16 | ld32 | ld64 | st8 | st16 | st32 | st64 | amo | bc | j | jal | jr | crd | cwr | fence | trap | eret | wfe
  | launch | sbind | sclose | phase | cfgld | cpf | modld | modul | rsw | dselc | evpop | evwait | trel | bara | barw
  | nepost | nepoll | cpypost | colpost | rinv | resid | ctrrd | ctrsel | bpset | mcut
  deriving DecidableEq, Repr

/-- The steps of the machine: one constructor for each row of the opcode table. -/
inductive Instr where
  | beginStream (part : Bool)
  | plane (v : BitVec 16)
  | page (v : BitVec 16)
  | origin (r c : BitVec 5)
  | copies (v : BitVec 16)
  | pc (n : Fin 4) (v : BitVec 16)
  | check (v : BitVec 16)
  | endStream
  | tileCommand (row col : BitVec 5) (fn : BitVec 6) (v : BitVec 16)
  | steer (a : RIn) (c : RCtl) (t f : ROut)
  | carry (a b : RIn) (c : RCtl) (t : ROut)
  | inv (a : RIn) (c : RCtl) (t : ROut)
  | merge (a b : RIn) (c : RCtl) (t : ROut)
  | mov (w : NWord)
  | ldi (w : NWord)
  | add (w : NWord)
  | sub (w : NWord)
  | adds (w : NWord)
  | subs (w : NWord)
  | mul (w : NWord)
  | mulh (w : NWord)
  | mad (w : NWord)
  | dot4 (w : NWord)
  | min (w : NWord)
  | max (w : NWord)
  | abs (w : NWord)
  | neg (w : NWord)
  | and (w : NWord)
  | or (w : NWord)
  | xor (w : NWord)
  | andn (w : NWord)
  | not (w : NWord)
  | shl (w : NWord)
  | shr (w : NWord)
  | sar (w : NWord)
  | rol (w : NWord)
  | clz (w : NWord)
  | ctz (w : NWord)
  | popc (w : NWord)
  | brev (w : NWord)
  | bfx (w : NWord)
  | bfxs (w : NWord)
  | bfi (w : NWord)
  | cmp (w : NWord)
  | sel (w : NWord)
  | nopCore (w : CWord)
  | movCore (w : CWord)
  | ldiCore (w : CWord)
  | addCore (w : CWord)
  | subCore (w : CWord)
  | addsCore (w : CWord)
  | subsCore (w : CWord)
  | mulCore (w : CWord)
  | mulhCore (w : CWord)
  | madCore (w : CWord)
  | minCore (w : CWord)
  | maxCore (w : CWord)
  | absCore (w : CWord)
  | negCore (w : CWord)
  | andCore (w : CWord)
  | orCore (w : CWord)
  | xorCore (w : CWord)
  | andnCore (w : CWord)
  | notCore (w : CWord)
  | shlCore (w : CWord)
  | shrCore (w : CWord)
  | sarCore (w : CWord)
  | rolCore (w : CWord)
  | clzCore (w : CWord)
  | ctzCore (w : CWord)
  | popcCore (w : CWord)
  | brevCore (w : CWord)
  | bfxCore (w : CWord)
  | bfxsCore (w : CWord)
  | bfiCore (w : CWord)
  | cmpCore (w : CWord)
  | selCore (w : CWord)
  | div (w : CWord)
  | divu (w : CWord)
  | rem (w : CWord)
  | remu (w : CWord)
  | fadd (w : NWord)
  | fsub (w : NWord)
  | fmul (w : NWord)
  | fma (w : NWord)
  | fms (w : NWord)
  | fnma (w : NWord)
  | fmin (w : NWord)
  | fmax (w : NWord)
  | fabs (w : NWord)
  | fneg (w : NWord)
  | fcps (w : NWord)
  | fcmp (w : NWord)
  | fcls (w : NWord)
  | fdota (w : NWord)
  | frcp (w : NWord)
  | frsq (w : NWord)
  | fsqrt (w : NWord)
  | fexp2 (w : NWord)
  | flog2 (w : NWord)
  | ftanh (w : NWord)
  | fsigm (w : NWord)
  | cvtup (w : NWord)
  | cvtdn (w : NWord)
  | cvtif (w : NWord)
  | cvtfi (w : NWord)
  | rndi (w : NWord)
  | pack (w : NWord)
  | unpk (w : NWord)
  | scl (w : NWord)
  | cmpr (w : NWord)
  | clen (w : NWord)
  | shuf (w : NWord)
  | bcst (w : NWord)
  | lrot (w : NWord)
  | rsum (w : NWord)
  | rmax (w : NWord)
  | rmin (w : NWord)
  | scan (w : NWord)
  | vset (w : NWord)
  | vget (w : NWord)
  | cmpct (w : NWord)
  | wget (w : NWord)
  | wset (w : NWord)
  | wmul (w : NWord)
  | gapt (w : NWord)
  | keyg (w : NWord)
  | hdrg (w : NWord)
  | hdrs (w : NWord)
  | win (w : NWord)
  | join (w : NWord)
  | agg (w : NWord)
  | bx (w : NWord)
  | bxc (w : NWord)
  | tspawn (w : NWord)
  | tjoin (w : NWord)
  | thalt (w : NWord)
  | dsel (w : NWord)
  | seq (w : NWord)
  | btok (w : NWord)
  | barn (w : NWord)
  | evpost (w : NWord)
  | agen (w : MWord)
  | ld (w : MWord)
  | st (w : MWord)
  | ldf (w : MWord)
  | stf (w : MWord)
  | clre (w : MWord)
  | atom (w : MWord)
  | mcast (w : MWord)
  | pref (w : MWord)
  | cjoin (w : MWord)
  | bkgive (w : MWord)
  | mxn (w : NWord)
  | mseq (w : NWord)
  | radv (w : NWord)
  | rstat (w : NWord)
  | mmul (w : XWord)
  | mmult (w : XWord)
  | mzero (w : XWord)
  | mstc (w : XWord)
  | mldc (w : XWord)
  | ld8 (w : CWord)
  | ld16 (w : CWord)
  | ld32 (w : CWord)
  | ld64 (w : CWord)
  | st8 (w : CWord)
  | st16 (w : CWord)
  | st32 (w : CWord)
  | st64 (w : CWord)
  | amo (w : CWord)
  | bc (w : CWord)
  | j (w : CWord)
  | jal (w : CWord)
  | jr (w : CWord)
  | crd (w : CWord)
  | cwr (w : CWord)
  | fence (w : CWord)
  | trap (w : CWord)
  | eret (w : CWord)
  | wfe (w : CWord)
  | launch (w : CWord)
  | sbind (w : CWord)
  | sclose (w : CWord)
  | phase (w : CWord)
  | cfgld (w : CWord)
  | cpf (w : CWord)
  | modld (w : CWord)
  | modul (w : CWord)
  | rsw (w : CWord)
  | dselc (w : CWord)
  | evpop (w : CWord)
  | evwait (w : CWord)
  | trel (w : CWord)
  | bara (w : CWord)
  | barw (w : CWord)
  | nepost (w : CWord)
  | nepoll (w : CWord)
  | cpypost (w : CWord)
  | colpost (w : CWord)
  | rinv (w : CWord)
  | resid (w : CWord)
  | ctrrd (w : CWord)
  | ctrsel (w : CWord)
  | bpset (w : CWord)
  | mcut (w : CWord)
  | illegal (w : Word)
  | extTarget (w : Word)
  | fetch (addr : Word)
  | reservedStreamCommand (w : BitVec 32)
  | forward
  | localSend
  | arrive
  | gapPlace
  | edgeGateClose
  | edgeGateOpen
  | pkthdrTake
  | loneToken
  | resultComplete
  | qwc
  | threadRetire
  | phaseEnd
  | planeSwitch
  | cfgLoadStart
  | schedulerLoad
  | rswApply
  | launchPlace
  | residencyGateMet
  | inStreamInject
  | outStreamWrite
  | streamComplete
  | perform
  | pageRequestOpen
  | fill
  | writeBack
  | copyStart
  | engineWrite
  | engineDone
  | fixupReplay
  | drain
  | coreRead
  | record
  | eqlost
  | register
  | barrierReport
  | release
  | threadDelivery
  | eventWake
  | waitTimeout
  | matrixOpStart
  | matrixRetire
  | mcastRequest
  | mcastSendStart
  | mcastLineSend
  | mcastLand
  | agenEmit
  | mseqEmit
  | bkgiveSet
  | radvPublish
  | moduleUnload
  | sliceExpiry
  | preempt
  | saveComplete
  | restore
  | restoreComplete
  | watchdog
  | watchdogDrainEnd
  | resetComplete
  | suspend
  | resume
  | reset
  | prectWrite
  | pctlWrite
  | rkbaseWrite
  | guardRewrite
  | mxmodeWrite
  | portGuardReport
  | leaseRequest
  | leaseRelease
  | cutRecord
  | cutDone
  | promotion
  | demotion
  | evaluation
  | exchange
  | pairAbandon
  | mapChange
  | flitReceive
  | collectiveStart
  | workRequestStart
  | scoutPass
  | packetSend
  | packetReceive
  | ackTimer
  | ackReceive
  | retransmitTimeout
  | workRequestComplete
  | lodgeLaunch
  | cstart
  | cstop
  | regwr
  | regrd
  | hostWrite
  | hostRead
  | pstateOn
  | pstateIdle
  | pstateOff
  | trimStepDown
  | trimStepUp
  | thermalLimit
  | thermalShutdown
  | powerOn
  | rgeomWrite
  | rptrClear
  | slareaWrite
  | swinWrite
  | barcfgWrite
  | rangeEntryWrite
  | registerWrite
  | shootdownComplete
  | linkTrainingDone
  | unassignedOp
  deriving DecidableEq, Repr

end Sys2Proof
end

