-- ==== Sys2Proof/Machine/Legal.lean ====
section
/-! DEFINITION. Which field values each instruction may hold (R35 to R45, R93 to R95, R105, R116, R123, R124, R164, R191, R198, R210,
R217, R227, R244, R260, R278, R317, R345, R353, R354, R376, R391, R397), for the loader's checks, the core's ILLEGAL trap and the
matrix node's check. -/
namespace Sys2Proof.Machine

/-- Causes of a CFGERR record (R52), the matrix node's XTOK (R42) among them. -/
inductive CfgCause where
  | opc | field | type | order | range | copies | check | pool | mode | seed | loop | xtok
  deriving DecidableEq, Repr

/-! ## Type sets -/

/-- Type codes, in the order of R37; codes 13 and 14 are reserved. -/
def tyList : List Ty :=
  [.i32, .n32, .i16x2, .n16x2, .i8x4, .n8x4, .f32, .bf16x2, .f16x2, .e4m3x4, .e5m2x4, .b32, .i64x8, .pkt]

/-- Float element types (R57 to R67). -/
def tyFloat : Ty → Bool
  | .f32 | .bf16x2 | .f16x2 | .e4m3x4 | .e5m2x4 => true
  | _ => false

/-- INT of R94. -/
def tysInt : List Ty := [.i32, .n32, .i16x2, .n16x2, .i8x4, .n8x4, .i64x8, .pkt]
/-- SGN of R94. -/
def tysSgn : List Ty := [.i32, .i16x2, .i8x4, .i64x8, .pkt]
/-- BIT of R94. -/
def tysBit : List Ty := [.i32, .n32, .i16x2, .n16x2, .i8x4, .n8x4, .b32, .i64x8, .pkt]
/-- ANY of R94. -/
def tysAny : List Ty := tyList
/-- Q8 of R94. -/
def tysQ8 : List Ty := [.i8x4, .n8x4, .pkt]
/-- NUM of R105. -/
def tysNum : List Ty := [.i32, .n32, .i16x2, .n16x2, .i8x4, .n8x4, .f32, .bf16x2, .f16x2, .e4m3x4, .e5m2x4, .i64x8, .pkt]
/-- FL of R115. -/
def tysFl : List Ty := [.f32, .bf16x2, .f16x2, .e4m3x4, .e5m2x4, .pkt]
/-- FD of R115. -/
def tysFd : List Ty := [.bf16x2, .f16x2, .e4m3x4, .e5m2x4, .pkt]
/-- SF of R115. -/
def tysSf : List Ty := [.f32, .bf16x2, .f16x2, .pkt]
/-- FI of R115. -/
def tysFi : List Ty := [.i32, .n32, .i16x2, .n16x2, .i8x4, .n8x4, .pkt]

/-! ## Node words -/

/-- How an operand field is used: held at ZERO, any source, or a scalar queue I6 or I7. -/
inductive Arg where
  | no | any | ctl
  deriving DecidableEq, Repr

/-- When RM and OV may be nonzero: never, always, on float types (PKT among them), RM alone, or RM with OV SAT or TRAP (CVTFI). -/
inductive RoundUse where
  | no | yes | onFloat | rmOnly | cvtfi
  deriving DecidableEq, Repr

/-- What a node instruction's row of its encoding table allows. -/
structure NRule where
  tys : List Ty
  a : Arg
  b : Arg
  c : Arg
  aux : BitVec 5 := 0
  rnd : RoundUse := .no
  vm : Bool := true
  wp : Bool := true
  gp : Bool := true
  so : Bool := false
  out : BitVec 4 := 15
  imm : BitVec 16 := 0
  deriving DecidableEq, Repr

/-- The encoding tables of the node families (R95, R105, R116, R123, R164, R191, R217). -/
def nodeRule : NodeOp → NRule
  | .mov => { tys := tysAny, a := .any, b := .no, c := .no }
  | .ldi => { tys := tysAny, a := .no, b := .no, c := .no, rnd := .onFloat, imm := 0xFFFF }
  | .add | .sub | .adds | .subs | .mul | .mulh | .min | .max => { tys := tysInt, a := .any, b := .any, c := .no }
  | .mad => { tys := tysInt, a := .any, b := .any, c := .any }
  | .dot4 => { tys := tysQ8, a := .any, b := .any, c := .any, aux := 1 }
  | .abs | .neg => { tys := tysSgn, a := .any, b := .no, c := .no }
  | .and | .or | .xor | .andn | .shl | .shr | .sar | .rol | .bfx | .bfxs => { tys := tysBit, a := .any, b := .any, c := .no }
  | .not | .clz | .ctz | .popc | .brev => { tys := tysBit, a := .any, b := .no, c := .no }
  | .bfi => { tys := tysBit, a := .any, b := .any, c := .any }
  | .cmp => { tys := tysBit, a := .any, b := .any, c := .no, aux := 7 }
  | .sel => { tys := tysAny, a := .any, b := .any, c := .any }
  | .fadd | .fsub | .fmul => { tys := tysFl, a := .any, b := .any, c := .no, rnd := .yes }
  | .fma | .fms | .fnma => { tys := tysFl, a := .any, b := .any, c := .any, rnd := .yes }
  | .fmin | .fmax | .fcps => { tys := tysFl, a := .any, b := .any, c := .no }
  | .fabs | .fneg | .fcls => { tys := tysFl, a := .any, b := .no, c := .no }
  | .fcmp => { tys := tysFl, a := .any, b := .any, c := .no, aux := 7 }
  | .fdota => { tys := tysFd, a := .any, b := .any, c := .any, rnd := .yes }
  | .frcp | .frsq | .fsqrt | .fexp2 | .flog2 | .ftanh | .fsigm => { tys := tysSf, a := .any, b := .no, c := .no, rnd := .yes }
  | .cvtup => { tys := [.bf16x2, .f16x2, .e4m3x4, .e5m2x4, .pkt], a := .any, b := .no, c := .no, vm := false, imm := 0x3F }
  | .cvtdn => { tys := [.f32, .bf16x2, .f16x2, .pkt], a := .any, b := .any, c := .no, aux := 3, rnd := .yes, vm := false, so := true, imm := 0x3F }
  | .cvtif => { tys := tysFi, a := .any, b := .no, c := .no, rnd := .yes, imm := 0xF }
  | .cvtfi => { tys := tysFl, a := .any, b := .no, c := .no, rnd := .cvtfi, imm := 0xF }
  | .rndi => { tys := tysFl, a := .any, b := .no, c := .no, rnd := .rmOnly }
  | .pack => { tys := [.i32, .n32, .i16x2, .n16x2, .pkt], a := .any, b := .any, c := .no, aux := 1, vm := false }
  | .unpk => { tys := [.i16x2, .n16x2, .i8x4, .n8x4, .pkt], a := .any, b := .no, c := .no, vm := false, imm := 1 }
  | .scl => { tys := tysFl, a := .any, b := .no, c := .no, aux := 1, rnd := .yes, imm := 0xFFFF }
  | .cmpr => { tys := [.e4m3x4, .e5m2x4, .pkt], a := .any, b := .no, c := .no, vm := false, out := 3 }
  | .clen => { tys := [.e4m3x4, .e5m2x4, .pkt], a := .any, b := .no, c := .no, vm := false }
  | .shuf => { tys := tysAny, a := .any, b := .any, c := .no, aux := 7, vm := false }
  | .bcst | .vget => { tys := tysAny, a := .any, b := .no, c := .no, vm := false, imm := 0xF }
  | .vset => { tys := tysAny, a := .any, b := .any, c := .no, vm := false, imm := 0xF }
  | .lrot => { tys := tysAny, a := .any, b := .any, c := .no, aux := 1, vm := false, imm := 0xF }
  | .rsum => { tys := tysNum, a := .any, b := .no, c := .no, aux := 1, rnd := .onFloat, vm := false }
  | .rmax | .rmin => { tys := tysNum, a := .any, b := .no, c := .no, vm := false }
  | .scan => { tys := tysNum, a := .any, b := .no, c := .no, aux := 3, rnd := .onFloat, vm := false }
  | .cmpct => { tys := tysAny, a := .any, b := .any, c := .no, aux := 3, vm := false, so := true }
  | .wget => { tys := [.f32], a := .any, b := .no, c := .no }
  | .wset | .wmul => { tys := [.b32], a := .any, b := .any, c := .no, wp := false }
  | .gapt => { tys := [.b32], a := .any, b := .no, c := .no, vm := false, gp := false }
  | .keyg => { tys := [.n32], a := .any, b := .no, c := .no, vm := false }
  | .hdrg => { tys := [.b32], a := .any, b := .no, c := .no, vm := false }
  | .hdrs => { tys := [.b32], a := .any, b := .any, c := .no, aux := 3, wp := false, imm := 0xFFFF }
  | .win => { tys := [.b32], a := .any, b := .no, c := .no, vm := false, wp := false, gp := false, imm := 0xFFFF }
  | .join => { tys := [.f32, .b32], a := .any, b := .any, c := .no, aux := 3, rnd := .onFloat, vm := false, wp := false, gp := false, out := 3 }
  | .agg => { tys := [.f32], a := .any, b := .no, c := .no, aux := 3, rnd := .onFloat, vm := false, wp := false, gp := false }
  | .bx => { tys := [.b32], a := .any, b := .no, c := .no, aux := 31, vm := false, wp := false, gp := false, out := 0, imm := 0xFFFF }
  | .bxc => { tys := [.b32], a := .ctl, b := .no, c := .no, aux := 31, vm := false, wp := false, gp := false, out := 0, imm := 0xFFFF }
  | .tspawn => { tys := [.b32], a := .any, b := .any, c := .any, aux := 15, vm := false, wp := false, gp := false, out := 4, imm := 0xFFFF }
  | .tjoin | .thalt => { tys := [.b32], a := .any, b := .no, c := .no, vm := false, wp := false, gp := false, out := 0 }
  | .dsel => { tys := [.i32], a := .any, b := .no, c := .no, vm := false, wp := false, gp := false, out := 0 }
  | .seq => { tys := [.b32], a := .any, b := .any, c := .any, aux := 7, vm := false, wp := false, gp := false, imm := 0xFF00 }
  | .btok => { tys := [.b32], a := .any, b := .no, c := .no, vm := false, wp := false, gp := false, out := 3, imm := 0xFFFF }
  | .barn => { tys := [.b32], a := .any, b := .no, c := .no, vm := false, wp := false, gp := false, imm := 0x1FF }
  | .evpost => { tys := [.b32], a := .any, b := .no, c := .no, vm := false, wp := false, gp := false, out := 0, imm := 0xFFFF }
  | .mxn => { tys := [.b32], a := .ctl, b := .no, c := .no, aux := 3, vm := false, wp := false, gp := false }
  | .mseq => { tys := [.b32], a := .any, b := .any, c := .any, aux := 3, vm := false, wp := false, gp := false, out := 4 }
  | .radv => { tys := [.b32], a := .any, b := .no, c := .no, aux := 31, vm := false, wp := false, gp := false, imm := 0xFFFF }
  | .rstat => { tys := [.b32], a := .any, b := .no, c := .no, aux := 15, vm := false, wp := false, gp := false }

/-- R124: how many parts a source and "to" pair has, by instruction; none where the pair is not allowed. -/
def cvtParts (op : NodeOp) (src dst : Ty) : Option Nat :=
  match op, src, dst with
  | .cvtup, .e4m3x4, .f32 | .cvtup, .e5m2x4, .f32 => some 4
  | .cvtup, .e4m3x4, .bf16x2 | .cvtup, .e4m3x4, .f16x2 | .cvtup, .e5m2x4, .bf16x2 | .cvtup, .e5m2x4, .f16x2 => some 2
  | .cvtup, .bf16x2, .f32 | .cvtup, .f16x2, .f32 => some 2
  | .cvtdn, .f32, .e4m3x4 | .cvtdn, .f32, .e5m2x4 => some 4
  | .cvtdn, .f32, .bf16x2 | .cvtdn, .f32, .f16x2 => some 2
  | .cvtdn, .bf16x2, .e4m3x4 | .cvtdn, .bf16x2, .e5m2x4 | .cvtdn, .f16x2, .e4m3x4 | .cvtdn, .f16x2, .e5m2x4 => some 2
  | .cvtif, .i32, .f32 | .cvtif, .n32, .f32 => some 1
  | .cvtif, .i16x2, .bf16x2 | .cvtif, .i16x2, .f16x2 | .cvtif, .n16x2, .bf16x2 | .cvtif, .n16x2, .f16x2 => some 1
  | .cvtif, .i8x4, .e4m3x4 | .cvtif, .i8x4, .e5m2x4 | .cvtif, .n8x4, .e4m3x4 | .cvtif, .n8x4, .e5m2x4 => some 1
  | .cvtfi, .f32, .i32 | .cvtfi, .f32, .n32 => some 1
  | .cvtfi, .bf16x2, .i16x2 | .cvtfi, .bf16x2, .n16x2 | .cvtfi, .f16x2, .i16x2 | .cvtfi, .f16x2, .n16x2 => some 1
  | .cvtfi, .e4m3x4, .i8x4 | .cvtfi, .e4m3x4, .n8x4 | .cvtfi, .e5m2x4, .i8x4 | .cvtfi, .e5m2x4, .n8x4 => some 1
  | _, _, _ => none

/-- The type a four-bit code names (R37); 13 and 14 are reserved. -/
def tyOfCode (c : BitVec 4) : Option Ty :=
  match c.toNat with
  | 0 => some .i32 | 1 => some .n32 | 2 => some .i16x2 | 3 => some .n16x2 | 4 => some .i8x4 | 5 => some .n8x4 | 6 => some .f32
  | 7 => some .bf16x2 | 8 => some .f16x2 | 9 => some .e4m3x4 | 10 => some .e5m2x4 | 11 => some .b32 | 12 => some .i64x8 | 15 => some .pkt
  | _ => none

/-- R123, R124: the check of a conversion's "to" code and part against a source type, or, for PKT, against all sources of the row:
TYPE when no pair allows the code, FIELD when the part lies beyond the column. -/
def cvtCheck (op : NodeOp) (src : Ty) (imm : BitVec 16) : Option CfgCause :=
  let srcs := if src = .pkt then (nodeRule op).tys else [src]
  match tyOfCode (imm.extractLsb' 0 4) with
  | none => some .type
  | some dst =>
    let ps := srcs.filterMap fun t => cvtParts op t dst
    if ps = [] then some .type
    else if ps.any fun p => (imm.extractLsb' 4 2).toNat < p then none else some .field

/-- An operand field matches its column. -/
def argOk (a : Arg) (s : Src) : Bool :=
  match a, s with
  | .no, s => s = .zero
  | .any, _ => true
  | .ctl, s => s = .queue 6 || s = .queue 7

/-- R36: an odd constant is reserved with I64x8, and IMM16 with PKT. -/
def srcOk (ty : Ty) (s : Src) : Bool :=
  match s with
  | .const k => !(ty = .i64x8 && k.val % 2 = 1)
  | .imm => ty ≠ .pkt
  | _ => true

/-- RM and OV are zero where the row does not use them (R35). -/
def roundOk (u : RoundUse) (ty : Ty) (rm : Rm) (ov : Ov) : Bool :=
  match u with
  | .no => rm = .rne && ov = .sat
  | .yes => true
  | .onFloat => (tyFloat ty || ty = .pkt) || (rm = .rne && ov = .sat)
  | .rmOnly => ov = .sat
  | .cvtfi => ov = .sat || ov = .trap

/-- The conditions single entries add to their rows. -/
def nodeExtra (op : NodeOp) (w : NWord) : Bool :=
  match op with
  | .shuf => w.aux.toNat ≤ 5 && (w.aux = 0 || w.sb = .zero)
  | .bcst | .vset | .vget => w.ty ≠ .i64x8 || w.imm.toNat ≤ 7
  | .lrot => w.sb = .zero || w.imm = 0
  | .scan => w.aux ≠ 3 && (w.aux = 0 || (w.rm = .rne && w.ov = .sat))
  | .cmpct | .cvtdn => w.so || w.aux = 0
  | .scl => w.aux = 0 || (w.ty = .pkt && (match w.sa with | .queue i => i.val ≤ 5 | _ => false))
  | .hdrs => w.aux ≠ 3 && (w.aux ≠ 1 || w.sb = .zero) && (w.aux = 1 || w.imm = 0 || [w.sa, w.sb].contains .imm)
  | .win => w.imm ≠ 0
  | .join => w.aux ≠ 3 && (w.out = 3 || (w.out = 1 && w.aux = 1))
  | .agg => w.aux.toNat < 2 || (w.rm = .rne && w.ov = .sat)
  | .bx | .bxc | .tspawn => w.aux.getLsbD 0 = false || (w.aux.getLsbD 3 = false && w.imm = 0)
  | .seq => w.aux.extractLsb' 0 2 ≠ 3 && decide ((w.aux.extractLsb' 0 2 = 1) ↔ (w.imm.extractLsb' 8 8 ≠ 0))
      && (w.aux.extractLsb' 0 2 ≠ 2 || w.sb = .zero)
  | .mxn => w.aux.extractLsb' 0 2 ≠ 3
  | .mseq => w.aux.extractLsb' 0 2 ≠ 3 && w.out = 4
  | .radv => 1 ≤ w.imm.toNat && w.imm.toNat ≤ 32768
  | _ => true

/-- Whether a source that names IMM16 uses all its bits (R35, R95, R116, R123, R164; log 13). R105, R191 and R217 give their rows' IMM16
column no such case: any other value there is rejected. -/
def immNamed : NodeOp → Bool
  | .shuf | .bcst | .lrot | .rsum | .rmax | .rmin | .scan | .vset | .vget | .cmpct => false
  | .bx | .bxc | .tspawn | .tjoin | .thalt | .dsel | .seq | .btok | .barn | .evpost | .mxn | .mseq | .radv | .rstat => false
  | _ => true

/-- The loader's check of a node word (R52, R56): TYPE for the type, FIELD for any other field. -/
def nodeCheck (op : NodeOp) (w : NWord) : Option CfgCause :=
  let r := nodeRule op
  if ¬ r.tys.contains w.ty then some .type
  else if ¬ (argOk r.a w.sa && argOk r.b w.sb && argOk r.c w.sc
      && srcOk w.ty w.sa && srcOk w.ty w.sb && srcOk w.ty w.sc
      && (w.aux &&& ~~~r.aux) = 0 && (w.out &&& ~~~r.out) = 0
      && roundOk r.rnd w.ty w.rm w.ov && (r.vm || w.vm = .conj) && (r.wp || !w.wp) && (r.gp || !w.gp) && (r.so || !w.so)
      && ((w.imm &&& ~~~r.imm) = 0 || (immNamed op && [w.sa, w.sb, w.sc].contains .imm)) && nodeExtra op w) then some .field
  else match op with
    | .cvtup | .cvtdn | .cvtif | .cvtfi => cvtCheck op w.ty w.imm
    | _ => none

/-! ## Memory nodes -/

/-- A source that names one of the vector queues. -/
def srcVec (s : Src) : Bool := match s with | .queue i => i.val ≤ 5 | _ => false
/-- A source that names one of the scalar queues. -/
def srcSca (s : Src) : Bool := match s with | .queue i => 6 ≤ i.val | _ => false
/-- A source that names a queue. -/
def srcQueue (s : Src) : Bool := match s with | .queue _ => true | _ => false
/-- A queue or ZERO. -/
def srcOpt (s : Src) : Bool := srcQueue s || s = .zero

/-- R251: the types an ATOM sub-operation takes. -/
def atomTys (aop : BitVec 4) : List Ty :=
  match aop.toNat with
  | 0 => [.i32, .n32, .i16x2, .n16x2, .i8x4, .n8x4, .i64x8]
  | 1 => [.f32, .bf16x2, .f16x2]
  | 2 | 3 => [.i32, .n32, .i16x2, .n16x2, .i8x4, .n8x4, .f32, .bf16x2, .f16x2, .i64x8]
  | 4 | 5 | 6 => [.b32]
  | 7 | 8 => tyList.filter (· ≠ .pkt)
  | _ => []

/-- The types of a memory node's TY column (R210, R244). -/
def memTys (op : MemOp) (aop : BitVec 4) : List Ty :=
  match op with
  | .agen => [.i64x8]
  | .ld | .st | .ldf | .stf => tyList.filter (· ≠ .pkt)
  | .atom => atomTys aop
  | .clre | .mcast | .pref | .cjoin | .bkgive => [.b32]

/-- The other columns of R210 and R244 (with R242 for STREAM and R247 for AGEN's bank gate). -/
def memFields (op : MemOp) (w : MWord) : Bool :=
  let addr := srcSca w.sa
  let cls12 := w.cls ≠ .stream
  let glw := w.space ≠ .window && w.space ≠ .cbuf
  let plain := w.aop = 0
  (w.cpl || w.cplPort = 0) &&
  match op with
  | .agen => addr && (w.sb = .zero || srcSca w.sb) && w.sc = .zero && w.cls = .stream && plain && !w.cpl && w.scope = .tile
      && (!w.fe || w.space = .wbuf || w.space = .abuf)
  | .ld => addr && w.sb = .zero && srcOpt w.sc && (cls12 || w.space = .global) && plain && !w.fe
  | .st => addr && srcVec w.sb && srcOpt w.sc && w.out = 0 && (cls12 || w.space = .global) && plain && !w.fe
  | .ldf => addr && w.sb = .zero && srcOpt w.sc && cls12 && w.space ≠ .window && plain
  | .stf => addr && srcVec w.sb && srcOpt w.sc && w.out = 0 && cls12 && glw && plain && !w.fe
  | .clre => addr && w.sb = .zero && srcOpt w.sc && w.out = 0 && cls12 && glw && plain && !w.fe
  | .atom => addr && srcVec w.sb && (if w.aop = 8 then srcVec w.sc else srcOpt w.sc) && w.cls = .ordered && w.space = .global
      && w.aop.toNat ≤ 8 && !w.fe
  | .mcast => addr && (srcSca w.sb || [Src.const 0, .const 2, .const 4, .const 6].contains w.sb) && srcOpt w.sc && w.out = 0
      && w.cls = .random && (w.space = .wbuf || w.space = .abuf) && w.aop.toNat ≤ 3 && w.scope = .cluster && !w.fe
  | .pref => addr && w.sb = .zero && srcOpt w.sc && w.out = 0 && w.cls = .random && w.space = .global && plain && !w.fe
  | .cjoin => srcQueue w.sa && srcOpt w.sb && srcOpt w.sc && w.cls = .random && w.space = .global && plain && !w.cpl
      && w.scope = .tile && !w.fe && w.imm ≠ 0
  | .bkgive => w.sb = .zero && w.sc = .zero && w.out = 0 && w.cls = .random && (w.space = .wbuf || w.space = .abuf) && plain
      && w.scope = .cluster && !w.fe && w.imm.toNat < 16

/-- The loader's check of a memory node's word: TYPE where the value is in TY (R244), but R210 gives every field of BKGIVE the cause FIELD. -/
def memCheck (op : MemOp) (w : MWord) : Option CfgCause :=
  if ¬ (memTys op w.aop).contains w.ty ∧ ¬ (op = .atom ∧ 8 < w.aop.toNat) then some (if op = .bkgive then .field else .type)
  else if ¬ memFields op w then some .field else none

/-! ## Core words -/

/-- How a core instruction uses IMM32: not at all, as an immediate (L = 1 legal), as an immediate with L = 0, or as a mask of bits. -/
inductive ImmUse where
  | no | wide | word | bits (m : BitVec 32)
  deriving DecidableEq, Repr

/-- A core instruction's row: registers used, TY and AUX limits (values below the bound, AUX from its lower bound), immediate. -/
structure CRule where
  d : Bool
  a : Bool
  b : Bool
  ty : Nat := 1
  auxLo : Nat := 0
  aux : Nat := 1
  imm : ImmUse
  deriving DecidableEq, Repr

/-- The encoding tables of the core's instructions (R95, R198, R227, R260, R278, R317, R345, R353, R354, R376, R391, R397). -/
def coreRule : CoreOp → CRule
  | .nop => ⟨false, false, false, 1, 0, 1, .no⟩
  | .mov | .abs | .neg | .not | .clz | .ctz | .popc | .brev => ⟨true, true, false, 1, 0, 1, .no⟩
  | .ldi => ⟨true, false, true, 1, 0, 1, .wide⟩
  | .add | .sub | .adds | .subs | .mul | .mulh | .mad | .min | .max | .and | .or | .xor | .andn | .shl | .shr | .sar | .rol
  | .bfx | .bfxs | .bfi | .sel | .div | .divu | .rem | .remu => ⟨true, true, true, 1, 0, 1, .wide⟩
  | .cmp => ⟨true, true, true, 1, 0, 8, .wide⟩
  | .ld8 | .ld16 | .ld32 => ⟨true, true, false, 2, 0, 1, .wide⟩
  | .ld64 => ⟨true, true, false, 1, 0, 1, .wide⟩
  | .st8 | .st16 | .st32 | .st64 => ⟨false, true, true, 1, 0, 1, .wide⟩
  | .amo => ⟨true, true, true, 10, 0, 1, .wide⟩
  | .bc => ⟨false, true, true, 1, 0, 8, .wide⟩
  | .j => ⟨false, false, false, 1, 0, 1, .wide⟩
  | .jal => ⟨true, false, false, 1, 0, 1, .wide⟩
  | .jr => ⟨true, true, false, 1, 0, 1, .wide⟩
  | .crd => ⟨true, false, true, 1, 0, 1, .wide⟩
  | .cwr => ⟨false, true, true, 1, 0, 1, .wide⟩
  | .fence => ⟨false, false, false, 1, 1, 6, .no⟩
  | .trap => ⟨false, false, false, 1, 0, 1, .wide⟩
  | .eret => ⟨false, false, false, 1, 0, 1, .no⟩
  | .wfe | .evwait => ⟨true, false, false, 1, 0, 1, .wide⟩
  | .launch => ⟨true, true, true, 1, 0, 1, .wide⟩
  | .sbind => ⟨true, true, true, 1, 0, 1, .no⟩
  | .sclose => ⟨true, true, false, 1, 0, 1, .bits 0xF⟩
  | .phase => ⟨true, true, false, 1, 0, 1, .bits 1⟩
  | .cfgld => ⟨true, true, true, 1, 0, 1, .bits 3⟩
  | .cpf => ⟨false, true, false, 1, 0, 1, .bits 1⟩
  | .modld | .modul | .nepost | .nepoll | .cpypost | .colpost => ⟨true, true, false, 1, 0, 1, .no⟩
  | .rsw => ⟨true, true, true, 1, 0, 1, .bits 3⟩
  | .dselc => ⟨true, true, false, 1, 0, 1, .bits 3⟩
  | .evpop => ⟨true, true, false, 1, 0, 1, .wide⟩
  | .trel => ⟨true, false, true, 1, 0, 1, .bits 1⟩
  | .bara => ⟨true, false, true, 1, 0, 1, .wide⟩
  | .barw => ⟨true, true, true, 1, 0, 1, .wide⟩
  | .rinv => ⟨true, false, true, 1, 0, 1, .wide⟩
  | .resid => ⟨true, true, true, 1, 0, 1, .bits 3⟩
  | .ctrrd => ⟨true, false, true, 1, 0, 1, .wide⟩
  | .ctrsel => ⟨true, true, true, 1, 0, 1, .wide⟩
  | .bpset => ⟨true, true, true, 1, 0, 1, .word⟩
  | .mcut => ⟨true, true, true, 1, 0, 1, .bits 0xFF03FFFF⟩

/-- An immediate that the word holds without an extension: IMM32 sign-extended (R44). -/
def immShort (w : Word) : Bool := (w.setWidth 32).signExtend 64 = w

/-- R56 on the core: false means ILLEGAL. -/
def coreOk (op : CoreOp) (w : CWord) : Bool :=
  let r := coreRule op
  (r.d || w.xd = 0) && (r.a || w.xa = 0) && (r.b || w.xb = 0) && w.ty.toNat < r.ty && r.auxLo ≤ w.aux.toNat && w.aux.toNat < r.aux
  && (match r.imm with
      | .no => !w.long && w.imm = 0
      | .wide => w.long || immShort w.imm
      | .word => !w.long && immShort w.imm
      | .bits m => !w.long && immShort w.imm && (w.imm.setWidth 32 &&& ~~~m) = 0)
  && (match op with
      | .resid => w.imm.extractLsb' 0 2 ≠ 3
      | .mcut => w.imm.extractLsb' 16 2 ≠ 3
      | _ => true)

/-! ## Matrix control tokens and router words -/

/-- R41, R42: the check the matrix node makes of a control token. -/
def matrixOk (op : MatOp) (w : XWord) : Bool :=
  let ab := [4, 5, 7, 8, 9, 10].contains w.tyab.toNat
  let c := w.tyc = 6 || w.tyc = 0
  let rows := w.half = .whole || w.m1.toNat ≤ 31
  let noK := w.k1 = 0 && !w.acc
  match op with
  | .mmul | .mmult => ab && (w.tyc = if w.tyab.toNat ≤ 5 then 0 else 6) && 8 ≤ w.ringa.toNat && w.ringb.toNat ≤ 7 && rows && w.ofmt = 0
  | .mzero => w.tyab = 0 && c && w.ringa = 0 && w.ringb = 0 && rows && noK && w.ofmt = 0 && !w.popa && !w.popb
  | .mstc => w.tyab = 0 && c && 8 ≤ w.ringa.toNat && w.ringb = 0 && rows && noK && !w.popb
  | .mldc => w.tyab = 0 && c && 8 ≤ w.ringa.toNat && w.ringb = 0 && rows && noK && w.ofmt = 0 && !w.popb

end Sys2Proof.Machine
end

