-- ==== Sys2Proof/Machine/Opcodes.lean ====
section
/-! DEFINITION. The words behind the instructions: which format and opcode a constructor of Instr stands for, and the opcodes of
R53, both ways. -/
namespace Sys2Proof

/-- The word an instruction stands for, by format (R34); a move of the machine stands for none. -/
inductive View where
  | node (op : NodeOp) (w : NWord)
  | mem (op : MemOp) (w : MWord)
  | matrix (op : MatOp) (w : XWord)
  | core (op : CoreOp) (w : CWord)
  | other
  deriving DecidableEq, Repr

namespace Machine

/-- The instruction of a node word. -/
def nodeInstr : NodeOp → NWord → Instr
  | .mov, w => .mov w
  | .ldi, w => .ldi w
  | .add, w => .add w
  | .sub, w => .sub w
  | .adds, w => .adds w
  | .subs, w => .subs w
  | .mul, w => .mul w
  | .mulh, w => .mulh w
  | .mad, w => .mad w
  | .dot4, w => .dot4 w
  | .min, w => .min w
  | .max, w => .max w
  | .abs, w => .abs w
  | .neg, w => .neg w
  | .and, w => .and w
  | .or, w => .or w
  | .xor, w => .xor w
  | .andn, w => .andn w
  | .not, w => .not w
  | .shl, w => .shl w
  | .shr, w => .shr w
  | .sar, w => .sar w
  | .rol, w => .rol w
  | .clz, w => .clz w
  | .ctz, w => .ctz w
  | .popc, w => .popc w
  | .brev, w => .brev w
  | .bfx, w => .bfx w
  | .bfxs, w => .bfxs w
  | .bfi, w => .bfi w
  | .cmp, w => .cmp w
  | .sel, w => .sel w
  | .fadd, w => .fadd w
  | .fsub, w => .fsub w
  | .fmul, w => .fmul w
  | .fma, w => .fma w
  | .fms, w => .fms w
  | .fnma, w => .fnma w
  | .fmin, w => .fmin w
  | .fmax, w => .fmax w
  | .fabs, w => .fabs w
  | .fneg, w => .fneg w
  | .fcps, w => .fcps w
  | .fcmp, w => .fcmp w
  | .fcls, w => .fcls w
  | .fdota, w => .fdota w
  | .frcp, w => .frcp w
  | .frsq, w => .frsq w
  | .fsqrt, w => .fsqrt w
  | .fexp2, w => .fexp2 w
  | .flog2, w => .flog2 w
  | .ftanh, w => .ftanh w
  | .fsigm, w => .fsigm w
  | .cvtup, w => .cvtup w
  | .cvtdn, w => .cvtdn w
  | .cvtif, w => .cvtif w
  | .cvtfi, w => .cvtfi w
  | .rndi, w => .rndi w
  | .pack, w => .pack w
  | .unpk, w => .unpk w
  | .scl, w => .scl w
  | .cmpr, w => .cmpr w
  | .clen, w => .clen w
  | .shuf, w => .shuf w
  | .bcst, w => .bcst w
  | .lrot, w => .lrot w
  | .rsum, w => .rsum w
  | .rmax, w => .rmax w
  | .rmin, w => .rmin w
  | .scan, w => .scan w
  | .vset, w => .vset w
  | .vget, w => .vget w
  | .cmpct, w => .cmpct w
  | .wget, w => .wget w
  | .wset, w => .wset w
  | .wmul, w => .wmul w
  | .gapt, w => .gapt w
  | .keyg, w => .keyg w
  | .hdrg, w => .hdrg w
  | .hdrs, w => .hdrs w
  | .win, w => .win w
  | .join, w => .join w
  | .agg, w => .agg w
  | .bx, w => .bx w
  | .bxc, w => .bxc w
  | .tspawn, w => .tspawn w
  | .tjoin, w => .tjoin w
  | .thalt, w => .thalt w
  | .dsel, w => .dsel w
  | .seq, w => .seq w
  | .btok, w => .btok w
  | .barn, w => .barn w
  | .evpost, w => .evpost w
  | .mxn, w => .mxn w
  | .mseq, w => .mseq w
  | .radv, w => .radv w
  | .rstat, w => .rstat w

/-- The instruction of a memory node's word. -/
def memInstr : MemOp → MWord → Instr
  | .agen, w => .agen w
  | .ld, w => .ld w
  | .st, w => .st w
  | .ldf, w => .ldf w
  | .stf, w => .stf w
  | .clre, w => .clre w
  | .atom, w => .atom w
  | .mcast, w => .mcast w
  | .pref, w => .pref w
  | .cjoin, w => .cjoin w
  | .bkgive, w => .bkgive w

/-- The instruction of a matrix control token. -/
def matInstr : MatOp → XWord → Instr
  | .mmul, w => .mmul w
  | .mmult, w => .mmult w
  | .mzero, w => .mzero w
  | .mstc, w => .mstc w
  | .mldc, w => .mldc w

/-- The instruction of a core word. -/
def coreInstr : CoreOp → CWord → Instr
  | .nop, w => .nopCore w
  | .mov, w => .movCore w
  | .ldi, w => .ldiCore w
  | .add, w => .addCore w
  | .sub, w => .subCore w
  | .adds, w => .addsCore w
  | .subs, w => .subsCore w
  | .mul, w => .mulCore w
  | .mulh, w => .mulhCore w
  | .mad, w => .madCore w
  | .min, w => .minCore w
  | .max, w => .maxCore w
  | .abs, w => .absCore w
  | .neg, w => .negCore w
  | .and, w => .andCore w
  | .or, w => .orCore w
  | .xor, w => .xorCore w
  | .andn, w => .andnCore w
  | .not, w => .notCore w
  | .shl, w => .shlCore w
  | .shr, w => .shrCore w
  | .sar, w => .sarCore w
  | .rol, w => .rolCore w
  | .clz, w => .clzCore w
  | .ctz, w => .ctzCore w
  | .popc, w => .popcCore w
  | .brev, w => .brevCore w
  | .bfx, w => .bfxCore w
  | .bfxs, w => .bfxsCore w
  | .bfi, w => .bfiCore w
  | .cmp, w => .cmpCore w
  | .sel, w => .selCore w
  | .div, w => .div w
  | .divu, w => .divu w
  | .rem, w => .rem w
  | .remu, w => .remu w
  | .ld8, w => .ld8 w
  | .ld16, w => .ld16 w
  | .ld32, w => .ld32 w
  | .ld64, w => .ld64 w
  | .st8, w => .st8 w
  | .st16, w => .st16 w
  | .st32, w => .st32 w
  | .st64, w => .st64 w
  | .amo, w => .amo w
  | .bc, w => .bc w
  | .j, w => .j w
  | .jal, w => .jal w
  | .jr, w => .jr w
  | .crd, w => .crd w
  | .cwr, w => .cwr w
  | .fence, w => .fence w
  | .trap, w => .trap w
  | .eret, w => .eret w
  | .wfe, w => .wfe w
  | .launch, w => .launch w
  | .sbind, w => .sbind w
  | .sclose, w => .sclose w
  | .phase, w => .phase w
  | .cfgld, w => .cfgld w
  | .cpf, w => .cpf w
  | .modld, w => .modld w
  | .modul, w => .modul w
  | .rsw, w => .rsw w
  | .dselc, w => .dselc w
  | .evpop, w => .evpop w
  | .evwait, w => .evwait w
  | .trel, w => .trel w
  | .bara, w => .bara w
  | .barw, w => .barw w
  | .nepost, w => .nepost w
  | .nepoll, w => .nepoll w
  | .cpypost, w => .cpypost w
  | .colpost, w => .colpost w
  | .rinv, w => .rinv w
  | .resid, w => .resid w
  | .ctrrd, w => .ctrrd w
  | .ctrsel, w => .ctrsel w
  | .bpset, w => .bpset w
  | .mcut, w => .mcut w

/-- The word behind an instruction. -/
def view : Instr → View
  | .mov w => .node .mov w
  | .ldi w => .node .ldi w
  | .add w => .node .add w
  | .sub w => .node .sub w
  | .adds w => .node .adds w
  | .subs w => .node .subs w
  | .mul w => .node .mul w
  | .mulh w => .node .mulh w
  | .mad w => .node .mad w
  | .dot4 w => .node .dot4 w
  | .min w => .node .min w
  | .max w => .node .max w
  | .abs w => .node .abs w
  | .neg w => .node .neg w
  | .and w => .node .and w
  | .or w => .node .or w
  | .xor w => .node .xor w
  | .andn w => .node .andn w
  | .not w => .node .not w
  | .shl w => .node .shl w
  | .shr w => .node .shr w
  | .sar w => .node .sar w
  | .rol w => .node .rol w
  | .clz w => .node .clz w
  | .ctz w => .node .ctz w
  | .popc w => .node .popc w
  | .brev w => .node .brev w
  | .bfx w => .node .bfx w
  | .bfxs w => .node .bfxs w
  | .bfi w => .node .bfi w
  | .cmp w => .node .cmp w
  | .sel w => .node .sel w
  | .fadd w => .node .fadd w
  | .fsub w => .node .fsub w
  | .fmul w => .node .fmul w
  | .fma w => .node .fma w
  | .fms w => .node .fms w
  | .fnma w => .node .fnma w
  | .fmin w => .node .fmin w
  | .fmax w => .node .fmax w
  | .fabs w => .node .fabs w
  | .fneg w => .node .fneg w
  | .fcps w => .node .fcps w
  | .fcmp w => .node .fcmp w
  | .fcls w => .node .fcls w
  | .fdota w => .node .fdota w
  | .frcp w => .node .frcp w
  | .frsq w => .node .frsq w
  | .fsqrt w => .node .fsqrt w
  | .fexp2 w => .node .fexp2 w
  | .flog2 w => .node .flog2 w
  | .ftanh w => .node .ftanh w
  | .fsigm w => .node .fsigm w
  | .cvtup w => .node .cvtup w
  | .cvtdn w => .node .cvtdn w
  | .cvtif w => .node .cvtif w
  | .cvtfi w => .node .cvtfi w
  | .rndi w => .node .rndi w
  | .pack w => .node .pack w
  | .unpk w => .node .unpk w
  | .scl w => .node .scl w
  | .cmpr w => .node .cmpr w
  | .clen w => .node .clen w
  | .shuf w => .node .shuf w
  | .bcst w => .node .bcst w
  | .lrot w => .node .lrot w
  | .rsum w => .node .rsum w
  | .rmax w => .node .rmax w
  | .rmin w => .node .rmin w
  | .scan w => .node .scan w
  | .vset w => .node .vset w
  | .vget w => .node .vget w
  | .cmpct w => .node .cmpct w
  | .wget w => .node .wget w
  | .wset w => .node .wset w
  | .wmul w => .node .wmul w
  | .gapt w => .node .gapt w
  | .keyg w => .node .keyg w
  | .hdrg w => .node .hdrg w
  | .hdrs w => .node .hdrs w
  | .win w => .node .win w
  | .join w => .node .join w
  | .agg w => .node .agg w
  | .bx w => .node .bx w
  | .bxc w => .node .bxc w
  | .tspawn w => .node .tspawn w
  | .tjoin w => .node .tjoin w
  | .thalt w => .node .thalt w
  | .dsel w => .node .dsel w
  | .seq w => .node .seq w
  | .btok w => .node .btok w
  | .barn w => .node .barn w
  | .evpost w => .node .evpost w
  | .mxn w => .node .mxn w
  | .mseq w => .node .mseq w
  | .radv w => .node .radv w
  | .rstat w => .node .rstat w
  | .agen w => .mem .agen w
  | .ld w => .mem .ld w
  | .st w => .mem .st w
  | .ldf w => .mem .ldf w
  | .stf w => .mem .stf w
  | .clre w => .mem .clre w
  | .atom w => .mem .atom w
  | .mcast w => .mem .mcast w
  | .pref w => .mem .pref w
  | .cjoin w => .mem .cjoin w
  | .bkgive w => .mem .bkgive w
  | .mmul w => .matrix .mmul w
  | .mmult w => .matrix .mmult w
  | .mzero w => .matrix .mzero w
  | .mstc w => .matrix .mstc w
  | .mldc w => .matrix .mldc w
  | .nopCore w => .core .nop w
  | .movCore w => .core .mov w
  | .ldiCore w => .core .ldi w
  | .addCore w => .core .add w
  | .subCore w => .core .sub w
  | .addsCore w => .core .adds w
  | .subsCore w => .core .subs w
  | .mulCore w => .core .mul w
  | .mulhCore w => .core .mulh w
  | .madCore w => .core .mad w
  | .minCore w => .core .min w
  | .maxCore w => .core .max w
  | .absCore w => .core .abs w
  | .negCore w => .core .neg w
  | .andCore w => .core .and w
  | .orCore w => .core .or w
  | .xorCore w => .core .xor w
  | .andnCore w => .core .andn w
  | .notCore w => .core .not w
  | .shlCore w => .core .shl w
  | .shrCore w => .core .shr w
  | .sarCore w => .core .sar w
  | .rolCore w => .core .rol w
  | .clzCore w => .core .clz w
  | .ctzCore w => .core .ctz w
  | .popcCore w => .core .popc w
  | .brevCore w => .core .brev w
  | .bfxCore w => .core .bfx w
  | .bfxsCore w => .core .bfxs w
  | .bfiCore w => .core .bfi w
  | .cmpCore w => .core .cmp w
  | .selCore w => .core .sel w
  | .div w => .core .div w
  | .divu w => .core .divu w
  | .rem w => .core .rem w
  | .remu w => .core .remu w
  | .ld8 w => .core .ld8 w
  | .ld16 w => .core .ld16 w
  | .ld32 w => .core .ld32 w
  | .ld64 w => .core .ld64 w
  | .st8 w => .core .st8 w
  | .st16 w => .core .st16 w
  | .st32 w => .core .st32 w
  | .st64 w => .core .st64 w
  | .amo w => .core .amo w
  | .bc w => .core .bc w
  | .j w => .core .j w
  | .jal w => .core .jal w
  | .jr w => .core .jr w
  | .crd w => .core .crd w
  | .cwr w => .core .cwr w
  | .fence w => .core .fence w
  | .trap w => .core .trap w
  | .eret w => .core .eret w
  | .wfe w => .core .wfe w
  | .launch w => .core .launch w
  | .sbind w => .core .sbind w
  | .sclose w => .core .sclose w
  | .phase w => .core .phase w
  | .cfgld w => .core .cfgld w
  | .cpf w => .core .cpf w
  | .modld w => .core .modld w
  | .modul w => .core .modul w
  | .rsw w => .core .rsw w
  | .dselc w => .core .dselc w
  | .evpop w => .core .evpop w
  | .evwait w => .core .evwait w
  | .trel w => .core .trel w
  | .bara w => .core .bara w
  | .barw w => .core .barw w
  | .nepost w => .core .nepost w
  | .nepoll w => .core .nepoll w
  | .cpypost w => .core .cpypost w
  | .colpost w => .core .colpost w
  | .rinv w => .core .rinv w
  | .resid w => .core .resid w
  | .ctrrd w => .core .ctrrd w
  | .ctrsel w => .core .ctrsel w
  | .bpset w => .core .bpset w
  | .mcut w => .core .mcut w
  | _ => .other

/-- Opcodes of node words (R53). -/
def nodeOpCode : NodeOp → Nat
  | .mov => 0x001
  | .ldi => 0x002
  | .add => 0x003
  | .sub => 0x004
  | .adds => 0x005
  | .subs => 0x006
  | .mul => 0x007
  | .mulh => 0x008
  | .mad => 0x009
  | .dot4 => 0x00A
  | .min => 0x00B
  | .max => 0x00C
  | .abs => 0x00D
  | .neg => 0x00E
  | .and => 0x00F
  | .or => 0x010
  | .xor => 0x011
  | .andn => 0x012
  | .not => 0x013
  | .shl => 0x014
  | .shr => 0x015
  | .sar => 0x016
  | .rol => 0x017
  | .clz => 0x018
  | .ctz => 0x019
  | .popc => 0x01A
  | .brev => 0x01B
  | .bfx => 0x01C
  | .bfxs => 0x01D
  | .bfi => 0x01E
  | .cmp => 0x01F
  | .sel => 0x020
  | .fadd => 0x040
  | .fsub => 0x041
  | .fmul => 0x042
  | .fma => 0x043
  | .fms => 0x044
  | .fnma => 0x045
  | .fmin => 0x046
  | .fmax => 0x047
  | .fabs => 0x048
  | .fneg => 0x049
  | .fcps => 0x04A
  | .fcmp => 0x04B
  | .fcls => 0x04C
  | .fdota => 0x04D
  | .frcp => 0x04E
  | .frsq => 0x04F
  | .fsqrt => 0x050
  | .fexp2 => 0x051
  | .flog2 => 0x052
  | .ftanh => 0x053
  | .fsigm => 0x054
  | .cvtup => 0x080
  | .cvtdn => 0x081
  | .cvtif => 0x082
  | .cvtfi => 0x083
  | .rndi => 0x084
  | .pack => 0x085
  | .unpk => 0x086
  | .scl => 0x087
  | .cmpr => 0x088
  | .clen => 0x089
  | .shuf => 0x0A0
  | .bcst => 0x0A1
  | .lrot => 0x0A2
  | .rsum => 0x0A3
  | .rmax => 0x0A4
  | .rmin => 0x0A5
  | .scan => 0x0A6
  | .vset => 0x0A7
  | .vget => 0x0A8
  | .cmpct => 0x0A9
  | .wget => 0x0C0
  | .wset => 0x0C1
  | .wmul => 0x0C2
  | .gapt => 0x0C3
  | .keyg => 0x0C4
  | .hdrg => 0x0C5
  | .hdrs => 0x0C6
  | .win => 0x0C7
  | .join => 0x0C8
  | .agg => 0x0C9
  | .bx => 0x0E0
  | .bxc => 0x0E1
  | .tspawn => 0x0E2
  | .tjoin => 0x0E3
  | .thalt => 0x0E4
  | .dsel => 0x0E5
  | .seq => 0x0E6
  | .btok => 0x0E7
  | .barn => 0x0E8
  | .evpost => 0x0E9
  | .mxn => 0x140
  | .mseq => 0x141
  | .radv => 0x142
  | .rstat => 0x143

/-- Opcodes of node words, read back (R53). -/
def nodeOpOfCode (c : Nat) : Option NodeOp :=
  match c with
  | 0x001 => some .mov
  | 0x002 => some .ldi
  | 0x003 => some .add
  | 0x004 => some .sub
  | 0x005 => some .adds
  | 0x006 => some .subs
  | 0x007 => some .mul
  | 0x008 => some .mulh
  | 0x009 => some .mad
  | 0x00A => some .dot4
  | 0x00B => some .min
  | 0x00C => some .max
  | 0x00D => some .abs
  | 0x00E => some .neg
  | 0x00F => some .and
  | 0x010 => some .or
  | 0x011 => some .xor
  | 0x012 => some .andn
  | 0x013 => some .not
  | 0x014 => some .shl
  | 0x015 => some .shr
  | 0x016 => some .sar
  | 0x017 => some .rol
  | 0x018 => some .clz
  | 0x019 => some .ctz
  | 0x01A => some .popc
  | 0x01B => some .brev
  | 0x01C => some .bfx
  | 0x01D => some .bfxs
  | 0x01E => some .bfi
  | 0x01F => some .cmp
  | 0x020 => some .sel
  | 0x040 => some .fadd
  | 0x041 => some .fsub
  | 0x042 => some .fmul
  | 0x043 => some .fma
  | 0x044 => some .fms
  | 0x045 => some .fnma
  | 0x046 => some .fmin
  | 0x047 => some .fmax
  | 0x048 => some .fabs
  | 0x049 => some .fneg
  | 0x04A => some .fcps
  | 0x04B => some .fcmp
  | 0x04C => some .fcls
  | 0x04D => some .fdota
  | 0x04E => some .frcp
  | 0x04F => some .frsq
  | 0x050 => some .fsqrt
  | 0x051 => some .fexp2
  | 0x052 => some .flog2
  | 0x053 => some .ftanh
  | 0x054 => some .fsigm
  | 0x080 => some .cvtup
  | 0x081 => some .cvtdn
  | 0x082 => some .cvtif
  | 0x083 => some .cvtfi
  | 0x084 => some .rndi
  | 0x085 => some .pack
  | 0x086 => some .unpk
  | 0x087 => some .scl
  | 0x088 => some .cmpr
  | 0x089 => some .clen
  | 0x0A0 => some .shuf
  | 0x0A1 => some .bcst
  | 0x0A2 => some .lrot
  | 0x0A3 => some .rsum
  | 0x0A4 => some .rmax
  | 0x0A5 => some .rmin
  | 0x0A6 => some .scan
  | 0x0A7 => some .vset
  | 0x0A8 => some .vget
  | 0x0A9 => some .cmpct
  | 0x0C0 => some .wget
  | 0x0C1 => some .wset
  | 0x0C2 => some .wmul
  | 0x0C3 => some .gapt
  | 0x0C4 => some .keyg
  | 0x0C5 => some .hdrg
  | 0x0C6 => some .hdrs
  | 0x0C7 => some .win
  | 0x0C8 => some .join
  | 0x0C9 => some .agg
  | 0x0E0 => some .bx
  | 0x0E1 => some .bxc
  | 0x0E2 => some .tspawn
  | 0x0E3 => some .tjoin
  | 0x0E4 => some .thalt
  | 0x0E5 => some .dsel
  | 0x0E6 => some .seq
  | 0x0E7 => some .btok
  | 0x0E8 => some .barn
  | 0x0E9 => some .evpost
  | 0x140 => some .mxn
  | 0x141 => some .mseq
  | 0x142 => some .radv
  | 0x143 => some .rstat
  | _ => none

/-- Opcodes of memory nodes (R53). -/
def memOpCode : MemOp → Nat
  | .agen => 0x100
  | .ld => 0x101
  | .st => 0x102
  | .ldf => 0x103
  | .stf => 0x104
  | .clre => 0x105
  | .atom => 0x106
  | .mcast => 0x107
  | .pref => 0x108
  | .cjoin => 0x109
  | .bkgive => 0x10A

/-- Opcodes of memory nodes, read back (R53). -/
def memOpOfCode (c : Nat) : Option MemOp :=
  match c with
  | 0x100 => some .agen
  | 0x101 => some .ld
  | 0x102 => some .st
  | 0x103 => some .ldf
  | 0x104 => some .stf
  | 0x105 => some .clre
  | 0x106 => some .atom
  | 0x107 => some .mcast
  | 0x108 => some .pref
  | 0x109 => some .cjoin
  | 0x10A => some .bkgive
  | _ => none

/-- Opcodes of matrix control tokens (R53). -/
def matOpCode : MatOp → Nat
  | .mmul => 0x144
  | .mmult => 0x145
  | .mzero => 0x146
  | .mstc => 0x147
  | .mldc => 0x148

/-- Opcodes of matrix control tokens, read back (R53). -/
def matOpOfCode (c : Nat) : Option MatOp :=
  match c with
  | 0x144 => some .mmul
  | 0x145 => some .mmult
  | 0x146 => some .mzero
  | 0x147 => some .mstc
  | 0x148 => some .mldc
  | _ => none

/-- Opcodes of core words (R53). -/
def coreOpCode : CoreOp → Nat
  | .nop => 0x000
  | .mov => 0x001
  | .ldi => 0x002
  | .add => 0x003
  | .sub => 0x004
  | .adds => 0x005
  | .subs => 0x006
  | .mul => 0x007
  | .mulh => 0x008
  | .mad => 0x009
  | .min => 0x00B
  | .max => 0x00C
  | .abs => 0x00D
  | .neg => 0x00E
  | .and => 0x00F
  | .or => 0x010
  | .xor => 0x011
  | .andn => 0x012
  | .not => 0x013
  | .shl => 0x014
  | .shr => 0x015
  | .sar => 0x016
  | .rol => 0x017
  | .clz => 0x018
  | .ctz => 0x019
  | .popc => 0x01A
  | .brev => 0x01B
  | .bfx => 0x01C
  | .bfxs => 0x01D
  | .bfi => 0x01E
  | .cmp => 0x01F
  | .sel => 0x020
  | .div => 0x021
  | .divu => 0x022
  | .rem => 0x023
  | .remu => 0x024
  | .ld8 => 0x160
  | .ld16 => 0x161
  | .ld32 => 0x162
  | .ld64 => 0x163
  | .st8 => 0x164
  | .st16 => 0x165
  | .st32 => 0x166
  | .st64 => 0x167
  | .amo => 0x168
  | .bc => 0x169
  | .j => 0x16A
  | .jal => 0x16B
  | .jr => 0x16C
  | .crd => 0x16D
  | .cwr => 0x16E
  | .fence => 0x16F
  | .trap => 0x170
  | .eret => 0x171
  | .wfe => 0x172
  | .launch => 0x173
  | .sbind => 0x174
  | .sclose => 0x175
  | .phase => 0x176
  | .cfgld => 0x177
  | .cpf => 0x178
  | .modld => 0x179
  | .modul => 0x17A
  | .rsw => 0x17B
  | .dselc => 0x17C
  | .evpop => 0x17D
  | .evwait => 0x17E
  | .trel => 0x17F
  | .bara => 0x180
  | .barw => 0x181
  | .nepost => 0x182
  | .nepoll => 0x183
  | .cpypost => 0x184
  | .colpost => 0x185
  | .rinv => 0x186
  | .resid => 0x187
  | .ctrrd => 0x188
  | .ctrsel => 0x189
  | .bpset => 0x18A
  | .mcut => 0x18B

/-- Opcodes of core words, read back (R53). -/
def coreOpOfCode (c : Nat) : Option CoreOp :=
  match c with
  | 0x000 => some .nop
  | 0x001 => some .mov
  | 0x002 => some .ldi
  | 0x003 => some .add
  | 0x004 => some .sub
  | 0x005 => some .adds
  | 0x006 => some .subs
  | 0x007 => some .mul
  | 0x008 => some .mulh
  | 0x009 => some .mad
  | 0x00B => some .min
  | 0x00C => some .max
  | 0x00D => some .abs
  | 0x00E => some .neg
  | 0x00F => some .and
  | 0x010 => some .or
  | 0x011 => some .xor
  | 0x012 => some .andn
  | 0x013 => some .not
  | 0x014 => some .shl
  | 0x015 => some .shr
  | 0x016 => some .sar
  | 0x017 => some .rol
  | 0x018 => some .clz
  | 0x019 => some .ctz
  | 0x01A => some .popc
  | 0x01B => some .brev
  | 0x01C => some .bfx
  | 0x01D => some .bfxs
  | 0x01E => some .bfi
  | 0x01F => some .cmp
  | 0x020 => some .sel
  | 0x021 => some .div
  | 0x022 => some .divu
  | 0x023 => some .rem
  | 0x024 => some .remu
  | 0x160 => some .ld8
  | 0x161 => some .ld16
  | 0x162 => some .ld32
  | 0x163 => some .ld64
  | 0x164 => some .st8
  | 0x165 => some .st16
  | 0x166 => some .st32
  | 0x167 => some .st64
  | 0x168 => some .amo
  | 0x169 => some .bc
  | 0x16A => some .j
  | 0x16B => some .jal
  | 0x16C => some .jr
  | 0x16D => some .crd
  | 0x16E => some .cwr
  | 0x16F => some .fence
  | 0x170 => some .trap
  | 0x171 => some .eret
  | 0x172 => some .wfe
  | 0x173 => some .launch
  | 0x174 => some .sbind
  | 0x175 => some .sclose
  | 0x176 => some .phase
  | 0x177 => some .cfgld
  | 0x178 => some .cpf
  | 0x179 => some .modld
  | 0x17A => some .modul
  | 0x17B => some .rsw
  | 0x17C => some .dselc
  | 0x17D => some .evpop
  | 0x17E => some .evwait
  | 0x17F => some .trel
  | 0x180 => some .bara
  | 0x181 => some .barw
  | 0x182 => some .nepost
  | 0x183 => some .nepoll
  | 0x184 => some .cpypost
  | 0x185 => some .colpost
  | 0x186 => some .rinv
  | 0x187 => some .resid
  | 0x188 => some .ctrrd
  | 0x189 => some .ctrsel
  | 0x18A => some .bpset
  | 0x18B => some .mcut
  | _ => none

end Machine
end Sys2Proof
end

