-- ==== Sys2Proof/WellFormed.lean ====
section
/-! DEFINITION. Well-formed instructions: the field values the spec gives each instruction (the rows of Machine.Legal), so that each
has a word. The loader (R52), the core (R56) and the matrix node (R42) make the same checks on the words they read. -/
namespace Sys2Proof


/-- The instruction's fields hold values the spec allows it. Moves without a word have no fields to check but those of the stream
commands (R47): a tile command never names element 0x3FF (R23). -/
def wf (i : Instr) : Bool :=
  match Machine.view i with
  | .node op w => Machine.nodeCheck op w = none
  | .mem op w => Machine.memCheck op w = none
  | .matrix op w => Machine.matrixOk op w
  | .core op w => Machine.coreOk op w
  | .other =>
    match i with
    | .tileCommand row col _ _ => !(row = 31 && col = 31)
    | _ => true

end Sys2Proof
end

