-- ==== Sys2Proof/Decode.lean ====
section
/-! DEFINITION. Decoding of every word format, total on any bits (R34 to R56), and the encoder of the same tables. A word that is no
instruction in its place is rejected by name: a CFGERR cause for slots, router fields and streams, the instruction ILLEGAL or
EXT_TARGET on the core, no instruction for a control token (the XTOK of R42). -/
namespace Sys2Proof
open Machine

/-! ## Field codes -/

/-- Code of an element type (R37). -/
def tyCode : Ty → BitVec 4
  | .i32 => 0 | .n32 => 1 | .i16x2 => 2 | .n16x2 => 3 | .i8x4 => 4 | .n8x4 => 5 | .f32 => 6 | .bf16x2 => 7 | .f16x2 => 8
  | .e4m3x4 => 9 | .e5m2x4 => 10 | .b32 => 11 | .i64x8 => 12 | .pkt => 15

/-- Code of an operand source (R36). -/
def srcCode : Src → BitVec 5
  | .queue i => BitVec.ofNat 5 i.val
  | .const k => BitVec.ofNat 5 (8 + k.val)
  | .imm => 16 | .zero => 17 | .lane => 18 | .latch => 19

/-- The source a code names (R36); 20 to 31 are reserved. -/
def srcOfCode (c : BitVec 5) : Option Src :=
  if c.toNat < 8 then some (.queue (Fin.ofNat 8 c.toNat))
  else if c.toNat < 16 then some (.const (Fin.ofNat 8 (c.toNat - 8)))
  else match c.toNat with
    | 16 => some .imm | 17 => some .zero | 18 => some .lane | 19 => some .latch
    | _ => none

/-- Code of a rounding mode (R35). -/
def rmCode : Rm → BitVec 2 | .rne => 0 | .rtz => 1 | .rdn => 2 | .rup => 3
/-- The rounding mode of a code. -/
def rmOfCode (c : BitVec 2) : Rm :=
  match c.toNat with | 0 => .rne | 1 => .rtz | 2 => .rdn | _ => .rup

/-- Code of an overflow mode (R35). -/
def ovCode : Ov → BitVec 2 | .sat => 0 | .inf => 1 | .nan => 2 | .trap => 3
/-- The overflow mode of a code. -/
def ovOfCode (c : BitVec 2) : Ov :=
  match c.toNat with | 0 => .sat | 1 => .inf | 2 => .nan | _ => .trap

/-- Code of a valid-bit mode (R35). -/
def vmCode : Vm → BitVec 3 | .conj => 0 | .a => 1 | .full => 2 | .k7 => 3
/-- The valid-bit mode of a code; 4 to 7 are reserved. -/
def vmOfCode (c : BitVec 3) : Option Vm :=
  match c.toNat with | 0 => some .conj | 1 => some .a | 2 => some .full | 3 => some .k7 | _ => none

/-- The condition of a code (R44). -/
def condOfCode (c : BitVec 3) : Cond :=
  match c.toNat with
  | 0 => .eq | 1 => .ne | 2 => .lt | 3 => .le | 4 => .ltu | 5 => .leu | 6 => .gt | _ => .ge

/-- Code of a memory class (R40). -/
def clsCode : Cls → BitVec 2 | .stream => 0 | .random => 1 | .ordered => 2
/-- The class of a code; 3 is reserved. -/
def clsOfCode (c : BitVec 2) : Option Cls :=
  match c.toNat with | 0 => some .stream | 1 => some .random | 2 => some .ordered | _ => none

/-- Code of a space (R40). -/
def spaceCode : Space → BitVec 3 | .global => 0 | .wbuf => 1 | .abuf => 2 | .cbuf => 3 | .window => 4
/-- The space of a code; 5 to 7 are reserved. -/
def spaceOfCode (c : BitVec 3) : Option Space :=
  match c.toNat with | 0 => some .global | 1 => some .wbuf | 2 => some .abuf | 3 => some .cbuf | 4 => some .window | _ => none

/-- Code of a memory scope (R26, R40). -/
def scopeCode : Scope → BitVec 3 | .tile => 0 | .region => 1 | .cluster => 2 | .die => 3 | .package => 4 | .system => 5
/-- The scope of a code; 6 and 7 are reserved. -/
def scopeOfCode (c : BitVec 3) : Option Scope :=
  match c.toNat with
  | 0 => some .tile | 1 => some .region | 2 => some .cluster | 3 => some .die | 4 => some .package | 5 => some .system | _ => none

/-- Code of a half (R41). -/
def halfCode : Half → BitVec 2 | .whole => 0 | .upper => 1 | .lower => 2
/-- The half of a code; 3 is reserved. -/
def halfOfCode (c : BitVec 2) : Option Half :=
  match c.toNat with | 0 => some .whole | 1 => some .upper | 2 => some .lower | _ => none

/-- Code of a link (R43). -/
def dirCode : Dir → BitVec 3 | .n => 0 | .e => 1 | .s => 2 | .w => 3
/-- Code of a router operator's data input (R43). -/
def rinCode : RIn → BitVec 3
  | .link d => dirCode d | .o0 => 4 | .o1 => 5 | .otherT => 6 | .otherF => 7
/-- The data input of a code. -/
def rinOfCode (c : BitVec 3) : RIn :=
  match c.toNat with
  | 0 => .link .n | 1 => .link .e | 2 => .link .s | 3 => .link .w | 4 => .o0 | 5 => .o1 | 6 => .otherT | _ => .otherF
/-- Code of a router operator's control input (R43). -/
def rctlCode : RCtl → BitVec 3
  | .link d => dirCode d | .o3 => 4
/-- The control input of a code; 5 to 7 are reserved. -/
def rctlOfCode (c : BitVec 3) : Option RCtl :=
  match c.toNat with
  | 0 => some (.link .n) | 1 => some (.link .e) | 2 => some (.link .s) | 3 => some (.link .w) | 4 => some .o3 | _ => none
/-- Code of a router operator's output (R43). -/
def routCode : ROut → BitVec 3
  | .link d => dirCode d | .pe => 4 | .none => 5
/-- The output of a code; 6 and 7 are reserved. -/
def routOfCode (c : BitVec 3) : Option ROut :=
  match c.toNat with
  | 0 => some (.link .n) | 1 => some (.link .e) | 2 => some (.link .s) | 3 => some (.link .w) | 4 => some .pe | 5 => some .none
  | _ => none

/-- One bit as a Bool. -/
def bit {n : Nat} (w : BitVec n) (i : Nat) : Bool := w.getLsbD i

/-! ## Format N and format M -/

/-- The fields of a format N word, or the cause that rejects it: TYPE before FIELD (R35 to R37, R52; log 13). -/
def fieldsN (w : BitVec 64) : Except CfgCause NWord :=
  match tyOfCode (w.extractLsb' 51 4), srcOfCode (w.extractLsb' 46 5), srcOfCode (w.extractLsb' 41 5), srcOfCode (w.extractLsb' 36 5),
      vmOfCode (w.extractLsb' 25 3) with
  | none, _, _, _, _ => .error .type
  | some ty, some sa, some sb, some sc, some vm =>
    if bit w 16 then .error .field
    else .ok { ty := ty, sa := sa, sb := sb, sc := sc, out := w.extractLsb' 32 4, rm := rmOfCode (w.extractLsb' 30 2),
               ov := ovOfCode (w.extractLsb' 28 2), vm := vm, aux := w.extractLsb' 20 5, wp := bit w 19, gp := bit w 18,
               so := bit w 17, imm := w.extractLsb' 0 16 }
  | _, _, _, _, _ => .error .field

/-- A format N word from its fields (R35). -/
def wordN (op : NodeOp) (w : NWord) : BitVec 64 :=
  BitVec.ofNat 9 (nodeOpCode op) ++ tyCode w.ty ++ srcCode w.sa ++ srcCode w.sb ++ srcCode w.sc ++ w.out ++ rmCode w.rm ++ ovCode w.ov
    ++ vmCode w.vm ++ w.aux ++ BitVec.ofBool w.wp ++ BitVec.ofBool w.gp ++ BitVec.ofBool w.so ++ 0#1 ++ w.imm

/-- The fields of a format M word (R40). -/
def fieldsM (w : BitVec 64) : Except CfgCause MWord :=
  match tyOfCode (w.extractLsb' 51 4), srcOfCode (w.extractLsb' 46 5), srcOfCode (w.extractLsb' 41 5), srcOfCode (w.extractLsb' 36 5),
      clsOfCode (w.extractLsb' 30 2), spaceOfCode (w.extractLsb' 27 3), scopeOfCode (w.extractLsb' 17 3) with
  | none, _, _, _, _, _, _ => .error .type
  | some ty, some sa, some sb, some sc, some cls, some space, some scope =>
    .ok { ty := ty, sa := sa, sb := sb, sc := sc, out := w.extractLsb' 32 4, cls := cls, space := space, aop := w.extractLsb' 23 4,
          cpl := bit w 22, cplPort := Fin.ofNat 4 (w.extractLsb' 20 2).toNat, scope := scope, fe := bit w 16,
          imm := w.extractLsb' 0 16 }
  | _, _, _, _, _, _, _ => .error .field

/-- A format M word from its fields (R40). -/
def wordM (op : MemOp) (w : MWord) : BitVec 64 :=
  BitVec.ofNat 9 (memOpCode op) ++ tyCode w.ty ++ srcCode w.sa ++ srcCode w.sb ++ srcCode w.sc ++ w.out ++ clsCode w.cls
    ++ spaceCode w.space ++ w.aop ++ BitVec.ofBool w.cpl ++ BitVec.ofNat 2 w.cplPort.val ++ scopeCode w.scope ++ BitVec.ofBool w.fe
    ++ w.imm

/-- The NOP of a slot (R95): OPC and TY 0, its three operands 17 at bits 46, 41 and 36, the rest zero. -/
def nopWord : BitVec 64 := (0#9 ++ 0#4 ++ 17#5 ++ 17#5 ++ 17#5 ++ 0#36)

/-- What an enabled slot's word is (R52, R54, R56): an instruction, the NOP that never fires (none), or the cause of its rejection. A BKGIVE word
with a TY other than 11, even a reserved one, is rejected with FIELD (R210). -/
def decodeSlot (w : BitVec 64) : Except CfgCause (Option Instr) :=
  let opc := (w.extractLsb' 55 9).toNat
  if opc = 0 then (if w = nopWord then .ok none else .error .field)
  else match nodeOpOfCode opc, memOpOfCode opc with
    | some op, _ =>
      match fieldsN w with
      | .error c => .error c
      | .ok f => match nodeCheck op f with
        | some c => .error c
        | none => .ok (some (nodeInstr op f))
    | none, some op =>
      match fieldsM w with
      | .error c => .error (if op = .bkgive then .field else c)
      | .ok f => match memCheck op f with
        | some c => .error c
        | none => .ok (some (memInstr op f))
    | none, none => .error .opc

/-! ## Format X -/

/-- The instruction of a matrix control token, if it is one (R41, R42). -/
def decodeMatrix (w : BitVec 64) : Option Instr :=
  match matOpOfCode (w.extractLsb' 55 9).toNat, halfOfCode (w.extractLsb' 53 2) with
  | some op, some half =>
    let f : XWord := { half := half, tyab := w.extractLsb' 49 4, tyc := w.extractLsb' 45 4, ringa := w.extractLsb' 41 4,
                       ringb := w.extractLsb' 37 4, m1 := w.extractLsb' 31 6, n1 := w.extractLsb' 25 6, k1 := w.extractLsb' 17 8,
                       acc := bit w 16, ctile := w.extractLsb' 10 6, ofmt := w.extractLsb' 8 2, popa := bit w 7, popb := bit w 6 }
    if w.extractLsb' 0 6 = 0 ∧ matrixOk op f then some (matInstr op f) else none
  | _, _ => none

/-- A format X word from its fields (R41). -/
def wordX (op : MatOp) (w : XWord) : BitVec 64 :=
  BitVec.ofNat 9 (matOpCode op) ++ halfCode w.half ++ w.tyab ++ w.tyc ++ w.ringa ++ w.ringb ++ w.m1 ++ w.n1 ++ w.k1
    ++ BitVec.ofBool w.acc ++ w.ctile ++ w.ofmt ++ BitVec.ofBool w.popa ++ BitVec.ofBool w.popb ++ 0#6

/-! ## Formats C and E -/

/-- The instruction of a core word; `e` is the word in the 8 bytes after it, which counts only when L is 1 (R44, R45, R56). -/
def decodeCore (w e : BitVec 64) : Instr :=
  let opc := (w.extractLsb' 55 9).toNat
  if opc = 0x1FF then .extTarget w
  else match coreOpOfCode opc with
    | none => .illegal w
    | some op =>
      let long := bit w 54
      let f : CWord := { long := long, ty := w.extractLsb' 50 4, xd := Fin.ofNat 32 (w.extractLsb' 45 5).toNat,
                         xa := Fin.ofNat 32 (w.extractLsb' 40 5).toNat, xb := Fin.ofNat 32 (w.extractLsb' 35 5).toNat,
                         aux := w.extractLsb' 32 3,
                         imm := if long then e.extractLsb' 0 32 ++ w.extractLsb' 0 32 else (w.extractLsb' 0 32).signExtend 64 }
      if coreOk op f ∧ (long = false ∨ (e.extractLsb' 55 9 = 0x1FF ∧ e.extractLsb' 32 23 = 0)) then coreInstr op f else .illegal w

/-- R45: a word with L = 1 on an instruction that reads IMM32, so that its E word is fetched. -/
def wantsExtension (w : BitVec 64) : Bool :=
  bit w 54 && (match coreOpOfCode (w.extractLsb' 55 9).toNat with
    | none => false
    | some op => (coreRule op).imm = .wide)

/-- A format C word from its fields (R44). -/
def wordC (op : CoreOp) (w : CWord) : BitVec 64 :=
  BitVec.ofNat 9 (coreOpCode op) ++ BitVec.ofBool w.long ++ w.ty ++ BitVec.ofNat 5 w.xd.val ++ BitVec.ofNat 5 w.xa.val
    ++ BitVec.ofNat 5 w.xb.val ++ w.aux ++ w.imm.extractLsb' 0 32

/-- The format E word that follows (R45); zero when none does. -/
def wordE (w : CWord) : BitVec 64 :=
  if w.long then 0x1FF#9 ++ 0#23 ++ w.imm.extractLsb' 32 32 else 0

/-! ## Format G -/

/-- The operator a router word names, or the cause that rejects it (R43); none for GOP 0. -/
def decodeRouter (w : BitVec 32) : Except CfgCause (Option Instr) :=
  let a := rinOfCode (w.extractLsb' 25 3)
  let b := rinOfCode (w.extractLsb' 22 3)
  if w.extractLsb' 0 13 ≠ 0 then .error .field
  else match (w.extractLsb' 28 4).toNat, rctlOfCode (w.extractLsb' 19 3), routOfCode (w.extractLsb' 16 3), routOfCode (w.extractLsb' 13 3) with
    | 0, _, _, _ => if w = 0 then .ok none else .error .field
    | 1, some c, some t, some f => if w.extractLsb' 22 3 = 0 then .ok (some (.steer a c t f)) else .error .field
    | 2, some c, some t, _ => if w.extractLsb' 13 3 = 0 then .ok (some (.carry a b c t)) else .error .field
    | 3, some c, some t, _ =>
      if w.extractLsb' 22 3 = 0 ∧ w.extractLsb' 13 3 = 0 then .ok (some (.inv a c t)) else .error .field
    | 4, some c, some t, _ => if w.extractLsb' 13 3 = 0 then .ok (some (.merge a b c t)) else .error .field
    | _, _, _, _ => .error .field

/-- A format G word (R43). -/
def wordG (gop : Nat) (a b : BitVec 3) (c : RCtl) (t f : BitVec 3) : BitVec 32 :=
  BitVec.ofNat 4 gop ++ a ++ b ++ rctlCode c ++ t ++ f ++ 0#13

/-! ## Format W -/

/-- The configuration command of a stream word (R46, R47, R52). -/
def decodeStream (w : BitVec 32) : Instr :=
  let v := w.extractLsb' 0 16
  let fn := (w.extractLsb' 16 6).toNat
  if w.extractLsb' 22 10 = 0x3FF then
    match fn with
    | 0 => if v.extractLsb' 1 15 = 0 then .beginStream (bit v 0) else .reservedStreamCommand w
    | 1 => .plane v
    | 2 => .page v
    | 3 => if v.extractLsb' 10 6 = 0 then .origin (v.extractLsb' 5 5) (v.extractLsb' 0 5) else .reservedStreamCommand w
    | 4 => .copies v
    | 8 => .pc 0 v
    | 9 => .pc 1 v
    | 10 => .pc 2 v
    | 11 => .pc 3 v
    | 62 => .check v
    | 63 => if v = 0 then .endStream else .reservedStreamCommand w
    | _ => .reservedStreamCommand w
  else .tileCommand (w.extractLsb' 27 5) (w.extractLsb' 22 5) (w.extractLsb' 16 6) v

/-- A stream command's word (R46, R47). -/
def streamWord (fn : Nat) (v : BitVec 16) : BitVec 32 := 0x3FF#10 ++ BitVec.ofNat 6 fn ++ v

/-! ## The encoder -/

/-- The words of an instruction: none for a move of the machine, one of 32 or 64 bits, or a C word with its E word. -/
inductive Code where
  | none
  | half (w : BitVec 32)
  | word (w : BitVec 64)
  | pair (w e : BitVec 64)
  deriving DecidableEq, Repr

/-- The words of a well-formed instruction. -/
def encode (i : Instr) : Code :=
  match view i with
  | .node op w => .word (wordN op w)
  | .mem op w => .word (wordM op w)
  | .matrix op w => .word (wordX op w)
  | .core op w => if w.long then .pair (wordC op w) (wordE w) else .word (wordC op w)
  | .other =>
    match i with
    | .beginStream p => .half (streamWord 0 (0#15 ++ BitVec.ofBool p))
    | .plane v => .half (streamWord 1 v)
    | .page v => .half (streamWord 2 v)
    | .origin r c => .half (streamWord 3 (0#6 ++ r ++ c))
    | .copies v => .half (streamWord 4 v)
    | .pc n v => .half (streamWord (8 + n.val) v)
    | .check v => .half (streamWord 62 v)
    | .endStream => .half (streamWord 63 0)
    | .tileCommand r c fn v => .half (r ++ c ++ fn ++ v)
    | .steer a c t f => .half (wordG 1 (rinCode a) 0 c (routCode t) (routCode f))
    | .carry a b c t => .half (wordG 2 (rinCode a) (rinCode b) c (routCode t) 0)
    | .inv a c t => .half (wordG 3 (rinCode a) 0 c (routCode t) 0)
    | .merge a b c t => .half (wordG 4 (rinCode a) (rinCode b) c (routCode t) 0)
    | .reservedStreamCommand w => .half w
    | .illegal w => .word w
    | .extTarget w => .word w
    | _ => .none

/-- The instruction an opcode-table word stands for. A 32-bit word is a router operator's when it is a legal one, else a configuration
command (R34); a 64-bit word is a slot's when a slot may hold it, else a control token's, else the core's, with the extension word zero. -/
def decodeTableWord (nbits w : Nat) : Option Instr :=
  if nbits = 32 then
    match decodeRouter (BitVec.ofNat 32 w) with
    | .ok (some i) => some i
    | _ => some (decodeStream (BitVec.ofNat 32 w))
  else if nbits = 64 then
    match decodeSlot (BitVec.ofNat 64 w), decodeMatrix (BitVec.ofNat 64 w) with
    | .ok (some i), _ => some i
    | _, some i => some i
    | _, none => some (decodeCore (BitVec.ofNat 64 w) 0)
  else if nbits = 128 then some (decodeCore (BitVec.ofNat 64 w) (BitVec.ofNat 64 (w / 2 ^ 64)))
  else none

end Sys2Proof
end

