-- ==== Sys2Proof/Config.lean ====
section
/-! DEFINITION. What the manual leaves to the implementation, as constants with no body (free values), and the fixed sizes
that several rules share. Nothing can be proved of a free value but that it is one (assumption log 11, 12). -/
namespace Sys2Proof.Config

/-- A fresh 64-bit value the spec does not state, the k-th of a run (log 11). -/
opaque freeWord : Nat → BitVec 64

/-- The set in which a configuration cache of the given level (2 or 3) keeps a line (R175 gives sizes and ways and no index; log 12). -/
opaque cfgSet : Nat → BitVec 64 → BitVec 12 → Nat

/-- The byte a peer or a host holds at a far place before this device has written there (R368; log 1): far kind, peer, address. -/
opaque farByte : Nat → Nat → Nat → BitVec 8
/-- The full-empty bit that a granule has there (R368; log 1). -/
opaque farGranFull : Nat → Nat → Nat → Bool

/-- Whether the k-th transfer of a run with a far place ends in error (R371, R375 name the peer's or host's error and give no rule for it; log 52): far
kind, peer, k. -/
opaque farFails : Nat → Nat → Nat → Bool

/-- The E5M2 element that source LANE gives for a lane index that E5M2 cannot hold exactly (R36 states none; log 14). -/
opaque laneE5m2 : Nat → BitVec 8

/-- A byte of a save image or a dump whose layout the spec does not give, by what is written, its section and its offset; and the
number of 64-byte units of a section whose size it does not give (R336, R355; log 17). -/
opaque imageByte {α : Type} : α → Nat → Nat → BitVec 8
opaque imageUnits {α : Type} : α → Nat

/-- FMT and THR of a source that is no queue, which R15 and R36 do not state (log 14). -/
opaque sourceFmt : BitVec 4
opaque sourceThr : BitVec 8

/-- This device's number among the devices of a rank table (R329; the spec gives it no register; log 12). -/
opaque deviceNumber : BitVec 17

/-- Whether a Yunajor Link port of a die leads to a device (R389 names the ports that reach a peer and no register says which; log 12): die, port,
device. -/
opaque linkReaches : Nat → Nat → Nat → Bool

/-- The Ultra Ethernet fabric address of a die's port, which its packets carry as their source (R394; the spec gives it no register; log 12). -/
opaque fabricAddr : Nat → Nat → BitVec 128

/-- The byte that a host reads at a poisoned granule, by address (R421, R429 state none; log 2). -/
opaque poisonByte : Nat → BitVec 8

/-- Whether voltage over-scaling makes a PE's stage replay after a cycle (R343, R428 give no rule for it): cycle, key of the tile (log 65). -/
opaque replays : Nat → Nat → Bool

/-- Soft errors (R429 gives no rule for when they strike; log 2): what strikes in a cycle, 0 nothing, 1 a correctable error, 2 an uncorrectable one in a
granule of DRAM, 3 in a granule of a typed buffer, 4 in a word of local memory; and where. -/
opaque strikeKind : Nat → Nat
opaque strikeAt : Nat → Nat

/-- Cycles per microsecond of the 2.0 GHz clock (R4, R334). -/
def cyclesPerUs : Nat := 2000

/-- First address that is not local memory (R264). -/
def localSize : Nat := 0x40000

/-- Granules of a typed buffer of 2 MiB (R201). -/
def bufGranules : Nat := 32768

end Sys2Proof.Config
end

