-- ==== Sys2Proof/Machine/Assoc.lean ====
section
/-! DEFINITION. Sparse tables: lists of (key, value) pairs in rising key order, each unlisted key at a default value. Memory is one
(R231), and so are the machine's tiles, clusters, slices and registers. -/
namespace Sys2Proof.Machine

/-- A sparse table. -/
abbrev Assoc (α : Type) := List (Nat × α)

/-- The value at a key, or the default. -/
def aget {α : Type} (d : α) : Assoc α → Nat → α
  | [], _ => d
  | (k, v) :: m, i => if i = k then v else aget d m i

/-- The value listed at a key, if one is. -/
def afind {α : Type} : Assoc α → Nat → Option α
  | [], _ => none
  | (k, v) :: m, i => if i = k then some v else afind m i

/-- The value written at a key, the others kept. -/
def aset {α : Type} : Assoc α → Nat → α → Assoc α
  | [], i, x => [(i, x)]
  | (k, v) :: m, i, x => if i = k then (k, x) :: m else if i < k then (i, x) :: (k, v) :: m else (k, v) :: aset m i x

/-- A key taken out of the table, so that it reads as the default again. -/
def adel {α : Type} : Assoc α → Nat → Assoc α
  | [], _ => []
  | (k, v) :: m, i => if i = k then adel m i else (k, v) :: adel m i

/-- The value written in canonical form: writing the default removes the entry. -/
def aput {α : Type} [DecidableEq α] (d : α) (m : Assoc α) (i : Nat) (x : α) : Assoc α :=
  if x = d then adel m i else aset m i x

/-- The value at a key, or the default, changed by a function. -/
def aupd {α : Type} (d : α) (m : Assoc α) (i : Nat) (f : α → α) : Assoc α := aset m i (f (aget d m i))

/-- Keys strictly rise from a bound (none for the empty prefix), and no value is the default. -/
def awf {α : Type} [DecidableEq α] (d : α) : Nat → Assoc α → Bool
  | _, [] => true
  | lo, (k, v) :: m => decide (lo ≤ k) && decide (v ≠ d) && awf d (k + 1) m

end Sys2Proof.Machine
end

