-- ==== Sys2Proof/Machine/Bits.lean ====
section
/-! DEFINITION. Elements of a payload (R58, R59), signed and unsigned readings, and the order of bytes in memory (R3). -/
namespace Sys2Proof.Machine

/-- A bit string read as a two's complement number of width `w` (R57). -/
def sint (w x : Nat) : Int := if x < 2 ^ (w - 1) then (x : Int) else (x : Int) - (2 ^ w : Nat)

/-- An integer placed in `w` bits (the wrap of R96). -/
def wrapTo (w : Nat) (x : Int) : Nat := (x % ((2 ^ w : Nat) : Int)).toNat

/-- The value held between two limits. -/
def clampTo (lo hi x : Int) : Int := if x < lo then lo else if hi < x then hi else x

/-- Element width of a type in bits (R58); PKT has none of its own. -/
def tyWidth : Ty → Nat
  | .i32 | .n32 | .f32 | .b32 | .pkt => 32
  | .i16x2 | .n16x2 | .bf16x2 | .f16x2 => 16
  | .i8x4 | .n8x4 | .e4m3x4 | .e5m2x4 => 8
  | .i64x8 => 64

/-- Elements of a token of the type (R58). -/
def tyCount (t : Ty) : Nat := 512 / tyWidth t

/-- R92: the types read as signed. -/
def tySigned : Ty → Bool
  | .i32 | .i16x2 | .i8x4 | .i64x8 => true
  | _ => false

/-- Element `i` of width `w` (R58). -/
def elem (w : Nat) (p : Payload) (i : Nat) : Nat := (p.extractLsb' (w * i) w).toNat

/-- The first `n` elements of width `w`. -/
def elems (w n : Nat) (p : Payload) : List Nat := (List.range n).map (elem w p)

/-- A payload from its elements, element 0 first; absent ones are zero. -/
def packElems (w : Nat) (l : List Nat) : Payload :=
  l.foldr (fun x acc => (acc <<< w) ||| BitVec.ofNat 512 (x % 2 ^ w)) 0

/-- Lane `l` (R9). -/
def lane (p : Payload) (l : Nat) : Lane := p.extractLsb' (32 * l) 32

/-- Lanes 1 and 0 as one 64-bit value (R39). -/
def lowPair (p : Payload) : Word := p.extractLsb' 0 64

/-- The lane that holds element `i` of width `w` (its low lane for width 64). -/
def laneOf (w i : Nat) : Nat := w * i / 32

/-- Whether an element of width `w` is valid: its lane's bit, or both lanes' bits for a pair (R58). -/
def elemValid (w : Nat) (v : BitVec 16) (i : Nat) : Bool :=
  if w = 64 then v.getLsbD (2 * i) && v.getLsbD (2 * i + 1) else v.getLsbD (laneOf w i)

/-- Lane bits as a mask over the payload. -/
def laneMask (v : BitVec 16) : Payload :=
  (List.range 16).foldr (fun l acc => if v.getLsbD l then acc ||| (BitVec.ofNat 512 0xFFFFFFFF <<< (32 * l)) else acc) 0

/-- R89: invalid lanes hold zero. -/
def zeroInvalid (v : BitVec 16) (p : Payload) : Payload := p &&& laneMask v

/-- R58, R88: for pairs both lanes' bits take the AND of the two. -/
def pairValid (v : BitVec 16) : BitVec 16 :=
  let even : BitVec 16 := 0x5555
  let b := v &&& (v >>> 1) &&& even
  b ||| (b <<< 1)

/-- One element value in every element. -/
def splat (w x : Nat) : Payload := packElems w (List.replicate (512 / w) x)

/-- Valid bits from a test on lanes. -/
def validBits (f : Nat → Bool) : BitVec 16 :=
  (List.range 16).foldr (fun l acc => if f l then acc ||| (1 <<< l) else acc) 0

/-! ## Bytes (R3: little-endian) -/

/-- The low `n` bytes of a value, least significant first. -/
def bytesOf : Nat → Nat → List Byte
  | 0, _ => []
  | n + 1, x => BitVec.ofNat 8 x :: bytesOf n (x / 256)

/-- The value of bytes, least significant first. -/
def ofBytes : List Byte → Nat
  | [] => 0
  | b :: bs => b.toNat + 256 * ofBytes bs

/-- A payload as its 64 bytes in memory (R59). -/
def payloadBytes (p : Payload) : List Byte := bytesOf 64 p.toNat

/-- The payload of 64 bytes (R59). -/
def payloadOf (bs : List Byte) : Payload := BitVec.ofNat 512 (ofBytes bs)

/-- Bits [hi:lo] of a word as a number. -/
def fld (w : Word) (hi lo : Nat) : Nat := (w.toNat >>> lo) % 2 ^ (hi + 1 - lo)

/-- Bit `i` of a word. -/
def wbit (w : Word) (i : Nat) : Bool := w.getLsbD i

/-- A word from a number. -/
def word (n : Nat) : Word := BitVec.ofNat 64 n

/-- A Bool as a bit of weight `2^i`. -/
def flag (b : Bool) (i : Nat) : Nat := if b then 2 ^ i else 0

/-- Addition that stops at a limit. -/
def satAdd (lim a b : Nat) : Nat := min lim (a + b)

/-- The negative statuses of R198 and their like, as a register holds them. -/
def status (n : Nat) : Word := BitVec.ofInt 64 (-(n : Int))

end Sys2Proof.Machine
end

