-- ==== Sys2Proof/Machine/Float.lean ====
section
/-! DEFINITION. Floating-point formats, exact values and rounding (R60 to R70, R84, R117 to R122), and WT16 weights (R71 to R73). A
finite value is kept exactly as a sign, a natural number and a power of two. -/
namespace Sys2Proof.Machine

/-! ## Formats (R60 to R62) -/

/-- A floating-point format: width, mantissa width, bias, whether it has infinities, largest finite magnitude, infinity and canonical
NaN (R60, R62). -/
structure Fmt where
  w : Nat
  m : Nat
  bias : Nat
  hasInf : Bool
  maxFin : Nat
  inf : Nat
  nan : Nat
  deriving DecidableEq, Repr

def fmtF32 : Fmt := ⟨32, 23, 127, true, 0x7F7FFFFF, 0x7F800000, 0x7FC00000⟩
def fmtBf16 : Fmt := ⟨16, 7, 127, true, 0x7F7F, 0x7F80, 0x7FC0⟩
def fmtF16 : Fmt := ⟨16, 10, 15, true, 0x7BFF, 0x7C00, 0x7E00⟩
def fmtE4m3 : Fmt := ⟨8, 3, 7, false, 0x7E, 0x7F, 0x7F⟩
def fmtE5m2 : Fmt := ⟨8, 2, 15, true, 0x7B, 0x7C, 0x7E⟩

/-- The format of a float element type. -/
def fmtOf : Ty → Fmt
  | .bf16x2 => fmtBf16 | .f16x2 => fmtF16 | .e4m3x4 => fmtE4m3 | .e5m2x4 => fmtE5m2 | _ => fmtF32

/-- An exact value: NaN, an infinity, or (-1)^neg × m × 2^e. -/
inductive FVal where
  | nan
  | inf (neg : Bool)
  | fin (neg : Bool) (m : Nat) (e : Int)
  deriving DecidableEq, Repr

/-- Sign bit of an encoding. -/
def fSign (f : Fmt) (x : Nat) : Bool := x / 2 ^ (f.w - 1) % 2 = 1
/-- Magnitude bits of an encoding. -/
def fMag (f : Fmt) (x : Nat) : Nat := x % 2 ^ (f.w - 1)
/-- An encoding from sign and magnitude bits. -/
def fEnc (f : Fmt) (neg : Bool) (mag : Nat) : Nat := flag neg (f.w - 1) + mag
/-- R61, R63: a NaN encoding. -/
def isNan (f : Fmt) (x : Nat) : Bool := if f.hasInf then f.inf < fMag f x else fMag f x = 0x7F
/-- An infinity's encoding. -/
def isInf (f : Fmt) (x : Nat) : Bool := f.hasInf && fMag f x = f.inf

/-- The value of an encoding (R61). -/
def fval (f : Fmt) (x : Nat) : FVal :=
  if isNan f x then .nan
  else if isInf f x then .inf (fSign f x)
  else
    let e := fMag f x / 2 ^ f.m
    let fr := fMag f x % 2 ^ f.m
    if e = 0 then .fin (fSign f x) fr (1 - (f.bias : Int) - f.m)
    else .fin (fSign f x) (2 ^ f.m + fr) ((e : Int) - f.bias - f.m)

/-! ## Rounding (R65 to R68) -/

/-- An encoding, and whether its rounding overflowed (R67). -/
structure Rounded where
  bits : Nat
  excess : Bool
  deriving DecidableEq, Repr

/-- R68. -/
def onOver (f : Fmt) (neg : Bool) (ov : Ov) : Nat :=
  match ov with
  | .sat => fEnc f neg f.maxFin
  | .inf => if f.hasInf then fEnc f neg f.inf else f.nan
  | .nan | .trap => f.nan

/-- Whether rounding goes away from zero: quotient `q`, remainder `r` of `2^sh`, something more below when `sticky` (R65). -/
def roundsUp (rm : Rm) (neg : Bool) (q r sh : Nat) (sticky : Bool) : Bool :=
  let half := 2 ^ sh / 2
  let inexact := r ≠ 0 || sticky
  match rm with
  | .rne => if sh = 0 then false else half < r || (r = half && (sticky || q % 2 = 1))
  | .rtz => false
  | .rdn => neg && inexact
  | .rup => !neg && inexact

/-- The magnitude bits nearest to m × 2^e (plus less than one unit of 2^e when `sticky`), exponent unbounded above and subnormal
spacing below (R67). `m` is nonzero; with `sticky`, `m` has at least two bits more than the format keeps. -/
def roundMag (f : Fmt) (rm : Rm) (neg : Bool) (m : Nat) (e : Int) (sticky : Bool) : Nat :=
  let top : Int := (Nat.log2 m : Int) + e
  let q0 : Int := max (top - f.m) (1 - (f.bias : Int) - f.m)
  let sh := (q0 - e).toNat
  let up := (e - q0).toNat
  let q := (m <<< up) >>> sh
  let r := (m <<< up) % 2 ^ sh
  let q' := if roundsUp rm neg q r sh sticky then q + 1 else q
  ((q0 + (f.bias : Int) + f.m - 1).toNat * 2 ^ f.m + q')

/-- R67 with R65 and R68; `sticky` as in roundMag. -/
def roundFin (f : Fmt) (rm : Rm) (ov : Ov) (neg : Bool) (m : Nat) (e : Int) (sticky : Bool) : Rounded :=
  if m = 0 then ⟨fEnc f neg 0, false⟩
  else
    let mag := roundMag f rm neg m e sticky
    if f.maxFin < mag then ⟨onOver f neg ov, true⟩ else ⟨fEnc f neg mag, false⟩

/-- round_to of R67. -/
def roundTo (f : Fmt) (v : FVal) (rm : Rm) (ov : Ov) : Rounded :=
  match v with
  | .nan => ⟨f.nan, false⟩
  | .inf neg => if f.hasInf then ⟨fEnc f neg f.inf, false⟩ else ⟨onOver f neg ov, true⟩
  | .fin neg m e => roundFin f rm ov neg m e false

/-! ## Exact arithmetic (R63, R70, R84, R117) -/

/-- The other sign. -/
def fneg' : FVal → FVal
  | .nan => .nan
  | .inf n => .inf (!n)
  | .fin n m e => .fin (!n) m e

/-- Exact product; 0 × ∞ is NaN (R63), a zero product takes the XOR of the signs (R117). -/
def fmulX : FVal → FVal → FVal
  | .nan, _ => .nan
  | _, .nan => .nan
  | .inf a, .inf b => .inf (a != b)
  | .inf a, .fin b m _ => if m = 0 then .nan else .inf (a != b)
  | .fin a m _, .inf b => if m = 0 then .nan else .inf (a != b)
  | .fin a m e, .fin b n d => .fin (a != b) (m * n) (e + d)

/-- Scaled by 2^k, exactly. -/
def fscale (v : FVal) (k : Int) : FVal :=
  match v with
  | .fin n m e => .fin n m (e + k)
  | v => v

/-- A finite value as an integer multiple of 2^base, base not above its exponent. -/
def atBase (base : Int) : FVal → Int
  | .fin n m e => let x : Int := ((m <<< (e - base).toNat : Nat) : Int); if n then -x else x
  | _ => 0

/-- The exponent of a finite value. -/
def fexp : FVal → Int
  | .fin _ _ e => e
  | _ => 0

/-- R70, R84: the exact sum of terms: NaN if a term is or if both infinities are there, else an infinity if one is, else the exact
value; a zero sum of zeros of one sign keeps it, any other is negative under RDN alone. -/
def fsumX (rm : Rm) (ts : List FVal) : FVal :=
  if ts.any (· = .nan) then .nan
  else if ts.any (· = .inf false) && ts.any (· = .inf true) then .nan
  else if ts.any (· = .inf false) then .inf false
  else if ts.any (· = .inf true) then .inf true
  else
    let base := ts.foldl (fun b t => min b (fexp t)) 0
    let s := ts.foldl (fun acc t => acc + atBase base t) 0
    if s = 0 then
      let neg := if ts.all (fun t => match t with | .fin true 0 _ => true | _ => false) then true
                 else if ts.all (fun t => match t with | .fin false 0 _ => true | _ => false) then false
                 else rm = .rdn
      .fin neg 0 0
    else .fin (s < 0) s.natAbs base

/-- Order of two encodings that are no NaN: zeros of both signs equal (R119). -/
def fkey (f : Fmt) (x : Nat) : Int := if fSign f x then -(fMag f x : Int) else (fMag f x : Int)

/-- Order in which −0 is below +0 (R118, R109). -/
def fkeyZ (f : Fmt) (x : Nat) : Int := if fSign f x then -(fMag f x : Int) - 1 else (fMag f x : Int)

/-- FMIN and FMAX of R118. -/
def fminmax (f : Fmt) (larger : Bool) (a b : Nat) : Nat :=
  if isNan f a || isNan f b then f.nan
  else if larger then (if fkeyZ f a < fkeyZ f b then b else a)
  else (if fkeyZ f b < fkeyZ f a then b else a)

/-- R119. -/
def fcond (f : Fmt) (c : Cond) (a b : Nat) : Bool :=
  let un := isNan f a || isNan f b
  let x := fkey f a
  let y := fkey f b
  match c with
  | .eq => !un && x = y
  | .ne => un || x ≠ y
  | .lt => !un && x < y
  | .le => !un && x ≤ y
  | .ltu => un || x < y
  | .leu => un || x ≤ y
  | .gt => !un && x > y
  | .ge => !un && x ≥ y

/-- R120. -/
def fclass (f : Fmt) (x : Nat) : Nat :=
  let neg := fSign f x
  if isNan f x then 8
  else if isInf f x then (if neg then 0 else 7)
  else if fMag f x = 0 then (if neg then 3 else 4)
  else if fMag f x / 2 ^ f.m = 0 then (if neg then 2 else 5)
  else (if neg then 1 else 6)

/-- A value rounded to an integer under RM (R129, R130). -/
def toIntegral (rm : Rm) (neg : Bool) (m : Nat) (e : Int) : Int :=
  let sh := (-e).toNat
  let q := (m <<< e.toNat) >>> sh
  let r := (m <<< e.toNat) % 2 ^ sh
  let q' : Int := if roundsUp rm neg q r sh false then (q + 1 : Nat) else q
  if neg then -q' else q'

/-! ## The special functions (R122)

Each is computed as a lower bound of its magnitude, off by less than 2^-900 of it, and passed through the rounding with `sticky` set.
Powers of two, perfect squares and the other exact results are taken exactly first. -/

/-- Integer square root, by bits from `k` down. -/
def isqrtAux (n : Nat) : Nat → Nat → Nat
  | 0, r => if (r + 1) * (r + 1) ≤ n then r + 1 else r
  | k + 1, r => isqrtAux n k (if (r + 2 ^ (k + 1)) * (r + 2 ^ (k + 1)) ≤ n then r + 2 ^ (k + 1) else r)

/-- Integer square root. -/
def isqrt (n : Nat) : Nat := isqrtAux n (Nat.log2 n / 2 + 1) 0

/-- Working precision of the series, in bits. -/
def prec : Nat := 1024

/-- Sum of x^k/k! from k = i, term `t`, at the working precision (x < 2). -/
def expTerms (x : Nat) : Nat → Nat → Nat → Nat → Nat
  | 0, _, _, s => s
  | fuel + 1, i, t, s =>
    if t = 0 then s else expTerms x fuel (i + 1) ((t * x) >>> prec / (i + 1)) (s + t)

/-- e^x for 0 ≤ x < 2, x and the result at the working precision. -/
def expFix (x : Nat) : Nat := expTerms x 400 0 (2 ^ prec) 0

/-- Sum of z^(2k+1)/(2k+1) from k = i. -/
def atanhTerms (z2 : Nat) : Nat → Nat → Nat → Nat → Nat
  | 0, _, _, s => s
  | fuel + 1, i, p, s =>
    if p = 0 then s else atanhTerms z2 fuel (i + 1) ((p * z2) >>> prec) (s + p / (2 * i + 1))

/-- ln of num/den between 1 and 2, at the working precision: twice the inverse hyperbolic tangent of (num−den)/(num+den). -/
def lnFix (num den : Nat) : Nat :=
  let z := ((num - den) <<< prec) / (num + den)
  2 * atanhTerms ((z * z) >>> prec) 700 0 z 0

/-- ln 2 at the working precision. -/
def ln2Fix : Nat := lnFix 2 1

/-- e^(−x) at twice the working precision. -/
def expNeg (x : Nat) : Nat := (expFix (ln2Fix - x % ln2Fix) <<< prec) >>> (x / ln2Fix + 1)

/-- A magnitude at the working precision, when the exponent lets it be written there. -/
def fixOf (m : Nat) (e : Int) : Nat := (m <<< (e + prec).toNat) >>> (-(e + prec)).toNat

/-- A quotient with many bits: num/den as m × 2^-k. -/
def quot (num den : Nat) : Nat × Int :=
  let k := prec + Nat.log2 den
  ((num <<< k) / den, -(k : Int))

/-- R122 on a finite nonzero operand (−1)^neg × m × 2^e. -/
def specialFin (op : NodeOp) (f : Fmt) (rm : Rm) (ov : Ov) (neg : Bool) (m : Nat) (e : Int) : Rounded :=
  let big : Bool := 8 < (Nat.log2 m : Int) + e
  let fin (n : Bool) (v : Nat × Int) : Rounded := roundFin f rm ov n v.1 v.2 true
  let tiny : Nat × Int := (2 ^ 64, -600)
  let nearOne : Nat × Int := (2 ^ 200 - 1, -200)
  match op with
  | .frcp =>
    let q := quot 1 m
    roundFin f rm ov neg q.1 (q.2 - e) ((1 <<< (prec + Nat.log2 m)) % m ≠ 0)
  | .fsqrt =>
    if neg then ⟨f.nan, false⟩
    else
      let odd := e % 2 ≠ 0
      let n := (if odd then 2 * m else m) <<< 128
      let r := isqrt n
      roundFin f rm ov false r ((if odd then e - 1 else e) / 2 - 64) (r * r ≠ n)
  | .frsq =>
    if neg then ⟨f.nan, false⟩
    else
      let odd := e % 2 ≠ 0
      let d := if odd then 2 * m else m
      let r := isqrt ((1 <<< 512) / d)
      roundFin f rm ov false r (-((if odd then e - 1 else e) / 2) - 256) (r * r * d ≠ 1 <<< 512)
  | .fexp2 =>
    if 0 ≤ e ∨ m % 2 ^ (-e).toNat = 0 then
      let k : Int := ((m <<< e.toNat) >>> (-e).toNat : Nat)
      if big && 20 < (Nat.log2 m : Int) + e then (if neg then fin false tiny else ⟨onOver f false ov, true⟩)
      else roundFin f rm ov false 1 (if neg then -k else k) false
    else if 12 < (Nat.log2 m : Int) + e then (if neg then fin false tiny else ⟨onOver f false ov, true⟩)
    else
      let k : Int := (m >>> (-e).toNat : Nat)
      let fr := fixOf (m % 2 ^ (-e).toNat) e
      if neg then
        let v := expFix (((2 ^ prec - fr) * ln2Fix) >>> prec)
        fin false (v, -k - 1 - prec)
      else
        let v := expFix ((fr * ln2Fix) >>> prec)
        fin false (v, k - prec)
  | .flog2 =>
    if neg then ⟨f.nan, false⟩
    else
      let k : Int := (Nat.log2 m : Int) + e
      if m = 2 ^ Nat.log2 m then roundFin f rm ov (k < 0) k.natAbs 0 false
      else
        let l := (lnFix m (2 ^ Nat.log2 m) <<< prec) / ln2Fix
        if 0 ≤ k then fin false ((k.toNat <<< prec) + l, -(prec : Int))
        else fin true ((k.natAbs <<< prec) - l - 1024, -(prec : Int))
  | .ftanh =>
    if big then fin neg nearOne
    else
      let d := expNeg (2 * fixOf m e)
      let one := 2 ^ (2 * prec)
      let q := ((one - d) <<< prec) / (one + d)
      fin neg (q - 2048, -(prec : Int))
  | .fsigm =>
    if big then fin false (if neg then tiny else nearOne)
    else
      let d := expNeg (fixOf m e)
      let one := 2 ^ (2 * prec)
      let q := if neg then (d <<< prec) / (one + d) else (one <<< prec) / (one + d)
      fin false (q - 2048, -(prec : Int))
  | _ => ⟨f.nan, false⟩

/-- R122 on every operand. -/
def special (op : NodeOp) (f : Fmt) (rm : Rm) (ov : Ov) (x : Nat) : Rounded :=
  let one := fEnc f false (f.bias * 2 ^ f.m)
  let ok (n : Nat) : Rounded := ⟨n, false⟩
  match fval f x with
  | .nan => ok f.nan
  | .inf neg =>
    match op, neg with
    | .frcp, n => ok (fEnc f n 0)
    | .fexp2, true | .fsigm, true => ok 0
    | .ftanh, n => ok (fEnc f n one)
    | .fsigm, false => ok one
    | .frsq, false => ok 0
    | .fsqrt, false | .fexp2, false | .flog2, false => ok f.inf
    | _, _ => ok f.nan
  | .fin neg m e =>
    if m = 0 then
      match op with
      | .frcp | .frsq => ok (fEnc f neg f.inf)
      | .fsqrt | .ftanh => ok (fEnc f neg 0)
      | .fexp2 => ok one
      | .flog2 => ok (fEnc f true f.inf)
      | _ => ok ((f.bias - 1) * 2 ^ f.m)
    else specialFin op f rm ov neg m e

/-! ## Weights (R71 to R73) -/

/-- 1.0 (R71). -/
def wOne : Weight := 0x7C00

/-- The value of a weight as m × 2^e (R71). -/
def wval (w : Weight) : Nat × Int :=
  let x := if 0xFBFF < w.toNat then 0xFBFF else w.toNat
  if x / 1024 = 0 then (x, -40) else (1024 + x % 1024, (x / 1024 : Nat) - 41)

/-- wsat(rne16(m × 2^e)) of R72. -/
def wround (m : Nat) (e : Int) : Weight :=
  if m = 0 then 0
  else
    let top : Int := (Nat.log2 m : Int) + e
    let q0 : Int := max (top - 10) (-40)
    let sh := (q0 - e).toNat
    let up := (e - q0).toNat
    let q := (m <<< up) >>> sh
    let q' := if roundsUp .rne false q ((m <<< up) % 2 ^ sh) sh false then q + 1 else q
    let mag := (q0 + 40).toNat * 1024 + q'
    if 0xFBFF < mag then 0xFBFF else BitVec.ofNat 16 mag

/-- wadd of R72. -/
def wadd (a b : Weight) : Weight :=
  let x := wval a
  let y := wval b
  let base := min x.2 y.2
  wround ((x.1 <<< (x.2 - base).toNat) + (y.1 <<< (y.2 - base).toNat)) base

/-- wmul of R72. -/
def wmul (a b : Weight) : Weight := wround ((wval a).1 * (wval b).1) ((wval a).2 + (wval b).2)

/-- wscale of R72. -/
def wscale (a : Weight) (s : Int) : Weight := wround (wval a).1 ((wval a).2 + s)

/-- A weight as F32, exactly (R73, R165). -/
def wToF32 (w : Weight) : Nat := (roundFin fmtF32 .rne .sat false (wval w).1 (wval w).2 false).bits

/-- An F32 value as a weight (R73). -/
def f32ToW (x : Nat) : Weight :=
  match fval fmtF32 x with
  | .nan => 0
  | .inf neg => if neg then 0 else 0xFBFF
  | .fin neg m e => if neg then 0 else wround m e

end Sys2Proof.Machine
end

