-- ==== Sys2Proof/Machine/Flags.lean ====
section
/-! DEFINITION. Conditions and saturation of the integer family, on the core and in slots alike (R92, R96 to R104). An element or
register value is a natural number below 2^w; a signed type reads it as two's complement. The machine has no condition flags: a
comparison's result is a value (R101), and the flags of a node's firing are its exception mask (R69). -/
namespace Sys2Proof.Machine

/-- The value of an element of width `w` (R92). -/
def ival (w : Nat) (sg : Bool) (x : Nat) : Int := if sg then sint w x else (x : Int)

/-- Smallest and largest value of a width (R57). -/
def loOf (w : Nat) (sg : Bool) : Int := if sg then -((2 ^ (w - 1) : Nat) : Int) else 0
def hiOf (w : Nat) (sg : Bool) : Int := if sg then ((2 ^ (w - 1) : Nat) : Int) - 1 else ((2 ^ w : Nat) : Int) - 1

/-- R101: EQ and NE compare bits, LT LE GT GE signed values, LTU and LEU unsigned ones. -/
def icond (w : Nat) (c : Cond) (a b : Nat) : Bool :=
  match c with
  | .eq => a = b
  | .ne => a ≠ b
  | .lt => sint w a < sint w b
  | .le => sint w a ≤ sint w b
  | .ltu => a < b
  | .leu => a ≤ b
  | .gt => sint w a > sint w b
  | .ge => sint w a ≥ sint w b

/-! ## R96 -/

def iadd (w : Nat) (_ : Bool) (a b : Nat) : Nat := (a + b) % 2 ^ w
def isub (w : Nat) (_ : Bool) (a b : Nat) : Nat := wrapTo w ((a : Int) - b)
def iadds (w : Nat) (sg : Bool) (a b : Nat) : Nat := wrapTo w (clampTo (loOf w sg) (hiOf w sg) (ival w sg a + ival w sg b))
def isubs (w : Nat) (sg : Bool) (a b : Nat) : Nat := wrapTo w (clampTo (loOf w sg) (hiOf w sg) (ival w sg a - ival w sg b))
def imul (w : Nat) (_ : Bool) (a b : Nat) : Nat := (a * b) % 2 ^ w
def imulh (w : Nat) (sg : Bool) (a b : Nat) : Nat := wrapTo w ((ival w sg a * ival w sg b) / ((2 ^ w : Nat) : Int))
def imad (w : Nat) (_ : Bool) (a b c : Nat) : Nat := (a * b + c) % 2 ^ w
def imin (w : Nat) (sg : Bool) (a b : Nat) : Nat := if ival w sg a < ival w sg b then a else b
def imax (w : Nat) (sg : Bool) (a b : Nat) : Nat := if ival w sg a > ival w sg b then a else b
def iabs (w : Nat) (_ : Bool) (a : Nat) : Nat := (sint w a).natAbs % 2 ^ w
def ineg (w : Nat) (_ : Bool) (a : Nat) : Nat := wrapTo w (-(a : Int))

/-! ## R98, R99 -/

def iand (_ : Nat) (a b : Nat) : Nat := a &&& b
def ior (_ : Nat) (a b : Nat) : Nat := a ||| b
def ixor (_ : Nat) (a b : Nat) : Nat := a ^^^ b
def inot (w : Nat) (a : Nat) : Nat := 2 ^ w - 1 - a
def iandn (w : Nat) (a b : Nat) : Nat := a &&& inot w b
def ishl (w : Nat) (a n : Nat) : Nat := if n < w then (a <<< n) % 2 ^ w else 0
def ishr (w : Nat) (a n : Nat) : Nat := if n < w then a >>> n else 0
def isar (w : Nat) (a n : Nat) : Nat := wrapTo w (sint w a / ((2 ^ (min n (w - 1)) : Nat) : Int))
def irol (w : Nat) (a n : Nat) : Nat := ((a <<< (n % w)) ||| (a >>> (w - n % w))) % 2 ^ w
def iclz (w : Nat) (a : Nat) : Nat := if a = 0 then w else w - 1 - Nat.log2 a
def ictz (w : Nat) (a : Nat) : Nat := ((List.range w).find? fun i => a.testBit i).getD w
def ipopc (w : Nat) (a : Nat) : Nat := (List.range w).foldl (fun n i => n + if a.testBit i then 1 else 0) 0
def ibrev (w : Nat) (a : Nat) : Nat := (List.range w).foldl (fun r i => 2 * r + if a.testBit i then 1 else 0) 0

/-! ## R100: offset q[7:0], width q[15:8] -/

def ibfx (w : Nat) (sx : Bool) (a q : Nat) : Nat :=
  let off := q % 256
  let wd := q / 256 % 256
  if wd = 0 then 0
  else
    let v : Int := if sx then sint w a else (a : Int)
    let f := ((v / ((2 ^ off : Nat) : Int)) % ((2 ^ wd : Nat) : Int)).toNat
    wrapTo w (if sx then sint wd f else (f : Int))

def ibfi (w : Nat) (a q c : Nat) : Nat :=
  let off := q % 256
  let wd := q / 256 % 256
  if wd = 0 ∨ w ≤ off then a
  else
    let n := min wd (w - off)
    let m := (2 ^ n - 1) <<< off
    (a &&& inot w m) ||| ((c <<< off) &&& m)

/-! ## R104 on 64-bit registers -/

def idiv (a b : Nat) : Nat :=
  if b = 0 then 2 ^ 64 - 1 else wrapTo 64 ((sint 64 a).tdiv (sint 64 b))
def idivu (a b : Nat) : Nat := if b = 0 then 2 ^ 64 - 1 else a / b
def irem (a b : Nat) : Nat :=
  if b = 0 then a else wrapTo 64 ((sint 64 a).tmod (sint 64 b))
def iremu (a b : Nat) : Nat := if b = 0 then a else a % b

end Sys2Proof.Machine
end

