-- ==== Sys2Proof/Machine/Operands.lean ====
section
/-! DEFINITION. Operand values of a node (R36): what each source code gives, and the packet types behind TY 15 (R38). -/
namespace Sys2Proof.Machine

/-- KIND codes of a vector token (R74). -/
def kData : BitVec 4 := 0
def kPkthdr : BitVec 4 := 1
def kGap : BitVec 4 := 2
def kBarrier : BitVec 4 := 3
def kMark : BitVec 4 := 4
def kWend : BitVec 4 := 5
def kNrw : BitVec 4 := 6
def kCf8 : BitVec 4 := 7

/-- A scalar token (R9, R76). -/
structure STok where
  val : Word
  thr : BitVec 8
  deriving DecidableEq, Repr

/-- R36: a source that is no queue is valid in all lanes, with key 0 and weight 1.0. -/
def plainTok (p : Payload) : VTok :=
  { valid := 0xFFFF, wt := wOne, key := 0, kind := kData, fmt := 0, thr := 0, pay := p }

/-- R36: the token of a source that is no queue; its FMT and THR are stated nowhere and are free (log 14). -/
def sourceTok (p : Payload) : VTok := { plainTok p with fmt := Config.sourceFmt, thr := Config.sourceThr }

/-- The latch of a slot when its plane is activated (R15). -/
def resetLatch : VTok := sourceTok 0

/-- R36: a scalar token seen as a vector operand. -/
def scalarView (t : STok) : VTok :=
  { valid := 3, wt := wOne, key := 0, kind := kData, fmt := 12, thr := t.thr, pay := t.val.setWidth 512 }

/-- R36: a constant in every lane, or {Kn+1, Kn} in every pair with I64x8. An odd n, which R36 reserves and only a packet's format can bring,
gives the same of its n, with K8 as 0 (log 82). -/
def constTok (ty : Ty) (k : Nat → Lane) (n : Nat) : VTok :=
  sourceTok (if ty = .i64x8 then splat 64 ((k (n + 1)).toNat * 2 ^ 32 + (k n).toNat) else splat 32 (k n).toNat)

/-- R36, R103: the IMM16 value as an element, and whether its conversion overflowed. -/
def immElem (ty : Ty) (rm : Rm) (ov : Ov) (imm : BitVec 16) : Rounded :=
  if tyFloat ty then roundTo (fmtOf ty) (fval fmtBf16 imm.toNat) rm ov
  else if ty = .b32 then ⟨imm.toNat, false⟩
  else ⟨wrapTo (tyWidth ty) (sint 16 imm.toNat), false⟩

/-- R36: IMM16 in every element. -/
def immTok (ty : Ty) (rm : Rm) (ov : Ov) (imm : BitVec 16) : VTok :=
  sourceTok (splat (tyWidth ty) (immElem ty rm ov imm).bits)

/-- R36: a lane index as an element of the type. E5M2 cannot hold 9, 11, 13 and 15 exactly: free values there (log 14). -/
def laneElem (ty : Ty) (l : Nat) : Nat :=
  if ty = .e5m2x4 ∧ 8 < l ∧ l % 2 = 1 then (Config.laneE5m2 l).toNat
  else if tyFloat ty then (roundFin (fmtOf ty) .rne .sat false l 0 false).bits
  else l

/-- R36: the lane index in every sub-element; the element index with I64x8. -/
def laneTok (ty : Ty) : VTok :=
  let w := tyWidth ty
  sourceTok (packElems w ((List.range (512 / w)).map fun i => laneElem ty (if w = 64 then i else laneOf w i)))

/-- What a node sees of its slot and its queue heads. -/
structure SrcEnv where
  heads : List VTok
  consts : List Lane
  latch : VTok
  deriving DecidableEq, Repr

/-- The operand token a source gives (R36). The latch, like every source that is no queue, is seen with all lanes valid, key 0 and weight
1.0; FMT and THR stay those of the result it holds. -/
def srcTok (env : SrcEnv) (ty : Ty) (rm : Rm) (ov : Ov) (imm : BitVec 16) : Src → VTok
  | .queue i => env.heads.getD i.val (plainTok 0)
  | .const k => constTok ty (fun n => env.consts.getD n 0) k.val
  | .imm => immTok ty rm ov imm
  | .zero => sourceTok 0
  | .lane => laneTok ty
  | .latch => { env.latch with valid := 0xFFFF, wt := wOne, key := 0, kind := kData }

/-- The queues an instruction names, in the order A, B, C (R13, R14). -/
def namedQueues (a b c : Src) : List (Fin 8) :=
  [a, b, c].filterMap fun s => match s with | .queue i => some i | _ => none

/-- VALID by the word's VM (R88). -/
def vmValid (vm : Vm) (ty : Ty) (k7 : Lane) (a b c : VTok) : BitVec 16 :=
  let v := match vm with
    | .conj => a.valid &&& b.valid &&& c.valid
    | .a => a.valid
    | .full => 0xFFFF
    | .k7 => k7.setWidth 16
  if ty = .i64x8 then pairValid v else v

end Sys2Proof.Machine
end

