-- ==== Sys2Proof/Machine/Values.lean ====
section
/-! DEFINITION. What the nodes of the integer, lane, floating-point and conversion families compute from their operand tokens
(R92 to R133). A calculation gives the payload, the result type, VALID where the instruction sets it itself, the exception mask, and
a secondary token. Key, weight, THR and the zeroing of invalid lanes are the firing's (R88, R89). -/
namespace Sys2Proof.Machine

/-- A node's calculation; `rawMask` says that the mask stands as it is, whatever VALID becomes (R126). -/
structure Calc where
  pay : Payload
  fmt : BitVec 4
  valid : Option (BitVec 16) := none
  mask : Nat := 0
  rawMask : Bool := false
  secVec : VTok := plainTok 0
  secVal : Word := 0
  secBit : Bool := false
  deriving DecidableEq, Repr

/-- The effective type and the word of a firing. -/
structure CalcIn where
  ty : Ty
  w : NWord
  a : VTok
  b : VTok
  c : VTok
  deriving DecidableEq, Repr

/-- Bit 4l + k of the exception mask for element `i` of width `w` (R69). -/
def maskBit (w i : Nat) : Nat := 4 * laneOf w i + i % (32 / min w 32)

/-- A result with the type's own FMT. -/
def mkCalc (ty : Ty) (pay : Payload) : Calc := { pay := pay, fmt := tyCode ty }

/-- Element by element in the integer family (R92): width, sign, and one element of A, B and C. -/
def mapInt (x : CalcIn) (f : Nat → Bool → Nat → Nat → Nat → Nat) : Calc :=
  let w := tyWidth x.ty
  let n := 512 / w
  mkCalc x.ty (packElems w ((List.range n).map fun i => f w (tySigned x.ty) (elem w x.a.pay i) (elem w x.b.pay i) (elem w x.c.pay i)))

/-! ## Integer and bit family (R96 to R103) -/

def vMov (x : CalcIn) : Calc := mkCalc x.ty x.a.pay
def vLdi (x : CalcIn) : Calc :=
  let w := tyWidth x.ty
  let r := immElem x.ty x.w.rm x.w.ov x.w.imm
  { pay := splat w r.bits, fmt := tyCode x.ty,
    mask := if r.excess ∧ x.w.ov = .trap then (List.range (512 / w)).foldl (fun m i => m + 2 ^ maskBit w i) 0 else 0 }
def vAdd (x : CalcIn) : Calc := mapInt x fun w s a b _ => iadd w s a b
def vSub (x : CalcIn) : Calc := mapInt x fun w s a b _ => isub w s a b
def vAdds (x : CalcIn) : Calc := mapInt x fun w s a b _ => iadds w s a b
def vSubs (x : CalcIn) : Calc := mapInt x fun w s a b _ => isubs w s a b
def vMul (x : CalcIn) : Calc := mapInt x fun w s a b _ => imul w s a b
def vMulh (x : CalcIn) : Calc := mapInt x fun w s a b _ => imulh w s a b
def vMad (x : CalcIn) : Calc := mapInt x fun w s a b c => imad w s a b c
def vMin (x : CalcIn) : Calc := mapInt x fun w s a b _ => imin w s a b
def vMax (x : CalcIn) : Calc := mapInt x fun w s a b _ => imax w s a b
def vAbs (x : CalcIn) : Calc := mapInt x fun w s a _ _ => iabs w s a
def vNeg (x : CalcIn) : Calc := mapInt x fun w s a _ _ => ineg w s a
def vAnd (x : CalcIn) : Calc := mapInt x fun w _ a b _ => iand w a b
def vOr (x : CalcIn) : Calc := mapInt x fun w _ a b _ => ior w a b
def vXor (x : CalcIn) : Calc := mapInt x fun w _ a b _ => ixor w a b
def vAndn (x : CalcIn) : Calc := mapInt x fun w _ a b _ => iandn w a b
def vNot (x : CalcIn) : Calc := mapInt x fun w _ a _ _ => inot w a
def vShl (x : CalcIn) : Calc := mapInt x fun w _ a b _ => ishl w a b
def vShr (x : CalcIn) : Calc := mapInt x fun w _ a b _ => ishr w a b
def vSar (x : CalcIn) : Calc := mapInt x fun w _ a b _ => isar w a b
def vRol (x : CalcIn) : Calc := mapInt x fun w _ a b _ => irol w a b
def vClz (x : CalcIn) : Calc := mapInt x fun w _ a _ _ => iclz w a
def vCtz (x : CalcIn) : Calc := mapInt x fun w _ a _ _ => ictz w a
def vPopc (x : CalcIn) : Calc := mapInt x fun w _ a _ _ => ipopc w a
def vBrev (x : CalcIn) : Calc := mapInt x fun w _ a _ _ => ibrev w a

/-- R100: the control value of element `i` is bits [15:0] of B's lane. -/
def ctlOf (x : CalcIn) (i : Nat) : Nat := (lane x.b.pay (laneOf (tyWidth x.ty) i)).toNat % 65536

/-- As mapInt, with the element's control value in place of B. -/
def mapCtl (x : CalcIn) (f : Nat → Nat → Nat → Nat → Nat) : Calc :=
  let w := tyWidth x.ty
  mkCalc x.ty (packElems w ((List.range (512 / w)).map fun i => f w (elem w x.a.pay i) (ctlOf x i) (elem w x.c.pay i)))

def vBfx (x : CalcIn) : Calc := mapCtl x fun w a q _ => ibfx w false a q
def vBfxs (x : CalcIn) : Calc := mapCtl x fun w a q _ => ibfx w true a q
def vBfi (x : CalcIn) : Calc := mapCtl x fun w a q c => ibfi w a q c
def vCmp (x : CalcIn) : Calc :=
  mapInt x fun w _ a b _ => if icond w (condOfCode (x.w.aux.extractLsb' 0 3)) a b then 2 ^ w - 1 else 0
def vSel (x : CalcIn) : Calc := mapInt x fun _ _ a b c => if c ≠ 0 then a else b

/-- R97. Its FMT is I32 or N32 by the two types that R97 lists; under another, of a packet (R38), it is the packet's (R88). -/
def vDot4 (x : CalcIn) : Calc :=
  let sg := tySigned x.ty
  let f (l : Nat) : Nat :=
    let s : Int := ival 32 sg (elem 32 x.c.pay l)
      + ((List.range 4).map fun k => ival 8 sg (elem 8 x.a.pay (4 * l + k)) * ival 8 sg (elem 8 x.b.pay (4 * l + k))).foldl (· + ·) 0
    wrapTo 32 (if bit x.w.aux 0 then clampTo (loOf 32 sg) (hiOf 32 sg) s else s)
  mkCalc (match x.ty with | .i8x4 => .i32 | .n8x4 => .n32 | t => t) (packElems 32 ((List.range 16).map f))

/-! ## Floating-point family (R116 to R122) -/

/-- Rounded elements of width `w` as a payload and the mask of those that overflowed. -/
def ofRounded (ty : Ty) (trap : Bool) (rs : List Rounded) : Calc :=
  let w := tyWidth ty
  { pay := packElems w (rs.map (·.bits)), fmt := tyCode ty,
    mask := if trap then ((List.range rs.length).zip rs).foldl (fun m p => if p.2.excess then m + 2 ^ maskBit w p.1 else m) 0 else 0 }

/-- R113: each sub-element on its own. -/
def mapF (x : CalcIn) (f : Fmt → FVal → FVal → FVal → FVal) : Calc :=
  let w := tyWidth x.ty
  let fm := fmtOf x.ty
  ofRounded x.ty (x.w.ov = .trap) ((List.range (512 / w)).map fun i =>
    roundTo fm (f fm (fval fm (elem w x.a.pay i)) (fval fm (elem w x.b.pay i)) (fval fm (elem w x.c.pay i))) x.w.rm x.w.ov)

def vFadd (x : CalcIn) : Calc := mapF x fun _ a b _ => fsumX x.w.rm [a, b]
def vFsub (x : CalcIn) : Calc := mapF x fun _ a b _ => fsumX x.w.rm [a, fneg' b]
def vFmul (x : CalcIn) : Calc := mapF x fun _ a b _ => fmulX a b
def vFma (x : CalcIn) : Calc := mapF x fun _ a b c => fsumX x.w.rm [fmulX a b, c]
def vFms (x : CalcIn) : Calc := mapF x fun _ a b c => fsumX x.w.rm [fmulX a b, fneg' c]
def vFnma (x : CalcIn) : Calc := mapF x fun _ a b c => fsumX x.w.rm [fneg' (fmulX a b), c]

/-- Element by element on encodings, with no rounding (R118 to R120). -/
def mapEnc (x : CalcIn) (out : Ty) (f : Fmt → Nat → Nat → Nat) : Calc :=
  let w := tyWidth x.ty
  mkCalc out (packElems w ((List.range (512 / w)).map fun i => f (fmtOf x.ty) (elem w x.a.pay i) (elem w x.b.pay i)))

def vFmin (x : CalcIn) : Calc := mapEnc x x.ty fun f a b => fminmax f false a b
def vFmax (x : CalcIn) : Calc := mapEnc x x.ty fun f a b => fminmax f true a b
def vFabs (x : CalcIn) : Calc := mapEnc x x.ty fun f a _ => if isNan f a then f.nan else fMag f a
def vFneg (x : CalcIn) : Calc := mapEnc x x.ty fun f a _ => if isNan f a then f.nan else fEnc f (!fSign f a) (fMag f a)
def vFcps (x : CalcIn) : Calc := mapEnc x x.ty fun f a b => if isNan f a then f.nan else fEnc f (fSign f b) (fMag f a)
def vFcmp (x : CalcIn) : Calc :=
  mapEnc x .b32 fun f a b => if fcond f (condOfCode (x.w.aux.extractLsb' 0 3)) a b then 2 ^ f.w - 1 else 0
def vFcls (x : CalcIn) : Calc :=
  mapEnc x (match tyWidth x.ty with | 32 => .n32 | 16 => .n16x2 | _ => .n8x4) fun f a _ => fclass f a

/-- R121: products of a lane's sub-elements and C's lane, summed exactly and rounded once into F32. -/
def vFdota (x : CalcIn) : Calc :=
  let w := tyWidth x.ty
  let e := 32 / w
  let fm := fmtOf x.ty
  ofRounded .f32 (x.w.ov = .trap) ((List.range 16).map fun l =>
    roundTo fmtF32 (fsumX x.w.rm (fval fmtF32 (elem 32 x.c.pay l) ::
      (List.range e).map fun k => fmulX (fval fm (elem w x.a.pay (e * l + k))) (fval fm (elem w x.b.pay (e * l + k))))) x.w.rm x.w.ov)

/-- R122. -/
def vSpecial (op : NodeOp) (x : CalcIn) : Calc :=
  let w := tyWidth x.ty
  ofRounded x.ty (x.w.ov = .trap) ((List.range (512 / w)).map fun i => special op (fmtOf x.ty) x.w.rm x.w.ov (elem w x.a.pay i))

/-! ## Conversion family (R123 to R133) -/

/-- The "to" type, the part and the half of IMM16 (R123). -/
def cvtTo (w : NWord) : Ty := (tyOfCode (w.imm.extractLsb' 0 4)).getD .f32
def cvtPart (w : NWord) : Nat := (w.imm.extractLsb' 4 2).toNat

/-- R125. -/
def vCvtup (x : CalcIn) : Calc :=
  let ws := tyWidth x.ty
  let dst := cvtTo x.w
  let wd := tyWidth dst
  let nd := 512 / wd
  let p := cvtPart x.w
  let fs := fmtOf x.ty
  let fd := fmtOf dst
  let f (i : Nat) : Nat := (roundTo fd (fval fs (elem ws x.a.pay (p * nd + i))) .rne .sat).bits
  { pay := packElems wd ((List.range nd).map f), fmt := tyCode dst,
    valid := some (validBits fun l => x.a.valid.getLsbD ((p * nd + (32 / wd) * l) / (32 / ws))) }

/-- R126, R127. -/
def vCvtdn (x : CalcIn) : Calc :=
  let ws := tyWidth x.ty
  let ns := 512 / ws
  let dst := cvtTo x.w
  let wd := tyWidth dst
  let p := cvtPart x.w
  let fs := fmtOf x.ty
  let rs := (List.range ns).map fun j => (j, roundTo (fmtOf dst) (fval fs (elem ws x.a.pay j)) x.w.rm x.w.ov)
  let hit := rs.filter fun r => r.2.excess && elemValid ws x.a.valid r.1
  let mask := hit.foldl (fun m r => m + 2 ^ maskBit wd (p * ns + r.1)) 0
  let big := hit.foldl (fun b r =>
    let v := (roundTo fmtF32 (fval fs (fMag fs (elem ws x.a.pay r.1))) .rne .sat).bits
    if b < v then v else b) 0
  let inPart (l : Nat) : Bool := laneOf wd (p * ns) ≤ l && l < laneOf wd (p * ns) + ns * wd / 32
  let validLane (l : Nat) : Bool :=
    if inPart l then ((List.range (32 / wd)).all fun k => elemValid ws x.a.valid ((32 / wd) * l + k - p * ns)) else x.b.valid.getLsbD l
  let pay := packElems wd ((List.range (512 / wd)).map fun i =>
    if p * ns ≤ i ∧ i < p * ns + ns then (if validLane (laneOf wd i) then ((rs.getD (i - p * ns) (0, ⟨0, false⟩)).2.bits) else 0)
    else elem wd x.b.pay i)
  { pay := pay, fmt := tyCode dst, valid := some (validBits validLane), mask := if x.w.ov = .trap then mask else 0, rawMask := true,
    secVec := { plainTok (packElems 32 [mask % 2 ^ 32, mask / 2 ^ 32, big]) with valid := 7, fmt := 11 },
    secVal := word mask, secBit := mask ≠ 0 }

/-- R128. -/
def vCvtif (x : CalcIn) : Calc :=
  let w := tyWidth x.ty
  let dst := cvtTo x.w
  ofRounded dst (x.w.ov = .trap) ((List.range (512 / w)).map fun i =>
    let v := ival w (tySigned x.ty) (elem w x.a.pay i)
    roundFin (fmtOf dst) x.w.rm x.w.ov (v < 0) v.natAbs 0 false)

/-- R129. -/
def vCvtfi (x : CalcIn) : Calc :=
  let w := tyWidth x.ty
  let dst := cvtTo x.w
  let lo := loOf w (tySigned dst)
  let hi := hiOf w (tySigned dst)
  ofRounded dst (x.w.ov = .trap) ((List.range (512 / w)).map fun i =>
    match fval (fmtOf x.ty) (elem w x.a.pay i) with
    | .nan => ⟨0, true⟩
    | .inf neg => ⟨wrapTo w (if neg then lo else hi), true⟩
    | .fin neg m e =>
      let n := toIntegral x.w.rm neg m e
      if n < lo then ⟨wrapTo w lo, true⟩ else if hi < n then ⟨wrapTo w hi, true⟩ else ⟨wrapTo w n, false⟩)

/-- R130. -/
def vRndi (x : CalcIn) : Calc :=
  mapEnc x x.ty fun f a _ =>
    match fval f a with
    | .nan => f.nan
    | .inf _ => a
    | .fin neg m e => if 0 ≤ e then a else fEnc f neg (fMag f (roundFin f .rne .sat false (toIntegral x.w.rm neg m e).natAbs 0 false).bits)

/-- R131, PACK. Under a packet FMT that R131 does not list, where R38 fires it with no valid lane, its FMT is N8x4 (DESIGN CHOICE, log 72). -/
def vPack (x : CalcIn) : Calc :=
  let w := tyWidth x.ty
  let ns := 512 / w
  let h := w / 2
  let dst : Ty := match x.ty with | .i32 => .i16x2 | .n32 => .n16x2 | .i16x2 => .i8x4 | _ => .n8x4
  let sg := tySigned x.ty
  let f (i : Nat) : Nat :=
    let v := if i < ns then elem w x.a.pay i else elem w x.b.pay (i - ns)
    if bit x.w.aux 0 then wrapTo h (clampTo (loOf h sg) (hiOf h sg) (ival w sg v)) else v % 2 ^ h
  { pay := packElems h ((List.range (2 * ns)).map f), fmt := tyCode dst,
    valid := some (validBits fun l => if l < 8 then x.a.valid.getLsbD (2 * l) && x.a.valid.getLsbD (2 * l + 1)
      else x.b.valid.getLsbD (2 * l - 16) && x.b.valid.getLsbD (2 * l - 15)) }

/-- R131, UNPK. Under a packet FMT that R131 does not list, where R38 fires it with no valid lane, its FMT is N16x2 (DESIGN CHOICE, log 72). -/
def vUnpk (x : CalcIn) : Calc :=
  let w := tyWidth x.ty
  let d := 2 * w
  let nd := 512 / d
  let h := (x.w.imm.extractLsb' 0 1).toNat
  let dst : Ty := match x.ty with | .i16x2 => .i32 | .n16x2 => .n32 | .i8x4 => .i16x2 | _ => .n16x2
  { pay := packElems d ((List.range nd).map fun i => wrapTo d (ival w (tySigned x.ty) (elem w x.a.pay (h * nd + i)))), fmt := tyCode dst,
    valid := some (validBits fun l => x.a.valid.getLsbD (8 * h + l / 2)) }

/-- R132, with the scale of each element of A's packet. -/
def vScl (σ : Nat → Int) (x : CalcIn) : Calc :=
  let w := tyWidth x.ty
  let fm := fmtOf x.ty
  let e := sint 16 x.w.imm.toNat
  ofRounded x.ty (x.w.ov = .trap) ((List.range (512 / w)).map fun i =>
    roundTo fm (fscale (fval fm (elem w x.a.pay i)) ((if bit x.w.aux 0 then σ i else 0) + e)) x.w.rm x.w.ov)

/-! ## Lane family (R105 to R111) -/

/-- A payload from lanes. -/
def packLanes (f : Nat → Nat) : Payload := packElems 32 ((List.range 16).map f)

/-- R106. -/
def vShuf (x : CalcIn) : Calc :=
  let src (l : Nat) : Option Nat :=
    match x.w.aux.toNat % 8 with
    | 0 => let b := (lane x.b.pay l).toNat; if b / 16 % 2 = 1 then none else some (b % 16)
    | 1 => some (15 - l)
    | 2 => some (l ^^^ 1)
    | 3 => some (l ^^^ 2)
    | 4 => some (l ^^^ 4)
    | _ => some (l ^^^ 8)
  { pay := packLanes fun l => match src l with | some j => (lane x.a.pay j).toNat | none => 0, fmt := tyCode x.ty,
    valid := some (validBits fun l => match src l with
      | some j => x.a.valid.getLsbD j && (x.w.aux.toNat % 8 ≠ 0 || x.b.valid.getLsbD l)
      | none => false) }

/-- The element index of BCST, VGET and VSET, and lanes per element ("element" means a lane, or a pair with I64x8; R105). -/
def unitW (ty : Ty) : Nat := if ty = .i64x8 then 64 else 32
def idxOf (x : CalcIn) : Nat := (x.w.imm.extractLsb' 0 4).toNat % (512 / unitW x.ty)

/-- Valid bits of units (lanes, or pairs with both lanes alike). -/
def unitBits (w : Nat) (f : Nat → Bool) : BitVec 16 := validBits fun l => f (if w = 64 then l / 2 else l)

/-- R107, BCST. -/
def vBcst (x : CalcIn) : Calc :=
  let w := unitW x.ty
  { pay := splat w (elem w x.a.pay (idxOf x)), fmt := tyCode x.ty,
    valid := some (if elemValid w x.a.valid (idxOf x) then 0xFFFF else 0) }

/-- R107, VGET. -/
def vVget (x : CalcIn) : Calc :=
  let w := unitW x.ty
  { pay := packElems w [elem w x.a.pay (idxOf x)], fmt := tyCode x.ty,
    valid := some (unitBits w fun i => i = 0 && elemValid w x.a.valid (idxOf x)) }

/-- R107, VSET. -/
def vVset (x : CalcIn) : Calc :=
  let w := unitW x.ty
  { pay := packElems w ((List.range (512 / w)).map fun i => if i = idxOf x then elem w x.b.pay 0 else elem w x.a.pay i),
    fmt := tyCode x.ty,
    valid := some (if w = 64 then unitBits 64 fun i => if i = idxOf x then elemValid 64 x.b.valid 0 else elemValid 64 x.a.valid i
      else validBits fun l => if l = idxOf x then x.b.valid.getLsbD 0 else x.a.valid.getLsbD l) }

/-- R108. -/
def vLrot (x : CalcIn) : Calc :=
  let w := unitW x.ty
  let n := 512 / w
  let amt := if x.w.sb = .zero then (x.w.imm.extractLsb' 0 4).toNat
    else if x.b.valid.getLsbD 0 then (lane x.b.pay 0).toNat % 16 else 0
  let k := amt % n
  let from' (i : Nat) : Option Nat := if bit x.w.aux 0 then (if k ≤ i then some (i - k) else none) else some ((i + n - k) % n)
  { pay := packElems w ((List.range n).map fun i => match from' i with | some j => elem w x.a.pay j | none => 0), fmt := tyCode x.ty,
    valid := some (unitBits w fun i => match from' i with | some j => elemValid w x.a.valid j | none => false) }

/-- One element of a fold: absent, or an encoding with the overflow of the steps that led to it (R109). -/
abbrev FoldElem := Option Rounded

/-- ⊕ of R109: 0 addition, 1 the larger, 2 the smaller. -/
def foldStep (ty : Ty) (mode : Nat) (rm : Rm) (ov : Ov) (a b : FoldElem) : FoldElem :=
  match a, b with
  | none, y => y
  | x, none => x
  | some x, some y =>
    if tyFloat ty then
      let f := fmtOf ty
      match mode with
      | 0 => let r := roundTo f (fsumX rm [fval f x.bits, fval f y.bits]) rm ov
             some ⟨r.bits, r.excess || x.excess || y.excess⟩
      | 1 => some ⟨fminmax f true x.bits y.bits, x.excess || y.excess⟩
      | _ => some ⟨fminmax f false x.bits y.bits, x.excess || y.excess⟩
    else
      let w := tyWidth ty
      let sg := tySigned ty
      match mode with
      | 0 => some ⟨iadd w sg x.bits y.bits, false⟩
      | 1 => some ⟨imax w sg x.bits y.bits, false⟩
      | _ => some ⟨imin w sg x.bits y.bits, false⟩

/-- Neighbouring elements combined (one level of the tree). -/
def foldPairs (f : FoldElem → FoldElem → FoldElem) : List FoldElem → List FoldElem
  | a :: b :: r => f a b :: foldPairs f r
  | l => l

/-- The pairwise tree of R109. -/
def foldTree (f : FoldElem → FoldElem → FoldElem) : Nat → List FoldElem → FoldElem
  | 0, l => l.headD none
  | n + 1, l => match l with
    | [] => none
    | [x] => x
    | l => foldTree f n (foldPairs f l)

/-- One step of the prefix of R109. -/
def scanStep (f : FoldElem → FoldElem → FoldElem) (d : Nat) (s : List FoldElem) : List FoldElem :=
  (List.range s.length).map fun i => if d ≤ i then f (s.getD (i - d) none) (s.getD i none) else s.getD i none

/-- The elements of A, invalid ones absent. -/
def foldIn (ty : Ty) (a : VTok) : List FoldElem :=
  let w := tyWidth ty
  (List.range (512 / w)).map fun i => if elemValid w a.valid i then some ⟨elem w a.pay i, false⟩ else none

/-- R109: the format the WIDE form of RSUM runs in. -/
def wideTy : Ty → Ty
  | .bf16x2 | .f16x2 | .e4m3x4 | .e5m2x4 => .f32
  | .i8x4 | .i16x2 => .i32
  | .n8x4 | .n16x2 => .n32
  | t => t

/-- R109: an element converted exactly into the wide format. -/
def widen (ty : Ty) (x : Nat) : Nat :=
  if tyFloat ty then (roundTo fmtF32 (fval (fmtOf ty) x) .rne .sat).bits
  else wrapTo (tyWidth (wideTy ty)) (ival (tyWidth ty) (tySigned ty) x)

/-- A tree's result in element 0 (R110). -/
def foldOut (ty : Ty) (trap : Bool) (r : FoldElem) : Calc :=
  match r with
  | none => { pay := 0, fmt := tyCode ty, valid := some 0 }
  | some v => { pay := packElems (tyWidth ty) [v.bits], fmt := tyCode ty, valid := some (if ty = .i64x8 then 3 else 1),
                mask := if trap && v.excess then 1 else 0 }

def vRsum (x : CalcIn) : Calc :=
  let wide := bit x.w.aux 0
  let ty := if wide then wideTy x.ty else x.ty
  let l := if wide then (foldIn x.ty x.a).map (·.map fun r => ⟨widen x.ty r.bits, false⟩) else foldIn x.ty x.a
  foldOut ty (x.w.ov = .trap) (foldTree (foldStep ty 0 x.w.rm x.w.ov) 7 l)
def vRmax (x : CalcIn) : Calc := foldOut x.ty false (foldTree (foldStep x.ty 1 .rne .sat) 7 ((foldIn x.ty x.a).map (nanFold x.ty)))
where nanFold (ty : Ty) (e : FoldElem) : FoldElem :=
  e.map fun r => if tyFloat ty && isNan (fmtOf ty) r.bits then ⟨(fmtOf ty).nan, false⟩ else r
def vRmin (x : CalcIn) : Calc := foldOut x.ty false (foldTree (foldStep x.ty 2 .rne .sat) 7 ((foldIn x.ty x.a).map (vRmax.nanFold x.ty)))
/-- R109, SCAN. In add mode an element that no addition combines keeps its bits, a NaN's too, as in RSUM: absent + x is x (DEDUCED, log 87). -/
def vScan (x : CalcIn) : Calc :=
  let w := tyWidth x.ty
  let mode := x.w.aux.toNat % 4
  let f := foldStep x.ty mode x.w.rm x.w.ov
  let s0 := (foldIn x.ty x.a).map (fun e => if mode = 0 then e else vRmax.nanFold x.ty e)
  let s := ([1, 2, 4, 8, 16, 32].filter (· < 512 / w)).foldl (fun s d => scanStep f d s) s0
  { ofRounded x.ty (x.w.ov = .trap && mode = 0) (s.map fun e => e.getD ⟨0, false⟩) with valid := some (if x.ty = .i64x8 then pairValid x.a.valid else x.a.valid) }

/-- R111. -/
def vCmpct (x : CalcIn) : Calc :=
  let w := unitW x.ty
  let n := 512 / w
  let sel := (List.range n).filter fun j => elemValid w x.a.valid j
    && (x.w.sb = .zero || (elemValid w x.b.valid j && elem w x.b.pay j ≠ 0))
  let c := sel.length
  { pay := packElems w (sel.map (elem w x.a.pay)), fmt := tyCode x.ty, valid := some (unitBits w fun i => i < c),
    secVec := { plainTok (packElems 32 [c]) with valid := 1, fmt := 1 }, secVal := word c, secBit := c ≠ 0 }

end Sys2Proof.Machine
end

