-- ==== Sys2Proof/Machine/Cf8.lean ====
section
/-! DEFINITION. CF8 blocks (R80 to R83, R133), tile-packet headers and their scales (R77 to R79). -/
namespace Sys2Proof.Machine

/-- Bits of a number, most significant first. -/
def bitsMsb : Nat → Nat → List Bool
  | 0, _ => []
  | n + 1, x => x.testBit n :: bitsMsb n x

/-- A number from bits, most significant first. -/
def ofBitsMsb (l : List Bool) : Nat := l.foldl (fun a b => 2 * a + if b then 1 else 0) 0

/-- R81: the mantissa width of the element format. -/
def cf8M (ty : Ty) : Nat := if ty = .e4m3x4 then 3 else 2

/-- The biased exponent field of an 8-bit element. -/
def cf8Exp (ty : Ty) (x : Nat) : Nat := x % 128 / 2 ^ cf8M ty

/-- R81: one element coded with parameter `k`. -/
def cf8Code (ty : Ty) (k emax x : Nat) : List Bool :=
  let d := emax - cf8Exp ty x
  decide (128 ≤ x) :: (bitsMsb (cf8M ty) (x % 2 ^ cf8M ty) ++ List.replicate (d / 2 ^ k) true ++ false :: bitsMsb k (d % 2 ^ k))

/-- Bytes from bits, each filled from bit 7 down, the last padded with zeros (R81). -/
def bytesMsb : Nat → List Bool → List Nat
  | 0, _ => []
  | n + 1, l => if l = [] then [] else ofBitsMsb (l.take 8 ++ List.replicate (8 - (l.take 8).length) false) :: bytesMsb n (l.drop 8)

/-- R82: the block of 64 elements: header and payload bytes. -/
def cf8Encode (ty : Ty) (es : List Nat) : Nat × List Nat :=
  let emax := es.foldl (fun m x => max m (cf8Exp ty x)) 0
  let codes := (List.range 4).map fun k => (k, es.flatMap (cf8Code ty k emax))
  let best := codes.foldl (fun b c => if (c.2.length + 7) / 8 < (b.2.length + 7) / 8 then c else b) (codes.headD (0, []))
  let count := (best.2.length + 7) / 8
  if 64 ≤ count then (0x8040, es)
  else (best.1 * 8192 + emax * 256 + count, bytesMsb 64 best.2)

/-- R81: reads `n` elements from a bit stream; none when a d exceeds EMAX or the stream ends. An exponent that E4M3 cannot hold is no error of
R83's list: the element is the eight low bits of the sum (log 83). -/
def cf8Read (ty : Ty) (k emax : Nat) : Nat → List Bool → Option (List Nat × List Bool)
  | 0, l => some ([], l)
  | n + 1, l =>
    match l with
    | [] => none
    | s :: l =>
      let m := cf8M ty
      let mant := ofBitsMsb (l.take m)
      let l := l.drop m
      let ones := (l.takeWhile id).length
      let rest := l.drop (ones + 1)
      let d := ones * 2 ^ k + ofBitsMsb (rest.take k)
      if l.length ≤ ones ∨ rest.length < k ∨ emax < d then none
      else match cf8Read ty k emax n (rest.drop k) with
        | none => none
        | some (es, r) => some ((flag s 7 + (emax - d) * 2 ^ m + mant) :: es, r)

/-- R83: the 64 elements of a CF8 token, or none for a decode error. -/
def cf8Decode (ty : Ty) (key : Nat) (pay : Payload) : Option (List Nat) :=
  let raw := 32768 ≤ key
  let count := key % 256
  let bytes := elems 8 64 pay
  if raw then (if key = 0x8040 then some bytes else none)
  else if count = 0 ∨ 63 < count then none
  else
    match cf8Read ty (key / 8192 % 4) (key / 256 % 32) 64 ((bytes.take count).flatMap (bitsMsb 8)) with
    | none => none
    | some (es, rest) => if rest.length ≤ 7 ∧ ¬ rest.any id then some es else none

/-- R133: the block of A, invalid lanes coded as zero bytes. -/
def cf8Block (x : CalcIn) : Nat × List Nat := cf8Encode x.ty (elems 8 64 (zeroInvalid x.a.valid x.a.pay))

/-- R133, CMPR: the calculation's payload is the block; KIND, KEY and FMT are the firing's. -/
def vCmpr (x : CalcIn) : Calc :=
  { pay := packElems 8 (cf8Block x).2, fmt := 0, valid := some x.a.valid }

/-- R133, CLEN. -/
def vClen (x : CalcIn) : Calc :=
  { pay := packElems 32 [(cf8Block x).1 % 256, (cf8Block x).1], fmt := 1, valid := some 3 }

/-! ## Tile packets (R77 to R79) -/

/-- The operand decoder of one queue: the last valid header taken in the phase, and the data tokens taken since. -/
structure PktDec where
  fmt : Ty
  tpr : Nat
  nsc : Nat
  smode : Nat
  scales : List Int
  deriving DecidableEq, Repr

/-- R77: a packet header, if it is valid. -/
def pktOf (t : VTok) : Option PktDec :=
  let l0 := (lane t.pay 0).toNat
  let l1 := (lane t.pay 1).toNat
  let tpr := l0 / 65536 % 256
  let nsc := l0 / 256 % 256
  let smode := l0 % 4
  match tyOfCode t.fmt with
  | none => none
  | some ty =>
    if ty = .pkt ∨ l0 / 16777216 ≠ 0 ∨ l0 / 4 % 64 ≠ 0 ∨ l1 ≠ 0 ∨ tpr = 0 then none
    else if (smode = 0 ∧ nsc = 0) ∨ (smode = 1 ∧ nsc = 1) ∨ (2 ≤ smode ∧ 1 ≤ nsc ∧ nsc ≤ 56) then
      some { fmt := ty, tpr := tpr, nsc := nsc, smode := smode,
             scales := (List.range 56).map fun i => sint 8 (elem 8 t.pay (8 + i)) }
    else none

/-- R78: the scale of element `p` of the j-th data token after the header. -/
def pktScale (d : PktDec) (j p : Nat) : Int :=
  let n := tyCount d.fmt
  let i := match d.smode with
    | 1 => 0
    | 2 => (j / d.tpr) % d.nsc
    | _ => ((j % d.tpr * n + p) / 32) % d.nsc
  if d.smode = 0 then 0 else d.scales.getD i 0

/-- Kinds that advance j (R78). -/
def countsAsData (t : VTok) : Bool := t.kind = kData || t.kind = kNrw || t.kind = kCf8

end Sys2Proof.Machine
end

