-- ==== Sys2Proof/Machine/State.lean ====
section
/-! DEFINITION. The state of the package: everything the spec gives the machine, as plain data. Tables are sparse: an entry that is
not listed is at its reset value. -/
namespace Sys2Proof.Machine

/-! ## Tokens in queues -/

/-- A token of any of the three networks (R9). -/
inductive Tok where
  | vec (t : VTok)
  | sca (t : STok)
  | ctl (b : Bool)
  deriving DecidableEq, Repr

/-- The thread a token names; a control token names none (R140). -/
def Tok.thr : Tok → BitVec 8
  | .vec t => t.thr
  | .sca t => t.thr
  | .ctl _ => 0

/-- An entry of an input queue: its token, the second record of a NARROW pair, whether it was stored narrowed, and the cycles of the two
records' admission (R144, R153, R168). -/
structure QEntry where
  tok : Tok
  second : Option VTok := none
  nrw : Bool := false
  at_ : Nat := 0
  at2 : Nat := 0
  deriving DecidableEq, Repr

/-- A gap that a queue still owes or shows ahead of its head: count, weight, ERR, OVR, thread (R146, R150). -/
structure Gap where
  count : Nat := 0
  wt : Weight := 0
  err : Bool := false
  ovr : Bool := false
  thr : BitVec 8 := 0
  deriving DecidableEq, Repr

/-- An input queue, of a PE or of a router operator (R144 to R153, R158). `headAt` is the cycle in which the present head became it;
`arr` the token arriving; `dec` and `hdr` the operand decoder and whether a header was taken in the phase (R10, R77); `j` the data
tokens taken since (R78); `taken` the tokens taken since plane activation (R69). -/
structure Queue where
  items : List QEntry := []
  pend : Gap := {}
  head : Gap := {}
  lfsr : BitVec 16 := 0
  close : Bool := false
  headAt : Nat := 0
  arr : List Tok := []
  dec : Option PktDec := none
  j : Nat := 0
  taken : Nat := 0
  deriving DecidableEq, Repr

/-! ## Slots -/

/-- A firing in a slot's pipeline: whether its results are there, and what goes to the ports O0 to O3 (R87). `id` names the access,
barrier arrival or matrix operation it waits for; `arith` is the serial of its ARITH record, which enters the event queue once the results
have completed (R136), or 0. -/
structure Firing where
  id : Nat
  ready : Bool
  ems : List (Fin 4 × Tok)
  arith : Nat := 0
  deriving DecidableEq, Repr

/-- A record of a JOIN or AGG table. -/
structure Row where
  tok : VTok
  held : Bool := false
  lost : Bool := false
  matched : Bool := false
  deriving DecidableEq, Repr

/-- One side of a JOIN (R168). -/
structure Side where
  rows : List Row := []
  lc : Nat := 0
  lw : Weight := 0
  closed : Bool := false
  deriving DecidableEq, Repr

/-- What a slot keeps besides its latch, by instruction: WIN (R167), JOIN (R168), AGG (R169), SEQ (R196), an AGEN pass (R247), an MSEQ
run (R219), CJOIN (R256), RADV firings parked (R220). A JOIN's `out` is what it has still to emit, each with its exception mask; `wend`
names the WEND that closed the window (R69). -/
inductive NodeSt where
  | idle
  | win (pos lc : Nat) (lw : Weight) (num : Nat)
  | join (a b : Side) (out : List (Nat × Fin 4 × Tok)) (wend : Nat)
  | agg (rows : List VTok) (num : Nat)
  | seq (n i taken : Nat) (thr : BitVec 8) (running : Bool)
  | agen (n i : Nat) (base : Word) (stride : Int) (thr : BitVec 8) (banks : List Nat)
  | mseq (n i : Nat) (t : Word) (mode : Nat) (thr : BitVec 8)
  | cjoin (cnt : Nat)
  | radv (parked : List (Nat × Nat × BitVec 8))
  deriving DecidableEq, Repr

/-- A slot of a tile's active plane (R13, R15, R86, R87). `since` is the cycle it last became ready; `fired` that it has had its one
firing of a phase in which it names no queue; `gap` the firings made of a gap marker at B (R249); `fault` that an access of it waits
for an answer (R310); `barns` its outputs deferred to a barrier release, with their thread, barrier and episode (R197). -/
structure Slot where
  latch : VTok := resetLatch
  since : Option Nat := none
  fired : Bool := false
  pipe : List Firing := []
  node : NodeSt := .idle
  gap : Nat := 0
  fault : Bool := false
  barns : List (BitVec 8 × Nat × Nat) := []
  deriving DecidableEq, Repr

/-! ## Router operators and memory ports -/

/-- A router operator (R158 to R162): its queues, owed counts, LOOP or HOLD state, held value, and tokens waiting for their output
links. -/
structure Op where
  ina : Queue := {}
  inb : Queue := {}
  cin : Queue := {}
  owedA : Nat := 0
  owedB : Nat := 0
  loop : Bool := false
  held : Option VTok := none
  outT : Option VTok := none
  outF : Option VTok := none
  deriving DecidableEq, Repr

/-- How an access stands with a fault: none, a fault that waits for a free page-request entry, one that waits for its request (number and
serial; R310, R315). -/
inductive FaultSt where
  | none
  | waits (cause : Nat)
  | open_ (req serial : Nat)
  deriving DecidableEq, Repr

/-- How far an MCAST request has come (R253, R254): pieces asked for, its claimed tile, lines arrived and not landed, lines landed,
granules at which it lands. -/
structure Mcast where
  asked : Nat := 0
  accepted : Bool := false
  base : Nat := 0
  arrived : List (Nat × Payload × Bool) := []
  landed : Nat := 0
  deriving DecidableEq, Repr

/-- An access in a port queue (R240, R286, R288): its firing, node word, thread, effective address, data and compare tokens, global
order of issue, where an LDF that has parked stands in the order of parking, and its fault. -/
structure Access where
  id : Nat
  slot : Fin 8
  op : MemOp
  w : MWord
  thr : BitVec 8
  ea : Word
  data : VTok
  cmp : VTok
  bval : Word := 0
  seq : Nat
  parked : Option Nat := none
  fault : FaultSt := .none
  mc : Mcast := {}
  deriving DecidableEq, Repr

/-- A range entry: the four registers of R305. -/
structure RangeEntry where
  base : Word := 0
  lim : Word := 0
  pa : Word := 0
  vo : Word := 0
  deriving DecidableEq, Repr

/-- A port copy of a range entry: the entry and the core entry it was copied from (R307). -/
structure RangeCopy where
  entry : RangeEntry
  src : Nat
  deriving DecidableEq, Repr

/-- A memory port (R240 to R250, R307). -/
structure Port where
  queue : List Access := []
  start : Bool := false
  nextId : Nat := 0
  entries : List RangeCopy := []
  deriving DecidableEq, Repr

/-- Cycle classes (R342). -/
inductive CycClass where
  | fired | lost (o : Fin 4) | nodata | cfg (l : Nat) | fault | mem | gate | idle
  deriving DecidableEq, Repr

/-- What a cut keeps of a tile in progress (R355): its number, whether the tile has recorded, and the links with a marker received. -/
structure CutTile where
  num : Nat := 0
  recorded : Bool := false
  marked : List Nat := []
  deriving DecidableEq, Repr

/-- A tile (R12): the launch it is allotted to and its active plane (R19, R24). Configuration fields are keyed by plane, page and field; links by network and direction; grants by outgoing vector
link, least recently granted source first. `first` names the record kinds written in the phase, `counts` the tile's event counts, `drops` those of its guarded links (R326); `replay` is
the class that this cycle repeats where a stage of the element is replayed in it (R343). -/
structure Tile where
  owner : Option Nat := none
  active : Option (Fin 4) := none
  cfg : Assoc (BitVec 16) := []
  slots : Assoc Slot := []
  queues : Assoc Queue := []
  outs : Assoc (List Tok) := []
  links : Assoc (List (Tok × Nat)) := []
  used : Assoc Nat := []
  ord : Assoc Nat := []
  grants : Assoc (List Nat) := []
  g0 : Op := {}
  g1 : Op := {}
  port : Port := {}
  issued : Option Nat := none
  first : List Nat := []
  counts : Assoc Nat := []
  drops : Assoc Nat := []
  cut : Option CutTile := none
  replay : Option Nat := none
  deriving DecidableEq, Repr

/-! ## Slices (R230 to R237, R253) -/

/-- A line held by a cache: its line number (PA / 64, or VA / 64 in a configuration cache), CTX, dirty (R175, R232). A configuration cache
keeps its own copy of the line, for it is not kept coherent with stores (R176); the lines of a slice have theirs in memory, and `way` is the area unit
that holds them (R234). -/
structure CacheLine where
  line : Nat
  ctx : BitVec 12
  dirty : Bool := false
  data : Payload := 0
  way : Nat := 0
  deriving DecidableEq, Repr

/-- A granule of a stream window: its address, payload, whether it waits to be written back (and for which access), and whether
a fill has been overtaken by a write of its own port (R235, R242, R243). -/
structure WinGran where
  pa : Nat
  va : Word
  data : Payload
  valid : BitVec 16
  store : Bool
  id : Nat := 0
  stale : Bool := false
  deriving DecidableEq, Repr

/-- A stream window (R235): BUSY, UBASE, USIZE, the counts HEAD and TAIL (a register shows them modulo 2^14), what it holds; the address whose read-ahead was last dropped (R243, R312). -/
structure Window where
  busy : Bool := false
  ubase : Nat := 0
  usize : Nat := 0
  head : Nat := 0
  tail : Nat := 0
  held : List WinGran := []
  dropped : Option Word := none
  deriving DecidableEq, Repr

/-- A member of a merged MCAST entry: cluster, port access, which granule of its range the piece begins at, and how many lines had been
sent before it joined (R253). -/
structure Member where
  cl : ClusterId
  tile : TileId
  id : Nat
  off : Nat
  missed : Nat
  deriving DecidableEq, Repr

/-- A merged MCAST entry of a home slice (R253); `sentAt` is the cycle in which its last line was sent, `line` and `lineBad` what the main pass last
read (R302). -/
structure McastEntry where
  id : Nat
  pa : Nat
  lines : Nat
  group : Nat
  mask : Nat
  ctx : BitVec 12
  opened : Nat
  sending : Bool
  next : Nat
  catchup : Nat
  sentAt : Option Nat := none
  line : Payload := 0
  lineBad : Bool := false
  members : List Member
  deriving DecidableEq, Repr

/-- A cache slice (R230): `data` are the bytes of its area units as stream windows use them, keyed by unit and offset. -/
structure Slice where
  smap : BitVec 12 := 0
  tags : List CacheLine := []
  hot : List CacheLine := []
  wins : Assoc Window := []
  mcast : List McastEntry := []
  data : Assoc Byte := []
  deriving DecidableEq, Repr

/-! ## Clusters -/

/-- A record of an event queue, without the SEQ it gets when it is accepted (R271). `firing` is the serial of the firing whose results an ARITH
record still waits for, and `at_` the cycle after they completed (R87, R136); both are 0 in a queue. -/
structure Rec where
  kind : Nat
  ctx : BitVec 12 := 0
  row : Nat := 0
  col : Nat := 0
  thr : BitVec 8 := 0
  sub : Nat := 0
  seq : Nat := 0
  tag : BitVec 16 := 0
  handle : Nat := 0
  p0 : Word := 0
  p1 : Word := 0
  firing : Nat := 0
  at_ : Nat := 0
  deriving DecidableEq, Repr

/-- What a control core is doing (R264, R274, R275): stopped; running; in EVWAIT or WFE since a cycle, with its timeout (0: none), the
register it answers in and the address of the instruction after it. -/
inductive CoreRun where
  | stopped
  | running
  | evwait (since limit : Nat) (xd : Fin 32) (after : Word)
  | wfe (since limit : Nat) (xd : Fin 32) (after : Word)
  deriving DecidableEq, Repr

/-- A store in a core's store buffer (R265). -/
structure SbEntry where
  pa : Nat
  bytes : List Byte
  ctx : BitVec 12
  seq : Nat
  deriving DecidableEq, Repr

/-- A global load of a core that has issued and not yet performed (R265, R288). -/
structure PLoad where
  xd : Fin 32
  pa : Nat
  size : Nat
  signed : Bool
  ctx : BitVec 12
  seq : Nat
  deriving DecidableEq, Repr

/-- An arrival at a barrier that is made and not yet registered (R277): its episode, the order of issue before which its source's accesses
must have performed, and its source: a core, or a BARN firing of a launch with its thread. -/
structure Arrival where
  episode : Nat
  before : Nat
  launch : Option LaunchId
  thr : BitVec 8
  deriving DecidableEq, Repr

/-- A named barrier (R276, R277): its configuration, counts, episode number (a register shows it modulo 2^16) and owner; `made` are the
arrivals made and not yet registered; `counts` the arrivals made for the current and each later episode; `sent` that this cluster has
reported; `reporters` the clusters that have. -/
structure Barrier where
  cfg : Word := 0
  ctx : BitVec 12 := 0
  arrived : Nat := 0
  reports : Nat := 0
  gen : Nat := 0
  made : List Arrival := []
  counts : List Nat := []
  sent : Bool := false
  reporters : List ClusterId := []
  deriving DecidableEq, Repr

/-- A ring (R205): its geometry and counts. `claimed` counts tiles that MCAST requests have claimed ahead of TAIL (R252). -/
structure Ring where
  few : Bool := false
  tsz : Nat := 0
  size : Nat := 0
  base : Nat := 0
  head : BitVec 16 := 0
  tail : BitVec 16 := 0
  claimed : Nat := 0
  deriving DecidableEq, Repr

/-- A matrix operation in a queue of the array (R213): its control token, the node that sent it with its firing, whether it has started
and has been carried out, and the cause of its refusal (0: none). `ta`, `tb` and `td` are the indexes of the ring tiles that it claims from its
start: those it reads as A and as B, and the one it writes (R208); `todo` the granules it has still to write, by space and number (R289). -/
structure MOp where
  id : Nat
  tok : Word
  tile : TileId
  slot : Fin 8
  thr : BitVec 8
  part : Option (Fin 16)
  seq : Nat
  started : Bool := false
  ran : Bool := false
  cause : Nat := 0
  ta : BitVec 16 := 0
  tb : BitVec 16 := 0
  td : BitVec 16 := 0
  todo : List (Nat × Payload) := []
  deriving DecidableEq, Repr

/-- A segment that an engine skipped (R313): its first granule, the address that faulted, and its page request (number and serial). -/
structure Fixup where
  first : Nat
  va : Word
  req : Nat
  serial : Nat
  deriving DecidableEq, Repr

/-- A transfer of the copy or collective engine (R228, R313, R391): the descriptor's eight words, who posted it, granules written, its
fix-up list, failed segments by their first granule, whether the records of causes 2 and 4 were written, its status, the step of its
completion, the page request of its counter, and the segment being replayed; `ranks` are the members' devices and dies, `tiles` the ring tiles published. -/
structure Transfer where
  num : Nat
  words : List Word
  core : ClusterId
  ctx : BitVec 12
  started : Bool := false
  written : List Nat := []
  fix : List Fixup := []
  failed : List Nat := []
  permed : Bool := false
  fataled : Bool := false
  status : Nat := 0
  step : Nat := 0
  bump : Option (Nat × Nat) := none
  cur : Option Nat := none
  ranks : List (Nat × Fin 4) := []
  tiles : Nat := 0
  deriving DecidableEq, Repr

/-- A copy or collective engine: its queue of 32, the transfer running at its head, and the next sequence number (R227, R391). -/
structure Engine where
  queue : List Transfer := []
  next : Nat := 0
  deriving DecidableEq, Repr

/-- A counter (R344, R346). The value saturates at 2^48 - 1, with OVF; `since` is the cycle of its CTRSEL. -/
structure Ctr where
  sel : Word := 0
  val : Nat := 0
  ovf : Bool := false
  disallowed : Bool := false
  since : Nat := 0
  deriving DecidableEq, Repr

/-- The lease of a Belvedere resource (R347): its holder, whether that is the hypervisor, and the contexts that lost it; the
cycle of the grant, and whether the resource was free before it (R348). -/
structure Lease where
  held : Bool := false
  hv : Bool := false
  holder : BitVec 12 := 0
  lost : List (BitVec 12) := []
  since : Nat := 0
  wasFree : Bool := false
  deriving DecidableEq, Repr

/-- A trace unit (R352): TRCFG, TRBASE, WRITTEN and DROPPED of TRPTR, and the cycle of its last entry. -/
structure TraceUnit where
  cfg : Word := 0
  base : Word := 0
  written : Nat := 0
  dropped : Nat := 0
  last : Option Nat := none
  deriving DecidableEq, Repr

/-- A breakpoint unit (R353): its specification, HIT, and the dump area and limit of the last MCUT. -/
structure Bp where
  spec : Word := 0
  hit : Bool := false
  area : Word := 0
  limit : Nat := 0
  deriving DecidableEq, Repr

/-- A shoot-down not yet complete (R317 to R319): sequence number, mode, entry, and the order of issue before which accesses may have been
translated with the entry's old value. -/
structure Shoot where
  num : Nat
  mode : Nat
  entry : Nat
  before : Nat
  deriving DecidableEq, Repr

/-- A delivery waiting for the core (R270): the launch, the thread and the cause. -/
structure Delivery where
  launch : LaunchId
  thr : BitVec 8
  cause : Nat
  deriving DecidableEq, Repr

/-- A cluster: `pend` are records raised and not yet written (R274). Its control core, event queue, barriers, typed buffers, rings, matrix array, copy engine, L2 configuration cache and
Belvedere. Typed-buffer bytes are keyed by space and offset (R201); `empt` are released granules that become empty once no claim covers them (R220); STATUS is held bit by bit (R267). -/
structure Cluster where
  regs : Assoc Word := []
  pc : Word := 0
  run : CoreRun := .stopped
  corestop : Bool := false
  loc : Assoc Byte := []
  locBad : List Nat := []
  sb : List SbEntry := []
  loads : List PLoad := []
  ef : Bool := false
  td : Bool := false
  paie : Bool := false
  ths : Bool := false
  thu : Bool := false
  aie : Bool := false
  mode : Bool := true
  ctx : BitVec 12 := 0
  tdeleg : Word := 0
  tvecu : Word := 0
  epcu : Word := 0
  causeu : Word := 0
  tvalu : Word := 0
  tvecs : Word := 0
  epcs : Word := 0
  causes : Word := 0
  tvals : Word := 0
  estats : Word := 0
  lmlim : Word := 0x40000
  tthr : Word := 0
  ttpc : Word := 0
  tt : Assoc Word := []
  held : Option Delivery := none
  late : Nat := 0
  done : BitVec 32 := 0
  nextShoot : Nat := 1
  shoots : List Shoot := []
  ranges : Assoc RangeEntry := []
  eq : List Rec := []
  eqSeq : BitVec 20 := 0
  losses : List (BitVec 12 × Nat × Word) := []
  pend : List Rec := []
  bars : Assoc Barrier := []
  deliveries : List Delivery := []
  buf : Assoc Byte := []
  bufFull : Assoc Bool := []
  bufPoison : Assoc Bool := []
  rings : Assoc Ring := []
  bktok : BitVec 32 := 0
  split : Bool := false
  ownu : BitVec 5 := 0x10
  ownl : BitVec 5 := 0x10
  mxPend : Option Word := none
  empt : List Nat := []
  mqs : Assoc (List MOp) := []
  copy : Engine := {}
  l2 : List CacheLine := []
  ctrs : Assoc Ctr := []
  leases : Assoc Lease := []
  gevm : Assoc Word := []
  gvctl : Assoc Word := []
  ivbase : Word := 0
  ivcfg : Word := 0
  ivWritten : Nat := 0
  ivDropped : Nat := 0
  traces : Assoc TraceUnit := []
  bps : Assoc Bp := []
  pstate : BitVec 2 := 0
  trimEn : Bool := false
  trimStep : Nat := 0
  trimAt : Nat := 0
  trimRep : Option Nat := none
  resetAt : Nat := 0
  idleAt : Nat := 0
  counts : Assoc Nat := []
  deriving DecidableEq, Repr
/-! ## Launches and regions -/

/-- The fields of a launch record (R25). -/
structure LaunchRec where
  entry : Word
  module : Word
  ctx : BitVec 12
  prio : Nat
  log : Bool
  pmove : Bool
  qwin : Nat
  resmin : Nat
  quant : Nat
  threads : Nat
  copies : Nat
  cols : Nat
  rows : Nat
  group : Word
  midx : Nat
  levels : List (BitVec 32)
  liv : List Word
  binds : List Word
  deriving DecidableEq, Repr

/-- The states of a plane that is not ACTIVE (R178). -/
inductive PlaneSt where
  | invalid | loading | resident
  deriving DecidableEq, Repr

/-- The state of a plane of a region (R178); the header of the block it holds (R172), and the phase in which it was last active. -/
structure Plane where
  st : PlaneSt := .invalid
  pc : Word := 0
  lin : List (BitVec 16) := []
  lout : List (BitVec 16) := []
  crec : Bool := false
  len : Nat := 0
  fh : Nat := 1
  fw : Nat := 1
  last : Nat := 0
  deriving DecidableEq, Repr

/-- How a thread leaves its block (R186): to a PC, holding with WAIT or not, or for good. -/
inductive Exit where
  | go (pc : Word) (wait : Bool)
  | stop
  deriving DecidableEq, Repr

/-- Where a thread stands (R184 to R187, R270). -/
inductive ThreadSt where
  | waiting | flight | holding | delivered | ended
  deriving DecidableEq, Repr

/-- A thread (R20, R194, R195): PC, live values, the values with which it entered its block, parent, join count and sum, inexact bit,
exit taken, live-outs captured, and whether a page request of it failed. -/
structure Thread where
  pc : Word
  t : List Word
  entered : List Word := []
  parent : Option (BitVec 8) := none
  joins : Nat := 0
  sum : Word := 0
  inexact : Bool := false
  st : ThreadSt := .waiting
  exit : Option Exit := none
  outs : List (Nat × Word) := []
  fatal : Bool := false
  deriving DecidableEq, Repr

/-- A row of the entry table (R187): a block, its waiting threads in the order in which they joined, its age. -/
structure EntryRow where
  pc : Word
  thrs : List (BitVec 8)
  age : Nat := 0
  deriving DecidableEq, Repr

/-- A configuration load (R179, R52): image address, plane, who asked, whether it was asked for the active plane; once started, the
stream words left and what the stream has given so far (`last31`: a command reached row 31, column 31; R23). `core` is the core that asked. -/
structure Load where
  pc : Word
  plane : Fin 4
  cfgld : Bool := false
  deferred : Bool := false
  started : Bool := false
  words : List (BitVec 32) := []
  sum : BitVec 16 := 0
  page : BitVec 16 := 0
  orow : Nat := 0
  ocol : Nat := 0
  seen : List Nat := []
  pcw : Assoc (BitVec 16) := []
  part : Bool := false
  cleared : Bool := false
  last31 : Bool := false
  core : Option ClusterId := none
  head : Plane := {}
  nins : Nat := 0
  level : Nat := 0
  req : Option (Nat × Nat) := none
  deriving DecidableEq, Repr

/-- A pending RSW (R190): its mode, its plane, and the fields it writes: tile key, field of page 1, value. -/
structure RswReq where
  hot : Bool
  plane : Fin 4
  cmds : List (Nat × Nat × BitVec 16)
  deriving DecidableEq, Repr

/-- A decision of a DSEL or DSELC for a plane, or of a PHASE with YIELD (R189, R283). -/
inductive Decision where
  | plane (p : Fin 4)
  | yield
  deriving DecidableEq, Repr

/-- A bound stream (R257 to R259): its descriptor's words, the index of its next token or place, the out-port's queue, close request,
writes waiting for an answer, closed by SCLOSE, complete, the completion's step, tokens beyond COUNT. -/
structure Stream where
  words : List Word := []
  next : Nat := 0
  queue : List Tok := []
  close : Bool := false
  stopped : Bool := false
  closed : Bool := false
  complete : Bool := false
  step : Nat := 0
  excess : Nat := 0
  overRec : Bool := false
  req : Option (Nat × Nat) := none
  deriving DecidableEq, Repr

/-- A cut of a region (R354, R355): `snaps` what each tile held when it recorded (key, cycle), `chan` the tokens recorded as channel state
(tile key, link, token). -/
structure Cut where
  num : BitVec 16
  stop : Bool
  area : Word
  limit : Nat
  source : Nat
  start : Nat
  snaps : List (Nat × Nat × Tile) := []
  chan : List (Nat × Nat × Tok) := []
  deriving DecidableEq, Repr

/-- Where a launch stands: waiting for its rectangle (R24) or held by the residency gate (R374), at a phase boundary, running a phase,
switching to a plane, or saved. -/
inductive LaunchSt where
  | waiting | boundary | running | switching (p : Fin 4) | saved
  deriving DecidableEq, Repr

/-- A launch and its region. `cycs` are the cycles of its phase in which its elements were classed (R351). `waitAt` is the cycle in which it began to wait, `order` its number among those that wait (R337). `near` is the cluster from which a free rectangle is sought (R171). `choice` is the block that the last decision chose and no switch has yet activated (R188);
`gateDue` is the cycle in which a change of the edge gate that is under way reaches the ingress points (R148);
`entering` are threads whose entry tokens the scheduler still holds (R184); `stopThr` threads named in ARITH records of a STOP drain,
`drained` those delivered from it and not yet released (R114, R270); `gateOk` that the residency gate has been met, `gateFail` the map indices
whose promotion for it has failed (R374). -/
structure Launch where
  lr : LaunchRec
  issuer : Option ClusterId
  near : ClusterId
  place : Word
  order : Nat
  waitAt : Nat := 0
  mod : Option Nat := none
  portSet : List RangeCopy := []
  st : LaunchSt := .waiting
  corner : Option (Nat × Nat) := none
  since : Nat := 0
  planes : Assoc Plane := []
  active : Option (Fin 4) := none
  phases : Nat := 0
  phaseAt : Nat := 0
  cycs : Nat := 0
  classes : Assoc Nat := []
  threads : Assoc Thread := []
  table : List EntryRow := []
  overflow : List (Word × BitVec 8) := []
  loads : List Load := []
  choice : Option Word := none
  dsel : Option Decision := none
  decided : Bool := false
  rsws : List RswReq := []
  gate : Bool := false
  gateDue : Option Nat := none
  stop : Bool := false
  stopThr : List (BitVec 8) := []
  drained : List (BitVec 8) := []
  entering : List (BitVec 8) := []
  quiet : Nat := 0
  qwcDone : Bool := false
  streams : Assoc Stream := []
  sliceAt : Nat := 0
  sliceLen : Nat := 0
  expired : Option Nat := none
  drainAt : Option Nat := none
  halted : Bool := false
  cut : Option Cut := none
  first : List Nat := []
  exact : Bool := true
  hold : Option Nat := none
  gateOk : Bool := false
  gateFail : List Nat := []
  counts : Assoc Nat := []
  deriving DecidableEq, Repr
/-! ## Dies -/

/-- Who waits on a page request (R310, R312). -/
inductive Party where
  | node (t : TileId) (id : Nat)
  | core (c : ClusterId)
  | stream (l : LaunchId) (port : Fin 16)
  | engine (e : EngineId)
  | load (l : LaunchId)
  | gate (l : LaunchId)
  | want (c : ClusterId)
  deriving DecidableEq, Repr

/-- A page request (R310): context, tier page, generation, cause (1 MISS, 3 TIER), who opened it, the launch concerned, and for a
TIER request the map index and frame; the address, thread, source code and entry of its first waiting access (R311, R315). `serial` tells requests apart that use one number in turn. -/
structure PageReq where
  serial : Nat
  ctx : BitVec 12
  page : Nat
  gen : BitVec 8
  cause : Nat
  party : Party
  handle : Nat
  idx : Nat := 0
  frame : Nat := 0
  va : Word := 0
  thr : BitVec 8 := 0
  src : Nat := 0
  entry : Nat := 0
  deriving DecidableEq, Repr

/-- A move of a tier page asked for and not finished (R371 to R373): up or down, page, frame, why, the request it answers; for a demotion
whether RES has been withdrawn; for a promotion the context whose page it waits for (R371), and whether it has asked for a victim; and for a
transfer with a peer under way the peer, the address there and the granules whose reply is owed (R390). -/
structure TierMove where
  up : Bool
  ctx : BitVec 12
  idx : Nat
  frame : Nat
  party : Party
  req : Option Nat := none
  va : Word := 0
  withdrawn : Bool := false
  forCtx : BitVec 12 := 0
  waits : Option (BitVec 12) := none
  asked : Bool := false
  away : Option (Nat × Nat × List Nat) := none
  deriving DecidableEq, Repr

/-- An entry of the module table (R182). -/
structure Module where
  st : Nat := 0
  gen : BitVec 16 := 0
  ctx : BitVec 12 := 0
  base : Word := 0
  size : Nat := 0
  cl : Fin 64 := 0
  deriving DecidableEq, Repr

/-- The cluster state that a save keeps of one cluster (R336): rings, BKTOK, the context's barriers, typed-buffer bytes with their bits. -/
structure SavedCl where
  lcl : Fin 64
  rings : Assoc Ring
  bktok : BitVec 32
  bars : Assoc Barrier
  buf : Assoc Byte
  bits : Assoc Bool
  deriving DecidableEq, Repr

/-- What a save keeps of one region (R336): its launch, its rectangle's corner, whether it stopped at a fault-quiescent point, and then its
tiles. -/
structure SavedRegion where
  handle : Nat
  corner : Nat × Nat
  quiescent : Bool
  tiles : Assoc Tile
  deriving DecidableEq, Repr

/-- A context in the course of its transitions (R332 to R340): suspended; resumption gate met; order of waiting when SAVED and the cycle
in which that wait began; the regions it saved with the cluster state; the save image's address, length and bytes written, and the bytes of it not yet
written; the state that a RESET came upon; when its last slice
ended. -/
structure CtxRun where
  suspended : Bool := false
  gateOk : Bool := false
  order : Nat := 0
  waitAt : Nat := 0
  saved : List SavedRegion := []
  savedCl : List SavedCl := []
  image : Nat := 0
  len : Nat := 0
  written : Nat := 0
  body : List Byte := []
  resetFrom : Nat := 0
  sliceEnd : Nat := 0
  deriving DecidableEq, Repr

/-- Flits or packets of one sender and key dropped at a port and not yet reported (R328): count, key, and the core and context of the sender, for an
egress drop. -/
structure PortDrop where
  count : Nat := 0
  key : BitVec 12 := 0
  core : Option ClusterId := none
  ctx : BitVec 12 := 0
  deriving DecidableEq, Repr

/-- An armed pair of clusters of the Parterre (R381, R384). -/
structure Pair where
  a : Fin 64
  b : Fin 64
  dist : Nat
  dist' : Nat
  deriving DecidableEq, Repr

/-- A packet of an outstanding work request (R398): sent, acknowledged, reported missing, deadline, retries, its number in ROD order, and its number
among the packets that the endpoint has sent. -/
structure PktSt where
  sent : Bool := false
  acked : Bool := false
  lost : Bool := false
  due : Nat := 0
  tries : Nat := 0
  plsn : Nat := 0
  psn : Nat := 0
  deriving DecidableEq, Repr

/-- A work request of the network engine (R396 to R399): its words, who posted it, whether it has started, pages that the scout has passed,
packets, the message a RECV is matched to (number, length) with the offsets placed, bytes placed, its status, the page requests it opened (page, number,
serial), the step of its completion and the page request of its counter. -/
structure WorkReq where
  num : Nat
  words : List Word
  core : ClusterId
  ctx : BitVec 12
  started : Bool := false
  scout : Nat := 0
  pkts : Assoc PktSt := []
  matched : Option (Nat × Nat) := none
  placed : List Nat := []
  bytes : Nat := 0
  status : Option Nat := none
  reqs : List (Nat × Nat × Nat) := []
  step : Nat := 0
  bump : Option (Nat × Nat) := none
  deriving DecidableEq, Repr

/-- A packet being placed (R288, R398): its message and offset, the context it is placed under, the granules not yet written with their
places, its bytes and poisoned granules, the RECV it is for, whether it is a READ's return, whether it keeps ROD order, the core whose table translated it
and the order of that among accesses. -/
structure Landing where
  core : ClusterId
  seq : Nat
  msg : Nat
  off : Nat
  ctx : BitVec 12
  left : List (Nat × Nat)
  bytes : List Byte
  bad : List Nat
  recv : Option Nat := none
  back : Bool := false
  rod : Bool := false
  deriving DecidableEq, Repr

/-- The two sides of an endpoint (R393, R398): packets placed and not yet acknowledged (message, offset), when the last came, the next packet
in ROD order and those held for it, messages refused with their status, packets placed, page requests opened (page, number, serial), packets counted
towards every fourth; the next number of a ROD packet sent, and of any packet sent; packets being placed. -/
structure Endpoint where
  unacked : List (Nat × Nat) := []
  lastAt : Nat := 0
  rodNext : Nat := 0
  held : List Packet := []
  refused : List (Nat × Nat) := []
  taken : List (Nat × Nat) := []
  reqs : List (Nat × Nat × Nat) := []
  got : Nat := 0
  plsn : Nat := 0
  psn : Nat := 0
  landing : List Landing := []
  deriving DecidableEq, Repr

/-- A Yunajor Link port (R389, R390): STATE, CRCERR, REPLAY, the next flit expected, the times in a row that it failed its CRC, flits sent and not
acknowledged, the number of the next, flits that wait for room in the replay buffer. -/
structure YlPort where
  st : BitVec 2 := 0
  crcerr : Nat := 0
  replay : Nat := 0
  expect : Nat := 0
  fails : Nat := 0
  sent : List Flit := []
  nextSeq : Nat := 0
  waiting : List Flit := []
  deriving DecidableEq, Repr

/-- A granule of a member's source that a collective has read (R392): key, TAG, rank, granule, bytes (none where it could not be read), whether it is
poisoned. -/
structure Chunk where
  key : Nat
  tag : Word
  rank : Nat
  off : Nat
  bytes : List Byte
  bad : Bool
  deriving DecidableEq, Repr

/-- A member's post as a collective has heard of it: key, TAG, rank, and its OP, TY, RED, COUNT and NRANK (R392); an empty shape says that the
member's collective has ended in disagreement. -/
structure Joined where
  key : Nat
  tag : Word
  rank : Nat
  shape : List Nat
  deriving DecidableEq, Repr

/-- A die: its registers (R322, R331, R367, R379, R395), module table, L3 cache, tenants, tiers, Parterre, engines and ports. -/
structure Die where
  prect : Assoc Word := []
  pctl : Assoc Word := []
  rkbase : Assoc Word := []
  pktab : Assoc Word := []
  ctxbase : Word := 0
  busy : Bool := false
  cmd : BitVec 4 := 0
  ctxn : BitVec 12 := 0
  hveq : Word := 0
  guards : Assoc Word := []
  guardDue : Bool := false
  portDrops : Assoc (List PortDrop) := []
  portAt : Assoc Nat := []
  modules : Assoc Module := []
  l3 : List CacheLine := []
  nextHandle : Nat := 1
  ctxs : Assoc CtxRun := []
  reqs : Assoc PageReq := []
  serial : Nat := 0
  failed : Assoc (Nat × BitVec 8) := []
  tierbase : Word := 0
  prom : BitVec 32 := 0
  dem : BitVec 32 := 0
  quota : Assoc Nat := []
  used : Assoc Nat := []
  frames : Assoc (BitVec 12 × Nat) := []
  moves : List TierMove := []
  barred : List (BitVec 12 × Nat) := []
  wanted : List (BitVec 12 × Nat) := []
  wantDrops : Nat := 0
  ptctl : Word := 0
  ptDone : BitVec 32 := 0
  ptAband : BitVec 32 := 0
  traf : Assoc Nat := []
  armed : List Pair := []
  exchAt : Assoc Nat := []
  evalAt : Nat := 0
  lmap : Assoc (Fin 64) := []
  mapUntil : Option Nat := none
  collective : Engine := {}
  chunks : List Chunk := []
  joins : List Joined := []
  peersDone : List (Nat × Word × Nat) := []
  skipJoins : List (Nat × Nat) := []
  nectl : Word := 0
  retx : BitVec 32 := 0
  drops : BitVec 32 := 0
  neinj : Word := 0
  injAt : Nat := 0
  wreqs : List WorkReq := []
  nextWr : Nat := 0
  completed : List (Nat × BitVec 12 × Nat) := []
  eps : Assoc Endpoint := []
  dataSent : Nat := 0
  yl : Assoc YlPort := []
  deriving DecidableEq, Repr

/-! ## The package -/

/-- Something that left the package: a packet, a flit, Lodge's reply to a fabric address, the bytes of a host read. -/
inductive OutItem where
  | packet (die : Fin 4) (port : Fin 2) (p : Packet)
  | flit (die : Fin 4) (port : Fin 16) (f : Flit)
  | reply (dest : Word) (entry : List Byte)
  | hostData (bytes : List Byte)
  deriving DecidableEq, Repr

/-- One act of the agenda, which is the machine's free choice of what happens next (R286; log 10): the clock ticks; an agent that holds
a word executes it; a move is made at a place; the listing of an assembled block of a context names the links of its edge ports (R415; log 15). -/
inductive Act where
  | tick
  | word (p : Place)
  | move (i : Instr) (p : Place)
  | listing (ctx : BitVec 12) (pc : Word) (links : List (Fin 16 × Fin 32 × Fin 32 × Dir))
  deriving DecidableEq, Repr

/-- The machine stops for want of a place that the step can be taken at: a word of a core, slot, router, loader or array executed
elsewhere. Raised by exec alone, for a caller that sets State.here to a place of another kind; step never does. Safe: the hardware has
no such step. -/
inductive Fault where
  | wrongPlace
  deriving DecidableEq, Repr

/-- A step the model declines. Raised by an arm of exec whose instruction has no meaning yet, by its mnemonic. Safe. -/
inductive Refusal where
  | notModelled (mnemonic : String)
  deriving DecidableEq, Repr

/-- The whole machine. Tiles are keyed by die, row and column; clusters by die and logical number; slices by die, physical cluster and
slice; launches by die and handle. `mem`, `full` and `poison` hold the stacked DRAM and the cached lines as one copy (R231, R239,
R429); `far` and `farFull` what this package has written to far tiers (R368). The last four fields are the model's own: `seq` orders
accesses by issue, `free` counts free values, `here` is the place of the step under way, `agenda` what comes next. -/
structure State where
  clock : Nat
  mem : Assoc Byte
  full : Assoc Bool
  poison : Assoc Bool
  far : Assoc Byte
  farFull : Assoc Bool
  tiles : Assoc Tile
  clusters : Assoc Cluster
  slices : Assoc Slice
  launches : Assoc Launch
  dies : Assoc Die
  ljbase : Word
  ljnext : Nat
  journal : List (List Byte)
  serrCorr : BitVec 32
  serrUnc : BitVec 32
  powered : Bool
  flash : Nat
  out : List OutItem
  edges : Assoc (Nat × Nat × Dir)
  seq : Nat
  free : Nat
  here : Place
  agenda : List Act
  deriving DecidableEq, Repr

/-- A byte of DRAM that nothing has written (log 1). -/
def memDefault : Byte := 0

/-- Memory in canonical form: addresses rise strictly and no listed byte is what an unlisted one reads as. -/
def Memory.wf (m : Assoc Byte) : Bool := awf memDefault 0 m

/-- The package right after reset: every register at the value the spec gives, or at the value the log names. -/
def State.reset : State where
  clock := 0
  mem := []
  full := []
  poison := []
  far := []
  farFull := []
  tiles := []
  clusters := []
  slices := []
  launches := []
  dies := []
  ljbase := 0
  ljnext := 0
  journal := []
  serrCorr := 0
  serrUnc := 0
  powered := true
  flash := 0
  out := []
  edges := []
  seq := 0
  free := 0
  here := .none
  agenda := []

end Sys2Proof.Machine
end

