-- ==== Sys2Proof/Machine/Ops.lean ====
section
/-! DEFINITION. Named operations over the state that many steps share: look-up and update, places, memory, caches, records, counters,
translation, the core's registers, taking a trap and returning from one. -/
namespace Sys2Proof.Machine

/-! ## Look-up and update -/

/-- Key of a tile, a cluster, a slice, a launch. -/
def tileKey (t : TileId) : Nat := t.die.val * 4096 + t.row.val * 64 + t.col.val
def clKey (c : ClusterId) : Nat := c.die.val * 64 + c.lcl.val
def sliceKey (x : SliceId) : Nat := x.die.val * 2048 + x.pcl.val * 32 + x.s.val
def launchKey (l : LaunchId) : Nat := l.handle * 4 + l.die.val

def getTile (s : State) (t : TileId) : Tile := aget {} s.tiles (tileKey t)
def setTile (s : State) (t : TileId) (x : Tile) : State := { s with tiles := aset s.tiles (tileKey t) x }
def updTile (s : State) (t : TileId) (f : Tile → Tile) : State := setTile s t (f (getTile s t))
def getCl (s : State) (c : ClusterId) : Cluster := aget {} s.clusters (clKey c)
def setCl (s : State) (c : ClusterId) (x : Cluster) : State := { s with clusters := aset s.clusters (clKey c) x }
def updCl (s : State) (c : ClusterId) (f : Cluster → Cluster) : State := setCl s c (f (getCl s c))
def getSlice (s : State) (x : SliceId) : Slice := aget {} s.slices (sliceKey x)
def setSlice (s : State) (x : SliceId) (v : Slice) : State := { s with slices := aset s.slices (sliceKey x) v }
def updSlice (s : State) (x : SliceId) (f : Slice → Slice) : State := setSlice s x (f (getSlice s x))
def getDie (s : State) (d : Fin 4) : Die := aget {} s.dies d.val
def setDie (s : State) (d : Fin 4) (x : Die) : State := { s with dies := aset s.dies d.val x }
def updDie (s : State) (d : Fin 4) (f : Die → Die) : State := setDie s d (f (getDie s d))
def findLaunch (s : State) (l : LaunchId) : Option Launch := afind s.launches (launchKey l)
def setLaunch (s : State) (l : LaunchId) (x : Launch) : State := { s with launches := aset s.launches (launchKey l) x }
def delLaunch (s : State) (l : LaunchId) : State := { s with launches := adel s.launches (launchKey l) }
/-- A live launch changed by a function; nothing when there is none of that handle. -/
def updLaunch (s : State) (l : LaunchId) (f : Launch → Launch) : State :=
  match findLaunch s l with
  | none => s
  | some x => setLaunch s l (f x)

/-- The launches of a die with their identifiers. -/
def launchesOf (s : State) (d : Fin 4) : List (LaunchId × Launch) :=
  s.launches.filterMap fun (k, x) => if k % 4 = d.val then some (⟨d, k / 4⟩, x) else none

/-- The next number of the order of issue. -/
def fresh (s : State) : Nat × State := (s.seq, { s with seq := s.seq + 1 })

/-- A free value of 64 bits (log 11). -/
def freeVal (s : State) : Word × State := (Config.freeWord s.free, { s with free := s.free + 1 })

/-! ## Geometry (R12, R137, R230, R231) -/

def fin64 (n : Nat) : Fin 64 := Fin.ofNat 64 n

/-- Physical cluster of a tile: 8 by 8 clusters of 8 by 8 tiles, row-major. -/
def pclOf (t : TileId) : Fin 64 := fin64 (t.row.val / 8 * 8 + t.col.val / 8)

/-- Physical cluster of a logical one (R267, R378). -/
def pclOfLcl (s : State) (c : ClusterId) : Fin 64 := aget c.lcl (getDie s c.die).lmap c.lcl.val

/-- Logical cluster of a physical one. -/
def lclOfPcl (s : State) (d : Fin 4) (p : Fin 64) : ClusterId :=
  ⟨d, fin64 (((List.range 64).find? fun l => pclOfLcl s ⟨d, fin64 l⟩ = p).getD p.val)⟩

/-- Logical cluster that holds a tile. -/
def clusterOf (s : State) (t : TileId) : ClusterId := lclOfPcl s t.die (pclOf t)

/-- The slice behind an odd-column tile (R230). -/
def sliceOf (t : TileId) : SliceId := ⟨t.die, pclOf t, Fin.ofNat 32 (t.row.val % 8 * 4 + t.col.val % 8 / 2)⟩

/-- The tile in front of a slice. -/
def tileOfSlice (x : SliceId) : TileId :=
  ⟨x.die, fin64 (x.pcl.val / 8 * 8 + x.s.val / 4), fin64 (x.pcl.val % 8 * 8 + 2 * (x.s.val % 4) + 1)⟩

/-- Home slice of a physical address (R231). -/
def homeSlice (pa : Nat) : SliceId :=
  let n := (pa / 2 ^ 14 % 2048) ^^^ (pa / 2 ^ 25 % 2048) ^^^ (pa / 2 ^ 36 % 2 * 1024)
  ⟨Fin.ofNat 4 (pa / 2 ^ 37), fin64 (n / 32), Fin.ofNat 32 (n % 32)⟩

/-- The tile one step in a direction, if the die has one. -/
def stepDir (t : TileId) (d : Dir) : Option TileId :=
  match d with
  | .n => if t.row.val = 0 then none else some { t with row := fin64 (t.row.val - 1) }
  | .s => if t.row.val = 63 then none else some { t with row := fin64 (t.row.val + 1) }
  | .w => if t.col.val = 0 then none else some { t with col := fin64 (t.col.val - 1) }
  | .e => if t.col.val = 63 then none else some { t with col := fin64 (t.col.val + 1) }

def opposite : Dir → Dir | .n => .s | .e => .w | .s => .n | .w => .e
def dirNum : Dir → Nat | .n => 0 | .e => 1 | .s => 2 | .w => 3
def netNum : Net → Nat | .vector => 0 | .scalar => 1 | .control => 2
def dirs : List Dir := [.n, .e, .s, .w]
def nets : List Net := [.vector, .scalar, .control]
/-- Key of a link of a tile. -/
def linkKey (n : Net) (d : Dir) : Nat := netNum n * 4 + dirNum d

/-- The tiles of a rectangle of a die. -/
def rectTiles (d : Fin 4) (r c h w : Nat) : List TileId :=
  (List.range h).flatMap fun i => (List.range w).map fun j => ⟨d, fin64 (r + i), fin64 (c + j)⟩

/-- The tiles of a launch's region; none before it is placed (R22). -/
def regionTiles (l : LaunchId) (x : Launch) : List TileId :=
  match x.corner with
  | none => []
  | some (r, c) => rectTiles l.die r c (x.lr.rows + 1) (x.lr.cols + 1)

/-- Every tile of a list changed by a function. -/
def updTiles (s : State) (ts : List TileId) (f : Tile → Tile) : State := ts.foldl (fun s t => updTile s t f) s

/-- The launch a tile is allotted to. -/
def ownerOf (s : State) (t : TileId) : Option LaunchId := (getTile s t).owner.map fun h => ⟨t.die, h⟩

/-! ## Memory (R3, R231, R239, R287, R429) -/

/-- Bytes from an address on. -/
def readBytes (m : Assoc Byte) : Nat → Nat → List Byte
  | _, 0 => []
  | a, n + 1 => aget memDefault m a :: readBytes m (a + 1) n

/-- Bytes written from an address on, in canonical form. -/
def writeBytes (m : Assoc Byte) : Nat → List Byte → Assoc Byte
  | _, [] => m
  | a, b :: bs => writeBytes (aput memDefault m a b) (a + 1) bs

def memRead (s : State) (pa n : Nat) : List Byte := readBytes s.mem pa n
def memWrite (s : State) (pa : Nat) (bs : List Byte) : State := { s with mem := writeBytes s.mem pa bs }
/-- A 64-bit value in memory, little-endian (R3). -/
def memWord (s : State) (pa : Nat) : Word := word (ofBytes (memRead s pa 8))
def memSetWord (s : State) (pa : Nat) (w : Word) : State := memWrite s pa (bytesOf 8 w.toNat)
/-- The full-empty bit of the granule that holds an address (R239). -/
def isFull (s : State) (pa : Nat) : Bool := aget true s.full (pa / 64)
def setFull (s : State) (pa : Nat) (b : Bool) : State := { s with full := aput true s.full (pa / 64) b }
def isPoison (s : State) (pa : Nat) : Bool := aget false s.poison (pa / 64)
def setPoison (s : State) (pa : Nat) (b : Bool) : State := { s with poison := aput false s.poison (pa / 64) b }

/-- Bytes of a granule under a lane mask replaced by a payload's (R248). -/
def laneBytes (old : List Byte) (v : BitVec 16) (p : Payload) : List Byte :=
  (old.zip (payloadBytes p)).zipIdx.map fun ((o, n), i) => if v.getLsbD (i / 4) then n else o

/-! ## Home slices (R230 to R234) -/

/-- The tagged area units of a slice: each holds one way of every set (R234). -/
def tagUnits (x : Slice) : List Nat := (List.range 12).filter fun u => !x.smap.getLsbD u

/-- A line put into a set as its most recently used: in a unit that holds no line of the set, else in place of the least recently used. -/
def fillLine (us : List Nat) (e : CacheLine) (l : List CacheLine) : List CacheLine :=
  let ways := (l.filter fun z => z.line % 1024 = e.line % 1024).map (·.way)
  match us.find? fun u => !ways.contains u with
  | some u => { e with way := u } :: l
  | none =>
    let u := ways.getLast?.getD 0
    { e with way := u } :: l.filter fun z => !(z.line % 1024 = e.line % 1024 && z.way = u)

/-- A lookup of a line under a CTX (R232): another CTX's copy leaves, the line is most recently used, a write makes it dirty; the hot-line array
keeps the lines of the tagged area accessed last. -/
def lookup (x : Slice) (line : Nat) (ctx : BitVec 12) (write : Bool) : Slice :=
  let us := tagUnits x
  if us.isEmpty then x
  else
    let rest := x.tags.filter fun l => l.line ≠ line
    let tags := match x.tags.find? fun l => l.line = line && l.ctx = ctx with
      | some e => { e with dirty := e.dirty || write } :: rest
      | none => fillLine us { line := line, ctx := ctx, dirty := write } rest
    let hot := ({ line := line, ctx := ctx } :: x.hot.filter fun l => l.line ≠ line).filter fun (l : CacheLine) => tags.any fun z => z.line = l.line
    { x with tags := tags, hot := hot.take 256 }

/-- Whether a cluster's clocks run: in IDLE they are stopped, and in OFF it has no power (R427). -/
def clocked (s : State) (c : ClusterId) : Bool := decide ((getCl s c).pstate = 0)

/-- R380: requests and replies, in units of 64 bytes at most, that the occupant of a physical cluster exchanges with another cluster of its die (log
91). -/
def carry (s : State) (d : Fin 4) (p y : Fin 64) (n : Nat) : State :=
  updDie s d fun x => { x with traf := aupd 0 x.traf (p.val * 64 + y.val) (satAdd (2 ^ 32 - 1) · n) }

/-- An access of a line at its home slice, with the request and the reply that it makes for the requester's cluster (R232, R380). -/
def touch (s : State) (src : Option (Fin 4 × Fin 64)) (pa : Nat) (ctx : BitVec 12) (write : Bool) : State :=
  let h := homeSlice pa
  let s1 := updSlice s h fun x => lookup x (pa / 64) ctx write
  match src with
  | some (d, p) => if d = h.die then carry s1 d p h.pcl 2 else s1
  | none => s1

/-! ## Records (R271 to R274) -/

/-- A record raised in a cluster; the RECORD move writes it. -/
def raiseRec (s : State) (c : ClusterId) (r : Rec) : State := updCl s c fun x => { x with pend := x.pend ++ [r] }

/-- The cluster whose event queue takes a launch's records (R271). A region whose context is saved keeps its rectangle. -/
def homeOf (s : State) (l : LaunchId) (x : Launch) : ClusterId :=
  match x.issuer with
  | some c => c
  | none => match x.corner with
    | some (r, c) => clusterOf s ⟨l.die, fin64 r, fin64 c⟩
    | none => match (aget ({} : CtxRun) (getDie s l.die).ctxs x.lr.ctx.toNat).saved.find? fun r => r.handle = l.handle with
      | some r => clusterOf s ⟨l.die, fin64 r.corner.1, fin64 r.corner.2⟩
      | none => ⟨l.die, 0⟩

/-- A record of a launch, under its CTX and handle. -/
def recL (s : State) (l : LaunchId) (r : Rec) : State :=
  match findLaunch s l with
  | none => s
  | some x => raiseRec s (homeOf s l x) { r with ctx := x.lr.ctx, handle := l.handle }

/-- A record of a tile: its launch's, or of the cluster it lies in. -/
def recT (s : State) (t : TileId) (r : Rec) : State :=
  let r := { r with row := t.row.val, col := t.col.val }
  match ownerOf s t with
  | some l => recL s l r
  | none => raiseRec s (clusterOf s t) r

/-- The first record of a kind at a tile in a phase: a rule's 'first in a phase' is read as each tile's (R38, R69, R83, R86; log 77). -/
def recFirst (s : State) (t : TileId) (r : Rec) : State :=
  if (getTile s t).first.contains r.kind then s
  else recT (updTile s t fun x => { x with first := r.kind :: x.first }) t r

/-- A record of a tile that is written once in a phase of its launch (R211). -/
def recOnce (s : State) (t : TileId) (r : Rec) : State :=
  match ownerOf s t with
  | none => s
  | some l => match findLaunch s l with
    | none => s
    | some x => if x.first.contains r.kind then s else recT (setLaunch s l { x with first := r.kind :: x.first }) t r

/-- The first record of a kind of a launch in a phase. -/
def recFirstL (s : State) (l : LaunchId) (r : Rec) : State :=
  match findLaunch s l with
  | none => s
  | some x => if x.first.contains r.kind then s else recL (setLaunch s l { x with first := r.kind :: x.first }) l r

/-- A record to the hypervisor queue, when it takes copies (R327). -/
def recHv (s : State) (d : Fin 4) (r : Rec) : State :=
  let h := (getDie s d).hveq
  if wbit h 6 then raiseRec s ⟨d, fin64 (fld h 5 0)⟩ r else s

/-! ## Counters (R344 to R346) -/

/-- Whether a counter of a cluster counts an event of an element: its event, its filter, and in tenant mode its holder's CTX. -/
def ctrHears (now : Nat) (x : Cluster) (n : Nat) (ctr : Ctr) (ev : Nat) (t : TileId) (q : Nat) (handle : Nat) (ctx : BitVec 12) : Bool :=
  let lease := aget ({} : Lease) x.leases (n / 8)
  wbit ctr.sel 63 && fld ctr.sel 55 48 = ev && !ctr.disallowed && decide (ctr.since < now) &&
  (match fld ctr.sel 62 61 with
   | 0 => if 0x30 ≤ ev && ev ≤ 0x33 then fld ctr.sel 35 32 = 0 || fld ctr.sel 35 32 = q else true
   | 1 => fld ctr.sel 31 0 = handle
   | 2 => fld ctr.sel 47 42 = t.row.val && fld ctr.sel 41 36 = t.col.val
   | _ => fld ctr.sel 47 42 = t.row.val && fld ctr.sel 41 36 = t.col.val && fld ctr.sel 35 32 = q) &&
  (lease.hv || lease.holder = ctx)

/-- An event counted `n` times by the counters of the tile's cluster. -/
def countEv (s : State) (t : TileId) (ev q n : Nat) : State :=
  let c := clusterOf s t
  let x := getCl s c
  if x.ctrs.isEmpty then s
  else
    let (handle, ctx) := match ownerOf s t with
      | some l => (l.handle, match findLaunch s l with | some y => y.lr.ctx | none => 0)
      | none => (0, 0)
    let ctrs := x.ctrs.map fun (k, ctr) =>
      if ctrHears s.clock x k ctr ev t q handle ctx then
        (k, { ctr with val := satAdd (2 ^ 48 - 1) ctr.val n, ovf := ctr.ovf || decide (2 ^ 48 - 1 ≤ ctr.val + n) })
      else (k, ctr)
    setCl s c { x with ctrs := ctrs }

/-- An event of a cluster as a whole, under a context, counted `n` times by the counters of the cluster that filter by no launch or tile. -/
def countCluster (s : State) (c : ClusterId) (ctx : BitVec 12) (ev n : Nat) : State :=
  let x := getCl s c
  if x.ctrs.isEmpty then s
  else
    let ctrs := x.ctrs.map fun (k, ctr) =>
      if fld ctr.sel 62 61 = 0 ∧ ctrHears s.clock x k ctr ev { die := c.die, row := 0, col := 0 } 0 0 ctx then
        (k, { ctr with val := satAdd (2 ^ 48 - 1) ctr.val n, ovf := ctr.ovf || decide (2 ^ 48 - 1 ≤ ctr.val + n) })
      else (k, ctr)
    setCl s c { x with ctrs := ctrs }

/-- A tile's own count of an event, and the counters that hear it. -/
def countTile (s : State) (t : TileId) (ev q : Nat) : State :=
  countEv (updTile s t fun x => { x with counts := aupd 0 x.counts ev (· + 1) }) t ev q 1

/-- A count that the spec names and gives no register, by number. -/
def countCl (s : State) (c : ClusterId) (n : Nat) : State := updCl s c fun x => { x with counts := aupd 0 x.counts n (· + 1) }
def countL (s : State) (l : LaunchId) (n : Nat) : State := updLaunch s l fun x => { x with counts := aupd 0 x.counts n (· + 1) }

/-! ## Threads -/

/-- A thread of a launch changed by a function, if it has that number. -/
def updThread (s : State) (l : LaunchId) (thr : BitVec 8) (f : Thread → Thread) : State :=
  updLaunch s l fun x => match afind x.threads thr.toNat with
    | none => x
    | some y => { x with threads := aset x.threads thr.toNat (f y) }

/-- R154: a thread of the tile's launch is inexact. -/
def inexact (s : State) (t : TileId) (thr : BitVec 8) : State :=
  match ownerOf s t with
  | none => s
  | some l => updThread s l thr fun y => { y with inexact := true }

/-! ## Contexts in memory (R331) -/

/-- The descriptor of a context, by die. -/
def ctxAddr (s : State) (d : Fin 4) (ctx : BitVec 12) : Nat := fld (getDie s d).ctxbase 38 18 * 2 ^ 18 + 64 * ctx.toNat
def ctxState (s : State) (d : Fin 4) (ctx : BitVec 12) : Nat := fld (memWord s (ctxAddr s d ctx)) 63 60
def ctxGen (s : State) (d : Fin 4) (ctx : BitVec 12) : BitVec 8 := BitVec.ofNat 8 (fld (memWord s (ctxAddr s d ctx)) 59 52)
def ctxPart (s : State) (d : Fin 4) (ctx : BitVec 12) : Nat := fld (memWord s (ctxAddr s d ctx)) 51 48
def ctxDebt (s : State) (d : Fin 4) (ctx : BitVec 12) : Nat := fld (memWord s (ctxAddr s d ctx + 8)) 47 0
/-- STATE and GEN of a context written by the device. -/
def setCtx (s : State) (d : Fin 4) (ctx : BitVec 12) (st : Nat) (gen : BitVec 8) : State :=
  let a := ctxAddr s d ctx
  let w := memWord s a
  memSetWord s a (word (st * 2 ^ 60 + gen.toNat * 2 ^ 52 + w.toNat % 2 ^ 52))
def setCtxState (s : State) (d : Fin 4) (ctx : BitVec 12) (st : Nat) : State := setCtx s d ctx st (ctxGen s d ctx)
def setDebt (s : State) (d : Fin 4) (ctx : BitVec 12) (n : Nat) : State :=
  memSetWord s (ctxAddr s d ctx + 8) (word (min n (2 ^ 48 - 1)))
def getCtx (s : State) (d : Fin 4) (ctx : BitVec 12) : CtxRun := aget {} (getDie s d).ctxs ctx.toNat
def updCtx (s : State) (d : Fin 4) (ctx : BitVec 12) (f : CtxRun → CtxRun) : State :=
  updDie s d fun x => { x with ctxs := aupd {} x.ctxs ctx.toNat f }

/-! ## Translation (R305 to R309, R366 to R369) -/

/-- R305: the two range conditions. -/
def rangeWhole (e : RangeEntry) : Bool :=
  fld e.base 63 16 ≤ fld e.lim 63 16 && fld e.pa 38 16 + (fld e.lim 63 16 - fld e.base 63 16) < 2 ^ 23

/-- R306: the lowest-numbered entry that covers an address for a context. -/
def rangeFor (es : List (Nat × RangeEntry)) (ctx : BitVec 12) (va : Word) : Option (Nat × RangeEntry) :=
  es.find? fun (_, e) => wbit e.base 0 && rangeWhole e && fld e.pa 51 40 = ctx.toNat &&
    fld e.base 63 16 ≤ fld va 63 16 && fld va 63 16 ≤ fld e.lim 63 16

/-- What an access needs of an entry (R306). -/
inductive Need where
  | none | r | w | rwa
  deriving DecidableEq, Repr

def permits (e : RangeEntry) : Need → Bool
  | .none => true
  | .r => wbit e.base 1
  | .w => wbit e.base 2
  | .rwa => wbit e.base 1 && wbit e.base 2 && wbit e.base 3

/-- The outcomes of a translation (R309). -/
inductive Trans where
  | ok (pa : Nat) (entry : Nat) (map : Option Nat)
  | miss
  | perm (entry : Nat)
  | tier (entry idx frame : Nat)
  deriving DecidableEq, Repr

/-- A context's tier descriptor (R368). -/
def tierAddr (s : State) (d : Fin 4) (ctx : BitVec 12) : Nat := fld (getDie s d).tierbase 38 18 * 2 ^ 18 + 64 * ctx.toNat
def mapAddr (s : State) (d : Fin 4) (ctx : BitVec 12) : Nat := fld (memWord s (tierAddr s d ctx)) 38 6 * 64
def mapPages (s : State) (d : Fin 4) (ctx : BitVec 12) : Nat := fld (memWord s (tierAddr s d ctx + 8)) 16 0
/-- The residency byte of a map index (R369). -/
def resByte (s : State) (d : Fin 4) (ctx : BitVec 12) (i : Nat) : Byte := aget memDefault s.mem (mapAddr s d ctx + i)
def setResByte (s : State) (d : Fin 4) (ctx : BitVec 12) (i : Nat) (b : Byte) : State := memWrite s (mapAddr s d ctx + i) [b]
def isResident (s : State) (d : Fin 4) (ctx : BitVec 12) (i : Nat) : Bool :=
  wbit (getDie s d).tierbase 63 && decide (i < mapPages s d ctx) && (resByte s d ctx i).getLsbD 0

/-- R369: frames of pages that software has made far by zeroing their bytes in an IDLE context: not resident, and no demotion of them under way. -/
def staleFrames (s : State) (d : Fin 4) : Assoc (BitVec 12 × Nat) :=
  let x := getDie s d
  x.frames.filter fun (_, (ctx, i)) => !isResident s d ctx i && !x.moves.any fun n => !n.up && n.withdrawn && n.ctx = ctx && n.idx = i

/-- R367, R369: the pages of a partition now resident. -/
def usedNow (s : State) (d : Fin 4) (p : Nat) : Nat := aget 0 (getDie s d).used p - (staleFrames s d).countP fun (_, (ctx, _)) => ctxPart s d ctx = p

/-- Translation of an address through a table (R306, R309). -/
def translate (s : State) (d : Fin 4) (es : List (Nat × RangeEntry)) (ctx : BitVec 12) (va : Word) (need : Need) : Trans :=
  match rangeFor es ctx va with
  | none => .miss
  | some (k, e) =>
    if !permits e need then .perm k
    else
      let page := fld va 63 16 - fld e.base 63 16
      let pa := fld e.pa 38 16 * 65536 + page * 65536 + fld va 15 0
      if wbit e.base 5 then .ok pa k none
      else
        let i := fld e.vo 15 0 + page
        if isResident s d ctx i then .ok pa k (some i) else .tier k i (pa / 65536)

/-- R370: the access bit of a page that a translation used. -/
def markAcc (s : State) (d : Fin 4) (ctx : BitVec 12) : Option Nat → State
  | none => s
  | some i => setResByte s d ctx i (resByte s d ctx i ||| 4)

/-- A core's range table, and a port's copies, as tables to translate with. -/
def coreTable (x : Cluster) : List (Nat × RangeEntry) := x.ranges
def portTable (es : List RangeCopy) : List (Nat × RangeEntry) := es.zipIdx.map fun (c, i) => (i, c.entry)

/-! ## Page requests (R310, R315, R316) -/

/-- The lowest free request number of a die. -/
def freeReq (x : Die) : Option Nat := (List.range 256).find? fun k => (afind x.reqs k).isNone

/-- The open request of a page, context and party, if there is one. -/
def sameReq (x : Die) (ctx : BitVec 12) (page : Nat) (same : Party → Bool) : Option (Nat × PageReq) :=
  x.reqs.find? fun (_, r) => r.ctx = ctx && r.page = page && same r.party

/-- A request opened in a free entry. A TIER request goes to the Orangery at once. -/
def openReq (s : State) (d : Fin 4) (k : Nat) (r : PageReq) : State :=
  updDie s d fun x =>
    let r := { r with serial := x.serial }
    let x := { x with reqs := aset x.reqs k r, serial := x.serial + 1 }
    if r.cause = 3 then
      { x with moves := x.moves ++ [{ up := true, ctx := r.ctx, idx := r.idx, frame := r.frame, party := r.party, req := some k,
                                      va := word (r.page * 65536), forCtx := r.ctx }] }
    else x

/-- Whether a request that a party waits on still stands. -/
def reqStands (s : State) (d : Fin 4) (w : Nat × Nat) : Bool :=
  match afind (getDie s d).reqs w.1 with
  | some r => r.serial = w.2
  | none => false

/-- Whether the answer to a request was a failure (R315). -/
def reqFailed (s : State) (d : Fin 4) (serial : Nat) : Bool := (afind (getDie s d).failed serial).isSome
/-- The entry and the generation of a failed request, as its FAULT record gives them (R311). -/
def failedAs (s : State) (d : Fin 4) (serial : Nat) : Nat × BitVec 8 := aget (0xFF, 0) (getDie s d).failed serial

/-- A request answered: its entry frees; its waiters translate again, or fail. -/
def answerReq (s : State) (d : Fin 4) (k : Nat) (ok : Bool) : State :=
  updDie s d fun x => match afind x.reqs k with
    | none => x
    | some r => { x with reqs := adel x.reqs k, failed := if ok then x.failed else aset x.failed r.serial (r.entry, r.gen) }

/-- P1 of a FAULT record (R311). -/
def faultP1 (req : Nat) (gen : BitVec 8) (entry src cause : Nat) : Word :=
  word (req * 2 ^ 40 + gen.toNat * 2 ^ 32 + entry * 2 ^ 24 + src * 2 ^ 16 + cause)

/-! ## The core's registers, traps (R263, R267 to R269) -/

def getX (x : Cluster) (r : Fin 32) : Word := if r.val = 0 then 0 else aget 0 x.regs r.val
def setX (x : Cluster) (r : Fin 32) (v : Word) : Cluster := if r.val = 0 then x else { x with regs := aset x.regs r.val v }

/-- STATUS as a word (R267). -/
def statusWord (x : Cluster) : Word :=
  word (flag x.ef 7 + flag x.td 6 + flag x.paie 5 + flag x.ths 3 + flag x.thu 2 + flag x.aie 1 + flag x.mode 0)

/-- R269: the trap is taken to the tenant handler, to the system handler, or stops the core. -/
def takeTrap (s : State) (c : ClusterId) (code : Nat) (tval : Word) (async : Bool) (epc : Word) : State :=
  let x := getCl s c
  let cause := word (flag async 63 + code)
  if !x.mode && wbit x.tdeleg code && !x.thu && x.tvecu ≠ 0 then
    setCl s c { x with epcu := epc, causeu := cause, tvalu := tval, paie := x.aie, aie := false, thu := true, pc := x.tvecu, run := .running }
  else if x.ths then
    raiseRec (setCl s c { x with run := .stopped, corestop := true }) c { kind := 0x19, ctx := x.ctx, p0 := word code, p1 := epc }
  else
    setCl s c { x with estats := statusWord x, epcs := epc, causes := cause, tvals := tval, mode := true, ths := true, aie := false,
                       pc := x.tvecs, run := .running }

/-- R269: ERET from the handler of the current mode; none where it raises ILLEGAL. The PC is a multiple of 8 (R263): it takes no low bits of a
saved address that software wrote (log 20). -/
def returnTrap (x : Cluster) : Option Cluster :=
  if x.mode then
    some { x with pc := x.epcs &&& ~~~7, paie := wbit x.estats 5, ths := wbit x.estats 3, thu := wbit x.estats 2, aie := wbit x.estats 1,
                  mode := wbit x.estats 0 }
  else if x.thu then some { x with pc := x.epcu &&& ~~~7, thu := false, aie := x.paie }
  else none

end Sys2Proof.Machine
end

