-- ==== Sys2Proof/Machine/Queues.lean ====
section
/-! DEFINITION. Input queues: configuration fields of a tile (R50, R51), what a queue does with an arriving token under its policy
(R144 to R153), the pending and head gaps, heads and removal, close requests, and the operand decoder (R77, R83). -/
namespace Sys2Proof.Machine

/-! ## Configuration fields (R50, R51) -/

/-- Field `f` of a page of a plane. -/
def cfgF (x : Tile) (p page f : Nat) : BitVec 16 := aget 0 x.cfg (p * 128 + page * 64 + f)
/-- The word of a slot (R50). -/
def slotWord (x : Tile) (p k : Nat) : Word := cfgF x p 0 (4 * k + 3) ++ cfgF x p 0 (4 * k + 2) ++ cfgF x p 0 (4 * k + 1) ++ cfgF x p 0 (4 * k)
/-- Constant register Kn (R50). -/
def constK (x : Tile) (p n : Nat) : Lane := cfgF x p 0 (33 + 2 * n) ++ cfgF x p 0 (32 + 2 * n)
def constsOf (x : Tile) (p : Nat) : List Lane := (List.range 8).map (constK x p)
/-- Router operator word (R43, R50). -/
def routerWord (x : Tile) (p g : Nat) : BitVec 32 := cfgF x p 1 (7 + 2 * g) ++ cfgF x p 1 (6 + 2 * g)
def vsb (x : Tile) (p : Nat) : Nat := (cfgF x p 1 0).toNat + (cfgF x p 1 1).toNat * 2 ^ 16 + (cfgF x p 1 2).toNat * 2 ^ 32
def ssb (x : Tile) (p : Nat) : Nat := (cfgF x p 1 3).toNat + (cfgF x p 1 4).toNat * 2 ^ 16
def csb (x : Tile) (p : Nat) : Nat := (cfgF x p 1 5).toNat
/-- The enables of F16 and the tile mode (R51). -/
def slotOn (x : Tile) (p k : Nat) : Bool := (cfgF x p 1 16).getLsbD k
def tileMode (x : Tile) (p : Nat) : Nat := (cfgF x p 1 16).toNat / 256 % 16
/-- The 8-bit descriptor of a queue. -/
def queueDesc (x : Tile) (p q : Nat) : Nat := (cfgF x p 1 (10 + q / 2)).toNat / 2 ^ (8 * (q % 2)) % 256
def depthOf (code : Nat) : Nat := [4, 8, 12, 16, 24, 32, 48, 64].getD code 4
def hwOff (code : Nat) : Nat := [0, 2, 4, 8].getD code 0

/-- What decides a queue's behaviour: policy, capacity for records, high-water mark, shed parameters (R51, R237). -/
structure QCfg where
  policy : Nat := 0
  depth : Nat := 8
  hw : Nat := 6
  s : Nat := 0
  mop : Nat := 0
  gos : Bool := false
  ntgt : Bool := false
  deriving DecidableEq, Repr

/-- The queue of a router operator (R148): GATE, depth 8, mark 6. -/
def opQueue : QCfg := {}

/-- The extra capacity of I0 on a scratchpad tile (R237). -/
def capW (s : State) (t : TileId) (x : Tile) (p q : Nat) : Nat :=
  if tileMode x p = 1 ∧ q = 0 then 1024 * (aget ({} : Window) (getSlice s (sliceOf t)).wins 0).usize else 0

/-- The configuration of a PE's input queue in its active plane. -/
def queueCfg (s : State) (t : TileId) (x : Tile) (p q : Nat) : QCfg :=
  let d := queueDesc x p q
  let depth := depthOf (d / 4 % 8) + capW s t x p q
  let f := (cfgF x p 1 14).toNat
  { policy := d / 32, depth := depth, hw := max 1 (depth - hwOff (d % 4)), s := f / 4096, mop := f / 1024 % 4,
    gos := f / 512 % 2 = 1, ntgt := f / 256 % 2 = 1 }

/-! ## Tokens of the queues -/

/-- R144: records are DATA, NRW and CF8 vector tokens. -/
def isRecord : Tok → Bool
  | .vec t => countsAsData t
  | _ => false

/-- A weight as every unit reads it and as any unit produces it: E = 63 is 0xFBFF (R71). -/
def wread (w : Weight) : Weight := if 0xFBFF < w.toNat then 0xFBFF else w

/-- A gap marker (R75). -/
def gapTok (g : Gap) : VTok :=
  { valid := 0, wt := g.wt, key := BitVec.ofNat 16 g.count, kind := kGap, fmt := BitVec.ofNat 4 (flag g.err 0 + flag g.ovr 1),
    thr := g.thr, pay := 0 }
/-- The gap a marker stands for. -/
def gapOf (t : VTok) : Gap := ⟨t.key.toNat, t.wt, t.fmt.getLsbD 0, t.fmt.getLsbD 1, t.thr⟩
/-- Two losses of one thread as one (R75). -/
def gapAdd (a b : Gap) : Gap := ⟨satAdd 65535 a.count b.count, wadd a.wt b.wt, a.err || b.err, a.ovr || b.ovr, b.thr⟩

/-- What a queue's handling of a token does outside the queue; the entry at its head that DROPH has replaced has left it (R150, R237). -/
inductive QEff where
  | inexact (thr : BitVec 8)
  | count (ev : Nat)
  | note (kind : Nat) (thr : BitVec 8)
  | headLeft
  deriving DecidableEq, Repr

/-- A queue under way, with what it has done outside. -/
structure QRun where
  q : Queue
  eff : List QEff := []
  deriving DecidableEq, Repr

def QRun.also (r : QRun) (e : List QEff) : QRun := { r with eff := r.eff ++ e }

/-- An entry at the tail. -/
def enterQ (now : Nat) (e : QEntry) (q : Queue) : Queue :=
  { q with items := q.items ++ [{ e with at_ := now }], headAt := if q.items.isEmpty then now else q.headAt }

/-- A token that is not a record: it may use the reserve (R144). -/
def admitOther (now depth : Nat) (t : Tok) (r : QRun) : QRun :=
  if r.q.items.length < depth + 4 then { r with q := enterQ now { tok := t } r.q }
  else r.also [.note 0x09 t.thr, .inexact t.thr]

/-- The pending gap placed as a marker, if there is one (R146). -/
def placeGap (now depth : Nat) (r : QRun) : QRun :=
  if r.q.pend.count = 0 then r
  else (admitOther now depth (.vec (gapTok r.q.pend)) { r with q := { r.q with pend := {} } }).also [.count 0x17]

/-- A record lost to the pending gap (R146, R147). -/
def lose (now depth : Nat) (t : VTok) (ovr : Bool) (r : QRun) : QRun :=
  let g : Gap := ⟨1, wread t.wt, false, ovr, t.thr⟩
  let r1 := if r.q.pend.count ≠ 0 ∧ r.q.pend.thr ≠ t.thr then placeGap now depth r else r
  let p := if r1.q.pend.count = 0 then g else gapAdd r1.q.pend g
  { q := { r1.q with pend := p }, eff := r1.eff ++ [.inexact t.thr] }

/-- A token that is not a record behind the pending gap. The marker goes ahead of a token that is admitted, so both need an entry; a token
that the reserve cannot hold beside its marker is discarded, and the gap stays pending (R144, R146; log 71). -/
def placeOther (now depth : Nat) (t : Tok) (r : QRun) : QRun :=
  if r.q.items.length + flag (decide (r.q.pend.count ≠ 0)) 0 < depth + 4 then admitOther now depth t (placeGap now depth r)
  else r.also [.note 0x09 t.thr, .inexact t.thr]

/-- A token admitted behind the pending gap, with which a gap marker of the same thread is combined (R146). -/
def place (now depth : Nat) (e : QEntry) (r : QRun) : QRun :=
  match e.tok with
  | .vec t =>
    if t.kind = kGap ∧ r.q.pend.count ≠ 0 ∧ r.q.pend.thr = t.thr ∧ r.q.items.length < depth + 4 then
      placeGap now depth { r with q := { r.q with pend := gapAdd r.q.pend (gapOf t) } }
    else if isRecord e.tok then
      let r1 := placeGap now depth r
      { r1 with q := enterQ now e r1.q }
    else placeOther now depth e.tok r
  | tok => placeOther now depth tok r

/-- The step of a SAMPLE queue's LFSR (R151). -/
def lfsrStep (x : BitVec 16) : BitVec 16 :=
  (x <<< 1) ||| (BitVec.ofBool (x.getLsbD 15 ^^ x.getLsbD 13 ^^ x.getLsbD 12 ^^ x.getLsbD 10)).setWidth 16

/-! ## MERGE and NARROW (R152, R153) -/

/-- R152: whether a record can be merged into the tail. -/
def mergeable (tail : QEntry) (r : VTok) : Bool :=
  match tail.tok with
  | .vec t => !tail.nrw && (t.kind = kData || t.kind = kNrw) && r.kind ≠ kCf8 && t.key = r.key && t.thr = r.thr && t.fmt = r.fmt &&
      (t.fmt.toNat ≤ 10 || t.fmt.toNat = 12)
  | _ => false

/-- An exact integer quotient rounded to nearest, ties to even. -/
def divRne (n : Int) (d : Nat) : Int :=
  let q := n / d
  let r := n % d
  if 2 * r > d ∨ (2 * r = d ∧ q % 2 = 1) then q + 1 else q

/-- The value of a weight in units of its smallest spacing 2^-40, exactly (R71). -/
def wUnits (w : Weight) : Nat := (wval w).1 * 2 ^ ((wval w).2 + 40).toNat

/-- The weighted mean of two floats, exact and rounded once (R152): the quotient to 128 bits, with what is left as the sticky bit. -/
def meanF (f : Fmt) (w1 w2 : Nat) (a b : Nat) : Nat :=
  let (n1, n2) := if w1 = 0 ∧ w2 = 0 then (1, 1) else (w1, w2)
  match fsumX .rne [fmulX (.fin false n1 0) (fval f a), fmulX (.fin false n2 0) (fval f b)] with
  | .fin neg m e =>
    let d := n1 + n2
    let n := m * 2 ^ (128 + Nat.log2 d)
    (roundFin f .rne .sat neg (n / d) (e - (128 + Nat.log2 d : Nat)) (n % d ≠ 0)).bits
  | v => (roundTo f v .rne .sat).bits

/-- Two elements combined by MOP (R152). -/
def combine (ty : Ty) (mop : Nat) (w1 w2 : Weight) (a b : Nat) : Nat :=
  let w := tyWidth ty
  let f := fmtOf ty
  let sg := tySigned ty
  let (n1, n2) := if w1 = 0 ∧ w2 = 0 then (1, 1) else (wUnits w1, wUnits w2)
  if tyFloat ty then
    match mop with
    | 0 => meanF f (wUnits w1) (wUnits w2) a b
    | 1 => fminmax f true a b
    | 2 => fminmax f false a b
    | _ => (roundTo f (fsumX .rne [fval f a, fval f b]) .rne .sat).bits
  else
    match mop with
    | 0 => wrapTo w (divRne (n1 * ival w sg a + n2 * ival w sg b) (n1 + n2))
    | 1 => imax w sg a b
    | 2 => imin w sg a b
    | _ => iadd w sg a b

/-- A record merged into the tail (R152). -/
def mergeTok (mop : Nat) (t r : VTok) : VTok :=
  let ty := (tyOfCode t.fmt).getD .b32
  let w := tyWidth ty
  let pay := packElems w ((List.range (512 / w)).map fun i =>
    match elemValid w t.valid i, elemValid w r.valid i with
    | true, true => combine ty mop t.wt r.wt (elem w t.pay i) (elem w r.pay i)
    | true, false => elem w t.pay i
    | false, true => elem w r.pay i
    | false, false => 0)
  let v := t.valid ||| r.valid
  { t with pay := zeroInvalid v pay, valid := v, wt := if mop = 3 then wread t.wt else wadd t.wt r.wt }

/-- A record as it leaves a NARROW queue after being stored narrowed, if its FMT can be (R153). -/
def narrowTok (ntgt : Bool) (r : VTok) : Option VTok :=
  let go (from_ dst : Fmt) (ty : Ty) : VTok :=
    let w := tyWidth ty
    let pay := packElems w ((List.range (512 / w)).map fun i =>
      (roundTo from_ (fval dst (roundTo dst (fval from_ (elem w r.pay i)) .rne .sat).bits) .rne .sat).bits)
    { r with pay := zeroInvalid r.valid pay, kind := kNrw }
  if r.kind = kCf8 then none
  else if !ntgt && r.fmt = 6 then some (go fmtF32 fmtBf16 .f32)
  else if ntgt && r.fmt = 7 then some (go fmtBf16 fmtE4m3 .bf16x2)
  else none

/-! ## Arrival (R147) -/

/-- A record arriving above the mark. A head replaced by DROPH leaves its entry to the arriving record, which is admitted where the queue then holds
fewer than DEPTH; where the reserve is in use beyond that, DROPH drops the arriving record as DROPT does (R144, R150; log 89). -/
def shed (now : Nat) (c : QCfg) (t : VTok) (r : QRun) : QRun :=
  let occ := r.q.items.length
  let e : QEntry := { tok := .vec t }
  let drop (r : QRun) := (lose now c.depth t false r).also [.count 0x10]
  match c.policy with
  | 0 =>
    if occ < c.depth then place now c.depth e r
    else (lose now c.depth t true r).also [.note 0x0A t.thr, .count 0x11]
  | 1 => drop r
  | 2 =>
    match r.q.items with
    | { tok := .vec h, .. } :: rest =>
      if countsAsData h && (r.q.head.count = 0 || r.q.head.thr = h.thr) && rest.length < c.depth then
        let g : Gap := ⟨1, wread h.wt, false, false, h.thr⟩
        let hg := if r.q.head.count = 0 then g else gapAdd r.q.head g
        (place now c.depth e { r with q := { r.q with items := rest, head := hg, headAt := now } }).also [.inexact h.thr, .count 0x10, .headLeft]
      else drop r
    | _ => drop r
  | 3 =>
    let x := lfsrStep r.q.lfsr
    let r := { r with q := { r.q with lfsr := x } }
    if x.toNat % 2 ^ c.s = 0 then
      if occ < c.depth then
        (place now c.depth { tok := .vec { t with wt := wscale t.wt c.s } } r).also [.inexact t.thr, .count 0x12]
      else drop r
    else if c.gos then (lose now c.depth t false r).also [.count 0x13]
    else r.also [.inexact t.thr, .count 0x13]
  | 4 =>
    match r.q.items.getLast? with
    | some tail =>
      match tail.tok with
      | .vec h =>
        if mergeable tail t then
          { q := { r.q with items := r.q.items.dropLast ++ [{ tail with tok := .vec (mergeTok c.mop h t) }] },
            eff := r.eff ++ (if c.mop = 3 then [.count 0x14] else [.count 0x14, .inexact t.thr]) }
        else drop r
      | _ => drop r
    | none => drop r
  | _ =>
    match narrowTok c.ntgt t with
    | none => drop r
    | some n =>
      match r.q.items.getLast? with
      | some tail =>
        if tail.nrw && tail.second.isNone && r.q.pend.count = 0 then
          { q := { r.q with items := r.q.items.dropLast ++ [{ tail with second := some n, at2 := now }] },
            eff := r.eff ++ [.inexact t.thr, .count 0x15] }
        else if occ < c.depth then (place now c.depth { tok := .vec n, nrw := true } r).also [.inexact t.thr, .count 0x15]
        else drop r
      | none => if occ < c.depth then (place now c.depth { tok := .vec n, nrw := true } r).also [.inexact t.thr, .count 0x15] else drop r

/-- R148: the close request after an admission. -/
def closeUp (c : QCfg) (q : Queue) : Queue := if c.policy = 0 ∧ c.hw ≤ q.items.length then { q with close := true } else q
/-- R148: the close request after a removal. -/
def closeDown (c : QCfg) (q : Queue) : Queue := if q.items.length ≤ c.hw / 2 then { q with close := false } else q

/-- What a queue does with an arriving token (R144, R147). -/
def arriveQ (now : Nat) (c : QCfg) (t : Tok) (q : Queue) : QRun :=
  let r : QRun := { q := q }
  let r1 := match t with
    | .vec v =>
      if countsAsData v then
        if q.items.length < c.hw ∧ q.items.length < c.depth then place now c.depth { tok := t } r else shed now c v r
      else place now c.depth { tok := t } r
    | _ => place now c.depth { tok := t } r
  { r1 with q := closeUp c r1.q }

/-- R146: the pending gap of an empty queue placed by itself. -/
def gapPlaceQ (now : Nat) (c : QCfg) (q : Queue) : QRun :=
  let r := placeGap now c.depth { q := q }
  { r with q := closeUp c r.q }

/-! ## Heads and removal -/

/-- The token at the head: the head gap while there is one (R150). -/
def headOf (q : Queue) : Option Tok :=
  if q.head.count ≠ 0 then some (.vec (gapTok q.head)) else q.items.head?.map (·.tok)

/-- The head taken: it counts as taken (R69), and as data of its packet (R78). -/
def popQ (now : Nat) (c : QCfg) (q : Queue) : Queue :=
  if q.head.count ≠ 0 then { q with head := {}, taken := q.taken + 1 }
  else match q.items with
    | [] => q
    | e :: rest =>
      let j := match e.tok with | .vec t => if countsAsData t then q.j + 1 else q.j | _ => q.j
      let items := match e.second with
        | some t => { e with tok := .vec t, second := none, at_ := e.at2 } :: rest
        | none => rest
      closeDown c { q with items := items, headAt := now, taken := q.taken + 1, j := j }

/-- Whether a queue's head waits for the operand decoder or the cut logic (R86). -/
def headAside (q : Queue) : Bool :=
  match headOf q with
  | some (.vec t) => t.kind = kPkthdr || t.kind = kMark
  | _ => false

/-- R83: what a CF8 token expands to under the queue's decoder, and whether it is a decode error. Without a valid header there is no packet
FMT, and the expanded token's FMT is 0 (log 72). -/
def expandCf8 (d : Option PktDec) (t : VTok) : VTok × Bool :=
  let fmt : BitVec 4 := match d with | some p => tyCode p.fmt | none => 0
  let bad : VTok := { t with kind := kData, fmt := fmt, key := 0, valid := 0, pay := 0 }
  match d with
  | none => (bad, true)
  | some p =>
    if p.fmt = .e4m3x4 ∨ p.fmt = .e5m2x4 then
      match cf8Decode p.fmt t.key.toNat t.pay with
      | some es => ({ t with kind := kData, fmt := fmt, key := 0, pay := zeroInvalid t.valid (packElems 8 es) }, false)
      | none => (bad, true)
    else (bad, true)

/-- What a node sees of a head (R36, R83, R86): NRW as DATA, CF8 expanded on a compute tile, a scalar token as its vector view. -/
def seen (expand : Bool) (q : Queue) : Tok → VTok
  | .vec t =>
    if t.kind = kNrw then { t with kind := kData }
    else if t.kind = kCf8 ∧ expand then (expandCf8 q.dec t).1
    else t
  | .sca t => scalarView t
  | .ctl b => scalarView ⟨if b then 1 else 0, 0⟩

/-! ## Queues of a tile -/

def getQ (x : Tile) (q : Nat) : Queue := aget {} x.queues q
def setQ (x : Tile) (q : Nat) (v : Queue) : Tile := { x with queues := aset x.queues q v }

/-- The effects of a queue's handling at a tile; `q` is its queue code (R157). -/
def qEffects (t : TileId) (q : Nat) (es : List QEff) (s : State) : State :=
  es.foldl (fun s e => match e with
    | .inexact thr => inexact s t thr
    | .count ev => countEv s t ev q 1
    | .note kind thr => recT s t { kind := kind, thr := thr, sub := q }
    | .headLeft => s) s

/-- The payloads of window tokens written to the granules that hold them (R235, R237): the count n is held at granule n mod CAPW. -/
def scratchBytes (ubase cap : Nat) (m : Assoc Byte) : Nat → List QEntry → Assoc Byte
  | _, [] => m
  | n, e :: l =>
    let p : Payload := match e.tok with | .vec t => t.pay | _ => 0
    scratchBytes ubase cap (writeBytes m (ubase * 65536 + n % cap * 64) (payloadBytes p)) (n + 1) l

/-- The window of a scratchpad queue (R235, R237): the tokens beyond the pool entries and before the reserve, in order. For each of the `left` entries
that leave the queue at its head the oldest of them moves back into the pool. -/
def scratch (s : State) (t : TileId) (before after : List QEntry) (depth cap left : Nat) : State :=
  if cap = 0 then s
  else
    let held (l : List QEntry) : Nat := min (l.length - depth) cap
    let down := min left (held before)
    updSlice s (sliceOf t) fun y =>
      let w := aget ({} : Window) y.wins 0
      let tail := w.tail + down
      let k := held before - down - 1
      { y with wins := aset y.wins 0 { w with head := tail + held after, tail := tail },
               data := scratchBytes w.ubase cap y.data (tail + k) (((after.drop depth).take cap).drop k) }

/-- An input queue of a tile changed, `left` entries having left it at its head, with the window counts that follow. -/
def putQ (s : State) (t : TileId) (q : Nat) (v : Queue) (left : Nat) : State :=
  let x := getTile s t
  let p := match x.active with | some p => p.val | none => 0
  let cap := capW s t x p q
  scratch (setTile s t (setQ x q v)) t (getQ x q).items v.items (depthOf (queueDesc x p q / 4 % 8)) cap left

/-- A queue's handling of a token, with its effects at the tile. -/
def runQ (s : State) (t : TileId) (q : Nat) (r : QRun) : State := qEffects t q r.eff (putQ s t q r.q (r.eff.count .headLeft))

/-- The head of a tile's queue taken. -/
def takeQ (s : State) (t : TileId) (q : Nat) : State :=
  let x := getTile s t
  let p := match x.active with | some p => p.val | none => 0
  let v := popQ s.clock (queueCfg s t x p q) (getQ x q)
  putQ s t q v ((getQ x q).items.length - v.items.length)

/-! ## The edge gate (R148, R189, R270) -/

/-- Whether some queue of a region holds a close request. -/
def closeHeld (s : State) (l : LaunchId) (x : Launch) : Bool :=
  (regionTiles l x).any (fun t =>
    let y := getTile s t
    y.queues.any (fun (_, q) => q.close) || y.g0.ina.close || y.g0.inb.close || y.g0.cin.close || y.g1.ina.close || y.g1.inb.close ||
      y.g1.cin.close) || x.streams.any fun (_, st) => st.close

/-- Whether the edge gate of a region is to be closed: a close request, a decision or yield not yet carried out, a STOP drain, a
drain of the watchdog. -/
def gateWanted (s : State) (l : LaunchId) (x : Launch) : Bool :=
  closeHeld s l x || x.dsel.isSome || x.stop || x.drainAt.isSome

/-- Seams between clusters that a region's rows, and its columns, span (R22). -/
def seamsOf (x : Launch) : Nat :=
  match x.corner with
  | none => 0
  | some (r, c) => ((r + x.lr.rows) / 8 - r / 8) + ((c + x.lr.cols) / 8 - c / 8)

/-- Cycles that a close request, or its end, takes to reach the ingress points: rows + columns + 2, and one for each seam (R148, R149; log
73). -/
def gateLag (x : Launch) : Nat := x.lr.rows + 1 + (x.lr.cols + 1) + 2 + seamsOf x

/-- Whether a change of the edge gate has reached the ingress points in this cycle. -/
def gateArrived (s : State) (l : LaunchId) (x : Launch) : Bool :=
  (gateWanted s l x != x.gate) && (match x.gateDue with | some d => decide (d ≤ s.clock) | none => false)

/-- Whether the ingress points of a region take nothing in: its edge gate is closed, or the close has reached them in this cycle. -/
def gateShut (s : State) (l : LaunchId) (x : Launch) : Bool := x.gate || gateArrived s l x

/-- Whether the tile's ingress sees its region's edge gate closed. -/
def gateClosed (s : State) (t : TileId) : Bool :=
  match ownerOf s t with
  | none => false
  | some l => match findLaunch s l with
    | some x => gateShut s l x
    | none => false

/-- The cycle in which a change of the edge gate that is wanted reaches the ingress points, counted from the cycle in which it arose. -/
def tickGate (s : State) (l : LaunchId) : State :=
  updLaunch s l fun x =>
    { x with gateDue := if gateWanted s l x = x.gate then none else some (x.gateDue.getD (s.clock + gateLag x)) }

end Sys2Proof.Machine
end

