-- ==== Sys2Proof/Machine/Nodes.lean ====
section
/-! DEFINITION. When a slot is ready, held and issued (R13, R86, R87), and what every firing does: it takes its heads, forms its result
header, writes its latch, and puts its results in the pipeline (R13, R14, R69, R87 to R89). -/
namespace Sys2Proof.Machine

/-! ## Operands of an instruction -/

/-- The operand fields of a slot's instruction. -/
def opSrcs : View → List Src
  | .node _ w => [w.sa, w.sb, w.sc]
  | .mem _ w => [w.sa, w.sb, w.sc]
  | _ => []

/-- The queues an instruction names, with their operand position (0 A, 1 B, 2 C). -/
def named (v : View) : List (Nat × Nat) :=
  ((opSrcs v).zipIdx).filterMap fun (s, i) => match s with | .queue q => some (i, q.val) | _ => none

/-- The queue numbers once each, in operand order. -/
def namedOnce (v : View) : List Nat := (named v).foldl (fun l p => if l.contains p.2 then l else l ++ [p.2]) []

/-- How a node takes the head at an operand (R86, R193, and the entries of GAPT, WIN, JOIN, AGG, ST, STF, ATOM, CJOIN). -/
inductive Use where
  | ordinary | stray | forward
  deriving DecidableEq, Repr

/-- R193: trigger operands. -/
def isTrigger : View → Nat → Bool
  | .node .bx _, 0 | .node .thalt _, 0 | .node .btok _, 0 | .node .barn _, 0 | .node .radv _, 0 | .node .rstat _, 0 => true
  | .node .seq _, 0 | .node .seq _, 1 => true
  | .mem .bkgive _, 0 => true
  | _, _ => false

/-- Kinds an operand takes as ordinary tokens besides records. -/
def takesKind (v : View) (i : Nat) (kind : BitVec 4) : Bool :=
  match v with
  | .mem .cjoin _ => true
  | .node .gapt _ => i = 0 && kind = kGap
  | .node .win _ => kind = kGap || kind = kBarrier
  | .node .join _ => kind = kGap || kind = kWend
  | .node .agg _ => kind = kGap || kind = kWend
  | .mem .st _ | .mem .stf _ | .mem .atom _ => i = 1 && kind = kGap
  | _ => false

def useOf (v : View) (i : Nat) (t : VTok) : Use :=
  if t.kind ≠ kGap ∧ t.kind ≠ kBarrier ∧ t.kind ≠ kWend then .ordinary
  else if isTrigger v i then (if t.kind = kGap then .stray else .ordinary)
  else if takesKind v i t.kind then .ordinary
  else match v with
    | .node _ w => if t.kind = kGap ∧ i = 0 ∧ w.gp then .forward else .stray
    | _ => .stray

/-! ## Slots -/

def getSlot (x : Tile) (k : Nat) : Slot := aget {} x.slots k
def setSlot (x : Tile) (k : Nat) (y : Slot) : Tile := { x with slots := aset x.slots k y }
def updSlot (x : Tile) (k : Nat) (f : Slot → Slot) : Tile := setSlot x k (f (getSlot x k))

/-- The instruction of an enabled slot of the active plane (R51, R54); none for a NOP. -/
def slotInstr (x : Tile) (k : Nat) : Option Instr :=
  match x.active with
  | none => none
  | some p =>
    if slotOn x p k ∧ tileMode x p ≠ 3 then
      match decodeSlot (slotWord x p k) with
      | .ok r => r
      | .error _ => none
    else none

/-- The head of a queue that a node may take. -/
def nodeHead (x : Tile) (q : Nat) : Option Tok := if headAside (getQ x q) then none else headOf (getQ x q)

/-- Whether a compute tile expands CF8 (R83). -/
def expands (x : Tile) : Bool := match x.active with | some p => tileMode x p = 0 | none => false

/-- What the node sees at a queue's head. -/
def seenHead (x : Tile) (q : Nat) : VTok :=
  match nodeHead x q with
  | some t => seen (expands x) (getQ x q) t
  | none => plainTok 0

/-- Ports of OUT, of the secondary output and of the completion token (R35, R40). -/
def outPorts (out : BitVec 4) : List Nat := (List.range 4).filter fun i => out.getLsbD i
def portsOf : View → List Nat
  | .node _ w => outPorts w.out ++ (if w.so then [(w.aux.extractLsb' 0 2).toNat] else [])
  | .mem _ w => outPorts w.out ++ (if w.cpl then [w.cplPort.val] else [])
  | _ => []

/-- Places of a port promised to firings in the pipeline (R87). -/
def promised (x : Tile) (port : Nat) : Nat :=
  x.slots.foldl (fun n (k, y) =>
    let ports := match slotInstr x k with | some i => portsOf (view i) | none => []
    y.pipe.foldl (fun n f => n + if f.ready then (f.ems.filter fun e => e.1.val = port).length else (ports.filter (· = port)).length) n) 0

/-- The first port of a slot without a free place (R87): one place on each port of OUT, and one on the secondary output's port (log 75). -/
def heldOn (x : Tile) (v : View) : Option Nat :=
  (portsOf v).find? fun p => 4 ≤ (aget [] x.outs p).length + promised x p

/-- Accesses not performed of a port, and LDFs among them (R240). -/
def portLoad (x : Tile) : Nat := x.port.queue.length
def portLdfs (x : Tile) : Nat := (x.port.queue.filter fun a => a.op = .ldf).length

/-! ## Readiness (R13, R86) -/

/-- What a slot could issue now. -/
inductive Want where
  | none
  | lone (q : Nat) (arg : Nat)
  | fire
  deriving DecidableEq, Repr

/-- A queue whose head is taken alone; of several, the one that the first operand names (log 74). -/
def loneHead (x : Tile) (v : View) : Option (Nat × Nat) :=
  (named v).find? fun (i, q) => match nodeHead x q with
    | some t => useOf v i (seen (expands x) (getQ x q) t) ≠ .ordinary
    | none => false

/-- Every named queue of some operand positions has a head. -/
def headsReady (x : Tile) (v : View) (args : List Nat) : Bool :=
  (named v).all fun (i, q) => !args.contains i || (nodeHead x q).isSome

/-- The fill at the drain end of a STREAM LD's window, for the address at its head (R243). -/
def windowOf (s : State) (t : TileId) (k : Nat) : Window := aget {} (getSlice s (sliceOf t)).wins k

/-- R245: the effective address of a memory node. -/
def effAddr (a : VTok) (imm : BitVec 16) : Word := lowPair a.pay + (imm.signExtend 64) * 64

/-- Whether the next fill of a window is for an address. -/
def fillReady (w : Window) (ea : Word) : Bool :=
  match w.held with
  | g :: _ => !g.store && g.va = ea &&& ~~~63
  | [] => false

/-- The context of a tile's launch. -/
def tileCtx (s : State) (t : TileId) : BitVec 12 :=
  match ownerOf s t with
  | none => 0
  | some l => match findLaunch s l with | some x => x.lr.ctx | none => 0

/-- A STREAM LD fires on the fill of its address, or on an address whose read-ahead would fault or be refused, which is not made (R243). -/
def streamReady (s : State) (t : TileId) (x : Tile) (k : Nat) (ea : Word) : Bool :=
  fillReady (windowOf s t k) ea ||
  (match translate s t.die (portTable x.port.entries) (tileCtx s t) ea .r with | .ok .. => false | _ => true)

/-- The operand token of a source as the node sees it, for the fields that decide readiness. -/
def headAt (x : Tile) (src : Src) : VTok := match src with | .queue q => seenHead x q.val | _ => plainTok 0

/-- R249: whether the next firing is one of a gap marker's, which makes no access. -/
def gapFiring (x : Tile) (op : MemOp) (w : MWord) : Bool :=
  (op = .st || op = .stf || op = .atom) && (headAt x w.sb).kind = kGap

/-- Whether the next fill of a window is for an address and still good: no write of its own port has overtaken it (R242). -/
def fillFresh (w : Window) (ea : Word) : Bool :=
  fillReady w ea && match w.held with
  | g :: _ => !g.stale
  | [] => false

/-- The limits of a port (R240): a firing that puts an access in the port queue needs room there. A STREAM LD that fires on a good fill of its
window puts none. -/
def portRoom (s : State) (t : TileId) (x : Tile) (k : Nat) (op : MemOp) (w : MWord) : Bool :=
  match op with
  | .agen | .cjoin => true
  | _ =>
    gapFiring x op w || (op = .ld && w.cls = .stream && fillFresh (windowOf s t k) (effAddr (headAt x w.sa) w.imm)) ||
    (portLoad x < 64 && (op ≠ .ldf || portLdfs x < 16))

/-- The extra conditions of a memory node's firing besides the limits of its port (R148, R243, R310). -/
def memOpen (s : State) (t : TileId) (x : Tile) (y : Slot) (k : Nat) (op : MemOp) (w : MWord) : Bool :=
  match op with
  | .agen => match y.node with | .agen .. => false | _ => true
  | .cjoin => true
  | .bkgive => !y.fault
  | _ =>
    !y.fault && (w.cls ≠ .stream || !gateClosed s t) &&
    (gapFiring x op w ||
      ((!(op = .ld && w.cls = .stream) || (windowOf s t k).usize = 0 || streamReady s t x k (effAddr (headAt x w.sa) w.imm)) &&
       (!(op = .st && w.cls = .stream) || (windowOf s t k).usize = 0 || (windowOf s t k).held.length < 1024 * (windowOf s t k).usize)))

/-- The extra conditions of a memory node's firing. -/
def memReady (s : State) (t : TileId) (x : Tile) (y : Slot) (k : Nat) (op : MemOp) (w : MWord) : Bool :=
  memOpen s t x y k op w && portRoom s t x k op w

/-- SEQ's next issue (R196): a start, an emission, or a done token. -/
inductive SeqStep where
  | none | start | emit | done
  deriving DecidableEq, Repr
def seqStep (x : Tile) (y : Slot) (w : NWord) : SeqStep :=
  let v : View := .node .seq w
  match y.node with
  | .seq n i taken _ true =>
    let mode := (w.aux.extractLsb' 0 2).toNat
    let win := w.imm.toNat / 256
    let canEmit := i < n && (match mode with | 0 => i = 0 || taken ≥ i | 1 => i - taken < win | _ => true)
    let canDone := mode ≠ 2 && headsReady x v [1] && taken < i
    if canDone then .done else if canEmit then .emit else if i = n ∧ (mode = 2 ∨ taken = n) then .emit else .none
  | _ => if headsReady x v [0, 2] && (!(named v).isEmpty || !y.fired) then .start else .none

/-- R196: a done token that SEQ does not owe a take is taken alone. -/
def seqStray (x : Tile) (y : Slot) (v : View) : Option (Nat × Nat) :=
  match v with
  | .node .seq w =>
    match w.sb with
    | .queue q =>
      let owed := match y.node with | .seq _ i taken _ true => decide (taken < i) | _ => false
      if (nodeHead x q.val).isSome ∧ !owed then some (1, q.val) else none
    | _ => none
  | _ => none

/-- JOIN's next issue (R168): an emission, or the side whose head it takes. -/
inductive JoinStep where
  | none | emit | side (b : Bool)
  deriving DecidableEq, Repr
def joinStep (x : Tile) (y : Slot) (w : NWord) : JoinStep :=
  match y.node with
  | .join _ _ (_ :: _) _ => .emit
  | st =>
    let (ca, cb) := match st with | .join a b _ _ => (a.closed, b.closed) | _ => (false, false)
    let at_ (src : Src) : Option Nat := match src with
      | .queue q => (nodeHead x q.val).map fun _ => match (getQ x q.val).items with | e :: _ => e.at_ | [] => 0
      | _ => none
    match (if ca then none else at_ w.sa), (if cb then none else at_ w.sb) with
    | some a, some b => .side (b < a)
    | some _, none => .side false
    | none, some _ => .side true
    | none, none => .none

/-- What a slot could issue now, its holds by R87 left aside. A slot that waits for the answer to a fault issues nothing (R310). -/
def want (s : State) (t : TileId) (x : Tile) (k : Nat) : Want :=
  match slotInstr x k with
  | none => .none
  | some i =>
    let v := view i
    let y := getSlot x k
    if y.fault then .none else
    match (match loneHead x v with | some p => some p | none => seqStray x y v) with
    | some (arg, q) => .lone q arg
    | none =>
      let ready : Bool := match v with
        | .node .seq w => decide (seqStep x y w ≠ .none)
        | .node .join w => decide (joinStep x y w ≠ .none)
        | .node .mseq _ => (match y.node with | .mseq .. => false | _ => headsReady x v [0, 1, 2] && (!(named v).isEmpty || !y.fired))
        | .node _ _ => headsReady x v [0, 1, 2] && (!(named v).isEmpty || !y.fired) && (y.pipe.length < 8 || (portsOf v).isEmpty)
        | .mem op w => headsReady x v [0, 1, 2] && memReady s t x y k op w
        | _ => false
      if ready then .fire else .none

/-- Whether only its port's limits keep a slot from being ready: it keeps its age (R13, R240). -/
def limited (s : State) (t : TileId) (x : Tile) (k : Nat) : Bool :=
  match slotInstr x k with
  | none => false
  | some i => match view i with
    | .mem op w =>
      (loneHead x (.mem op w)).isNone && headsReady x (.mem op w) [0, 1, 2] && memOpen s t x (getSlot x k) k op w && !portRoom s t x k op w
    | _ => false

/-- A tile that a STOP cut or its halt keeps from firing; the watchdog's drain ends either (R357). -/
def tileHalted (s : State) (t : TileId) (x : Tile) : Bool :=
  match ownerOf s t with
  | none => false
  | some l => match findLaunch s l with
    | none => false
    | some y => y.halted || (y.drainAt.isNone && match x.cut, y.cut with | some c, some d => c.recorded && d.stop | _, _ => false)

/-- Key under which a tile keeps the cycle in which a queue last handled an arrival, beside those of its links. -/
def arrUsed (q : Nat) : Nat := 30 + q
/-- Whether a queue has handled an arrival in this cycle: its head is not removed any more in it (R145). -/
def arrived (s : State) (x : Tile) (q : Nat) : Bool := afind x.used (arrUsed q) = some s.clock
def noteArrival (s : State) (t : TileId) (q : Nat) : State := updTile s t fun x => { x with used := aset x.used (arrUsed q) s.clock }

/-- Whether a queue that a slot names has handled an arrival in this cycle. -/
def tooLate (s : State) (x : Tile) (k : Nat) : Bool :=
  match slotInstr x k with
  | none => false
  | some i => (named (view i)).any fun p => arrived s x p.2

/-- Whether a slot is among those that compete for the cycle's issue: ready since a cycle, and not held (R13, R87). -/
def competes (s : State) (t : TileId) (x : Tile) (k : Nat) : Option Nat :=
  if tooLate s x k then none else
  match (getSlot x k).since, want s t x k with
  | some c, .fire =>
    (match slotInstr x k with
     | some i => if (heldOn x (view i)).isSome then none else some c
     | none => none)
  | some c, .lone q arg =>
    -- a forwarded gap marker needs a place like any result
    (match slotInstr x k with
     | some i => if useOf (view i) arg (seenHead x q) = .forward ∧ (heldOn x (view i)).isSome then none else some c
     | none => none)
  | _, _ => none

/-- Key under which a tile keeps the cycle in which an AGEN pass or an MSEQ run last sent a token, beside those of its links (R342). -/
def emitUsed : Nat := 18
/-- The same of one slot: a pass sends one address in a cycle (R247). -/
def slotEmit (k : Nat) : Nat := 50 + k
def noteEmit (s : State) (sl : SlotId) : State :=
  updTile s sl.tile fun x => { x with used := aset (aset x.used emitUsed s.clock) (slotEmit sl.slot.val) s.clock }

/-- R13: the slot that issues this cycle: ready longest, then lowest number; none when the PE has issued, is halted, or repeats a cycle (R343). -/
def issuer (s : State) (t : TileId) : Option Nat :=
  let x := getTile s t
  if x.issued = some s.clock ∨ tileHalted s t x ∨ x.replay.isSome then none
  else
    ((List.range 8).foldl (fun (best : Option (Nat × Nat)) k =>
      match competes s t x k, best with
      | none, b => b
      | some c, none => some (k, c)
      | some c, some (k', c') => if c < c' then some (k, c) else some (k', c')) none).map (·.1)

/-- Whether an instruction can issue from a slot now as a firing. -/
def canFire (s : State) (sl : SlotId) (i : Instr) : Bool :=
  let x := getTile s sl.tile
  slotInstr x sl.slot.val = some i && want s sl.tile x sl.slot.val = .fire && issuer s sl.tile = some sl.slot.val

/-! ## Firing -/

/-- What a firing works on. -/
structure Fire where
  sl : SlotId
  v : View
  plane : Fin 4
  a : VTok
  b : VTok
  c : VTok
  ty : Ty
  thr : BitVec 8
  pktOk : Bool
  fmtMet : Nat
  k7 : Lane
  dec : Option PktDec
  j : Nat
  deriving DecidableEq, Repr

/-- R38: the queue whose packet header gives a PKT firing its type. A word with TY PKT that names no queue (an LDI) has none: it fires once, as a
PKT firing without a legal format, with FMT 0 and a TYPE record of P0 15 (DESIGN CHOICE, log 72). -/
def pktQueue (v : View) : Option Nat := (named v).head?.map (·.2)

/-- R38: whether an instruction's table lists a type. -/
def typeLegal (v : View) (ty : Ty) : Bool :=
  ty ≠ .pkt && (match v with
    | .node op w => (nodeRule op).tys.contains ty &&
        (match op with
         | .cvtup | .cvtdn | .cvtif | .cvtfi => (match tyOfCode (w.imm.extractLsb' 0 4) with
            | some dst => (match cvtParts op ty dst with | some p => (w.imm.extractLsb' 4 2).toNat < p | none => false)
            | none => false)
         | _ => true)
    | _ => true)

/-- The operands of a firing (R14, R36, R38). -/
def fireOf (s : State) (sl : SlotId) (v : View) : Fire :=
  let x := getTile s sl.tile
  let p : Fin 4 := x.active.getD 0
  let y := getSlot x sl.slot.val
  let (rm, ov, imm, ty0) := match v with
    | .node _ w => (w.rm, w.ov, w.imm, w.ty)
    | .mem _ w => (Rm.rne, Ov.sat, w.imm, w.ty)
    | _ => (Rm.rne, Ov.sat, 0, Ty.b32)
  let q := (pktQueue v).map (getQ x)
  let dec := match q with | some q => q.dec | none => none
  let ty := if ty0 = .pkt then (match dec with | some d => d.fmt | none => .i32) else ty0
  let ok := ty0 ≠ .pkt || (match dec with | some d => typeLegal v d.fmt | none => false)
  let env : SrcEnv := ⟨(List.range 8).map (seenHead x), constsOf x p, y.latch⟩
  let src (i : Nat) := srcTok env ty rm ov imm ((opSrcs v).getD i .zero)
  { sl := sl, v := v, plane := p, a := src 0, b := src 1, c := src 2, ty := ty,
    thr := (match named v with | (_, q) :: _ => (seenHead x q).thr | [] => 0), pktOk := ok,
    fmtMet := (match dec with | some d => (tyCode d.fmt).toNat | none => 15), k7 := constK x p 7, dec := dec,
    j := (match q with | some q => q.j | none => 0) }

/-- A head taken by a node: a gap marker makes its thread inexact (R154), a CF8 decode error is counted and recorded (R83). -/
def takeHead (s : State) (t : TileId) (q : Nat) : State :=
  let x := getTile s t
  match nodeHead x q with
  | none => s
  | some tok =>
    let s1 := takeQ s t q
    match tok with
    | .vec v =>
      let s2 := if v.kind = kGap then inexact s1 t v.thr else s1
      if v.kind = kCf8 ∧ expands x ∧ (expandCf8 (getQ x q).dec v).2 then
        recFirst (countTile s2 t 0x22 0) t { kind := 0x04, thr := v.thr, p0 := word v.key.toNat }
      else s2
    | _ => s1

/-- R14: heads of different threads are counted, and the first in a phase recorded. -/
def thrMix (s : State) (sl : SlotId) (x : Tile) (qs : List Nat) : State :=
  match qs.map fun q => (seenHead x q).thr with
  | [] => s
  | h :: rest => match rest.find? (· ≠ h) with
    | none => s
    | some other => recFirst (countTile s sl.tile 0x24 0) sl.tile { kind := 0x07, thr := h, sub := sl.slot.val, p0 := word other.toNat }

/-- The PE's issue of the cycle by a slot (R13). -/
def markIssue (s : State) (sl : SlotId) : State :=
  updTile s sl.tile fun x => updSlot { x with issued := some s.clock } sl.slot.val fun y => { y with since := none, fired := true }

/-- A firing's heads taken and its issue made. -/
def beginFire (s : State) (sl : SlotId) (qs : List Nat) : State :=
  let x := getTile s sl.tile
  markIssue (qs.foldl (fun s q => takeHead s sl.tile q) (thrMix s sl x qs)) sl

/-- R39: a result token on the ports of a mask. -/
def emsOf (out : BitVec 4) (t : VTok) : List (Fin 4 × Tok) :=
  (if out.getLsbD 0 then [(0, .vec t)] else []) ++ (if out.getLsbD 1 then [(1, .vec t)] else []) ++
  (if out.getLsbD 2 then [(2, .sca ⟨lowPair t.pay, t.thr⟩)] else []) ++ (if out.getLsbD 3 then [(3, .ctl (t.pay.getLsbD 0))] else [])

/-- A firing whose results are there, and one that waits for an access, an arrival or an operation (R87). -/
def results (ems : List (Fin 4 × Tok)) : Firing := { id := 0, ready := true, ems := ems }
def awaiting (id : Nat) : Firing := { id := id, ready := false, ems := [] }

/-- Results put in a slot's pipeline (R87). -/
def pushPipe (s : State) (sl : SlotId) (f : Firing) : State :=
  updTile s sl.tile fun x => updSlot x sl.slot.val fun y => { y with pipe := y.pipe ++ [f] }

/-- Ready results put in a slot's pipeline, if there are any. -/
def pushEms (s : State) (sl : SlotId) (ems : List (Fin 4 × Tok)) : State :=
  if ems.isEmpty then s else pushPipe s sl (results ems)

def setLatch (s : State) (sl : SlotId) (t : VTok) : State :=
  updTile s sl.tile fun x => updSlot x sl.slot.val fun y => { y with latch := t }

def setNode (s : State) (sl : SlotId) (n : NodeSt) : State :=
  updTile s sl.tile fun x => updSlot x sl.slot.val fun y => { y with node := n }

/-- The exception mask with invalid lanes cleared (R69, R89). -/
def maskValid (v : BitVec 16) (m : Nat) : Nat :=
  m &&& (List.range 16).foldl (fun n l => if v.getLsbD l then n + 15 * 16 ^ l else n) 0

/-- R69, R114: the ARITH record of a firing with a nonzero mask, and the STOP of its launch. `serial` ties the record to the firing's results,
if it has any. -/
def arith (s : State) (sl : SlotId) (thr : BitVec 8) (mask : Nat) (q : Nat) (ordinal : Nat) (serial : Nat) : State :=
  if mask = 0 then s
  else
    let s1 := recT s sl.tile
      { kind := 0x05, thr := thr, sub := sl.slot.val, p0 := word mask, p1 := word (q * 2 ^ 60 + ordinal), firing := serial }
    match ownerOf s sl.tile with
    | none => s1
    | some l => updLaunch s1 l fun x =>
      if x.lr.log then x
      else { x with stop := true, stopThr := if x.stopThr.contains thr then x.stopThr else x.stopThr ++ [thr] }

/-- A firing's results and its ARITH record, if its mask has a bit: the record enters the event queue after the results complete (R136). -/
def pushArith (s : State) (sl : SlotId) (thr : BitVec 8) (mask : Nat) (tok : Nat × Nat) (ems : List (Fin 4 × Tok)) : State :=
  if mask = 0 then pushEms s sl ems
  else if ems.isEmpty then arith s sl thr mask tok.1 tok.2 0
  else
    let (k, s1) := fresh s
    pushPipe (arith s1 sl thr mask tok.1 tok.2 (k + 1)) sl { results ems with arith := k + 1 }

/-- The width of the elements that a firing's exception mask counts: its type's, but the lanes of FDOTA (R69, R121). -/
def maskWidth (v : View) (ty : Ty) : Nat := match v with | .node .fdota _ => 32 | _ => tyWidth ty

/-- R36, R68: the elements of an IMM16 operand whose conversion overflows under OV TRAP, in the firing's exception mask of elements of a width. -/
def immMask (width : Nat) (ty : Ty) (w : NWord) : Nat :=
  if [w.sa, w.sb, w.sc].contains .imm && w.ov = .trap && (immElem ty w.rm w.ov w.imm).excess then
    (List.range (512 / width)).foldl (fun m i => m + 2 ^ maskBit width i) 0
  else 0

/-- The queue code and ordinal that an ARITH record names (R69): the tokens of any kind that the queue gave before it, since plane activation,
counted from 0 (log 76). -/
def arithTok (x : Tile) (v : View) : Nat × Nat :=
  match named v with
  | (_, q) :: _ => (q, (getQ x q).taken)
  | [] => (15, 0)

/-- The header of a calculated result (R88, R89). -/
def resultTok (f : Fire) (w : NWord) (r : Calc) : VTok :=
  let valid := match r.valid with | some v => v | none => vmValid w.vm f.ty f.k7 f.a f.b f.c
  { valid := valid, wt := if w.wp then wread f.a.wt else wOne, key := if w.wp then f.a.key else 0, kind := kData, fmt := r.fmt, thr := f.thr,
    pay := zeroInvalid valid r.pay }

/-- The secondary output (R35), with the key and weight of the main result (R111, R127). -/
def secEms (f : Fire) (w : NWord) (r : Calc) : List (Fin 4 × Tok) :=
  if w.so then
    let port : Fin 4 := Fin.ofNat 4 (w.aux.extractLsb' 0 2).toNat
    [(port, match port.val with
      | 2 => .sca ⟨r.secVal, f.thr⟩
      | 3 => .ctl r.secBit
      | _ => .vec { r.secVec with thr := f.thr, key := if w.wp then f.a.key else 0, wt := if w.wp then wread f.a.wt else wOne })]
  else []

/-- A firing whose operands have no valid lane. -/
def noLanes (f : Fire) : Fire := { f with a := { f.a with valid := 0 }, b := { f.b with valid := 0 }, c := { f.c with valid := 0 } }

/-- R38, R77: a PKT firing without a legal format. `r` is what the node makes of no valid lane: the result's FMT is as its entry says (R88), and
a secondary output goes out all the same (R111, R127). Where no header was taken there is no packet FMT, and it is read as 0 (log 72). The
TYPE record is the tile's first of the phase (log 77). -/
def typeFail (s : State) (f : Fire) (w : NWord) (r : Calc) : State :=
  let t : VTok :=
    { valid := 0, wt := if w.wp then wread f.a.wt else wOne, key := if w.wp then f.a.key else 0, kind := kData, fmt := r.fmt, thr := f.thr, pay := 0 }
  let s1 := recFirst s f.sl.tile { kind := 0x03, thr := f.thr, sub := f.sl.slot.val, p0 := word f.fmtMet }
  pushEms (setLatch s1 f.sl t) f.sl (emsOf w.out t ++ secEms f w r)

/-- The whole of a firing of a calculating node: its next state. `fix` adjusts the result's header where the entry sets it. -/
def fireState (v : View) (w : NWord) (calcOf : Fire → Calc) (fix : Fire → Calc → VTok → VTok) (sl : SlotId) (s : State) : State :=
  let x := getTile s sl.tile
  let f := fireOf s sl v
  let s1 := beginFire s sl (namedOnce v)
  if f.pktOk then
    let r := calcOf f
    let t := fix f r (resultTok f w r)
    let mask := if r.rawMask then r.mask else maskValid t.valid (r.mask ||| immMask (maskWidth v f.ty) f.ty w)
    pushArith (setLatch s1 sl t) sl f.thr mask (arithTok x v) (emsOf w.out t ++ secEms f w r)
  else typeFail s1 f w (calcOf (noLanes f))

/-- An instruction of a PE slot: where it is not the slot's turn, or it is not ready, it waits (R13). -/
def atSlot (i : Instr) (s : State) (go : SlotId → State → State) : Host.Outcome State Fault Refusal :=
  match s.here with
  | .slot sl => if canFire s sl i then .next (go sl s) else .next s
  | _ => .fault .wrongPlace

/-- A calculating node. -/
def fireCalc (op : NodeOp) (value : CalcIn → Calc) (w : NWord) (s : State) : Host.Outcome State Fault Refusal :=
  atSlot (nodeInstr op w) s (fireState (.node op w) w (fun f => value ⟨f.ty, w, f.a, f.b, f.c⟩) (fun _ _ t => t))

end Sys2Proof.Machine
end

