-- ==== Sys2Proof/Machine/Barriers.lean ====
section
/-! DEFINITION. Named barriers (R276, R277): making an arrival, registering it, reports and releases. -/
namespace Sys2Proof.Machine

def getBar (x : Cluster) (b : Nat) : Barrier := aget {} x.bars b
def setBar (s : State) (c : ClusterId) (b : Nat) (y : Barrier) : State := updCl s c fun x => { x with bars := aset x.bars b y }
def barExpect (y : Barrier) : Nat := fld y.cfg 15 0
def barSpan (y : Barrier) : Bool := wbit y.cfg 60
def barMembers (y : Barrier) : Nat := fld y.cfg 51 43
def barHome (y : Barrier) : ClusterId := ⟨Fin.ofNat 4 (fld y.cfg 59 58), fin64 (fld y.cfg 57 52)⟩

/-- Counts that the spec names and gives no register, by number, of a cluster. -/
def cntBarbad : Nat := 1
def cntBufperm : Nat := 2
def cntMcastref : Nat := 3

/-- R277: the first episode, from the current one on, whose arrivals do not yet number EXPECT; as an offset, and the counts with one more. -/
def claimEpisode (expect : Nat) : List Nat → Nat × List Nat
  | [] => (0, [1])
  | n :: l => if n < expect then (0, (n + 1) :: l) else let (k, m) := claimEpisode expect l; (k + 1, n :: m)

/-- What becomes of an arrival: discarded with a reason, or made for an episode. -/
inductive ArriveRes where
  | bad (reason : Nat)
  | made (y : Barrier) (episode : Nat)
  deriving DecidableEq, Repr

/-- R277: an arrival made by a party of a context. -/
def arriveBar (y : Barrier) (ctx : BitVec 12) (before : Nat) (l : Option LaunchId) (thr : BitVec 8) : ArriveRes :=
  if barExpect y = 0 then .bad 0
  else if ctx ≠ y.ctx then .bad 1
  else
    let (k, counts) := claimEpisode (barExpect y) y.counts
    .made { y with counts := counts, made := y.made ++ [⟨y.gen + k, before, l, thr⟩] } (y.gen + k)

/-- Memory operations that store (R277). -/
def storesOp : MemOp → Bool
  | .st | .stf | .clre | .atom => true
  | _ => false

/-- R277: whether the accesses that an arrival waits for have performed: a core's earlier ones, or the stores of a region's thread, those that wait in
a saved region among them. -/
def arrivalReady (s : State) (c : ClusterId) (a : Arrival) : Bool :=
  match a.launch with
  | none =>
    let x := getCl s c
    x.sb.all (fun e => a.before ≤ e.seq) && x.loads.all fun e => a.before ≤ e.seq
  | some l =>
    match findLaunch s l with
    | none => true
    | some x => (regionTiles l x).all (fun t => done a (getTile s t)) &&
      (getCtx s l.die x.lr.ctx).saved.all fun r => r.handle ≠ l.handle || r.tiles.all fun (_, y) => done a y
where
  done (a : Arrival) (y : Tile) : Bool := y.port.queue.all fun e => !(storesOp e.op && e.thr = a.thr && e.seq < a.before)

/-- The first arrival of a list that can be registered, and the others. -/
def takeReady (ok : Arrival → Bool) : List Arrival → Option (List Arrival)
  | [] => none
  | a :: l => if ok a then some l else (takeReady ok l).map (a :: ·)

/-- REGISTER (R277). -/
def execRegister (s : State) : Host.Outcome State Fault Refusal :=
  match s.here with
  | .barrier c b =>
    let y := getBar (getCl s c) b.val
    match takeReady (fun a => decide (a.episode = y.gen) && arrivalReady s c a) y.made with
    | none => .next s
    | some rest => .next (setBar s c b.val { y with made := rest, arrived := y.arrived + 1 })
  | _ => .next s

/-- The deferred outputs of a slot's BARN firings of an episode go out (R197). -/
def barnSlot (b ep : Nat) (out : BitVec 4) (y : Slot) : Slot :=
  let (go, stay) := y.barns.partition fun (_, b', e) => b' = b && e ≤ ep
  { y with
    barns := stay,
    pipe := y.pipe ++ go.map fun (thr, b', _) =>
      let t : VTok := { valid := 0, wt := wOne, key := BitVec.ofNat 16 b', kind := kBarrier, fmt := 0, thr := thr, pay := 0 }
      results ((if out.getLsbD 0 then [(0, .vec t)] else []) ++ (if out.getLsbD 1 then [(1, .vec t)] else []) ++
        (if out.getLsbD 2 then [(2, .sca ⟨word b', thr⟩)] else []) ++ (if out.getLsbD 3 then [(3, .ctl true)] else [])) }

/-- The OUT field of a slot's BARN. -/
def barnOut (x : Tile) (k : Nat) : BitVec 4 :=
  match slotInstr x k with
  | some (.barn w) => w.out
  | _ => 0

/-- Every BARN output of a tile for an episode that has released. -/
def barnTile (b ep : Nat) (x : Tile) : Tile :=
  { x with slots := x.slots.map fun (k, y) => (k, barnSlot b ep (barnOut x k) y) }

/-- R277: a release at one cluster. -/
def releaseBar (s : State) (c : ClusterId) (b : Nat) : State :=
  let y := getBar (getCl s c) b
  let s1 := setBar s c b { y with arrived := 0, reports := 0, gen := y.gen + 1, counts := y.counts.tail, sent := false, reporters := [] }
  let s2 := updCl s1 c fun x => { x with ef := true }
  let p := pclOfLcl s2 c
  updTiles s2 (rectTiles c.die (p.val / 8 * 8) (p.val % 8 * 8) 8 8) (barnTile b y.gen)

/-- RELEASE (R277): a barrier that does not span clusters releases when ARRIVED reaches EXPECT. -/
def execRelease (s : State) : Host.Outcome State Fault Refusal :=
  match s.here with
  | .barrier c b =>
    let y := getBar (getCl s c) b.val
    if barExpect y ≠ 0 ∧ y.arrived = barExpect y ∧ !barSpan y then .next (releaseBar s c b.val) else .next s
  | _ => .next s

/-- R380: a report to a barrier's home, or a release from it, is a unit of traffic of the cluster that sends or takes it. -/
def barTraffic (s : State) (c h : ClusterId) : State := if c.die = h.die then carry s c.die (pclOfLcl s c) (pclOfLcl s h) 1 else s

/-- BARRIER_REPORT (R277): the home takes a cluster's report, and releases every reporter when all members have reported. -/
def execBarrierReport (s : State) : Host.Outcome State Fault Refusal :=
  match s.here with
  | .barrier c b =>
    let y := getBar (getCl s c) b.val
    if barExpect y ≠ 0 ∧ y.arrived = barExpect y ∧ barSpan y ∧ !y.sent then
      let s1 := setBar s c b.val { y with sent := true }
      let h := barHome y
      let z := getBar (getCl s1 h) b.val
      if !barSpan z || z.ctx ≠ y.ctx then
        .next (raiseRec (countCl (barTraffic s1 c h) h cntBarbad) h { kind := 0x18, ctx := y.ctx, p0 := word b.val, p1 := 3 })
      else
        let z := { z with reports := z.reports + 1, reporters := z.reporters ++ [c] }
        let s2 := setBar (barTraffic s1 c h) h b.val z
        if z.reports = barMembers z then .next (z.reporters.foldl (fun s c => releaseBar (barTraffic s c h) c b.val) (if z.reporters.contains h then s2 else setBar s2 h b.val { z with reports := 0, reporters := [] }))
        else .next s2
    else .next s
  | _ => .next s

end Sys2Proof.Machine
end

