-- ==== Sys2Proof/Machine/Threads.lean ====
section
/-! DEFINITION. Threads of a launch (R16 to R21, R184 to R187, R194, R195): waiting in the entry table, leaving a block, join counts,
decisions about planes (R189). -/
namespace Sys2Proof.Machine

/-- Counts of a launch that the spec names and gives no register. -/
def cntExitdup : Nat := 1
def cntDseldup : Nat := 2
def cntDselbad : Nat := 3
def cntYielddup : Nat := 4
def cntSpawnfail : Nat := 5

def getPlane (x : Launch) (p : Nat) : Plane := aget {} x.planes p

/-- PC of the block in the active plane. -/
def activePc (x : Launch) : Word := match x.active with | some p => (getPlane x p.val).pc | none => 0
/-- Its fall-through address (R172). -/
def fallPc (x : Launch) : Word := match x.active with | some p => (getPlane x p.val).pc + word (getPlane x p.val).len | none => 0

def findThread (x : Launch) (thr : BitVec 8) : Option Thread := afind x.threads thr.toNat
def setThread (x : Launch) (thr : BitVec 8) (y : Thread) : Launch := { x with threads := aset x.threads thr.toNat y }

/-- A thread put in the entry table: in its block's row, in a new row while there are fewer than eight, or in the overflow list (R187). -/
def seat (x : Launch) (pc : Word) (thr : BitVec 8) : Launch :=
  if x.table.any (fun r => r.pc = pc) then
    { x with table := x.table.map fun r => if r.pc = pc then { r with thrs := r.thrs ++ [thr] } else r }
  else if x.table.length < 8 then { x with table := x.table ++ [⟨pc, [thr], 0⟩] }
  else { x with overflow := x.overflow ++ [(pc, thr)] }

/-- The overflow list offered to the table again, in order (R187). -/
def reseat (x : Launch) : Launch := x.overflow.foldl (fun x (pc, thr) => seat x pc thr) { x with overflow := [] }

/-- R186: a thread joins the entry queue of a block. -/
def joinEntry (x : Launch) (thr : BitVec 8) (pc : Word) : Launch :=
  match findThread x thr with
  | none => x
  | some y => seat (setThread x thr { y with pc := pc, st := .waiting, exit := none, outs := [] }) pc thr

/-- R186: a thread held by WAIT whose join count is zero takes the join sum and joins its entry queue. -/
def unhold (x : Launch) (thr : BitVec 8) : Launch :=
  match findThread x thr with
  | some y =>
    if y.st = .holding ∧ y.joins = 0 then
      joinEntry (setThread x thr { y with t := y.t.take 3 ++ [y.sum], sum := 0 }) thr y.pc
    else x
  | none => x

/-- R186: a thread that has ended gives up its number once its join count is zero. -/
def freeThread (x : Launch) (thr : BitVec 8) : Launch :=
  match findThread x thr with
  | some y => if y.st = .ended ∧ y.joins = 0 then { x with threads := adel x.threads thr.toNat } else x
  | none => x

/-- R195: a child's TJOIN acts on its parent. -/
def joinParent (x : Launch) (parent : BitVec 8) (a : Word) : Launch :=
  match findThread x parent with
  | some y => freeThread (unhold (setThread x parent { y with sum := y.sum + a, joins := y.joins - 1 }) parent) parent
  | none => x

/-- Threads of a launch that have not ended. -/
def liveThreads (x : Launch) : Nat := (x.threads.filter fun (_, y) => y.st ≠ .ended).length

/-- R185: an exit firing for a thread; the first decides, later ones are counted. `also` is what an accepted exit does besides. -/
def exitFire (s : State) (t : TileId) (thr : BitVec 8) (e : Launch → Exit) (also : Launch → Thread → Launch) : State :=
  match ownerOf s t with
  | none => s
  | some l => match findLaunch s l with
    | none => s
    | some x => match findThread x thr with
      | none => s
      | some y =>
        if y.st ≠ .flight then s
        else match y.exit with
          | none => setLaunch s l (also (setThread x thr { y with exit := some (e x) }) y)
          | some _ => recFirstL (countL s l cntExitdup) l { kind := 0x0C, thr := thr, row := t.row.val, col := t.col.val, p0 := activePc x }

/-- R189: a DSEL or DSELC names a plane. -/
def decidePlane (s : State) (l : LaunchId) (p : Fin 4) : State :=
  match findLaunch s l with
  | none => s
  | some x =>
    if x.active = some p then s
    else if x.decided then countL s l cntDseldup
    else
      match (getPlane x p.val).st with
      | .invalid => recL (countL s l cntDselbad) l { kind := 0x0D, p0 := word p.val }
      | _ => setLaunch s l { x with dsel := some (.plane p), decided := true }

/-- R283: a PHASE with YIELD. -/
def decideYield (s : State) (l : LaunchId) : State :=
  match findLaunch s l with
  | none => s
  | some x => if x.decided then countL s l cntYielddup else setLaunch s l { x with dsel := some .yield, decided := true }

/-- R194: a child thread of a target block; its number, or none when there is none free. -/
def spawn (x : Launch) (parent : BitVec 8) (target a b c : Word) : Launch × Option Nat :=
  match (List.range 256).find? fun k => (afind x.threads k).isNone with
  | none => (x, none)
  | some n =>
    let y : Thread := { pc := target, t := [a, b, c, parent.setWidth 64], parent := some parent }
    let x1 := match findThread x parent with
      | some z => setThread x parent { z with joins := z.joins + 1 }
      | none => x
    (joinEntry { x1 with threads := aset x1.threads n y } (BitVec.ofNat 8 n) target, some n)

end Sys2Proof.Machine
end

