-- ==== Sys2Proof/Machine/Blocks.lean ====
section
/-! DEFINITION. The block and synchronisation family in slots (R191 to R197). -/
namespace Sys2Proof.Machine

/-- R192: the target of BX, BXC and TSPAWN. -/
def target (w : NWord) (k : Nat → Lane) (pc : Word) : Word :=
  let p := (w.aux.extractLsb' 1 3).toNat
  pc + (if w.aux.getLsbD 0 then k (2 * p + 1) ++ k (2 * p) else (w.imm.signExtend 64) * 64)

/-- The constants of the tile's active plane. -/
def kOf (s : State) (f : Fire) (n : Nat) : Lane := constK (getTile s f.sl.tile) f.plane n

/-- A node that only acts: its heads are taken, and the thread its head names is acted on. -/
def actNode (op : NodeOp) (w : NWord) (s : State) (go : SlotId → Fire → State → State) : Host.Outcome State Fault Refusal :=
  atSlot (nodeInstr op w) s fun sl s =>
    let f := fireOf s sl (.node op w)
    go sl f (beginFire s sl (namedOnce (.node op w)))

/-- BX (R192): the exit goes to the target. -/
def execBx (w : NWord) (s : State) : Host.Outcome State Fault Refusal :=
  actNode .bx w s fun sl f s1 =>
    exitFire s1 sl.tile f.thr (fun x => .go (target w (kOf s f) (activePc x)) (w.aux.getLsbD 4)) (fun x _ => x)

/-- BXC (R192): control bit 1 goes to the target, 0 to the fall-through block. -/
def execBxc (w : NWord) (s : State) : Host.Outcome State Fault Refusal :=
  actNode .bxc w s fun sl f s1 =>
    exitFire s1 sl.tile f.thr
      (fun x => .go (if f.a.pay.getLsbD 0 then target w (kOf s f) (activePc x) else fallPc x) (w.aux.getLsbD 4)) (fun x _ => x)

/-- THALT (R195). -/
def execThalt (w : NWord) (s : State) : Host.Outcome State Fault Refusal :=
  actNode .thalt w s fun sl f s1 => exitFire s1 sl.tile f.thr (fun _ => .stop) (fun x _ => x)

/-- TJOIN (R195): an exit that also acts on a live parent. -/
def execTjoin (w : NWord) (s : State) : Host.Outcome State Fault Refusal :=
  actNode .tjoin w s fun sl f s1 =>
    exitFire s1 sl.tile f.thr (fun _ => .stop) (fun x y => match y.parent with
      | some p => joinParent x p (lowPair f.a.pay)
      | none => x)

/-- The result of TSPAWN on O2, and in the latch. -/
def spawnResult (w : NWord) (sl : SlotId) (f : Fire) (r : Word) (s : State) : State :=
  let t := resultTok f w { pay := r.setWidth 512, fmt := 11 }
  pushEms (setLatch s sl t) sl (if w.out.getLsbD 2 then [(2, .sca ⟨r, f.thr⟩)] else [])

/-- TSPAWN (R194). -/
def execTspawn (w : NWord) (s : State) : Host.Outcome State Fault Refusal :=
  actNode .tspawn w s fun sl f s1 =>
    match ownerOf s1 sl.tile with
    | none => s1
    | some l => match findLaunch s1 l with
      | none => s1
      | some x =>
        let pc := target w (kOf s f) (activePc x)
        match spawn x f.thr pc (lowPair f.a.pay) (lowPair f.b.pay) (lowPair f.c.pay) with
        | (y, some n) => spawnResult w sl f (word n) (setLaunch s1 l y)
        | (_, none) =>
          spawnResult w sl f (BitVec.allOnes 64)
            (recFirstL (countL s1 l cntSpawnfail) l
              { kind := 0x0E, thr := f.thr, row := sl.tile.row.val, col := sl.tile.col.val, p0 := pc })

/-- DSEL (R189). -/
def execDsel (w : NWord) (s : State) : Host.Outcome State Fault Refusal :=
  actNode .dsel w s fun sl f s1 =>
    match ownerOf s1 sl.tile with
    | none => s1
    | some l => decidePlane s1 l (Fin.ofNat 4 (f.a.pay.extractLsb' 0 2).toNat)

/-- What SEQ emits for iteration i, and the control 0 at the end (R196). -/
def seqValue (w : NWord) (k : Nat → Lane) (i : Nat) : Nat :=
  if w.aux.getLsbD 2 then (k (i % 32 / 4)).toNat / 2 ^ (8 * (i % 4)) % 256 else i
def seqTok (v : Nat) (thr : BitVec 8) : VTok :=
  { valid := 1, wt := wOne, key := 0, kind := kData, fmt := 1, thr := thr, pay := packElems 32 [v] }
def seqEms (out : BitVec 4) (v : Nat) (thr : BitVec 8) : List (Fin 4 × Tok) :=
  (if out.getLsbD 0 then [(0, .vec (seqTok v thr))] else []) ++ (if out.getLsbD 1 then [(1, .vec (seqTok v thr))] else []) ++
  (if out.getLsbD 2 then [(2, .sca ⟨word v, thr⟩)] else []) ++ (if out.getLsbD 3 then [(3, .ctl true)] else [])
def seqEnd (out : BitVec 4) : List (Fin 4 × Tok) := if out.getLsbD 3 then [(3, .ctl false)] else []

/-- One issue of SEQ (R196). -/
def seqIssue (w : NWord) (sl : SlotId) (s : State) : State :=
  let x := getTile s sl.tile
  let y := getSlot x sl.slot.val
  let f := fireOf s sl (.node .seq w)
  let emit (i : Nat) (thr : BitVec 8) (s : State) : State :=
    let v := seqValue w (kOf s f) i
    pushEms (setLatch s sl (seqTok v thr)) sl (seqEms w.out v thr)
  let queueOf (src : Src) : List Nat := match src with | .queue q => [q.val] | _ => []
  match seqStep x y w, y.node with
  | .start, _ =>
    let n := (lane f.c.pay 0).toNat
    let s1 := beginFire s sl ((queueOf w.sa ++ queueOf w.sc).eraseDups)
    if n = 0 then pushEms s1 sl (seqEnd w.out)
    else emit 0 f.thr (setNode s1 sl (.seq n 1 0 f.thr true))
  | .emit, .seq n i taken thr _ =>
    let s1 := markIssue s sl
    if i < n then emit i thr (setNode s1 sl (.seq n (i + 1) taken thr true))
    else pushEms (setNode s1 sl .idle) sl (seqEnd w.out)
  | .done, .seq n i taken thr _ => setNode (beginFire s sl (queueOf w.sb)) sl (.seq n i (taken + 1) thr true)
  | _, _ => s

/-- SEQ (R196). -/
def execSeq (w : NWord) (s : State) : Host.Outcome State Fault Refusal := atSlot (.seq w) s (seqIssue w)

/-- BTOK (R197). -/
def execBtok (w : NWord) (s : State) : Host.Outcome State Fault Refusal :=
  actNode .btok w s fun sl f s1 =>
    let t : VTok := { valid := 0, wt := wOne, key := w.imm, kind := kBarrier, fmt := 0, thr := f.thr, pay := 0 }
    pushEms (setLatch s1 sl t) sl (emsOf w.out t)

/-- BARN (R197, R277): an arrival at a barrier of the tile's cluster; its output waits for the release. -/
def execBarn (w : NWord) (s : State) : Host.Outcome State Fault Refusal :=
  actNode .barn w s fun sl f s1 =>
    let c := clusterOf s1 sl.tile
    let b := w.imm.toNat % 512
    match arriveBar (getBar (getCl s1 c) b) (tileCtx s1 sl.tile) s1.seq (ownerOf s1 sl.tile) f.thr with
    | .bad r => recT (countCl s1 c cntBarbad) sl.tile { kind := 0x18, thr := f.thr, sub := sl.slot.val, p0 := word b, p1 := word r }
    | .made y ep =>
      updTile (setBar s1 c b y) sl.tile fun x => updSlot x sl.slot.val fun z => { z with barns := z.barns ++ [(f.thr, b, ep)] }

/-- EVPOST (R197). -/
def execEvpost (w : NWord) (s : State) : Host.Outcome State Fault Refusal :=
  actNode .evpost w s fun sl f s1 =>
    recT s1 sl.tile { kind := 0x26, thr := f.thr, tag := w.imm, p0 := f.a.pay.extractLsb' 0 64, p1 := f.a.pay.extractLsb' 64 64 }

end Sys2Proof.Machine
end

