-- ==== Sys2Proof/Machine/Buffers.lean ====
section
/-! DEFINITION. Typed buffers (R201 to R203), rings (R205 to R208) and the operands of matrix operations in them (R207). -/
namespace Sys2Proof.Machine

/-! ## Bytes and full-empty bits (R201, R203) -/

/-- Buffer numbers are the SPACE codes: 1 WBUF, 2 ABUF, 3 CBUF. -/
def bufSize (space : Nat) : Nat := if space = 3 then 2 ^ 20 else 2 ^ 21
/-- Key of a byte, and of a granule, of a buffer. -/
def bufKey (space off : Nat) : Nat := space * 2 ^ 22 + off
def granKey (space g : Nat) : Nat := space * 2 ^ 16 + g

def bufRead (x : Cluster) (space off n : Nat) : List Byte := readBytes x.buf (bufKey space off) n
def bufWrite (x : Cluster) (space off : Nat) (bs : List Byte) : Cluster := { x with buf := writeBytes x.buf (bufKey space off) bs }
def bufIsFull (x : Cluster) (space g : Nat) : Bool := aget false x.bufFull (granKey space g)
def bufSetFull (x : Cluster) (space g : Nat) (b : Bool) : Cluster := { x with bufFull := aput false x.bufFull (granKey space g) b }
/-- A granule of a buffer, and a granule written and set full. -/
def granRead (x : Cluster) (space g : Nat) : Payload := payloadOf (bufRead x space (64 * g) 64)
def granPut (x : Cluster) (space g : Nat) (p : Payload) : Cluster := bufSetFull (bufWrite x space (64 * g) (payloadBytes p)) space g true
/-- Several granules' full-empty bits set. -/
def bufFillAll (x : Cluster) (space first n : Nat) (b : Bool) : Cluster :=
  (List.range n).foldl (fun x i => bufSetFull x space (first + i) b) x

/-! ## Rings (R205 to R208) -/

def getRing (x : Cluster) (n : Nat) : Ring := aget {} x.rings n
def setRing (x : Cluster) (n : Nat) (r : Ring) : Cluster := { x with rings := aset x.rings n r }
/-- The buffer of a ring (R205). -/
def ringSpace (n : Nat) : Nat := if n < 8 then 1 else 2
/-- NT and occ (R205). -/
def ringNt (r : Ring) : Nat := if r.tsz = 0 then 0 else r.size / r.tsz
def ringOcc (r : Ring) : Nat := (r.tail - r.head).toNat
/-- First granule of tile index `t`. -/
def ringGran (r : Ring) (t : BitVec 16) : Nat := r.base + (if ringNt r = 0 then 0 else t.toNat % ringNt r * r.tsz)

/-- What an operation reads and writes of the rings: the ring read as A and whether it pops it, the ring read as B, the ring written. -/
structure RingUse where
  a : Option (Nat × Bool) := none
  b : Option (Nat × Bool) := none
  dst : Option (Nat × Bool) := none
  deriving DecidableEq, Repr

def ringUse : Instr → RingUse
  | .mmul w => ⟨some (w.ringa.toNat, w.popa), some (w.ringb.toNat, w.popb), none⟩
  | .mmult w => ⟨some (w.ringa.toNat, w.popa), some (w.ringb.toNat, w.popb), none⟩
  | .mldc w => ⟨some (w.ringa.toNat, w.popa), none, none⟩
  | .mstc w => ⟨none, none, some (w.ringa.toNat, w.popa)⟩
  | _ => {}

def opUse (o : MOp) : RingUse := match decodeMatrix o.tok with | some i => ringUse i | none => {}

/-- Pops of a ring that operations have still to perform; a refused one pops nothing (R208, R214). -/
def popsOn (ops : List MOp) (n : Nat) : Nat :=
  ops.foldl (fun k o =>
    if o.cause ≠ 0 then k
    else
      let u := opUse o
      k + (if u.a = some (n, true) then 1 else 0) + (if u.b = some (n, true) then 1 else 0)) 0
/-- Publishes of a ring that MSTCs have still to perform (R225). -/
def pubsOn (ops : List MOp) (n : Nat) : Nat :=
  ops.foldl (fun k o => if o.cause = 0 ∧ (opUse o).dst = some (n, true) then k + 1 else k) 0

/-- R208: whether tile HEAD + p of a ring is available. -/
def tileReady (x : Cluster) (n p : Nat) : Bool :=
  let r := getRing x n
  decide (p < ringOcc r) && (!r.few || (List.range r.tsz).all fun i => bufIsFull x (ringSpace n) (ringGran r (r.head + BitVec.ofNat 16 p) + i))

/-- R208: the tiles at which an operation starts: the read positions of its rings, and the place that it writes. `before` are the earlier operations
of its queue. -/
def placeOp (x : Cluster) (before : List MOp) (o : MOp) : MOp :=
  let u := opUse o
  let head (n : Nat) : BitVec 16 := (getRing x n).head + BitVec.ofNat 16 (popsOn before n)
  { o with ta := match u.a with | some (n, _) => head n | none => 0,
           tb := match u.b with | some (n, _) => head n | none => 0,
           td := match u.dst with | some (n, _) => (getRing x n).tail + BitVec.ofNat 16 (pubsOn before n) | none => 0 }

/-- The tiles that a started operation claims until it retires: ring and tile index. -/
def claimsOf (o : MOp) : List (Nat × BitVec 16) :=
  if o.started && o.cause = 0 then
    let u := opUse o
    (match u.a with | some (n, _) => [(n, o.ta)] | none => []) ++ (match u.b with | some (n, _) => [(n, o.tb)] | none => []) ++
    (match u.dst with | some (n, _) => [(n, o.td)] | none => [])
  else []

/-- Whether a granule of a buffer lies in a tile that one of some operations claims. -/
def claimedBy (x : Cluster) (ops : List MOp) (space g : Nat) : Bool :=
  ops.any fun o => (claimsOf o).any fun (n, t) =>
    let r := getRing x n
    ringSpace n = space && ringGran r t ≤ g && g < ringGran r t + r.tsz

/-- R208: whether a granule of a buffer is claimed. -/
def claimed (x : Cluster) (space g : Nat) : Bool := x.mqs.any fun (_, ops) => claimedBy x ops space g

/-- R208, R220: the granules of a released tile become empty once no claim covers them. -/
def emptyTile (x : Cluster) (n : Nat) (t : BitVec 16) : Cluster :=
  let r := getRing x n
  if r.few then
    (List.range r.tsz).foldl (fun x i =>
      let g := ringGran r t + i
      if claimed x (ringSpace n) g then { x with empt := granKey (ringSpace n) g :: x.empt } else bufSetFull x (ringSpace n) g false) x
  else x

/-- Granules that waited for a claim to end. -/
def emptyDue (x : Cluster) : Cluster :=
  x.empt.foldl (fun x k => if claimed x (k / 2 ^ 16) (k % 2 ^ 16) then x else bufSetFull x (k / 2 ^ 16) (k % 2 ^ 16) false)
    { x with empt := x.empt.filter fun k => claimed x (k / 2 ^ 16) (k % 2 ^ 16) }

/-- Every granule of a ring set empty (R205). -/
def emptyRing (x : Cluster) (n : Nat) : Cluster := let r := getRing x n; bufFillAll x (ringSpace n) r.base r.size false

/-- HEAD moved on by a number of tiles (R208, R220). -/
def popRing (x : Cluster) (n k : Nat) : Cluster :=
  let r := getRing x n
  let x1 := setRing x n { r with head := r.head + BitVec.ofNat 16 k }
  (List.range k).foldl (fun x i => emptyTile x n (r.head + BitVec.ofNat 16 i)) x1
/-- TAIL moved on by a number of tiles. -/
def pubRing (x : Cluster) (n k : Nat) : Cluster :=
  let r := getRing x n
  setRing x n { r with tail := r.tail + BitVec.ofNat 16 k }

/-- R212: whether a ring belongs to a half (1 upper, 2 lower). -/
def ringHalf (n : Nat) : Nat := if n % 8 < 4 then 1 else 2
/-- R212, R330: the owner of a half, or of the whole array. -/
def halfOwner (x : Cluster) (half : Nat) : BitVec 5 := if x.split && half = 2 then x.ownl else x.ownu
/-- R212, R220: whether a partition may use a ring. -/
def ringMine (x : Cluster) (n : Nat) (part : Option (Fin 16)) : Bool :=
  !x.split || (match part with | some p => halfOwner x (ringHalf n) = BitVec.ofNat 5 p.val | none => false)

/-! ## Tiles of rings (R207) -/

/-- The header of a tile, and its CF bit, if lane 1 is well formed and the header is valid (R77, R207). -/
def tileHeader (x : Cluster) (n : Nat) (t : BitVec 16) : Option (PktDec × Bool) :=
  let p := granRead x (ringSpace n) (ringGran (getRing x n) t)
  let l1 := (lane p 1).toNat
  if 32 ≤ l1 then none
  else
    let tok : VTok := { valid := 0, wt := 0, key := 0, kind := kPkthdr, fmt := BitVec.ofNat 4 (l1 % 16), thr := 0, pay := packElems 32 [(lane p 0).toNat] ||| (p &&& ~~~(BitVec.ofNat 512 (2 ^ 64 - 1))) }
    (pktOf tok).map fun d => (d, 16 ≤ l1)

/-- Element `k` of row `r` of a tile, of `eb` bytes. -/
def tileElem (x : Cluster) (n : Nat) (t : BitVec 16) (tpr eb r k : Nat) : Nat :=
  ofBytes (bufRead x (ringSpace n) (64 * (ringGran (getRing x n) t + 1 + r * tpr) + k * eb) eb)

/-- The scale of that element (R78, R207). -/
def tileScale (d : PktDec) (eb r k : Nat) : Int := pktScale d (r * d.tpr + k * eb / 64) (k % (64 / eb))

/-- Element (m, n) of a CBUF tile (R201). -/
def cAddr (tile m n : Nat) : Nat := tile * 16384 + 4 * (64 * m + n)
def cRead (x : Cluster) (tile m n : Nat) : Nat := ofBytes (bufRead x 3 (cAddr tile m n) 4)
def cWrite (x : Cluster) (tile m n v : Nat) : Cluster :=
  bufSetFull (bufWrite x 3 (cAddr tile m n) (bytesOf 4 v)) 3 (cAddr tile m n / 64) true

end Sys2Proof.Machine
end

