-- ==== Sys2Proof/Machine/Matrix.lean ====
section
/-! DEFINITION. The matrix array: nodes that feed it (R217 to R221) and its queues (R212 to R215). -/
namespace Sys2Proof.Machine

/-! ## Results that come back to a node -/

/-- The partition of a tile's launch. -/
def partOf (s : State) (t : TileId) : Option (Fin 16) :=
  match ownerOf s t with
  | none => none
  | some l => match findLaunch s l with
    | some x => some (Fin.ofNat 16 (ctxPart s t.die x.lr.ctx))
    | none => none

/-- R215: a value as a node's result: lanes 1 and 0 on O0 and O1, the value on O2, acceptance on O3. -/
def valueTok (v : Word) (thr : BitVec 8) : VTok :=
  { valid := 3, wt := wOne, key := 0, kind := kData, fmt := 11, thr := thr, pay := v.setWidth 512 }
def valueEms (out : BitVec 4) (v : Word) (ok : Bool) (thr : BitVec 8) : List (Fin 4 × Tok) :=
  (if out.getLsbD 0 then [(0, .vec (valueTok v thr))] else []) ++ (if out.getLsbD 1 then [(1, .vec (valueTok v thr))] else []) ++
  (if out.getLsbD 2 then [(2, .sca ⟨v, thr⟩)] else []) ++ (if out.getLsbD 3 then [(3, .ctl ok)] else [])

/-- The results of a firing that waited in a slot's pipeline. -/
def fillFiring (s : State) (sl : SlotId) (id : Nat) (ems : List (Fin 4 × Tok)) : State :=
  updTile s sl.tile fun x => updSlot x sl.slot.val fun y =>
    { y with pipe := y.pipe.map fun f => if f.id = id && !f.ready then { f with ready := true, ems := ems } else f }

/-- R215: the value of a retirement token. -/
def retireValue (tok : Word) (cause : Nat) : Word :=
  word (fld tok 63 55 * 2 ^ 55 + fld tok 54 53 * 2 ^ 53 + (if cause = 0 then 0 else 256) + cause)

/-! ## MXN, MSEQ (R218, R219) -/

def getMq (x : Cluster) (q : Nat) : List MOp := aget [] x.mqs q
def setMq (x : Cluster) (q : Nat) (ops : List MOp) : Cluster := { x with mqs := aset x.mqs q ops }

/-- R212: whether an MXN's queue is legal for the mode. -/
def mxnLegal (x : Cluster) (aux : Nat) : Bool := if x.split then aux = 1 || aux = 2 else aux = 0

/-- MXN (R218, R42): a checked token joins an array queue; another is refused on the spot. -/
def execMxn (w : NWord) (s : State) : Host.Outcome State Fault Refusal :=
  actNode .mxn w s fun sl f s1 =>
    let v := lowPair f.a.pay
    match decodeMatrix v with
    | none =>
      let s2 := recT s1 sl.tile { kind := 0x01, thr := f.thr, sub := sl.slot.val, p0 := 12, p1 := v }
      let aux := w.aux.toNat % 4
      let half := if (getCl s2 (clusterOf s2 sl.tile)).split then aux else if fld v 54 53 = 3 then 0 else fld v 54 53
      pushEms (countEv s2 sl.tile 0x31 half 1) sl (valueEms w.out (retireValue v 1) false f.thr)
    | some _ =>
      let (id, s2) := fresh s1
      let c := clusterOf s2 sl.tile
      let aux := w.aux.toNat % 4
      let o : MOp := { id := id, tok := v, tile := sl.tile, slot := sl.slot, thr := f.thr, part := partOf s2 sl.tile, seq := id,
                       cause := if mxnLegal (getCl s2 c) aux then 0 else 4 }
      let q := if (getCl s2 c).split && aux = 2 then 1 else 0
      pushPipe (updCl s2 c fun x => setMq x q (getMq x q ++ [o])) sl (awaiting id)

/-- R219: the i-th token of a run. -/
def mseqTok (mode : Nat) (t : Word) (i : Nat) : Word :=
  match mode with
  | 1 => if i = 0 then t else t ||| 0x10000
  | 2 => (t &&& ~~~0xFC00) ||| word ((fld t 15 10 + i) % 64 * 1024)
  | _ => t

/-- MSEQ (R219): the run begins; MSEQ_EMIT sends its tokens. -/
def execMseq (w : NWord) (s : State) : Host.Outcome State Fault Refusal :=
  actNode .mseq w s fun sl f s1 =>
    let t : Word := lane f.b.pay 0 ++ lane f.a.pay 0
    let mode := w.aux.toNat % 4
    let n := if mode = 0 then 1 else (f.c.pay.extractLsb' 0 16).toNat
    let thr := match w.sc with | .queue _ => f.c.thr | _ => f.thr
    if n = 0 then s1 else setNode s1 sl (.mseq n 0 t mode thr)

/-- MSEQ_EMIT (R219): the next token of a run goes to O2, one in a cycle, where a place is free. -/
def execMseqEmit (s : State) : Host.Outcome State Fault Refusal :=
  match s.here with
  | .slot sl =>
    let x := getTile s sl.tile
    match (getSlot x sl.slot.val).node with
    | .mseq n i t mode thr =>
      if 4 ≤ (aget [] x.outs 2).length + promised x 2 ∨ tileHalted s sl.tile x ∨ afind x.used (slotEmit sl.slot.val) = some s.clock then .next s
      else
        let v := mseqTok mode t i
        .next (pushEms (setNode (setLatch (noteEmit s sl) sl (valueTok v thr)) sl (if i + 1 < n then .mseq n (i + 1) t mode thr else .idle)) sl [(2, .sca ⟨v, thr⟩)])
    | _ => .next s
  | _ => .next s

/-! ## RADV, RSTAT (R220, R221) -/

/-- R220: the effect of an advance: new count, success, and the cluster after. -/
def radvDo (x : Cluster) (n count : Nat) (headSide mine : Bool) : Cluster × BitVec 16 × Bool :=
  let r := getRing x n
  if !mine then (x, if headSide then r.head else r.tail, false)
  else if headSide then
    if count ≤ ringOcc r then (popRing x n count, r.head + BitVec.ofNat 16 count, true) else (x, r.head, false)
  else if ringOcc r + count ≤ ringNt r then (pubRing x n count, r.tail + BitVec.ofNat 16 count, true)
  else (x, r.tail, false)

/-- The effect with its record, and its result in the pipeline under the firing's id. -/
def radvApply (w : NWord) (sl : SlotId) (id : Nat) (thr : BitVec 8) (s : State) : State :=
  let c := clusterOf s sl.tile
  let x := getCl s c
  let n := w.aux.toNat % 16
  let hd := w.aux.getLsbD 4
  let mine := ringMine x n (partOf s sl.tile)
  let (y, v, ok) := radvDo x n w.imm.toNat hd mine
  let s1 := setCl s c y
  let s2 := if ok || !mine then s1
            else recT s1 sl.tile { kind := if hd then 0x14 else 0x13, thr := thr, sub := sl.slot.val, p0 := word n, p1 := word w.imm.toNat }
  let r := word (v.toNat + flag (!ok) 16)
  fillFiring (setLatch s2 sl (valueTok r thr)) sl id (valueEms w.out r ok thr)

/-- R211, R220: whether the stores that a firing waits for have performed: earlier ones of the thread in the region, into the
buffer bytes of the tile's cluster that `into` names. -/
def storesDone (s : State) (t : TileId) (thr : BitVec 8) (before : Nat) (into : Access → Bool) : Bool :=
  match ownerOf s t with
  | none => true
  | some l => match findLaunch s l with
    | none => true
    | some x => (regionTiles l x).all fun u => clusterOf s u ≠ clusterOf s t ||
      (getTile s u).port.queue.all fun e => !(storesOp e.op && e.thr = thr && e.seq < before && into e)

/-- The buffer that a memory node's SPACE names, as its code. -/
def spaceNum : Space → Nat | .global => 0 | .wbuf => 1 | .abuf => 2 | .cbuf => 3 | .window => 4

/-- RADV (R220): a HEAD advance acts at once, a TAIL advance parks. -/
def execRadv (w : NWord) (s : State) : Host.Outcome State Fault Refusal :=
  actNode .radv w s fun sl f s1 =>
    let (id, s2) := fresh s1
    let s3 := pushPipe s2 sl (awaiting id)
    if w.aux.getLsbD 4 then radvApply w sl id f.thr s3
    else
      let old := match (getSlot (getTile s3 sl.tile) sl.slot.val).node with | .radv l => l | _ => []
      setNode s3 sl (.radv (old ++ [(id, id, f.thr)]))

/-- RADV_PUBLISH (R220): the oldest parked advance of a slot acts once the stores before it have performed. -/
def execRadvPublish (s : State) : Host.Outcome State Fault Refusal :=
  match s.here with
  | .slot sl =>
    let x := getTile s sl.tile
    match slotInstr x sl.slot.val, (getSlot x sl.slot.val).node with
    | some (.radv w), .radv ((id, before, thr) :: rest) =>
      if storesDone s sl.tile thr before (fun e => decide (spaceNum e.w.space = ringSpace (w.aux.toNat % 16))) then
        .next (radvApply w sl id thr (setNode s sl (.radv rest)))
      else .next s
    | _, _ => .next s
  | _ => .next s

/-- RSTAT (R221). -/
def execRstat (w : NWord) (s : State) : Host.Outcome State Fault Refusal :=
  atSlot (.rstat w) s fun sl s =>
    let r := getRing (getCl s (clusterOf s sl.tile)) (w.aux.toNat % 16)
    fireState (.node .rstat w) w
      (fun _ => { pay := packElems 32 [r.head.toNat, r.tail.toNat, ringOcc r, ringNt r, r.base, r.size, r.tsz, flag r.few 0], fmt := 1,
                  valid := some 0x00FF }) (fun _ _ t => t) sl s

/-! ## Starting and refusing (R212, R214) -/

def xw : Instr → XWord
  | .mmul w | .mmult w | .mzero w | .mstc w | .mldc w => w
  | _ => ⟨.whole, 0, 0, 0, 0, 0, 0, 0, false, 0, 0, false, false⟩

/-- R212, R330: whether HALF, CTILE and the rings are legal for the queue, and the sender owns the half. -/
def halfLegal (x : Cluster) (q : Nat) (i : Instr) (part : Option (Fin 16)) : Bool :=
  let w := xw i
  let half := if q = 1 then 2 else 1
  let u := ringUse i
  let rings := [u.a, u.b, u.dst].filterMap fun r => r.map (·.1)
  let own := match part with | some p => halfOwner x half = BitVec.ofNat 5 p.val | none => false
  own && (!x.split ||
    ((if half = 1 then w.half = .upper else w.half = .lower) && (w.ctile.toNat / 32 + 1 = half) && rings.all fun n => ringHalf n = half))

/-- Bytes per element of TYAB (R207). -/
def ebOf (tyab : BitVec 4) : Nat := if tyab = 7 ∨ tyab = 8 then 2 else 1
def rowsOf (w : XWord) : Nat := w.m1.toNat + 1
def colsOf (w : XWord) : Nat := w.n1.toNat + 1
def depthK (w : XWord) : Nat := (w.k1.toNat + 1) * 16

/-- R225: the granules of the tile that an MSTC writes, and its TPR. -/
def mstcTpr (w : XWord) : Nat :=
  if w.ofmt = 2 then 1 else (colsOf w * (if w.ofmt = 3 then 4 else 2) + 63) / 64
def mstcGrans (w : XWord) : Nat :=
  if w.ofmt = 2 then 1 + rowsOf w + (rowsOf w + 31) / 32 else 1 + rowsOf w * mstcTpr w

/-- R207: the check of one source tile: 0, or the cause. -/
def tileCheck (x : Cluster) (n : Nat) (t : BitVec 16) (fmt tpr need : Nat) (cfCause : Nat) : Nat :=
  match tileHeader x n t with
  | none => 2
  | some (d, cf) =>
    if cf then cfCause
    else if (tyCode d.fmt).toNat ≠ fmt ∨ d.tpr ≠ tpr ∨ (getRing x n).tsz < need then 2
    else 0

/-- R214: the causes tested when the tiles are available. -/
def tilesCheck (x : Cluster) (before : List MOp) (i : Instr) : Nat :=
  let w := xw i
  let eb := ebOf w.tyab
  let at_ (n : Nat) : BitVec 16 := (getRing x n).head + BitVec.ofNat 16 (popsOn before n)
  let tprK := (depthK w * eb + 63) / 64
  let a := w.ringa.toNat
  let b := w.ringb.toNat
  let bad := (List.range 256).any fun k => aget false x.bufPoison (granKey 3 (w.ctile.toNat * 256 + k))
  if bad then 5
  else match i with
  | .mmul _ =>
    let ca := tileCheck x a (at_ a) w.tyab.toNat tprK (1 + rowsOf w * tprK) 2
    if ca ≠ 0 then ca else tileCheck x b (at_ b) w.tyab.toNat tprK (1 + colsOf w * tprK) 2
  | .mmult _ =>
    let tprN := (colsOf w * eb + 63) / 64
    let ca := tileCheck x a (at_ a) w.tyab.toNat tprK (1 + rowsOf w * tprK) 2
    if ca ≠ 0 then ca
    else
      let cb := tileCheck x b (at_ b) w.tyab.toNat tprN (1 + depthK w * tprN) 2
      if cb ≠ 0 then cb
      else match tileHeader x b (at_ b) with
        | some (d, _) => if 2 ≤ d.smode then 3 else 0
        | none => 2
  | .mldc _ =>
    let tprN := (colsOf w * 4 + 63) / 64
    tileCheck x a (at_ a) w.tyc.toNat tprN (1 + rowsOf w * tprN) 6
  | .mstc _ => if (getRing x a).tsz < mstcGrans w then 2 else 0
  | _ => 0

/-- R208, R225: whether the tiles that an operation needs are available. -/
def tilesReady (x : Cluster) (before : List MOp) (i : Instr) : Bool :=
  let u := ringUse i
  (match u.a with | some (n, _) => tileReady x n (popsOn before n) | none => true) &&
  (match u.b with | some (n, _) => tileReady x n (popsOn before n) | none => true) &&
  (match u.dst with | some (n, _) => decide (ringOcc (getRing x n) + pubsOn before n < ringNt (getRing x n)) | none => true)

/-- The operations of a queue split at the first of which a test holds. -/
def splitFirst (p : MOp → Bool) : List MOp → Option (List MOp × MOp × List MOp)
  | [] => none
  | o :: l => if p o then some ([], o, l) else (splitFirst p l).map fun (a, b, c) => (o :: a, b, c)

/-- The next operation of a queue starts, or is refused; `err` says that the rows of its half have met an uncorrectable error (R212). -/
def startOp (s : State) (c : ClusterId) (q : Fin 2) (err : Bool) : State :=
  let x := getCl s c
  match splitFirst (fun o => !o.started) (getMq x q.val) with
  | none => s
  | some (pre, o, post) =>
    match decodeMatrix o.tok with
    | none => s
    | some i =>
      let put (cause : Nat) : State := setCl s c (setMq x q.val (pre ++ { placeOp x pre o with started := true, cause := cause } :: post))
      let w := xw i
      if o.cause ≠ 0 || !halfLegal x q.val i o.part then put 4
      else if (match i with | .mstc _ => decide (w.tyc = 0 ∧ w.ofmt ≠ 3) | _ => false) then put 6
      else if tilesReady x pre i then put (if err then 5 else tilesCheck x pre i)
      else s

/-- MATRIX_OP_START (R212 to R214). -/
def execMatrixOpStart (s : State) : Host.Outcome State Fault Refusal :=
  match s.here with
  | .array c q => .next (startOp s c q false)
  | .rowError c q => .next (startOp s c q true)
  | _ => .next s

/-- R212: the half that an operation of a queue is counted and recorded for: in SPLIT mode the queue's, else the one that its token names. -/
def opHalf (x : Cluster) (q : Nat) (o : MOp) : Nat := if x.split then q + 1 else fld o.tok 54 53

/-- R212: a change of SPLIT that was written takes effect once every queue is empty. -/
def settleMode (x : Cluster) : Cluster :=
  match x.mxPend with
  | some w => if x.mqs.all (fun e => e.2.isEmpty) then { x with split := wbit w 13, mxPend := none } else x
  | none => x

/-- MATRIX_RETIRE (R208, R213, R215, R289): the oldest operation of a queue retires, all its granules written: pops, its record if it was refused,
its token. -/
def execMatrixRetire (s : State) : Host.Outcome State Fault Refusal :=
  match s.here with
  | .array c q =>
    let x := getCl s c
    match getMq x q.val with
    | o :: rest =>
      if o.started && (o.ran && o.todo.isEmpty || o.cause ≠ 0) then
        let x1 := setMq x q.val rest
        let u := opUse o
        let pop (r : Option (Nat × Bool)) (x : Cluster) : Cluster := match r with | some (n, true) => popRing x n 1 | _ => x
        let pub (r : Option (Nat × Bool)) (x : Cluster) : Cluster := match r with | some (n, true) => pubRing x n 1 | _ => x
        let x2 := if o.cause = 0 then pub u.dst (pop u.b (pop u.a x1)) else x1
        let s1 := setCl s c (settleMode (emptyDue x2))
        let v := retireValue o.tok o.cause
        let half := opHalf x q.val o
        let s2 := countEv s1 o.tile (if o.cause = 0 then 0x30 else 0x31) half 1
        let s3 := if o.cause = 0 then s2
                  else recT s2 o.tile { kind := 0x12, thr := o.thr, sub := o.slot.val, p0 := v, p1 := word half }
        let sl : SlotId := ⟨o.tile, o.slot⟩
        let out := match slotInstr (getTile s3 o.tile) o.slot.val with | some (.mxn w) => w.out | _ => 0
        .next (fillFiring s3 sl o.id (valueEms out v (o.cause = 0) o.thr))
      else .next s
    | [] => .next s
  | _ => .next s

end Sys2Proof.Machine
end

