-- ==== Sys2Proof/Machine/Ports.lean ====
section
/-! DEFINITION. Memory ports (R240 to R251, R286 to R288): accesses in their queues, what they do at their perform points, refusals
(R202, R309), faults (R310), parked LDFs (R250). -/
namespace Sys2Proof.Machine

/-! ## Where an access goes -/

/-- The granule of an access, as its perform point knows it: a physical granule, a virtual one that no entry covers, a granule of a
buffer, an offset of a slice window (R241, R245); a give of a bank has none of its own (R246). -/
inductive GKey where
  | pa (g : Nat)
  | va (g : Nat)
  | buf (space g : Nat)
  | win (g : Nat)
  | give (id : Nat)
  deriving DecidableEq, Repr

def accKey (s : State) (t : TileId) (x : Tile) (a : Access) : GKey :=
  if a.op = .bkgive then .give a.id
  else match (if a.op = .mcast then .global else a.w.space) with
  | .global =>
    match rangeFor (portTable x.port.entries) (tileCtx s t) a.ea with
    | some (_, e) => .pa (fld e.pa 38 16 * 1024 + (fld a.ea 63 16 - fld e.base 63 16) * 1024 + fld a.ea 15 6)
    | none => .va (fld a.ea 63 6)
  | .window => .win (fld a.ea 63 6)
  | sp => .buf (spaceNum sp) (fld a.ea 63 6)

/-- What the access needs of a range entry (R306). -/
def needOf : MemOp → Need
  | .ld | .ldf | .pref | .mcast => .r
  | .st | .stf | .clre => .w
  | .atom => .rwa
  | _ => .none

/-- Accesses that can change their granule. -/
def writesOp : MemOp → Bool
  | .st | .stf | .atom => true
  | _ => false

def findAccess (x : Tile) (id : Nat) : Option Access := x.port.queue.find? fun a => a.id = id
def updAccess (s : State) (t : TileId) (id : Nat) (f : Access → Access) : State :=
  updTile s t fun x => { x with port := { x.port with queue := x.port.queue.map fun a => if a.id = id then f a else a } }

/-- Whether an access is a stream store in its slot's window (R243). -/
def inWindow (s : State) (t : TileId) (a : Access) : Bool :=
  (windowOf s t a.slot.val).held.any fun g => g.store && g.id = a.id

/-- R288: the conditions of an access's perform that stand in its port; a parked LDF holds no later access of it, of an ORDERED node either (R250). -/
def portReady (s : State) (t : TileId) (x : Tile) (a : Access) : Bool :=
  let before := x.port.queue.takeWhile fun b => b.id ≠ a.id
  x.port.start &&
  (a.parked.isSome || before.all fun b => b.parked.isSome || accKey s t x b ≠ accKey s t x a) &&
  (a.w.cls ≠ .ordered || before.all fun b => b.slot ≠ a.slot || b.parked.isSome)

/-! ## What it sends -/

/-- R246: a completion token. -/
def complEms (w : MWord) (ea : Word) (thr : BitVec 8) : List (Fin 4 × Tok) :=
  if w.cpl then
    [(w.cplPort, match w.cplPort.val with
      | 2 => .sca ⟨ea, thr⟩
      | 3 => .ctl true
      | _ => .vec { valid := 3, wt := wOne, key := 0, kind := kData, fmt := 12, thr := thr, pay := ea.setWidth 512 })]
  else []

/-- Operations that give a data result. -/
def loadsOp : MemOp → Bool
  | .ld | .ldf | .atom => true
  | _ => false

/-- R241, R246: whether the completion token leaves when the access enters the port queue; a PREF's waits for its line (R255). -/
def completesAtIssue (op : MemOp) (w : MWord) : Bool := w.scope = .tile && !loadsOp op && op ≠ .pref

/-- R246: the data result. -/
def loadTok (a : Access) (valid : BitVec 16) (p : Payload) : VTok :=
  { valid := valid, wt := wOne, key := 0, kind := kData, fmt := tyCode a.w.ty, thr := a.thr, pay := zeroInvalid valid p }

/-- What a performed access sends: its data result first, then its completion token. -/
def doneEms (a : Access) (r : Option VTok) (ea : Word) : List (Fin 4 × Tok) :=
  (match r with | some t => emsOf a.w.out t | none => []) ++ (if completesAtIssue a.op a.w then [] else complEms a.w ea a.thr)

/-- An access leaves its port queue performed (or refused): it is counted, its results go to its slot's pipeline, and a slot that
waited for a fault of it resumes (R288, R310). -/
def finish (s : State) (t : TileId) (a : Access) (r : Option VTok) (ea : Word) : State :=
  let s1 := updTile s t fun x => { x with port := { x.port with queue := x.port.queue.filter fun b => b.id ≠ a.id } }
  let s2 := countTile s1 t 0x40 0
  let still := (getTile s2 t).port.queue.any fun b => b.slot = a.slot && b.fault ≠ .none
  let s3 := updTile s2 t fun x => updSlot x a.slot.val fun y =>
    { y with fault := y.fault && still, latch := match r with | some v => v | none => y.latch }
  fillFiring s3 ⟨t, a.slot⟩ a.id (doneEms a r ea)

/-- The result of a refused read (R202). -/
def refusedTok (a : Access) : Option VTok := if loadsOp a.op then some (loadTok a 0 0) else none

/-- R202: a refusal at a typed buffer or window; reason 0 PERM, 1 RANGE. -/
def bufPerm (s : State) (t : TileId) (a : Access) (reason : Nat) : State :=
  let s1 := recFirst (countTile s t 0x101 0) t
    { kind := 0x0F, thr := a.thr, sub := a.slot.val, p0 := a.ea, p1 := word (spaceNum a.w.space + flag (reason = 1) 8) }
  finish s1 t a (refusedTok a) a.ea

/-- R309: a refusal for want of a permission. -/
def permRefuse (s : State) (t : TileId) (a : Access) (entry : Nat) (src : Nat) : State :=
  let p1 := faultP1 0xFF (ctxGen s t.die (tileCtx s t)) entry src 2
  let s1 := recT (countTile s t 0x41 0) t { kind := 0x30, thr := a.thr, sub := a.slot.val, p0 := a.ea, p1 := p1 }
  inexact s1 t a.thr

/-! ## Faults (R310, R315) -/

/-- The handle of a tile's launch. -/
def tileHandle (s : State) (t : TileId) : Nat := match (getTile s t).owner with | some h => h | none => 0

/-- An access meets a fault: it joins the open request of its page, context and port, or opens one with a FAULT record, or waits for a
free entry. Its slot issues nothing more. -/
def faultAccess (s : State) (t : TileId) (a : Access) (cause entry idx frame src : Nat) : State :=
  let d := getDie s t.die
  let ctx := tileCtx s t
  let page := fld a.ea 63 16
  let hold (st : FaultSt) (s : State) : State :=
    updTile (updAccess s t a.id fun b => { b with fault := st }) t fun x => updSlot x a.slot.val fun y => { y with fault := true }
  match sameReq d ctx page (fun p => match p with | .node u _ => u = t | _ => false) with
  | some (k, r) => hold (.open_ k r.serial) s
  | none =>
    match freeReq d with
    | none => hold (.waits cause) s
    | some k =>
      let gen := ctxGen s t.die ctx
      let r : PageReq := { serial := 0, ctx := ctx, page := page, gen := gen, cause := cause, party := .node t a.id, handle := tileHandle s t,
                           idx := idx, frame := frame, va := a.ea, thr := a.thr, src := src, entry := entry }
      let s1 := openReq s t.die k r
      let s2 := recT (countTile s1 t 0x41 0) t
        { kind := 0x30, thr := a.thr, sub := a.slot.val, p0 := a.ea, p1 := faultP1 k gen entry src cause }
      hold (.open_ k d.serial) s2

/-- What the answer to its fault makes of an access: it still waits, it was failed, or it translates again. -/
inductive Answer where
  | wait | failed | again
  deriving DecidableEq, Repr

def answerOf (s : State) (d : Fin 4) : FaultSt → Answer
  | .none => .again
  | .waits _ => .wait
  | .open_ k serial => if reqStands s d (k, serial) then .wait else if reqFailed s d serial then .failed else .again

/-! ## What it does at its perform point (R248, R251) -/

/-- R251: one element of an ATOM. -/
def atomElem (aop : Nat) (ty : Ty) (old b : Nat) : Nat :=
  let w := tyWidth ty
  let f := fmtOf ty
  match aop with
  | 0 => iadd w (tySigned ty) old b
  | 1 => (roundTo f (fsumX .rne [fval f old, fval f b]) .rne .inf).bits
  | 2 => if tyFloat ty then fminmax f false old b else imin w (tySigned ty) old b
  | 3 => if tyFloat ty then fminmax f true old b else imax w (tySigned ty) old b
  | 4 => old &&& b
  | 5 => old ||| b
  | 6 => old ^^^ b
  | _ => b

/-- R251: the new payload of an ATOM. -/
def atomPay (w : MWord) (old : Payload) (b c : VTok) : Payload :=
  let aop := w.aop.toNat
  if aop = 8 then
    let u := if w.ty = .i64x8 then 64 else 32
    packElems u ((List.range (512 / u)).map fun i =>
      if elemValid u b.valid i && elemValid u c.valid i && elem u old i = elem u c.pay i then elem u b.pay i else elem u old i)
  else
    let u := tyWidth w.ty
    packElems u ((List.range (512 / u)).map fun i =>
      if elemValid u b.valid i then atomElem aop w.ty (elem u old i) (elem u b.pay i) else elem u old i)

/-- What an access does to its granule: the lanes it writes, the full-empty bit it leaves, its result. -/
structure GranEff where
  write : Option (BitVec 16 × Payload) := none
  full : Option Bool := none
  result : Option VTok := none
  deriving DecidableEq, Repr

/-- R248, R251, R429: `bad` says that the granule is poisoned. -/
def granEff (a : Access) (old : Payload) (bad : Bool) : GranEff :=
  let v : BitVec 16 := if bad then 0 else 0xFFFF
  match a.op with
  | .ld => { result := some (loadTok a v old) }
  | .ldf => { full := if a.w.fe then some false else none, result := some (loadTok a v old) }
  | .st => { write := some (a.data.valid, a.data.pay) }
  | .stf => { write := some (a.data.valid, a.data.pay), full := some true }
  | .clre => { full := some false }
  | .atom => { write := some (a.data.valid, atomPay a.w old a.data a.cmp), result := some (loadTok a (a.data.valid &&& v) old) }
  | _ => {}

/-- A step at a global granule (R287). -/
def globalStep (s : State) (g : Nat) (e : GranEff) : State :=
  let s1 := match e.write with
    | some (v, p) =>
      let s := memWrite s (64 * g) (laneBytes (memRead s (64 * g) 64) v p)
      if v = 0xFFFF then setPoison s (64 * g) false else s
    | none => s
  match e.full with
  | some b => setFull s1 (64 * g) b
  | none => s1

/-- A step at a typed-buffer granule. -/
def bufStep (x : Cluster) (space g : Nat) (e : GranEff) : Cluster :=
  let x1 := match e.write with
    | some (v, p) =>
      let y := bufWrite x space (64 * g) (laneBytes (bufRead x space (64 * g) 64) v p)
      if v = 0xFFFF then { y with bufPoison := aput false y.bufPoison (granKey space g) false } else y
    | none => x
  match e.full with
  | some b => bufSetFull x1 space g b
  | none => x1

/-- The requester of an access as R380 counts it. -/
def srcOf (t : TileId) : Option (Fin 4 × Fin 64) := some (t.die, pclOf t)

/-- An LDF parks at its port, in the next place of the order of parking. A fault of it that has been answered holds its slot no more (R250, R310). -/
def park (s : State) (t : TileId) (a : Access) : State :=
  if a.parked.isSome then s
  else
    let (n, s1) := fresh s
    let s2 := updAccess s1 t a.id fun b => { b with parked := some n, fault := .none }
    let still := (getTile s2 t).port.queue.any fun b => b.slot = a.slot && b.fault ≠ .none
    updTile s2 t fun x => updSlot x a.slot.val fun y => { y with fault := y.fault && still }

/-- Data read from a poisoned granule makes the thread inexact (R429). -/
def tainted (s : State) (t : TileId) (a : Access) (bad : Bool) : State := if bad && loadsOp a.op then inexact s t a.thr else s

/-- A refusal that follows a failed answer (R315): the thread is delivered at its retirement. -/
def fatalRefuse (s : State) (t : TileId) (a : Access) : State :=
  let s1 := match ownerOf s t with | some l => updThread s l a.thr fun y => { y with fatal := true } | none => s
  finish s1 t a (refusedTok a) a.ea

/-- R309, R248: a global access at its turn. -/
def performGlobal (s : State) (t : TileId) (x : Tile) (a : Access) : State :=
  match answerOf s t.die a.fault with
  | .wait => s
  | .failed => fatalRefuse s t a
  | .again =>
    let ctx := tileCtx s t
    match translate s t.die (portTable x.port.entries) ctx a.ea (needOf a.op) with
    | .miss => if a.op = .pref then finish (countTile s t 0x102 0) t a none a.ea else faultAccess s t a 1 0xFF 0 0 0
    | .tier k i f => if a.op = .pref then finish (countTile s t 0x102 0) t a none a.ea else faultAccess s t a 3 k i f 0
    | .perm k => finish (permRefuse s t a k 0) t a (refusedTok a) a.ea
    | .ok pa _ map =>
      if a.op = .ldf && !isFull s pa then park (markAcc s t.die ctx map) t a
      else
        let s1 := markAcc (touch s (srcOf t) pa ctx (writesOp a.op)) t.die ctx map
        let bad := isPoison s pa
        let e := granEff a (payloadOf (memRead s (pa / 64 * 64) 64)) bad
        finish (tainted (globalStep s1 (pa / 64) e) t a bad) t a e.result a.ea

/-- R202: who may access a buffer. -/
def bufAllowed (space : Nat) : MemOp → Bool
  | .ld | .ldf => true
  | .st | .stf | .clre => space ≠ 3
  | _ => false

/-- A typed-buffer access at its turn (R201, R202, R208). -/
def performBuf (s : State) (t : TileId) (a : Access) (space : Nat) : State :=
  let c := clusterOf s t
  let x := getCl s c
  let g := fld a.ea 63 6
  if !bufAllowed space a.op then bufPerm s t a 0
  else if bufSize space ≤ 64 * g then bufPerm s t a 1
  else if storesOp a.op && claimed x space g then s
  else if a.op = .ldf && !bufIsFull x space g then park s t a
  else
    let bad := aget false x.bufPoison (granKey space g)
    let e := granEff a (granRead x space g) bad
    finish (tainted (setCl s c (bufStep x space g e)) t a bad) t a e.result a.ea

/-- Key of a byte of a window's area units (R235). -/
def winByte (w : Window) (n : Nat) : Nat := w.ubase * 65536 + n * 64

/-- R235: what windows hold stands in their granules. After a store into them the tokens that wait in a STREAM node's window, and those of a
scratchpad queue that lie in its window, have the payloads that their granules hold. -/
def rereadWindows (s : State) (t : TileId) : State :=
  let y := getSlice s (sliceOf t)
  let gran (w : Window) (n : Nat) : Payload := payloadOf (readBytes y.data (winByte w (n % (1024 * w.usize))) 64)
  let s1 := setSlice s (sliceOf t) { y with wins := y.wins.map fun (k, w) =>
    (k, { w with held := w.held.zipIdx.map fun (g, i) => { g with data := gran w (w.tail + i) } }) }
  updTile s1 t fun x => match x.active with
    | none => x
    | some p =>
      let cap := capW s t x p.val 0
      let depth := depthOf (queueDesc x p.val 0 / 4 % 8)
      let w := aget ({} : Window) y.wins 0
      let q := getQ x 0
      if cap = 0 ∨ q.items.length ≤ depth then x
      else setQ x 0 { q with items := q.items.zipIdx.map fun (e, i) =>
        if depth ≤ i ∧ i < depth + cap then
          match e.tok with
          | .vec v => { e with tok := .vec { v with pay := gran w (w.tail + (i - depth)) } }
          | _ => e
        else e }

/-- A slice-window access at its turn (R245). -/
def performWin (s : State) (t : TileId) (a : Access) : State :=
  let y := getSlice s (sliceOf t)
  let w := aget ({} : Window) y.wins (fld a.ea 22 20)
  let n := fld a.ea 19 6
  if a.op ≠ .ld ∧ a.op ≠ .st then bufPerm s t a 0
  else if fld a.ea 63 23 ≠ 0 ∨ 1024 * w.usize ≤ n then bufPerm s t a 1
  else
    let old := readBytes y.data (winByte w n) 64
    let e := granEff a (payloadOf old) false
    let s1 := match e.write with
      | some (v, p) => rereadWindows (setSlice s (sliceOf t) { y with data := writeBytes y.data (winByte w n) (laneBytes old v p) }) t
      | none => s
    finish s1 t a e.result a.ea

/-- An access at its turn. -/
def performAt (s : State) (t : TileId) (x : Tile) (a : Access) : State :=
  match a.w.space with
  | .global => performGlobal s t x a
  | .window => performWin s t a
  | sp => performBuf s t a (spaceNum sp)

/-! ## Parked LDFs (R250) -/

/-- The tile of a key. -/
def tileOfKey (k : Nat) : TileId := ⟨Fin.ofNat 4 (k / 4096), fin64 (k / 64), fin64 k⟩

/-- Insertion by the order of parking. -/
def insertParked (p : Nat × TileId × Access) : List (Nat × TileId × Access) → List (Nat × TileId × Access)
  | [] => [p]
  | q :: l => if p.1 < q.1 then p :: q :: l else q :: insertParked p l

/-- Every parked LDF, in parking order. -/
def parkedAll (s : State) : List (Nat × TileId × Access) :=
  s.tiles.foldl (fun l (k, x) => x.port.queue.foldl (fun l a => match a.parked with
    | some n => insertParked (n, tileOfKey k, a) l
    | none => l) l) []

/-- Whether the granule of a parked LDF is full now. -/
def parkedFull (s : State) (t : TileId) (a : Access) : Bool :=
  match a.w.space with
  | .global => match translate s t.die (portTable (getTile s t).port.entries) (tileCtx s t) a.ea .r with
    | .ok pa _ _ => isFull s pa
    | _ => false
  | .window => false
  | sp => bufIsFull (getCl s (clusterOf s t)) (spaceNum sp) (fld a.ea 63 6)

/-- R250: after granules have become full, every parked wait on them performs, then the first take in parking order. -/
def settle (s : State) : State :=
  let l := parkedAll s
  let go (s : State) (p : Nat × TileId × Access) : State :=
    if parkedFull s p.2.1 p.2.2 then performAt s p.2.1 (getTile s p.2.1) p.2.2 else s
  (l.filter fun p => p.2.2.w.fe).foldl go ((l.filter fun p => !p.2.2.w.fe).foldl go s)

end Sys2Proof.Machine
end

