-- ==== Sys2Proof/Machine/Array.lean ====
section
/-! DEFINITION. The operations of the matrix array (R85, R222 to R226). -/
namespace Sys2Proof.Machine

/-- The buffers as the operations before one have left them, those granules included that they have still to write (R213). -/
def afterOps (x : Cluster) (pre : List MOp) : Cluster :=
  pre.foldl (fun x o => o.todo.foldl (fun x (k, p) => granPut x (k / 2 ^ 16) (k % 2 ^ 16) p) x) x

/-- R213, R222, R289: an operation runs once it has started at its queue and every earlier one has run; elsewhere it waits. `go` gives the granules
that it writes, which ENGINE_WRITE then writes in any order. -/
def atArray (i : Instr) (s : State) (go : Cluster → MOp → List (Nat × Payload)) : Host.Outcome State Fault Refusal :=
  match s.here with
  | .array c q =>
    let x := getCl s c
    match splitFirst (fun o => !o.ran && o.cause = 0) (getMq x q.val) with
    | some (pre, o, post) =>
      if o.started ∧ decodeMatrix o.tok = some i then
        .next (setCl s c (setMq x q.val (pre ++ { o with ran := true, todo := go (afterOps x pre) o } :: post)))
      else .next s
    | none => .next s
  | _ => .fault .wrongPlace

/-- R85: the sum of one group of 16 products, scaled, for float operands. -/
def groupF (f : Fmt) (σ : Int) (as bs : List Nat) : FVal :=
  fscale (fsumX .rne ((as.zip bs).map fun (a, b) => fmulX (fval f a) (fval f b))) σ

/-- R85: one element of C. `a` and `b` give elements by k, `σ` the scale of a group. -/
def mmElem (tyab : BitVec 4) (groups : Nat) (a b : Nat → Nat) (σ : Nat → Int) (c0 : Nat) : Nat :=
  let ks (g : Nat) := (List.range 16).map fun j => 16 * g + j
  if tyab = 4 ∨ tyab = 5 then
    (List.range groups).foldl (fun acc g =>
      (ks g).foldl (fun acc k => wrapTo 32 ((acc : Int) + ival 8 (tyab = 4) (a k) * ival 8 (tyab = 4) (b k))) acc) c0
  else
    let f := fmtOf ((tyOfCode tyab).getD .bf16x2)
    (List.range groups).foldl (fun acc g =>
      (roundTo fmtF32 (fsumX .rne [fval fmtF32 acc, groupF f (σ g) ((ks g).map a) ((ks g).map b)]) .rne .inf).bits) c0

/-- Granules of CBUF with new elements in the first rows and columns of a tile; the others keep what they hold. -/
def cGrans (x : Cluster) (w : XWord) (cell : Nat → Nat → Nat) : List (Nat × Payload) :=
  let tile := w.ctile.toNat
  (List.range (rowsOf w)).flatMap fun m => (List.range ((colsOf w + 15) / 16)).map fun j =>
    (granKey 3 (cAddr tile m (16 * j) / 64),
     packElems 32 ((List.range 16).map fun i => if 16 * j + i < colsOf w then cell m (16 * j + i) else cRead x tile m (16 * j + i)))

/-- MMUL and MMULT over the elements of CTILE (R223): `t` says that B's rows are K. -/
def mmDo (t : Bool) (w : XWord) (x : Cluster) (o : MOp) : List (Nat × Payload) :=
  let a := w.ringa.toNat
  let b := w.ringb.toNat
  let ta := o.ta
  let tb := o.tb
  match tileHeader x a ta, tileHeader x b tb with
  | some (da, _), some (db, _) =>
    let eb := ebOf w.tyab
    let cell (m n : Nat) : Nat :=
      mmElem w.tyab (depthK w / 16) (fun k => tileElem x a ta da.tpr eb m k)
        (fun k => if t then tileElem x b tb db.tpr eb k n else tileElem x b tb db.tpr eb n k)
        (fun g => tileScale da eb m (16 * g) + (if t then tileScale db eb (16 * g) n else tileScale db eb n (16 * g)))
        (if w.acc then cRead x w.ctile.toNat m n else 0)
    cGrans x w cell
  | _, _ => []

/-- MMUL (R223). -/
def execMmul (w : XWord) (s : State) : Host.Outcome State Fault Refusal := atArray (.mmul w) s (mmDo false w)
/-- MMULT (R223). -/
def execMmult (w : XWord) (s : State) : Host.Outcome State Fault Refusal := atArray (.mmult w) s (mmDo true w)

/-- MZERO (R224). -/
def execMzero (w : XWord) (s : State) : Host.Outcome State Fault Refusal :=
  atArray (.mzero w) s fun x _ => cGrans x w fun _ _ => 0

/-- R225: one element of CBUF converted for OFMT, and the FMT code written. -/
def mstcElem (ofmt : BitVec 2) (v : Nat) : Nat :=
  match ofmt.toNat with
  | 0 => (roundTo fmtBf16 (fval fmtF32 v) .rne .sat).bits
  | 1 => (roundTo fmtF16 (fval fmtF32 v) .rne .sat).bits
  | 2 => (roundTo fmtE4m3 (fval fmtF32 v) .rne .sat).bits
  | _ => v
def mstcFmt (w : XWord) : Nat :=
  match w.ofmt.toNat with | 0 => 7 | 1 => 8 | 2 => 9 | _ => if w.tyc = 0 then 0 else 6

/-- The granules of the tile an MSTC writes (R225). -/
def mstcTile (w : XWord) (x : Cluster) : List Payload :=
  let tpr := mstcTpr w
  let row (m : Nat) : List Nat := (List.range (colsOf w)).map fun n => mstcElem w.ofmt (cRead x w.ctile.toNat m n)
  let hd := packElems 32 [tpr * 65536, mstcFmt w + (if w.ofmt = 2 then 16 else 0)]
  if w.ofmt = 2 then
    let blocks := (List.range (rowsOf w)).map fun m => cf8Encode .e4m3x4 (row m ++ List.replicate (64 - colsOf w) 0)
    hd :: (blocks.map (fun b => packElems 8 b.2)) ++
      (List.range ((rowsOf w + 31) / 32)).map fun g => packElems 16 (((blocks.drop (32 * g)).take 32).map (·.1))
  else
    let ob := if w.ofmt = 3 then 32 else 16
    hd :: (List.range (rowsOf w)).flatMap fun m => (List.range tpr).map fun g => packElems ob (((row m).drop (512 / ob * g)).take (512 / ob))

/-- MSTC (R225): the tile at TAIL + q, from its start. -/
def execMstc (w : XWord) (s : State) : Host.Outcome State Fault Refusal :=
  atArray (.mstc w) s fun x o =>
    let n := w.ringa.toNat
    let g := ringGran (getRing x n) o.td
    (mstcTile w x).zipIdx.map fun (p, i) => (granKey (ringSpace n) (g + i), p)

/-- MLDC (R226). -/
def execMldc (w : XWord) (s : State) : Host.Outcome State Fault Refusal :=
  atArray (.mldc w) s fun x o => cGrans x w fun m j => tileElem x w.ringa.toNat o.ta ((colsOf w * 4 + 63) / 64) 4 m j

/-- ENGINE_WRITE of the array (R208, R289): a granule that an operation has still to write, once no earlier operation has it to write and its tile
is claimed by no operation but itself and later ones of its queue; it is set full, and parked LDFs of it are served. -/
def arrayWrite (s : State) (c : ClusterId) (q : Fin 2) (k : Nat) : State :=
  let x := getCl s c
  match splitFirst (fun o => o.todo.any fun e => e.1 = k) (getMq x q.val) with
  | none => s
  | some (pre, o, post) =>
    let space := k / 2 ^ 16
    let g := k % 2 ^ 16
    let others := pre ++ (x.mqs.filter fun e => e.1 ≠ q.val).flatMap (·.2)
    if space ≠ 3 && claimedBy x others space g then s
    else match o.todo.find? fun e => e.1 = k with
      | none => s
      | some (_, p) =>
        let y := granPut x space g p
        let z := { y with bufPoison := aput false y.bufPoison k false }
        settle (setCl s c (setMq z q.val (pre ++ { o with todo := o.todo.eraseP fun e => e.1 = k } :: post)))

end Sys2Proof.Machine
end

