-- ==== Sys2Proof/Machine/Memory.lean ====
section
/-! DEFINITION. The memory family in slots (R240 to R256) and the moves of its accesses: PERFORM, page requests, stream windows, MCAST. -/
namespace Sys2Proof.Machine

/-! ## Issue (R240, R243, R249) -/

/-- A write of a port overtakes read-ahead fills of its granule (R242). -/
def staleFills (s : State) (t : TileId) (a : Access) : State :=
  if writesOp a.op then
    match accKey s t (getTile s t) a with
    | .pa g => updSlice s (sliceOf t) fun y =>
        { y with wins := y.wins.map fun (k, w) =>
            (k, { w with held := w.held.map fun h => if !h.store && h.pa / 64 = g then { h with stale := true } else h }) }
    | _ => s
  else s

/-- An access enters its port queue; what it will send waits in its slot's pipeline. -/
def enterPort (s : State) (sl : SlotId) (a : Access) : State :=
  let s1 := staleFills s sl.tile a
  let s2 := updTile s1 sl.tile fun x => { x with port := { x.port with queue := x.port.queue ++ [a], nextId := x.port.nextId + 1 } }
  if completesAtIssue a.op a.w then pushEms s2 sl (complEms a.w a.ea a.thr)
  else if a.w.out ≠ 0 || a.w.cpl then pushPipe s2 sl (awaiting a.id)
  else s2

/-- The first granule of a window's held list leaves, and TAIL advances. -/
def popWindow (s : State) (t : TileId) (k : Nat) : State :=
  updSlice s (sliceOf t) fun y =>
    let w := aget ({} : Window) y.wins k
    { y with wins := aset y.wins k { w with held := w.held.tail, tail := w.tail + 1 } }

/-- A granule put at the HEAD of a window (R235, R243). -/
def pushWindow (s : State) (t : TileId) (k : Nat) (g : WinGran) : State :=
  updSlice s (sliceOf t) fun y =>
    let w := aget ({} : Window) y.wins k
    { y with data := writeBytes y.data (winByte w (w.head % (1024 * w.usize))) (payloadBytes g.data),
             wins := aset y.wins k { w with held := w.held ++ [g], head := w.head + 1 } }

/-- The value of MCAST's B: a scalar token's, or the pair {Kn+1, Kn} (R244). -/
def pairOf (s : State) (f : Fire) (src : Src) : Word :=
  match src with
  | .const k => kOf s f (k.val + 1) ++ kOf s f k.val
  | _ => lowPair f.b.pay

/-- The access of a firing. -/
def accessOf (s : State) (sl : SlotId) (op : MemOp) (w : MWord) (f : Fire) : Access :=
  { id := s.seq, slot := sl.slot, op := op, w := w, thr := f.thr, ea := effAddr f.a w.imm, data := f.b, cmp := f.c, bval := pairOf s f w.sb,
    seq := s.seq }

/-- R249: a firing of a gap marker at B: no access; the marker leaves B with the last. -/
def gapFire (op : MemOp) (w : MWord) (sl : SlotId) (f : Fire) (s : State) : State :=
  let y := getSlot (getTile s sl.tile) sl.slot.val
  let qb := match w.sb with | .queue q => [q.val] | _ => []
  let others := (namedOnce (.mem op w)).filter fun q => !qb.contains q
  let c := f.b.key.toNat
  if c = 0 then beginFire s sl qb
  else
    let last := c ≤ y.gap + 1
    let s1 := beginFire s sl (others ++ (if last then qb else []))
    let s2 := updTile s1 sl.tile fun x => updSlot x sl.slot.val fun z => { z with gap := if last then 0 else z.gap + 1 }
    pushEms s2 sl (complEms w (effAddr f.a w.imm) f.thr)

/-- A memory node that makes an access. -/
def issueMem (op : MemOp) (w : MWord) (sl : SlotId) (s : State) : State :=
  let x := getTile s sl.tile
  let f := fireOf s sl (.mem op w)
  if gapFiring x op w then gapFire op w sl f s
  else
    let a := accessOf s sl op w f
    let s1 := { beginFire s sl (namedOnce (.mem op w)) with seq := s.seq + 1 }
    let win := windowOf s sl.tile sl.slot.val
    if op = .ld ∧ w.cls = .stream ∧ win.usize ≠ 0 ∧ fillReady win a.ea then
      match win.held with
      | g :: _ =>
        let s2 := popWindow s1 sl.tile sl.slot.val
        if g.stale then enterPort s2 sl a
        else
          let t := loadTok a g.valid g.data
          pushEms (setLatch (tainted s2 sl.tile a (g.valid = 0)) sl t) sl (doneEms a (some t) a.ea)
      | [] => enterPort s1 sl a
    else if op = .st ∧ w.cls = .stream ∧ win.usize ≠ 0 then
      enterPort (pushWindow s1 sl.tile sl.slot.val { pa := 0, va := a.ea, data := a.data.pay, valid := a.data.valid, store := true, id := a.id }) sl a
    else enterPort s1 sl a

/-- LD (R243, R248). -/
def execLd (w : MWord) (s : State) : Host.Outcome State Fault Refusal := atSlot (.ld w) s (issueMem .ld w)
/-- ST (R248, R249). -/
def execSt (w : MWord) (s : State) : Host.Outcome State Fault Refusal := atSlot (.st w) s (issueMem .st w)
/-- LDF (R248, R250). -/
def execLdf (w : MWord) (s : State) : Host.Outcome State Fault Refusal := atSlot (.ldf w) s (issueMem .ldf w)
/-- STF (R248, R249). -/
def execStf (w : MWord) (s : State) : Host.Outcome State Fault Refusal := atSlot (.stf w) s (issueMem .stf w)
/-- CLRE (R248). -/
def execClre (w : MWord) (s : State) : Host.Outcome State Fault Refusal := atSlot (.clre w) s (issueMem .clre w)
/-- ATOM (R249, R251). -/
def execAtom (w : MWord) (s : State) : Host.Outcome State Fault Refusal := atSlot (.atom w) s (issueMem .atom w)
/-- MCAST (R252). -/
def execMcast (w : MWord) (s : State) : Host.Outcome State Fault Refusal := atSlot (.mcast w) s (issueMem .mcast w)
/-- PREF (R255). -/
def execPref (w : MWord) (s : State) : Host.Outcome State Fault Refusal := atSlot (.pref w) s (issueMem .pref w)

/-- BKGIVE (R210, R211): the give parks at the port; in place of an address it carries the bank's byte offset. -/
def execBkgive (w : MWord) (s : State) : Host.Outcome State Fault Refusal :=
  atSlot (.bkgive w) s fun sl s =>
    let a := { accessOf s sl .bkgive w (fireOf s sl (.mem .bkgive w)) with ea := word (w.imm.toNat % 16 * 131072) }
    enterPort { beginFire s sl (namedOnce (.mem .bkgive w)) with seq := s.seq + 1 } sl a

/-! ## AGEN (R247), CJOIN (R256) -/

/-- AGEN: a pass begins. -/
def execAgen (w : MWord) (s : State) : Host.Outcome State Fault Refusal :=
  atSlot (.agen w) s fun sl s =>
    let f := fireOf s sl (.mem .agen w)
    let a := lowPair f.a.pay
    let b := lowPair f.b.pay
    let one := w.sb = .zero
    let n := if one then fld a 63 48 else fld b 63 32
    let base := if one then word (fld a 47 6 * 64) else a &&& ~~~63
    let stride := if one then 1 else sint 32 (fld b 31 0)
    let s1 := beginFire s sl (namedOnce (.mem .agen w))
    if n = 0 then s1 else setNode s1 sl (.agen n 0 base stride f.thr [])

/-- The i-th address of a pass (R247). -/
def agenAddr (w : MWord) (base : Word) (stride : Int) (i : Nat) : Word :=
  base + BitVec.ofInt 64 (64 * (sint 16 w.imm.toNat + stride * i))

/-- The bank that gates an address, if one does (R209, R247). -/
def agenBank (w : MWord) (a : Word) : Option Nat :=
  if w.fe && fld a 63 21 = 0 then
    match w.space with
    | .wbuf => some (fld a 20 17)
    | .abuf => some (16 + fld a 20 17)
    | _ => none
  else none

/-- AGEN_EMIT (R247): the next address of a pass, one in a cycle, while the edge gate is open, a place is free and its bank's token is held. -/
def execAgenEmit (s : State) : Host.Outcome State Fault Refusal :=
  match s.here with
  | .slot sl =>
    let x := getTile s sl.tile
    match slotInstr x sl.slot.val, (getSlot x sl.slot.val).node with
    | some (.agen w), .agen n i base stride thr banks =>
      if gateClosed s sl.tile || (heldOn x (.mem .agen w)).isSome || tileHalted s sl.tile x || afind x.used (slotEmit sl.slot.val) = some s.clock then .next s
      else
        let a := agenAddr w base stride i
        let t : VTok := { valueTok a thr with fmt := 12 }
        let emit (banks : List Nat) (s : State) : State :=
          pushEms (setNode (setLatch (noteEmit s sl) sl t) sl (if i + 1 < n then .agen n (i + 1) base stride thr banks else .idle)) sl (emsOf w.out t)
        match agenBank w a with
        | none => .next (emit banks s)
        | some b =>
          if banks.contains b then .next (emit banks s)
          else
            let c := clusterOf s sl.tile
            if (getCl s c).bktok.getLsbD b then
              .next (emit (b :: banks) (updCl s c fun y => { y with bktok := y.bktok &&& ~~~(1#32 <<< b) }))
            else .next s
    | _, _ => .next s
  | _ => .next s

/-- CJOIN (R256). -/
def execCjoin (w : MWord) (s : State) : Host.Outcome State Fault Refusal :=
  atSlot (.cjoin w) s fun sl s =>
    let f := fireOf s sl (.mem .cjoin w)
    let cnt := (match (getSlot (getTile s sl.tile) sl.slot.val).node with | .cjoin n => n | _ => 0) + 1
    let s1 := beginFire s sl (namedOnce (.mem .cjoin w))
    if cnt = w.imm.toNat then pushEms (setLatch (setNode s1 sl (.cjoin 0)) sl f.a) sl (emsOf w.out { f.a with thr := f.thr })
    else setNode s1 sl (.cjoin cnt)

/-! ## Performing (R288) -/

/-- PERFORM (R288): a node access at its turn; MCAST and BKGIVE have moves of their own, stream stores their write-back. -/
def execPerform (s : State) : Host.Outcome State Fault Refusal :=
  match s.here with
  | .access t id =>
    let x := getTile s t
    match findAccess x id with
    | none => .next s
    | some a =>
      if a.op = .mcast || a.op = .bkgive || a.parked.isSome || inWindow s t a || !portReady s t x a then .next s
      else .next (settle (performAt s t x a))
  | _ => .next s

/-- PAGE_REQUEST_OPEN (R310): a fault that waited for a free entry opens its request, or finds its page there. -/
def execPageRequestOpen (s : State) : Host.Outcome State Fault Refusal :=
  match s.here with
  | .access t id =>
    match findAccess (getTile s t) id with
    | none => .next s
    | some a =>
      match a.fault with
      | .waits _ =>
        let src := if a.op = .mcast then 6 else 0
        match translate s t.die (portTable (getTile s t).port.entries) (tileCtx s t) a.ea (needOf a.op) with
        | .miss => .next (faultAccess s t a 1 0xFF 0 0 src)
        | .tier k i f => .next (faultAccess s t a 3 k i f src)
        | _ => .next (updAccess s t id fun b => { b with fault := .none })
      | _ => .next s
  | _ => .next s

/-- The n-th token of a scalar queue. -/
def scalarAt (q : Queue) (n : Nat) : Option Word :=
  match q.items[n]? with
  | some e => match e.tok with | .sca t => some t.val | _ => none
  | none => none

/-- FILL (R243, R288): the next read-ahead of a STREAM LD's window; one of an address that would fault is dropped and counted, once (R312). -/
def execFill (s : State) : Host.Outcome State Fault Refusal :=
  match s.here with
  | .window sl k =>
    let t := tileOfSlice sl
    let x := getTile s t
    let win := windowOf s t k.val
    match slotInstr x k.val with
    | some (.ld w) =>
      if w.cls ≠ .stream || win.usize = 0 || !x.port.start || gateClosed s t || 1024 * win.usize ≤ win.held.length then .next s
      else match (match w.sa with | .queue q => scalarAt (getQ x q.val) win.held.length | _ => none) with
        | none => .next s
        | some v =>
          let ea := v + (w.imm.signExtend 64) * 64
          let ctx := tileCtx s t
          match translate s t.die (portTable x.port.entries) ctx ea .r with
          | .ok pa _ map =>
            let g := pa / 64
            if x.port.queue.any fun b => b.parked.isNone && accKey s t x b = .pa g then .next s
            else
              let s1 := countTile (markAcc (touch s (srcOf t) pa ctx false) t.die ctx map) t 0x40 0
              .next (pushWindow s1 t k.val
                { pa := g * 64, va := ea &&& ~~~63, data := payloadOf (memRead s (g * 64) 64), valid := if isPoison s pa then 0 else 0xFFFF, store := false })
          | _ =>
            if win.dropped = some ea then .next s
            else .next (updSlice (countTile s t 0x104 0) sl fun y => { y with wins := aupd {} y.wins k.val fun w => { w with dropped := some ea } })
    | _ => .next s
  | _ => .next s

/-- WRITE_BACK (R241, R243): the oldest store of a window performs at its home slice. -/
def execWriteBack (s : State) : Host.Outcome State Fault Refusal :=
  match s.here with
  | .window sl k =>
    let t := tileOfSlice sl
    let x := getTile s t
    match (windowOf s t k.val).held with
    | g :: _ =>
      match findAccess x g.id with
      | some a =>
        if g.store && portReady s t x a then
          let s1 := performAt s t x a
          .next (if (findAccess (getTile s1 t) g.id).isNone then popWindow s1 t k.val else s1)
        else .next s
      | none => .next (if g.store then popWindow s t k.val else s)
    | [] => .next s
  | _ => .next s

/-- BKGIVE_SET (R211): the bank's bit is set once the thread's earlier stores into the bank have performed. -/
def execBkgiveSet (s : State) : Host.Outcome State Fault Refusal :=
  match s.here with
  | .access t id =>
    let x := getTile s t
    match findAccess x id with
    | none => .next s
    | some a =>
      if a.op ≠ .bkgive || !x.port.start then .next s
      else
        let n := fld a.ea 20 17
        let sp := spaceNum a.w.space
        if !storesDone s t a.thr a.seq (fun e => decide (spaceNum e.w.space = sp) && decide (fld e.ea 63 17 = n)) then .next s
        else
          let c := clusterOf s t
          let b := (sp - 1) * 16 + n
          let s1 := if (getCl s c).bktok.getLsbD b then
              recOnce (countTile s t 0x103 0) t { kind := 0x11, thr := a.thr, sub := a.slot.val, p0 := word b }
            else updCl s c fun y => { y with bktok := y.bktok ||| (1#32 <<< b) }
          .next (finish s1 t a none a.ea)
  | _ => .next s

/-! ## MCAST (R252 to R254) -/

def mcMask (a : Access) : Nat := fld a.bval 63 48
def mcLen (a : Access) : Nat := fld a.bval 47 32
def mcRing (a : Access) : Option Nat := if wbit a.bval 31 then some (fld a.bval 27 24) else none
def mcDoff (a : Access) : Nat := fld a.bval 15 0

/-- Pieces of a source range of `len` granules from an address on: first granule and number of granules (R253). -/
def mcPiece (ea : Word) (len p : Nat) : Nat × Nat :=
  let off := fld ea 13 6
  let from_ := if p = 0 then 0 else 256 * p - off
  let dst := min len (256 * (p + 1) - off)
  (from_, dst - from_)
def mcPieces (ea : Word) (len : Nat) : Nat := (fld ea 13 6 + len + 255) / 256
/-- The address of a piece. -/
def mcAddr (a : Access) (p : Nat) : Word := (a.ea &&& ~~~63) + word (64 * (mcPiece a.ea (mcLen a) p).1)

/-- R252: the conditions on a request's fields. -/
def mcOk (x : Cluster) (c : ClusterId) (a : Access) : Bool :=
  let sp := spaceNum a.w.space
  (mcMask a).testBit (c.lcl.val % 16) && c.lcl.val / 16 = a.w.aop.toNat && 1 ≤ mcLen a && mcLen a ≤ 32768 &&
  fld a.bval 30 28 = 0 && fld a.bval 23 16 = 0 &&
  (match mcRing a with
   | some n =>
     let r := getRing x n
     ringSpace n = sp && mcDoff a = 0 && mcLen a = r.tsz && ringOcc r + r.claimed < ringNt r
   | none => mcDoff a + mcLen a ≤ 32768)

/-- R252: a refused request: its record, and its completion token. -/
def mcRefuse (s : State) (t : TileId) (a : Access) : State :=
  let c := clusterOf s t
  let s1 := recT (countCl s c cntMcastref) t { kind := 0x16, thr := a.thr, sub := a.slot.val, p0 := a.ea, p1 := a.bval }
  let s2 := match a.mc.accepted, mcRing a with
    | true, some n => updCl s1 c fun x => setRing x n { getRing x n with claimed := (getRing x n).claimed - 1 }
    | _, _ => s1
  finish s2 t a none a.ea

/-- R252: the claim of a ring tile, or the destination offset, at acceptance. -/
def mcAccept (s : State) (t : TileId) (a : Access) : State × Access :=
  let c := clusterOf s t
  match mcRing a with
  | none => let b := { a with mc := { a.mc with accepted := true, base := mcDoff a } }; (updAccess s t a.id fun _ => b, b)
  | some n =>
    let r := getRing (getCl s c) n
    let b := { a with mc := { a.mc with accepted := true, base := ringGran r (r.tail + BitVec.ofNat 16 r.claimed) } }
    (updAccess (updCl s c fun x => setRing x n { r with claimed := r.claimed + 1 }) t a.id fun _ => b, b)

/-- A line on its way to members (R253). -/
def mcDeliver (s : State) (ms : List Member) (i : Nat) (p : Payload) (bad : Bool) : State :=
  ms.foldl (fun s m => updAccess s m.tile m.id fun a => { a with mc := { a.mc with arrived := a.mc.arrived ++ [(m.off + i, p, bad)] } }) s

/-- R253, R302: a piece of a request joins an entry of its home slice, or opens one. One that joins in the cycle in which a line of the main pass was
sent receives that line with it, as it was read for the others. -/
def mcJoin (s0 : State) (t : TileId) (a : Access) (pa lines off : Nat) : State :=
  let h := homeSlice pa
  let s := if t.die = h.die then carry s0 h.die (pclOf t) h.pcl 1 else s0
  let ctx := tileCtx s t
  let now (e : McastEntry) : Bool := e.sentAt = some s.clock && e.catchup = 0
  let fits (e : McastEntry) : Bool :=
    e.pa = pa && e.lines = lines && e.group = a.w.aop.toNat && e.mask = mcMask a && e.ctx = ctx && (!e.sending || e.next < e.lines || now e)
  let me (missed : Nat) : Member := ⟨clusterOf s t, t, a.id, off, missed⟩
  let y := getSlice s h
  match y.mcast.find? fits with
  | some e =>
    let m := me (if now e then e.next - 1 else e.next)
    let s1 := setSlice s h { y with mcast := y.mcast.map fun z => if z.id = e.id then { z with members := z.members ++ [m] } else z }
    if now e then mcDeliver s1 [m] (e.next - 1) e.line e.lineBad else s1
  | none =>
    let (n, s1) := fresh s
    setSlice s1 h { y with mcast := y.mcast ++ [{ id := n, pa := pa, lines := lines, group := a.w.aop.toNat, mask := mcMask a, ctx := ctx,
                                                  opened := s.clock, sending := false, next := 0, catchup := 0, members := [me 0] }] }

/-- MCAST_REQUEST (R252, R253, R312): a request is accepted or refused, and its next piece asked for; it waits before it joins any entry while a
piece of it that it has still to ask for does not translate. -/
def execMcastRequest (s : State) : Host.Outcome State Fault Refusal :=
  match s.here with
  | .access t id =>
    let x := getTile s t
    match findAccess x id with
    | none => .next s
    | some a =>
      if a.op ≠ .mcast || !portReady s t x a || mcPieces a.ea (mcLen a) ≤ a.mc.asked then
        .next (if a.op = .mcast && portReady s t x a && mcLen a = 0 then mcRefuse s t a else s)
      else
        let c := clusterOf s t
        let ctx := tileCtx s t
        let tr (p : Nat) := translate s t.die (portTable x.port.entries) ctx (mcAddr a p) .r
        let denied := (List.range (mcPieces a.ea (mcLen a))).findSome? fun p => match tr p with | .perm k => some (p, k) | _ => none
        let bad := ((List.range (mcPieces a.ea (mcLen a))).drop a.mc.asked).find? fun p => match tr p with | .miss | .tier .. => true | _ => false
        if !a.mc.accepted && !mcOk (getCl s c) c a then .next (mcRefuse s t a)
        else match answerOf s t.die a.fault, denied with
          | .wait, _ => .next s
          | .failed, _ => .next (mcRefuse s t a)
          | .again, some (q, k) => .next (mcRefuse (permRefuse s t { a with ea := mcAddr a q } k 6) t a)
          | .again, none =>
            let p := bad.getD a.mc.asked
            match tr p with
            | .miss => .next (faultAccess s t { a with ea := mcAddr a p } 1 0xFF 0 0 6)
            | .tier k i f => .next (faultAccess s t { a with ea := mcAddr a p } 3 k i f 6)
            | .perm k => .next (mcRefuse (permRefuse s t { a with ea := mcAddr a p } k 6) t a)
            | .ok pa _ map =>
              let s0 := updTile (updAccess s t id fun b => { b with fault := .none }) t fun x => updSlot x a.slot.val fun y =>
                { y with fault := y.fault && x.port.queue.any fun b => b.slot = a.slot && b.id ≠ a.id && b.fault ≠ .none }
              let a := { a with fault := .none }
              let (s1, b) := if a.mc.accepted then (s0, a) else mcAccept s0 t a
              let (off, n) := mcPiece a.ea (mcLen a) p
              let s2 := updAccess s1 t id fun _ => { b with mc := { b.mc with asked := p + 1 } }
              .next (mcJoin (markAcc s2 t.die ctx map) t b (pa / 64 * 64) n off)
  | _ => .next s

/-- An entry of a slice changed, or closed. -/
def updMcast (s : State) (h : SliceId) (e : Nat) (f : McastEntry → Option McastEntry) : State :=
  updSlice s h fun y => { y with mcast := y.mcast.filterMap fun x => if x.id = e then f x else some x }

/-- MCAST_SEND_START (R253): every member of MASK has joined, or 32 cycles have passed. -/
def execMcastSendStart (s : State) : Host.Outcome State Fault Refusal :=
  match s.here with
  | .merged h e =>
    match (getSlice s h).mcast.find? (fun x => x.id = e) with
    | none => .next s
    | some x =>
      let all := (List.range 16).all fun i => !x.mask.testBit i || x.members.any fun m => m.cl.lcl.val % 16 = i
      if !x.sending && (all || x.opened + 32 ≤ s.clock) then .next (updMcast s h e fun y => some { y with sending := true }) else .next s
  | _ => .next s

/-- MCAST_LINE_SEND (R253, R302): the next line of the main pass, then of the catch-up pass, one in a cycle; the entry closes after both, and not in
the cycle in which the last line of the main pass is sent. -/
def execMcastLineSend (s : State) : Host.Outcome State Fault Refusal :=
  match s.here with
  | .merged h e =>
    match (getSlice s h).mcast.find? (fun x => x.id = e) with
    | none => .next s
    | some x =>
      if !x.sending || x.sentAt = some s.clock then .next s
      else
        let late := x.members.foldl (fun n m => max n m.missed) 0
        let send (i : Nat) (ms : List Member) (s : State) : State :=
          let pcls := ((ms.filter fun m => m.tile.die = h.die).map fun m => pclOf m.tile).eraseDups
          let s1 := pcls.foldl (fun s p => carry s h.die p h.pcl 1) (touch s none (x.pa + 64 * i) x.ctx false)
          mcDeliver s1 ms i (payloadOf (memRead s (x.pa + 64 * i) 64)) (isPoison s (x.pa + 64 * i))
        if x.next < x.lines then
          let g := x.pa + 64 * x.next
          .next (send x.next x.members (updMcast s h e fun y => some
            { y with next := y.next + 1, sentAt := some s.clock, line := payloadOf (memRead s g 64), lineBad := isPoison s g }))
        else if late ≤ x.catchup then .next (updMcast s h e fun _ => none)
        else
          let done := late ≤ x.catchup + 1
          .next (send x.catchup (x.members.filter fun m => x.catchup < m.missed)
            (updMcast s h e fun y => if done then none else some { y with catchup := y.catchup + 1, sentAt := some s.clock }))
  | _ => .next s

/-- MCAST_LAND (R254, R288): a line that has arrived at a member lands, in any order; the last to land completes the request. -/
def execMcastLand (s : State) : Host.Outcome State Fault Refusal :=
  match s.here with
  | .landing t id k =>
    match findAccess (getTile s t) id with
    | none => .next s
    | some a =>
      match a.mc.arrived[k]? with
      | none => .next s
      | some (i, p, bad) =>
        let rest := a.mc.arrived.eraseIdx k
        let c := clusterOf s t
        let sp := spaceNum a.w.space
        let g := a.mc.base + i
        if claimed (getCl s c) sp g then .next s
        else
          let s1 := updCl s c fun x => let y := granPut x sp g p; { y with bufPoison := aput false y.bufPoison (granKey sp g) bad }
          let landed := a.mc.landed + 1
          let s2 := updAccess s1 t id fun b => { b with mc := { b.mc with arrived := rest, landed := landed } }
          if landed = mcLen a then
            let s3 := match mcRing a with
              | some n => updCl s2 c fun x => let y := pubRing x n 1; setRing y n { getRing y n with claimed := (getRing y n).claimed - 1 }
              | none => s2
            .next (settle (finish s3 t a none a.ea))
          else .next (settle s2)
  | _ => .next s

end Sys2Proof.Machine
end

