-- ==== Sys2Proof/Machine/Records.lean ====
section
/-! DEFINITION. The record and stream family (R164 to R170): weights, headers, windows, joins, aggregates. -/
namespace Sys2Proof.Machine

/-! ## Weights and headers (R165, R166) -/

/-- R165: A's record with another weight, or with its own where lane 0 of B is invalid. -/
def reweigh (f : Fire) (k : Weight → Weight) (t : VTok) : VTok :=
  { t with key := f.a.key, wt := if f.b.valid.getLsbD 0 then k (f32ToW (lane f.b.pay 0).toNat) else wread f.a.wt }

/-- WGET (R165). -/
def execWget (w : NWord) (s : State) : Host.Outcome State Fault Refusal :=
  fireCalc .wget (fun x => { pay := splat 32 (wToF32 x.a.wt), fmt := 6 }) w s

/-- WSET (R165). -/
def execWset (w : NWord) (s : State) : Host.Outcome State Fault Refusal :=
  atSlot (.wset w) s (fireState (.node .wset w) w (fun f => { pay := f.a.pay, fmt := f.a.fmt }) (fun f _ t => reweigh f (fun b => b) t))

/-- WMUL (R165). -/
def execWmul (w : NWord) (s : State) : Host.Outcome State Fault Refusal :=
  atSlot (.wmul w) s (fireState (.node .wmul w) w (fun f => { pay := f.a.pay, fmt := f.a.fmt }) (fun f _ t => reweigh f (wmul f.a.wt) t))

/-- GAPT (R166). -/
def execGapt (w : NWord) (s : State) : Host.Outcome State Fault Refusal :=
  fireCalc .gapt (fun x =>
    let wt := wToF32 x.a.wt
    { pay := packElems 32 (if x.a.kind = kGap then [1, x.a.key.toNat, wt, x.a.fmt.toNat % 4] else [0, 0, wt, 0]), fmt := 11, valid := some 0x000F }) w s

/-- KEYG (R166). -/
def execKeyg (w : NWord) (s : State) : Host.Outcome State Fault Refusal :=
  fireCalc .keyg (fun x => { pay := splat 32 x.a.key.toNat, fmt := 1, valid := some 0xFFFF }) w s

/-- The 64-bit header of a token (R74). -/
def headerWord (t : VTok) : Word := t.valid ++ t.wt ++ t.key ++ t.kind ++ t.fmt ++ t.thr

/-- HDRG (R166). -/
def execHdrg (w : NWord) (s : State) : Host.Outcome State Fault Refusal :=
  fireCalc .hdrg (fun x => { pay := (headerWord x.a).setWidth 512, fmt := 11, valid := some 0x0003 }) w s

/-- The result of HDRS (R166): A's header, then the field that AUX selects. -/
def hdrsTok (w : NWord) (f : Fire) (t : VTok) : VTok :=
  let b := (lane f.b.pay 0).setWidth 16
  let t := { t with key := f.a.key, wt := wread f.a.wt }
  match w.aux.toNat % 4 with
  | 0 => { t with key := b }
  | 1 => { t with key := w.imm }
  | _ => t

/-- HDRS (R166). Under AUX 2 the field VALID comes from B and newly invalid lanes are zeroed. -/
def execHdrs (w : NWord) (s : State) : Host.Outcome State Fault Refusal :=
  atSlot (.hdrs w) s (fireState (.node .hdrs w) w
    (fun f => { pay := zeroInvalid f.a.valid f.a.pay, fmt := f.a.fmt,
                valid := if w.aux.toNat % 4 = 2 then some ((lane f.b.pay 0).setWidth 16) else none })
    (fun f _ t => hdrsTok w f t))

/-! ## Windows (R75, R167) -/

/-- A WEND token (R75). -/
def wendTok (count : Nat) (wt : Weight) (thr : BitVec 8) : VTok :=
  { valid := 0, wt := wt, key := BitVec.ofNat 16 (min count 65535), kind := kWend, fmt := BitVec.ofNat 4 (flag (decide (0 < count)) 0),
    thr := thr, pay := 0 }

/-- WIN's state: position, lost count and weight, window number (R167). -/
structure Win where
  pos : Nat := 0
  lc : Nat := 0
  lw : Weight := 0
  num : Nat := 0
  deriving DecidableEq, Repr

def winOf : NodeSt → Win
  | .win p c w n => ⟨p, c, w, n⟩
  | _ => {}

/-- R167: close() - the WEND, and the state of the next window. -/
def winClose (thr : BitVec 8) (x : Win) : Win × VTok := ({ num := x.num + 1 }, wendTok x.lc x.lw thr)

/-- R167: close() if the position has reached the window length. -/
def winFull (len : Nat) (thr : BitVec 8) (x : Win) : Win × List VTok :=
  if x.pos = len then let (y, t) := winClose thr x; (y, [t]) else (x, [])

/-- rne16(val(w) * p / c): the quotient in 2^-64ths of the smallest spacing, with what is left as the lowest bit (R167). -/
def wPart (w : Weight) (p c : Nat) : Weight :=
  let n := wUnits w * p * 2 ^ 64
  wround (2 * (n / c) + (if n % c = 0 then 0 else 1)) (-105)

/-- The exact difference of two weights, rounded (R167). -/
def wsubExact (a b : Weight) : Weight := wround (wUnits a - wUnits b) (-40)

/-- R167: the loop over a gap marker's count, over at most `fuel` pieces. -/
def winGap (len : Nat) (g : Gap) : Nat → Nat → Weight → Win → Win × List VTok
  | 0, _, _, x => (x, [])
  | fuel + 1, c, w, x =>
    if c = 0 then (x, [])
    else
      let p := min c (len - x.pos)
      let wp := if p = c then w else wPart w p c
      let piece := gapTok { g with count := p, wt := wp }
      let (y, e) := winFull len g.thr { x with pos := x.pos + p, lc := x.lc + p, lw := wadd x.lw wp }
      let (z, r) := winGap len g fuel (c - p) (wsubExact w wp) y
      (z, piece :: (e ++ r))

/-- What WIN emits for a token at A, and its state after (R167). -/
def winTake (len : Nat) (t : VTok) (x : Win) : Win × List VTok :=
  if t.kind = kGap then let g := gapOf t; winGap len g (g.count + 1) g.count g.wt x
  else if t.kind = kBarrier then
    if 0 < x.pos then let (y, e) := winClose t.thr x; (y, [e, t]) else (x, [t])
  else let (y, e) := winFull len t.thr { x with pos := x.pos + 1 }; (y, t :: e)

/-- Tokens emitted one after the other, the last of them in the latch (log 24). With O3 in OUT each of them sends a control token of its own: R8 says
one for a firing, and R167 and R169 let a firing emit several tokens (DESIGN CHOICE, log 87). -/
def emitAll (s : State) (sl : SlotId) (out : BitVec 4) (ts : List VTok) : State :=
  ts.foldl (fun s t => pushEms (setLatch s sl t) sl (emsOf out t)) s

/-- WIN (R167). -/
def execWin (w : NWord) (s : State) : Host.Outcome State Fault Refusal :=
  atSlot (.win w) s fun sl s =>
    let f := fireOf s sl (.node .win w)
    let (y, ts) := winTake w.imm.toNat f.a (winOf (getSlot (getTile s sl.tile) sl.slot.val).node)
    emitAll (setNode (beginFire s sl (namedOnce (.node .win w))) sl (.win y.pos y.lc y.lw y.num)) sl w.out ts

/-! ## JOIN (R168) -/

/-- A token taken by a side of a JOIN: the side after, and whether the record was lost to a full table. -/
def joinTake (t : VTok) (x : Side) : Side × Bool :=
  if t.kind = kGap then (x, false)
  else if t.kind = kWend then ({ x with closed := true, lc := x.lc + t.key.toNat, lw := wadd x.lw t.wt }, false)
  else if x.rows.length < 32 then ({ x with rows := x.rows ++ [{ tok := t }] }, false)
  else ({ x with lc := x.lc + 1, lw := wadd x.lw t.wt }, true)

/-- A match's record with its exception mask (R168, R69). -/
def joinMatch (w : NWord) (a b : VTok) : Nat × VTok :=
  let t : VTok := { valid := 0, wt := wmul a.wt b.wt, key := a.key, kind := kData, fmt := tyCode w.ty, thr := a.thr, pay := 0 }
  if w.ty = .f32 then
    let v := a.valid &&& b.valid
    let r := vFmul ⟨.f32, w, a, b, plainTok 0⟩
    (maskValid v r.mask, { t with valid := v, pay := zeroInvalid v r.pay })
  else
    let v := (a.valid &&& 0x00FF) ||| (b.valid <<< 8)
    let low := a.pay &&& (BitVec.allOnes 512 >>> 256)
    (0, { t with valid := v, pay := zeroInvalid v (low ||| (b.pay <<< 256)) })

/-- An unmatched record with its status word in lane 15 (R168). -/
def joinLone (side lost : Bool) (t : VTok) : VTok :=
  let keep := zeroInvalid (t.valid &&& 0x7FFF) t.pay
  { t with valid := t.valid ||| 0x8000, kind := kData, wt := wread t.wt,
           pay := keep ||| (BitVec.ofNat 512 (flag side 0 + flag lost 1) <<< 480) }

/-- What a JOIN emits when both sides have closed, under the closing WEND's thread, the records it holds for the next window, and how many it dropped. -/
def joinClose (w : NWord) (a b : Side) (thr : BitVec 8) : List (Nat × Fin 4 × Tok) × Side × Side × Nat :=
  let mode := w.aux.toNat % 4
  let pairs := a.rows.flatMap fun x => b.rows.filterMap fun y =>
    if x.tok.key = y.tok.key then some (joinMatch w x.tok y.tok) else none
  let ua := a.rows.filter fun x => !b.rows.any fun y => y.tok.key = x.tok.key
  let ub := b.rows.filter fun y => !a.rows.any fun x => x.tok.key = y.tok.key
  let lone (side : Bool) (other : Side) (l : List Row) : List (Nat × Fin 4 × Tok) :=
    (l.filter fun r => mode = 0 || (mode = 2 && r.held)).map fun r => (0, 1, .vec (joinLone side (r.lost || decide (0 < other.lc)) r.tok))
  let hold (other : Side) (l : List Row) : List Row :=
    (l.filter fun r => mode = 2 && !r.held).map fun r => { r with held := true, lost := decide (0 < other.lc) }
  let e := Tok.vec (wendTok (a.lc + b.lc) (wadd a.lw b.lw) thr)
  let ends : List (Nat × Fin 4 × Tok) := (if w.out.getLsbD 0 then [(0, 0, e)] else []) ++ (if w.out.getLsbD 1 then [(0, 1, e)] else [])
  (pairs.map (fun (m, t) => (m, 0, .vec t)) ++ lone false b ua ++ lone true a ub ++ ends,
   { rows := hold b ua }, { rows := hold a ub }, if mode = 1 then ua.length + ub.length else 0)

def joinSides : NodeSt → Side × Side
  | .join a b _ _ => (a, b)
  | _ => ({}, {})

/-- The number under which a tile counts the unmatched records that JOIN drops (R168; the spec gives the count no register). -/
def cntJoinDrop : Nat := 0x100

/-- JOIN taking the head of one side. -/
def joinSide (w : NWord) (side : Bool) (sl : SlotId) (s : State) : State :=
  let x := getTile s sl.tile
  match (if side then w.sb else w.sa) with
  | .queue q =>
    let t := seenHead x q.val
    let (a, b) := joinSides (getSlot x sl.slot.val).node
    let (y, lost) := joinTake t (if side then b else a)
    let (a, b) := if side then (a, y) else (y, b)
    let s1 := beginFire s sl [q.val]
    let s2 := if lost then inexact s1 sl.tile t.thr else s1
    if a.closed && b.closed then
      let (out, a', b', n) := joinClose w a b t.thr
      let s3 := if n = 0 then s2 else updTile s2 sl.tile fun z => { z with counts := aupd 0 z.counts cntJoinDrop (· + n) }
      setNode s3 sl (.join a' b' out (q.val * 2 ^ 60 + (getQ x q.val).taken))
    else setNode s2 sl (.join a b [] 0)
  | _ => s

/-- JOIN emitting one token: the window's end goes to every port of OUT together. -/
def joinEmit (sl : SlotId) (s : State) : State :=
  match (getSlot (getTile s sl.tile) sl.slot.val).node with
  | .join a b ((m, p, t) :: rest) wend =>
    let v := match t with | .vec v => v | _ => plainTok 0
    let last := decide (v.kind = kWend)
    let ems := if last then (p, t) :: rest.map fun (_, p, t) => (p, t) else [(p, t)]
    let s1 := setLatch (markIssue s sl) sl v
    setNode (pushArith s1 sl v.thr m (wend / 2 ^ 60, wend % 2 ^ 60) ems) sl (.join a b (if last then [] else rest) wend)
  | _ => s

/-- JOIN (R168). -/
def execJoin (w : NWord) (s : State) : Host.Outcome State Fault Refusal :=
  atSlot (.join w) s fun sl s =>
    let x := getTile s sl.tile
    match joinStep x (getSlot x sl.slot.val) w with
    | .emit => joinEmit sl s
    | .side b => joinSide w b sl s
    | .none => s

/-! ## AGG (R169) -/

/-- Lane `l` of record j: its weighted value, absent where the lane is invalid. -/
def aggTerm (w : NWord) (l : Nat) (t : VTok) : FoldElem :=
  if t.valid.getLsbD l then
    some (roundTo fmtF32 (fmulX (.fin false (wval t.wt).1 (wval t.wt).2) (fval fmtF32 (elem 32 t.pay l))) w.rm w.ov)
  else none

/-- Lane `l` of record j as it is, NaN made canonical. -/
def aggValue (l : Nat) (t : VTok) : FoldElem :=
  if t.valid.getLsbD l then
    let v := elem 32 t.pay l
    some ⟨if isNan fmtF32 v then fmtF32.nan else v, false⟩
  else none

/-- The weights' sum (R169). -/
def aggCnt (w : NWord) (rows : List VTok) : Rounded :=
  (foldTree (foldStep .f32 0 w.rm w.ov) 17 (rows.map fun t => some ⟨wToF32 t.wt, false⟩)).getD ⟨0, false⟩

/-- The quotient of two F32 values, rounded once. -/
def fdiv32 (rm : Rm) (ov : Ov) (a b : Nat) : Rounded :=
  match fval fmtF32 a, fval fmtF32 b with
  | .fin na ma ea, .fin nb mb eb =>
    if mb = 0 then roundTo fmtF32 .nan rm ov
    else
      let n := ma * 2 ^ 128
      if ma = 0 then ⟨fEnc fmtF32 (na != nb) 0, false⟩
      else roundFin fmtF32 rm ov (na != nb) (n / mb) (ea - eb - 128) (n % mb ≠ 0)
  | .fin na _ _, .inf nb => ⟨fEnc fmtF32 (na != nb) 0, false⟩
  | .inf na, .fin nb _ _ => roundTo fmtF32 (.inf (na != nb)) rm ov
  | _, _ => roundTo fmtF32 .nan rm ov

/-- One lane of the result. -/
def aggLane (w : NWord) (rows : List VTok) (cnt : Rounded) (l : Nat) : FoldElem :=
  match w.aux.toNat % 4 with
  | 0 => foldTree (foldStep .f32 0 w.rm w.ov) 17 (rows.map (aggTerm w l))
  | 1 =>
    if fMag fmtF32 cnt.bits = 0 then none
    else (foldTree (foldStep .f32 0 w.rm w.ov) 17 (rows.map (aggTerm w l))).map fun x =>
      let r := fdiv32 w.rm w.ov x.bits cnt.bits
      ⟨r.bits, r.excess || x.excess⟩
  | 2 => foldTree (foldStep .f32 1 .rne .sat) 17 (rows.map (aggValue l))
  | _ => foldTree (foldStep .f32 2 .rne .sat) 17 (rows.map (aggValue l))

/-- The result record of a window and its exception mask (R169). -/
def aggResult (w : NWord) (rows : List VTok) (num : Nat) (e : VTok) : Nat × VTok :=
  let cnt := aggCnt w rows
  let ls := (List.range 14).map (aggLane w rows cnt)
  let trap := w.ov = .trap
  let mask := ls.zipIdx.foldl (fun m (r, l) => match r with | some r => if trap ∧ r.excess then m + 2 ^ (4 * l) else m | none => m)
    (if trap ∧ cnt.excess then 2 ^ 56 else 0)
  let valid := validBits fun l => 14 ≤ l || ((ls.getD l none).isSome)
  (mask, { valid := valid, wt := f32ToW cnt.bits, key := BitVec.ofNat 16 num, kind := kData, fmt := 6, thr := e.thr,
           pay := packElems 32 (ls.map (fun r => (r.getD ⟨0, false⟩).bits) ++ [cnt.bits, wToF32 e.wt]) })

def aggOf : NodeSt → List VTok × Nat
  | .agg rows n => (rows, n)
  | _ => ([], 0)

/-- AGG (R169). A record beyond the window's 65,535 is not kept. -/
def execAgg (w : NWord) (s : State) : Host.Outcome State Fault Refusal :=
  atSlot (.agg w) s fun sl s =>
    let x := getTile s sl.tile
    let f := fireOf s sl (.node .agg w)
    let (rows, num) := aggOf (getSlot x sl.slot.val).node
    let s1 := beginFire s sl (namedOnce (.node .agg w))
    if f.a.kind = kGap then s1
    else if f.a.kind = kWend then
      let (mask, t) := aggResult w rows num f.a
      let s2 := pushArith (setNode s1 sl (.agg [] (num + 1))) sl f.thr mask (arithTok x (.node .agg w)) (emsOf w.out t)
      emitAll s2 sl w.out [f.a]
    else setNode s1 sl (.agg (if rows.length < 65535 then rows ++ [f.a] else rows) num)

end Sys2Proof.Machine
end

