-- ==== Sys2Proof/Machine/Routers.lean ====
section
/-! DEFINITION. Router operators (R43, R158 to R162). An operator's step takes heads of its queues and leaves a token at its outputs; LOCAL_SEND
puts it on a link. While a token waits there the operator takes no step (R142). -/
namespace Sys2Proof.Machine

def getOp (x : Tile) (g : Fin 2) : Op := if g = 0 then x.g0 else x.g1
def setOp (x : Tile) (g : Fin 2) (y : Op) : Tile := if g = 0 then { x with g0 := y } else { x with g1 := y }

/-- The instruction of a router operator in the active plane. -/
def opInstr (x : Tile) (g : Fin 2) : Option Instr :=
  match x.active with
  | none => none
  | some p => match decodeRouter (routerWord x p.val g.val) with
    | .ok r => r
    | .error _ => none

/-- The head of an operator's queue, taken. -/
def popO (now : Nat) (q : Queue) : Queue := popQ now opQueue q

/-- The vector token at the head of an operator's queue. -/
def headV (q : Queue) : Option VTok := match headOf q with | some (.vec t) => some t | _ => none
/-- The control token at the head of CIN. -/
def headC (q : Queue) : Option Bool := match headOf q with | some (.ctl b) => some b | _ => none

/-- R159: STEER. -/
def stepSteer (now : Nat) (y : Op) : Option Op :=
  match headV y.ina with
  | none => none
  | some r =>
    if countsAsData r then
      match headC y.cin with
      | none => none
      | some true => some { y with ina := popO now y.ina, cin := popO now y.cin, outT := some r }
      | some false => some { y with ina := popO now y.ina, cin := popO now y.cin, outF := some r }
    else some { y with ina := popO now y.ina, outT := some r, outF := some r }

/-- R161: CARRY. -/
def stepCarry (now : Nat) (y : Op) : Option Op :=
  if y.loop then
    match headV y.inb, headC y.cin with
    | some r, c =>
      if countsAsData r then
        match c with
        | some true => some { y with inb := popO now y.inb, cin := popO now y.cin, outT := some r }
        | some false => some { y with cin := popO now y.cin, loop := false }
        | none => none
      else some { y with inb := popO now y.inb, outT := some r }
    | none, some false => some { y with cin := popO now y.cin, loop := false }
    | none, _ => none
  else
    match headV y.ina with
    | none => none
    | some r => some { y with ina := popO now y.ina, outT := some r, loop := countsAsData r }

/-- R162: INV. -/
def stepInv (now : Nat) (y : Op) : Option Op :=
  match y.held with
  | some v =>
    match headC y.cin with
    | some true => some { y with cin := popO now y.cin, outT := some v }
    | some false => some { y with cin := popO now y.cin, held := none }
    | none => none
  | none =>
    match headV y.ina with
    | none => none
    | some r => some { y with ina := popO now y.ina, outT := some r, held := if countsAsData r then some r else none }

/-- R160, rule 1: both heads are tokens that are not records, with equal headers. -/
def pairedFence (y : Op) : Option VTok :=
  match headV y.ina, headV y.inb with
  | some a, some b => if !countsAsData a && !countsAsData b && headerWord a = headerWord b then some a else none
  | _, _ => none

/-- R160: MERGE. -/
def stepMerge (now : Nat) (y : Op) : Option Op :=
  match pairedFence y with
  | some a => some { y with ina := popO now y.ina, inb := popO now y.inb, outT := some a }
  | none =>
    match headC y.cin with
    | none => none
    | some true =>
      if 0 < y.owedA then some { y with cin := popO now y.cin, owedA := y.owedA - 1 }
      else match headV y.ina with
        | some r =>
          if countsAsData r then some { y with ina := popO now y.ina, cin := popO now y.cin, outT := some r }
          else if r.kind = kGap then
            some { y with ina := popO now y.ina, cin := popO now y.cin, outT := some r, owedA := r.key.toNat - 1 }
          else none
        | none => none
    | some false =>
      if 0 < y.owedB then some { y with cin := popO now y.cin, owedB := y.owedB - 1 }
      else match headV y.inb with
        | some r =>
          if countsAsData r then some { y with inb := popO now y.inb, cin := popO now y.cin, outT := some r }
          else if r.kind = kGap then
            some { y with inb := popO now y.inb, cin := popO now y.cin, outT := some r, owedB := r.key.toNat - 1 }
          else none
        | none => none

/-- The step of an operator, by its instruction. -/
def opStepOf (now : Nat) (y : Op) : Instr → Option Op
  | .steer _ _ _ _ => stepSteer now y
  | .carry _ _ _ _ => stepCarry now y
  | .inv _ _ _ => stepInv now y
  | .merge _ _ _ _ => stepMerge now y
  | _ => none

/-- Key under which a tile keeps the cycle of an operator's last step, beside those of its links. -/
def opUsed (g : Fin 2) : Nat := 12 + g.val

/-- What an operator's next step makes of it: none while a token waits at an output, once it has stepped in the cycle, when a queue of it has
handled an arrival in the cycle (R145), when its tile is halted, or when a head is lacking. -/
def opNext (s : State) (t : TileId) (g : Fin 2) : Option Op :=
  let x := getTile s t
  let y := getOp x g
  if y.outT.isSome || y.outF.isSome || afind x.used (opUsed g) = some s.clock || tileHalted s t x ||
      [8, 9, 10].any (fun k => arrived s x (k + 3 * g.val)) then none
  else match opInstr x g with
    | none => none
    | some i => opStepOf s.clock y i

/-- An instruction of a router operator, at its operator's turn. -/
def atRouter (i : Instr) (s : State) : Host.Outcome State Fault Refusal :=
  match s.here with
  | .router t g =>
    if opInstr (getTile s t) g = some i then
      match opNext s t g with
      | some y => .next (updTile s t fun x => setOp { x with used := aset x.used (opUsed g) s.clock } g y)
      | none => .next s
    else .next s
  | _ => .fault .wrongPlace

/-- STEER (R159). -/
def execSteer (a : RIn) (c : RCtl) (t f : ROut) (s : State) : Host.Outcome State Fault Refusal := atRouter (.steer a c t f) s
/-- CARRY (R161). -/
def execCarry (a b : RIn) (c : RCtl) (t : ROut) (s : State) : Host.Outcome State Fault Refusal := atRouter (.carry a b c t) s
/-- INV (R162). -/
def execInv (a : RIn) (c : RCtl) (t : ROut) (s : State) : Host.Outcome State Fault Refusal := atRouter (.inv a c t) s
/-- MERGE (R160). -/
def execMerge (a b : RIn) (c : RCtl) (t : ROut) (s : State) : Host.Outcome State Fault Refusal := atRouter (.merge a b c t) s

end Sys2Proof.Machine
end

