-- ==== Sys2Proof/Machine/Observe.lean ====
section
/-! DEFINITION. Observation (R351 to R357): writes of the Belvedere, interval records, trace units, breakpoint hits, cuts. -/
namespace Sys2Proof.Machine

/-- A write of the device at a virtual address through a core's range table under a context; none where it faults or is refused. The bytes
lie in one granule. -/
def devWrite (s : State) (c : ClusterId) (ctx : BitVec 12) (va : Word) (bs : List Byte) : Option State :=
  match translate s c.die (coreTable (getCl s c)) ctx va .w with
  | .ok pa _ map => some (markAcc (memWrite (touch s (some (c.die, pclOfLcl s c)) pa ctx true) pa bs) c.die ctx map)
  | _ => none

/-- As devWrite, for a write that sets its granule full (R239, R351). -/
def devWriteFull (s : State) (c : ClusterId) (ctx : BitVec 12) (va : Word) (bs : List Byte) : Option State :=
  match translate s c.die (coreTable (getCl s c)) ctx va .w with
  | .ok pa _ map =>
    some (settle (setFull (markAcc (memWrite (touch s (some (c.die, pclOfLcl s c)) pa ctx true) pa bs) c.die ctx map) pa true))
  | _ => none

/-! ## Edge ports (R415) -/

/-- Key of an edge port of a block of a context. -/
def edgeKey (ctx : BitVec 12) (pc : Word) (port : Nat) : Nat := (ctx.toNat * 2 ^ 64 + pc.toNat) * 16 + port

/-- The link of an edge port of the active block: its tile, and the direction that faces out of the region. -/
def edgeOf (s : State) (l : LaunchId) (x : Launch) (port : Nat) : Option (TileId × Dir) :=
  match x.corner, x.active, afind s.edges (edgeKey x.lr.ctx (activePc x) port) with
  | some (r, c), some _, some (i, j, d) => some (⟨l.die, fin64 (r + i), fin64 (c + j)⟩, d)
  | _, _, _ => none

/-- The tile at the far end of a link, when it belongs to the same region. -/
def insideNext (s : State) (t : TileId) (d : Dir) : Option TileId :=
  match stepDir t d with
  | none => none
  | some u => if (getTile s t).owner.isSome && (getTile s u).owner = (getTile s t).owner then some u else none

/-- A token put on a link of a tile, arriving there now, or some cycles later. -/
def pushLink (s : State) (t : TileId) (n : Net) (d : Dir) (tok : Tok) (later : Nat := 0) : State :=
  updTile s t fun x => { x with links := aupd [] x.links (linkKey n d) (· ++ [(tok, s.clock + later)]) }

/-- A token sent from a tile to its neighbour `u`: a seam between clusters adds one cycle (R22, R137). -/
def hopLink (s : State) (t u : TileId) (n : Net) (d : Dir) (tok : Tok) : State :=
  pushLink s u n (opposite d) tok (if pclOf t = pclOf u then 0 else 1)

/-! ## Cuts (R354 to R357) -/

/-- A MARK token (R75). -/
def markTok (num : BitVec 16) : Tok :=
  .vec { valid := 0, wt := wOne, key := num, kind := kMark, fmt := 0, thr := 0, pay := 0 }

/-- R355: the ingress tiles of a region: those of edge in-ports and memory-port tiles; row0/col0 when there are none. -/
def ingressTiles (s : State) (l : LaunchId) (x : Launch) : List TileId :=
  let ins := (List.range 8).filterMap fun p => (edgeOf s l x p).map (·.1)
  let mems := (regionTiles l x).filter fun t => match x.active with
    | some p => tileMode (getTile s t) p.val = 2
    | none => false
  match ins ++ mems with
  | [] => (regionTiles l x).take 1
  | ts => ts

/-- A cut of a region begins; each in-port injects MARK ahead of its next token. -/
def startCut (s : State) (l : LaunchId) (x : Launch) (num : BitVec 16) (stop : Bool) (area : Word) (limit source : Nat) : State :=
  let s1 := setLaunch s l { x with cut := some { num := num, stop := stop, area := area, limit := limit, source := source, start := s.clock } }
  let s2 := updTiles s1 (regionTiles l x) fun y => { y with cut := some { num := num.toNat } }
  (List.range 8).foldl (fun s p => match edgeOf s l x p with
    | some (t, d) => pushLink s t .vector d (markTok num)
    | none => s) s2

/-- Whether the next token due on a link of a tile is a marker. -/
def markDue (s : State) (t : TileId) (n : Net) (d : Dir) : Bool :=
  match aget [] (getTile s t).links (linkKey n d) with
  | (.vec v, at_) :: _ => v.kind = kMark && decide (at_ < s.clock)
  | _ => false

/-- Whether a tile of a cut is to record now. -/
def recordDue (s : State) (t : TileId) : Bool :=
  match (getTile s t).cut, ownerOf s t with
  | some c, some l =>
    !c.recorded && (match findLaunch s l with
      | some x => (ingressTiles s l x).contains t || nets.any fun n => dirs.any fun d => markDue s t n d
      | none => false)
  | _, _ => false

/-- CUT_RECORD (R355): a tile records what it holds, and sends a marker on each outgoing link toward a tile of the region. -/
def execCutRecord (s : State) : Host.Outcome State Fault Refusal :=
  match s.here with
  | .tile t =>
    if recordDue s t then
      match ownerOf s t with
      | none => .next s
      | some l =>
        let x := getTile s t
        let s1 := updLaunch s l fun y => { y with cut := y.cut.map fun c => { c with snaps := c.snaps ++ [(tileKey t, s.clock, x)] } }
        let s2 := updTile s1 t fun y => { y with cut := y.cut.map fun c => { c with recorded := true } }
        let num := match x.cut with | some c => BitVec.ofNat 16 c.num | none => 0
        .next ((nets.flatMap fun n => dirs.map fun d => (n, d)).foldl (fun s (n, d) => match insideNext s t d with
          | some u => hopLink s t u n d (markTok num)
          | none => s) s2)
    else .next s
  | _ => .next s

/-- A marker taken by a tile that has recorded. -/
def takeMark (s : State) (t : TileId) (n : Net) (d : Dir) : State :=
  updTile s t fun x => { x with cut := x.cut.map fun c => { c with marked := linkKey n d :: c.marked } }

/-- A token that arrives after its tile recorded and before its link's marker is channel state (R355). -/
def channel (s : State) (t : TileId) (n : Net) (d : Dir) (tok : Tok) : State :=
  match (getTile s t).cut, ownerOf s t with
  | some c, some l =>
    if c.recorded && !c.marked.contains (linkKey n d) then
      updLaunch s l fun y => { y with cut := y.cut.map fun k => { k with chan := k.chan ++ [(tileKey t, linkKey n d, tok)] } }
    else s
  | _, _ => s

/-- R355: a tile's part of a cut is complete. -/
def cutTileDone (s : State) (t : TileId) : Bool :=
  match (getTile s t).cut with
  | some c => c.recorded && nets.all fun n => dirs.all fun d => (insideNext s t d).isNone || c.marked.contains (linkKey n d)
  | none => true

/-- Bytes of a token as a dump or an image holds it: payload, header, and the place of its tag, whose layout the spec does not give. -/
def tokBytes (tok : Tok) (tag : Nat) : List Byte :=
  match tok with
  | .vec t => payloadBytes t.pay ++ bytesOf 8 (headerWord t).toNat ++ (List.range 56).map (Config.imageByte (tok, tag) 2)
  | _ => (List.range 128).map (Config.imageByte (tok, tag) 2)

/-- The tokens of a tile's queues, in queue order, with their queue codes (R157). Pending and head gaps are state of the slots (R336). -/
def queuedToks (x : Tile) : List (Tok × Nat) :=
  let of (n : Nat) (q : Queue) : List (Tok × Nat) :=
    q.items.flatMap (fun e => (e.tok, n) :: (match e.second with | some t => [(.vec t, n)] | none => [])) ++ q.arr.map (·, n)
  x.queues.flatMap (fun (k, q) => of k q) ++ of 8 x.g0.ina ++ of 9 x.g0.inb ++ of 10 x.g0.cin ++ of 11 x.g1.ina ++ of 12 x.g1.inb ++ of 13 x.g1.cin

/-- The enabled slots and the router operators of a tile's active plane, by number. -/
def activeSlots (x : Tile) : List Nat := (List.range 8).filter fun k => (slotInstr x k).isSome
def activeOps (x : Tile) : List (Fin 2) := [0, 1].filter fun g => (opInstr x g).isSome

/-- The policy state of a tile's queues that its slots' sections hold: pending and head gaps, records of the window, LFSR (R336). -/
def queueState (x : Tile) : List (Nat × Gap × Gap × BitVec 16) := x.queues.map fun (k, q) => (k, q.pend, q.head, q.lfsr)

/-- Bytes of the state of a tile's slots and operators, whose layout the spec does not give (R336: 64 bytes to 4 KiB each). -/
def stateBytes (x : Tile) : List Byte :=
  let sec {α : Type} (v : α) : List Byte := (List.range (64 * (1 + Config.imageUnits v % 64))).map (Config.imageByte v 1)
  (activeSlots x).flatMap (fun k => sec (getSlot x k, k, queueState x, x.outs, x.port.queue.filter fun a => a.slot.val = k)) ++
  (activeOps x).flatMap fun g => sec (getOp x g, g)

/-- A tile's part of a dump (R355): its header, its state, its tokens, its channel state. The gaps of a tile that has no enabled slot stand with its
header (log 17). -/
def tileDump (c : Cut) (k at_ : Nat) (x : Tile) : List Byte :=
  let toks := queuedToks x ++ (c.chan.filter fun e => e.1 = k).map fun e => (e.2.2, 16 + e.2.1)
  let gaps := if (activeSlots x).isEmpty then queueState x else []
  (List.range 64).map (Config.imageByte (k / 64 % 64, k % 64, toks.length, at_ - c.start, gaps) 0) ++ stateBytes x ++
    toks.flatMap fun (t, tag) => tokBytes t tag

/-- Insertion in row-major order of tiles. -/
def insertSnap (p : Nat × Nat × Tile) : List (Nat × Nat × Tile) → List (Nat × Nat × Tile)
  | [] => [p]
  | q :: l => if p.1 ≤ q.1 then p :: q :: l else q :: insertSnap p l

/-- Bytes written granule by granule at a virtual address, and how many; those of a granule whose translation fails are not written. -/
def dumpWrite (c : ClusterId) (ctx : BitVec 12) : Nat → Word → List Byte → Nat → State → State × Nat
  | 0, _, _, done, s => (s, done)
  | n + 1, va, bs, done, s =>
    if bs.isEmpty then (s, done)
    else match devWrite s c ctx va (bs.take 64) with
      | some s' => dumpWrite c ctx n (va + 64) (bs.drop 64) (done + (bs.take 64).length) s'
      | none => dumpWrite c ctx n (va + 64) (bs.drop 64) done s

/-- CUT_DONE (R355, R357): every tile has every marker; the dump is written up to its limit, the record is written, and a STOP cut
leaves the region halted. -/
def execCutDone (s : State) : Host.Outcome State Fault Refusal :=
  match s.here with
  | .launch l =>
    match findLaunch s l with
    | none => .next s
    | some x => match x.cut with
      | none => .next s
      | some c =>
        let ts := regionTiles l x
        if ts.all (cutTileDone s) then
          let all := (c.snaps.foldr insertSnap []).flatMap fun (k, at_, y) => tileDump c k at_ y
          let lim := c.limit * 65536
          let bs := all.take lim
          let home := homeOf s l x
          let (s1, written) := dumpWrite home x.lr.ctx (bs.length / 64 + 1) c.area bs 0 s
          let s2 := updTiles s1 ts fun y => { y with cut := none }
          let s3 := updLaunch s2 l fun y => { y with cut := none, halted := y.halted || (c.stop && y.drainAt.isNone) }
          .next (recL s3 l { kind := 0x29, p0 := word written,
                             p1 := word (c.num.toNat + flag c.stop 16 + flag (decide (lim < all.length)) 17 + c.source * 2 ^ 18) })
        else .next s
  | _ => .next s

/-! ## Trace units and breakpoints (R352, R353) -/

/-- A link id (R352). -/
def linkId (t : TileId) (n : Net) (d : Dir) : Nat := t.row.val * 1024 + t.col.val * 16 + netNum n * 4 + dirNum d

/-- Bytes 0 to 7 of a trace entry. -/
def tokHead : Tok → Word
  | .vec t => headerWord t
  | .sca t => t.thr.setWidth 64
  | .ctl b => word (flag b 0)

/-- Whether a Belvedere resource of a cluster follows elements of a context (R330, R347, R352): its holder's, or all for the hypervisor. -/
def leaseHears (x : Cluster) (k : Nat) (ctx : BitVec 12) : Bool :=
  let lease := aget ({} : Lease) x.leases k
  !lease.held || lease.hv || lease.holder = ctx

/-- The context under which a resource's writes translate. -/
def leaseCtx (x : Cluster) (k : Nat) : BitVec 12 :=
  let lease := aget ({} : Lease) x.leases k
  if lease.held && !lease.hv then lease.holder else 0

/-- R352: a forwarded token of ordinal `n` on a unit's link. -/
def traceAt (s : State) (c : ClusterId) (u : Nat) (t : TileId) (net : Net) (d : Dir) (tok : Tok) (n : Nat) (ctx : BitVec 12) : State :=
  let x := getCl s c
  let y := aget ({} : TraceUnit) x.traces u
  if wbit y.cfg 63 && fld y.cfg 47 32 = linkId t net d && leaseHears x (4 + u) ctx && n % 2 ^ fld y.cfg 11 8 = 0 then
    let put (s : State) (z : TraceUnit) : State := updCl s c fun x => { x with traces := aset x.traces u z }
    let lost := put s { y with dropped := y.dropped + 1 }
    match y.last with
    | some k => if s.clock < k + 4 then lost else go x y put lost
    | none => go x y put lost
  else s
where
  go (x : Cluster) (y : TraceUnit) (put : State → TraceUnit → State) (lost : State) : State :=
    let va := y.base + word (16 * (y.written % 2 ^ fld y.cfg 3 0))
    let bs := bytesOf 8 (tokHead tok).toNat ++ bytesOf 4 n ++ bytesOf 2 (linkId t net d) ++ bytesOf 2 s.clock
    match devWrite s c (leaseCtx x (4 + u)) va bs with
    | some s1 => put s1 { y with written := y.written + 1, last := some s.clock }
    | none => lost

/-- R353: the token of the armed ordinal on the armed link. A hit in a region in which a cut is in progress only sets HIT. -/
def breakAt (s : State) (c : ClusterId) (u : Nat) (t : TileId) (net : Net) (d : Dir) (n : Nat) (ctx : BitVec 12) : State :=
  let x := getCl s c
  let y := aget ({} : Bp) x.bps u
  if wbit y.spec 63 && fld y.spec 47 32 = linkId t net d && fld y.spec 31 0 = n && leaseHears x (6 + u) ctx then
    let set (b : Bp) : State := updCl s c fun x => { x with bps := aset x.bps u b }
    let hit := set { y with hit := true, spec := y.spec &&& word (2 ^ 63 - 1) }
    match ownerOf s t with
    | none => hit
    | some l => match findLaunch s l with
      | none => hit
      | some z =>
        if z.cut.isSome then set { y with hit := true }
        else if !wbit y.spec 62 then hit
        else startCut hit l z (BitVec.ofNat 16 (0xFFF0 + u)) true y.area y.limit (1 + u)
  else s

/-- A token forwarded on an outgoing link: its ordinal is counted, trace units and breakpoint units of the die see it. -/
def forwarded (s : State) (t : TileId) (net : Net) (d : Dir) (tok : Tok) : State :=
  let n := aget 0 (getTile s t).ord (linkKey net d)
  let ctx := tileCtx s t
  let s1 := updTile s t fun x => { x with ord := aset x.ord (linkKey net d) (n + 1) }
  let hear (s : State) (k : Nat) : State :=
    let c : ClusterId := ⟨Fin.ofNat 4 (k / 64), fin64 k⟩
    if c.die ≠ t.die then s
    else
      let x := getCl s c
      let s2 := x.traces.foldl (fun s (u, _) => traceAt s c u t net d tok n ctx) s
      x.bps.foldl (fun s (u, _) => breakAt s c u t net d n ctx) s2
  (s1.clusters.map (·.1)).foldl hear s1

/-! ## Interval records (R351) -/

/-- The interval record of a phase that ends: at the next plane switch, or at the end of its launch (R19, R351). -/
def intervalRec (s : State) (l : LaunchId) (x : Launch) : State :=
  let c := homeOf s l x
  let y := getCl s c
  if x.active.isSome && wbit y.ivbase 0 && fld y.ivcfg 11 0 = x.lr.ctx.toNat then
    let plane := match x.active with | some p => p.val | none => 0
    let ops := (regionTiles l x).foldl (fun n t => n + (activeOps (getTile s t)).length) 0
    let elems := (regionTiles l x).length + ops
    let bs := bytesOf 8 (x.lr.ctx.toNat + plane * 2 ^ 14 + x.phases % 2 ^ 16 * 2 ^ 16 + l.handle * 2 ^ 32) ++
      bytesOf 8 (elems + min x.cycs (2 ^ 32 - 1) * 2 ^ 32) ++
      (List.range 12).flatMap fun k => bytesOf 4 (min (aget 0 x.classes k) (2 ^ 32 - 1))
    let va := word (fld y.ivbase 63 12 * 4096 + 64 * (y.ivWritten % 2 ^ fld y.ivcfg 15 12))
    match devWriteFull s c 0 va bs with
    | some s1 => updCl s1 c fun z => { z with ivWritten := y.ivWritten + 1 }
    | none => updCl s c fun z => { z with ivDropped := y.ivDropped + 1 }
  else s

end Sys2Proof.Machine
end

