-- ==== Sys2Proof/Machine/Fabric.lean ====
section
/-! DEFINITION. The three networks (R137 to R143, R326) and the moves around a PE: arrival at queues, packet headers, lone tokens, result buffers,
the edge gate, the quiescence detector. -/
namespace Sys2Proof.Machine

/-! ## Where a token goes (R43, R138 to R142) -/

/-- The destinations of a source: outgoing links, an input queue, queues of router operators (by queue code). -/
structure Dests where
  links : List Dir := []
  queue : Option Nat := none
  ops : List Nat := []
  deriving DecidableEq, Repr

/-- Data inputs of the tile's operators with their queue codes (R157). -/
def opInputs (x : Tile) : List (Nat × RIn) :=
  ([0, 1] : List (Fin 2)).flatMap fun g => match opInstr x g with
    | some (.steer a _ _ _) | some (.inv a _ _) => [(8 + 3 * g.val, a)]
    | some (.carry a b _ _) | some (.merge a b _ _) => [(8 + 3 * g.val, a), (9 + 3 * g.val, b)]
    | _ => []

/-- Control inputs of the tile's operators with their queue codes. -/
def opCtls (x : Tile) : List (Nat × RCtl) :=
  ([0, 1] : List (Fin 2)).flatMap fun g => match opInstr x g with
    | some (.steer _ c _ _) | some (.inv _ c _) | some (.carry _ _ c _) | some (.merge _ _ c _) => [(10 + 3 * g.val, c)]
    | _ => []

/-- The output code of an operator (R43). -/
def opOut (x : Tile) (g : Fin 2) (t : Bool) : ROut :=
  match opInstr x g, t with
  | some (.steer _ _ u _), true | some (.carry _ _ _ u), true | some (.inv _ _ u), true | some (.merge _ _ _ u), true => u
  | some (.steer _ _ _ u), false => u
  | _, _ => .none

/-- Operators whose input names a source. -/
def opsNaming (x : Tile) (p : RIn → Bool) : List Nat := ((opInputs x).filter fun e => p e.2).map (·.1)
def ctlsNaming (x : Tile) (p : RCtl → Bool) : List Nat := ((opCtls x).filter fun e => p e.2).map (·.1)

/-- Links of four forward bits, N first. -/
def fwdLinks (f : Nat) : List Dir := dirs.filter fun d => f.testBit (dirNum d)

/-- A source field of the vector and of the scalar switch box. -/
def vField (x : Tile) (p i : Nat) : Nat := vsb x p / 2 ^ (7 * i) % 128
def sField (x : Tile) (p i : Nat) : Nat := ssb x p / 2 ^ (6 * i) % 64
/-- The source code that a destination of the control switch box selects: links N to W, then the local one. -/
def cField (x : Tile) (p i : Nat) : Nat := csb x p / 2 ^ (3 * i) % 8

def vDests (f : Nat) (ops : List Nat) : Dests := ⟨fwdLinks (f / 8), if f % 8 = 0 then none else some (f % 8 - 1), ops⟩
def sDests (f : Nat) : Dests := ⟨fwdLinks (f / 4), if f % 4 = 0 then none else some (5 + f % 4), []⟩
def cDests (x : Tile) (p code : Nat) (ops : List Nat) : Dests :=
  ⟨dirs.filter fun d => cField x p (dirNum d) = code, if cField x p 4 = code then some (6 + csb x p / 2 ^ 15 % 2) else none, ops⟩

/-- Destinations of a token that arrived on a link. -/
def linkDests (x : Tile) (n : Net) (d : Dir) : Dests :=
  match x.active with
  | none => {}
  | some p => match n with
    | .vector => vDests (vField x p.val (dirNum d)) (opsNaming x fun i => i = .link d)
    | .scalar => sDests (sField x p.val (dirNum d))
    | .control => cDests x p.val (dirNum d + 1) (ctlsNaming x fun c => c = .link d)

/-- Destinations of a local source. -/
def localDests (x : Tile) (src : LocalSrc) : Dests :=
  match x.active with
  | none => {}
  | some p => match src with
    | .pe 0 => vDests (vField x p.val 4) (opsNaming x fun i => i = .o0)
    | .pe 1 => vDests (vField x p.val 5) (opsNaming x fun i => i = .o1)
    | .pe 2 => sDests (sField x p.val 4)
    | .pe _ => cDests x p.val 5 (ctlsNaming x fun c => c = .o3)
    | .op g t =>
      let other := (opInputs x).filter fun e => decide (e.1 / 11 ≠ g.val) && decide (e.2 = if t then .otherT else .otherF)
      let lq := vsb x p.val / 2 ^ (42 + 3 * g.val) % 8
      match opOut x g t with
      | .link d => ⟨[d], none, other.map (·.1)⟩
      | .pe => ⟨[], if lq = 0 then none else some (lq - 1), other.map (·.1)⟩
      | .none => ⟨[], none, other.map (·.1)⟩

/-! ## Queues by code (R157) -/

def queueAt (x : Tile) (k : Nat) : Queue :=
  match k with
  | 8 => x.g0.ina | 9 => x.g0.inb | 10 => x.g0.cin | 11 => x.g1.ina | 12 => x.g1.inb | 13 => x.g1.cin
  | k => getQ x k
def setQueueAt (x : Tile) (k : Nat) (q : Queue) : Tile :=
  match k with
  | 8 => { x with g0 := { x.g0 with ina := q } }
  | 9 => { x with g0 := { x.g0 with inb := q } }
  | 10 => { x with g0 := { x.g0 with cin := q } }
  | 11 => { x with g1 := { x.g1 with ina := q } }
  | 12 => { x with g1 := { x.g1 with inb := q } }
  | 13 => { x with g1 := { x.g1 with cin := q } }
  | k => setQ x k q

/-- A token delivered at a tile: it arrives at its queues. A control token enters I6 or I7 as a scalar token (R140). -/
def deliver (s : State) (t : TileId) (dst : Dests) (tok : Tok) : State :=
  let into (k : Nat) (tok : Tok) (s : State) : State :=
    updTile s t fun x => let q := queueAt x k; setQueueAt x k { q with arr := q.arr ++ [tok] }
  let s1 := match dst.queue with
    | some k => into k (match tok with | .ctl b => .sca ⟨word (flag b 0), 0⟩ | tok => tok) s
    | none => s
  dst.ops.foldl (fun s k => into k tok s) s1

/-! ## Guards (R325 to R327) -/

/-- The valid partition that holds a tile, as the guards know the rectangles. -/
def guardPart (x : Die) (t : TileId) : Option Nat :=
  (List.range 16).find? fun p =>
    let w := aget 0 x.guards p
    wbit w 63 && decide (fld w 23 18 ≤ t.row.val ∧ t.row.val ≤ fld w 23 18 + fld w 11 6 ∧
      fld w 17 12 ≤ t.col.val ∧ t.col.val ≤ fld w 17 12 + fld w 5 0)

/-- The edge port whose link a tile's outgoing vector link is. -/
def portAtLink (s : State) (t : TileId) (d : Dir) : Option (LaunchId × Nat) :=
  match ownerOf s t with
  | none => none
  | some l => match findLaunch s l with
    | none => none
    | some x => ((List.range 16).find? fun p => edgeOf s l x p = some (t, d)).map fun p => (l, p)

/-- The guard of an outgoing link (R325, R326): 0 a partition edge, 1 a region edge, none where the link is open. An out-port's link is free of
region-edge guards alone: at the edge of a valid partition, which the die's edge may be, it is guarded (log 37). -/
def guardOf (s : State) (t : TileId) (n : Net) (d : Dir) : Option Nat :=
  let part (u : TileId) := guardPart (getDie s t.die) u
  let outPort : Bool := match if n = .vector then portAtLink s t d else none with | some (_, p) => decide (8 ≤ p) | none => false
  match stepDir t d with
  | none => if (part t).isSome then some 0 else if outPort then none else some 1
  | some u =>
    if part t ≠ part u then some 0
    else if outPort then none
    else if (getTile s t).owner ≠ (getTile s u).owner then some 1 else none

/-- A GUARD record of a link with its count (R327); a partition edge's is copied to the hypervisor. -/
def guardRec (s : State) (t : TileId) (n : Net) (d : Dir) (kind count : Nat) : State :=
  let ctx := tileCtx s t
  let key := fld (aget 0 (getDie s t.die).pctl (ctxPart s t.die ctx)) 11 0
  let r : Rec := { kind := 0x33, p0 := word (count * 2 ^ 48 + kind * 2 ^ 44 + netNum n * 2 ^ 42 + dirNum d * 2 ^ 40 + key * 2 ^ 28) }
  let s1 := recT s t r
  if kind = 0 then recHv s1 t.die { r with ctx := ctx, row := t.row.val, col := t.col.val, handle := tileHandle s t } else s1

/-- R326: a token dropped at a guard. -/
def guardDrop (s : State) (t : TileId) (n : Net) (d : Dir) (kind : Nat) : State :=
  let c := aget 0 (getTile s t).drops (linkKey n d) + 1
  let s1 := countTile s t 0x25 0
  if 65535 ≤ c then guardRec (updTile s1 t fun x => { x with drops := adel x.drops (linkKey n d) }) t n d kind c
  else updTile s1 t fun x => { x with drops := aset x.drops (linkKey n d) c }

/-! ## Out-ports (R259) -/

/-- Tokens that an out-port's queue holds; a skipped place is no token. -/
def outOcc (y : Stream) : Nat := (y.queue.filter fun t => match t with | .ctl _ => false | _ => true).length

/-- A descriptor's fields (R257). -/
def strHdr (y : Stream) : Bool := wbit (y.words.getD 3 0) 2
def strCount (y : Stream) : Nat := fld (y.words.getD 1 0) 31 0

/-- A token past the COUNT of an out-stream (R259). -/
def overCount (s : State) (l : LaunchId) (p : Nat) : State :=
  match findLaunch s l with
  | none => s
  | some x =>
    let y := aget ({} : Stream) x.streams p
    let s1 := setLaunch s l { x with streams := aset x.streams p { y with excess := y.excess + 1, overRec := true } }
    if y.overRec then s1 else recL s1 l { kind := 0x17, p0 := word p }

/-- A token arrives at an out-port: a GATE queue of depth 64 with mark 56. A place that a lost token would have taken is skipped. -/
def outArrive (s : State) (l : LaunchId) (t : TileId) (p : Nat) (tok : Tok) : State :=
  match findLaunch s l with
  | none => s
  | some x =>
    let y := aget ({} : Stream) x.streams p
    let put (y : Stream) (s : State) : State := setLaunch s l { x with streams := aset x.streams p y }
    let occ := outOcc y
    let up (y : Stream) : Stream := { y with close := y.close || decide (56 ≤ outOcc y) }
    if y.closed then s
    else if y.complete then (if strHdr y || isRecord tok then overCount s l p else s)
    else if isRecord tok then
      if occ < 64 then put (up { y with queue := y.queue ++ [tok] }) s
      else
        countEv (inexact (recT (put { y with queue := y.queue ++ [.ctl true] } s) t { kind := 0x0A, thr := tok.thr, sub := 14 }) t tok.thr) t 0x11 14 1
    else if occ < 68 then put (up { y with queue := y.queue ++ [tok] }) s
    else inexact (recT (put { y with queue := if strHdr y then y.queue ++ [.ctl true] else y.queue } s) t { kind := 0x09, thr := tok.thr, sub := 14 }) t tok.thr

/-! ## Sending -/

/-- A token sent on an outgoing link: dropped by its guard, taken by an out-port, or on its way to the next tile. -/
def sendOut (s : State) (t : TileId) (n : Net) (tok : Tok) (d : Dir) : State :=
  let s1 := updTile s t fun x => { x with used := aset x.used (linkKey n d) s.clock }
  match guardOf s1 t n d with
  | some kind => guardDrop s1 t n d kind
  | none =>
    let s2 := forwarded s1 t n d tok
    match if n = .vector then portAtLink s2 t d else none with
    | some (l, p) => outArrive s2 l t p tok
    | none => match stepDir t d with
      | some u => hopLink s2 t u n d tok
      | none => s2

/-- Keys under which a tile keeps the cycle in which a switch box last forwarded something, and last took the write of an RSW (R190). -/
def boxUsed (n : Net) : Nat := 44 + netNum n
def rswUsed (n : Net) : Nat := 47 + netNum n

/-- A token sent to all its destinations in one cycle (R138). -/
def sendAll (s : State) (t : TileId) (n : Net) (dst : Dests) (tok : Tok) : State :=
  let s1 := updTile s t fun x => { x with used := aset x.used (boxUsed n) s.clock }
  deliver (dst.links.foldl (fun s d => sendOut s t n tok d) s1) t dst tok

/-- R11: a vector token of reserved KIND is discarded and counted. -/
def reservedKind : Tok → Bool
  | .vec v => 8 ≤ v.kind.toNat
  | _ => false

/-- R143: what the parity check leaves of an arriving token. A lost token makes inexact the thread that its record names: 0 where the header
cannot be trusted (R154; log 78). -/
def parityTok (s : State) (t : TileId) (d : Dir) (b : Parity) (tok : Tok) : State × Option Tok :=
  let note (thr : BitVec 8) (sca : Nat) : State :=
    recT (countTile s t 0x20 0) t { kind := 0x08, thr := thr, p0 := word (dirNum d + 256 * sca) }
  match b, tok with
  | .ok, _ => (s, some tok)
  | .payload, .vec v => (inexact (note v.thr 0) t v.thr, some (.vec (gapTok ⟨1, wread v.wt, true, false, v.thr⟩)))
  | .header, .vec _ => (inexact (note 0 0) t 0, some (.vec (gapTok ⟨1, 0, true, false, 0⟩)))
  | _, .sca _ => (inexact (note 0 1) t 0, none)
  | _, .ctl _ => (s, some tok)

/-- Whether a marker that is due on a link passes the link's check: one on a vector link is a vector token (R143, R355). -/
def markGood (n : Net) (b : Parity) : Bool := n ≠ .vector || b = .ok

/-- FORWARD (R11, R142, R143, R326): the token that arrived on a link in an earlier cycle goes to its destinations. A marker goes to the tile's
cut logic (R355), unless it fails its check. -/
def execForward (s : State) : Host.Outcome State Fault Refusal :=
  match s.here with
  | .link t n d b =>
    let x := getTile s t
    match aget [] x.links (linkKey n d) with
    | [] => .next s
    | (tok, at_) :: rest =>
      if s.clock ≤ at_ then .next s
      else
        let s1 := updTile s t fun x => { x with links := aput [] x.links (linkKey n d) rest }
        if markDue s t n d && markGood n b then
          match x.cut with
          | none => .next s1
          | some c => if c.recorded then .next (takeMark s1 t n d) else .next s
        else
          let (s2, r) := parityTok s1 t d b tok
          match r with
          | none => .next s2
          | some tok =>
            let s2 := channel s2 t n d tok
            if reservedKind tok then .next (countTile s2 t 0x21 0)
            else .next (sendAll s2 t n (linkDests (getTile s2 t) n d) tok)
  | _ => .next s

/-! ## Local sources (R142) -/

/-- The token a local source holds, and its network. -/
def localTok (x : Tile) : LocalSrc → Option Tok
  | .pe p => (aget [] x.outs p.val).head?
  | .op g t => let y := getOp x g; (if t then y.outT else y.outF).map .vec

def localNet : LocalSrc → Net
  | .pe 0 | .pe 1 | .op _ _ => .vector
  | .pe 2 => .scalar
  | .pe _ => .control

/-- Number of a source in the order of R142, and the key under which a PE port's last sending cycle is kept. -/
def srcNum : LocalSrc → Nat
  | .pe p => p.val
  | .op g _ => 2 + g.val
def srcUsed (p : Fin 4) : Nat := 20 + p.val

/-- Whether an outgoing link is free of through-traffic and unused this cycle. -/
def linkFree (s : State) (x : Tile) (n : Net) (d : Dir) : Bool :=
  decide (afind x.used (linkKey n d) ≠ some s.clock) &&
  dirs.all fun i => (aget [] x.links (linkKey n i)).all fun (_, at_) => decide (s.clock ≤ at_) || !(linkDests x n i).links.contains d

/-- Whether a source has a token whose links are all free in this cycle. -/
def ableSend (s : State) (x : Tile) (src : LocalSrc) : Bool :=
  (localTok x src).isSome && (localDests x src).links.all (linkFree s x (localNet src)) &&
  decide (afind x.used (rswUsed (localNet src)) ≠ some s.clock) &&
  (match src with | .pe p => decide (afind x.used (srcUsed p) ≠ some s.clock) | .op _ _ => true)

/-- Local sources of a tile. -/
def localSrcs : List LocalSrc := [.pe 0, .pe 1, .pe 2, .pe 3, .op 0 true, .op 0 false, .op 1 true, .op 1 false]

/-- R190: whether a switch box forwards nothing in this cycle: it has not, no token is due at it and no local source of it can send. -/
def boxIdle (s : State) (x : Tile) (n : Net) : Bool :=
  decide (afind x.used (boxUsed n) ≠ some s.clock) && dirs.all (fun d => (aget [] x.links (linkKey n d)).all fun (_, at_) => decide (s.clock ≤ at_)) &&
  localSrcs.all fun src => localNet src ≠ n || !ableSend s x src

/-- Place of a source in the order of an outgoing vector link: those not granted since activation by number, then least recent first. -/
def grantRank (x : Tile) (d : Dir) (src : LocalSrc) : Nat :=
  match (aget [] x.grants (dirNum d)).idxOf? (srcNum src) with
  | none => srcNum src
  | some i => 10 + i

/-- The vector network's local sources. -/
def vectorSrcs : List LocalSrc := [.pe 0, .pe 1, .op 0 true, .op 0 false, .op 1 true, .op 1 false]

/-- Whether a source wins every link it needs. -/
def winsLinks (s : State) (x : Tile) (src : LocalSrc) : Bool :=
  localNet src ≠ .vector ||
  vectorSrcs.all fun o => o = src || !ableSend s x o ||
    (localDests x src).links.all fun d => !(localDests x o).links.contains d || decide (grantRank x d src ≤ grantRank x d o)

/-- A source granted on a link becomes its most recent (R142). -/
def grant (x : Tile) (src : LocalSrc) (d : Dir) : Tile :=
  { x with grants := aupd [] x.grants (dirNum d) fun l => (l.filter (· ≠ srcNum src)) ++ [srcNum src] }

/-- LOCAL_SEND (R142): a local source sends its token to all its destinations. -/
def execLocalSend (s : State) : Host.Outcome State Fault Refusal :=
  match s.here with
  | .source t src =>
    let x := getTile s t
    match localTok x src with
    | none => .next s
    | some tok =>
      if ableSend s x src && winsLinks s x src && !tileHalted s t x then
        let dst := localDests x src
        let y := match src with
          | .pe p => { x with outs := aput [] x.outs p.val (aget [] x.outs p.val).tail, used := aset x.used (srcUsed p) s.clock }
          | .op g true => setOp x g { getOp x g with outT := none }
          | .op g false => setOp x g { getOp x g with outF := none }
        let y := if localNet src = .vector then dst.links.foldl (fun y d => grant y src d) y else y
        let s1 := setTile s t y
        if reservedKind tok then .next (countTile s1 t 0x21 0) else .next (sendAll s1 t (localNet src) dst tok)
      else .next s
  | _ => .next s

/-! ## Queues: ARRIVE, GAP_PLACE -/

/-- Relative place of a tile in its copy of a block of the given footprint: row and column, for a tile of some copy (R18). -/
def inCopy (x : Launch) (b : Plane) (t : TileId) : Option (Nat × Nat) :=
  match x.corner with
  | none => none
  | some (r, c) =>
    let i := t.row.val - r
    let j := t.col.val - c
    let k := (x.lr.cols + 1) / b.fw
    if j / b.fw < k ∧ i / b.fh * k + j / b.fw ≤ x.lr.copies then some (i % b.fh, j % b.fw) else none

/-- An entry of LIN or LOUT that is valid and names a queue of an element (R173). -/
def placeIs (e : BitVec 16) (i j q : Nat) : Bool :=
  e.getLsbD 15 && decide (e.toNat / 1024 % 32 = i ∧ e.toNat / 32 % 32 = j ∧ 6 + e.toNat / 16 % 2 = q)

/-- The live-out that a queue of the active block captures, if it is a live-out queue. -/
def liveOut (s : State) (t : TileId) (q : Nat) : Option (LaunchId × Nat) :=
  match ownerOf s t with
  | none => none
  | some l => match findLaunch s l with
    | none => none
    | some x => match x.active with
      | none => none
      | some p =>
        let b := getPlane x p.val
        match inCopy x b t with
        | none => none
        | some (i, j) => ((List.range 4).find? fun n => placeIs (b.lout.getD n 0) i j q).map fun n => (l, n)

/-- R185: a token that reaches a live-out queue. -/
def captureOut (s : State) (t : TileId) (q : Nat) (l : LaunchId) (n : Nat) (tok : Tok) : State :=
  let v := seen false {} tok
  let stray := recFirst (countTile s t 0x23 0) t { kind := 0x06, thr := tok.thr, sub := 15, p0 := word v.kind.toNat, p1 := word q }
  match findLaunch s l with
  | none => stray
  | some x => match findThread x tok.thr with
    | none => stray
    | some y =>
      if y.st = .flight ∧ (y.outs.find? fun o => o.1 = n).isNone then
        setLaunch s l (setThread x tok.thr { y with outs := y.outs ++ [(n, lowPair v.pay)] })
      else stray

/-- R146: a pending gap that stood on an empty queue at the end of the last cycle. -/
def gapDue (now : Nat) (q : Queue) : Bool := decide (q.pend.count ≠ 0 ∧ q.items = [] ∧ q.head.count = 0 ∧ q.headAt < now)

/-- R86: a packet header at the head of a queue since an earlier cycle. -/
def hdrDue (now : Nat) (q : Queue) : Bool :=
  match headOf q with
  | some (.vec t) => t.kind = kPkthdr && decide (q.headAt < now)
  | _ => false

/-- The first operator queue of a tile with a token arriving. -/
def opArrival (x : Tile) (g : Fin 2) : Option Nat := [8 + 3 * g.val, 9 + 3 * g.val, 10 + 3 * g.val].find? fun k => (queueAt x k).arr ≠ []

/-- A token handled by a router operator's queue. -/
def arriveOp (s : State) (t : TileId) (k : Nat) : State :=
  let q := queueAt (getTile s t) k
  match q.arr with
  | [] => s
  | tok :: rest =>
    let r := arriveQ s.clock opQueue tok { q with arr := rest }
    qEffects t k r.eff (updTile s t fun x => setQueueAt x k r.q)

/-- ARRIVE (R145, R147): a queue handles its arriving token, after the head removals of the cycle. -/
def execArrive (s : State) : Host.Outcome State Fault Refusal :=
  match s.here with
  | .queue ⟨t, q⟩ =>
    let x := getTile s t
    let y := getQ x q.val
    match y.arr, x.active with
    | tok :: rest, some p =>
      if (issuer s t).isSome || (hdrDue s.clock y && !tileHalted s t x) || gapDue s.clock y then .next s
      else
        match liveOut s t q.val with
        | some (l, n) => .next (captureOut (updTile s t fun x => setQ x q.val { y with arr := rest }) t q.val l n tok)
        | none => .next (runQ (noteArrival s t q.val) t q.val (arriveQ s.clock (queueCfg s t x p.val q.val) tok { y with arr := rest }))
    | _ :: rest, none => .next (updTile s t fun x => setQ x q.val { y with arr := rest })
    | [], _ => .next s
  | .router t g =>
    if (opNext s t g).isSome then .next s
    else match opArrival (getTile s t) g with
      | some k => if gapDue s.clock (queueAt (getTile s t) k) then .next s else .next (arriveOp (noteArrival s t k) t k)
      | none => .next s
  | _ => .next s

/-- GAP_PLACE (R146): the pending gap of an empty queue is placed as a gap marker; no firing takes it in this cycle. -/
def execGapPlace (s : State) : Host.Outcome State Fault Refusal :=
  match s.here with
  | .queue ⟨t, q⟩ =>
    let x := getTile s t
    let y := getQ x q.val
    match x.active with
    | some p => if gapDue s.clock y then .next (runQ (noteArrival s t q.val) t q.val (gapPlaceQ s.clock (queueCfg s t x p.val q.val) y)) else .next s
    | none => .next s
  | .router t g =>
    match [8 + 3 * g.val, 9 + 3 * g.val, 10 + 3 * g.val].find? fun k => gapDue s.clock (queueAt (getTile s t) k) with
    | some k =>
      let r := gapPlaceQ s.clock opQueue (queueAt (getTile s t) k)
      .next (qEffects t k r.eff (updTile (noteArrival s t k) t fun x => setQueueAt x k r.q))
    | none => .next s
  | _ => .next s

/-! ## The PE: packet headers, lone tokens, results -/

/-- PKTHDR_TAKE (R10, R77, R86): the operand decoder takes a packet header. -/
def execPkthdrTake (s : State) : Host.Outcome State Fault Refusal :=
  match s.here with
  | .queue ⟨t, q⟩ =>
    let y := getQ (getTile s t) q.val
    match headOf y with
    | some (.vec v) =>
      if hdrDue s.clock y && !tileHalted s t (getTile s t) then
        .next (updTile (takeQ s t q.val) t fun x => setQ x q.val { getQ x q.val with dec := pktOf v, j := 0 })
      else .next s
    | _ => .next s
  | _ => .next s

/-- LONE_TOKEN (R86): a slot takes a gap marker, BARRIER or WEND alone; it is forwarded to O0 and O1 (R35, R39), or a stray. -/
def execLoneToken (s : State) : Host.Outcome State Fault Refusal :=
  match s.here with
  | .slot sl =>
    let x := getTile s sl.tile
    match want s sl.tile x sl.slot.val, slotInstr x sl.slot.val with
    | .lone q arg, some i =>
      if issuer s sl.tile = some sl.slot.val then
        let v := seenHead x q
        let fired := (getSlot x sl.slot.val).fired
        let s1 := updTile (beginFire s sl [q]) sl.tile fun x => updSlot x sl.slot.val fun y => { y with fired := fired }
        if useOf (view i) arg v = .forward then
          match view i with
          | .node _ w => .next (pushEms s1 sl ((if w.out.getLsbD 0 then [(0, .vec v)] else []) ++ (if w.out.getLsbD 1 then [(1, .vec v)] else [])))
          | _ => .next s1
        else
          .next (recFirst (countTile s1 sl.tile 0x23 0) sl.tile
            { kind := 0x06, thr := v.thr, sub := sl.slot.val, p0 := word v.kind.toNat, p1 := word q })
      else .next s
    | _, _ => .next s
  | _ => .next s

/-- Places that results need of a port. -/
def fits (x : Tile) (ems : List (Fin 4 × Tok)) : Bool :=
  (List.range 4).all fun p => (aget [] x.outs p).length + (ems.filter fun e => e.1.val = p).length ≤ 4

/-- Key under which a tile keeps the cycle and slot of its last completion, beside those of its links. -/
def doneUsed : Nat := 19

/-- Whether a higher-numbered slot's results have completed in this cycle: those of a lower one then complete in a later cycle, so that
results completing together enter in slot order (R87). -/
def passedBy (s : State) (x : Tile) (k : Nat) : Bool :=
  match afind x.used doneUsed with
  | some n => decide (n / 8 = s.clock ∧ k < n % 8)
  | none => false

/-- The ARITH record of a firing whose results have completed is free to enter the event queue. It keeps the order of the firings (R134), but
goes behind those of the same tile whose results completed before it in the same cycle (R136). -/
def settleArith (now serial : Nat) (l : List Rec) : List Rec :=
  match l.span (fun r => r.firing ≠ serial) with
  | (_, []) => l
  | (pre, r :: post) =>
    let n := post.zipIdx.foldl (fun n (q, i) =>
      if q.kind = 0x05 ∧ q.firing = 0 ∧ q.at_ = now + 1 ∧ q.row = r.row ∧ q.col = r.col ∧ q.handle = r.handle then i + 1 else n) 0
    pre ++ post.take n ++ { r with firing := 0, at_ := now + 1 } :: post.drop n

/-- A completed firing's ARITH record. -/
def completeArith (s : State) (t : TileId) (serial : Nat) : State :=
  if serial = 0 then s
  else match ownerOf s t with
    | none => s
    | some l => match findLaunch s l with
      | none => s
      | some x => updCl s (homeOf s l x) fun y => { y with pend := settleArith s.clock serial y.pend }

/-- RESULT_COMPLETE (R87): the results of a slot's oldest firing enter the result buffers. -/
def execResultComplete (s : State) : Host.Outcome State Fault Refusal :=
  match s.here with
  | .slot sl =>
    let x := getTile s sl.tile
    let y := getSlot x sl.slot.val
    match y.pipe with
    | f :: rest =>
      if f.ready && fits x f.ems && !passedBy s x sl.slot.val && !tileHalted s sl.tile x then
        let outs := f.ems.foldl (fun o e => aupd [] o e.1.val (· ++ [e.2])) x.outs
        let z := { x with outs := outs, used := aset x.used doneUsed (s.clock * 8 + sl.slot.val) }
        .next (completeArith (setTile s sl.tile (setSlot z sl.slot.val { y with pipe := rest })) sl.tile f.arith)
      else .next s
    | [] => .next s
  | _ => .next s

/-! ## The edge gate and the quiescence detector (R148, R157) -/

/-- EDGE_GATE_CLOSE (R148): the close reaches the ingress points. -/
def execEdgeGateClose (s : State) : Host.Outcome State Fault Refusal :=
  match s.here with
  | .launch l =>
    match findLaunch s l with
    | some x => if gateArrived s l x && !x.gate then .next (setLaunch s l { x with gate := true, gateDue := none }) else .next s
    | none => .next s
  | _ => .next s

/-- EDGE_GATE_OPEN (R148): the reopening reaches the ingress points. -/
def execEdgeGateOpen (s : State) : Host.Outcome State Fault Refusal :=
  match s.here with
  | .launch l =>
    match findLaunch s l with
    | some x => if gateArrived s l x && x.gate then .next (setLaunch s l { x with gate := false, gateDue := none }) else .next s
    | none => .next s
  | _ => .next s

/-- Queues of a region that hold a close request: row, column, queue code; each out-port counts, under code 14. -/
def closers (s : State) (l : LaunchId) (x : Launch) : List (Nat × Nat × Nat) :=
  (regionTiles l x).flatMap fun t =>
    let y := getTile s t
    let (r, c) := match x.corner with | some (r, c) => (t.row.val - r, t.col.val - c) | none => (0, 0)
    ((List.range 14).filter fun k => (queueAt y k).close).map (fun k => (r, c, k)) ++
    ((List.range 8).filter fun p => (aget ({} : Stream) x.streams (8 + p)).close &&
        (match edgeOf s l x (8 + p) with | some (u, _) => decide (u = t) | none => false)).map fun _ => (r, c, 14)

/-- Whether the quiescence counter has reached its window and its record is not written (R157). -/
def qwcDue (x : Launch) : Bool := decide (2 ^ x.lr.qwin ≤ x.quiet) && !x.qwcDone

/-- QWC (R157): the quiescence counter has reached its window. The record counts every queue that holds a close request and names up to four,
the out-ports of one tile once. -/
def execQwc (s : State) : Host.Outcome State Fault Refusal :=
  match s.here with
  | .launch l =>
    match findLaunch s l with
    | some x =>
      if qwcDue x then
        let qs := closers s l x
        let p1 := (qs.eraseDups.take 4).zipIdx.foldl (fun n ((r, c, k), i) => n + (0x8000 + r * 1024 + c * 32 + k) * 2 ^ (16 * i)) 0
        .next (recL (setLaunch s l { x with qwcDone := true }) l { kind := 0x0B, p0 := word (min qs.length 511), p1 := word p1 })
      else .next s
    | none => .next s
  | _ => .next s

end Sys2Proof.Machine
end

