-- ==== Sys2Proof/Machine/Loader.lean ====
section
/-! DEFINITION. Configuration: the caches (R175, R176), block images (R172, R174), the start of a load (R179), and the configuration stream's
commands with the loader's checks (R46 to R56, R141, R155). -/
namespace Sys2Proof.Machine

/-! ## Faults of parties other than nodes (R310 to R312) -/

/-- MISS or TIER met by a party: it joins the open request of its page, or opens one with a FAULT record; none when no entry is free. -/
def partyFault (s : State) (d : Fin 4) (same : Party → Bool) (r : PageReq) (note : Rec → State → State) : State × Option (Nat × Nat) :=
  let x := getDie s d
  match sameReq x r.ctx r.page same with
  | some (k, q) => (s, some (k, q.serial))
  | none =>
    match freeReq x with
    | none => (s, none)
    | some k =>
      let gen := ctxGen s d r.ctx
      (note { kind := 0x30, ctx := r.ctx, thr := r.thr, handle := r.handle, p0 := r.va, p1 := faultP1 k gen r.entry r.src r.cause }
        (openReq s d k { r with gen := gen }), some (k, x.serial))

/-- The request of a party for an address: its cause, entry, map index and frame by the translation that failed. -/
def reqOf (ctx : BitVec 12) (va : Word) (party : Party) (handle src : Nat) (t : Trans) : PageReq :=
  let r : PageReq := { serial := 0, ctx := ctx, page := fld va 63 16, gen := 0, cause := 1, party := party, handle := handle, va := va, src := src,
                       entry := 0xFF }
  match t with
  | .tier k i f => { r with cause := 3, entry := k, idx := i, frame := f }
  | _ => r

/-! ## The configuration caches (R175, R176) -/

/-- A line of a cache under its address and context. -/
def cfgFind (ls : List CacheLine) (line : Nat) (ctx : BitVec 12) : Option CacheLine := ls.find? fun x => x.line = line && x.ctx = ctx

/-- Set of a line in the cache of a level: 1,024 sets of 8 ways in L2, 16,384 of 16 in L3. -/
def cfgIndex (level line : Nat) (ctx : BitVec 12) : Nat := Config.cfgSet level (word line) ctx % if level = 2 then 1024 else 16384

/-- A line put in a cache as its most recently used: the others of its set keep the ways that are left. -/
def cfgPut (level : Nat) (e : CacheLine) (ls : List CacheLine) : List CacheLine :=
  let ways := if level = 2 then 8 else 16
  let set := cfgIndex level e.line e.ctx
  (ls.filter fun x => !(x.line = e.line && x.ctx = e.ctx)).foldl (fun (acc : List CacheLine × Nat) x =>
    if cfgIndex level x.line x.ctx = set then (if acc.2 < ways then (acc.1 ++ [x], acc.2 + 1) else acc) else (acc.1 ++ [x], acc.2)) ([e], 1) |>.1

/-- What fetching a line gives: its bytes and the level that supplied it (0 L2, 1 L3, 2 memory), or a translation that failed. -/
inductive Line where
  | got (p : Payload) (level : Nat)
  | bad (t : Trans) (va : Word)
  deriving DecidableEq, Repr

/-- A line through L3 of a die and, where `l2` is set, L2 of a cluster. -/
def cfgLine (s : State) (c : ClusterId) (l2 : Bool) (es : List (Nat × RangeEntry)) (ctx : BitVec 12) (va : Word) : State × Line :=
  let line := fld va 63 6
  let fill2 (e : CacheLine) (s : State) : State := if l2 then updCl s c fun x => { x with l2 := cfgPut 2 e x.l2 } else s
  let fill3 (e : CacheLine) (s : State) : State := updDie s c.die fun x => { x with l3 := cfgPut 3 e x.l3 }
  match if l2 then cfgFind (getCl s c).l2 line ctx else none with
  | some e => (fill2 e s, .got e.data 0)
  | none =>
    match cfgFind (getDie s c.die).l3 line ctx with
    | some e => (fill2 e (fill3 e s), .got e.data 1)
    | none =>
      match translate s c.die es ctx va .r with
      | .ok pa _ map =>
        let s1 := markAcc (touch s (some (c.die, pclOfLcl s c)) pa ctx false) c.die ctx map
        let e : CacheLine := { line := line, ctx := ctx, data := payloadOf (memRead s (pa / 64 * 64) 64) }
        (fill2 e (fill3 e s1), .got e.data 2)
      | t => (s, .bad t va)

/-- What fetching an image gives: its lines with the level that supplied each, or the fault that stopped it and the levels of the lines before it. -/
inductive Lines where
  | got (ps : List Payload) (levels : List Nat)
  | bad (t : Trans) (va : Word) (levels : List Nat)
  deriving DecidableEq, Repr

/-- Lines in address order. -/
def cfgLines (c : ClusterId) (l2 : Bool) (es : List (Nat × RangeEntry)) (ctx : BitVec 12) : Nat → Word → State → State × Lines
  | 0, _, s => (s, .got [] [])
  | n + 1, va, s =>
    match cfgLine s c l2 es ctx va with
    | (s1, .bad t a) => (s1, .bad t a [])
    | (s1, .got p k) =>
      match cfgLines c l2 es ctx n (va + 64) s1 with
      | (s2, .bad t a ks) => (s2, .bad t a (k :: ks))
      | (s2, .got ps ks) => (s2, .got (p :: ps) (k :: ks))

/-- Lines of a range of addresses leave L2 of every cluster and L3 (R176, R182). -/
def cfgInvalidate (s : State) (d : Fin 4) (ctx : BitVec 12) (base : Word) (size : Nat) : State :=
  let keep (l : CacheLine) : Bool := !(l.ctx = ctx && decide (base.toNat ≤ 64 * l.line ∧ 64 * l.line < base.toNat + size))
  let s1 := updDie s d fun x => { x with l3 := x.l3.filter keep }
  { s1 with clusters := s1.clusters.map fun (k, x) => if k / 64 = d.val then (k, { x with l2 := x.l2.filter keep }) else (k, x) }

/-! ## Block images (R172 to R174) -/

/-- Word `i` of a line. -/
def lineWord (p : Payload) (i : Nat) : Word := p.extractLsb' (64 * i) 64

/-- The places of a word of LIN or LOUT. -/
def placesOf (w : Word) : List (BitVec 16) := (List.range 4).map fun n => w.extractLsb' (16 * n) 16

/-- The queues that valid places name. -/
def placesNamed (ps : List (BitVec 16)) : List Nat := (ps.filter fun e => e.getLsbD 15).map fun e => e.toNat / 16 % 2048

/-- An image header, if it is a good one: the block's plane, NINS, NWORDS. -/
def parseHeader (pc : Word) (p : Payload) : Option (Plane × Nat × Nat) :=
  let w0 := lineWord p 0
  let w1 := lineWord p 1
  let nins := fld w0 23 16
  let nwords := fld w1 15 0
  let lin := placesOf (lineWord p 2)
  let lout := placesOf (lineWord p 3)
  let named := placesNamed (lin ++ lout)
  if fld w0 63 32 = 0x4F4D424B ∧ fld w0 31 24 = 0 ∧ fld w0 4 0 = 0 ∧ 1 ≤ nins ∧ nins ≤ 128 ∧ fld w1 63 16 = 0 ∧ 8 ≤ nwords ∧
     ((List.range 4).all fun i => decide (lineWord p (4 + i) = 0)) ∧ ((lin ++ lout).all fun e => decide (e.toNat % 16 = 0)) ∧ named.Nodup then
    some ({ st := .loading, pc := pc, lin := lin, lout := lout, crec := wbit w0 5, len := 64 + 64 * ((4 * nwords + 63) / 64),
            fh := fld w0 15 11 + 1, fw := fld w0 10 6 + 1 }, nins, nwords)
  else none

/-- R18: whether a region holds a block of a footprint in its copies. -/
def holds (x : Launch) (fh fw : Nat) : Bool :=
  let k := (x.lr.cols + 1) / fw
  decide (1 ≤ k) && decide ((x.lr.copies + k) / k * fh ≤ x.lr.rows + 1)

/-- Tiles of the copies of a block, with their element row and column (R18). -/
def copyTiles (l : LaunchId) (x : Launch) (fh fw : Nat) : List (TileId × Nat × Nat) :=
  match x.corner with
  | none => []
  | some (r, c) =>
    let k := (x.lr.cols + 1) / fw
    (List.range (x.lr.copies + 1)).flatMap fun n => (List.range fh).flatMap fun i => (List.range fw).map fun j =>
      (⟨l.die, fin64 (r + n / k * fh + i), fin64 (c + n % k * fw + j)⟩, i, j)

/-! ## Deliveries and refused images (R174, R270) -/

/-- A thread begins to wait for delivery to its control core. -/
def deliverThread (s : State) (l : LaunchId) (thr : BitVec 8) (cause : Nat) : State :=
  match findLaunch s l with
  | none => s
  | some x => match findThread x thr with
    | none => s
    | some y =>
      let c := homeOf s l x
      let s1 := setLaunch s l (setThread x thr { y with st := .delivered })
      updCl s1 c fun z => { z with deliveries := z.deliveries ++ [⟨l, thr, cause⟩], ef := true }

/-- The waiting threads of a block leave the entry table and the overflow list. -/
def takeWaiting (x : Launch) (pc : Word) : List (BitVec 8) × Launch :=
  let a := (x.table.filter fun r => r.pc = pc).flatMap (·.thrs)
  let b := (x.overflow.filter fun e => e.1 = pc).map (·.2)
  (a ++ b, reseat { x with table := x.table.filter fun r => r.pc ≠ pc, overflow := x.overflow.filter fun e => e.1 ≠ pc })

/-- A refused image (R174): for the scheduler, each waiting thread of the block is recorded and delivered; for CFGLD, the reason is recorded. -/
def badBlock (s : State) (l : LaunchId) (pc : Word) (cfgld : Bool) (reason : Nat) : State :=
  match findLaunch s l with
  | none => s
  | some x =>
    if cfgld then recL s l { kind := 0x02, p0 := pc, p1 := word reason }
    else
      let (thrs, y) := takeWaiting x pc
      let s1 := setLaunch s l { y with choice := if y.choice = some pc then none else y.choice }
      thrs.foldl (fun s thr =>
        deliverThread (updThread (recL s l { kind := 0x02, thr := thr, p0 := pc, p1 := word reason }) l thr fun z => { z with entered := z.t })
          l thr 11) s1

/-- The loads of a launch aimed at one plane run in the order of their issue (R180): the first is the one that runs or is to start. -/
def aimsAt (p : Fin 4) (y : Load) : Bool := y.plane = p
def firstLoad (x : Launch) (p : Fin 4) : Option Load := x.loads.find? (aimsAt p)

/-- The started load of a plane; whether any load of a launch has started. -/
def theLoad (x : Launch) (p : Fin 4) : Option Load := (firstLoad x p).filter (·.started)
def loadsRun (x : Launch) : Bool := x.loads.any (·.started)

/-- The first element of a list that answers a test replaced, or taken out. -/
def setFirst {α : Type} (p : α → Bool) (y : α) : List α → List α
  | [] => []
  | z :: l => if p z then y :: l else z :: setFirst p y l
def dropFirst {α : Type} (p : α → Bool) : List α → List α
  | [] => []
  | z :: l => if p z then l else z :: dropFirst p l

/-- The first load of a plane rewritten, or over: its plane then stands as given. -/
def setLoad (x : Launch) (y : Load) : Launch := { x with loads := setFirst (aimsAt y.plane) y x.loads }
def endLoad (x : Launch) (p : Fin 4) (b : Plane) : Launch :=
  { x with loads := dropFirst (aimsAt p) x.loads, planes := aset x.planes p.val b }

/-- R189: the decision of a DSEL for a plane that holds no block is discarded and counted; the scheduler decides at the boundary reached. -/
def loseDsel (s : State) (l : LaunchId) (p : Fin 4) : State :=
  recL (countL (updLaunch s l fun x => { x with st := .boundary, dsel := none }) l cntDselbad) l { kind := 0x0D, p0 := word p.val }

/-- A load ends without its block, begun or not: its plane is invalid; a DSEL that waited for it is discarded (R178, R189, R312). -/
def dropLoad (s : State) (l : LaunchId) (y : Load) : State :=
  let s1 := updLaunch s l fun x => endLoad x y.plane { getPlane x y.plane.val with st := .invalid }
  match findLaunch s1 l with
  | none => s1
  | some x => if x.st = .switching y.plane ∧ x.dsel = some (.plane y.plane) then loseDsel s1 l y.plane else s1

/-- A load refused with a BADBLOCK reason. -/
def refuseLoad (s : State) (l : LaunchId) (y : Load) (reason : Nat) : State := badBlock (dropLoad s l y) l y.pc y.cfgld reason

/-! ## The start of a load (R179, R180, R307, R312) -/

/-- R321: an entry of its context's current generation. -/
def currentGen (s : State) (d : Fin 4) (e : RangeEntry) : Bool := fld e.pa 59 52 = (ctxGen s d (e.pa.extractLsb' 40 12)).toNat

/-- The table through which a load translates: the asking core's, or a Lodge launch's port set (log 18); an entry of another generation than its
context's serves no load of a launch (log 80). -/
def loadTable (s : State) (x : Launch) (y : Load) : List (Nat × RangeEntry) :=
  let core (c : ClusterId) : List (Nat × RangeEntry) := (coreTable (getCl s c)).filter fun e => currentGen s c.die e.2
  match y.core, x.issuer with
  | some c, _ => core c
  | none, some c => core c
  | none, none => portTable x.portSet

/-- R174, reason 4: the block lies outside the launch's module. -/
def outsideModule (s : State) (l : LaunchId) (x : Launch) (pc : Word) : Bool :=
  match x.mod with
  | none => false
  | some k => match afind (getDie s l.die).modules k with
    | none => true
    | some m => !decide (m.base.toNat ≤ pc.toNat ∧ pc.toNat < m.base.toNat + m.size)

/-- The 32-bit words of lines. -/
def streamWords (ps : List Payload) : List (BitVec 32) := ps.flatMap fun p => (List.range 16).map (lane p)

/-- An event of a region as a whole counted at its first tile (R344). -/
def countRegion (s : State) (l : LaunchId) (x : Launch) (e n : Nat) : State :=
  match x.corner with
  | some (r, c) => countEv s ⟨l.die, fin64 r, fin64 c⟩ e 0 n
  | none => s

/-- A FAULT record of a launch, counted (R272, R344). -/
def faultRecL (s : State) (l : LaunchId) (x : Launch) (r : Rec) : State := countRegion (recL s l r) l x 0x41 1

/-- A fetch of a load meets a fault or a refusal. -/
def loadFault (s : State) (l : LaunchId) (x : Launch) (y : Load) (t : Trans) (va : Word) : State :=
  let ctx := x.lr.ctx
  match t with
  | .perm k =>
    let r : Rec := { kind := 0x30, p0 := va, p1 := faultP1 0xFF (ctxGen s l.die ctx) k 7 2 }
    refuseLoad (faultRecL s l x r) l y 5
  | t =>
    let same (p : Party) : Bool := match p with | .load m => m = l | _ => false
    let (s1, w) := partyFault s l.die same (reqOf ctx va (.load l) l.handle 7 t) fun r s => faultRecL s l x r
    updLaunch s1 l fun z => setLoad z { y with req := w }

/-- The load of a plane that may start: the first aimed at it, while the plane is not active and no earlier load of it runs (R179, R180); a deferred
one not before the cycle after the plane switch that took its plane out of use. -/
def nextLoad (now : Nat) (x : Launch) (p : Fin 4) : Option Load :=
  if x.active = some p then none else (firstLoad x p).filter fun y => !y.started && !(y.deferred && decide (now ≤ x.phaseAt))

/-- Whether a deferred load of a launch is to start in this cycle, the one after the switch (R179); one that waits for the answer to a fault is
not. -/
def deferredDue (s : State) (l : LaunchId) (x : Launch) : Bool :=
  ([0, 1, 2, 3] : List (Fin 4)).any fun p => match nextLoad s.clock x p with
    | some y => y.deferred && (match y.req with | some w => !reqStands s l.die w | none => true)
    | none => false

/-- Configuration lines counted by the level that supplied each (R344). -/
def countLines (s : State) (l : LaunchId) (x : Launch) (ks : List Nat) : State :=
  [0, 1, 2].foldl (fun s k => let n := ks.count k; if n = 0 then s else countRegion s l x (0x43 + k) n) s

/-- CFG_LOAD_START (R174, R177, R179): the image is fetched and its stream begins, or it is refused, or the load waits on a fault. -/
def execCfgLoadStart (s : State) : Host.Outcome State Fault Refusal :=
  match s.here with
  | .loader l p =>
    match findLaunch s l with
    | none => .next s
    | some x => match nextLoad s.clock x p with
      | none => .next s
      | some y =>
        let c := homeOf s l x
        let refuse (k : Nat) (s : State) : State := refuseLoad s l y k
        match y.req with
        | some w =>
          if reqStands s l.die w then .next s
          else if reqFailed s l.die w.2 then .next (refuse 5 s)
          else .next (updLaunch s l fun x => setLoad x { y with req := none })
        | none =>
          if fld y.pc 5 0 ≠ 0 then .next (refuse 6 s)
          else if outsideModule s l x y.pc then .next (refuse 4 s)
          else
            let es := loadTable s x y
            match cfgLine s c true es x.lr.ctx y.pc with
            | (s1, .bad t va) => .next (loadFault s1 l x y t va)
            | (s1, .got h k) =>
              match parseHeader y.pc h with
              | none => .next (refuse 1 (countLines s1 l x [k]))
              | some (b, nins, nwords) =>
                if !holds x b.fh b.fw then .next (refuse 2 (countLines s1 l x [k]))
                else
                  match cfgLines c true es x.lr.ctx ((4 * nwords + 63) / 64) (y.pc + 64) s1 with
                  | (s2, .bad t va ks) => .next (loadFault (countLines s2 l x (k :: ks)) l x y t va)
                  | (s2, .got ps ks) =>
                    let y' := { y with started := true, words := (streamWords ps).take nwords, head := b, nins := nins, level := ks.foldl max k }
                    let begin_ (x : Launch) : Launch :=
                      let z := setLoad x y'
                      { z with planes := aset z.planes p.val { getPlane z p.val with st := .loading } }
                    .next (countLines (updLaunch s2 l begin_) l x (k :: ks))
  | _ => .next s

/-! ## The stream (R46 to R52) -/

/-- What a command makes of its load: it goes on, it is rejected with a CFGERR cause, or the image's header is wrong (R174, reason 1). -/
inductive LoadRes where
  | go (y : Load)
  | fail (c : CfgCause) (ea page field : Nat)
  | header
  deriving DecidableEq, Repr

/-- Number of a CFGERR cause (R272). -/
def causeNum : CfgCause → Nat
  | .opc => 1 | .field => 2 | .type => 3 | .order => 4 | .range => 5 | .copies => 6 | .check => 7 | .pool => 8 | .mode => 9 | .seed => 10
  | .loop => 11 | .xtok => 12

/-- The first failure of a stream (R52): the CFGERR record, the plane invalid, the image refused. -/
def failLoad (s : State) (l : LaunchId) (y : Load) (c : CfgCause) (ea page field : Nat) : State :=
  refuseLoad (recL s l { kind := 0x01, p0 := word (causeNum c + ea * 256 + page * 2 ^ 18 + field * 2 ^ 24), p1 := y.pc }) l y 3

/-- Stream commands stand for FN 0 to 4, PC for 8 to 11, 62 and 63, as a load notes what it has seen; 64 stands for a tile command. -/
def sawFn (y : Load) (n : Nat) : Bool := y.seen.contains n

/-- A stream failure at the command itself. -/
def failAt (w : BitVec 32) (page : Nat) (c : CfgCause) : LoadRes := .fail c (w.extractLsb' 22 10).toNat page (w.extractLsb' 16 6).toNat

/-- A configuration command at its loader's turn: the head word of the plane's started load. `go` says what becomes of the load, without the word. A
stream that does not begin with BEGIN, or in which something other than END follows CHECK, or that ends without END, breaks the order. -/
def atLoader (i : Instr) (s : State) (go : State → LaunchId → Launch → Load → BitVec 32 → State × LoadRes) : Host.Outcome State Fault Refusal :=
  match s.here with
  | .loader l p =>
    match findLaunch s l with
    | none => .next s
    | some x => match theLoad x p with
      | none => .next s
      | some y => match y.words with
        | [] => .next s
        | w :: rest =>
          if decodeStream w ≠ i then .next s
          else
            let fn := (w.extractLsb' 16 6).toNat
            let stream := w.extractLsb' 22 10 = 0x3FF
            let first := y.seen = []
            let order := (first && !(stream && fn = 0)) || (sawFn y 62 && !(stream && fn = 63)) ||
              (rest = [] && !(stream && fn = 63))
            if order then .next (failLoad s l y .order (w.extractLsb' 22 10).toNat y.page.toNat fn)
            else
              let half := w.extractLsb' 0 16 + w.extractLsb' 16 16
              let y1 := { y with words := rest, seen := (if stream then fn else 64) :: y.seen, sum := if stream && fn = 62 then y.sum else y.sum + half }
              match go s l x y1 w with
              | (s1, .go y2) => .next (updLaunch s1 l fun x => setLoad x y2)
              | (s1, .fail c ea page field) => .next (failLoad s1 l y c ea page field)
              | (s1, .header) => .next (refuseLoad s1 l y 1)
  | _ => .fault .wrongPlace

/-- BEGIN (R47, R48). -/
def execBeginStream (part : Bool) (s : State) : Host.Outcome State Fault Refusal :=
  atLoader (.beginStream part) s fun s _ _ y w => (s, if y.seen = [0] then .go { y with part := part } else failAt w y.page.toNat .order)

/-- PLANE (R47, R48, R174): exactly one, before the first tile command, with VAL 0 in an image. -/
def execPlane (v : BitVec 16) (s : State) : Host.Outcome State Fault Refusal :=
  atLoader (.plane v) s fun s _ _ y w =>
    (s, if y.seen.tail.contains 1 || sawFn y 64 then failAt w y.page.toNat .order
        else if 4 ≤ v.toNat then failAt w y.page.toNat .field
        else if v ≠ 0 then .header else .go y)

/-- PAGE (R47). -/
def execPage (v : BitVec 16) (s : State) : Host.Outcome State Fault Refusal :=
  atLoader (.page v) s fun s _ _ y w => (s, if 2 ≤ v.toNat then failAt w y.page.toNat .field else .go { y with page := v })

/-- ORIGIN (R47). -/
def execOrigin (r c : BitVec 5) (s : State) : Host.Outcome State Fault Refusal :=
  atLoader (.origin r c) s fun s _ _ y _ => (s, .go { y with orow := r.toNat, ocol := c.toNat })

/-- COPIES (R47, R48). -/
def execCopies (v : BitVec 16) (s : State) : Host.Outcome State Fault Refusal :=
  atLoader (.copies v) s fun s _ x y w =>
    (s, if v = 0 ∨ 64 < v.toNat then failAt w y.page.toNat .field
        else if v.toNat ≠ x.lr.copies + 1 then failAt w y.page.toNat .copies else .go y)

/-- PC (R47, R48). -/
def execPc (n : Fin 4) (v : BitVec 16) (s : State) : Host.Outcome State Fault Refusal :=
  atLoader (.pc n v) s fun s _ _ y _ => (s, .go { y with pcw := aset y.pcw n.val v })

/-- CHECK (R49). -/
def execCheck (v : BitVec 16) (s : State) : Host.Outcome State Fault Refusal :=
  atLoader (.check v) s fun s _ _ y w => (s, if v = y.sum then .go y else failAt w y.page.toNat .check)

/-- RESERVED_STREAM_COMMAND (R47, R52, R56). -/
def execReservedStreamCommand (w : BitVec 32) (s : State) : Host.Outcome State Fault Refusal :=
  atLoader (.reservedStreamCommand w) s fun s _ _ y v => (s, failAt v y.page.toNat .field)

/-! ## Tile commands (R46, R48, R50, R51) -/

/-- R43, R138 to R141: whether a field of the switch boxes (F0 to F5) or of the router operators (F6 to F9) holds a reserved code, a reserved bit,
an unused field that is not 0, or a link that forwards back onto itself. The vector box's local code of the S link spans F0 and F1: it is checked
at END, as is all that several fields decide (log 13). -/
def boxBad (fn : Nat) (n : Nat) : Bool :=
  let at_ (i w : Nat) : Nat := n / 2 ^ i % 2 ^ w
  match fn with
  | 0 => at_ 0 3 = 7 || at_ 7 3 = 7 || n.testBit 3 || n.testBit 11
  | 1 => at_ 5 3 = 7 || at_ 12 3 = 7 || n.testBit 3 || n.testBit 11
  | 2 => at_ 3 3 = 7 || at_ 10 3 = 7 || at_ 13 3 = 7
  | 3 => at_ 0 2 = 3 || at_ 6 2 = 3 || at_ 12 2 = 3 || n.testBit 2 || n.testBit 9
  | 4 => at_ 2 2 = 3 || at_ 8 2 = 3 || at_ 14 2 ≠ 0 || n.testBit 0 || n.testBit 7
  | 5 => (List.range 5).any (fun i => 5 < at_ (3 * i) 3) || (List.range 4).any fun i => at_ (3 * i) 3 = i + 1
  | 6 | 8 => at_ 0 13 ≠ 0 || 5 < at_ 13 3
  | 7 | 9 => 4 < at_ 12 4 || 4 < at_ 3 3 || 5 < at_ 0 3 || (at_ 12 4 = 0 && n ≠ 0) || ((at_ 12 4 = 1 || at_ 12 4 = 3) && at_ 6 3 ≠ 0)
  | _ => false

/-- R50, R51, R144: whether a field of a page refuses a value by itself. -/
def fieldBad (page fn : Nat) (v : BitVec 16) : Bool :=
  let desc (d : Nat) : Bool := 6 ≤ d / 32 || (fn = 13 && d / 32 ≠ 0)
  if page = 0 then 48 ≤ fn
  else
    17 ≤ fn || boxBad fn v.toNat || (fn = 14 && v.toNat % 256 ≠ 0) || (fn = 16 && 4 ≤ v.toNat / 256) ||
    (10 ≤ fn && fn ≤ 13 && (desc (v.toNat % 256) || desc (v.toNat / 256)))

/-- R51, R52: whether a tile refuses a value of F16 for its mode: scratchpad or memory-port mode on an even column, or an enabled slot in idle
mode. -/
def modeBad (t : TileId) (v : BitVec 16) : Bool :=
  let mode := v.toNat / 256 % 16
  ((mode = 1 || mode = 2) && t.col.val % 2 = 0) || (mode = 3 && v.toNat % 256 ≠ 0)

/-- A field of a plane of a tile written. -/
def setField (x : Tile) (p page fn : Nat) (v : BitVec 16) : Tile := { x with cfg := aput 0 x.cfg (p * 128 + page * 64 + fn) v }

/-- R48: every field of a plane of a tile cleared. -/
def clearPlane (x : Tile) (p : Nat) : Tile := { x with cfg := x.cfg.filter fun e => e.1 / 128 ≠ p }

/-- A full load clears its plane in every tile of the region before the first tile command applies. -/
def clearOnce (s : State) (l : LaunchId) (x : Launch) (y : Load) : State :=
  if y.part || y.cleared then s else updTiles s (regionTiles l x) fun t => clearPlane t y.plane.val

/-- The tiles of a block's copies at an element. -/
def elementTiles (l : LaunchId) (x : Launch) (b : Plane) (i j : Nat) : List TileId :=
  ((copyTiles l x b.fh b.fw).filter fun e => e.2.1 = i && e.2.2 = j).map (·.1)

/-- TILE_COMMAND (R46, R48, R52): a field checked and written into the target plane, in every copy. -/
def execTileCommand (row col : BitVec 5) (fn : BitVec 6) (v : BitVec 16) (s : State) : Host.Outcome State Fault Refusal :=
  atLoader (.tileCommand row col fn v) s fun s l x y w =>
    let i := row.toNat + y.orow
    let j := col.toNat + y.ocol
    if !sawFn y 1 then (s, failAt w y.page.toNat .order)
    else if y.head.fh ≤ i ∨ y.head.fw ≤ j then (s, failAt w y.page.toNat .range)
    else if fieldBad y.page.toNat fn.toNat v then (s, failAt w y.page.toNat .field)
    else
      let ts := elementTiles l x y.head i j
      let last := ts.any fun t => match x.corner with | some (r, c) => t.row.val = r + 31 && t.col.val = c + 31 | none => false
      if y.page = 1 ∧ fn = 16 ∧ ts.any (modeBad · v) then (s, failAt w y.page.toNat .mode)
      else (updTiles (clearOnce s l x y) ts fun t => setField t y.plane.val y.page.toNat fn.toNat v,
       .go { y with cleared := true, last31 := y.last31 || last })

/-! ## The checks at END (R51, R52, R141, R155, R173, R192, R240) -/

/-- An instruction that a scratchpad or compute tile does not hold (R240). -/
def needsPort : Instr → Bool
  | .ld _ | .st _ | .ldf _ | .stf _ | .clre _ | .atom _ | .mcast _ | .pref _ | .bkgive _ => true
  | _ => false

/-- R192: a long offset whose bits [5:0] are not zero. -/
def longBad (x : Tile) (p : Nat) (i : Instr) : Bool :=
  let bad (w : NWord) : Bool := w.aux.getLsbD 0 && (constK x p (2 * (w.aux.extractLsb' 1 3).toNat)).toNat % 64 ≠ 0
  match i with
  | .bx w | .bxc w | .tspawn w => bad w
  | _ => false

/-- R52, R173, R192, R240: what rejects an enabled slot. -/
def slotCause (x : Tile) (p k : Nat) (louts : List Nat) : Option CfgCause :=
  match decodeSlot (slotWord x p k) with
  | .error c => some c
  | .ok none => none
  | .ok (some i) =>
    if needsPort i ∧ tileMode x p ≠ 2 then some .mode
    else if longBad x p i ∨ (namedOnce (view i)).any louts.contains then some .field else none

/-- The operator's codes as they stand in its word. -/
def gopOf (x : Tile) (p g : Nat) : Nat := (routerWord x p g).toNat / 2 ^ 28

/-- R43: the other operator's outputs that an operator names exist. -/
def opRefsOk (x : Tile) (p : Nat) (g : Fin 2) (i : Instr) : Bool :=
  let other := gopOf x p (1 - g.val)
  let ok (r : RIn) : Bool := match r with
    | .otherT => other ≠ 0
    | .otherF => other = 1
    | _ => true
  match i with
  | .steer a _ _ _ | .inv a _ _ => ok a
  | .carry a b _ _ | .merge a b _ _ => ok a && ok b
  | _ => true

/-- Whether an operator of a word has an output coded 4. -/
def outsToPe : Instr → Bool
  | .steer _ _ t f => t = .pe || f = .pe
  | .carry _ _ _ t | .inv _ _ t | .merge _ _ _ t => t = .pe
  | _ => false

/-- A source that forwards back onto its own link (R141), and two that forward onto one link; `sh` is where the forward bits of a field begin. -/
def forwardsBack (f : List Nat) (sh : Nat) : Bool := (List.range 4).any fun i => (f.getD i 0 / sh).testBit i
def forwardsTwice (f : List Nat) (sh : Nat) : Bool :=
  (List.range 4).any fun d => 1 < ((List.range 4).filter fun i => (f.getD i 0 / sh).testBit d).length

/-- The queue that a vector switch box assigns to an operator's outputs coded 4 (R138). -/
def boxLq (x : Tile) (p g : Nat) : Nat := vsb x p / 2 ^ (42 + 3 * g) % 8

/-- R138, R141: the vector switch box, with what it assigns to the operators. -/
def vectorBoxOk (x : Tile) (p : Nat) : Bool :=
  let f := (List.range 6).map (vField x p)
  let into : List Nat := ((f.map (· % 8)) ++ [boxLq x p 0, boxLq x p 1]).filter (· ≠ 0)
  let lqOk (g : Nat) : Bool := match decodeRouter (routerWord x p g) with
    | .error _ => true
    | .ok none => boxLq x p g = 0
    | .ok (some i) => decide (boxLq x p g ≠ 0) == outsToPe i
  into.all (· ≠ 7) && !forwardsBack f 8 && !forwardsTwice f 8 && decide into.Nodup && lqOk 0 && lqOk 1

/-- The input queues that the scalar switch box delivers into: 1 I6, 2 I7. -/
def scalarInto (x : Tile) (p : Nat) : List Nat := (((List.range 5).map (sField x p)).map (· % 4)).filter (· ≠ 0)

/-- R139, R141: the scalar switch box. -/
def scalarBoxOk (x : Tile) (p : Nat) : Bool :=
  let f := (List.range 5).map (sField x p)
  f.all (· % 4 ≠ 3) && decide (ssb x p / 2 ^ 30 = 0) && !forwardsBack f 4 && !forwardsTwice f 4 && decide (scalarInto x p).Nodup

/-- R140, R141: the control switch box; it delivers into no queue that the scalar one delivers into. -/
def controlBoxOk (x : Tile) (p : Nat) : Bool :=
  let f := (List.range 5).map (cField x p)
  f.all (· ≤ 5) && !((List.range 4).any fun d => f.getD d 0 = d + 1) &&
  (decide (f.getD 4 0 = 0) || !(scalarInto x p).contains (1 + csb x p / 2 ^ 15 % 2))

/-- R43: the field at which a router operator's word is illegal at END: the one of OUTF, not 0 where its GOP does not use it, or the one of INA and
INB, which name an output that does not exist. What one field decides has been checked as it arrived. -/
def routerFault (x : Tile) (p : Nat) (g : Fin 2) : Option Nat :=
  match decodeRouter (routerWord x p g.val) with
  | .error _ => some (6 + 2 * g.val)
  | .ok none => none
  | .ok (some i) => if opRefsOk x p g i then none else some (7 + 2 * g.val)

/-- R138 to R141, R43: the field of page 1 at which the first illegal switch box or operator of a tile begins (R50), if there is one. -/
def boxFault (x : Tile) (p : Nat) : Option Nat :=
  if !vectorBoxOk x p then some 0
  else if !scalarBoxOk x p then some 3
  else if !controlBoxOk x p then some 5
  else match routerFault x p 0 with
    | some f => some f
    | none => routerFault x p 1

/-- Whether the switch boxes and operators of a tile are legal. -/
def boxesOk (x : Tile) (p : Nat) : Bool := (boxFault x p).isNone

/-- The first failure of a tile at END: cause, page and field, in the order pool, seed, mode, boxes and operators, slots (log 13). -/
def tileCause (t : TileId) (x : Tile) (p : Nat) (louts : List Nat) : Option (CfgCause × Nat × Nat) :=
  let slots := (List.range 8).filterMap fun k => if slotOn x p k then (slotCause x p k louts).map fun c => (c, 0, 4 * k) else none
  let mode := tileMode x p
  let depth := (List.range 8).foldl (fun n q => n + depthOf (queueDesc x p q / 4 % 8)) 0
  if 128 < depth then some (.pool, 1, 10)
  else if cfgF x p 1 15 = 0 ∧ (List.range 8).any (fun q => queueDesc x p q / 32 = 3) then some (.seed, 1, 15)
  else if (mode = 1 ∨ mode = 2) ∧ t.col.val % 2 = 0 then some (.mode, 1, 16)
  else if mode = 3 ∧ (cfgF x p 1 16).toNat % 256 ≠ 0 then some (.mode, 1, 16)
  else match boxFault x p with
    | some f => some (.field, 1, f)
    | none => slots.head?

/-- A point of a tile that tokens pass: an input queue (0 to 7), an operator's queue (8 to 13), an operator's output (16 + 2g true, 17 + 2g
false), a port of the PE (20 to 23), a link on which tokens arrive (32 + its key). -/
abbrev Point := TileId × Nat

/-- R155: where a token at a point goes next, by the configured routes of a plane. -/
def pointNext (s : State) (p : Fin 4) (v : Point) : List Point :=
  let t := v.1
  let x := { getTile s t with active := some p }
  let spread (n : Net) (d : Dests) : List Point :=
    d.links.filterMap (fun o => (insideNext s t o).map fun u => (u, 32 + linkKey n (opposite o))) ++
    (match d.queue with | some q => [(t, q)] | none => []) ++ d.ops.map fun k => (t, k)
  let dirAt (k : Nat) : Dir := dirs.getD (k % 4) .n
  let srcAt (k : Nat) : LocalSrc := if k < 20 then .op (Fin.ofNat 2 ((k - 16) / 2)) (k % 2 = 0) else .pe (Fin.ofNat 4 (k - 20))
  if v.2 < 8 then
    ((List.range 8).flatMap fun k => match slotInstr x k with
      | some i => if (namedOnce (view i)).contains v.2 then (portsOf (view i)).map (fun o => (t, 20 + o)) else []
      | none => [])
  else if v.2 < 14 then [(t, 16 + 2 * (v.2 / 11)), (t, 17 + 2 * (v.2 / 11))]
  else if v.2 < 32 then spread (localNet (srcAt v.2)) (localDests x (srcAt v.2))
  else spread (nets.getD ((v.2 - 32) / 4) .vector) (linkDests x (nets.getD ((v.2 - 32) / 4) .vector) (dirAt (v.2 - 32)))

/-- The points reached from some, with fuel for as many rounds as there are points. -/
def reach (next : Point → List Point) : Nat → List Point → List Point → List Point
  | 0, seen, _ => seen
  | n + 1, seen, todo =>
    match ((todo.flatMap next).eraseDups).filter fun v => !seen.contains v with
    | [] => seen
    | new => reach next n (seen ++ new) new

/-- R155: a queue of another policy than GATE on a CARRY cycle. -/
def loopBad (s : State) (ts : List TileId) (p : Fin 4) : Option (TileId × Nat) :=
  let next := pointNext s p
  let fuel := 44 * ts.length
  let carries : List (Point × Point) := ts.flatMap fun t => ([0, 1] : List (Fin 2)).filterMap fun g =>
    match decodeRouter (routerWord (getTile s t) p.val g.val) with
    | .ok (some (.carry _ _ _ _)) => some ((t, 9 + 3 * g.val), (t, 16 + 2 * g.val))
    | _ => none
  (carries.findSome? fun (inb, out) =>
    ((reach next fuel [out] [out]).find? fun v => decide (v.2 < 8) && decide (queueDesc (getTile s v.1) p.val v.2 / 32 ≠ 0) &&
      (reach next fuel [v] [v]).contains inb))

/-- R23: the state of the last tile of a region of 32 by 32 that no command of a full load reached: idle, its boxes passing straight through. -/
def passThrough (x : Tile) (p : Nat) : Tile :=
  let v : Nat := 0b0100000 + 0b1000000 * 2 ^ 7 + 0b0001000 * 2 ^ 14 + 0b0010000 * 2 ^ 21
  let w : Nat := 0b010000 + 0b100000 * 2 ^ 6 + 0b000100 * 2 ^ 12 + 0b001000 * 2 ^ 18
  let c : Nat := 3 + 4 * 8 + 1 * 64 + 2 * 512
  [(0, v % 65536), (1, v / 65536), (3, w % 65536), (4, w / 65536), (5, c), (16, 0x300)].foldl
    (fun x (f, n) => setField x p 1 f (BitVec.ofNat 16 n)) x

/-- NINS as END counts it: enabled slots and operators of one copy (R172). -/
def countIns (s : State) (l : LaunchId) (x : Launch) (b : Plane) (p : Nat) : Nat :=
  ((copyTiles l x b.fh b.fw).take (b.fh * b.fw)).foldl (fun n (t, _, _) =>
    let y := getTile s t
    n + ((List.range 8).filter (slotOn y p)).length + ((List.range 2).filter fun g => gopOf y p g ≠ 0).length) 0

/-- LOUT queues of an element. -/
def loutsAt (b : Plane) (i j : Nat) : List Nat := [6, 7].filter fun q => b.lout.any fun e => placeIs e i j q

/-- END (R48, R51, R52): the last checks; the plane is resident, or the image refused. A PC with a bit of 5:0 set is cause ORDER, of the whole
image (EA 0x3FF), field 8, PC's low word (DESIGN CHOICE, log 88). -/
def execEndStream (s : State) : Host.Outcome State Fault Refusal :=
  atLoader .endStream s fun s l x y w =>
    let pc : Word := word ((List.range 4).foldl (fun n k => n + (aget 0 y.pcw k).toNat * 2 ^ (16 * k)) 0)
    if !sawFn y 62 || !sawFn y 1 || y.pcw.length ≠ 4 || y.words ≠ [] then (s, failAt w y.page.toNat .order)
    else if fld pc 5 0 ≠ 0 then (s, .fail .order 0x3FF y.page.toNat 8)
    else
      let last : List TileId := if x.lr.rows = 31 ∧ x.lr.cols = 31 ∧ !y.part ∧ !y.last31 then
          (match x.corner with | some (r, c) => [⟨l.die, fin64 (r + 31), fin64 (c + 31)⟩] | none => [])
        else []
      let s1 := updTiles (clearOnce s l x y) last fun t => passThrough t y.plane.val
      let ts := copyTiles l x y.head.fh y.head.fw
      let bad := ts.findSome? fun (t, i, j) => (tileCause t (getTile s1 t) y.plane.val (loutsAt y.head i j)).map fun e => (i, j, e)
      match bad with
      | some (i, j, c, page, f) => (s1, .fail c (i * 32 + j) page f)
      | none =>
        match loopBad s1 (ts.map (·.1)) y.plane with
        | some (t, q) =>
          let (i, j) := match ts.find? fun e => e.1 = t with | some e => e.2 | none => (0, 0)
          (s1, .fail .loop (i * 32 + j) 1 (10 + q / 2))
        | none =>
          if pc ≠ y.pc ∨ countIns s1 l x y.head y.plane.val ≠ y.nins then (s1, .header)
          else
            let s2 := updLaunch s1 l fun x =>
              endLoad x y.plane { y.head with st := .resident, last := (getPlane x y.plane.val).last }
            (s2, .go y)

end Sys2Proof.Machine
end

