-- ==== Sys2Proof/Machine/Launches.lean ====
section
/-! DEFINITION. Launches (R22 to R28, R171, R198, R199, R324, R374), the threads' retirement (R184 to R186), the block scheduler (R187 to
R190), plane switches (R15, R19, R178, R243, R291). -/
namespace Sys2Proof.Machine

/-! ## The launch record (R25 to R27) -/

/-- A hierarchy entry's fields. -/
def lvPresent (e : BitVec 32) : Bool := e.getLsbD 31
def lvDomain (e : BitVec 32) : Nat := (e.extractLsb' 28 3).toNat
def lvScope (e : BitVec 32) : Nat := (e.extractLsb' 25 3).toNat
def lvSpan (e : BitVec 32) : Nat := (e.extractLsb' 0 18).toNat

/-- The present levels of a hierarchy. -/
def lvList (es : List (BitVec 32)) : List (BitVec 32) := es.filter lvPresent

/-- R26: the condition on each present level. -/
def lvOk (e : BitVec 32) : Bool :=
  decide (lvScope e ≤ 5 ∧ 1 ≤ lvSpan e ∧ lvSpan e ≤ 131072 ∧ lvDomain e ≤ lvScope e + 2) && (decide (3 ≤ lvDomain e) || decide (lvSpan e = 1))

/-- R26: domains strictly decrease and scopes never increase from level to level. -/
def lvOrder : List (BitVec 32) → Bool
  | a :: b :: l => decide (lvDomain b < lvDomain a) && decide (lvScope b ≤ lvScope a) && lvOrder (b :: l)
  | _ => true

/-- R26: whether a hierarchy is accepted. Of a level that is absent (V 0) only the reserved bits must be 0; its SCOPE, SPAN and DOMAIN may hold
anything (DESIGN CHOICE, log 86). -/
def levelsOk (es : List (BitVec 32)) : Bool :=
  let ls := lvList es
  (es.take ls.length).all lvPresent && !ls.isEmpty && es.all (fun e => decide (e.extractLsb' 18 7 = 0)) && ls.all lvOk && lvOrder ls &&
  ls.any fun e => lvDomain e = 3

/-- R27: the product of SPAN down to the REGION level. -/
def groupSize (es : List (BitVec 32)) : Nat := ((lvList es).filter fun e => 3 ≤ lvDomain e).foldl (fun n e => n * lvSpan e) 1

/-- The 32-bit halves of words, low first. -/
def halves (ws : List Word) : List (BitVec 32) := ws.flatMap fun w => [w.extractLsb' 0 32, w.extractLsb' 32 32]

/-- R25: a launch record whose fields are all in range. -/
def parseRecord (ws : List Word) : Option LaunchRec :=
  let w (i : Nat) : Word := ws.getD i 0
  let levels := halves ((ws.drop 8).take 4)
  let x : LaunchRec :=
    { entry := w 0, module := w 1, ctx := (w 2).extractLsb' 40 12, prio := fld (w 2) 31 28, log := wbit (w 2) 26, pmove := wbit (w 2) 25,
      qwin := fld (w 2) 24 20, resmin := fld (w 2) 19 11, quant := fld (w 3) 31 0, threads := fld (w 4) 24 16, copies := fld (w 4) 15 10,
      cols := fld (w 4) 9 5, rows := fld (w 4) 4 0, group := w 5, midx := fld (w 6) 31 0, levels := levels, liv := (ws.drop 12).take 4,
      binds := (ws.drop 16).take 16 }
  if fld x.entry 5 0 = 0 ∧ fld (w 2) 63 52 = 0 ∧ fld (w 2) 39 32 = 0 ∧ x.prio ≠ 0 ∧ fld (w 2) 27 26 ≤ 1 ∧ 8 ≤ x.qwin ∧ x.qwin ≤ 24 ∧
     x.resmin ≤ 256 ∧ fld (w 2) 10 0 = 0 ∧ fld (w 3) 63 32 = 0 ∧ 50 ≤ x.quant ∧ x.quant ≤ 1000000 ∧ fld (w 4) 63 25 = 0 ∧ 1 ≤ x.threads ∧
     x.threads ≤ 256 ∧ fld (w 6) 63 32 = 0 ∧ levelsOk levels then some x
  else none

/-- R257: whether a stream descriptor of an edge port passes the check; `port` is 0 to 7 for in-ports, 8 to 15 for out-ports. -/
def descOk (port : Nat) (ws : List Word) : Bool :=
  let w (i : Nat) : Word := ws.getD i 0
  decide (fld (w 0) 5 0 = 0 ∧ fld (w 1) 63 32 = 0 ∧ 1 ≤ fld (w 1) 31 0 ∧ fld (w 2) 63 32 = 0 ∧ fld (w 3) 63 24 = 0 ∧ fld (w 3) 15 12 ≤ 12 ∧
    fld (w 3) 7 3 = 0 ∧ fld (w 3) 0 0 = 0 ∧ fld (w 4) 5 0 = 0 ∧ fld (w 3) 11 8 = port) && (!wbit (w 3) 2 || decide (fld (w 2) 31 0 = 2)) &&
  (List.range 3).all fun i => decide (w (5 + i) = 0)

/-! ## Rectangles (R24, R171, R324) -/

/-- The rectangle of a partition register: valid, first row and column, height and width. -/
def partRect (w : Word) : Option (Nat × Nat × Nat × Nat) :=
  if wbit w 63 then some (fld w 23 18, fld w 17 12, fld w 11 6 + 1, fld w 5 0 + 1) else none

/-- Whether a rectangle lies inside another. -/
def inRect (r c h w : Nat) (q : Nat × Nat × Nat × Nat) : Bool :=
  decide (q.1 ≤ r ∧ r + h ≤ q.1 + q.2.2.1 ∧ q.2.1 ≤ c ∧ c + w ≤ q.2.1 + q.2.2.2)

/-- Whether every tile of a rectangle is free, on clusters that are ON (R427). -/
def rectFree (s : State) (d : Fin 4) (r c h w : Nat) : Bool :=
  (rectTiles d r c h w).all fun t => (getTile s t).owner.isNone && decide ((getCl s (clusterOf s t)).pstate = 0)

/-- The corners of a height and width inside a rectangle, row by row. -/
def corners (q : Nat × Nat × Nat × Nat) (h w : Nat) : List (Nat × Nat) :=
  if q.2.2.1 < h ∨ q.2.2.2 < w then []
  else (List.range (q.2.2.1 - h + 1)).flatMap fun i => (List.range (q.2.2.2 - w + 1)).map fun j => (q.1 + i, q.2.1 + j)

def absDiff (a b : Nat) : Nat := (a - b) + (b - a)

/-- R171: the free corner nearest to a tile, ties to the lower row, then the lower column. -/
def nearestFree (s : State) (d : Fin 4) (q : Nat × Nat × Nat × Nat) (h w r0 c0 : Nat) : Option (Nat × Nat) :=
  ((corners q h w).foldl (fun (best : Option (Nat × Nat × Nat)) (r, c) =>
    let n := absDiff r r0 + absDiff c c0
    let better := match best with | none => true | some (m, _, _) => decide (n < m)
    if better && rectFree s d r c h w then some (n, r, c) else best) none).map fun b => (b.2.1, b.2.2)

/-- The rectangle of a launch's partition. -/
def launchPart (s : State) (d : Fin 4) (ctx : BitVec 12) : Option (Nat × Nat × Nat × Nat) := partRect (aget 0 (getDie s d).prect (ctxPart s d ctx))

/-- R171: a placement operand that is well formed; only its low 32 bits count (log 19). -/
def placeOk (p : Word) : Bool := fld p 31 0 = 0 || (wbit p 31 && decide (fld p 30 14 = 0 ∧ fld p 7 6 = 0))

/-- R324: whether the rectangle, given or to be found, can lie in the partition. -/
def placeInside (q : Nat × Nat × Nat × Nat) (p : Word) (h w : Nat) : Bool :=
  if fld p 31 0 = 0 then decide (h ≤ q.2.2.1 ∧ w ≤ q.2.2.2) else inRect (fld p 13 8) (fld p 5 0) h w q

/-- The corner that a launch could be given now. -/
def cornerNow (s : State) (l : LaunchId) (x : Launch) : Option (Nat × Nat) :=
  match launchPart s l.die x.lr.ctx with
  | none => none
  | some q =>
    if fld x.place 31 0 = 0 then
      let p := (pclOfLcl s x.near).val
      nearestFree s l.die q (x.lr.rows + 1) (x.lr.cols + 1) (p / 8 * 8) (p % 8 * 8)
    else if rectFree s l.die (fld x.place 13 8) (fld x.place 5 0) (x.lr.rows + 1) (x.lr.cols + 1) then some (fld x.place 13 8, fld x.place 5 0)
    else none

/-! ## The working set (R370, R374) -/

/-- The map indices of a context. -/
def mapRange (s : State) (d : Fin 4) (ctx : BitVec 12) : List Nat :=
  if wbit (getDie s d).tierbase 63 then List.range (mapPages s d ctx) else []

/-- R370: the working set recorded, and the access bits cleared. -/
def recordWs (s : State) (d : Fin 4) (ctx : BitVec 12) : State :=
  let is := mapRange s d ctx
  let wanted := ((getDie s d).wanted.filter fun e => e.1 = ctx).map (·.2)
  let any := is.any fun i => (resByte s d ctx i).getLsbD 2
  let s1 := is.foldl (fun s i =>
    let b := resByte s d ctx i
    let ws := if any then b.getLsbD 2 || wanted.contains i else b.getLsbD 1
    setResByte s d ctx i ((b &&& 0xF9) ||| (if ws then 2 else 0))) s
  updDie s1 d fun x => { x with wanted := x.wanted.filter fun e => e.1 ≠ ctx }

/-- R374: pages of the working set, and how many of them are resident. -/
def wsPages (s : State) (d : Fin 4) (ctx : BitVec 12) : List Nat := (mapRange s d ctx).filter fun i => (resByte s d ctx i).getLsbD 1
def gateNeed (s : State) (d : Fin 4) (ctx : BitVec 12) (resmin : Nat) : Nat :=
  min ((resmin * (wsPages s d ctx).length + 255) / 256) (aget 0 (getDie s d).quota (ctxPart s d ctx))
/-- R374: no gate holds a launch of RESMIN 0, nor one whose context has an empty working set; no record is written then (R361). -/
def gateFree (s : State) (d : Fin 4) (ctx : BitVec 12) (resmin : Nat) : Bool := decide (resmin = 0) || (wsPages s d ctx).isEmpty
def gateMet (s : State) (d : Fin 4) (ctx : BitVec 12) (resmin : Nat) : Bool :=
  decide (gateNeed s d ctx resmin ≤ ((wsPages s d ctx).filter (isResident s d ctx)).length)

/-! ## Acceptance (R25 to R28, R183, R198, R199, R307, R308, R324, R331) -/

/-- What asks for a launch: the issuing core (none for Lodge), the cluster to be near, whether it is system software, its context, the
record, the placement operand, the port set, and the bound descriptors by port. -/
structure Ask where
  issuer : Option ClusterId
  near : ClusterId
  sys : Bool
  ctx : BitVec 12
  ws : List Word
  place : Word
  ports : List RangeCopy
  descs : List (Nat × List Word)
  deriving DecidableEq, Repr

/-- Residency bits that the valid entries of a set cover; one that breaks the conditions of R305 covers none (R308). -/
def portBits (es : List RangeCopy) : Nat :=
  es.foldl (fun n e => if wbit e.entry.base 5 || !wbit e.entry.base 0 || !rangeWhole e.entry then n else n + (fld e.entry.lim 63 16 - fld e.entry.base 63 16 + 1)) 0

/-- R307: the port set that a core's entries form. An entry of another generation than its context's is left out: no new launch translates with it
(R321; log 80). -/
def portSetOf (s : State) (d : Fin 4) (x : Cluster) : List RangeCopy :=
  (x.ranges.filter fun (_, e) => wbit e.base 0 && wbit e.base 4 && rangeWhole e && currentGen s d e).map fun (k, e) => ⟨e, k⟩

/-- Module states (R182). -/
def modLoaded : Nat := 1
def modUnloading : Nat := 2

/-- The table entry of a module identifier that is in use (R182). -/
def modOf (x : Die) (id : Word) : Option (Nat × Module) :=
  match afind x.modules (fld id 23 16) with
  | some m => if fld id 63 24 = 0 ∧ m.gen.toNat = fld id 15 0 ∧ m.st ≠ 0 then some (fld id 23 16, m) else none
  | none => none

/-- R183: the module a launch is bound to, or the status that refuses it. -/
def bindModule (x : Die) (r : LaunchRec) : Except Nat (Option Nat) :=
  if r.module = 0 then
    .ok ((x.modules.find? fun (_, m) => m.st = modLoaded && m.ctx = r.ctx &&
      decide (m.base.toNat ≤ r.entry.toNat ∧ r.entry.toNat < m.base.toNat + m.size)).map (·.1))
  else match modOf x r.module with
    | some (k, m) => if m.ctx ≠ r.ctx then .error 3 else if m.st = modLoaded then .ok (some k) else .error 4
    | none => .error 4

/-- R27: whether a launch agrees with the live members of its group, on whatever die of the package. -/
def groupOk (s : State) (r : LaunchRec) : Bool :=
  decide (r.midx < groupSize r.levels) &&
  (([0, 1, 2, 3] : List (Fin 4)).flatMap (launchesOf s)).all fun (_, y) => !(y.lr.group = r.group && y.lr.ctx = r.ctx) || (decide (y.lr.midx ≠ r.midx) && decide (lvList y.lr.levels = lvList r.levels))

/-- A launch accepted, with its handle, or the number of its negative status. -/
def acceptLaunch (s : State) (a : Ask) : Except Nat (Nat × State) :=
  let d := a.near.die
  let x := getDie s d
  match parseRecord a.ws with
  | none => .error 1
  | some r =>
    if !placeOk a.place ∨ 16 < a.ports.length ∨ 8192 < portBits a.ports ∨ (a.descs.any fun (p, ws) => !descOk p ws) then .error 1
    else if (!a.sys ∧ r.ctx ≠ a.ctx) ∨ !wbit x.ctxbase 63 ∨ 2 ≤ ctxState s d r.ctx then .error 3
    else match launchPart s d r.ctx with
      | none => .error 1
      | some q =>
        if !placeInside q a.place (r.rows + 1) (r.cols + 1) then .error 1
        else match bindModule x r with
          | .error k => .error k
          | .ok m =>
            if !groupOk s r then .error 2
            else if 64 ≤ ((launchesOf s d).filter fun (_, y) => y.st = .waiting).length then .error 5
            else
              let (n, s1) := fresh s
              let h := x.nextHandle
              let threads := (List.range r.threads).map fun k => (k, ({ pc := r.entry, t := r.liv } : Thread))
              let y : Launch :=
                { lr := r, issuer := a.issuer, near := a.near, place := a.place, order := n, waitAt := s.clock, mod := m, gateOk := gateFree s d r.ctx r.resmin, portSet := a.ports, threads := threads,
                  table := [⟨r.entry, (List.range r.threads).map (BitVec.ofNat 8), 0⟩],
                  streams := a.descs.map fun (p, ws) => (p, { words := ws }) }
              let s2 := updDie (setLaunch s1 ⟨d, h⟩ y) d fun x => { x with nextHandle := h + 1 }
              .ok (h, if ctxState s d r.ctx = 0 then setCtxState s2 d r.ctx 1 else s2)

/-! ## Regions allotted and freed (R24, R325, R334) -/

/-- A tile with nothing in it, allotted to a launch or free. -/
def blankTile (x : Tile) (owner : Option Nat) : Tile := { owner := owner, counts := x.counts }

/-- The windows that the slots of a tile's active plane use (R235, R237, R243). -/
def busyWindows (x : Tile) : List Nat :=
  match x.active with
  | none => []
  | some p =>
    (if tileMode x p.val = 1 then [0] else []) ++
    (List.range 8).filter fun k => match slotInstr x k with
      | some (.ld w) | some (.st w) => w.cls = .stream
      | _ => false

/-- The windows of a tile taken (emptied and busy) or given up. -/
def markWindows (s : State) (t : TileId) (busy : Bool) : State :=
  let ks := busyWindows (getTile s t)
  if ks.isEmpty then s
  else updSlice s (sliceOf t) fun y =>
    { y with wins := ks.foldl (fun m k => aupd {} m k fun w => { w with busy := busy, held := [], dropped := none, head := if busy then 0 else w.head,
                                                                          tail := if busy then 0 else w.tail }) y.wins }

/-- A slice of a context's launch begins (R334): its length, and its DEBT paid. -/
def beginSlice (s : State) (l : LaunchId) : State :=
  match findLaunch s l with
  | none => s
  | some x =>
    let q := x.lr.quant * Config.cyclesPerUs
    let debt := ctxDebt s l.die x.lr.ctx
    setDebt (setLaunch s l { x with sliceAt := s.clock, sliceLen := max 1 (q - debt), expired := none }) l.die x.lr.ctx (debt - q)

/-- The overrun of a region that stops: the cycles since its slice expired are added to DEBT (R334). -/
def addOverrun (s : State) (l : LaunchId) : State :=
  match findLaunch s l with
  | none => s
  | some x => match x.expired with
    | none => s
    | some k => setDebt (setLaunch s l { x with expired := none }) l.die x.lr.ctx (ctxDebt s l.die x.lr.ctx + (s.clock - k))

/-- A region allotted to a launch. -/
def allot (s : State) (l : LaunchId) (r c : Nat) : State :=
  match findLaunch s l with
  | none => s
  | some x =>
    let s1 := updTiles s (rectTiles l.die r c (x.lr.rows + 1) (x.lr.cols + 1)) fun t => blankTile t (some l.handle)
    setLaunch s1 l { x with corner := some (r, c), since := s.clock }

/-- The tiles of a launch's region freed. -/
def freeTiles (s : State) (l : LaunchId) (x : Launch) : State :=
  let ts := regionTiles l x
  updTiles (ts.foldl (fun s t => markWindows s t false) s) ts fun t => blankTile t none

/-- Whether a context is SAVED, may be chosen, and could regain its rectangles now (R332, R333). -/
def savedFree (s : State) (d : Fin 4) (ctx : BitVec 12) : Bool :=
  let x := getCtx s d ctx
  decide (ctxState s d ctx = 4) && !x.suspended && x.saved.all fun r => match findLaunch s ⟨d, r.handle⟩ with
    | some y => rectFree s d r.corner.1 r.corner.2 (y.lr.rows + 1) (y.lr.cols + 1)
    | none => true

/-- Something that waits for a region (R337): the cycle in which it began to wait, its context, its number among those that wait. -/
abbrev WaitTurn := Nat × Nat × Nat

/-- R337: the earlier wait goes first, then the lower context; what waits of one context goes in its order. -/
def turnBefore (a b : WaitTurn) : Bool :=
  decide (a.1 < b.1) || (decide (a.1 = b.1) && (decide (a.2.1 < b.2.1) || (decide (a.2.1 = b.2.1) && decide (a.2.2 < b.2.2))))

def launchTurn (x : Launch) : WaitTurn := (x.waitAt, x.lr.ctx.toNat, x.order)
def savedTurn (s : State) (d : Fin 4) (ctx : BitVec 12) : WaitTurn := let z := getCtx s d ctx; (z.waitAt, ctx.toNat, z.order)

/-- Whether something whose turn is before another's could be served now instead (R337): a waiting launch of the die, or a SAVED context. -/
def servedBefore (s : State) (d : Fin 4) (n : WaitTurn) : Bool :=
  (launchesOf s d).any (fun (l, x) => x.st = .waiting && turnBefore (launchTurn x) n && decide (ctxState s d x.lr.ctx = 1) && (cornerNow s l x).isSome) ||
  (getDie s d).ctxs.any fun (k, _) => turnBefore (savedTurn s d (BitVec.ofNat 12 k)) n && savedFree s d (BitVec.ofNat 12 k)

/-! ## Threads enter (R18, R184) -/

/-- The element of a thread's live-in place in its copy (R18). -/
def entryTile (l : LaunchId) (x : Launch) (b : Plane) (thr : BitVec 8) (e : BitVec 16) : Option TileId :=
  match x.corner with
  | none => none
  | some (r, c) =>
    let k := (x.lr.cols + 1) / b.fw
    let n := thr.toNat % (x.lr.copies + 1)
    some ⟨l.die, fin64 (r + n / k * b.fh + e.toNat / 1024 % 32), fin64 (c + n % k * b.fw + e.toNat / 32 % 32)⟩

/-- The entry tokens of a thread: tile, queue, value. -/
def entryToks (l : LaunchId) (x : Launch) (thr : BitVec 8) : List (TileId × Nat × Tok) :=
  match x.active, findThread x thr with
  | some p, some y =>
    let b := getPlane x p.val
    (List.range 4).filterMap fun n =>
      let e := b.lin.getD n 0
      if e.getLsbD 15 then (entryTile l x b thr e).map fun t => (t, 6 + e.toNat / 16 % 2, .sca ⟨y.t.getD n 0, thr⟩) else none
  | _, _ => []

/-- Entry tokens go in while the edge gate is open, one in a queue at a time; the scheduler keeps the rest (R148, R184). -/
def injectEntries : Nat → LaunchId → State → State
  | 0, _, s => s
  | n + 1, l, s =>
    match findLaunch s l with
    | none => s
    | some x => match x.entering with
      | [] => s
      | thr :: rest =>
        let es := entryToks l x thr
        if gateShut s l x || es.any (fun (t, q, _) => (getQ (getTile s t) q).arr ≠ []) then s
        else
          let s1 := es.foldl (fun s (t, q, tok) => updTile s t fun y => let z := getQ y q; setQ y q { z with arr := z.arr ++ [tok] }) s
          injectEntries n l (setLaunch s1 l { x with entering := rest })

/-- Threads enter the active block. -/
def enterThreads (s : State) (l : LaunchId) (thrs : List (BitVec 8)) : State :=
  match findLaunch s l with
  | none => s
  | some x =>
    let y := thrs.foldl (fun (x : Launch) thr => match findThread x thr with
      | some z => setThread x thr { z with st := .flight, pc := activePc x, entered := z.t, exit := none, outs := [] }
      | none => x) x
    injectEntries (x.entering.length + thrs.length) l (setLaunch s l { y with entering := y.entering ++ thrs })

/-! ## THREAD_RETIRE (R186) -/

/-- Whether a token names a thread. -/
def tokOf (thr : BitVec 8) : Tok → Bool
  | .vec v => v.thr = thr
  | .sca v => v.thr = thr
  | .ctl _ => false

/-- Whether a queue holds something of a thread. -/
def queueOf (thr : BitVec 8) (q : Queue) : Bool :=
  q.items.any (fun e => tokOf thr e.tok) || q.arr.any (tokOf thr) || (decide (q.pend.count ≠ 0) && decide (q.pend.thr = thr)) ||
  (decide (q.head.count ≠ 0) && decide (q.head.thr = thr))

/-- Whether a node is in the course of a pass or a run of a thread (R17). -/
def nodeOf (thr : BitVec 8) : NodeSt → Bool
  | .seq _ _ _ t run => run && t = thr
  | .agen _ _ _ _ t _ => t = thr
  | .mseq _ _ _ _ t => t = thr
  | .radv ps => ps.any fun e => e.2.2 = thr
  | _ => false

/-- Whether a tile holds something of a thread: a token, an access, a pass, a BARN output. -/
def tileOf (thr : BitVec 8) (x : Tile) : Bool :=
  (List.range 14).any (fun k => queueOf thr (queueAt x k)) ||
  x.links.any (fun (_, l) => l.any fun e => tokOf thr e.1) || x.outs.any (fun (_, l) => l.any (tokOf thr)) ||
  [x.g0.outT, x.g0.outF, x.g1.outT, x.g1.outF].any (fun o => match o with | some v => v.thr = thr | none => false) ||
  x.port.queue.any (fun a => a.thr = thr) ||
  x.slots.any fun (_, y) => y.pipe.any (fun f => f.ems.any fun e => tokOf thr e.2) || nodeOf thr y.node || y.barns.any fun e => e.1 = thr

/-- A matrix operation of a thread of a region that has not retired (R213). -/
def matrixOf (s : State) (l : LaunchId) (thr : BitVec 8) : Bool :=
  s.clusters.any fun (_, c) => c.mqs.any fun (_, q) => q.any fun o => o.thr = thr && ownerOf s o.tile = some l

/-- Whether the active block has an exit node (R186). -/
def hasExit (s : State) (ts : List TileId) : Bool :=
  ts.any fun t => (List.range 8).any fun k => match slotInstr (getTile s t) k with
    | some (.bx _) | some (.bxc _) | some (.thalt _) | some (.tjoin _) => true
    | _ => false

/-- R258: an in-stream has injected its last token. -/
def streamSpent (y : Stream) : Bool := y.stopped || y.closed || decide (strCount y ≤ y.next)

/-- Whether a queue holds nothing. -/
def queueEmpty (q : Queue) : Bool := q.items.isEmpty && q.arr.isEmpty && decide (q.pend.count = 0 ∧ q.head.count = 0)

/-- Whether a tile holds nothing that moves: links, queues, result buffers, pipelines, outputs, accesses, passes. -/
def tileEmpty (x : Tile) : Bool :=
  (List.range 14).all (fun k => queueEmpty (queueAt x k)) && x.links.all (fun e => e.2.isEmpty) && x.outs.all (fun e => e.2.isEmpty) &&
  [x.g0.outT, x.g0.outF, x.g1.outT, x.g1.outF].all (·.isNone) && x.port.queue.isEmpty &&
  x.slots.all fun (_, y) => y.pipe.isEmpty && y.barns.isEmpty &&
    (match y.node with | .agen .. | .mseq .. | .seq _ _ _ _ true | .radv (_ :: _) | .join _ _ (_ :: _) _ => false | _ => true)

/-- R86: whether a tile has a slot that names no queue and has yet to make its one firing of the phase. Such a firing is of thread 0. -/
def oncePending (s : State) (t : TileId) : Bool :=
  let x := getTile s t
  (List.range 8).any fun k => match slotInstr x k with
    | some i => (named (view i)).isEmpty && !(getSlot x k).fired && decide (want s t x k ≠ .none)
    | none => false

/-- R114: a STOP drain is over: the edge gate is closed and nothing moves in the region any more. Entry tokens that the closed gate keeps
outside (R184) are not in the region. -/
def stopDrained (s : State) (l : LaunchId) (x : Launch) : Bool :=
  x.stop && x.gate && decide (x.st = .running) && (regionTiles l x).all fun t => tileEmpty (getTile s t) && !oncePending s t

/-- Whether a thread in flight may retire now (R186); none of a context that has FAILED or is being reset (R338, R340). -/
def mayRetire (s : State) (l : LaunchId) (x : Launch) (thr : BitVec 8) (y : Thread) : Bool :=
  let ts := regionTiles l x
  let b := match x.active with | some p => getPlane x p.val | none => {}
  let outsIn := (List.range 4).all fun n => !(b.lout.getD n 0).getLsbD 15 || y.outs.any fun o => o.1 = n
  y.st = .flight && x.st = .running && x.drainAt.isNone && !x.entering.contains thr && decide (ctxState s l.die x.lr.ctx < 6) &&
  (match y.exit with
   | some _ => outsIn
   | none => !hasExit s ts && outsIn && x.streams.all fun (p, z) => decide (8 ≤ p) || z.words.isEmpty || streamSpent z) &&
  !ts.any (fun t => tileOf thr (getTile s t) || (thr = 0 && oncePending s t)) && !matrixOf s l thr

/-- Whether a thread that an ARITH record has named is to be delivered from its drained region now (R114). -/
def stopDue (s : State) (l : LaunchId) (x : Launch) (thr : BitVec 8) (y : Thread) : Bool :=
  x.stopThr.contains thr && (y.st = .flight || y.st = .delivered) && stopDrained s l x

/-- A thread ends: THREADEND (none in a watchdog's drain, R339), and its number is released when its join count allows (R186). -/
def endThread (s : State) (l : LaunchId) (thr : BitVec 8) : State :=
  match findLaunch s l with
  | none => s
  | some x => match findThread x thr with
    | none => s
    | some y =>
      let x1 := freeThread (setThread { x with exact := x.exact && !y.inexact } thr { y with st := .ended }) thr
      let s1 := setLaunch s l x1
      if x.drainAt.isSome then s1 else recL s1 l { kind := 0x21, thr := thr, p0 := y.pc, p1 := word (flag (!y.inexact) 0) }

/-- R114, R270: the threads named in a STOP drain are delivered once the region has drained. -/
def deliverDrained (s : State) (l : LaunchId) : State :=
  match findLaunch s l with
  | none => s
  | some x =>
    let thrs := x.stopThr.filter fun thr => match findThread x thr with | some y => y.st = .delivered | none => false
    let s1 := setLaunch s l { x with stopThr := [], drained := x.drained ++ thrs, stop := x.stop && (!thrs.isEmpty || !x.drained.isEmpty) }
    thrs.foldl (fun s thr => deliverThread s l thr 10) s1

/-- THREAD_RETIRE (R184 to R186, R114, R310): a thread leaves its block; or a thread that a STOP drain names is delivered, the region having
drained. -/
def execThreadRetire (s : State) : Host.Outcome State Fault Refusal :=
  match s.here with
  | .thread l thr =>
    match findLaunch s l with
    | none => .next s
    | some x => match findThread x thr with
      | none => .next s
      | some y =>
        if stopDue s l x thr y then
          let s1 := updThread s l thr fun y => { y with st := .delivered }
          .next (if (x.threads.any fun (k, z) => z.st = .flight && decide (k ≠ thr.toNat) && x.stopThr.contains (BitVec.ofNat 8 k)) then s1
                 else deliverDrained s1 l)
        else if !mayRetire s l x thr y then .next s
        else
          let pc := activePc x
          let crec := match x.active with | some p => (getPlane x p.val).crec | none => false
          let t' := (List.range 4).map fun n => match y.outs.find? fun o => o.1 = n with | some o => o.2 | none => y.t.getD n 0
          let s1 := if crec then recL s l { kind := 0x20, thr := thr, p0 := pc, p1 := word (flag (!y.inexact) 0) } else s
          let z := { y with pc := pc, exit := none, outs := [] }
          let put (z : Thread) (s : State) : State := updLaunch s l fun x => setThread x thr z
          if y.fatal then .next (deliverThread (put { z with fatal := false } s1) l thr 9)
          else if x.stopThr.contains thr then .next (put { z with st := .delivered } s1)
          else match y.exit with
            | some (.go next wait) =>
              let z := { z with pc := next, t := t' }
              if wait then .next (updLaunch s1 l fun x => unhold (setThread x thr { z with st := .holding }) thr)
              else if next = pc ∧ x.table.all (fun r => r.pc = pc) ∧ x.overflow.all (fun e => e.1 = pc) then .next (enterThreads (put z s1) l [thr])
              else .next (updLaunch s1 l fun x => joinEntry (setThread x thr z) thr next)
            | _ => .next (endThread (put { z with t := t' } s1) l thr)
  | _ => .next s

/-! ## Decisions (R187, R188) -/

/-- A row's score (R187). -/
def rowScore (x : Launch) (r : EntryRow) : Nat := min r.thrs.length 255 * x.lr.prio + r.age

/-- The plane of a region that holds a block and is resident. -/
def planeOf (x : Launch) (pc : Word) : Option (Fin 4) :=
  ([0, 1, 2, 3] : List (Fin 4)).find? fun p => (getPlane x p.val).st = .resident && (getPlane x p.val).pc = pc

/-- R187: whether a candidate is chosen before another. -/
def rowBefore (x : Launch) (old : Bool) (a b : EntryRow) : Bool :=
  if old then decide (b.age < a.age) || (decide (a.age = b.age) && decide (a.pc.toNat < b.pc.toNat))
  else
    let res (r : EntryRow) := (planeOf x r.pc).isSome
    decide (rowScore x b < rowScore x a) || (decide (rowScore x a = rowScore x b) &&
      ((res a && !res b) || (res a == res b && decide (a.pc.toNat < b.pc.toNat))))

/-- The best of a list of rows. -/
def bestRow (x : Launch) (old : Bool) : List EntryRow → Option EntryRow
  | [] => none
  | r :: rs => match bestRow x old rs with
    | none => some r
    | some b => if rowBefore x old r b then some r else some b

/-- BLOCK_DECISION (R187): the row chosen. -/
def chooseRow (x : Launch) : Option EntryRow :=
  match bestRow x true (x.table.filter fun r => 8 ≤ r.age) with
  | some r => some r
  | none => bestRow x false x.table

/-- R188: the scheduler decides which block comes next: a resident one is switched to, another is loaded first. -/
def decideBlock (s : State) (l : LaunchId) : State :=
  match findLaunch s l with
  | none => s
  | some x => match chooseRow x with
    | none => setLaunch s l { x with st := .boundary, choice := none }
    | some r =>
      let table := x.table.map fun q => if q.pc = r.pc then q else { q with age := q.age + 1 }
      let x1 := { x with table := table, choice := some r.pc }
      match planeOf x r.pc with
      | some p => setLaunch s l { x1 with st := .switching p }
      | none => setLaunch s l { x1 with st := .boundary }

/-! ## LAUNCH_PLACE (R24, R171, R334, R374) -/

/-- LAUNCH_PLACE (R24, R171, R334, R337, R374): a waiting launch whose residency gate is met gets its rectangle, its slice begins, and its first block
is chosen. A context with a whole quantum of debt is passed over once. -/
def execLaunchPlace (s : State) : Host.Outcome State Fault Refusal :=
  match s.here with
  | .launch l =>
    match findLaunch s l with
    | none => .next s
    | some x =>
      if x.st ≠ .waiting ∨ ctxState s l.die x.lr.ctx ≠ 1 ∨ servedBefore s l.die (launchTurn x) then .next s
      else match cornerNow s l x with
        | none => .next s
        | some (r, c) =>
          let q := x.lr.quant * Config.cyclesPerUs
          let debt := ctxDebt s l.die x.lr.ctx
          if q ≤ debt then
            let (n, s1) := fresh (setDebt s l.die x.lr.ctx (debt - q))
            .next (setLaunch s1 l { x with order := n, waitAt := s.clock })
          else if !x.gateOk then .next s
          else .next (decideBlock (beginSlice (updLaunch (allot s l r c) l fun y => { y with st := .boundary }) l) l)
  | _ => .next s

/-! ## SCHEDULER_LOAD (R178, R180) -/

/-- Planes at which a load is aimed. -/
def aimed (x : Launch) (p : Fin 4) : Bool := x.loads.any fun y => y.plane = p

/-- R178: the plane the scheduler takes; `strict` leaves out planes whose block has waiting threads (R180). -/
def takePlane (x : Launch) (strict : Bool) : Option (Fin 4) :=
  let ok (p : Fin 4) : Bool := x.active ≠ some p && !aimed x p
  let planes : List (Fin 4) := [0, 1, 2, 3].filter ok
  let waits (p : Fin 4) : Bool := let pc := (getPlane x p.val).pc; x.table.any (fun r => r.pc = pc) || x.overflow.any fun e => e.1 = pc
  let oldest (ps : List (Fin 4)) : Option (Fin 4) := ps.foldl (fun b p => match b with
    | none => some p
    | some q => if (getPlane x p.val).last < (getPlane x q.val).last then some p else some q) none
  match planes.find? fun p => (getPlane x p.val).st = .invalid with
  | some p => some p
  | none =>
    let res := planes.filter fun p => (getPlane x p.val).st = .resident
    match oldest (res.filter fun p => !waits p) with
    | some p => some p
    | none => if strict then none else oldest res

/-- Whether a block is resident or a load of it is on its way. -/
def haveBlock (x : Launch) (pc : Word) : Bool := (planeOf x pc).isSome || x.loads.any fun y => y.pc = pc

/-- The scheduler asks for a block in a plane. -/
def askLoad (x : Launch) (pc : Word) (p : Fin 4) : Launch := { x with loads := x.loads ++ [{ pc := pc, plane := p }] }

/-- SCHEDULER_LOAD (R178, R180, R188): the chosen block, or in a phase the best waiting block that is not resident. -/
def execSchedulerLoad (s : State) : Host.Outcome State Fault Refusal :=
  match s.here with
  | .launch l =>
    match findLaunch s l with
    | none => .next s
    | some x =>
      let go (pc : Word) (strict : Bool) : Host.Outcome State Fault Refusal :=
        match takePlane x strict with
        | some p => .next (setLaunch s l (askLoad x pc p))
        | none => .next s
      match x.st, x.choice with
      | .boundary, some pc => if haveBlock x pc then .next s else go pc false
      | .running, _ =>
        match bestRow x false (x.table.filter fun r => !haveBlock x r.pc && decide (r.pc ≠ activePc x)) with
        | some r => go r.pc true
        | none => .next s
      | _, _ => .next s
  | _ => .next s

/-! ## PHASE_END (R19, R186 to R189, R327, R351, R359) -/

/-- R188: the phase of a region has ended: no thread in flight, the region empty, no RSW pending, no cut in progress and no halt. -/
def phaseOver (s : State) (l : LaunchId) (x : Launch) : Bool :=
  x.threads.all (fun (_, y) => y.st ≠ .flight) && (regionTiles l x).all (fun t => tileEmpty (getTile s t) && !oncePending s t) && x.rsws.isEmpty && x.cut.isNone &&
  !x.halted

/-- Whether every out-stream has written what its port admitted (R291). -/
def outsWritten (x : Launch) : Bool := x.streams.all fun (p, y) => decide (p < 8) || y.queue.isEmpty

/-- As outsWritten, and every stream that has reached its end has completed (R259). -/
def outsDone (x : Launch) : Bool :=
  x.streams.all fun (p, y) => decide (p < 8) || y.words.isEmpty ||
    (y.queue.isEmpty && (y.complete || (decide (y.next < strCount y) && !y.closed)))

/-- GUARD records of a phase boundary (R327). -/
def guardRecords (s : State) (ts : List TileId) : State :=
  ts.foldl (fun s t =>
    let x := getTile s t
    let s1 := x.drops.foldl (fun s (k, n) =>
      let net := nets.getD (k / 4) .vector
      let d := dirs.getD (k % 4) .n
      guardRec s t net d ((guardOf s t net d).getD 1) n) s
    if x.drops.isEmpty then s1 else updTile s1 t fun x => { x with drops := [] }) s

/-- LAUNCH_END (R186, R351): the last phase's interval record, LAUNCHDONE, the region freed, the context idle after its last launch (R332). -/
def launchEnd (s : State) (l : LaunchId) : State :=
  match findLaunch s l with
  | none => s
  | some x =>
    let s1 := recL (intervalRec s l x) l { kind := 0x22, p0 := word (flag x.exact 0) }
    let s2 := delLaunch (freeTiles s1 l x) l
    let ctx := x.lr.ctx
    if (launchesOf s2 l.die).any fun (_, y) => y.lr.ctx = ctx then s2
    else
      let s3 := updCtx (recordWs s2 l.die ctx) l.die ctx fun z => { z with sliceEnd := s.clock }
      if ctxState s3 l.die ctx = 1 ∨ ctxState s3 l.die ctx = 2 then setCtxState s3 l.die ctx 0 else s3

/-- R382: whether a region's cluster is one of an armed pair, and its region is to be held at this boundary. -/
def pairHolds (s : State) (l : LaunchId) (x : Launch) : Bool :=
  match (regionTiles l x).head? with
  | none => false
  | some t => (getDie s l.die).armed.any fun p => p.a = pclOf t || p.b = pclOf t

/-- What follows at a phase boundary: the launch ends, the region yields (R188, R332), is held for an exchange (R382), switches by decision
(R189), or takes the block that the scheduler decides. -/
def atBoundary (s : State) (l : LaunchId) (held : Bool) : State :=
  match findLaunch s l with
  | none => s
  | some x =>
    if liveThreads x = 0 then launchEnd s l
    else if ctxState s l.die x.lr.ctx ≠ 1 then addOverrun (setLaunch s l { x with st := .boundary, choice := none }) l
    else if !held && pairHolds s l x then setLaunch s l { x with st := .boundary, choice := none, hold := some s.clock }
    else match x.dsel with
      | some (.plane p) =>
        if (getPlane x p.val).st = .invalid then
          decideBlock (loseDsel s l p) l
        else setLaunch s l { x with st := .switching p }
      | some .yield => decideBlock (setLaunch s l { x with dsel := none }) l
      | none => decideBlock s l

/-- Whether a region comes to a boundary in this cycle, or decides again at one, which a cut or a halt puts off (R357): its active block has no thread left in it, or a thread or a decision
has come to a boundary that waited for one. A launch without live threads ends once its out-streams have (R259, R291). -/
def phaseEndDue (s : State) (l : LaunchId) (x : Launch) : Bool :=
  (decide (liveThreads x ≠ 0) || outsDone x) &&
  match x.st with
  | .running => phaseOver s l x && x.drainAt.isNone
  | .boundary => x.choice.isNone && x.hold.isNone && x.cut.isNone && !x.halted && (decide (liveThreads x = 0) || !x.table.isEmpty || x.dsel.isSome)
  | _ => false

/-- PHASE_END (R188): a region comes to a phase boundary, in the first cycle in which no thread is in flight and it is empty; or a boundary that waited
for a thread or a load decides again. -/
def execPhaseEnd (s : State) : Host.Outcome State Fault Refusal :=
  match s.here with
  | .launch l =>
    match findLaunch s l with
    | none => .next s
    | some x =>
      if !phaseEndDue s l x then .next s
      else match x.st with
        | .running => .next (atBoundary (deliverDrained (guardRecords s (regionTiles l x)) l) l false)
        | _ => .next (atBoundary s l true)
  | _ => .next s

/-! ## PLANE_SWITCH (R15, R19, R146, R184, R188, R243, R291, R307) -/

/-- Queues at plane activation: empty, each LFSR at SEED rotated left by its number (R51). -/
def seedQueues (x : Tile) (p : Nat) : Assoc Queue :=
  let seed := cfgF x p 1 15
  if seed = 0 then [] else (List.range 8).map fun i => (i, { lfsr := seed.rotateLeft i })

/-- A tile activates a plane: latches, queues, operators and ports restart; a memory-port tile takes the port set and the phase start token. -/
def activateTile (x : Tile) (p : Fin 4) (ports : List RangeCopy) : Tile :=
  let mem := tileMode x p.val = 2
  { owner := x.owner, active := some p, cfg := x.cfg, queues := seedQueues x p.val, counts := x.counts, drops := x.drops,
    port := { start := mem, nextId := x.port.nextId, entries := if mem then ports else [] } }

/-- What a region at a boundary may do about a switch: activate a plane, seek the chosen block again, or give up a decision for a plane. -/
inductive Switch where
  | wait
  | take (p : Fin 4)
  | again
  | lost (p : Fin 4)
  deriving DecidableEq, Repr

/-- R189: what becomes of a decision for a plane at a boundary: the plane is taken whatever block it holds, once resident, and given up where it is
INVALID and no load is aimed at it. -/
def switchBy (x : Launch) (p : Fin 4) : Switch :=
  let b := getPlane x p.val
  if b.st = .resident then .take p else if b.st = .invalid && !aimed x p then .lost p else .wait

/-- R188, R189: the plane to be activated now. A DSEL's or DSELC's plane goes before the chosen block's, whose decision may have been made before
it in the same phase, which lasts to the switch (R19). The chosen block's is taken while it still holds that block, which is otherwise loaded
again. -/
def switchTo (x : Launch) : Switch :=
  match x.st, x.dsel, x.choice with
  | .switching _, some (.plane p), _ => switchBy x p
  | .switching p, _, c => let b := getPlane x p.val; if b.st = .resident ∧ c = some b.pc then .take p else .again
  | .boundary, some (.plane p), some _ => switchBy x p
  | .boundary, _, some pc => match planeOf x pc with | some p => .take p | none => .wait
  | _, _, _ => .wait

/-- Every tile of a region activates a plane and a new phase begins; the waiting threads of its block enter. -/
def switchPlane (s : State) (l : LaunchId) (x : Launch) (p : Fin 4) : State :=
  let ts := regionTiles l x
  let s1 := ts.foldl (fun s t => markWindows s t false) s
  let s2 := updTiles s1 ts fun t => activateTile t p x.portSet
  let s3 := ts.foldl (fun s t => markWindows s t true) s2
  let pc := (getPlane x p.val).pc
  let (thrs, y) := takeWaiting x pc
  let planes := match x.active with
    | some q => aset x.planes q.val { getPlane x q.val with last := x.phases }
    | none => x.planes
  let z : Launch :=
    { y with planes := planes, active := some p, phases := x.phases + 1, phaseAt := s.clock, cycs := 0, classes := [], quiet := 0, qwcDone := false,
             decided := false, dsel := none, choice := none, first := [], st := .running, hold := none, loads := x.loads }
  let s4 := setLaunch s3 l z
  enterThreads s4 l thrs

/-- PLANE_SWITCH (R188, R189, R291, R351, R357): once the plane is resident and every store of the ended phase has performed; a cut in progress or a
halt keeps the phase from ending. The ended phase's interval record is written. -/
def execPlaneSwitch (s : State) : Host.Outcome State Fault Refusal :=
  match s.here with
  | .launch l =>
    match findLaunch s l with
    | none => .next s
    | some x => match switchTo x with
      | .take p =>
        if outsWritten x && decide (ctxState s l.die x.lr.ctx = 1) && x.cut.isNone && !x.halted then .next (switchPlane (intervalRec s l x) l x p)
        else .next s
      | .again => .next (setLaunch s l { x with st := .boundary })
      | .lost p => .next (loseDsel s l p)
      | .wait => .next s
  | _ => .next s

/-! ## RSW_APPLY (R190) -/

/-- The fields of a request written at the tiles they name. -/
def rswWrite (s : State) (d : Fin 4) (p : Fin 4) (cmds : List (Nat × Nat × BitVec 16)) : State :=
  cmds.foldl (fun s (k, fn, v) => updTile s { tileOfKey k with die := d } fun x => setField x p.val 1 fn v) s

/-- R190: no link of a region carries a token. -/
def linksEmpty (s : State) (l : LaunchId) (x : Launch) : Bool := (regionTiles l x).all fun t => (getTile s t).links.all fun e => e.2.isEmpty

/-- The switch box whose fields a command writes (R50): F0 to F2 the vector network's, F3 and F4 the scalar one's, F5 the control one's. -/
def rswNet (fn : Nat) : Net := if fn < 3 then .vector else if fn < 5 then .scalar else .control

/-- The part of a request at one tile; a hot write is ready when the boxes that it writes forward nothing: two commands to one tile take effect in
one cycle (R190). -/
def rswPart (r : RswReq) (k : Nat) : List (Nat × Nat × BitVec 16) := r.cmds.filter fun c => c.1 = k
def rswIdle (s : State) (x : Tile) (cmds : List (Nat × Nat × BitVec 16)) : Bool := cmds.all fun c => boxIdle s x (rswNet c.2.1)

/-- The oldest request, where it can take effect in this cycle: all of it, or its part at some tile. -/
def rswOwed (s : State) (l : LaunchId) (x : Launch) : Bool :=
  match x.rsws with
  | [] => false
  | r :: _ => if r.hot then r.cmds.any fun c => rswIdle s (getTile s { tileOfKey c.1 with die := l.die }) (rswPart r c.1) else linksEmpty s l x

/-- RSW_APPLY: in normal mode all of a request in a cycle in which no link of the region carries a token; in hot mode a tile's part when its
switch boxes forward nothing; they forward nothing more in that cycle. -/
def execRswApply (s : State) : Host.Outcome State Fault Refusal :=
  match s.here with
  | .launch l =>
    match findLaunch s l with
    | none => .next s
    | some x => match x.rsws with
      | [] => .next s
      | r :: rest =>
        if !r.hot && linksEmpty s l x then
          .next (setLaunch (rswWrite s l.die r.plane r.cmds) l { x with rsws := rest })
        else .next s
  | .tile t =>
    match ownerOf s t with
    | none => .next s
    | some l => match findLaunch s l with
      | none => .next s
      | some x => match x.rsws with
        | [] => .next s
        | r :: rest =>
          let mine := rswPart r (tileKey t)
          if r.hot && !mine.isEmpty && rswIdle s (getTile s t) mine then
            let left := r.cmds.filter fun c => c.1 ≠ tileKey t
            let s1 := updTile s t fun y => { y with used := mine.foldl (fun m c => aset m (rswUsed (rswNet c.2.1)) s.clock) y.used }
            .next (setLaunch (rswWrite s1 l.die r.plane mine) l { x with rsws := if left.isEmpty then rest else { r with cmds := left } :: rest })
          else .next s
  | _ => .next s

/-! ## Modules (R182) -/

/-- R182: the planes of a region that hold a block of a module, active ones too, are invalid; a load of such a block that runs is broken off. -/
def unloadPlanes (inside : Word → Bool) (x : Launch) : Launch :=
  ([0, 1, 2, 3] : List (Fin 4)).foldl (fun x p =>
    let b := getPlane x p.val
    match theLoad x p with
    | some y => if inside y.pc then endLoad x p { b with st := .invalid } else x
    | none => if b.st = .resident && inside b.pc then { x with planes := aset x.planes p.val { b with st := .invalid } } else x) x

/-- MODULE_UNLOAD (R182): the last launch of an unloading module has ended. -/
def execModuleUnload (s : State) : Host.Outcome State Fault Refusal :=
  match s.here with
  | .item d k =>
    match afind (getDie s d).modules k with
    | none => .next s
    | some m =>
      if m.st = modUnloading ∧ !((launchesOf s d).any fun (_, x) => x.mod = some k) then
        let s1 := cfgInvalidate s d m.ctx m.base m.size
        let inside (pc : Word) : Bool := decide (m.base.toNat ≤ pc.toNat ∧ pc.toNat < m.base.toNat + m.size)
        let s2 := (launchesOf s1 d).foldl (fun s (l, x) =>
          if x.lr.ctx = m.ctx then
            setLaunch s l (unloadPlanes inside x)
          else s) s1
        let s3 := updDie s2 d fun x => { x with modules := aset x.modules k { m with st := 0 } }
        .next (raiseRec s3 ⟨d, m.cl⟩ { kind := 0x23, ctx := m.ctx, p0 := word (k * 65536 + m.gen.toNat) })
      else .next s
  | _ => .next s

end Sys2Proof.Machine
end

