-- ==== Sys2Proof/Machine/Streams.lean ====
section
/-! DEFINITION. Streams (R257 to R259, R312, R432): the moves of in-ports and out-ports. -/
namespace Sys2Proof.Machine

/-- Fields of a bound descriptor (R257). -/
def strBase (y : Stream) : Word := y.words.getD 0 0
def strStride (y : Stream) : Int := sint 32 (fld (y.words.getD 2 0) 31 0)
def strThr (y : Stream) : BitVec 8 := (y.words.getD 3 0).extractLsb' 16 8
def strFmt (y : Stream) : BitVec 4 := (y.words.getD 3 0).extractLsb' 12 4
def strEvr (y : Stream) : Bool := wbit (y.words.getD 3 0) 1
def strCnt (y : Stream) : Word := y.words.getD 4 0

/-- The address of token k (R257). -/
def strAddr (y : Stream) (k : Nat) : Word := strBase y + BitVec.ofInt 64 (64 * (strStride y * k))

def getStream (x : Launch) (p : Nat) : Stream := aget {} x.streams p
def updStream (s : State) (l : LaunchId) (p : Nat) (f : Stream → Stream) : State :=
  updLaunch s l fun x => { x with streams := aupd {} x.streams p f }

/-- The token that a stored header and payload make (R74, R257); its weight is as every unit reads it (R71). -/
def tokOfHeader (h : Word) (p : Payload) : VTok :=
  { valid := h.extractLsb' 48 16, wt := wread (h.extractLsb' 32 16), key := h.extractLsb' 16 16, kind := h.extractLsb' 12 4, fmt := h.extractLsb' 8 4,
    thr := h.extractLsb' 0 8, pay := p }

/-- A FAULT record of a binding, counted at the tile of its port's link (R272, R344). -/
def strFault (s : State) (l : LaunchId) (x : Launch) (p : Fin 16) (r : Rec) : State :=
  match edgeOf s l x p.val with
  | some (t, _) => countEv (recL s l r) t 0x41 p.val 1
  | none => recL s l r

/-- How an access of a stream through the launch's port set goes: at a physical address, refused by an entry or by a failed answer, or it
waits for the answer of a request. -/
inductive StrAcc where
  | at_ (pa : Nat)
  | denied (entry : Nat)
  | failed
  | waits
  deriving DecidableEq, Repr

/-- R310, R312: an access of a binding translates; a fault opens a request, or joins the one that is open. -/
def strAccess (s : State) (l : LaunchId) (x : Launch) (p : Fin 16) (va : Word) (need : Need) (thr : BitVec 8) : State × StrAcc :=
  let y := getStream x p.val
  let waits := match y.req with | some w => reqStands s l.die w | none => false
  let failed := match y.req with | some w => reqFailed s l.die w.2 | none => false
  if waits then (s, .waits)
  else if failed then (updStream s l p.val fun y => { y with req := none }, .failed)
  else
    match translate s l.die (portTable x.portSet) x.lr.ctx va need with
    | .ok pa _ map => (markAcc (updStream s l p.val fun y => { y with req := none }) l.die x.lr.ctx map, .at_ pa)
    | .perm k => (updStream s l p.val fun y => { y with req := none }, .denied k)
    | t =>
      let r := { reqOf x.lr.ctx va (.stream l p) l.handle (if p.val < 8 then 1 else 2) t with thr := thr }
      let (s1, w) := partyFault s l.die (fun q => q = .stream l p) r (fun r s => strFault s l x p r)
      (updStream s1 l p.val fun y => { y with req := w }, .waits)

/-- The FAULT record of a refusal for want of a permission (R258, R259). -/
def strPerm (s : State) (l : LaunchId) (x : Launch) (p : Fin 16) (va : Word) (entry : Nat) (thr : BitVec 8) : State :=
  strFault s l x p { kind := 0x30, thr := thr, p0 := va, p1 := faultP1 0xFF (ctxGen s l.die x.lr.ctx) entry (if p.val < 8 then 1 else 2) 2 }

/-! ## IN_STREAM_INJECT (R258) -/

/-- The accesses of one token: its granule, and its header's granule. -/
def strBoth (s : State) (l : LaunchId) (x : Launch) (p : Fin 16) (need : Need) (thr : BitVec 8) : State × StrAcc × StrAcc :=
  let y := getStream x p.val
  let va := strAddr y y.next
  match strAccess s l x p va need thr with
  | (s1, .at_ a) =>
    if strHdr y then
      match strAccess s1 l x p (va + 64) need thr with
      | (s2, r) => (s2, .at_ a, r)
    else (s1, .at_ a, .at_ a)
  | (s1, r) => (s1, r, r)

/-- The token that a place holds; a poisoned granule gives no valid lane, and its thread is inexact (R429). -/
def strTok (s : State) (y : Stream) (a h : Nat) : VTok :=
  let p := payloadOf (memRead s (a / 64 * 64) 64)
  let t : VTok :=
    if strHdr y then tokOfHeader (memWord s (h / 64 * 64)) p
    else { valid := 0xFFFF, wt := wOne, key := 0, kind := kData, fmt := strFmt y, thr := strThr y, pay := p }
  if isPoison s a then { t with valid := 0, pay := if t.kind = kData then 0 else p } else t

/-- The next token of an in-stream goes in at its port. -/
def inject (s : State) (l : LaunchId) (x : Launch) (p : Fin 16) (t : TileId) (d : Dir) : State :=
  let y := getStream x p.val
  let va := strAddr y y.next
  let thr := strThr y
  match strBoth s l x p .r thr with
  | (s1, .at_ a, .at_ h) =>
    let s2 := touch (touch s1 (srcOf t) a x.lr.ctx false) (srcOf t) h x.lr.ctx false
    let tok := strTok s2 y a h
    let s3 := if isPoison s2 a then inexact s2 t tok.thr else s2
    pushLink (updStream s3 l p.val fun y => { y with next := y.next + 1 }) t .vector d (.vec tok)
  | (s1, .denied k, _) => updStream (strPerm s1 l x p va k thr) l p.val fun y => { y with stopped := true }
  | (s1, .at_ _, .denied k) => updStream (strPerm s1 l x p (va + 64) k thr) l p.val fun y => { y with stopped := true }
  | (s1, .failed, _) | (s1, .at_ _, .failed) => updStream s1 l p.val fun y => { y with stopped := true }
  | (s1, _, _) => s1

/-- Where an in-port that may inject now puts its token: the phase runs, the edge gate is open, tokens are left (R258). -/
def inReady (s : State) (l : LaunchId) (x : Launch) (p : Fin 16) : Option (TileId × Dir) :=
  let y := getStream x p.val
  if 8 ≤ p.val ∨ y.words.isEmpty ∨ streamSpent y ∨ x.st ≠ .running ∨ gateShut s l x ∨ x.halted then none else edgeOf s l x p.val

/-- Whether a port has injected in this cycle. -/
def injectedNow (s : State) (t : TileId) (d : Dir) : Bool := (aget [] (getTile s t).links (linkKey .vector d)).any fun e => e.2 = s.clock

/-- An in-port injects one token per cycle (R258): whether it still owes this cycle's, its granules being there to read. -/
def injectOwed (s : State) (l : LaunchId) (x : Launch) (p : Fin 16) : Bool :=
  match inReady s l x p with
  | none => false
  | some (t, d) =>
    let y := getStream x p.val
    let there (va : Word) : Bool := match translate s l.die (portTable x.portSet) x.lr.ctx va .r with | .ok .. => true | _ => false
    !injectedNow s t d && y.req.isNone && there (strAddr y y.next) && (!strHdr y || there (strAddr y y.next + 64))

/-- IN_STREAM_INJECT (R184, R258): an in-port injects a token, at most one a cycle, while the phase runs and the edge gate is open. At a launch,
entry tokens that the scheduler holds go in. -/
def execInStreamInject (s : State) : Host.Outcome State Fault Refusal :=
  match s.here with
  | .edge l p =>
    match findLaunch s l with
    | none => .next s
    | some x =>
      match inReady s l x p with
      | none => .next s
      | some (t, d) => if injectedNow s t d then .next s else .next (inject s l x p t d)
  | .launch l =>
    match findLaunch s l with
    | none => .next s
    | some x => if x.st = .running then .next (injectEntries x.entering.length l s) else .next s
  | _ => .next s

/-! ## OUT_STREAM_WRITE (R259) -/

/-- The head of an out-port's queue leaves it; the stream goes on `n` places. A request to close drops at half the mark. -/
def outPop (s : State) (l : LaunchId) (p : Nat) (n : Nat) : State :=
  updStream s l p fun y =>
    let z := { y with queue := y.queue.tail, next := y.next + n }
    { z with close := z.close && decide (28 < outOcc z) }

/-- A granule written at its home slice. -/
def strPut (s : State) (x : Launch) (t : Option TileId) (pa : Nat) (bs : List Byte) : State :=
  setPoison (memWrite (touch s (t.bind srcOf) pa x.lr.ctx true) (pa / 64 * 64) bs) pa false

/-- A token at the head that has a place. -/
def outPlace (s : State) (l : LaunchId) (x : Launch) (p : Fin 16) (tok : Tok) (v : VTok) : State :=
  let y := getStream x p.val
  let va := strAddr y y.next
  let tile := (edgeOf s l x p.val).map (·.1)
  let lose (s : State) : State := updThread (outPop s l p.val 1) l tok.thr fun y => { y with inexact := true }
  match strBoth s l x p .w tok.thr with
  | (s1, .at_ a, .at_ h) =>
    let s2 := strPut s1 x tile a (payloadBytes v.pay)
    let s3 := if strHdr y then strPut s2 x tile h (bytesOf 64 (headerWord v).toNat) else s2
    outPop s3 l p.val 1
  | (s1, .denied k, _) => lose (strPerm s1 l x p va k tok.thr)
  | (s1, .at_ _, .denied k) => lose (strPerm s1 l x p (va + 64) k tok.thr)
  | (s1, .failed, _) | (s1, .at_ _, .failed) => lose s1
  | (s1, _, _) => s1

/-- A token at the head of an out-port's queue. -/
def outHead (s : State) (l : LaunchId) (x : Launch) (p : Fin 16) (tok : Tok) : State :=
  let y := getStream x p.val
  let full := decide (strCount y ≤ y.next)
  match tok with
  | .vec v =>
    if strHdr y || isRecord tok then
      if full then overCount (outPop s l p.val 0) l p.val else outPlace s l x p tok v
    else if v.kind = kGap && !full then outPop s l p.val v.key.toNat
    else outPop s l p.val 0
  | _ => outPop s l p.val (if full then 0 else 1)

/-- OUT_STREAM_WRITE (R259): an out-port's oldest token is written at its place, skips places, or is discarded. A binding on an edge that is no
port of the active block goes on writing what it holds. -/
def execOutStreamWrite (s : State) : Host.Outcome State Fault Refusal :=
  match s.here with
  | .edge l p =>
    match findLaunch s l with
    | none => .next s
    | some x =>
      let y := getStream x p.val
      match y.queue with
      | [] => .next s
      | tok :: _ => if p.val < 8 ∨ y.words.isEmpty then .next s else .next (outHead s l x p tok)
  | _ => .next s

/-! ## STREAM_COMPLETE (R259, R403, R432) -/

/-- R403: a completion counter gains 1 and its granule becomes full. -/
def bumpAt (s : State) (src : Option (Fin 4 × Fin 64)) (ctx : BitVec 12) (pa : Nat) : State :=
  settle (setFull (memSetWord (touch s src pa ctx true) pa (memWord s pa + 1)) pa true)

/-- STREAM_COMPLETE (R259): the COUNT-th token has performed, or SCLOSE has been given and what was admitted is written. -/
def execStreamComplete (s : State) : Host.Outcome State Fault Refusal :=
  match s.here with
  | .edge l p =>
    match findLaunch s l with
    | none => .next s
    | some x =>
      let y := getStream x p.val
      if p.val < 8 ∨ y.words.isEmpty ∨ y.complete ∨ !(decide (strCount y ≤ y.next) || (y.closed && y.queue.isEmpty)) then .next s
      else
        let finish (s : State) : State :=
          let s1 := updStream s l p.val fun y => { y with complete := true, req := none }
          if strEvr y then recL s1 l { kind := 0x25, p0 := word p.val } else s1
        if strCnt y = 0 then .next (finish s)
        else match strAccess s l x p (strCnt y) .w 0 with
          | (s1, .at_ pa) => .next (finish (bumpAt s1 ((edgeOf s l x p.val).bind fun e => srcOf e.1) x.lr.ctx pa))
          | (s1, .denied k) => .next (finish (strPerm s1 l x p (strCnt y) k 0))
          | (s1, .failed) => .next (finish s1)
          | (s1, .waits) => .next s1
  | _ => .next s

end Sys2Proof.Machine
end

