-- ==== Sys2Proof/Machine/CoreBase.lean ====
section
/-! DEFINITION. The control core (R263 to R265, R268, R309): how a word executes, its fetch checks, its addresses, its store buffer. -/
namespace Sys2Proof.Machine

/-- What the word of a core comes to: it waits, it raises a synchronous trap (in the state given), it is done and the next word follows, or
it goes to another address. -/
inductive CoreRes where
  | wait
  | trap (code : Nat) (tval : Word) (s : State)
  | done (s : State)
  | jump (pc : Word) (s : State)
  deriving DecidableEq, Repr

/-- Trap causes (R268). -/
def trIllegal : Nat := 1
def trExt : Nat := 2
def trMisalign : Nat := 3
def trPriv : Nat := 4
def trSw : Nat := 5
def trRange : Nat := 6
def trPerm : Nat := 7
def trTier : Nat := 8
def trEcc : Nat := 12
def trFetch : Nat := 13

/-- First address that is not local memory (R264). -/
def localEnd : Nat := 0x40000

/-- A word of local memory. -/
def locWord (x : Cluster) (a : Nat) : Word := word (ofBytes (readBytes x.loc a 8))

/-- What a local access of bytes meets: a tenant at or above LMLIM, an uncorrectable error (R268). `locBad` lists 8-byte words. -/
def locTrap (x : Cluster) (a : Word) (n : Nat) : Option Nat :=
  if !x.mode && decide (x.lmlim.toNat < a.toNat + n) then some trPerm
  else if x.locBad.any fun k => decide (8 * k < a.toNat + n ∧ a.toNat < 8 * k + 8) then some trEcc
  else none

/-- What the fetch of one word meets. -/
def fetchWordTrap (x : Cluster) (a : Word) : Option (Nat × Word) :=
  if localEnd ≤ a.toNat then some (trFetch, a) else (locTrap x a 8).map fun k => (k, a)

/-- What the fetch of an instruction meets, its extension word included (R45). -/
def fetchTrap (x : Cluster) (long : Bool) : Option (Nat × Word) :=
  match fetchWordTrap x x.pc with
  | some t => some t
  | none => if long then fetchWordTrap x (x.pc + 8) else none

/-- Bytes of an instruction (R45). -/
def coreSize (long : Bool) : Word := if long then 16 else 8

/-- Whether a word names a register whose load has not performed yet (R265). -/
def coreBusy (x : Cluster) (w : CWord) : Bool :=
  x.loads.any fun p => p.xd.val ≠ 0 && (p.xd = w.xd || p.xd = w.xa || p.xd = w.xb)

def setPc (s : State) (c : ClusterId) (pc : Word) : State := updCl s c fun x => { x with pc := pc }

/-- A word that a running core executes: fetch checks first, then its meaning (R264, R268). A synchronous trap changes nothing else; only
SWTRAP's EPC is the address after the word. -/
def atCore (w : CWord) (s : State) (go : ClusterId → Cluster → State → CoreRes) : Host.Outcome State Fault Refusal :=
  match s.here with
  | .core c =>
    let x := getCl s c
    if x.run ≠ .running then .next s
    else match fetchTrap x w.long with
      | some (code, va) => .next (takeTrap s c code va false x.pc)
      | none =>
        if coreBusy x w then .next s
        else match go c x s with
          | .wait => .next s
          | .trap code tval s' => .next (takeTrap s' c code tval false (if code = trSw then x.pc + coreSize w.long else x.pc))
          | .done s' => .next (setPc s' c (x.pc + coreSize w.long))
          | .jump pc s' => .next (setPc s' c pc)
  | _ => .fault .wrongPlace

/-- ILLEGAL of a word of an instruction (R268): TVAL is the C word. -/
def illegalOf (op : CoreOp) (w : CWord) (s : State) : CoreRes := .trap trIllegal (wordC op w) s
def privOf (op : CoreOp) (w : CWord) (s : State) : CoreRes := .trap trPriv (wordC op w) s

/-- Operand B (R93). -/
def opB (x : Cluster) (w : CWord) : Word := getX x w.xb + w.imm
/-- A data address (R279). -/
def coreAddr (x : Cluster) (w : CWord) : Word := getX x w.xa + w.imm
/-- A register written. -/
def putX (s : State) (c : ClusterId) (r : Fin 32) (v : Word) : State := updCl s c fun x => setX x r v

/-! ## Addresses (R264, R268, R309, R312) -/

/-- Where a core access goes: local memory, a physical address (with the map index it used), or a trap in a state. -/
inductive Where where
  | loc
  | glob (pa : Nat) (map : Option Nat)
  | trap (code : Nat) (s : State)
  deriving DecidableEq, Repr

/-- R312: a TIER trap of a core also opens a request, with no record of its own. -/
def coreTier (s : State) (c : ClusterId) (ctx : BitVec 12) (va : Word) (k i f : Nat) : State :=
  (partyFault s c.die (fun p => p = .core c) (reqOf ctx va (.core c) 0 0 (.tier k i f)) fun _ s => s).1

/-- Where an access of `n` bytes that lie in one granule goes. -/
def coreWhere (s : State) (c : ClusterId) (x : Cluster) (a : Word) (n : Nat) (need : Need) : Where :=
  if a.toNat < localEnd then
    match locTrap x a n with
    | some k => if k = trEcc && need = .w then .loc else .trap k s
    | none => .loc
  else match translate s c.die (coreTable x) x.ctx a need with
    | .ok pa _ map => .glob pa map
    | .miss => .trap trRange s
    | .perm _ => .trap trPerm s
    | .tier k i f => .trap trTier (coreTier s c x.ctx a k i f)

/-! ## The store buffer (R265) -/

/-- The bytes of an access that the buffer holds, the youngest entry winning. -/
def sbCover (sb : List SbEntry) (pa n : Nat) : List (Option Byte) :=
  (List.range n).map fun i => sb.foldl (fun b e => if e.pa ≤ pa + i ∧ pa + i < e.pa + e.bytes.length then e.bytes[pa + i - e.pa]? else b) none

/-- Every earlier access of a core has performed (R281, R282). -/
def coreIdle (x : Cluster) : Bool := x.sb.isEmpty && x.loads.isEmpty

/-- Stores are 16 at most. -/
def sbRoom (x : Cluster) : Bool := decide (x.sb.length < 16)

/-- A store of bytes by a core: at once in local memory, into the buffer otherwise. Room has been tested. -/
def coreStore (s : State) (c : ClusterId) (a : Word) (wh : Where) (bs : List Byte) : State :=
  match wh with
  | .loc => updCl s c fun x => { x with loc := writeBytes x.loc a.toNat bs }
  | .glob pa map =>
    let x := getCl s c
    let (n, s1) := fresh (markAcc s c.die x.ctx map)
    setCl s1 c { getCl s1 c with sb := x.sb ++ [⟨pa, bs, x.ctx, n⟩] }
  | .trap _ _ => s

/-! ## Descriptor and record reads (R199, R227, R261, R296) -/

/-- What reading a descriptor comes to: it waits for earlier loads, it traps, or its words. -/
inductive DescRead where
  | wait
  | trap (code : Nat) (tval : Word) (s : State)
  | words (ws : List Word) (s : State)
  deriving DecidableEq, Repr

/-- The words of a line. -/
def lineWords (bs : List Byte) (n : Nat) : List Word := (List.range n).map fun i => word (ofBytes ((bs.drop (8 * i)).take 8))

/-- The `n` 64-byte granules at an aligned address, read in address order as loads of the core; each byte that the store buffer holds is taken
from it (R296). -/
def readDesc (c : ClusterId) : Nat → Word → State → DescRead
  | 0, _, s => .words [] s
  | n + 1, a, s =>
    let x := getCl s c
    match coreWhere s c x a 64 .r with
    | .trap k s1 => .trap k a s1
    | .loc =>
      match readDesc c n (a + 64) s with
      | .words ws s2 => .words (lineWords (readBytes x.loc a.toNat 64) 8 ++ ws) s2
      | r => r
    | .glob pa map =>
      if !x.loads.isEmpty then .wait
      else
        let old := if isPoison s pa then List.replicate 64 0 else memRead s pa 64
        let bs := (sbCover x.sb pa 64).zipWith (fun b o => b.getD o) old
        match readDesc c n (a + 64) (markAcc (touch s (some (c.die, pclOfLcl s c)) pa x.ctx false) c.die x.ctx map) with
        | .words ws s2 => .words (lineWords bs 8 ++ ws) s2
        | r => r

/-- A word that reads a descriptor at X[XA]: an address that is not 64-byte aligned gives status -1 (R198). -/
def withDesc (w : CWord) (s : State) (n : Nat) (go : ClusterId → Cluster → List Word → State → CoreRes) : Host.Outcome State Fault Refusal :=
  atCore w s fun c x s =>
    let a := getX x w.xa
    if fld a 5 0 ≠ 0 then .done (putX s c w.xd (status 1))
    else match readDesc c n a s with
      | .wait => .wait
      | .trap k va s1 => .trap k va s1
      | .words ws s1 => go c x ws s1

/-! ## ILLEGAL, EXT_TARGET, FETCH (R45, R56, R264, R268) -/

/-- A word of a core that is no instruction. -/
def badWord (s : State) (code : Nat) (tval : Cluster → Word) : Host.Outcome State Fault Refusal :=
  match s.here with
  | .core c =>
    let x := getCl s c
    if x.run ≠ .running then .next s
    else match fetchTrap x false with
      | some (k, va) => .next (takeTrap s c k va false x.pc)
      | none => .next (takeTrap s c code (tval x) false x.pc)
  | .slot _ | .router _ _ | .array _ _ => .next s
  | _ => .fault .wrongPlace

/-- ILLEGAL (R56): at a core, a trap; a slot, a router operator and the array do nothing with a word that is no instruction of theirs. -/
def execIllegal (w : Word) (s : State) : Host.Outcome State Fault Refusal := badWord s trIllegal fun _ => w
/-- EXT_TARGET (R45): TVAL is the address of the word. -/
def execExtTarget (_ : Word) (s : State) : Host.Outcome State Fault Refusal := badWord s trExt fun x => x.pc
/-- FETCH (R264, R268): a fetch at or above 0x4_0000. -/
def execFetch (addr : Word) (s : State) : Host.Outcome State Fault Refusal :=
  match s.here with
  | .core c =>
    let x := getCl s c
    if x.run ≠ .running then .next s else .next (takeTrap s c trFetch addr false x.pc)
  | _ => .fault .wrongPlace

end Sys2Proof.Machine
end

