-- ==== Sys2Proof/Machine/CoreInt.lean ====
section
/-! DEFINITION. The integer family on the core (R93, R96 to R104) and its branches (R280). -/
namespace Sys2Proof.Machine

/-- R93: a result from A = X[XA], B = X[XB] + imm and C = X[XD], read before it is written. -/
def coreVal (w : CWord) (s : State) (f : Nat → Nat → Nat → Nat) : Host.Outcome State Fault Refusal :=
  atCore w s fun c x s => .done (putX s c w.xd (word (f (getX x w.xa).toNat (opB x w).toNat (getX x w.xd).toNat)))

/-- NOP (R103). -/
def execNopCore (w : CWord) (s : State) : Host.Outcome State Fault Refusal := atCore w s fun _ _ s => .done s
/-- MOV (R103). -/
def execMovCore (w : CWord) (s : State) : Host.Outcome State Fault Refusal := coreVal w s fun a _ _ => a
/-- LDI (R103). -/
def execLdiCore (w : CWord) (s : State) : Host.Outcome State Fault Refusal := coreVal w s fun _ b _ => b
/-- ADD (R96). -/
def execAddCore (w : CWord) (s : State) : Host.Outcome State Fault Refusal := coreVal w s fun a b _ => iadd 64 true a b
/-- SUB (R96). -/
def execSubCore (w : CWord) (s : State) : Host.Outcome State Fault Refusal := coreVal w s fun a b _ => isub 64 true a b
/-- ADDS (R96). -/
def execAddsCore (w : CWord) (s : State) : Host.Outcome State Fault Refusal := coreVal w s fun a b _ => iadds 64 true a b
/-- SUBS (R96). -/
def execSubsCore (w : CWord) (s : State) : Host.Outcome State Fault Refusal := coreVal w s fun a b _ => isubs 64 true a b
/-- MUL (R96). -/
def execMulCore (w : CWord) (s : State) : Host.Outcome State Fault Refusal := coreVal w s fun a b _ => imul 64 true a b
/-- MULH (R96). -/
def execMulhCore (w : CWord) (s : State) : Host.Outcome State Fault Refusal := coreVal w s fun a b _ => imulh 64 true a b
/-- MAD (R96). -/
def execMadCore (w : CWord) (s : State) : Host.Outcome State Fault Refusal := coreVal w s fun a b c => imad 64 true a b c
/-- MIN (R96). -/
def execMinCore (w : CWord) (s : State) : Host.Outcome State Fault Refusal := coreVal w s fun a b _ => imin 64 true a b
/-- MAX (R96). -/
def execMaxCore (w : CWord) (s : State) : Host.Outcome State Fault Refusal := coreVal w s fun a b _ => imax 64 true a b
/-- ABS (R96). -/
def execAbsCore (w : CWord) (s : State) : Host.Outcome State Fault Refusal := coreVal w s fun a _ _ => iabs 64 true a
/-- NEG (R96). -/
def execNegCore (w : CWord) (s : State) : Host.Outcome State Fault Refusal := coreVal w s fun a _ _ => ineg 64 true a
/-- AND (R98). -/
def execAndCore (w : CWord) (s : State) : Host.Outcome State Fault Refusal := coreVal w s fun a b _ => iand 64 a b
/-- OR (R98). -/
def execOrCore (w : CWord) (s : State) : Host.Outcome State Fault Refusal := coreVal w s fun a b _ => ior 64 a b
/-- XOR (R98). -/
def execXorCore (w : CWord) (s : State) : Host.Outcome State Fault Refusal := coreVal w s fun a b _ => ixor 64 a b
/-- ANDN (R98). -/
def execAndnCore (w : CWord) (s : State) : Host.Outcome State Fault Refusal := coreVal w s fun a b _ => iandn 64 a b
/-- NOT (R98). -/
def execNotCore (w : CWord) (s : State) : Host.Outcome State Fault Refusal := coreVal w s fun a _ _ => inot 64 a
/-- SHL (R98). -/
def execShlCore (w : CWord) (s : State) : Host.Outcome State Fault Refusal := coreVal w s fun a b _ => ishl 64 a b
/-- SHR (R98). -/
def execShrCore (w : CWord) (s : State) : Host.Outcome State Fault Refusal := coreVal w s fun a b _ => ishr 64 a b
/-- SAR (R98). -/
def execSarCore (w : CWord) (s : State) : Host.Outcome State Fault Refusal := coreVal w s fun a b _ => isar 64 a b
/-- ROL (R98). -/
def execRolCore (w : CWord) (s : State) : Host.Outcome State Fault Refusal := coreVal w s fun a b _ => irol 64 a b
/-- CLZ (R99). -/
def execClzCore (w : CWord) (s : State) : Host.Outcome State Fault Refusal := coreVal w s fun a _ _ => iclz 64 a
/-- CTZ (R99). -/
def execCtzCore (w : CWord) (s : State) : Host.Outcome State Fault Refusal := coreVal w s fun a _ _ => ictz 64 a
/-- POPC (R99). -/
def execPopcCore (w : CWord) (s : State) : Host.Outcome State Fault Refusal := coreVal w s fun a _ _ => ipopc 64 a
/-- BREV (R99). -/
def execBrevCore (w : CWord) (s : State) : Host.Outcome State Fault Refusal := coreVal w s fun a _ _ => ibrev 64 a
/-- BFX (R100). -/
def execBfxCore (w : CWord) (s : State) : Host.Outcome State Fault Refusal := coreVal w s fun a b _ => ibfx 64 false a (b % 65536)
/-- BFXS (R100). -/
def execBfxsCore (w : CWord) (s : State) : Host.Outcome State Fault Refusal := coreVal w s fun a b _ => ibfx 64 true a (b % 65536)
/-- BFI (R100). -/
def execBfiCore (w : CWord) (s : State) : Host.Outcome State Fault Refusal := coreVal w s fun a b c => ibfi 64 a (b % 65536) c
/-- CMP (R101): all ones when the condition holds. -/
def execCmpCore (w : CWord) (s : State) : Host.Outcome State Fault Refusal :=
  coreVal w s fun a b _ => if icond 64 (condOfCode w.aux) a b then 2 ^ 64 - 1 else 0
/-- SEL (R102). -/
def execSelCore (w : CWord) (s : State) : Host.Outcome State Fault Refusal := coreVal w s fun a b c => if c ≠ 0 then a else b
/-- DIV (R104). -/
def execDiv (w : CWord) (s : State) : Host.Outcome State Fault Refusal := coreVal w s fun a b _ => idiv a b
/-- DIVU (R104). -/
def execDivu (w : CWord) (s : State) : Host.Outcome State Fault Refusal := coreVal w s fun a b _ => idivu a b
/-- REM (R104). -/
def execRem (w : CWord) (s : State) : Host.Outcome State Fault Refusal := coreVal w s fun a b _ => irem a b
/-- REMU (R104). -/
def execRemu (w : CWord) (s : State) : Host.Outcome State Fault Refusal := coreVal w s fun a b _ => iremu a b

/-! ## Branches (R280) -/

/-- A taken branch: a target that is no multiple of 8 raises MISALIGN before any register changes; `link` is the register that takes the
address after the branch. -/
def branchTo (c : ClusterId) (x : Cluster) (w : CWord) (link : Fin 32) (t : Word) (s : State) : CoreRes :=
  if fld t 2 0 ≠ 0 then .trap trMisalign t s else .jump t (putX s c link (x.pc + coreSize w.long))

/-- BC (R280). -/
def execBc (w : CWord) (s : State) : Host.Outcome State Fault Refusal :=
  atCore w s fun c x s =>
    if icond 64 (condOfCode w.aux) (getX x w.xa).toNat (getX x w.xb).toNat then branchTo c x w 0 (x.pc + w.imm) s else .done s
/-- J (R280). -/
def execJ (w : CWord) (s : State) : Host.Outcome State Fault Refusal := atCore w s fun c x s => branchTo c x w 0 (x.pc + w.imm) s
/-- JAL (R280). -/
def execJal (w : CWord) (s : State) : Host.Outcome State Fault Refusal := atCore w s fun c x s => branchTo c x w w.xd (x.pc + w.imm) s
/-- JR (R280). -/
def execJr (w : CWord) (s : State) : Host.Outcome State Fault Refusal := atCore w s fun c x s => branchTo c x w w.xd (coreAddr x w) s

end Sys2Proof.Machine
end

