-- ==== Sys2Proof/Machine/CoreMem.lean ====
section
/-! DEFINITION. Loads, stores and AMO of the core (R265, R279), FENCE (R282), and the moves DRAIN and CORE_READ (R288). -/
namespace Sys2Proof.Machine

/-- A value of `n` bytes as a register takes it: sign-extended when TY is 0 (R279). -/
def loadVal (sx : Bool) (bs : List Byte) : Word :=
  let v := ofBytes bs
  if sx then BitVec.ofInt 64 (sint (8 * bs.length) v) else word v

/-- A load of `n` bytes (R265, R279): at once from local memory; from the buffer when it holds every byte; it waits while the buffer holds some
of them; otherwise it issues, and CORE_READ performs it. -/
def coreLoad (w : CWord) (n : Nat) (s : State) : Host.Outcome State Fault Refusal :=
  atCore w s fun c x s =>
    let a := coreAddr x w
    let sx := w.ty = 0
    if a.toNat % n ≠ 0 then .trap trMisalign a s
    else match coreWhere s c x a n .r with
      | .trap k s1 => .trap k a s1
      | .loc => .done (putX s c w.xd (loadVal sx (readBytes x.loc a.toNat n)))
      | .glob pa map =>
        let cov := sbCover x.sb pa n
        if cov.all (·.isSome) then
          if x.loads.isEmpty then .done (putX (markAcc s c.die x.ctx map) c w.xd (loadVal sx (cov.filterMap id))) else .wait
        else if cov.any (·.isSome) then .wait
        else
          let (k, s1) := fresh (markAcc s c.die x.ctx map)
          .done (updCl s1 c fun y => { y with loads := y.loads ++ [⟨w.xd, pa, n, sx, x.ctx, k⟩] })

/-- LD8 (R279). -/
def execLd8 (w : CWord) (s : State) : Host.Outcome State Fault Refusal := coreLoad w 1 s
/-- LD16 (R279). -/
def execLd16 (w : CWord) (s : State) : Host.Outcome State Fault Refusal := coreLoad w 2 s
/-- LD32 (R279). -/
def execLd32 (w : CWord) (s : State) : Host.Outcome State Fault Refusal := coreLoad w 4 s
/-- LD64 (R279). -/
def execLd64 (w : CWord) (s : State) : Host.Outcome State Fault Refusal := coreLoad w 8 s

/-- A store of the low `n` bytes of X[XB] (R265, R279). -/
def coreStoreOp (w : CWord) (n : Nat) (s : State) : Host.Outcome State Fault Refusal :=
  atCore w s fun c x s =>
    let a := coreAddr x w
    if a.toNat % n ≠ 0 then .trap trMisalign a s
    else match coreWhere s c x a n .w with
      | .trap k s1 => .trap k a s1
      | .loc => .done (coreStore s c a .loc (bytesOf n (getX x w.xb).toNat))
      | .glob pa map => if sbRoom x then .done (coreStore s c a (.glob pa map) (bytesOf n (getX x w.xb).toNat)) else .wait

/-- ST8 (R279). -/
def execSt8 (w : CWord) (s : State) : Host.Outcome State Fault Refusal := coreStoreOp w 1 s
/-- ST16 (R279). -/
def execSt16 (w : CWord) (s : State) : Host.Outcome State Fault Refusal := coreStoreOp w 2 s
/-- ST32 (R279). -/
def execSt32 (w : CWord) (s : State) : Host.Outcome State Fault Refusal := coreStoreOp w 4 s
/-- ST64 (R279). -/
def execSt64 (w : CWord) (s : State) : Host.Outcome State Fault Refusal := coreStoreOp w 8 s

/-- R44, R279: the new value of an AMO; `b` is X[XB], `c` is X[XD]. -/
def amoVal (op : Nat) (old b c : Word) : Word :=
  match op with
  | 0 => old + b
  | 1 => old &&& b
  | 2 => old ||| b
  | 3 => old ^^^ b
  | 4 => if old.toInt < b.toInt then old else b
  | 5 => if old.toInt > b.toInt then old else b
  | 6 => if old.toNat < b.toNat then old else b
  | 7 => if old.toNat > b.toNat then old else b
  | 8 => b
  | _ => if old = c then b else old

/-- AMO (R279): a global one performs at its home slice as one step, once every earlier access of the core has performed. -/
def execAmo (w : CWord) (s : State) : Host.Outcome State Fault Refusal :=
  atCore w s fun c x s =>
    let a := coreAddr x w
    if a.toNat % 8 ≠ 0 then .trap trMisalign a s
    else match coreWhere s c x a 8 .rwa with
      | .trap k s1 => .trap k a s1
      | .loc =>
        let old := locWord x a.toNat
        let s1 := coreStore s c a .loc (bytesOf 8 (amoVal w.ty.toNat old (getX x w.xb) (getX x w.xd)).toNat)
        .done (putX s1 c w.xd old)
      | .glob pa map =>
        if !coreIdle x then .wait
        else
          let s1 := markAcc (touch s (some (c.die, pclOfLcl s c)) pa x.ctx true) c.die x.ctx map
          let old := if isPoison s pa then 0 else memWord s pa
          .done (putX (memSetWord s1 pa (amoVal w.ty.toNat old (getX x w.xb) (getX x w.xd))) c w.xd old)

/-- FENCE (R282): every scope waits for the same events. -/
def execFence (w : CWord) (s : State) : Host.Outcome State Fault Refusal :=
  atCore w s fun _ x s => if coreIdle x then .done s else .wait

/-- DRAIN (R265, R288, R295): the oldest buffered store performs, once every earlier load of the core has (R295). In IDLE a core's accesses stay as they
are, as it does (R427). -/
def execDrain (s : State) : Host.Outcome State Fault Refusal :=
  match s.here with
  | .core c =>
    let x := getCl s c
    match x.sb with
    | [] => .next s
    | e :: rest =>
      if !clocked s c || x.loads.any fun p => p.seq < e.seq then .next s
      else
        let s1 := memWrite (touch s (some (c.die, pclOfLcl s c)) e.pa e.ctx true) e.pa e.bytes
        .next (updCl s1 c fun y => { y with sb := rest })
  | _ => .next s

/-- CORE_READ (R265, R288, R429): the oldest load performs. -/
def execCoreRead (s : State) : Host.Outcome State Fault Refusal :=
  match s.here with
  | .core c =>
    let x := getCl s c
    match x.loads with
    | [] => .next s
    | p :: rest =>
      if !clocked s c then .next s else
      let bs := if isPoison s p.pa then List.replicate p.size 0 else memRead s p.pa p.size
      let s1 := touch s (some (c.die, pclOfLcl s c)) p.pa p.ctx false
      .next (updCl s1 c fun y => setX { y with loads := rest } p.xd (loadVal p.signed bs))
  | _ => .next s

end Sys2Proof.Machine
end

