-- ==== Sys2Proof/Machine/Tenants.lean ====
section
/-! DEFINITION. Contexts (R331 to R341): slices and debt, yielding, saving and restoring, the watchdog, resets; guard rewriting (R325) and
port drop records (R327, R328). -/
namespace Sys2Proof.Machine

/-- Context states (R331). -/
def csIdle : Nat := 0
def csRunning : Nat := 1
def csYielding : Nat := 2
def csSaving : Nat := 3
def csSaved : Nat := 4
def csRestoring : Nat := 5
def csFailed : Nat := 6
def csResetting : Nat := 7

/-- The launches of a context. -/
def ctxLaunches (s : State) (d : Fin 4) (ctx : BitVec 12) : List (LaunchId × Launch) := (launchesOf s d).filter fun (_, x) => x.lr.ctx = ctx

/-- The clusters that a region has tiles of. -/
def regionClusters (s : State) (l : LaunchId) (x : Launch) : List ClusterId := ((regionTiles l x).map (clusterOf s)).eraseDups

/-! ## Owing a yield (R332, R334) -/

/-- Whether a rectangle overlaps a launch's region. -/
def overlapsRegion (r c h w : Nat) (x : Launch) : Bool :=
  match x.corner with
  | none => false
  | some (r', c') => decide (r < r' + x.lr.rows + 1 ∧ r' < r + h ∧ c < c' + x.lr.cols + 1 ∧ c' < c + w)

/-- Whether a waiting launch waits for a rectangle that overlaps a region: the one it names, or one it could be given. -/
def waitsFor (s : State) (d : Fin 4) (x : Launch) (y : Launch) : Bool :=
  let h := x.lr.rows + 1
  let w := x.lr.cols + 1
  if fld x.place 31 0 ≠ 0 then overlapsRegion (fld x.place 13 8) (fld x.place 5 0) h w y
  else match launchPart s d x.lr.ctx with
    | none => false
    | some q => (corners q h w).any fun (r, c) => overlapsRegion r c h w y

/-- R332: whether a context owes a yield: it is suspended, or another launch or a SAVED context waits for tiles of one of its regions. -/
def owesYield (s : State) (d : Fin 4) (ctx : BitVec 12) : Bool :=
  let mine := ctxLaunches s d ctx
  (getCtx s d ctx).suspended ||
  mine.any fun (_, y) =>
    (launchesOf s d).any (fun (_, x) => x.st = .waiting && waitsFor s d x y) ||
    (getDie s d).ctxs.any fun (_, z) => !z.suspended && z.saved.any fun r => match findLaunch s ⟨d, r.handle⟩ with
      | some x => overlapsRegion r.corner.1 r.corner.2 (x.lr.rows + 1) (x.lr.cols + 1) y
      | none => false

/-- The cycle from which a region's overrun counts (R334): its slice's end, or now where the slice is treated as expired (R333). -/
def expiryOf (s : State) (x : Launch) (forced : Bool) : Nat :=
  if forced then min s.clock (x.sliceAt + x.sliceLen) else x.sliceAt + x.sliceLen

/-- R332, R334: a context begins to yield; the overrun of each region in a phase counts from its own expiry. -/
def beginYield (s : State) (d : Fin 4) (ctx : BitVec 12) (forced : Bool) : State :=
  let s1 := (ctxLaunches s d ctx).foldl (fun s (l, x) =>
    if x.st = .running ∧ (forced ∨ x.sliceAt + x.sliceLen ≤ s.clock) then setLaunch s l { x with expired := some (expiryOf s x forced) } else s) s
  updCtx (setCtxState s1 d ctx csYielding) d ctx fun z => { z with sliceEnd := s.clock }

/-- Whether a region's slice is over: its context is RUNNING, or is YIELDING and this slice had not expired yet (R334). -/
def sliceOver (s : State) (l : LaunchId) (x : Launch) : Bool :=
  x.corner.isSome && decide (x.sliceLen ≠ 0) && decide (x.sliceAt + x.sliceLen ≤ s.clock) &&
  (decide (ctxState s l.die x.lr.ctx = csRunning) || (decide (ctxState s l.die x.lr.ctx = csYielding) && decide (x.st = .running) && x.expired.isNone))

/-- SLICE_EXPIRY (R332, R334, R370, R372): a slice is over, and the working set is recorded; its context yields when it owes to, or a new slice begins.
In a context that yields already the region's overrun begins. -/
def execSliceExpiry (s : State) : Host.Outcome State Fault Refusal :=
  match s.here with
  | .launch l =>
    match findLaunch s l with
    | none => .next s
    | some x =>
      let d := l.die
      let ctx := x.lr.ctx
      if !sliceOver s l x then .next s
      else
        let s1 := updCtx (recordWs s d ctx) d ctx fun z => { z with sliceEnd := s.clock }
        if ctxState s d ctx = csYielding then .next (updLaunch s1 l fun x => { x with expired := some (x.sliceAt + x.sliceLen) })
        else if owesYield s1 d ctx then .next (beginYield s1 d ctx false) else .next (beginSlice s1 l)
  | _ => .next s

/-- SUSPEND (R333): a RUNNING context owes a yield at once. -/
def suspendCtx (s : State) (d : Fin 4) (ctx : BitVec 12) : State :=
  if ctxState s d ctx = csRunning then beginYield (recordWs (updCtx s d ctx fun z => { z with suspended := true }) d ctx) d ctx true else s

/-- RESUME (R333): a suspended SAVED context can be chosen again. -/
def resumeCtx (s : State) (d : Fin 4) (ctx : BitVec 12) : State :=
  if ctxState s d ctx = csSaved then updCtx s d ctx fun z => { z with suspended := false } else s

/-! ## The save image (R336) -/

/-- The image header, whose fields' places the spec does not give: state 0 WRITING, 1 VALID, 2 INVALID (log 17). -/
def imageHeader (st : Nat) (ctx : BitVec 12) (gen : BitVec 8) (len : Nat) : List Byte := (List.range 64).map (Config.imageByte (st, ctx, gen, len) 0)

/-- `n` bytes of a section. -/
def imageSection {α : Type} (v : α) (sec n : Nat) : List Byte := (List.range n).map (Config.imageByte v sec)

/-- The barriers of a cluster that belong to a context. -/
def ctxBars (x : Cluster) (ctx : BitVec 12) : Assoc Barrier := x.bars.filter fun (_, y) => y.ctx = ctx

/-- The slots and operators of a tile's resident planes: the active plane's with their state, of 64 bytes to 4 KiB each. -/
def slotSections (x : Launch) (y : Tile) : List Byte :=
  ([0, 1, 2, 3] : List (Fin 4)).flatMap fun p =>
    if (getPlane x p.val).st ≠ .resident then []
    else if y.active = some p then stateBytes y
    else
      let sec (k : Nat) : List Byte := imageSection (p, k) 1 (64 * (1 + Config.imageUnits (p, k) % 64))
      ((List.range 8).filter (slotOn y p.val)).flatMap sec ++ ((List.range 2).filter fun g => gopOf y p.val g ≠ 0).flatMap fun g => sec (8 + g)

/-- Whether a region is in a phase: it then stops at a fault-quiescent point and keeps its checkpoint. -/
def inPhase (x : Launch) : Bool := decide (x.st = .running)

/-- Every section of the image behind the header. -/
def imageBody (s : State) (d : Fin 4) (ctx : BitVec 12) : List Byte :=
  let ls := (ctxLaunches s d ctx).filter fun (_, x) => x.corner.isSome
  let cs := (ls.flatMap fun (l, x) => regionClusters s l x).eraseDups
  let tiles := ls.flatMap fun (l, x) => (regionTiles l x).map fun t => (x, getTile s t)
  ls.flatMap (fun (_, x) => imageSection x 3 640) ++
  ls.flatMap (fun (_, x) => (x.threads.filter fun (_, y) => y.st ≠ .ended).flatMap fun (k, y) => imageSection (k, y) 4 64) ++
  cs.flatMap (fun c =>
    let x := getCl s c
    imageSection (x.rings, x.bktok) 5 264 ++ (ctxBars x ctx).flatMap fun b => imageSection b 6 16) ++
  tiles.flatMap (fun (x, y) => slotSections x y) ++
  tiles.flatMap (fun (x, y) => if inPhase x then (queuedToks y).flatMap fun (t, tag) => tokBytes t tag else []) ++
  cs.flatMap fun c =>
    let x := getCl s c
    let part := BitVec.ofNat 5 (ctxPart s d ctx)
    if !x.split then (if x.ownu = part then bufRead x 3 0 (2 ^ 20) else [])
    else (if x.ownu = part then bufRead x 3 0 (2 ^ 19) else []) ++ (if x.ownl = part then bufRead x 3 (2 ^ 19) (2 ^ 19) else [])

/-! ## What a context has of a cluster (R212, R330, R336, R340) -/

/-- Whether a half of the array is a context's own: its partition owns it (R330). -/
def ownsHalf (x : Cluster) (part : Nat) (half : Nat) : Bool := decide (halfOwner x half = BitVec.ofNat 5 part)

/-- Whether a byte of a buffer goes with a context: CBUF by the halves it owns, WBUF and ABUF whole in WHOLE mode, and in SPLIT mode where its
rings lie. -/
def ownsByte (x : Cluster) (part space off : Nat) : Bool :=
  if space = 3 then ownsHalf x part (if off < 2 ^ 19 then 1 else 2)
  else if !x.split then ownsHalf x part 1
  else x.rings.any fun (n, r) => ringSpace n = space && ownsHalf x part (ringHalf n) && decide (64 * r.base ≤ off ∧ off < 64 * (r.base + r.size))

/-- The rings of a cluster that are a context's own. -/
def ownRings (x : Cluster) (part : Nat) : Assoc Ring := x.rings.filter fun (n, _) => ownsHalf x part (ringHalf n)

/-- The BKTOK bits that are a context's own: all of them in WHOLE mode, in SPLIT mode those of banks that its rings reach. -/
def ownBanks (x : Cluster) (part : Nat) : BitVec 32 :=
  (List.range 32).foldl (fun m b =>
    let space := 1 + b / 16
    let own := if !x.split then ownsHalf x part 1
      else x.rings.any fun (n, r) => ringSpace n = space && ownsHalf x part (ringHalf n) &&
        decide (64 * r.base < (b % 16 + 1) * 131072 ∧ b % 16 * 131072 < 64 * (r.base + r.size))
    if own then m ||| (1#32 <<< b) else m) 0

/-- The cluster state that a save keeps. -/
def saveCluster (s : State) (c : ClusterId) (ctx : BitVec 12) : SavedCl :=
  let x := getCl s c
  let part := ctxPart s c.die ctx
  { lcl := c.lcl, rings := ownRings x part, bktok := x.bktok &&& ownBanks x part, bars := ctxBars x ctx,
    buf := x.buf.filter fun (k, _) => ownsByte x part (k / 2 ^ 22) (k % 2 ^ 22),
    bits := x.bufFull.filter fun (k, _) => ownsByte x part (k / 2 ^ 16) (64 * (k % 2 ^ 16)) }

/-- A table with the entries that a test picks replaced by others. -/
def overlay {α : Type} (pick : Nat → Bool) (new old : Assoc α) : Assoc α :=
  new.foldl (fun m (k, v) => aset m k v) (old.filter fun (k, _) => !pick k)

/-- The cluster state written back (R336, R337). A barrier is written back only where its configuration has changed since. -/
def restoreCluster (s : State) (d : Fin 4) (ctx : BitVec 12) (z : SavedCl) : State :=
  let part := ctxPart s d ctx
  updCl s ⟨d, z.lcl⟩ fun x =>
    let x1 := { x with rings := overlay (fun n => ownsHalf x part (ringHalf n)) z.rings x.rings, bktok := (x.bktok &&& ~~~ownBanks x part) ||| z.bktok }
    let own (space off : Nat) : Bool := ownsByte x1 part space off
    let x2 := { x1 with buf := overlay (fun k => own (k / 2 ^ 22) (k % 2 ^ 22)) z.buf x1.buf,
                        bufFull := overlay (fun k => own (k / 2 ^ 16) (64 * (k % 2 ^ 16))) z.bits x1.bufFull }
    z.bars.foldl (fun x (b, y) =>
      let now := getBar x b
      if now.cfg = y.cfg ∧ now.ctx = y.ctx then x else { x with bars := aset x.bars b y }) x2

/-! ## PREEMPT (R332, R335, R336) -/

/-- A region that has stopped at a phase boundary with every admitted store written. -/
def atStop (x : Launch) : Bool :=
  (match x.st with | .boundary | .switching _ => true | _ => false) && !loadsRun x && outsWritten x

/-- Whether an enabled slot of a tile's active plane names a latch (R335). -/
def namesLatch (x : Tile) : Bool :=
  (List.range 8).any fun k => match slotInstr x k with
    | some i => (opSrcs (view i)).contains .latch
    | none => false

/-- Whether a merged entry still has lines for a tile. -/
def mcastBusy (s : State) (t : TileId) : Bool := s.slices.any fun (_, y) => y.mcast.any fun e => e.members.any fun m => m.tile = t

/-- R310: a tile of a region at a fault-quiescent point. -/
def tileQuiescent (s : State) (t : TileId) : Bool :=
  let x := getTile s t
  x.links.all (fun e => e.2.isEmpty) && x.outs.all (fun e => e.2.isEmpty) && [x.g0.outT, x.g0.outF, x.g1.outT, x.g1.outF].all (·.isNone) &&
  x.queues.all (fun (_, q) => q.arr.isEmpty) && (List.range 8).all (fun k => (competes s t x k).isNone) &&
  x.port.queue.all (fun a => decide (answerOf s t.die a.fault = .wait) && a.mc.arrived.isEmpty) && !mcastBusy s t &&
  x.slots.all (fun (_, y) => y.pipe.all fun f => !f.ready && x.port.queue.any fun a => a.id = f.id) && !namesLatch x

/-- R310, R335: a region at a fault-quiescent point at which it may be pre-empted. -/
def regionQuiescent (s : State) (l : LaunchId) (x : Launch) : Bool :=
  let ts := regionTiles l x
  inPhase x && x.cut.isNone && x.drainAt.isNone && !loadsRun x && outsWritten x && ts.all (tileQuiescent s) &&
  ts.any fun t => !(getTile s t).port.queue.isEmpty

/-- CTXLOST (R338): to the hypervisor queue, and to the queues of the context's launches whose clusters are not being scrubbed. -/
def ctxLost (s : State) (d : Fin 4) (ctx : BitVec 12) (scrubbed : List ClusterId) (written reason : Nat) (gen : BitVec 8) : State :=
  let r : Rec := { kind := 0x35, ctx := ctx, p0 := word written, p1 := word (reason + gen.toNat * 256) }
  let homes := ((ctxLaunches s d ctx).map fun (l, x) => homeOf s l x).eraseDups.filter fun c => !scrubbed.contains c
  recHv (homes.foldl (fun s c => raiseRec s c r) s) d r

/-- The save begins: what the image holds is taken, a phase that its region has stopped behind gets its interval record (R351), the regions' tiles are emptied, and the header is written. The rest follows granule by
granule. -/
def beginSave (s : State) (d : Fin 4) (ctx : BitVec 12) : State :=
  let ls := (ctxLaunches s d ctx).filter fun (_, x) => x.corner.isSome
  let s1 := recordWs (ls.foldl (fun s (l, _) => addOverrun s l) s) d ctx
  let body := imageBody s1 d ctx
  let len := 64 + body.length
  let desc := ctxAddr s1 d ctx
  let image := fld (memWord s1 (desc + 0x10)) 38 12 * 4096
  if 4096 * fld (memWord s1 (desc + 0x18)) 31 0 < len then
    let s2 := ls.foldl (fun s (l, _) => updLaunch s l fun x => { x with halted := true, gate := true }) s1
    ctxLost (setCtxState s2 d ctx csFailed) d ctx [] 0 3 (ctxGen s2 d ctx)
  else
    let cs := (ls.flatMap fun (l, x) => regionClusters s1 l x).eraseDups
    let regions := ls.map fun (l, x) =>
      let keep := if inPhase x then (regionTiles l x).map fun t => (tileKey t, getTile s1 t) else []
      ({ handle := l.handle, corner := x.corner.getD (0, 0), quiescent := inPhase x, tiles := keep } : SavedRegion)
    let s2 := updCtx s1 d ctx fun z =>
      { z with saved := regions, savedCl := cs.map fun c => saveCluster s1 c ctx, image := image, len := len, written := 64,
               body := body, sliceEnd := s.clock }
    let s3 := memWrite (setCtxState s2 d ctx csSaving) image (imageHeader 0 ctx (ctxGen s2 d ctx) len)
    let s4 := ls.foldl (fun s (l, x) => if inPhase x then s else intervalRec s l x) s3
    ls.foldl (fun s (l, x) =>
      let ts := regionTiles l x
      updTiles (ts.foldl (fun s t => markWindows s t false) s) ts fun t => blankTile t (some l.handle)) s4

/-- The next bytes of the image written behind those that are. -/
def saveOn (s : State) (d : Fin 4) (ctx : BitVec 12) (n : Nat) : State :=
  let z := getCtx s d ctx
  updCtx (memWrite s (z.image + z.written) (z.body.take n)) d ctx fun z => { z with written := z.written + (z.body.take n).length, body := z.body.drop n }

/-- PREEMPT (R332, R335, R336): every region of a yielding context has stopped; or the next granule of the image under way is written. -/
def execPreempt (s : State) : Host.Outcome State Fault Refusal :=
  match s.here with
  | .context d ctx =>
    let ls := (ctxLaunches s d ctx).filter fun (_, x) => x.corner.isSome
    if ctxState s d ctx = csSaving then .next (saveOn s d ctx 64)
    else if ctxState s d ctx = csYielding ∧ (ls.all fun (l, x) => atStop x || regionQuiescent s l x) then .next (beginSave s d ctx)
    else .next s
  | _ => .next s

/-- SAVE_COMPLETE (R332, R336): once every section is written, the image is VALID, the context SAVED, its regions freed; it begins to wait. -/
def execSaveComplete (s : State) : Host.Outcome State Fault Refusal :=
  match s.here with
  | .context d ctx =>
    if ctxState s d ctx ≠ csSaving ∨ (getCtx s d ctx).body ≠ [] then .next s
    else
      let z := getCtx s d ctx
      let s1 := memWrite s z.image (imageHeader 1 ctx (ctxGen s d ctx) z.len)
      let (n, s2) := fresh (setCtxState s1 d ctx csSaved)
      let s3 := updCtx s2 d ctx fun z => { z with order := n, waitAt := s.clock, gateOk := false }
      let ls := (ctxLaunches s3 d ctx).filter fun (_, x) => x.corner.isSome
      .next (ls.foldl (fun s (l, x) => setLaunch (freeTiles s l x) l { x with st := .saved, corner := none, sliceLen := 0, loads := [], choice := none, gateFail := [] }) s3)
  | _ => .next s

/-! ## RESTORE, RESTORE_COMPLETE (R332, R334, R336, R337) -/

/-- The quantum of a saved context: the largest of its launches. -/
def savedQuant (s : State) (d : Fin 4) (ctx : BitVec 12) : Nat :=
  (ctxLaunches s d ctx).foldl (fun n (_, x) => max n (x.lr.quant * Config.cyclesPerUs)) 0

/-- RESMIN of a resumption: the largest of the context's saved launches (R374). -/
def savedResmin (s : State) (d : Fin 4) (ctx : BitVec 12) : Nat :=
  (ctxLaunches s d ctx).foldl (fun n (_, x) => if x.st = .saved then max n x.lr.resmin else n) 0

/-- RESTORE (R332, R334, R337, R338): a SAVED context is chosen, or passed over, or its image is found not VALID. -/
def execRestore (s : State) : Host.Outcome State Fault Refusal :=
  match s.here with
  | .context d ctx =>
    let z := getCtx s d ctx
    if !savedFree s d ctx ∨ servedBefore s d (savedTurn s d ctx) then .next s
    else
      let q := savedQuant s d ctx
      if q ≤ ctxDebt s d ctx then
        let (n, s1) := fresh (setDebt s d ctx (ctxDebt s d ctx - q))
        .next (updCtx s1 d ctx fun z => { z with order := n, waitAt := s.clock })
      else if !z.gateOk ∧ !gateFree s d ctx (savedResmin s d ctx) then .next s
      else if memRead s z.image 64 ≠ imageHeader 1 ctx (ctxGen s d ctx) z.len then
        .next (ctxLost (setCtxState s d ctx csFailed) d ctx [] z.len 4 (ctxGen s d ctx))
      else
        let s1 := updCtx (setCtxState s d ctx csRestoring) d ctx fun z => { z with gateOk := false }
        .next (z.saved.foldl (fun s r => allot s ⟨d, r.handle⟩ r.corner.1 r.corner.2) s1)
  | _ => .next s

/-- A tile as a fault-quiescent region takes it back: latches at their activation value, accesses to be issued again, port entries of the
launch. -/
def restoredTile (x : Launch) (owner : Nat) (t : Tile) : Tile :=
  { t with owner := some owner, issued := none, used := [], cut := none,
           slots := t.slots.map fun (k, y) => (k, { y with latch := resetLatch, fault := false }),
           port := { t.port with queue := t.port.queue.map (fun a => { a with fault := .none }), entries := if t.port.start then x.portSet else [] } }

/-- Deferred BARN outputs whose episodes have released meanwhile are sent (R197). -/
def sendBarns (s : State) (t : TileId) : State :=
  let c := clusterOf s t
  let bs := ((getTile s t).slots.flatMap fun (_, y) => y.barns.map (·.2.1)).eraseDups
  bs.foldl (fun s b =>
    let g := (getBar (getCl s c) b).gen
    if g = 0 then s else updTile s t (barnTile b (g - 1))) s

/-- A region takes back what it saved. -/
def restoreRegion (s : State) (d : Fin 4) (r : SavedRegion) : State :=
  let l : LaunchId := ⟨d, r.handle⟩
  match findLaunch s l with
  | none => s
  | some x =>
    if r.quiescent then
      let ts := r.tiles.map fun (k, t) => (({ tileOfKey k with die := d } : TileId), t)
      let s1 := ts.foldl (fun s (t, y) => setTile s t (restoredTile x l.handle y)) s
      let s2 := ts.foldl (fun s (t, _) => sendBarns (markWindows s t true) t) s1
      beginSlice (updLaunch s2 l fun x => { x with st := .running, hold := none }) l
    else
      let planes := x.planes.map fun (p, y) => (p, if y.st = .resident then { y with st := .loading } else { y with st := .invalid })
      let loads := planes.filterMap fun (p, y) => if y.st = .loading then some ({ pc := y.pc, plane := Fin.ofNat 4 p } : Load) else none
      beginSlice (setLaunch s l { x with st := .boundary, active := none, planes := planes, loads := loads, choice := none, hold := none }) l

/-- RESTORE_COMPLETE (R332, R336, R337): the image is read; the context runs, with a new slice for each region. -/
def execRestoreComplete (s : State) : Host.Outcome State Fault Refusal :=
  match s.here with
  | .context d ctx =>
    if ctxState s d ctx ≠ csRestoring then .next s
    else
      let z := getCtx s d ctx
      let s1 := z.savedCl.foldl (fun s c => restoreCluster s d ctx c) (setCtxState s d ctx csRunning)
      let s2 := z.saved.foldl (fun s r => restoreRegion s d r) s1
      .next (settle (updCtx s2 d ctx fun z => { z with saved := [], savedCl := [], written := 0 }))
  | _ => .next s

/-! ## Resets (R203, R316, R338, R340) -/

/-- A context's state in a cluster of its regions is cleared. -/
def scrubCluster (s : State) (c : ClusterId) (ctx : BitVec 12) : State :=
  let part := ctxPart s c.die ctx
  updCl s c fun x =>
    let x1 := (ownRings x part).foldl (fun y (n, r) => emptyRing (setRing y n { r with head := 0, tail := 0, claimed := 0 }) n) x
    { x1 with buf := x1.buf.filter (fun (k, _) => !(decide (k / 2 ^ 22 = 3) && ownsByte x part 3 (k % 2 ^ 22))),
              bktok := x1.bktok &&& ~~~ownBanks x part }

/-- A context's barriers in a cluster get EXPECT 0. -/
def dropBars (s : State) (c : ClusterId) (ctx : BitVec 12) : State :=
  updCl s c fun x => { x with bars := x.bars.map fun (b, y) =>
    if y.ctx = ctx then (b, { ctx := ctx, cfg := y.cfg &&& ~~~0xFFFF, gen := y.gen }) else (b, y) }

/-- Matrix operations that nodes of a region sent are discarded, with their claims: granules released meanwhile become empty (R208, R220). -/
def dropMatrix (s : State) (l : LaunchId) : State :=
  let mine (o : MOp) : Bool := decide (ownerOf s o.tile = some l)
  { s with clusters := s.clusters.map fun (k, x) => (k, settleMode (emptyDue { x with mqs := x.mqs.map fun (q, os) => (q, os.filter fun o => !mine o) })) }

/-- Pieces of MCAST requests of a region are discarded. -/
def dropMcast (s : State) (ts : List TileId) : State :=
  { s with slices := s.slices.map fun (k, y) =>
      (k, { y with mcast := y.mcast.map fun e => { e with members := e.members.filter fun m => !ts.contains m.tile } }) }

/-- Records of launches that are gone wait for no firing any more (R339). -/
def letGo (mine : Nat → Bool) (r : Rec) : Rec := if mine r.handle then { r with firing := 0 } else r

/-- A context's pending page requests are discarded (R316). -/
def dropReqs (s : State) (d : Fin 4) (ctx : BitVec 12) : State := updDie s d fun x => { x with reqs := x.reqs.filter fun (_, r) => r.ctx ≠ ctx }

/-- Every region of a context is scrubbed and freed, and its launches are gone (R339, R340). -/
def scrubRegions (s : State) (d : Fin 4) (ctx : BitVec 12) : State :=
  let ls := ctxLaunches s d ctx
  let cs := (ls.flatMap fun (l, x) => regionClusters s l x).eraseDups
  let old := (getCtx s d ctx).saved.flatMap fun r => match findLaunch s ⟨d, r.handle⟩ with
    | some x => regionClusters s ⟨d, r.handle⟩ { x with corner := some r.corner }
    | none => []
  let s1 := ls.foldl (fun s (l, x) => dropMcast (dropMatrix s l) (regionTiles l x)) s
  let s2 := cs.foldl (fun s c => scrubCluster s c ctx) s1
  let s3 := (cs ++ old).eraseDups.foldl (fun s c => dropBars s c ctx) s2
  let s4 := ls.foldl (fun s (l, x) => delLaunch (freeTiles s l x) l) s3
  let mine (h : Nat) : Bool := ls.any fun e => e.1.handle == h
  dropReqs { s4 with clusters := s4.clusters.map fun (k, x) =>
      (k, if k / 64 = d.val then { x with deliveries := x.deliveries.filter (fun y => !mine y.launch.handle),
                                          pend := x.pend.map (letGo mine) } else x) } d ctx

/-- The saved image is marked INVALID. -/
def spoilImage (s : State) (d : Fin 4) (ctx : BitVec 12) : State :=
  let z := getCtx s d ctx
  if z.len = 0 then s else memWrite s z.image (imageHeader 2 ctx (ctxGen s d ctx) z.len)

/-- Stores that wait in the windows of a region's tiles are discarded. -/
def dropWindows (s : State) (ts : List TileId) : State :=
  ts.foldl (fun s t =>
    let ks := busyWindows (getTile s t)
    if ks.isEmpty then s else updSlice s (sliceOf t) fun y => { y with wins := ks.foldl (fun m k => aupd {} m k fun w => { w with held := [] }) y.wins }) s

/-- Tokens that a region's out-ports have not yet written are discarded. -/
def dropOuts (x : Launch) : Launch := { x with streams := x.streams.map fun (p, y) => (p, { y with queue := [] }) }

/-- A tile without the accesses of its port and without the advances that its RADV nodes have parked (R220, R340). -/
def lessAccesses (x : Tile) : Tile :=
  { x with port := { x.port with queue := [] },
           slots := x.slots.map fun (k, y) => (k, match y.node with | .radv _ => { y with node := .idle } | _ => y) }

/-- R340: accesses of a context that have not performed are discarded, with its nodes' matrix operations, and its engine transfers stop. -/
def dropAccesses (s : State) (d : Fin 4) (ctx : BitVec 12) : State :=
  let ts := (ctxLaunches s d ctx).flatMap fun (l, x) => regionTiles l x
  let s0 := (ctxLaunches s d ctx).foldl (fun s (l, _) => dropMatrix (updLaunch s l dropOuts) l) (dropMcast (dropWindows s ts) ts)
  let s1 := updTiles s0 ts lessAccesses
  let engine (e : Engine) : Engine := { e with queue := e.queue.filter fun t => t.ctx ≠ ctx }
  updDie { s1 with clusters := s1.clusters.map fun (k, x) =>
      if k / 64 = d.val then
        (k, { x with sb := x.sb.filter (fun e => e.ctx ≠ ctx), loads := x.loads.filter (fun e => e.ctx ≠ ctx), copy := engine x.copy })
      else (k, x) } d fun x =>
    { x with collective := engine x.collective, wreqs := x.wreqs.filter (fun w => w.ctx ≠ ctx),
             eps := x.eps.map fun (k, e) => (k, { e with landing := e.landing.filter fun l => l.ctx ≠ ctx }) }

/-- The configuration lines of a context leave L2 and L3 (R340). -/
def dropCfgLines (s : State) (d : Fin 4) (ctx : BitVec 12) : State :=
  let keep (x : CacheLine) : Bool := x.ctx ≠ ctx
  updDie { s with clusters := s.clusters.map fun (k, x) => if k / 64 = d.val then (k, { x with l2 := x.l2.filter keep }) else (k, x) } d
    fun x => { x with l3 := x.l3.filter keep }

/-- RESET (R340): accepted while BUSY is 0. -/
def resetCtx (s : State) (d : Fin 4) (ctx : BitVec 12) : State :=
  if (getDie s d).busy then s
  else
    let st := ctxState s d ctx
    if st = csIdle then dropReqs (setCtx (dropCfgLines s d ctx) d ctx csIdle (ctxGen s d ctx + 1)) d ctx
    else
      let s1 := (ctxLaunches s d ctx).foldl (fun s (l, _) => updLaunch s l fun x => { x with halted := true, gate := true, drainAt := none }) s
      let s2 := dropAccesses s1 d ctx
      updCtx (updDie (setCtxState s2 d ctx csResetting) d fun x => { x with busy := true, ctxn := ctx }) d ctx fun z => { z with resetFrom := st }

/-- RESET_COMPLETE (R338, R340). -/
def execResetComplete (s : State) : Host.Outcome State Fault Refusal :=
  match s.here with
  | .context d ctx =>
    if ctxState s d ctx ≠ csResetting then .next s
    else
      let z := getCtx s d ctx
      let gen := ctxGen s d ctx
      let scrubbed := ((ctxLaunches s d ctx).flatMap fun (l, x) => regionClusters s l x).eraseDups
      -- a save stops at the next 4 KiB boundary of its image
      let s0 := if z.resetFrom = csSaving then saveOn s d ctx ((4096 - z.written % 4096) % 4096) else s
      let written := (getCtx s0 d ctx).written
      let reason := if z.resetFrom = csSaving then 1 else if z.resetFrom = csRestoring then 2 else 0
      let s1 := ctxLost (spoilImage s0 d ctx) d ctx scrubbed written reason gen
      let s2 := scrubRegions s1 d ctx
      let s4 := updDie (dropCfgLines s2 d ctx) d fun x => { x with busy := false }
      .next (updCtx (setCtx s4 d ctx csIdle (gen + 1)) d ctx fun _ => {})
  | _ => .next s

/-- A command of CTXCMD (R333), 1 SUSPEND, 2 RESUME, 3 RESET: ignored while BUSY, else kept to be read back, and done. -/
def ctxCommand (s : State) (d : Fin 4) (cmd : Nat) (ctx : BitVec 12) : State :=
  if (getDie s d).busy then s
  else
    let s1 := updDie s d fun x => { x with cmd := BitVec.ofNat 4 cmd, ctxn := ctx }
    if cmd = 1 then suspendCtx s1 d ctx else if cmd = 2 then resumeCtx s1 d ctx else resetCtx s1 d ctx

/-- SUSPEND (R333). -/
def execSuspend (s : State) : Host.Outcome State Fault Refusal :=
  match s.here with | .context d ctx => .next (ctxCommand s d 1 ctx) | _ => .next s
/-- RESUME (R333). -/
def execResume (s : State) : Host.Outcome State Fault Refusal :=
  match s.here with | .context d ctx => .next (ctxCommand s d 2 ctx) | _ => .next s
/-- RESET (R333, R340). -/
def execReset (s : State) : Host.Outcome State Fault Refusal :=
  match s.here with | .context d ctx => .next (ctxCommand s d 3 ctx) | _ => .next s

/-! ## The watchdog (R339) -/

/-- Whether the watchdog acts on a region: four QUANT after its slice began its context still yields and the phase is not over (R339). -/
def watchdogDue (s : State) (l : LaunchId) (x : Launch) : Bool :=
  decide (ctxState s l.die x.lr.ctx = csYielding) && decide (x.st = .running) && x.drainAt.isNone && decide (x.sliceLen ≠ 0) &&
  decide (x.sliceAt + 4 * x.lr.quant * Config.cyclesPerUs ≤ s.clock) && !phaseOver s l x

/-- WATCHDOG (R339): a region of a yielding context has come to slice start + 4 QUANT without a phase boundary; its gate closes and it
drains. -/
def execWatchdog (s : State) : Host.Outcome State Fault Refusal :=
  match s.here with
  | .launch l =>
    match findLaunch s l with
    | none => .next s
    | some x =>
      if watchdogDue s l x then
        .next (setLaunch s l { x with gate := true, halted := false, drainAt := some s.clock })
      else .next s
  | _ => .next s

/-- A tile with its parked LDFs left aside. -/
def lessParked (x : Tile) : Tile :=
  let ids := (x.port.queue.filter fun a => a.parked.isSome).map (·.id)
  { x with port := { x.port with queue := x.port.queue.filter fun a => a.parked.isNone },
           slots := x.slots.map fun (k, y) => (k, { y with pipe := y.pipe.filter fun f => f.ready || !ids.contains f.id }) }

/-- Cycles of the longest drain: 1 ms. -/
def drainMax : Nat := 1000 * Config.cyclesPerUs

/-- Whether the longest drain of a region is over. -/
def drainOver (s : State) (x : Launch) : Bool := match x.drainAt with | some k => decide (k + drainMax ≤ s.clock) | none => false

/-- WATCHDOG_DRAIN_END (R339): in a cycle after the watchdog acted, so that a RESET of its cycle comes first (R341), the region is empty, or 1 ms has
passed; the context fails. -/
def execWatchdogDrainEnd (s : State) : Host.Outcome State Fault Refusal :=
  match s.here with
  | .launch l =>
    match findLaunch s l with
    | none => .next s
    | some x => match x.drainAt with
      | none => .next s
      | some k =>
        let empty := (regionTiles l x).all fun t => tileEmpty (lessParked (getTile s t))
        if s.clock ≤ k ∨ (!empty ∧ !drainOver s x) then .next s
        else
          let d := l.die
          let ctx := x.lr.ctx
          let r : Rec := { kind := 0x34, ctx := ctx, handle := l.handle, p0 := word (s.clock - x.sliceAt), p1 := word (flag (empty && !drainOver s x) 0) }
          let s1 := recHv (raiseRec s (homeOf s l x) r) d r
          let s2 := scrubRegions (spoilImage s1 d ctx) d ctx
          .next (updCtx (setCtxState s2 d ctx csFailed) d ctx fun z => { z with saved := [], savedCl := [], suspended := false })
  | _ => .next s

/-! ## GUARD_REWRITE (R325), PORT_GUARD_REPORT (R327, R328) -/

/-- GUARD_REWRITE (R325): the guards of the die follow the PRECT registers. -/
def execGuardRewrite (s : State) : Host.Outcome State Fault Refusal :=
  match s.here with
  | .die d => .next (if (getDie s d).guardDue then updDie s d fun x => { x with guards := x.prect, guardDue := false } else s)
  | _ => .next s

/-- Whether 1 ms has passed since a port's last report (R328). -/
def portReportDue (s : State) (x : Die) (key : Nat) : Bool := decide (aget 0 x.portAt key + 1000 * Config.cyclesPerUs ≤ s.clock)

/-- PORT_GUARD_REPORT (R327, R328): every 1 ms, a port with a nonzero count of drops, one record for each sender and key. Ports 16 and 17 are the Ultra Ethernet ports. -/
def execPortGuardReport (s : State) : Host.Outcome State Fault Refusal :=
  match s.here with
  | .port d p incoming =>
    let x := getDie s d
    let key := 2 * p.val + flag incoming 0
    let ys := aget [] x.portDrops key
    if ys.isEmpty ∨ !portReportDue s x key then .next s
    else
      let kind := (if p.val < 16 then 2 else 4) + flag incoming 0
      let rec_ (y : PortDrop) : Rec := { kind := 0x33, ctx := y.ctx, p0 := word (min y.count 65535 * 2 ^ 48 + kind * 2 ^ 44 + 3 * 2 ^ 42 + y.key.toNat * 2 ^ 28), p1 := word p.val }
      let s1 := updDie s d fun x => { x with portDrops := adel x.portDrops key, portAt := aset x.portAt key s.clock }
      .next (ys.foldl (fun s y => recHv (match y.core, incoming with
        | some c, false => raiseRec s c (rec_ y)
        | _, _ => s) d (rec_ y)) s1)
  | _ => .next s

end Sys2Proof.Machine
end

