-- ==== Sys2Proof/Machine/Belvedere.lean ====
section
/-! DEFINITION. The Belvedere (R344 to R350, R353, R354): leases, counters, guests, breakpoint units, MCUT. -/
namespace Sys2Proof.Machine

/-! ## Leases (R347, R348) -/

def getLease (x : Cluster) (k : Nat) : Lease := aget {} x.leases k

/-- Whether the core, in its mode and context, holds a resource. -/
def holdsLease (x : Cluster) (k : Nat) : Bool :=
  let y := getLease x k
  if x.mode then y.hv else y.held && !y.hv && decide (y.holder = x.ctx)

/-- Whether the core's context lost a resource and has not asked for it since. -/
def lostLease (x : Cluster) (k : Nat) : Bool := !x.mode && (getLease x k).lost.contains x.ctx

/-- R348: a resource's selectors, values, specifications and trace pointer cleared. -/
def clearResource (x : Cluster) (k : Nat) : Cluster :=
  if k < 4 then { x with ctrs := x.ctrs.filter fun (n, _) => n / 8 ≠ k }
  else if k < 6 then { x with traces := adel x.traces (k - 4) }
  else { x with bps := adel x.bps (k - 6) }

/-- R348: a request of the core in its mode and context. A tenant's request for what the hypervisor has taken free in the same cycle is granted
first and lost at once. -/
def requestLease (s : State) (c : ClusterId) (k : Nat) : State :=
  let x := getCl s c
  let y := getLease x k
  let give (z : Lease) (s : State) : State := updCl s c fun x => clearResource { x with leases := aset x.leases k z } k
  if x.mode then
    let lost := if y.held && !y.hv then y.holder :: y.lost.filter (fun e => e ≠ y.holder) else y.lost
    let s1 := give { held := true, hv := true, holder := 0, lost := lost, since := s.clock, wasFree := !y.held } s
    if y.held && !y.hv then raiseRec s1 c { kind := 0x36, ctx := y.holder, p0 := word k, p1 := y.holder.setWidth 64 } else s1
  else
    let lost := y.lost.filter fun e => e ≠ x.ctx
    if y.held && y.hv && y.wasFree && decide (y.since = s.clock) then
      raiseRec (updCl s c fun x => { x with leases := aset x.leases k { y with lost := x.ctx :: lost, wasFree := false } }) c
        { kind := 0x36, ctx := x.ctx, p0 := word k, p1 := x.ctx.setWidth 64 }
    else if y.held then updCl s c fun x => { x with leases := aset x.leases k { y with lost := lost } }
    else give { held := true, hv := false, holder := x.ctx, lost := lost, since := s.clock } s

/-- R348: the holder gives a resource up; the write of 0 by anyone else does nothing. -/
def releaseLease (s : State) (c : ClusterId) (k : Nat) : State :=
  updCl s c fun x =>
    if holdsLease x k then clearResource { x with leases := aset x.leases k { getLease x k with held := false, hv := false, holder := 0 } } k else x

/-- LEASEk as it reads (R347). -/
def leaseWord (x : Cluster) (k : Nat) : Word :=
  word (flag (holdsLease x k) 63 + flag (getLease x k).hv 62 + flag (lostLease x k) 61 + (if x.mode then (getLease x k).holder.toNat else 0))

/-- LEASE_REQUEST (R347, R348): the core of the cluster writes HELD 1. -/
def execLeaseRequest (s : State) : Host.Outcome State Fault Refusal :=
  match s.here with | .lease c k => .next (requestLease s c k.val) | _ => .next s
/-- LEASE_RELEASE (R347, R348): the core of the cluster writes HELD 0. -/
def execLeaseRelease (s : State) : Host.Outcome State Fault Refusal :=
  match s.here with | .lease c k => .next (releaseLease s c k.val) | _ => .next s

/-! ## Counters (R344 to R346, R349) -/

/-- The widest filter number that an event allows (R344); none for an absent event. -/
def eventFilt (ev : Nat) : Option Nat :=
  if ev ≤ 0x0B then some 2
  else if 0x10 ≤ ev ∧ ev ≤ 0x17 then some 3
  else if 0x20 ≤ ev ∧ ev ≤ 0x25 then some 2
  else if 0x30 ≤ ev ∧ ev ≤ 0x33 then some 0
  else if 0x40 ≤ ev ∧ ev ≤ 0x42 then some 2
  else if 0x43 ≤ ev ∧ ev ≤ 0x45 then some 1
  else if 0x50 ≤ ev ∧ ev ≤ 0x52 then some 0
  else none

/-- R346: whether a selector's fields are in range. -/
def selOk (s : State) (c : ClusterId) (w : Word) : Bool :=
  let ev := fld w 55 48
  let filt := fld w 62 61
  decide (fld w 60 56 = 0) && (match eventFilt ev with | some f => decide (filt ≤ f) | none => true) &&
  (decide (filt < 2) || decide (pclOf ⟨c.die, fin64 (fld w 47 42), fin64 (fld w 41 36)⟩ = pclOfLcl s c)) &&
  (decide (filt ≠ 3) || decide (fld w 35 32 ≤ 14)) && (!(decide (0x30 ≤ ev) && decide (ev ≤ 0x33)) || decide (fld w 35 32 ≤ 2))

/-- R349: whether a guest of a partition is allowed an event. -/
def eventAllowed (x : Cluster) (p ev : Nat) : Bool := wbit (aget 0 x.gevm (4 * p + ev / 64)) (ev % 64)

/-- CTRSEL (R345, R346, R349). -/
def execCtrsel (w : CWord) (s : State) : Host.Outcome State Fault Refusal :=
  atCore w s fun c x s =>
    let n := (opB x w).toNat
    let sel := getX x w.xa
    let part := ctxPart s c.die x.ctx
    let allowed := x.mode || eventAllowed x part (fld sel 55 48)
    if 32 ≤ n then illegalOf .ctrsel w s
    else if !selOk s c sel then .done (putX s c w.xd (status 1))
    else if !x.mode && !holdsLease x (n / 8) then .done (putX s c w.xd (status 3))
    else if !allowed && wbit (aget 0 x.gvctl part) 0 then privOf .ctrsel w s
    else
      let s1 := if x.mode && !holdsLease x (n / 8) then requestLease s c (n / 8) else s
      .done (putX (updCl s1 c fun x => { x with ctrs := aset x.ctrs n { sel := sel, disallowed := !allowed, since := s.clock } }) c w.xd 0)

/-- CTRRD (R345, R346). A tenant that neither holds nor has lost the bank reads a value that the spec does not state. -/
def execCtrrd (w : CWord) (s : State) : Host.Outcome State Fault Refusal :=
  atCore w s fun c x s =>
    let n := (opB x w).toNat
    let y := aget ({} : Ctr) x.ctrs n
    if 32 ≤ n then illegalOf .ctrrd w s
    else if lostLease x (n / 8) then .done (putX s c w.xd (word (2 ^ 63)))
    else if !x.mode && !holdsLease x (n / 8) then let (v, s1) := freeVal s; .done (putX s1 c w.xd v)
    else if (eventFilt (fld y.sel 55 48)).isNone || y.disallowed then
      .done (putX s c w.xd (word (flag (eventFilt (fld y.sel 55 48)).isNone 62 + flag y.disallowed 61)))
    else .done (putX s c w.xd (word (y.val + flag y.ovf 60)))

/-! ## Breakpoints (R353), MCUT (R354) -/

/-- BPSET (R353). -/
def execBpset (w : CWord) (s : State) : Host.Outcome State Fault Refusal :=
  atCore w s fun c x s =>
    let u := (opB x w).toNat
    let spec := getX x w.xa
    if 4 ≤ u then illegalOf .bpset w s
    else if fld spec 61 48 ≠ 0 ∨ fld spec 35 34 = 3 then .done (putX s c w.xd (status 1))
    else if !holdsLease x (6 + u) then .done (putX s c w.xd (status 3))
    else .done (putX (updCl s c fun x => { x with bps := aset x.bps u { aget ({} : Bp) x.bps u with spec := spec, hit := false } }) c w.xd 0)

/-- BPSTATu (R353): HIT, and the count of ordinals of its link now. -/
def bpStat (s : State) (c : ClusterId) (u : Nat) : Word :=
  let y := aget ({} : Bp) (getCl s c).bps u
  let id := fld y.spec 47 32
  let t : TileId := ⟨c.die, fin64 (id / 1024), fin64 (id / 16 % 64)⟩
  word (flag y.hit 63 + aget 0 (getTile s t).ord (id % 16) % 2 ^ 32)

/-- A launch that the core may name: one of its context, in either mode (R198, R283). -/
def myLaunch (s : State) (c : ClusterId) (h : Word) : Option (LaunchId × Launch) :=
  let l : LaunchId := ⟨c.die, h.toNat⟩
  match findLaunch s l with
  | some y => if y.lr.ctx = (getCl s c).ctx then some (l, y) else none
  | none => none

/-- Whether a launch's region has tiles of a cluster. -/
def onCluster (s : State) (c : ClusterId) (l : LaunchId) (y : Launch) : Bool := (regionTiles l y).any fun t => clusterOf s t = c

/-- MCUT (R354 to R357). A region is in a plane switch from the choice of its next block on; a
halted one is in none, for a halt keeps its phase from ending. The dump area and limit are also kept for the breakpoint units that the issuer holds (R353). -/
def execMcut (w : CWord) (s : State) : Host.Outcome State Fault Refusal :=
  atCore w s fun c x s =>
    let imm := w.imm
    let mode := fld imm 17 16
    let area := getX x w.xb
    let limit := fld imm 31 24
    let stat (n : Nat) : CoreRes := .done (putX s c w.xd (status n))
    let bad : Bool := if mode = 2 then decide (area ≠ 0 ∨ limit ≠ 0) else decide (limit = 0 ∨ fld area 5 0 ≠ 0 ∨ area.toNat < localEnd)
    if bad then stat 1
    else match myLaunch s c (getX x w.xa) with
      | none => stat 3
      | some (l, y) =>
        let here := onCluster s c l y
        let st := ctxState s c.die y.lr.ctx
        let moving := (match y.st with | .switching _ => true | .boundary => y.choice.isSome | _ => false) || decide (st = csSaving ∨ st = csRestoring)
        if mode = 2 then
          if !y.halted then stat 1
          else if y.cut.isSome || decide (st = csSaving ∨ st = csRestoring) then stat 5
          else .done (putX (if here then setLaunch s l { y with halted := false } else s) c w.xd 0)
        else if y.cut.isSome || moving then stat 5
        else
          let s1 := updCl s c fun x =>
            let keep (x : Cluster) (u : Nat) : Cluster :=
              if holdsLease x (6 + u) then { x with bps := aset x.bps u { aget ({} : Bp) x.bps u with area := area, limit := limit } } else x
            (List.range 4).foldl keep x
          .done (putX (if here then startCut s1 l y (imm.extractLsb' 0 16) (mode = 1) area limit 0 else s1) c w.xd 0)

end Sys2Proof.Machine
end

