-- ==== Sys2Proof/Machine/Convert.lean ====
section
/-! DEFINITION. The conversion family in slots (R123 to R133). -/
namespace Sys2Proof.Machine

/-- CVTUP (R125). -/
def execCvtup (w : NWord) (s : State) : Host.Outcome State Fault Refusal := fireCalc .cvtup vCvtup w s
/-- CVTDN (R126, R127). -/
def execCvtdn (w : NWord) (s : State) : Host.Outcome State Fault Refusal := fireCalc .cvtdn vCvtdn w s
/-- CVTIF (R128). -/
def execCvtif (w : NWord) (s : State) : Host.Outcome State Fault Refusal := fireCalc .cvtif vCvtif w s
/-- CVTFI (R129). -/
def execCvtfi (w : NWord) (s : State) : Host.Outcome State Fault Refusal := fireCalc .cvtfi vCvtfi w s
/-- RNDI (R130). -/
def execRndi (w : NWord) (s : State) : Host.Outcome State Fault Refusal := fireCalc .rndi vRndi w s
/-- PACK (R131). -/
def execPack (w : NWord) (s : State) : Host.Outcome State Fault Refusal := fireCalc .pack vPack w s
/-- UNPK (R131). -/
def execUnpk (w : NWord) (s : State) : Host.Outcome State Fault Refusal := fireCalc .unpk vUnpk w s
/-- CLEN (R133). -/
def execClen (w : NWord) (s : State) : Host.Outcome State Fault Refusal := fireCalc .clen vClen w s

/-- The scale of an element of A's current packet for the token a firing takes (R78, R132). -/
def sclScale (f : Fire) (i : Nat) : Int := match f.dec with | some d => pktScale d f.j i | none => 0

/-- SCL (R132). -/
def execScl (w : NWord) (s : State) : Host.Outcome State Fault Refusal :=
  atSlot (.scl w) s (fireState (.node .scl w) w (fun f => vScl (sclScale f) ⟨f.ty, w, f.a, f.b, f.c⟩) (fun _ _ t => t))

/-- CMPR (R133): a CF8 token, with the block header as its KEY. -/
def execCmpr (w : NWord) (s : State) : Host.Outcome State Fault Refusal :=
  atSlot (.cmpr w) s (fireState (.node .cmpr w) w (fun f => vCmpr ⟨f.ty, w, f.a, f.b, f.c⟩) fun f r t =>
    { t with kind := kCf8, key := BitVec.ofNat 16 (cf8Block ⟨f.ty, w, f.a, f.b, f.c⟩).1, fmt := 0, pay := r.pay })

end Sys2Proof.Machine
end

