-- ==== Sys2Proof/Machine/Registers.lean ====
section
/-! DEFINITION. System registers (R5, R266, R267, R281): which exist, who may access them, what they read as and what a write does, by the
rules of each chapter; CRD, CWR, and the moves that stand for one register's write. -/
namespace Sys2Proof.Machine

/-! ## Numbers and access (R266) -/

/-- Whether a number lies in a range. -/
def within (n lo hi : Nat) : Bool := decide (lo ≤ n) && decide (n ≤ hi)

/-- Registers that system mode alone reads and writes. The numbers of chapter 25 are among them (DEDUCED). -/
def regSys (n : Nat) : Bool :=
  within n 0x008 0x00C || n = 0x012 || within n 0x100 0x1FF || (within n 0x500 0x53F && decide (n % 4 ≠ 3)) || within n 0x540 0x583 ||
  within n 0x660 0x662 || within n 0x700 0x74F || n = 0xC00 || n = 0xC01 || within n 0xC10 0xC1F || n = 0xC40 || n = 0xC41 ||
  within n 0xD00 0xD02 || within n 0xD40 0xD4F || n = 0xE00 || n = 0xE02 || n = 0xE10 || n = 0xE11 || n = 0xE20

/-- Registers that both modes know. -/
def regBoth (n : Nat) : Bool :=
  within n 0x000 0x007 || n = 0x00D || n = 0x010 || n = 0x011 || within n 0x013 0x018 || within n 0x200 0x220 || within n 0x300 0x31F ||
  within n 0x400 0x4FF || within n 0x640 0x649 || within n 0x650 0x655 || within n 0x658 0x65B || within n 0x800 0xBFF

def regAssigned (n : Nat) : Bool := regSys n || regBoth n

/-- The lease that governs a register other than LEASEk itself (R347). -/
def regLease (n : Nat) : Option Nat :=
  if within n 0x650 0x655 then some (4 + n % 2) else if within n 0x658 0x65B then some (6 + (n - 0x658)) else none

/-- Whether an access by the core raises PRIV. -/
def regPriv (x : Cluster) (n : Nat) : Bool :=
  !x.mode && (regSys n || (match regLease n with | some k => !holdsLease x k | none => false))

/-! ## Reading -/

def rangeField (e : RangeEntry) (f : Nat) : Word := if f = 0 then e.base else if f = 1 then e.lim else if f = 2 then e.pa else e.vo

/-- A slice of a core's cluster. -/
def sliceOfCore (s : State) (c : ClusterId) (k : Nat) : SliceId := ⟨c.die, pclOfLcl s c, Fin.ofNat 32 k⟩

/-- RGEOM and RPTR (R205). -/
def ringWord (r : Ring) (ptr : Bool) : Word :=
  if ptr then word (r.tail.toNat * 2 ^ 16 + r.head.toNat) else word (flag r.few 48 + r.tsz * 2 ^ 32 + r.size * 2 ^ 16 + r.base)

/-- SWIN (R235). -/
def winWord (w : Window) : Word := word (flag w.busy 57 + w.ubase * 2 ^ 52 + w.usize * 2 ^ 48 + w.tail % 2 ^ 14 * 2 ^ 32 + w.head % 2 ^ 14 * 2 ^ 16)

/-- BARST (R276). -/
def barWord (y : Barrier) : Word := word (y.reports * 2 ^ 32 + y.arrived * 2 ^ 16 + y.gen % 2 ^ 16)

/-- CYCLE (R266): it counts while the cluster's clocks run (R427; log 53). -/
def cycleWord (s : State) (x : Cluster) : Word :=
  if x.pstate = 2 then 0 else word ((if x.pstate = 1 then x.idleAt else s.clock) - x.resetAt)

/-- The registers of the core itself (R266, R267, R318). -/
def coreReg (s : State) (c : ClusterId) (x : Cluster) (n : Nat) : Word :=
  match n with
  | 0x000 => word (c.die.val * 2 ^ 14 + (pclOfLcl s c).val * 2 ^ 8 + c.lcl.val)
  | 0x001 => statusWord x
  | 0x002 => x.ctx.setWidth 64
  | 0x003 => x.tdeleg
  | 0x004 => x.tvecu
  | 0x005 => x.epcu
  | 0x006 => x.causeu
  | 0x007 => x.tvalu
  | 0x008 => x.tvecs
  | 0x009 => x.epcs
  | 0x00A => x.causes
  | 0x00B => x.tvals
  | 0x00C => x.estats
  | 0x00D => x.lmlim
  | 0x010 => cycleWord s x
  | 0x011 => word (min 65535 (x.losses.foldl (fun k e => k + e.2.1) 0) * 2 ^ 32 + x.eq.length)
  | 0x012 => word (x.late * 2 ^ 32 + x.done.toNat)
  | 0x013 => x.tthr
  | 0x014 => x.ttpc
  | n => aget 0 x.tt (n - 0x015)

/-- The die's and the package's registers (R322, R331, R333, R367, R379, R390, R395, R424, R427 to R429). -/
def dieReg (s : State) (c : ClusterId) (x : Cluster) (n : Nat) : Word :=
  let y := getDie s c.die
  let p := (n - 0x500) / 4
  if within n 0x500 0x53F then
    (if n % 4 = 0 then aget 0 y.prect p else if n % 4 = 1 then aget 0 y.pctl p else aget 0 y.rkbase p)
  else if within n 0x540 0x57F then aget 0 y.pktab (n - 0x540)
  else if within n 0xC10 0xC1F then word (usedNow s c.die (n - 0xC10) * 2 ^ 32 + aget 0 y.quota (n - 0xC10))
  else if within n 0xD40 0xD4F then
    (let z := aget ({} : YlPort) y.yl (n - 0xD40); word (z.st.toNat * 2 ^ 62 + z.crcerr * 2 ^ 16 + z.replay))
  else match n with
    | 0x580 => y.ctxbase
    | 0x581 => word (flag y.busy 63 + y.cmd.toNat * 2 ^ 12 + y.ctxn.toNat)
    | 0x582 => y.hveq
    | 0x583 => word (flag (match x.mxPend with | some w => wbit w 13 | none => x.split) 13 + x.ownu.toNat * 2 ^ 8 + x.ownl.toNat)
    | 0xC00 => y.tierbase
    | 0xC01 => word (y.prom.toNat * 2 ^ 32 + y.dem.toNat)
    | 0xC40 => y.ptctl
    | 0xC41 => word (y.ptDone.toNat * 2 ^ 32 + y.ptAband.toNat)
    | 0xD00 => y.nectl
    | 0xD01 => word (y.retx.toNat * 2 ^ 32 + y.drops.toNat)
    | 0xD02 => y.neinj
    | 0xE00 => x.pstate.setWidth 64
    | 0xE02 => word (flag x.trimEn 63 + x.trimStep)
    | 0xE10 => s.ljbase
    | 0xE11 => word s.ljnext
    | _ => word (s.serrUnc.toNat * 2 ^ 32 + s.serrCorr.toNat)

/-- The value of a register as a core reads it (R5, R266). -/
def regRead (s : State) (c : ClusterId) (n : Nat) : Word :=
  let x := getCl s c
  if n < 0x100 then coreReg s c x n
  else if within n 0x100 0x1FF then rangeField (aget {} x.ranges ((n - 0x100) / 4)) (n % 4)
  else if n = 0x220 then x.bktok.setWidth 64
  else if within n 0x200 0x21F then ringWord (getRing x ((n - 0x200) / 2)) (n % 2 = 1)
  else if within n 0x300 0x31F then (getSlice s (sliceOfCore s c (n - 0x300))).smap.setWidth 64
  else if within n 0x400 0x4FF then winWord (aget {} (getSlice s (sliceOfCore s c ((n - 0x400) / 8))).wins (n % 8))
  else if within n 0x640 0x649 then leaseWord x (n - 0x640)
  else if within n 0x650 0x651 then (aget ({} : TraceUnit) x.traces (n % 2)).cfg
  else if within n 0x652 0x653 then (aget ({} : TraceUnit) x.traces (n % 2)).base
  else if within n 0x654 0x655 then
    (let y := aget ({} : TraceUnit) x.traces (n % 2); word (y.dropped % 2 ^ 32 * 2 ^ 32 + y.written % 2 ^ 32))
  else if within n 0x658 0x65B then bpStat s c (n - 0x658)
  else if n = 0x660 then x.ivbase
  else if n = 0x661 then x.ivcfg
  else if n = 0x662 then word (x.ivDropped % 2 ^ 32 * 2 ^ 32 + x.ivWritten % 2 ^ 32)
  else if within n 0x700 0x73F then aget 0 x.gevm (n - 0x700)
  else if within n 0x740 0x74F then aget 0 x.gvctl (n - 0x740)
  else if within n 0x800 0x9FF then (getBar x (n - 0x800)).cfg
  else if within n 0xA00 0xBFF then barWord (getBar x (n - 0xA00))
  else dieReg s c x n

/-! ## Writing the core's own registers (R266, R267) -/

/-- A write of one of the core's own registers: RO fields are ignored, and a write that sets an RSV bit as a whole (R5) but for STATUS[63:8], which
R267 ignores alone. TVECS takes a multiple of 8 as TVECU does, and CTX no value above its 12 bits (log 81). -/
def coreRegWrite (x : Cluster) (n : Nat) (v : Word) : Cluster :=
  match n with
  | 0x001 => if wbit v 4 then x else { x with aie := wbit v 1 }
  | 0x002 => if x.mode ∧ fld v 63 12 = 0 then { x with ctx := v.extractLsb' 0 12 } else x
  | 0x003 => if x.mode then { x with tdeleg := v &&& ~~~word (2 ^ 4 + 2 ^ 12 + 2 ^ 13) } else x
  | 0x004 => if fld v 2 0 = 0 then { x with tvecu := v } else x
  | 0x005 => { x with epcu := v }
  | 0x006 => if fld v 62 8 = 0 then { x with causeu := v } else x
  | 0x007 => { x with tvalu := v }
  | 0x008 => if fld v 2 0 = 0 then { x with tvecs := v } else x
  | 0x009 => { x with epcs := v }
  | 0x00A => if fld v 62 8 = 0 then { x with causes := v } else x
  | 0x00B => { x with tvals := v }
  | 0x00C => { x with estats := v }
  | 0x00D => if x.mode then { x with lmlim := v } else x
  | 0x015 | 0x016 | 0x017 | 0x018 => { x with tt := aset x.tt (n - 0x015) v }
  | _ => x

/-! ## Range entries (R305, R308) -/

/-- Residency bits that a core's entries cover. -/
def coreBits (es : Assoc RangeEntry) : Nat :=
  es.foldl (fun n (_, e) => if wbit e.base 0 && rangeWhole e && !wbit e.base 5 then n + (fld e.lim 63 16 - fld e.base 63 16 + 1) else n) 0

def rangeRsv (f : Nat) (v : Word) : Bool :=
  if f = 0 then decide (fld v 15 6 ≠ 0) else if f = 1 then decide (fld v 15 0 ≠ 0)
  else if f = 2 then decide (fld v 63 60 ≠ 0) || wbit v 39 || decide (fld v 15 0 ≠ 0) else decide (fld v 63 16 ≠ 0)

def setRangeField (e : RangeEntry) (f : Nat) (v : Word) : RangeEntry :=
  if f = 0 then { e with base := v } else if f = 1 then { e with lim := v } else if f = 2 then { e with pa := v } else { e with vo := v }

/-- A write of one of an entry's registers (R305); a bad one is ignored, and clears V. A nonzero VOFF is stored beside PIN 1 as it is: R305 refuses
no such value (DESIGN CHOICE, log 86). -/
def rangeWrite (x : Cluster) (k f : Nat) (v : Word) : Cluster :=
  let e := aget ({} : RangeEntry) x.ranges k
  let new := aset x.ranges k (setRangeField e f v)
  if rangeRsv f v ∨ 32768 < coreBits new then { x with ranges := aset x.ranges k { e with base := e.base &&& ~~~1 } } else { x with ranges := new }

/-! ## Rings (R206, R228) -/

/-- The ring a copy names. -/
def copyRing (t : Transfer) : Option Nat := let w := t.words.getD 3 0; if wbit w 7 then some (fld w 11 8) else none

/-- Whether a ring is idle: empty, and named by no operation and no copy. -/
def ringIdle (x : Cluster) (n : Nat) : Bool :=
  let names (u : RingUse) : Bool := (u.a.map (·.1)) = some n || (u.b.map (·.1)) = some n || (u.dst.map (·.1)) = some n
  decide (ringOcc (getRing x n) = 0) && x.mqs.all (fun (_, os) => os.all fun o => !names (opUse o)) &&
    x.copy.queue.all fun t => decide (copyRing t ≠ some n)

/-- A record of a refused register write. -/
def refuseReg (s : State) (c : ClusterId) (kind n : Nat) (v : Word) : State :=
  raiseRec s c { kind := kind, ctx := (getCl s c).ctx, p0 := word n, p1 := v }

/-- A write of RGEOM or RPTR. -/
def ringWrite (s : State) (c : ClusterId) (n : Nat) (v : Word) : State :=
  let x := getCl s c
  let k := (n - 0x200) / 2
  if n % 2 = 0 then
    let tsz := fld v 47 32
    let size := fld v 31 16
    if ringIdle x k ∧ fld v 63 49 = 0 ∧ tsz ≠ 0 ∧ size ≠ 0 ∧ size % tsz = 0 ∧ fld v 15 0 + size ≤ 32768 then
      updCl s c fun x => setRing x k { getRing x k with few := wbit v 48, tsz := tsz, size := size, base := fld v 15 0, head := 0, tail := 0 }
    else refuseReg s c 0x10 n v
  else if !wbit v 32 then s
  else if ringIdle x k ∧ fld v 63 33 = 0 then
    updCl s c fun x => emptyRing (setRing x k { getRing x k with head := 0, tail := 0 }) k
  else refuseReg s c 0x10 n v

/-! ## Slices (R233, R236) -/

/-- Units of a window. -/
def winUnits (w : Window) : List Nat := (List.range w.usize).map (w.ubase + ·)

/-- A write of SLAREA: the lines of units that leave the tagged area are written back and invalidated (R233). -/
def slareaWrite (s : State) (c : ClusterId) (n : Nat) (v : Word) : State :=
  let h := sliceOfCore s c (n - 0x300)
  let y := getSlice s h
  if fld v 63 12 = 0 ∧ (y.wins.all fun (_, w) => !w.busy && (winUnits w).all fun u => wbit v u) then
    let tags := y.tags.filter fun l => !wbit v l.way
    setSlice s h { y with smap := v.extractLsb' 0 12, tags := tags, hot := y.hot.filter fun l => tags.any fun z => z.line = l.line }
  else refuseReg s c 0x15 n v

/-- A write of SWIN (R236). A UBASE of 12 to 15, which SWIN's map excludes, is refused with the record even beside a USIZE of 0 (DESIGN CHOICE,
log 86). -/
def swinWrite (s : State) (c : ClusterId) (n : Nat) (v : Word) : State :=
  let h := sliceOfCore s c ((n - 0x400) / 8)
  let k := n % 8
  let y := getSlice s h
  let w : Window := { ubase := fld v 55 52, usize := fld v 51 48 }
  let others := y.wins.filter fun (j, z) => j ≠ k && decide (z.usize ≠ 0)
  let free := (winUnits w).all fun u => y.smap.getLsbD u && others.all fun (_, z) => !(winUnits z).contains u
  if !(aget ({} : Window) y.wins k).busy ∧ w.ubase ≤ 11 ∧ w.ubase + w.usize ≤ 12 ∧ free ∧ fld v 63 58 = 0 ∧ !wbit v 56 ∧ fld v 47 46 = 0 ∧
     fld v 31 30 = 0 ∧ fld v 15 0 = 0 then setSlice s h { y with wins := aset y.wins k w }
  else refuseReg s c 0x15 n v

/-! ## Barriers (R276) -/

/-- A write of BARCFG. -/
def barcfgWrite (s : State) (c : ClusterId) (b : Nat) (v : Word) : State :=
  let x := getCl s c
  let y := getBar x b
  if y.arrived = 0 ∧ y.reports = 0 ∧ fld v 42 16 = 0 ∧ 1 ≤ fld v 63 61 ∧ fld v 63 61 ≤ 5 ∧ (!wbit v 60 ∨ (1 ≤ fld v 51 43 ∧ fld v 51 43 ≤ 256)) then
    setBar s c b { y with cfg := v, ctx := x.ctx }
  else raiseRec (countCl s c cntBarbad) c { kind := 0x18, ctx := x.ctx, p0 := word b, p1 := 2 }

/-! ## Partitions and contexts (R322, R323, R328, R330, R331, R333) -/

/-- A refused partition or mode write: GUARD kind 6. -/
def refusePart (s : State) (c : ClusterId) (n : Nat) : State :=
  recHv s c.die { kind := 0x33, ctx := (getCl s c).ctx, p0 := word (6 * 2 ^ 44), p1 := word n }

/-- Whether two rectangles share a tile. -/
def rectsMeet (a b : Nat × Nat × Nat × Nat) : Bool :=
  decide (a.1 < b.1 + b.2.2.1 ∧ b.1 < a.1 + a.2.2.1 ∧ a.2.1 < b.2.1 + b.2.2.2 ∧ b.2.1 < a.2.1 + a.2.2.2)

/-- R323: whether the registers of a partition, as a write would leave them, are acceptable. An RKSIZE above 131,072, which PCTL's map excludes
and R323 does not list, is refused as those it lists are, with the GUARD record (DESIGN CHOICE, log 86). -/
def partOk (s : State) (d : Fin 4) (p : Nat) (rect ctl rank : Word) : Bool :=
  let y := getDie s d
  let key := fld ctl 11 0
  let others := (List.range 16).filter fun q => q ≠ p && wbit (aget 0 y.prect q) 63
  (launchesOf s d).all (fun (_, x) => ctxPart s d x.lr.ctx ≠ p) &&
  decide (fld rect 62 24 = 0 ∧ fld ctl 63 50 = 0 ∧ fld ctl 31 12 = 0 ∧ fld rank 63 39 = 0 ∧ fld rank 2 0 = 0 ∧ fld ctl 49 32 ≤ 131072 ∧
    fld rect 23 18 + fld rect 11 6 + 1 ≤ 64 ∧ fld rect 17 12 + fld rect 5 0 + 1 ≤ 64 ∧ key ≠ 0) &&
  others.all fun q =>
    decide (key ≠ fld (aget 0 y.pctl q) 11 0) &&
    match partRect rect, partRect (aget 0 y.prect q) with
    | some a, some b => !rectsMeet a b
    | _, _ => true

/-- A write of PRECT, PCTL or RKBASE. -/
def partWrite (s : State) (c : ClusterId) (n : Nat) (v : Word) : State :=
  let p := (n - 0x500) / 4
  let y := getDie s c.die
  let rect := if n % 4 = 0 then v else aget 0 y.prect p
  let ctl := if n % 4 = 1 then v else aget 0 y.pctl p
  let rank := if n % 4 = 2 then v else aget 0 y.rkbase p
  if partOk s c.die p rect ctl rank then
    updDie s c.die fun y =>
      if n % 4 = 0 then { y with prect := aset y.prect p v, guardDue := true }
      else if n % 4 = 1 then { y with pctl := aset y.pctl p v }
      else { y with rkbase := aset y.rkbase p v }
  else refusePart s c n

/-- A write of MXMODE (R330): owners at once, SPLIT when the queues are empty (R212). -/
def mxmodeWrite (s : State) (c : ClusterId) (v : Word) : State :=
  if fld v 63 14 ≠ 0 ∨ fld v 7 5 ≠ 0 ∨ 0x10 < fld v 12 8 ∨ 0x10 < fld v 4 0 ∨ (!wbit v 13 ∧ fld v 4 0 ≠ 0x10) then refusePart s c 0x583
  else updCl s c fun x => settleMode { x with ownu := v.extractLsb' 8 5, ownl := v.extractLsb' 0 5, mxPend := some v }

/-- A write of CTXCMD (R333). -/
def ctxcmdWrite (s : State) (d : Fin 4) (v : Word) : State :=
  let cmd := fld v 15 12
  if fld v 62 16 ≠ 0 ∨ cmd < 1 ∨ 3 < cmd then s
  else
    let ctx : BitVec 12 := v.extractLsb' 0 12
    ctxCommand s d cmd ctx

/-! ## Power and trim (R427, R428) -/

/-- The registers of a cluster after power has been removed: as at reset. -/
def offCluster (s : State) : Cluster := { pstate := 2, resetAt := s.clock }

/-- Whether a region is allotted on a cluster. -/
def clusterAllotted (s : State) (c : ClusterId) : Bool :=
  let p := (pclOfLcl s c).val
  (rectTiles c.die (p / 8 * 8) (p % 8 * 8) 8 8).any fun t => (getTile s t).owner.isSome

/-- A write of PWRCTL. -/
def pwrWrite (s : State) (c : ClusterId) (v : Word) : State :=
  let x := getCl s c
  if fld v 63 2 ≠ 0 ∨ v = 3 then s
  else if v = 0 then updCl s c fun x =>
    { x with pstate := 0, resetAt := if x.pstate = 2 then s.clock else if x.pstate = 1 then x.resetAt + (s.clock - x.idleAt) else x.resetAt }
  else if clusterAllotted s c ∨ x.run ≠ .stopped then s
  else if v = 1 then updCl s c fun x =>
    { x with pstate := 1, resetAt := if x.pstate = 2 then s.clock else x.resetAt, idleAt := if x.pstate = 1 then x.idleAt else s.clock }
  else
    let p := (pclOfLcl s c).val
    let s1 := setCl s c (offCluster s)
    let s2 := updTiles s1 (rectTiles c.die (p / 8 * 8) (p % 8 * 8) 8 8) fun _ => {}
    (List.range 32).foldl (fun s k => setSlice s (sliceOfCore s c k) {}) s2

/-- A write of TRIMCTL. -/
def trimWrite (s : State) (c : ClusterId) (v : Word) : State :=
  if fld v 62 8 ≠ 0 then s else updCl s c fun x => { x with trimEn := wbit v 63, trimAt := if wbit v 63 && !x.trimEn then s.clock else x.trimAt,
                                                                   trimRep := if wbit v 63 && !x.trimEn then none else x.trimRep }

/-! ## The die's other registers (R328, R331, R349, R351, R352, R367, R379, R395, R424) -/

/-- Writes of a die's or the package's registers. -/
def dieWrite (s : State) (c : ClusterId) (n : Nat) (v : Word) : State :=
  let d := c.die
  if within n 0x500 0x53F then partWrite s c n v
  else if within n 0x540 0x57F then
    (if fld v 62 60 ≠ 0 ∨ fld v 47 18 ≠ 0 then s else updDie s d fun y => { y with pktab := aset y.pktab (n - 0x540) v })
  else if within n 0xC10 0xC1F then
    (if fld v 63 54 ≠ 0 ∨ fld v 31 22 ≠ 0 ∨ 2 ^ 21 < fld v 21 0 then s
     else updDie s d fun y => { y with quota := aset y.quota (n - 0xC10) (fld v 21 0), barred := [] })
  else match n with
    | 0x580 => if fld v 62 39 ≠ 0 ∨ fld v 17 0 ≠ 0 then s else updDie s d fun y => { y with ctxbase := v }
    | 0x581 => ctxcmdWrite s d v
    | 0x582 => if fld v 63 7 ≠ 0 then s else updDie s d fun y => { y with hveq := v }
    | 0x583 => mxmodeWrite s c v
    | 0xC00 => if fld v 62 39 ≠ 0 ∨ fld v 17 0 ≠ 0 then s else updDie s d fun y => { y with tierbase := v }
    | 0xC40 => if fld v 62 16 ≠ 0 then s else updDie s d fun y => { y with ptctl := v }
    | 0xD00 => if fld v 62 39 ≠ 0 ∨ fld v 11 9 ≠ 0 ∨ 256 < fld v 8 0 then s else updDie s d fun y => { y with nectl := v }
    | 0xD02 => if fld v 62 32 ≠ 0 then s else updDie s d fun y => { y with neinj := v, injAt := y.dataSent }
    | 0xE00 => pwrWrite s c v
    | 0xE02 => trimWrite s c v
    | 0xE10 => if fld v 62 39 ≠ 0 ∨ fld v 15 5 ≠ 0 ∨ fld v 4 0 < 10 ∨ 20 < fld v 4 0 then s else { s with ljbase := v }
    | _ => s

/-- Writes of the registers of observation. A TRBASE with one of the bits 11:0 set, which its map does not give, is ignored as a whole (DESIGN
CHOICE, log 86). -/
def belvWrite (s : State) (c : ClusterId) (n : Nat) (v : Word) : State :=
  let trace (f : TraceUnit → TraceUnit) : State := updCl s c fun x => { x with traces := aupd {} x.traces (n % 2) f }
  if within n 0x640 0x649 then (if fld v 60 12 ≠ 0 then s else if wbit v 63 then requestLease s c (n - 0x640) else releaseLease s c (n - 0x640))
  else if within n 0x650 0x651 then
    (if fld v 62 48 ≠ 0 ∨ fld v 31 12 ≠ 0 ∨ fld v 7 4 ≠ 0 ∨ fld v 35 34 = 3 then s else trace fun y => { y with cfg := v })
  else if within n 0x652 0x653 then (if fld v 11 0 ≠ 0 then s else trace fun y => { y with base := v })
  else if n = 0x660 then (if fld v 11 1 ≠ 0 then s else updCl s c fun x => { x with ivbase := v })
  else if n = 0x661 then (if fld v 63 16 ≠ 0 then s else updCl s c fun x => { x with ivcfg := v })
  else if within n 0x700 0x73F then updCl s c fun x => { x with gevm := aset x.gevm (n - 0x700) v }
  else if within n 0x740 0x74F then (if fld v 63 1 ≠ 0 then s else updCl s c fun x => { x with gvctl := aset x.gvctl (n - 0x740) v })
  else s

/-- A write of a register by a core in its mode (R5, R266, R281). Of a value for BKTOK, which has 32 bits, the upper 32 are dropped (R209; log 81). -/
def regWrite (s : State) (c : ClusterId) (n : Nat) (v : Word) : State :=
  if n < 0x100 then updCl s c fun x => coreRegWrite x n v
  else if within n 0x100 0x1FF then updCl s c fun x => rangeWrite x ((n - 0x100) / 4) (n % 4) v
  else if n = 0x220 then updCl s c fun x => { x with bktok := v.setWidth 32 }
  else if within n 0x200 0x21F then ringWrite s c n v
  else if within n 0x300 0x31F then slareaWrite s c n v
  else if within n 0x400 0x4FF then swinWrite s c n v
  else if within n 0x600 0x7FF then belvWrite s c n v
  else if within n 0x800 0x9FF then barcfgWrite s c (n - 0x800) v
  else dieWrite s c n v

/-- A write as system mode makes it, through a core of any mode (R422); a cluster that it turns OFF is in its reset mode. -/
def regWriteSys (s : State) (c : ClusterId) (n : Nat) (v : Word) : State :=
  let m := (getCl s c).mode
  updCl (regWrite (updCl s c fun x => { x with mode := true }) c n v) c fun x => if n = 0xE00 ∧ x.pstate = 2 then x else { x with mode := m }

/-- A read as system mode makes it. -/
def regReadSys (s : State) (c : ClusterId) (n : Nat) : Word :=
  if n = 0x001 then regRead s c n else regRead (updCl s c fun x => { x with mode := true }) c n

/-! ## CRD, CWR (R281) -/

/-- CRD. -/
def execCrd (w : CWord) (s : State) : Host.Outcome State Fault Refusal :=
  atCore w s fun c x s =>
    let n := (opB x w).toNat
    if !regAssigned n then illegalOf .crd w s
    else if regPriv x n then privOf .crd w s
    else if !coreIdle x then .wait
    else .done (putX s c w.xd (regRead s c n))

/-- CWR. -/
def execCwr (w : CWord) (s : State) : Host.Outcome State Fault Refusal :=
  atCore w s fun c x s =>
    let n := (opB x w).toNat
    if !regAssigned n then illegalOf .cwr w s
    else if regPriv x n then privOf .cwr w s
    else if !coreIdle x then .wait
    else .done (regWrite s c n (getX x w.xa))

/-! ## The moves that stand for a register's write: a system-mode write through a core of the cluster -/

/-- A write at its place, when the register is one of those a move is for. -/
def atRegister (ok : Nat → Word → Bool) (s : State) : Host.Outcome State Fault Refusal :=
  match s.here with
  | .register c reg v => .next (if regAssigned reg.toNat && ok reg.toNat v then regWriteSys s c reg.toNat v else s)
  | _ => .next s

/-- PRECT_WRITE (R323). -/
def execPrectWrite (s : State) : Host.Outcome State Fault Refusal := atRegister (fun n _ => within n 0x500 0x53F && n % 4 = 0) s
/-- PCTL_WRITE (R323). -/
def execPctlWrite (s : State) : Host.Outcome State Fault Refusal := atRegister (fun n _ => within n 0x500 0x53F && n % 4 = 1) s
/-- RKBASE_WRITE (R323). -/
def execRkbaseWrite (s : State) : Host.Outcome State Fault Refusal := atRegister (fun n _ => within n 0x500 0x53F && n % 4 = 2) s
/-- MXMODE_WRITE (R330). -/
def execMxmodeWrite (s : State) : Host.Outcome State Fault Refusal := atRegister (fun n _ => n = 0x583) s
/-- RGEOM_WRITE (R206). -/
def execRgeomWrite (s : State) : Host.Outcome State Fault Refusal := atRegister (fun n _ => within n 0x200 0x21F && n % 2 = 0) s
/-- RPTR_CLEAR (R206). -/
def execRptrClear (s : State) : Host.Outcome State Fault Refusal := atRegister (fun n v => within n 0x200 0x21F && n % 2 = 1 && wbit v 32) s
/-- SLAREA_WRITE (R233). -/
def execSlareaWrite (s : State) : Host.Outcome State Fault Refusal := atRegister (fun n _ => within n 0x300 0x31F) s
/-- SWIN_WRITE (R236). -/
def execSwinWrite (s : State) : Host.Outcome State Fault Refusal := atRegister (fun n _ => within n 0x400 0x4FF) s
/-- BARCFG_WRITE (R276). -/
def execBarcfgWrite (s : State) : Host.Outcome State Fault Refusal := atRegister (fun n _ => within n 0x800 0x9FF) s
/-- RANGE_ENTRY_WRITE (R305). -/
def execRangeEntryWrite (s : State) : Host.Outcome State Fault Refusal := atRegister (fun n _ => within n 0x100 0x1FF) s
/-- REGISTER_WRITE (R5, R266): any assigned register. -/
def execRegisterWrite (s : State) : Host.Outcome State Fault Refusal := atRegister (fun _ _ => true) s

/-- PSTATE_ON (R427). -/
def execPstateOn (s : State) : Host.Outcome State Fault Refusal := match s.here with | .core c => .next (pwrWrite s c 0) | _ => .next s
/-- PSTATE_IDLE (R427). -/
def execPstateIdle (s : State) : Host.Outcome State Fault Refusal := match s.here with | .core c => .next (pwrWrite s c 1) | _ => .next s
/-- PSTATE_OFF (R427). -/
def execPstateOff (s : State) : Host.Outcome State Fault Refusal := match s.here with | .core c => .next (pwrWrite s c 2) | _ => .next s

end Sys2Proof.Machine
end

