-- ==== Sys2Proof/Machine/Events.lean ====
section
/-! DEFINITION. Event queues (R271 to R275), delivered threads (R270), waits, software traps and ERET (R269), PHASE (R283), BARA and BARW
(R284). -/
namespace Sys2Proof.Machine

/-! ## Records enter the queue (R271 to R275) -/

/-- The 32 bytes of a record (R271). -/
def recBytes (r : Rec) : List Byte :=
  bytesOf 8 (r.kind % 256 * 2 ^ 56 + r.ctx.toNat * 2 ^ 44 + r.row % 64 * 2 ^ 38 + r.col % 64 * 2 ^ 32 + r.thr.toNat * 2 ^ 24 + r.sub % 16 * 2 ^ 20 +
    r.seq % 2 ^ 20) ++
  bytesOf 8 (r.tag.toNat * 2 ^ 48 + r.handle % 2 ^ 32) ++ bytesOf 8 r.p0.toNat ++ bytesOf 8 r.p1.toNat

/-- R273: how many records may be held for one of a kind to be accepted. -/
def eqLimit (kind : Nat) : Nat := if 1 ≤ kind ∧ kind ≤ 0x1F then 960 else 1024

/-- R273: a record lost, counted for its context, or for context 0 when sixteen others are held. -/
def loseRec (ls : List (BitVec 12 × Nat × Word)) (ctx : BitVec 12) (n : Nat) (mask : Word) : List (BitVec 12 × Nat × Word) :=
  let held (c : BitVec 12) : Bool := ls.any fun e => e.1 = c
  let key := if held ctx || ctx = 0 || decide ((ls.filter fun e => e.1 ≠ 0).length < 16) then ctx else 0
  if held key then ls.map fun e => if e.1 = key then (key, satAdd 65535 e.2.1 n, e.2.2 ||| mask) else e
  else ls ++ [(key, n, mask)]

/-- A record accepted: it takes the next SEQ, and EF is set (R273, R275). -/
def acceptRec (x : Cluster) (r : Rec) : Cluster :=
  { x with eq := x.eq ++ [{ r with seq := x.eqSeq.toNat, firing := 0, at_ := 0 }], eqSeq := x.eqSeq + 1, ef := true }

/-- Whether an out-port still holds a token of the thread whose end a record reports (R274). -/
def reportHeld (s : State) (d : Fin 4) (r : Rec) : Bool :=
  (decide (r.kind = 0x20) || decide (r.kind = 0x21)) &&
  match findLaunch s ⟨d, r.handle⟩ with
  | some x => x.streams.any fun (_, y) => y.queue.any fun t => t.thr = r.thr
  | none => false

/-- Whether two records of a queue keep the order in which they were raised: those of firings (R134), of whatever launch; of one launch, those of one
tile (R274), those of its boundaries and its end with the GUARD records written there (R359), and every later one behind the PLACE record of its
move (R384, R385). THREADEND, LAUNCHDONE and their like, which report writes, keep no order with the records of a tile. -/
def keepOrder (q r : Rec) : Bool :=
  let firing (k : Nat) : Bool := decide (3 ≤ k ∧ k ≤ 5)
  let ends (k : Nat) : Bool := decide (0x20 ≤ k ∧ k ≤ 0x22)
  let bound (k : Nat) : Bool := ends k || decide (k = 0x33)
  (firing q.kind && firing r.kind) ||
  decide (q.handle = r.handle) && (decide (q.kind = 0x32) ||
  (decide (q.row = r.row ∧ q.col = r.col) && !ends q.kind && !ends r.kind) || (bound q.kind && bound r.kind))

/-- RECORD (R271 to R275): a record raised in a cluster enters its queue, or is lost for want of room. Records of one source keep their order, an
ARITH record waits for its firing's results (R136), and a loss report goes first. -/
def execRecord (s : State) : Host.Outcome State Fault Refusal :=
  match s.here with
  | .arrival c k =>
    let x := getCl s c
    match x.pend[k]? with
    | none => .next s
    | some r =>
      if r.firing ≠ 0 ∨ (x.pend.take k).any (keepOrder · r) ∨ (x.losses ≠ [] ∧ x.eq.length < 1024) ∨ reportHeld s c.die r then .next s
      else
        let x1 := { x with pend := x.pend.take k ++ x.pend.drop (k + 1) }
        if x.eq.length < eqLimit r.kind then .next (setCl s c (acceptRec x1 r))
        else .next (setCl s c { x1 with losses := loseRec x.losses r.ctx 1 (word (2 ^ r.kind)) })
  | _ => .next s

/-- EQLOST (R273): the report of the losses of the context that lost first. -/
def execEqlost (s : State) : Host.Outcome State Fault Refusal :=
  match s.here with
  | .core c =>
    let x := getCl s c
    match x.losses with
    | [] => .next s
    | (ctx, n, mask) :: rest =>
      if 1024 ≤ x.eq.length then .next s
      else .next (setCl s c (acceptRec { x with losses := rest } { kind := 0x3F, ctx := ctx, p0 := word n, p1 := mask }))
  | _ => .next s

/-! ## EVPOP, EVWAIT, WFE (R274, R275) -/

/-- Records that a core may see. -/
def seesRec (x : Cluster) (r : Rec) : Bool := x.mode || decide (r.ctx = x.ctx)
def seenCount (x : Cluster) : Nat := (x.eq.filter (seesRec x)).length

/-- A queue without its first record that a core may see. -/
def popRec (x : Cluster) : List Rec → List Rec
  | [] => []
  | r :: l => if seesRec x r then l else r :: popRec x l

/-- EVPOP (R274). -/
def execEvpop (w : CWord) (s : State) : Host.Outcome State Fault Refusal :=
  atCore w s fun c x s =>
    let a := coreAddr x w
    if a.toNat % 32 ≠ 0 then .trap trMisalign a s
    else match x.eq.find? (seesRec x) with
      | none => .done (putX s c w.xd 0)
      | some r =>
        match coreWhere s c x a 32 .w with
        | .trap k s1 => .trap k a s1
        | wh =>
          if wh ≠ .loc && !sbRoom x then .wait
          else
            let s1 := coreStore s c a wh (recBytes r)
            .done (putX (updCl s1 c fun y => { y with eq := popRec x y.eq }) c w.xd (word r.kind))

/-- EVWAIT (R274). -/
def execEvwait (w : CWord) (s : State) : Host.Outcome State Fault Refusal :=
  atCore w s fun c x s =>
    if seenCount x ≠ 0 then .done (putX s c w.xd (word (min 1024 (seenCount x))))
    else .jump x.pc (updCl s c fun y => { y with run := .evwait s.clock w.imm.toNat w.xd (x.pc + coreSize w.long) })

/-- WFE (R275). -/
def execWfe (w : CWord) (s : State) : Host.Outcome State Fault Refusal :=
  atCore w s fun c x s =>
    if x.ef then .done (putX (updCl s c fun y => { y with ef := false }) c w.xd 1)
    else .jump x.pc (updCl s c fun y => { y with run := .wfe s.clock w.imm.toNat w.xd (x.pc + coreSize w.long) })

/-- EVENT_WAKE (R274, R275): what a waiting core waits for has come. -/
def execEventWake (s : State) : Host.Outcome State Fault Refusal :=
  match s.here with
  | .core c =>
    let x := getCl s c
    match x.run with
    | .wfe _ _ xd after => if x.ef then .next (setCl s c (setX { x with ef := false, run := .running, pc := after } xd 1)) else .next s
    | .evwait _ _ xd after =>
      if seenCount x ≠ 0 then .next (setCl s c (setX { x with run := .running, pc := after } xd (word (min 1024 (seenCount x))))) else .next s
    | _ => .next s
  | _ => .next s

/-- What a core's wait answers in and goes on at, once its cycles are over and what it waits for has not come (R274, R275). -/
def waitOver (s : State) (x : Cluster) : Option (Fin 32 × Word) :=
  match x.run with
  | .wfe since limit xd after => if limit ≠ 0 ∧ since + limit ≤ s.clock ∧ !x.ef then some (xd, after) else none
  | .evwait since limit xd after => if limit ≠ 0 ∧ since + limit ≤ s.clock ∧ seenCount x = 0 then some (xd, after) else none
  | _ => none

/-- WAIT_TIMEOUT (R274, R275): a wait's cycles are over. -/
def execWaitTimeout (s : State) : Host.Outcome State Fault Refusal :=
  match s.here with
  | .core c =>
    let x := getCl s c
    match waitOver s x with
    | some (xd, after) => .next (setCl s c (setX { x with run := .running, pc := after } xd 0))
    | none => .next s
  | _ => .next s

/-! ## TRAP, ERET (R269) -/

/-- TRAP. -/
def execTrap (w : CWord) (s : State) : Host.Outcome State Fault Refusal := atCore w s fun _ x s => .trap trSw (opB x w) s

/-- ERET. -/
def execEret (w : CWord) (s : State) : Host.Outcome State Fault Refusal :=
  atCore w s fun c x s =>
    match returnTrap x with
    | none => illegalOf .eret w s
    | some y => .jump y.pc (setCl s c y)

/-! ## Delivered threads (R270) -/

/-- THREAD_DELIVERY (R269, R270): the oldest delivery is taken as an asynchronous trap. One whose launch or thread is gone is dropped. -/
def execThreadDelivery (s : State) : Host.Outcome State Fault Refusal :=
  match s.here with
  | .core c =>
    let x := getCl s c
    match x.deliveries with
    | [] => .next s
    | v :: rest =>
      if x.run = .stopped ∨ x.td ∨ !x.aie then .next s
      else match (findLaunch s v.launch).bind fun y => findThread y v.thr with
        | none => .next (setCl s c { x with deliveries := rest })
        | some t =>
          let tt := (List.range 4).map fun i => (i, t.entered.getD i 0)
          let s1 := setCl s c { x with deliveries := rest, held := some v, td := true, ttpc := t.pc, tt := tt,
                                       tthr := word (v.thr.toNat * 2 ^ 32 + v.launch.handle) }
          .next (takeTrap s1 c v.cause (word v.launch.handle) true x.pc)
  | _ => .next s

/-- A thread is no longer held for a core: the STOP drain's gate opens after the last of its threads (R270). -/
def releaseHeld (s : State) (l : LaunchId) (thr : BitVec 8) : State :=
  updLaunch s l fun y =>
    let rest := y.drained.filter fun t => t ≠ thr
    { y with drained := rest, stop := y.stop && !(rest.isEmpty && y.stopThr.isEmpty) }

/-- TREL (R270). -/
def execTrel (w : CWord) (s : State) : Host.Outcome State Fault Refusal :=
  atCore w s fun c x s =>
    let resume := w.imm.getLsbD 0
    let pc := getX x w.xb
    match x.held with
    | none => .done (putX s c w.xd (status 1))
    | some v =>
      if !x.td || (resume && decide (fld pc 5 0 ≠ 0)) then .done (putX s c w.xd (status 1))
      else
        let s1 := putX (updCl s c fun y => { y with td := false, held := none }) c w.xd 0
        let s2 := releaseHeld s1 v.launch v.thr
        if resume then
          .done (updLaunch s2 v.launch fun y => match findThread y v.thr with
            | some t => joinEntry (setThread y v.thr { t with t := (List.range 4).map fun i => aget 0 x.tt i }) v.thr pc
            | none => y)
        else .done (endThread s2 v.launch v.thr)

/-! ## PHASE (R283) -/

/-- STATE of a launch. -/
def phaseState (x : Launch) : Nat :=
  match x.st with
  | .waiting | .saved => 0
  | .running => if x.dsel.isSome then 3 else 1
  | _ => 2

/-- PHASE. -/
def execPhase (w : CWord) (s : State) : Host.Outcome State Fault Refusal :=
  atCore w s fun c x s =>
    match myLaunch s c (getX x w.xa) with
    | none => .done (putX s c w.xd (status 3))
    | some (l, y) =>
      let plane := match y.active with | some p => p.val | none => 0
      let v := y.phases % 2 ^ 15 * 2 ^ 48 + liveThreads y * 2 ^ 39 + plane * 2 ^ 34 + phaseState y * 2 ^ 32 + min (s.clock - y.phaseAt) (2 ^ 32 - 1)
      let s1 := if w.imm.getLsbD 0 && decide (y.st = .running) then decideYield s l else s
      .done (putX s1 c w.xd (word v))

/-! ## BARA, BARW (R277, R284) -/

/-- BARA. An arrival that is discarded belongs to no episode: the spec states no value for XD then (log 11). -/
def execBara (w : CWord) (s : State) : Host.Outcome State Fault Refusal :=
  atCore w s fun c x s =>
    let n := (opB x w).toNat
    if 512 ≤ n then illegalOf .bara w s
    else match arriveBar (getBar x n) x.ctx s.seq none 0 with
      | .bad r =>
        let s1 := raiseRec (countCl s c cntBarbad) c { kind := 0x18, ctx := x.ctx, p0 := word n, p1 := word r }
        let (v, s2) := freeVal s1
        .done (putX s2 c w.xd v)
      | .made y ep => .done (putX (setBar s c n y) c w.xd (word (ep % 2 ^ 16)))

/-- BARW. -/
def execBarw (w : CWord) (s : State) : Host.Outcome State Fault Refusal :=
  atCore w s fun c x s =>
    let n := (opB x w).toNat
    if 512 ≤ n then illegalOf .barw w s
    else
      let k := (BitVec.ofNat 16 (getBar x n).gen - (getX x w.xa).extractLsb' 0 16).toNat
      .done (putX s c w.xd (if k ≠ 0 ∧ k < 2 ^ 15 then 1 else 0))

end Sys2Proof.Machine
end

