-- ==== Sys2Proof/Machine/Posts.lean ====
section
/-! DEFINITION. The core's instructions about launches, bindings, modules and configurations (R180 to R183, R189, R190, R198, R199, R260,
R261). -/
namespace Sys2Proof.Machine

/-! ## LAUNCH (R25, R171, R199, R261) -/

/-- The bound descriptors of a record, by port: each 64-byte aligned and read as LAUNCH reads its record; none of a misaligned address. -/
inductive BindRead where
  | wait
  | trap (code : Nat) (tval : Word) (s : State)
  | bad
  | got (ds : List (Nat × List Word)) (s : State)
  deriving DecidableEq, Repr

def readBinds (c : ClusterId) : List (Nat × Word) → State → BindRead
  | [], s => .got [] s
  | (p, a) :: l, s =>
    if a = 0 then readBinds c l s
    else if fld a 5 0 ≠ 0 then .bad
    else match readDesc c 1 a s with
      | .wait => .wait
      | .trap k va s1 => .trap k va s1
      | .words ws s1 => match readBinds c l s1 with
        | .got ds s2 => .got ((p, ws) :: ds) s2
        | r => r

/-- A store of a core of eight bytes that an accepted instruction makes: where it goes, tested before. -/
def withStore (c : ClusterId) (x : Cluster) (a : Word) (s : State) (go : Where → CoreRes) : CoreRes :=
  match coreWhere s c x a 8 .w with
  | .trap k s1 => .trap k a s1
  | .loc => go .loc
  | .glob pa map => if sbRoom x then go (.glob pa map) else .wait

/-- LAUNCH. -/
def execLaunch (w : CWord) (s : State) : Host.Outcome State Fault Refusal :=
  withDesc w s 4 fun c x ws s =>
    let refuse (k : Nat) (s : State) : CoreRes := .done (putX s c w.xd (status k))
    match parseRecord ws with
    | none => refuse 1 s
    | some r =>
      match readBinds c (r.binds.zipIdx.map fun (a, p) => (p, a)) s with
      | .wait => .wait
      | .trap k va s1 => .trap k va s1
      | .bad => refuse 1 s
      | .got ds s1 =>
        match acceptLaunch s1 { issuer := some c, near := c, sys := x.mode, ctx := x.ctx, ws := ws, place := opB x w, ports := portSetOf s1 c.die x, descs := ds } with
        | .error k => refuse k s1
        | .ok (h, s2) =>
          let a := getX x w.xa + 0x38
          withStore c x a s1 fun wh => .done (putX (coreStore s2 c a wh (bytesOf 8 h)) c w.xd (word h))

/-! ## SBIND, SCLOSE (R260, R261) -/

/-- SBIND: the descriptor is checked for the port it names, and the record for its CTX, as LAUNCH checks it (R25). A descriptor has no owner but the
address that the core's table lets it read. -/
def execSbind (w : CWord) (s : State) : Host.Outcome State Fault Refusal :=
  withDesc w s 1 fun c x ws s =>
    let port := fld (ws.getD 3 0) 11 8
    let rec_ := getX x w.xb
    if fld rec_ 5 0 ≠ 0 ∨ !descOk port ws then .done (putX s c w.xd (status 1))
    else match readDesc c 1 rec_ s with
      | .wait => .wait
      | .trap k va s1 => .trap k va s1
      | .words rs s =>
        let a := rec_ + word (0x80 + 8 * port)
        if !x.mode ∧ fld (rs.getD 2 0) 51 40 ≠ x.ctx.toNat then .done (putX s c w.xd (status 3))
        else withStore c x a s fun wh => .done (putX (coreStore s c a wh (bytesOf 8 (getX x w.xa).toNat)) c w.xd 0)

/-- SCLOSE. -/
def execSclose (w : CWord) (s : State) : Host.Outcome State Fault Refusal :=
  atCore w s fun c x s =>
    let p := w.imm.toNat % 16
    match myLaunch s c (getX x w.xa) with
    | none => .done (putX s c w.xd (status 3))
    | some (l, y) =>
      if (getStream y p).words.isEmpty then .done (putX s c w.xd (status 1))
      else .done (putX (updStream s l p fun z => { z with closed := true }) c w.xd 0)

/-! ## CFGLD, CPF (R180, R199) -/

/-- CFGLD. A launch without its region has no plane to load (DEDUCED: -1). -/
def execCfgld (w : CWord) (s : State) : Host.Outcome State Fault Refusal :=
  atCore w s fun c x s =>
    match myLaunch s c (getX x w.xa) with
    | none => .done (putX s c w.xd (status 3))
    | some (l, y) =>
      if y.corner.isNone then .done (putX s c w.xd (status 1))
      else
        let p : Fin 4 := Fin.ofNat 4 w.imm.toNat
        let ld : Load := { pc := getX x w.xb, plane := p, cfgld := true, deferred := y.active = some p, core := some c }
        .done (putX (setLaunch s l { y with loads := y.loads ++ [ld] }) c w.xd 0)

/-- Prefetches dropped, counted by cluster. -/
def cntCpf : Nat := 4

/-- Configuration lines that a cluster's core has fetched, counted by the level that supplied each (R344). -/
def countLinesCl (s : State) (c : ClusterId) (ctx : BitVec 12) (ks : List Nat) : State := ks.foldl (fun s k => countCluster s c ctx (0x43 + k) 1) s

/-- CPF: the whole image into a level, or nothing. -/
def execCpf (w : CWord) (s : State) : Host.Outcome State Fault Refusal :=
  atCore w s fun c x s =>
    let pc := getX x w.xa
    let l2 := !w.imm.getLsbD 0
    let drop : CoreRes := .done (countCl s c cntCpf)
    if fld pc 5 0 ≠ 0 then drop
    else match cfgLine s c l2 (coreTable x) x.ctx pc with
      | (_, .bad _ _) => drop
      | (s1, .got h k) =>
        match parseHeader pc h with
        | none => .done (countLinesCl s1 c x.ctx [k])
        | some (_, _, n) =>
          match cfgLines c l2 (coreTable x) x.ctx ((4 * n + 63) / 64) (pc + 64) s1 with
          | (_, .bad _ _ _) => drop
          | (s2, .got _ ks) => .done (countLinesCl s2 c x.ctx (k :: ks))

/-! ## Modules (R176, R181, R182) -/

/-- Lines of a module prefetched into L3 in address order, as far as they translate. -/
def warmLines (c : ClusterId) (es : List (Nat × RangeEntry)) (ctx : BitVec 12) : Nat → Word → State → State
  | 0, _, s => s
  | n + 1, va, s =>
    match cfgLine s c false es ctx va with
    | (s1, .got _ k) => warmLines c es ctx n (va + 64) (countLinesCl s1 c ctx [k])
    | (_, .bad _ _) => s

/-- R181: a good module descriptor: base, size, WARM. -/
def parseModule (ws : List Word) : Option (Word × Nat × Bool) :=
  let w (i : Nat) : Word := ws.getD i 0
  let size := (w 1).toNat
  if fld (w 0) 5 0 = 0 ∧ size % 64 = 0 ∧ 64 ≤ size ∧ size ≤ 2 ^ 40 ∧ fld (w 2) 63 1 = 0 ∧ ((List.range 5).all fun i => decide (w (3 + i) = 0)) then
    some (w 0, size, wbit (w 2) 0)
  else none

/-- MODLD: once every earlier store of the core has performed (R176), also where it is then refused. R31 does not list it among the posts that
wait for the store buffer (DEDUCED, log 88). -/
def execModld (w : CWord) (s : State) : Host.Outcome State Fault Refusal :=
  withDesc w s 1 fun c x ws s =>
    let refuse (k : Nat) : CoreRes := .done (putX s c w.xd (status k))
    if !x.sb.isEmpty then .wait
    else match parseModule ws with
      | none => refuse 1
      | some (base, size, warm) =>
        let d := getDie s c.die
        let meets (m : Module) : Bool :=
          decide (m.st = modLoaded ∧ m.ctx = x.ctx ∧ m.base.toNat < base.toNat + size ∧ base.toNat < m.base.toNat + m.size)
        if d.modules.any fun (_, m) => meets m then refuse 1
        else match (List.range 256).find? fun k => (aget ({} : Module) d.modules k).st = 0 with
          | none => refuse 5
          | some k =>
            let g := (aget ({} : Module) d.modules k).gen + 1
            let gen := if g = 0 then 1 else g
            let s1 := updDie s c.die fun y =>
              { y with modules := aset y.modules k { st := modLoaded, gen := gen, ctx := x.ctx, base := base, size := size, cl := c.lcl } }
            let s2 := cfgInvalidate s1 c.die x.ctx base size
            let s3 := if warm then warmLines c (coreTable x) x.ctx (min (size / 64) 131072) base s2 else s2
            .done (putX s3 c w.xd (word (k * 65536 + gen.toNat)))

/-- MODUL. -/
def execModul (w : CWord) (s : State) : Host.Outcome State Fault Refusal :=
  atCore w s fun c x s =>
    match modOf (getDie s c.die) (getX x w.xa) with
    | none => .done (putX s c w.xd (status 3))
    | some (k, m) =>
      if !x.mode && decide (m.ctx ≠ x.ctx) then .done (putX s c w.xd (status 3))
      else if m.st = modUnloading then .done (putX s c w.xd (status 4))
      else .done (putX (updDie s c.die fun y => { y with modules := aset y.modules k { m with st := modUnloading } }) c w.xd 0)

/-! ## RSW (R141, R190), DSELC (R189) -/

/-- A command of RSW: row, column, field, value; none when it is no command for F0 to F5 of a tile. -/
def rswCmd (v : BitVec 32) : Option (Nat × Nat × Nat × BitVec 16) :=
  let fn := (v.extractLsb' 16 6).toNat
  if v.extractLsb' 22 10 = 0x3FF ∨ 5 < fn then none
  else some ((v.extractLsb' 27 5).toNat, (v.extractLsb' 22 5).toNat, fn, v.extractLsb' 0 16)

/-- Fields of page 1 of a plane written in a tile. -/
def withFields (x : Tile) (p k : Nat) (cmds : List (Nat × Nat × BitVec 16)) : Tile :=
  cmds.foldl (fun x (j, fn, v) => if j = k then setField x p 1 fn v else x) x

/-- RSW. -/
def execRsw (w : CWord) (s : State) : Host.Outcome State Fault Refusal :=
  atCore w s fun c x s =>
    let stat (k : Nat) : CoreRes := .done (putX s c w.xd (status k))
    let v := getX x w.xb
    let words : List (BitVec 32) := if w.imm.getLsbD 1 then [v.extractLsb' 0 32, v.extractLsb' 32 32] else [v.extractLsb' 0 32]
    match myLaunch s c (getX x w.xa) with
    | none => stat 3
    | some (l, y) =>
      match y.active with
      | none => stat 1
      | some p =>
        let b := getPlane y p.val
        let cmds := words.map rswCmd
        let inside : Bool := cmds.all fun o => match o with | some (i, j, _, _) => decide (i < b.fh ∧ j < b.fw) | none => false
        if !inside then stat 1
        else
          let ts := copyTiles l y b.fh b.fw
          let all := cmds.flatMap fun o => match o with
            | some (i, j, fn, u) => (ts.filter fun e => e.2.1 = i && e.2.2 = j).map fun e => (tileKey e.1, fn, u)
            | none => []
          let before := (y.rsws.filter fun r => r.plane = p).flatMap (·.cmds)
          let ok := ts.all fun (t, _, _) =>
            !(all.any fun e => e.1 = tileKey t) || boxesOk (withFields (getTile s t) p.val (tileKey t) (before ++ all)) p.val
          if !ok then stat 2
          else if 16 ≤ y.rsws.length then stat 5
          else .done (putX (setLaunch s l { y with rsws := y.rsws ++ [⟨w.imm.getLsbD 0, p, all⟩] }) c w.xd 0)

/-- DSELC. A launch with no active plane has no phase to decide on (DEDUCED: -1). -/
def execDselc (w : CWord) (s : State) : Host.Outcome State Fault Refusal :=
  atCore w s fun c x s =>
    match myLaunch s c (getX x w.xa) with
    | none => .done (putX s c w.xd (status 3))
    | some (l, y) =>
      if y.active.isNone then .done (putX s c w.xd (status 1))
      else .done (putX (decidePlane s l (Fin.ofNat 4 w.imm.toNat)) c w.xd 0)

end Sys2Proof.Machine
end

