-- ==== Sys2Proof/Machine/Ranges.lean ====
section
/-! DEFINITION. Answers to page requests (R315, R316), RINV and shoot-downs (R317 to R320). -/
namespace Sys2Proof.Machine

/-! ## Parties and their records (R311, R315, R375) -/

/-- The core that posted what an engine's request is for. -/
def engineCore (s : State) (e : EngineId) (w : Nat × Nat) : ClusterId :=
  match e with
  | .copy c => c
  | .collective d => match (getDie s d).collective.queue.head? with | some t => t.core | none => ⟨d, 0⟩
  | .network d => match (getDie s d).wreqs.find? (fun q => q.reqs.any fun r => r.2 = w) with | some q => q.core | none => ⟨d, 0⟩

/-- A record to the queue of the party of a request. -/
def partyRec (s : State) (ctx : BitVec 12) (p : Party) (w : Nat × Nat) (r : Rec) : State :=
  match p with
  | .node t _ => recT s t r
  | .core c | .want c => raiseRec s c { r with ctx := ctx }
  | .stream l _ | .load l | .gate l => recL s l r
  | .engine e => raiseRec s (engineCore s e w) { r with ctx := ctx }

/-- The core in whose cluster a party's records go. -/
def partyCore (s : State) (p : Party) : Option ClusterId :=
  let home (l : LaunchId) : Option ClusterId := (findLaunch s l).map (homeOf s l)
  match p with
  | .node t _ => match ownerOf s t with | some l => home l | none => some (clusterOf s t)
  | .core c | .want c => some c
  | .stream l _ | .load l | .gate l => home l
  | .engine e => some (engineCore s e (0, 0))

/-- R315: the FAULT record of a failed answer: for node, stream, MCAST and configuration accesses, naming the first waiting access. -/
def failRec (s : State) (k : Nat) (r : PageReq) : State :=
  let x : Rec := { kind := 0x30, thr := r.thr, p0 := r.va, p1 := faultP1 k r.gen r.entry r.src 4 }
  match r.party with
  | .node t id =>
    let slot := match findAccess (getTile s t) id with | some a => a.slot.val | none => 0
    partyRec s r.ctx r.party (k, r.serial) { x with sub := slot }
  | .stream _ _ | .load _ => partyRec s r.ctx r.party (k, r.serial) x
  | _ => s

/-- A request failed: its record, and its waiters refused (R315). -/
def failReq (s : State) (d : Fin 4) (k : Nat) : State :=
  match afind (getDie s d).reqs k with
  | none => s
  | some r => answerReq (failRec s k r) d k false

/-! ## RINV (R315 to R319) -/

/-- R317: the operand's layout: request, mode, entry. -/
def parseRinv (b : Word) : Option (Nat × Nat × Nat) :=
  let req := fld b 23 16
  let mode := fld b 9 8
  let e := fld b 5 0
  if fld b 63 24 = 0 ∧ fld b 15 10 = 0 ∧ fld b 7 6 = 0 ∧ mode ≠ 3 ∧ (if mode = 2 then e = 0 else req = 0) then some (req, mode, e) else none

/-- Whether a launch's port set comes from a core. -/
def setFrom (c : ClusterId) (x : Launch) : Bool := decide (x.issuer = some c)

/-- Whether a port translates an access through its copy of a core's entry. -/
def usesEntry (t : Tile) (ctx : BitVec 12) (e : Nat) (a : Access) : Bool :=
  (a.op = .mcast || a.w.space = .global) && match rangeFor (portTable t.port.entries) ctx a.ea with
    | some (k, _) => (t.port.entries[k]?).any fun y => y.src = e
    | none => false

/-- R319: every port copy and port set sourced from an entry changed; INVALIDATE (`off`) removes it from the port sets. Parked LDFs translated with
the old value return to their queues, and accesses that wait for residency translate again. -/
def spreadEntry (s : State) (c : ClusterId) (e : Nat) (new : RangeEntry) (off : Bool) : State :=
  let put (y : RangeCopy) : RangeCopy := if y.src = e then { y with entry := new } else y
  let tier (d : Die) : FaultSt → Bool
    | .open_ k _ => match afind d.reqs k with | some r => decide (r.cause = 3) | none => false
    | _ => false
  (launchesOf s c.die).foldl (fun s (l, x) =>
    if setFrom c x then
      let set := (x.portSet.map put).filter fun y => !off || y.src ≠ e
      let d := getDie s c.die
      updTiles (setLaunch s l { x with portSet := set }) (regionTiles l x) fun t =>
        { t with port := { t.port with entries := t.port.entries.map put,
                                       queue := t.port.queue.map fun a =>
                                         let b := if usesEntry t x.lr.ctx e a then { a with parked := none } else a
                                         if tier d b.fault then { b with fault := .none } else b } }
    else s) s

/-- R316: an answer that comes too late is counted. -/
def lateAnswer (s : State) (c : ClusterId) : State := updCl s c fun x => { x with late := min 65535 (x.late + 1) }

/-- R315: every pending request of the die that an entry matches is answered. -/
def answerBy (s : State) (d : Fin 4) (e : RangeEntry) : State :=
  if wbit e.base 0 && rangeWhole e then
    (getDie s d).reqs.foldl (fun s (k, r) =>
      if r.ctx.toNat = fld e.pa 51 40 ∧ r.gen.toNat = fld e.pa 59 52 ∧ fld e.base 63 16 ≤ r.page ∧ r.page ≤ fld e.lim 63 16 then answerReq s d k true
      else s) s
  else s

/-- What an accepted RINV does besides its sequence number. -/
def rinvAct (s : State) (c : ClusterId) (req mode e : Nat) : State :=
  let d := c.die
  let x := getCl s c
  let ent := aget ({} : RangeEntry) x.ranges e
  match mode with
  | 0 =>
    let off := { ent with base := ent.base &&& ~~~1 }
    spreadEntry (updCl s c fun x => { x with ranges := aset x.ranges e off }) c e off true
  | 1 =>
    if fld ent.pa 59 52 ≠ (ctxGen s d (ent.pa.extractLsb' 40 12)).toNat then lateAnswer s c
    else answerBy (spreadEntry s c e ent false) d ent
  | _ =>
    match afind (getDie s d).reqs req with
    | some r => if r.gen = ctxGen s d r.ctx then failReq s d req else lateAnswer s c
    | none => lateAnswer s c

/-- RINV (R317). -/
def execRinv (w : CWord) (s : State) : Host.Outcome State Fault Refusal :=
  atCore w s fun c x s =>
    if !x.mode then privOf .rinv w s
    else match parseRinv (opB x w) with
      | none => .done (putX s c w.xd (status 1))
      | some (req, mode, e) =>
        if 4 ≤ x.shoots.length then .done (putX s c w.xd (status 5))
        else
          let (n, s1) := fresh (rinvAct s c req mode e)
          .done (putX (updCl s1 c fun y => { y with nextShoot := y.nextShoot + 1, shoots := y.shoots ++ [⟨x.nextShoot, mode, e, n⟩] }) c w.xd
            (word x.nextShoot))

/-- Whether an access that may have been translated with an entry's old value has still to perform: an earlier one of the core, a granule of
a packet being placed through the core's table, or a piece of an MCAST request of a launch of the core. -/
def shootWaits (s : State) (c : ClusterId) (n : Nat) : Bool :=
  let x := getCl s c
  x.sb.any (fun e => e.seq < n) || x.loads.any (fun e => e.seq < n) ||
  (getDie s c.die).eps.any (fun (_, e) => e.landing.any fun l => l.core = c && decide (l.seq ≤ n)) ||
  s.slices.any fun (_, y) => y.mcast.any fun e => decide (e.id < n) && e.members.any fun m => match ownerOf s m.tile with
    | some l => match findLaunch s l with | some z => setFrom c z | none => false
    | none => false

/-- SHOOTDOWN_COMPLETE (R318 to R320): the oldest shoot-down of a core completes. -/
def execShootdownComplete (s : State) : Host.Outcome State Fault Refusal :=
  match s.here with
  | .core c =>
    let x := getCl s c
    match x.shoots with
    | [] => .next s
    | y :: rest =>
      if shootWaits s c y.before then .next s else .next (setCl s c { x with shoots := rest, done := BitVec.ofNat 32 y.num })
  | _ => .next s

end Sys2Proof.Machine
end

