-- ==== Sys2Proof/Machine/Flits.lean ====
section
/-! DEFINITION. Keys, ranks and ports (R328, R329), and the sending of flits (R389, R390). -/
namespace Sys2Proof.Machine

/-! ## Keys and ranks (R328, R329) -/

/-- The key of a context's traffic: its partition's; system software's is 0. -/
def ctxKey (s : State) (d : Fin 4) (ctx : BitVec 12) : Nat := if ctx = 0 then 0 else fld (aget 0 (getDie s d).pctl (ctxPart s d ctx)) 11 0

/-- R328: whether a key passes a port: bits 0 to 15 are the Yunajor Link ports, 16 and 17 the Ultra Ethernet ports. -/
def keyPasses (x : Die) (key bit : Nat) : Bool :=
  decide (key = 0) || x.pktab.any fun (_, v) => wbit v 63 && decide (fld v 59 48 = key) && wbit v bit

/-- R329: device and die of a rank of a context's partition. -/
def rankOf (s : State) (d : Fin 4) (ctx : BitVec 12) (r : Nat) : Option (Nat × Fin 4) :=
  let x := getDie s d
  let p := ctxPart s d ctx
  let w := memWord s (fld (aget 0 x.rkbase p) 38 3 * 8 + 8 * r)
  if r < fld (aget 0 x.pctl p) 49 32 ∧ wbit w 63 ∧ fld w 62 19 = 0 then some (fld w 16 0, Fin.ofNat 4 (fld w 18 17)) else none

/-- The Yunajor Link ports of a die that are up. -/
def ylUp (x : Die) : List (Fin 16) := (List.range 16).filterMap fun p => if (aget ({} : YlPort) x.yl p).st = 2 then some (Fin.ofNat 16 p) else none

/-- Endpoints of a die's network engine: NECTL.NEP, 256 at most (R395). -/
def epCount (x : Die) : Nat := fld x.nectl 8 0

/-! ## Drops at ports (R328) -/

/-- The key of a flit or packet as its 12 bits. -/
def key12 (k : Nat) : BitVec 12 := BitVec.ofNat 12 k

/-- A drop counted with those of its sender and key. -/
def noteDrop (key : BitVec 12) (core : Option ClusterId) (ctx : BitVec 12) (l : List PortDrop) : List PortDrop :=
  let same (y : PortDrop) : Bool := y.key = key && y.core = core && y.ctx = ctx
  if l.any same then l.map fun y => if same y then { y with count := y.count + 1 } else y
  else l ++ [{ count := 1, key := key, core := core, ctx := ctx }]

/-- R328: a flit or packet dropped at a port for its key; ports 16 and 17 are the Ultra Ethernet ports. -/
def portDrop (s : State) (d : Fin 4) (p : Nat) (incoming : Bool) (key : BitVec 12) (core : Option ClusterId) (ctx : BitVec 12) : State :=
  updDie s d fun x => { x with portDrops := aupd [] x.portDrops (2 * p + flag incoming 0) (noteDrop key core ctx) }

def getYl (s : State) (d : Fin 4) (p : Fin 16) : YlPort := aget {} (getDie s d).yl p.val
def updYl (s : State) (d : Fin 4) (p : Fin 16) (f : YlPort → YlPort) : State := updDie s d fun x => { x with yl := aupd {} x.yl p.val f }

/-! ## Sending -/

/-- Flits of a port's replay buffer (R389). -/
def ylBuffer : Nat := 512

/-- A flit leaves a port, numbered in the port's sequence and kept for replay; with the replay buffer full it waits (R389). -/
def emitFlit (s : State) (d : Fin 4) (p : Fin 16) (f : Flit) : State :=
  let y := getYl s d p
  if ylBuffer ≤ y.sent.length then updYl s d p fun y => { y with waiting := y.waiting ++ [f] }
  else
    let g := { f with seq := y.nextSeq }
    let s1 := updYl s d p fun y => { y with nextSeq := y.nextSeq + 1, sent := y.sent ++ [g] }
    { s1 with out := s1.out ++ [.flit d p g] }

/-- Waiting flits leave while the replay buffer has room. -/
def drainYl : Nat → State → Fin 4 → Fin 16 → State
  | 0, s, _, _ => s
  | n + 1, s, d, p =>
    match (getYl s d p).waiting with
    | [] => s
    | f :: fs =>
      if ylBuffer ≤ (getYl s d p).sent.length then s
      else drainYl n (emitFlit (updYl s d p fun y => { y with waiting := fs }) d p f) d p

/-- The link's own flits carry no number of their own and are not kept. -/
def emitLink (s : State) (d : Fin 4) (p : Fin 16) (b : FlitBody) : State :=
  { s with out := s.out ++ [.flit d p { dev := 0, die := 0, seq := 0, pkey := 0, crcOk := true, body := b }] }

/-- The ports of a die that are up and reach a device (R389). -/
def waysTo (s : State) (d : Fin 4) (dev : Nat) : List (Fin 16) := (ylUp (getDie s d)).filter fun p => Config.linkReaches d.val p.val dev

/-- A message to a die of another device: over the first port up that reaches it and that its key passes; dropped and counted at the first that reaches
it where its key passes none; false when no port that reaches it is up (R328, R389). -/
def sendAway (s : State) (d : Fin 4) (core : Option ClusterId) (ctx : BitVec 12) (peer : Nat × Fin 4) (b : FlitBody) : State × Bool :=
  let key := ctxKey s d ctx
  let ways := waysTo s d peer.1
  match ways.find? fun p => keyPasses (getDie s d) key p.val with
  | some p => (emitFlit s d p { dev := peer.1, die := peer.2, seq := 0, pkey := key12 key, crcOk := true, body := b }, true)
  | none => match ways with
    | p :: _ => (portDrop s d p.val false (key12 key) core ctx, true)
    | [] => (s, false)

/-! ## Endpoint entries (R394) -/

/-- Word n of an endpoint's entry. -/
def epWord (s : State) (d : Fin 4) (i n : Nat) : Word := memWord s (fld (getDie s d).nectl 38 12 * 4096 + 64 * i + 8 * n)
def epPort (s : State) (d : Fin 4) (i : Nat) : Fin 2 := if wbit (epWord s d i 0) 56 then 1 else 0

end Sys2Proof.Machine
end

