-- ==== Sys2Proof/Machine/Tiers.lean ====
section
/-! DEFINITION. The Orangery: far tiers (R366, R368), promotions and demotions (R371 to R373), the residency gate (R374), TIER records
(R375), RESID (R376, R377). -/
namespace Sys2Proof.Machine

/-! ## Far tiers (R366, R368) -/

/-- Where a page's far copy lies: in this package, or at a peer or host (kind, number of the peer's die or endpoint, address). -/
inductive Far where
  | own (pa : Nat)
  | away (kind peer addr : Nat)
  deriving DecidableEq, Repr

/-- R368, R371: the far place of a map index; none where it is refused. -/
def farPlace (s : State) (d : Fin 4) (ctx : BitVec 12) (i : Nat) : Option Far :=
  let x := getDie s d
  let a := tierAddr s d ctx
  let kind := fld (memWord s (a + 0x10)) 63 62
  let peer := fld (memWord s (a + 0x10)) 16 0
  let addr := (memWord s (a + 0x18) + word (65536 * i)).toNat
  let key := ctxKey s d ctx
  if !wbit x.tierbase 63 || decide (mapPages s d ctx ≤ i) then none
  else if kind = 1 then
    match rankOf s d ctx peer with
    | none => none
    | some (dev, die) =>
      let pa := die.val * 2 ^ 37 + addr % 2 ^ 37
      if dev = Config.deviceNumber.toNat then some (.own pa)
      else if (waysTo s d dev).any fun p => keyPasses x key p.val then some (.away 1 (dev * 4 + die.val) pa) else none
  else if kind = 2 then
    if peer < epCount x ∧ keyPasses x key (16 + (epPort s d peer).val) then some (.away 2 peer addr) else none
  else none

/-- R328, R371: the port that refuses a far place for its key, if one does: the first up that reaches the peer, or the endpoint's. -/
def farRefusal (s : State) (d : Fin 4) (ctx : BitVec 12) : Option Nat :=
  let x := getDie s d
  let w := memWord s (tierAddr s d ctx + 0x10)
  let peer := fld w 16 0
  let shut (p : Nat) : Bool := !keyPasses x (ctxKey s d ctx) p
  if fld w 63 62 = 1 then
    match rankOf s d ctx peer with
    | some (dev, _) =>
      let ways := waysTo s d dev
      if dev ≠ Config.deviceNumber.toNat ∧ ways.all (fun p => shut p.val) then ways.head?.map (·.val) else none
    | none => none
  else if fld w 63 62 = 2 ∧ peer < epCount x ∧ shut (16 + (epPort s d peer).val) then some (16 + (epPort s d peer).val)
  else none

/-- R328: a transfer that a port refused is counted there with the drops of its sender. -/
def farDrop (s : State) (d : Fin 4) (m : TierMove) : State :=
  match farRefusal s d m.ctx with
  | some p => portDrop s d p false (key12 (ctxKey s d m.ctx)) (partyCore s m.party) m.ctx
  | none => s

/-- Key of a byte of a far tier. -/
def farKey (kind peer addr : Nat) : Nat := (kind * 2 ^ 20 + peer) * 2 ^ 64 + addr

/-- A page's bytes and full-empty bits as they stand far. -/
def farRead (s : State) : Far → List Byte × List Bool
  | .own pa => (memRead s pa 65536, (List.range 1024).map fun g => isFull s (pa + 64 * g))
  | .away kind peer a =>
    ((List.range 65536).map fun i => (afind s.far (farKey kind peer (a + i))).getD (Config.farByte kind peer (a + i)),
     (List.range 1024).map fun g => (afind s.farFull (farKey kind peer (a + 64 * g) / 64)).getD (Config.farGranFull kind peer (a + 64 * g)))

/-- The full-empty bits of a page of memory written. -/
def putFull (s : State) (pa : Nat) (bits : List Bool) : State := bits.zipIdx.foldl (fun s (b, g) => setFull s (pa + 64 * g) b) s

/-- A page in a frame: its bytes and bits written, no granule of it poisoned (R373, R429). -/
def putPage (s : State) (pa : Nat) (p : List Byte × List Bool) : State :=
  (List.range 1024).foldl (fun s g => setPoison s (pa + 64 * g) false) (putFull (memWrite s pa p.1) pa p.2)

/-- R372: a page copied down. -/
def farWrite (s : State) (pa : Nat) : Far → State
  | .own far => putPage s far (farRead s (.own pa))
  | .away kind peer a =>
    let page := farRead s (.own pa)
    { s with far := page.1.zipIdx.foldl (fun m (b, i) => aset m (farKey kind peer (a + i)) b) s.far,
             farFull := page.2.zipIdx.foldl (fun m (b, g) => aset m (farKey kind peer (a + 64 * g) / 64) b) s.farFull }

/-! ## Frames and victims (R371, R372, R386) -/

/-- Every range entry of a die: its cores' tables, then its launches' port sets. -/
def dieEntries (s : State) (d : Fin 4) : List RangeEntry :=
  (s.clusters.flatMap fun (k, x) => if k / 64 = d.val then x.ranges.map (·.2) else []) ++
  (launchesOf s d).flatMap fun (_, x) => x.portSet.map (·.entry)

/-- The frame and the virtual address that an entry of the die gives a map index of a context. -/
def frameOf (s : State) (d : Fin 4) (ctx : BitVec 12) (i : Nat) : Option (Nat × Word) :=
  ((dieEntries s d).find? fun e => wbit e.base 0 && rangeWhole e && !wbit e.base 5 && decide (fld e.pa 51 40 = ctx.toNat) &&
      decide (fld e.vo 15 0 ≤ i) && decide (i ≤ fld e.vo 15 0 + (fld e.lim 63 16 - fld e.base 63 16))).map fun e =>
    let n := i - fld e.vo 15 0
    (fld e.pa 38 16 + n, word ((fld e.base 63 16 + n) * 65536))

/-- R372: the class in which a resident page can be a victim of a promotion for a context: 1 to 4. -/
def victimClass (s : State) (d : Fin 4) (want : BitVec 12) (fault : Bool) (ctx : BitVec 12) (i : Nat) : Option Nat :=
  let b := resByte s d ctx i
  let ws := b.getLsbD 1
  let acc := b.getLsbD 2
  let st := ctxState s d ctx
  let still := decide (st ≠ csRunning) && decide (st ≠ csYielding)
  if ctx = want then (if fault && !ws && !acc then some 4 else none)
  else if b.getLsbD 4 && !acc then some 1
  else if still then some (if ws then 3 else 2)
  else none

/-- A page that may be taken: its class, context, index and frame. -/
abbrev Cand := Nat × BitVec 12 × Nat × Nat

/-- R372: whether one candidate goes before another: lower class; then the context whose last slice ended earliest (the lower number where two
ended together); then the higher index. -/
def candBefore (s : State) (d : Fin 4) (a b : Cand) : Bool :=
  let ea := (getCtx s d a.2.1).sliceEnd
  let eb := (getCtx s d b.2.1).sliceEnd
  decide (a.1 < b.1) || (decide (a.1 = b.1) && (decide (ea < eb) || (decide (ea = eb) &&
    (decide (a.2.1 < b.2.1) || (decide (a.2.1 = b.2.1) && decide (b.2.2.1 < a.2.2.1))))))

/-- R372: the victim of a promotion for a context. -/
def victimFor (s : State) (d : Fin 4) (want : BitVec 12) (fault : Bool) : Option (BitVec 12 × Nat × Nat) :=
  let x := getDie s d
  let p := ctxPart s d want
  let cands : List Cand := x.frames.filterMap fun (f, (ctx, i)) =>
    if ctxPart s d ctx = p ∧ isResident s d ctx i ∧ !x.barred.contains (ctx, i) ∧
       !x.moves.any (fun n => !n.up && n.ctx = ctx && n.idx = i) then
      (victimClass s d want fault ctx i).map fun k => (k, ctx, i, f)
    else none
  (cands.foldl (fun (best : Option Cand) c => match best with
    | none => some c
    | some b => if candBefore s d c b then some c else some b) none).map (·.2)

/-! ## The residency gate (R374) -/

/-- Whether a SAVED context is the one chosen to resume, its gate not met yet (R337, R374). -/
def chosenSaved (s : State) (d : Fin 4) (ctx : BitVec 12) : Bool :=
  let z := getCtx s d ctx
  savedFree s d ctx && !servedBefore s d (savedTurn s d ctx) && decide (ctxDebt s d ctx < savedQuant s d ctx) && !z.gateOk && !gateFree s d ctx (savedResmin s d ctx)

/-- Whether the gate holds a launch. -/
def gateHeld (x : Launch) : Bool := decide (x.st = .waiting) && !x.gateOk

/-- The RESMIN of the gate that a launch is held by, if it is: its own, or its context's resumption. -/
def gateOf (s : State) (l : LaunchId) : Option Nat :=
  match findLaunch s l with
  | none => none
  | some x => if gateHeld x then some x.lr.resmin
    else if x.st = .saved ∧ chosenSaved s l.die x.lr.ctx then some (savedResmin s l.die x.lr.ctx) else none

/-- The first saved launch of a context, whose queue takes its gate's record. -/
def firstSaved (s : State) (d : Fin 4) (ctx : BitVec 12) : Option LaunchId :=
  ((ctxLaunches s d ctx).find? fun (_, x) => x.st = .saved).map (·.1)

/-- RESIDENCY_GATE_MET (R374, R375): a launch or a resumption goes on. -/
def execResidencyGateMet (s : State) : Host.Outcome State Fault Refusal :=
  match s.here with
  | .launch l =>
    match findLaunch s l with
    | none => .next s
    | some x =>
      if gateHeld x && gateMet s l.die x.lr.ctx x.lr.resmin then
        let s1 := recL s l { kind := 0x31, p1 := 2 }
        .next (updLaunch s1 l fun y => { y with gateOk := true })
      else .next s
  | .context d ctx =>
    match firstSaved s d ctx with
    | some l =>
      if chosenSaved s d ctx && gateMet s d ctx (savedResmin s d ctx) then
        .next (updCtx (recL s l { kind := 0x31, p1 := 2 }) d ctx fun z => { z with gateOk := true })
      else .next s
    | none => .next s
  | _ => .next s

/-! ## PROMOTION (R371, R373, R374) -/

def dropMove (s : State) (d : Fin 4) (k : Nat) : State := updDie s d fun x => { x with moves := x.moves.eraseIdx k }

/-- The request that a move answers, while it stands. -/
def moveReq (x : Die) (m : TierMove) : Option (Nat × PageReq) :=
  match m.req with
  | none => none
  | some k => match afind x.reqs k with
    | some r => if r.cause = 3 ∧ r.ctx = m.ctx ∧ r.idx = m.idx then some (k, r) else none
    | none => none

/-- A TIER record of a page (R375). -/
def tierRec (va : Word) (i ev : Nat) : Rec := { kind := 0x31, p0 := va, p1 := word (i * 2 ^ 32 + ev) }

/-- Whether a transfer with a far tier ends in error (R371, R375): with a peer or a host it may, with a die of this package it does not (log 52). -/
def farError (s : State) : Far → Bool
  | .own _ => false
  | .away kind peer _ => Config.farFails kind peer s.free
/-- The next transfer is another. -/
def farTried (s : State) : State := { s with free := s.free + 1 }

/-- R371: a promotion fails. -/
def failMove (s : State) (d : Fin 4) (k : Nat) (m : TierMove) : State :=
  let w := match moveReq (getDie s d) m with | some (n, r) => (n, r.serial) | none => (0, 0)
  let s1 := partyRec s m.ctx m.party w (tierRec m.va m.idx 3)
  let s2 := match moveReq (getDie s d) m, m.party with
    | some (n, _), _ => failReq s1 d n
    | none, .gate l => updLaunch s1 l fun x => { x with gateFail := m.idx :: x.gateFail }
    | none, _ => s1
  dropMove s2 d k

/-- A promotion's page is resident: its request is answered, and a core is told (R375). -/
def moveServed (s : State) (d : Fin 4) (k : Nat) (m : TierMove) : State :=
  let s1 := match moveReq (getDie s d) m with | some (n, _) => answerReq s d n true | none => s
  let s2 := match m.party with | .core c => raiseRec s1 c { tierRec m.va m.idx 1 with ctx := m.ctx } | _ => s1
  dropMove s2 d k

/-- R371: the page is copied up and published. -/
def copyUp (s : State) (d : Fin 4) (k : Nat) (m : TierMove) (far : Far) (frame : Nat) : State :=
  let p := ctxPart s d m.ctx
  let s1 := putPage s (frame * 65536) (farRead s far)
  let s2 := setResByte s1 d m.ctx m.idx ((resByte s1 d m.ctx m.idx &&& 6) ||| 1)
  let s3 := updDie s2 d fun x => { x with used := aupd 0 x.used p (· + 1), prom := x.prom + 1, frames := aset x.frames frame (m.ctx, m.idx) }
  settle (moveServed s3 d k m)

/-! ### Transfers with a peer (R390) -/

/-- The number that a move's requests carry: of its page, and of a granule of it. Moves of one page go one after another (R373). -/
def moveId (m : TierMove) (g : Nat) : Nat := (m.ctx.toNat * 65536 + m.idx) * 1024 + g

/-- A move of a die changed. -/
def setMove (s : State) (d : Fin 4) (k : Nat) (m : TierMove) : State := updDie s d fun x => { x with moves := x.moves.set k m }

/-- A request flit for every granule of a page to a die of a peer; false when no port that reaches it is up. -/
def askPeer (s : State) (d : Fin 4) (m : TierMove) (peer : Nat) (body : Nat → FlitBody) : State × Bool :=
  (List.range 1024).foldl (fun (z : State × Bool) g =>
    let (z1, ok) := sendAway z.1 d (partyCore s m.party) m.ctx (peer / 4, Fin.ofNat 4 peer) (body g)
    (z1, z.2 && ok)) (s, true)

/-- Whether a transfer under way has no port left that reaches its peer. -/
def peerLost (s : State) (d : Fin 4) (peer : Nat) : Bool := (waysTo s d (peer / 4)).isEmpty

/-- Moves that a die is making: 8 at once (R373). -/
def movesBusy (x : Die) : Nat := x.moves.countP fun n => n.withdrawn || n.away.isSome

/-- A demotion asked for. -/
def queueDown (s : State) (d : Fin 4) (m : TierMove) (ctx : BitVec 12) (i frame : Nat) : State :=
  let va := match frameOf s d ctx i with | some (_, v) => v | none => 0
  updDie s d fun x => { x with moves := x.moves ++ [{ up := false, ctx := ctx, idx := i, frame := frame, party := m.party, va := va, forCtx := m.ctx }] }

/-- Whether a promotion is still wanted: one for the gate only while the gate is short of pages, one for a fault only while its request stands. -/
def moveWanted (s : State) (d : Fin 4) (m : TierMove) : Bool :=
  match m.party with
  | .gate l => match gateOf s l with | some n => !gateMet s d m.ctx n | none => false
  | _ => m.req.isNone || (moveReq (getDie s d) m).isSome

/-- Such frames are free, and count in USED no more. -/
def freeStale (s : State) (d : Fin 4) : State :=
  (staleFrames s d).foldl (fun s (f, (ctx, _)) =>
    let p := ctxPart s d ctx
    updDie s d fun x => { x with frames := adel x.frames f, used := aupd 0 x.used p (· - 1) }) s

/-! ### Frames, quota and the gate's order (R371, R374, R387) -/

/-- Promotions of a partition: those under way, and those that wait for a victim that they have asked for, but one. -/
def upInFlight (s : State) (d : Fin 4) (p : Nat) : Nat := (getDie s d).moves.countP fun n => n.up && n.away.isSome && decide (ctxPart s d n.ctx = p)
def upAsked (s : State) (d : Fin 4) (p k : Nat) : Nat :=
  (getDie s d).moves.zipIdx.countP fun (n, i) => n.up && n.asked && n.away.isNone && decide (i ≠ k) && decide (ctxPart s d n.ctx = p)
def goingDown (s : State) (d : Fin 4) (p : Nat) : Nat := (getDie s d).moves.countP fun n => !n.up && decide (ctxPart s d n.ctx = p)

/-- Pages that a partition may still take up, and how many of them a promotion may take that has asked for no victim of its own. -/
def freePages (s : State) (d : Fin 4) (p : Nat) : Nat := aget 0 (getDie s d).quota p - aget 0 (getDie s d).used p - upInFlight s d p
def looseFor (s : State) (d : Fin 4) (p k : Nat) : Nat := freePages s d p - (upAsked s d p k - goingDown s d p)

/-- R374: the next page of the working set that a held gate asks for. -/
def gateNext (s : State) (d : Fin 4) (ctx : BitVec 12) (l : LaunchId) (resmin : Nat) : Option Nat :=
  let x := getDie s d
  let ws := wsPages s d ctx
  let coming := (x.moves.filter fun m => m.up && m.ctx = ctx && ws.contains m.idx && !isResident s d ctx m.idx).length
  let failed := match findLaunch s l with | some y => y.gateFail | none => []
  if (ws.filter (isResident s d ctx)).length + coming < gateNeed s d ctx resmin then
    ws.find? fun i => !isResident s d ctx i && !failed.contains i && !x.moves.any fun m => m.ctx = ctx && m.idx = i && m.up
  else none

/-- A held gate asks for a page. -/
def gateAsk (s : State) (d : Fin 4) (ctx : BitVec 12) (l : LaunchId) (resmin : Nat) : State :=
  match gateNext s d ctx l resmin with
  | some i =>
    let (f, va) := (frameOf s d ctx i).getD (0, 0)
    updDie s d fun x => { x with moves := x.moves ++ [{ up := true, ctx := ctx, idx := i, frame := f, party := .gate l, va := va, forCtx := ctx }] }
  | none => s

/-- Promotions of a gate that are not under way and have asked for no victim. -/
def gateUnasked (x : Die) (l : LaunchId) : Nat := x.moves.countP fun n => n.up && decide (n.party = .gate l) && n.away.isNone && !n.asked

/-- R374, R387: a gate's promotions begin in increasing map index, once it has asked for all its pages and the demotions for them are made. -/
def gateTurn (s : State) (d : Fin 4) (k : Nat) (m : TierMove) : Bool :=
  let x := getDie s d
  match m.party with
  | .gate l =>
    !(x.moves.take k).any (fun n => n.up && decide (n.party = m.party) && n.away.isNone) &&
    !x.moves.any (fun n => !n.up && n.forCtx = m.ctx) &&
    (match gateOf s l with | some n => (gateNext s d m.ctx l n).isNone | none => true)
  | _ => true

/-- Whether a promotion asks for a victim: none is free for it, or, of a gate, for one of the gate's (R371, R387). -/
def wantsVictim (s : State) (d : Fin 4) (k : Nat) (m : TierMove) : Bool :=
  let loose := looseFor s d (ctxPart s d m.ctx) k
  !m.asked && match m.party with
    | .gate l => decide (loose < gateUnasked (getDie s d) l)
    | _ => decide (loose = 0)

/-- R371: a promotion that has its frame and its place in the quota begins: from a peer by request flits, from elsewhere at once. -/
def beginUp (s : State) (d : Fin 4) (k : Nat) (m : TierMove) (far : Far) (frame : Nat) : State :=
  if farError s far then failMove (farTried s) d k m
  else match far with
    | .away 1 peer a =>
      match askPeer (farTried s) d m peer fun g => .readRequest (moveId m g) Config.deviceNumber.toNat d (a + 64 * g) with
      | (s1, true) => setMove s1 d k { m with away := some (peer, a, List.range 1024), frame := frame }
      | (s1, false) => failMove s1 d k m
    | _ => copyUp (farTried s) d k m far frame

/-- R371, step 1: a frame that another page holds: that page is asked down, once its context, if it had used the page, has left RUNNING and YIELDING. -/
def takeFrame (s : State) (d : Fin 4) (k : Nat) (m : TierMove) (c : BitVec 12) (i frame : Nat) : State :=
  let x := getDie s d
  let st := ctxState s d c
  let runs := decide (st = csRunning) || decide (st = csYielding)
  if (x.moves.any fun n => !n.up && n.ctx = c && n.idx = i) || x.barred.contains (c, i) || (runs && m.waits = some c) then s
  else if runs && (resByte s d c i).getLsbD 2 then setMove s d k { m with waits := some c }
  else queueDown s d m c i frame

/-- R371, step 2 and on: a promotion whose frame is free. -/
def takePage (s : State) (d : Fin 4) (k : Nat) (m : TierMove) (far : Far) (frame : Nat) : State :=
  let p := ctxPart s d m.ctx
  let victim := victimFor s d m.ctx (match m.party with | .gate _ | .want _ => false | _ => true)
  let none_ (s : State) : State := match m.party with
    | .gate _ => s
    | .want _ => updDie (dropMove s d k) d fun x => { x with wantDrops := x.wantDrops + 1 }
    | _ => failMove s d k m
  match (if wantsVictim s d k m && decide (aget 0 (getDie s d).used p ≤ aget 0 (getDie s d).quota p) then victim else none) with
  | some (c, i, f) => queueDown (setMove s d k { m with asked := true }) d m c i f
  | none =>
    if (if m.asked then freePages s d p else looseFor s d p k) = 0 then
      if m.asked && decide (goingDown s d p = 0) then setMove s d k { m with asked := false }
      else if m.asked || decide (aget 0 (getDie s d).quota p < aget 0 (getDie s d).used p) || decide (upInFlight s d p ≠ 0) ||
          decide (goingDown s d p ≠ 0) then s
      else none_ s
    else if gateTurn s d k m && decide (movesBusy (getDie s d) < 8) then beginUp s d k m far frame
    else s

/-- R371: a promotion at its turn. -/
def promote (s : State) (d : Fin 4) (k : Nat) (m : TierMove) : State :=
  let x := getDie s d
  match m.away with
  | some (peer, a, []) => copyUp s d k m (.away 1 peer a) m.frame
  | some (peer, _, _) => if peerLost s d peer then failMove s d k m else s
  | none =>
    if (x.moves.take k).any fun n => n.ctx = m.ctx && n.idx = m.idx then s
    else if !moveWanted s d m then dropMove s d k
    else if isResident s d m.ctx m.idx then moveServed s d k m
    else match farPlace s d m.ctx m.idx, (if m.req.isSome then some m.frame else (frameOf s d m.ctx m.idx).map (·.1)) with
      | some far, some frame =>
        match afind x.frames frame with
        | some (c, i) => takeFrame s d k m c i frame
        | none => if x.moves.any fun n => n.up && n.away.isSome && n.frame = frame then s else takePage s d k m far frame
      | none, _ => failMove (farDrop s d m) d k m
      | _, none => failMove s d k m

/-- PROMOTION (R371, R373, R374): a promotion asked for is made, or asks for the demotion it needs; a held gate asks for a page. -/
def execPromotion (s : State) : Host.Outcome State Fault Refusal :=
  match s.here with
  | .item d k =>
    match (getDie s d).moves[k]? with
    | some m => .next (if m.up then promote (freeStale s d) d k m else s)
    | none => .next s
  | .launch l =>
    match findLaunch s l with
    | some x => .next (if gateHeld x then gateAsk s l.die x.lr.ctx l x.lr.resmin else s)
    | none => .next s
  | .context d ctx =>
    match firstSaved s d ctx with
    | some l => .next (if chosenSaved s d ctx then gateAsk s d ctx l (savedResmin s d ctx) else s)
    | none => .next s
  | _ => .next s

/-! ## DEMOTION (R372, R373, R375) -/

/-- Whether an access translated to a frame has still to perform. -/
def frameBusy (s : State) (frame : Nat) : Bool :=
  (s.clusters.any fun (_, x) => x.sb.any (fun e => e.pa / 65536 = frame) || x.loads.any fun e => e.pa / 65536 = frame) ||
  s.slices.any (fun (_, y) => y.mcast.any fun e => e.pa / 65536 = frame) ||
  s.dies.any fun (_, x) => x.eps.any fun (_, e) => e.landing.any fun l => l.left.any fun g => g.2 / 65536 = frame

/-- R375: a demotion ends in an error: the page stays resident in its frame, and is demoted no more until TQUOTA is written. -/
def demoteFails (s : State) (d : Fin 4) (k : Nat) (m : TierMove) : State :=
  let s1 := setResByte s d m.ctx m.idx ((resByte s d m.ctx m.idx &&& 0x16) ||| 1)
  let s2 := updDie (dropMove s1 d k) d fun x => { x with barred := (m.ctx, m.idx) :: x.barred }
  recHv s2 d { tierRec m.va m.idx 4 with ctx := m.ctx }

/-- R372, step 4: a page copied down: its frame is released. -/
def release (s : State) (d : Fin 4) (k : Nat) (m : TierMove) (far : Far) : State :=
  let b := resByte s d m.ctx m.idx
  let s1 := setResByte (farWrite s (m.frame * 65536) far) d m.ctx m.idx (b &&& 0x16)
  let p := ctxPart s d m.ctx
  updDie (dropMove s1 d k) d fun x => { x with used := aupd 0 x.used p (· - 1), dem := x.dem + 1, frames := adel x.frames m.frame }

/-- R372, step 3: a page withdrawn and drained is copied down, to a peer by request flits, elsewhere at once; or its far tier refuses it. -/
def copyDown (s : State) (d : Fin 4) (k : Nat) (m : TierMove) : State :=
  match farPlace s d m.ctx m.idx with
  | none => demoteFails (farDrop s d m) d k m
  | some far =>
    if farError s far then demoteFails (farTried s) d k m
    else match far with
      | .away 1 peer a =>
        let pa := m.frame * 65536
        match askPeer (farTried s) d m peer fun g =>
            .writeRequest (moveId m g) Config.deviceNumber.toNat d (a + 64 * g) (memRead s (pa + 64 * g) 64) (isFull s (pa + 64 * g)) with
        | (s1, true) => setMove s1 d k { m with away := some (peer, a, List.range 1024) }
        | (s1, false) => demoteFails s1 d k m
      | _ => release (farTried s) d k m far

/-- A demotion at its turn: RES is withdrawn, in the order in which its promotions asked; then, drained, the page is copied down and its frame
released. -/
def demote (s : State) (d : Fin 4) (k : Nat) (m : TierMove) : State :=
  let x := getDie s d
  let b := resByte s d m.ctx m.idx
  if !m.withdrawn then
    if (x.moves.take k).any (fun n => (n.ctx = m.ctx && n.idx = m.idx) || (!n.up && !n.withdrawn && n.forCtx = m.forCtx)) || decide (8 ≤ movesBusy x) then s
    else if !isResident s d m.ctx m.idx then dropMove s d k
    else setResByte (setMove s d k { m with withdrawn := true }) d m.ctx m.idx ((b &&& 0x16) ||| 8)
  else if frameBusy s m.frame then s
  else match m.away with
    | some (peer, a, []) => release s d k m (.away 1 peer a)
    | some (peer, _, _) => if peerLost s d peer then demoteFails s d k m else s
    | none => copyDown s d k m

/-- DEMOTION (R372, R373, R375). -/
def execDemotion (s : State) : Host.Outcome State Fault Refusal :=
  match s.here with
  | .item d k =>
    match (getDie s d).moves[k]? with
    | some m => .next (if m.up then s else demote s d k m)
    | none => .next s
  | _ => .next s

/-! ## RESID (R376, R377) -/

/-- What RESID does to a map byte: WS set, or WS cleared and DROP set. -/
def residByte (mode : Nat) (b : Byte) : Byte := if mode = 1 then b ||| 2 else (b &&& 0x1D) ||| 0x10

/-- R377: the hint of a run of pages. -/
def residHint (s : State) (c : ClusterId) (ctx : BitVec 12) (mode first n : Nat) (va : Word) : State :=
  let d := c.die
  let is := (List.range n).map (first + ·)
  let s1 := (is.filter fun i => wbit (getDie s d).tierbase 63 && decide (i < mapPages s d ctx)).foldl (fun s i =>
    setResByte s d ctx i (residByte mode (resByte s d ctx i))) s
  if mode = 1 then
    let moves := (is.filter fun i => !isResident s d ctx i).map fun i =>
      ({ up := true, ctx := ctx, idx := i, frame := 0, party := .want c, va := word ((fld va 63 16 + (i - first)) * 65536), forCtx := ctx } : TierMove)
    updDie s1 d fun x => { x with wanted := x.wanted ++ is.map fun i => (ctx, i), moves := x.moves ++ moves }
  else s1

/-- RESID (R376, R377). -/
def execResid (w : CWord) (s : State) : Host.Outcome State Fault Refusal :=
  atCore w s fun c x s =>
    let va := getX x w.xa
    let n := (getX x w.xb).toNat
    let mode := fld w.imm 1 0
    if mode = 3 then illegalOf .resid w s
    else match rangeFor (coreTable x) x.ctx va with
      | none => .done (putX s c w.xd (status 3))
      | some (_, e) =>
        if n = 0 ∨ 65536 < n ∨ fld e.lim 63 16 < fld va 63 16 + n - 1 then .done (putX s c w.xd (status 1))
        else if wbit e.base 5 then .done (putX s c w.xd (word n))
        else
          let first := fld e.vo 15 0 + (fld va 63 16 - fld e.base 63 16)
          let count := ((List.range n).filter fun i => isResident s c.die x.ctx (first + i)).length
          .done (putX (if mode = 0 then s else residHint s c x.ctx mode first n va) c w.xd (word count))

end Sys2Proof.Machine
end

