-- ==== Sys2Proof/Machine/Parterre.lean ====
section
/-! DEFINITION. The Parterre: evaluation, exchange and abandonment of pairs, the change of the cluster map (R378 to R384). -/
namespace Sys2Proof.Machine

/-- Cycles of 100 µs, 10 ms, 50 ms and 200 ms. -/
def cyc100us : Nat := 100 * Config.cyclesPerUs
def cyc10ms : Nat := 10000 * Config.cyclesPerUs
def cyc50ms : Nat := 50000 * Config.cyclesPerUs
def cyc200ms : Nat := 200000 * Config.cyclesPerUs

/-! ## Evaluation (R380, R381) -/

/-- Manhattan distance on the grid of 8 by 8 clusters. -/
def gridDist (a b : Nat) : Nat := ((a / 8 : Int) - (b / 8 : Nat)).natAbs + ((a % 8 : Int) - (b % 8 : Nat)).natAbs

/-- R380: D and D′ of a pair of physical clusters. -/
def pairDist (x : Die) (a b : Nat) : Nat × Nat :=
  let tr (i y : Nat) : Nat := aget 0 x.traf (i * 64 + y)
  (List.range 64).foldl (fun (acc : Nat × Nat) y =>
    (acc.1 + tr a y * gridDist a y + tr b y * gridDist b y, acc.2 + tr a y * gridDist b y + tr b y * gridDist a y)) (0, 0)

/-- The tiles of a physical cluster. -/
def clusterTiles (d : Fin 4) (p : Nat) : List TileId := rectTiles d (8 * (p / 8)) (8 * (p % 8)) 8 8

/-- The launches with tiles on a physical cluster. -/
def onPhys (s : State) (d : Fin 4) (p : Nat) : List (LaunchId × Launch) :=
  (launchesOf s d).filter fun (_, x) => overlapsRegion (8 * (p / 8)) (8 * (p % 8)) 8 8 x

/-- Whether a region lies wholly inside a physical cluster. -/
def insidePhys (p : Nat) (x : Launch) : Bool :=
  match x.corner with
  | none => true
  | some (r, c) => decide (r / 8 * 8 + c / 8 = p) && decide ((r + x.lr.rows) / 8 = r / 8) && decide ((c + x.lr.cols) / 8 = c / 8)

/-- The valid partition that a physical cluster lies wholly inside. -/
def physPart (x : Die) (p : Nat) : Option Nat :=
  (List.range 16).find? fun q =>
    let v := aget 0 x.prect q
    wbit v 63 && decide (fld v 23 18 ≤ 8 * (p / 8)) && decide (8 * (p / 8) + 7 ≤ fld v 23 18 + fld v 11 6) &&
      decide (fld v 17 12 ≤ 8 * (p % 8)) && decide (8 * (p % 8) + 7 ≤ fld v 17 12 + fld v 5 0)

/-- Whether a physical cluster is empty: no region allotted, its core stopped. -/
def physEmpty (s : State) (d : Fin 4) (p : Nat) : Bool :=
  (clusterTiles d p).all (fun t => (getTile s t).owner.isNone) && decide ((getCl s (lclOfPcl s d (fin64 p))).run = .stopped)

/-- R381: whether every region of a physical cluster may be moved: it lies wholly inside, and its launch allows it. -/
def movable (s : State) (d : Fin 4) (p : Nat) : Bool := (onPhys s d p).all fun (_, x) => insidePhys p x && x.lr.pmove

/-- R381: a long-resident occupant. One without a region is none. -/
def longResident (s : State) (d : Fin 4) (p : Nat) : Bool :=
  let ls := onPhys s d p
  !ls.isEmpty && movable s d p && ls.all fun (_, x) => decide (x.since + cyc50ms < s.clock) && decide (ctxState s d x.lr.ctx = csRunning)

/-- R381: an eligible cluster. -/
def eligible (s : State) (d : Fin 4) (p : Nat) : Bool :=
  let x := getDie s d
  (match physPart x p with | some q => wbit x.ptctl q | none => false) &&
  (physEmpty s d p || longResident s d p) &&
  (List.range 32).all (fun k => (getSlice s ⟨d, fin64 p, Fin.ofNat 32 k⟩).smap = 0) &&
  (match afind x.exchAt p with | some t => decide (t + cyc200ms ≤ s.clock) | none => true)

/-- The pairs that gain (R380, R381), in order of their lower and then their higher PCL. -/
def gaining (s : State) (d : Fin 4) : List Pair :=
  let x := getDie s d
  (List.range 64).flatMap fun a =>
    ([(a + 1, a % 8 ≠ 7), (a + 8, a < 56)] : List (Nat × Bool)).filterMap fun (b, edge) =>
      if edge && eligible s d a && eligible s d b && decide (physPart x a = physPart x b) && !(physEmpty s d a && physEmpty s d b) then
        let (m, n) := pairDist x a b
        if 0 < m ∧ 8 * n ≤ 7 * m then some ⟨fin64 a, fin64 b, m, n⟩ else none
      else none

/-- R381: the pair of greatest D - D′, the first of equals; then the rest that share no cluster with it. -/
def armPairs : Nat → List Pair → List Pair
  | 0, _ => []
  | n + 1, ps =>
    match ps.foldl (fun (best : Option Pair) p => match best with
      | none => some p
      | some q => if (q.dist : Int) - q.dist' < p.dist - p.dist' then some p else some q) none with
    | none => []
    | some p => p :: armPairs n (ps.filter fun q => q.a ≠ p.a && q.a ≠ p.b && q.b ≠ p.a && q.b ≠ p.b)

/-- Regions held for an exchange go on (R382). -/
def freeHeld (s : State) (d : Fin 4) (which : Launch → Bool) : State :=
  ((launchesOf s d).filter fun (_, x) => x.hold.isSome && which x).foldl
    (fun s (l, _) => atBoundary (updLaunch s l fun x => { x with hold := none }) l true) s

/-- The physical cluster of a region's corner. -/
def cornerPhys (x : Launch) : Option Nat := x.corner.map fun (r, c) => r / 8 * 8 + c / 8

/-- Whether an evaluation is due: every 10 ms while the Parterre runs (R379, R380). -/
def evalDue (s : State) (d : Fin 4) : Bool := wbit (getDie s d).ptctl 63 && decide ((getDie s d).evalAt + cyc10ms ≤ s.clock)

/-- EVALUATION (R380, R381). -/
def execEvaluation (s : State) : Host.Outcome State Fault Refusal :=
  match s.here with
  | .die d =>
    if !evalDue s d then .next s
    else
      let armed := armPairs 32 (gaining s d)
      let s1 := updDie s d fun x => { x with traf := [], armed := armed, evalAt := s.clock }
      .next (freeHeld s1 d fun y => !armed.any fun p => cornerPhys y = some p.a.val || cornerPhys y = some p.b.val)
  | _ => .next s

/-! ## Exchange (R378, R382 to R384) -/

/-- R382: a still occupant. -/
def stillPhys (s : State) (d : Fin 4) (p : Nat) : Bool :=
  let x := getCl s (lclOfPcl s d (fin64 p))
  (onPhys s d p).all (fun (_, y) => y.st = .boundary && y.hold.isSome) &&
  (match x.run with | .stopped => true | .running => false | _ => x.sb.isEmpty) &&
  !(x.copy.queue.any (·.started)) && x.mqs.all fun (_, q) => q.isEmpty

/-- The tile that takes a tile's occupant in an exchange of two physical clusters. -/
def swapTile (a b : Nat) (t : TileId) : TileId :=
  let dst (p : Nat) : TileId := ⟨t.die, fin64 (8 * (p / 8) + t.row.val % 8), fin64 (8 * (p % 8) + t.col.val % 8)⟩
  if (pclOf t).val = a then dst b else if (pclOf t).val = b then dst a else t

/-- The same on keys of tiles. -/
def swapKey (a b : Nat) (d : Fin 4) (k : Nat) : Nat := tileKey (swapTile a b { tileOfKey k with die := d })

/-- The launches of the pair name their tiles in the new place. -/
def moveLaunch (d : Fin 4) (a b : Nat) (x : Launch) : Launch :=
  let key := swapKey a b d
  { x with corner := x.corner.map fun (r, c) => let t := swapTile a b ⟨d, fin64 r, fin64 c⟩; (t.row.val, t.col.val),
           rsws := x.rsws.map fun r => { r with cmds := r.cmds.map fun (k, fn, v) => (key k, fn, v) },
           cut := x.cut.map fun y => { y with snaps := y.snaps.map fun (k, n, t) => (key k, n, t), chan := y.chan.map fun (k, n, t) => (key k, n, t) } }

/-- A PLACE record goes to its launch's own queue, in the launch's new place, ahead of every record that has still to be written (R384). -/
def placeRec (s : State) (l : LaunchId) (x : Launch) (old new : Nat) (p : Pair) : State :=
  let cap (n : Nat) : Nat := min n (2 ^ 32 - 1)
  let r : Rec := { kind := 0x32, ctx := x.lr.ctx, handle := l.handle, p0 := word (old * 256 + new), p1 := word (cap p.dist * 2 ^ 32 + cap p.dist') }
  recHv (updCl s (homeOf s l ((findLaunch s l).getD x)) fun y => { y with pend := r :: y.pend }) l.die r

/-- R378: the power registers (0xE00, 0xE02) are no part of an occupant: a cluster with those of the place that it comes to. -/
def withPower (place x : Cluster) : Cluster :=
  { x with pstate := place.pstate, trimEn := place.trimEn, trimStep := place.trimStep, trimAt := place.trimAt, trimRep := place.trimRep }

/-- R378, R384: the exchange of a pair. -/
def exchange (s : State) (d : Fin 4) (k : Nat) (p : Pair) : State :=
  let a := p.a.val
  let b := p.b.val
  let ca := lclOfPcl s d p.a
  let cb := lclOfPcl s d p.b
  let la := onPhys s d a
  let lb := onPhys s d b
  let ts := clusterTiles d a ++ clusterTiles d b
  let s0 := ts.foldl (fun z t => markWindows z t false) s
  let s1 := ts.foldl (fun z t => markWindows z t true) (ts.foldl (fun z t => setTile z (swapTile a b t) (getTile s t)) s0)
  let s2 := (la ++ lb).foldl (fun z (l, _) => updLaunch z l (moveLaunch d a b)) s1
  let party (q : Party) : Party := match q with | .node t id => .node (swapTile a b t) id | q => q
  let s3 := updDie s2 d fun x =>
    { x with lmap := aset (aset x.lmap ca.lcl.val p.b) cb.lcl.val p.a, mapUntil := some (s.clock + cyc100us),
             exchAt := aset (aset x.exchAt a s.clock) b s.clock, armed := x.armed.eraseIdx k, ptDone := x.ptDone + 1,
             reqs := x.reqs.map (fun (n, r) => (n, { r with party := party r.party })), moves := x.moves.map fun m => { m with party := party m.party } }
  let s4 := updCl (updCl s3 ca fun y => withPower (getCl s cb) { y with l2 := [] }) cb fun y => withPower (getCl s ca) { y with l2 := [] }
  let s5 := la.foldl (fun z (l, x) => placeRec z l x a b p) s4
  let s6 := lb.foldl (fun z (l, x) => placeRec z l x b a p) s5
  let ls := (la ++ lb).map (·.1)
  ls.foldl (fun z l => atBoundary (updLaunch z l fun x => { x with hold := none }) l true) s6

/-- Whether an armed pair can be exchanged: both occupants are still, and may still be moved (R381, R382). -/
def exchangeDue (s : State) (d : Fin 4) (p : Pair) : Bool :=
  let quiet := (List.range 64).all fun i => (getCl s ⟨d, fin64 i⟩).shoots.isEmpty
  wbit (getDie s d).ptctl 63 && quiet && movable s d p.a.val && movable s d p.b.val && stillPhys s d p.a.val && stillPhys s d p.b.val

/-- EXCHANGE (R378, R382 to R384). -/
def execExchange (s : State) : Host.Outcome State Fault Refusal :=
  match s.here with
  | .item d k =>
    let x := getDie s d
    match x.armed[k]? with
    | none => .next s
    | some p =>
      .next (if exchangeDue s d p then exchange s d k p else s)
  | _ => .next s

/-- The regions of a pair, and whether one has been held for 100 µs (R382). -/
def pairRegion (p : Pair) (x : Launch) : Bool := cornerPhys x = some p.a.val || cornerPhys x = some p.b.val
def abandonDue (s : State) (d : Fin 4) (p : Pair) : Bool :=
  (launchesOf s d).any fun (_, x) => pairRegion p x && match x.hold with | some t => decide (t + cyc100us ≤ s.clock) | none => false

/-- PAIR_ABANDON (R382): a region of the pair has been held for 100 µs. -/
def execPairAbandon (s : State) : Host.Outcome State Fault Refusal :=
  match s.here with
  | .item d k =>
    match (getDie s d).armed[k]? with
    | none => .next s
    | some p =>
      if abandonDue s d p then
        let s1 := updDie s d fun x =>
          { x with armed := x.armed.eraseIdx k, ptAband := x.ptAband + 1, exchAt := aset (aset x.exchAt p.a.val s.clock) p.b.val s.clock }
        .next (freeHeld s1 d (pairRegion p))
      else .next s
  | _ => .next s

/-- MAP_CHANGE (R383): 100 µs after an exchange every party goes over to the new map. -/
def execMapChange (s : State) : Host.Outcome State Fault Refusal :=
  match s.here with
  | .die d =>
    match (getDie s d).mapUntil with
    | some t => .next (if t ≤ s.clock then updDie s d fun x => { x with mapUntil := none } else s)
    | none => .next s
  | _ => .next s

end Sys2Proof.Machine
end

