-- ==== Sys2Proof/Machine/Links.lean ====
section
/-! DEFINITION. Yunajor Link (R389, R390): flits sent and received, replay, training; keys at ports (R328). -/
namespace Sys2Proof.Machine

/-- R390: the reply to a request of a move's transfer: the granule's is owed no more. What a reply brings of a byte or bit that this package has not
itself written there is kept as the peer's (R373). -/
def takeReply (s : State) (d : Fin 4) (id : Nat) (bytes : List Byte) (full : Bool) : State :=
  let g := id % 1024
  let ofPage (m : TierMove) : Bool := moveId m 0 = id - g
  match (getDie s d).moves.find? fun m => ofPage m && match m.away with | some (_, _, l) => l.contains g | none => false with
  | some m =>
    let (peer, a) := match m.away with | some (p, a, _) => (p, a + 64 * g) | none => (0, 0)
    let s1 := updDie s d fun x => { x with moves := x.moves.map fun n => if ofPage n then { n with away := n.away.map fun (p, b, l) => (p, b, l.filter (· ≠ g)) } else n }
    if m.up then
      { s1 with far := (bytes.take 64).zipIdx.foldl (fun z (b, i) => aset z (farKey 1 peer (a + i)) ((afind z (farKey 1 peer (a + i))).getD b)) s1.far,
                farFull := aset s1.farFull (farKey 1 peer a / 64) ((afind s1.farFull (farKey 1 peer a / 64)).getD full) }
    else s1
  | none => s

/-- What a flit brings to a die of this package: a collective's traffic waits for the engine; a request of a peer is performed at the home slice
and answered (R290, R390); the reply to one of this die's is taken. -/
def deliverFlit (s : State) (d : Fin 4) (p : Option (Fin 4 × Fin 16)) (key : BitVec 12) (b : FlitBody) : State :=
  let answer (dev : Nat) (die : Fin 4) (r : FlitBody) (s : State) : State := match p with
    | some (e, port) => emitFlit s e port { dev := dev, die := die, seq := 0, pkey := key, crcOk := true, body := r }
    | none => s
  match b with
  | .join tag rank shape => updDie s d fun x =>
    if !shape.isEmpty && x.skipJoins.contains (key.toNat, rank) then { x with skipJoins := x.skipJoins.erase (key.toNat, rank) }
    else { x with joins := x.joins ++ [⟨key.toNat, tag, rank, shape⟩] }
  | .chunk tag rank off bytes bad => updDie s d fun x => { x with chunks := x.chunks ++ [⟨key.toNat, tag, rank, off, bytes, bad⟩] }
  | .done tag rank => updDie s d fun x => { x with peersDone := x.peersDone ++ [(key.toNat, tag, rank)] }
  | .readRequest id dev die pa =>
    let g := pa % 2 ^ 39 / 64 * 64
    answer dev die (.reply id (memRead s g 64) (isFull s g)) (touch s none g 0 false)
  | .writeRequest id dev die pa bytes full =>
    let g := pa % 2 ^ 39 / 64 * 64
    let s1 := setPoison (setFull (memWrite (touch s none g 0 true) g (bytes.take 64)) g full) g false
    answer dev die (.reply id [] full) (settle s1)
  | .reply id bytes full => takeReply s d id bytes full
  | .ack _ => s
  | .replay _ => s

/-- A message to a die of a device: within the package at once, else over a link; false when no port that reaches the device is up (R328, R389). -/
def sendTo (s : State) (d : Fin 4) (core : ClusterId) (ctx : BitVec 12) (peer : Nat × Fin 4) (b : FlitBody) : State × Bool :=
  if peer.1 = Config.deviceNumber.toNat then (deliverFlit s peer.2 none (key12 (ctxKey s d ctx)) b, true)
  else sendAway s d (some core) ctx peer b

/-! ## FLIT_RECEIVE, LINK_TRAINING_DONE (R389, R390) -/

/-- Flits of a port sent again. -/
def resend (s : State) (d : Fin 4) (p : Fin 16) (fs : List Flit) : State := { s with out := s.out ++ fs.map fun f => .flit d p f }

/-- The port by which a flit of a port that is down goes on: one that is up, reaches its device, and passes its key (R328, R389). -/
def otherWay (s : State) (d : Fin 4) (f : Flit) : Option (Fin 16) := (waysTo s d f.dev).find? fun q => keyPasses (getDie s d) f.pkey.toNat q.val

/-- R389: a port goes down to retrain: what its peers have not acknowledged, and what still waits, moves to other ports that are up and reach them. -/
def portDown (s : State) (d : Fin 4) (p : Fin 16) : State :=
  let s1 := updYl s d p fun y => { y with st := 1, fails := 0 }
  let stay (f : Flit) : Bool := (otherWay s1 d f).isNone
  let y := getYl s1 d p
  let s2 := updYl s1 d p fun y => { y with sent := y.sent.filter stay, waiting := y.waiting.filter stay }
  (y.sent ++ y.waiting).foldl (fun z f => match otherWay s1 d f with | some q => emitFlit z d q f | none => z) s2

/-- R389: a flit that fails its CRC is counted, and a replay from it asked for; the flit expected next failing for the seventeenth time in a row, its
sixteenth replay has failed, and the port retrains. -/
def badFlit (s : State) (d : Fin 4) (p : Fin 16) (f : Flit) : State :=
  let y := getYl s d p
  let n := if f.seq = y.expect then y.fails + 1 else y.fails
  if 16 < n then portDown (updYl s d p fun y => { y with crcerr := satAdd 65535 y.crcerr 1 }) d p
  else emitLink (updYl s d p fun y => { y with crcerr := satAdd 65535 y.crcerr 1, replay := satAdd 65535 y.replay 1, fails := n }) d p (.replay f.seq)

/-- R389: what a port keeps for a replay from a number. Where a flit of that number is kept no more (it has moved to another port, log 62), those
kept are numbered on from it. -/
def replayFrom (n : Nat) (y : YlPort) : YlPort :=
  if n < y.nextSeq ∧ !y.sent.any (fun g => g.seq = n) then
    { y with sent := y.sent.zipIdx.map (fun (g, i) => { g with seq := n + i }), nextSeq := n + y.sent.length }
  else y

/-- FLIT_RECEIVE (R328, R389): the link's own flits act on its buffer; the next flit in order is taken, key checked, and delivered; another waits
for its replay or is a duplicate. -/
def execFlitReceive (s : State) : Host.Outcome State Fault Refusal :=
  match s.here with
  | .flit d p f =>
    let y := getYl s d p
    if y.st ≠ 2 then .next s
    else if !f.crcOk then .next (badFlit s d p f)
    else match f.body with
      | .ack n => .next (drainYl y.waiting.length (updYl s d p fun y => { y with sent := y.sent.filter fun g => decide (n ≤ g.seq) }) d p)
      | .replay n =>
        let s1 := updYl s d p (replayFrom n)
        .next (resend s1 d p ((getYl s1 d p).sent.filter fun g => decide (n ≤ g.seq)))
      | b =>
        if f.seq ≠ y.expect then .next s
        else
          let s1 := emitLink (updYl s d p fun y => { y with expect := y.expect + 1, fails := 0 }) d p (.ack (y.expect + 1))
          if !keyPasses (getDie s d) f.pkey.toNat p.val then .next (portDrop s1 d p.val true f.pkey none 0)
          else if f.dev ≠ Config.deviceNumber.toNat then .next s1
          else .next (deliverFlit s1 f.die (some (d, p)) f.pkey b)
  | _ => .next s

/-- LINK_TRAINING_DONE (R389, R390): a port that is not up comes up; what it had not seen acknowledged is sent again, and what waited goes on. -/
def execLinkTrainingDone (s : State) : Host.Outcome State Fault Refusal :=
  match s.here with
  | .port d p _ =>
    if p.val < 16 then
      let q : Fin 16 := Fin.ofNat 16 p.val
      let y := getYl s d q
      if y.st = 2 then .next s
      else .next (drainYl y.waiting.length (resend (updYl s d q fun y => { y with st := 2, fails := 0 }) d q y.sent) d q)
    else .next s
  | _ => .next s

end Sys2Proof.Machine
end

