-- ==== Sys2Proof/Machine/Engines.lean ====
section
/-! DEFINITION. The copy engine (R227, R228, R313, R432, R433) and the collective engine (R391, R392). -/
namespace Sys2Proof.Machine

/-! ## Engines and their accesses -/

def engDie : EngineId → Fin 4
  | .copy c => c.die
  | .collective d => d
  | .network d => d

def getEngine (s : State) : EngineId → Engine
  | .copy c => (getCl s c).copy
  | .collective d => (getDie s d).collective
  | .network _ => {}
def updEngine (s : State) (e : EngineId) (f : Engine → Engine) : State :=
  match e with
  | .copy c => updCl s c fun x => { x with copy := f x.copy }
  | .collective d => updDie s d fun x => { x with collective := f x.collective }
  | .network _ => s
/-- The transfer at the head of an engine's queue, and the same changed by a function. -/
def headT (s : State) (e : EngineId) : Option Transfer := (getEngine s e).queue.head?
def updHead (s : State) (e : EngineId) (f : Transfer → Transfer) : State :=
  updEngine s e fun y => match y.queue with
    | t :: l => { y with queue := f t :: l }
    | [] => y
def popHead (s : State) (e : EngineId) : State := updEngine s e fun y => { y with queue := y.queue.tail }

/-- What an access of an engine comes to: its physical address; PERM; a failed answer; a wait; a request opened or joined. -/
inductive EngAcc where
  | at_ (pa : Nat)
  | denied (entry : Nat)
  | failed
  | waits
  | opened (w : Nat × Nat)
  deriving DecidableEq, Repr

/-- Whether the answer to a known request is awaited, or was a failure. -/
def knownWaits (s : State) (d : Fin 4) (w : Option (Nat × Nat)) : Bool := match w with | some w => reqStands s d w | none => false
def knownFailed (s : State) (d : Fin 4) (w : Option (Nat × Nat)) : Bool := match w with | some w => reqFailed s d w.2 | none => false

/-- A FAULT record of an engine goes to the posting core's queue and is counted in its cluster (R311, R344). -/
def engFaultRec (s : State) (core : ClusterId) (r : Rec) : State := countCluster (raiseRec s core r) core r.ctx 0x41 1

/-- R310, R313: an access of an engine for a core's post translates through that core's table. -/
def engAccess (s : State) (e : EngineId) (core : ClusterId) (ctx : BitVec 12) (va : Word) (need : Need) (src : Nat) (known : Option (Nat × Nat)) :
    State × EngAcc :=
  let d := engDie e
  if knownWaits s d known then (s, .waits)
  else if knownFailed s d known then (s, .failed)
  else match translate s d (coreTable (getCl s core)) ctx va need with
    | .ok pa _ map => (markAcc s d ctx map, .at_ pa)
    | .perm k => (s, .denied k)
    | t =>
      let (s1, w) := partyFault s d (fun q => q = .engine e) (reqOf ctx va (.engine e) 0 src t) fun r s => engFaultRec s core r
      (s1, match w with | some w => .opened w | none => .waits)

/-- The FAULT records of causes 2 and 4 of an engine (R311, R313, R432). -/
def engPermRec (s : State) (e : EngineId) (core : ClusterId) (ctx : BitVec 12) (va : Word) (entry src : Nat) : State :=
  engFaultRec s core { kind := 0x30, ctx := ctx, p0 := va, p1 := faultP1 0xFF (ctxGen s (engDie e) ctx) entry src 2 }
def engFatalRec (s : State) (e : EngineId) (core : ClusterId) (ctx : BitVec 12) (va : Word) (w : Nat × Nat) (src : Nat) : State :=
  let f := failedAs s (engDie e) w.2
  engFaultRec s core { kind := 0x30, ctx := ctx, p0 := va, p1 := faultP1 w.1 f.2 f.1 src 4 }

/-- R432: the counter of a completion: none when the bump is made or dropped, else the request it waits for. `fails` is added at CNT + 8 first
(R313), for the bump sets the granule of both full. -/
def engBump (s : State) (e : EngineId) (core : ClusterId) (ctx : BitVec 12) (cnt : Word) (src : Nat) (phys : Option (Fin 4 × Fin 64))
    (known : Option (Nat × Nat)) (fails : Nat) : State × Option (Option (Nat × Nat)) :=
  if cnt = 0 then (s, none)
  else match engAccess s e core ctx cnt .w src known with
    | (s1, .at_ pa) =>
      let s2 := if fails = 0 then s1 else memSetWord s1 (pa + 8) (memWord s1 (pa + 8) + word fails)
      (bumpAt s2 phys ctx pa, none)
    | (s1, .denied k) => (engPermRec s1 e core ctx cnt k src, none)
    | (s1, .failed) => (match known with | some w => engFatalRec s1 e core ctx cnt w src | none => s1, none)
    | (s1, .opened w) => (s1, some (some w))
    | (s1, .waits) => (s1, some known)

/-- A granule written by an engine and set full, with the poison of its source (R203, R228, R429). -/
def engPut (s : State) (phys : Option (Fin 4 × Fin 64)) (ctx : BitVec 12) (pa : Nat) (bs : List Byte) (bad : Bool) : State :=
  settle (setPoison (setFull (memWrite (touch s phys pa ctx true) pa bs) pa true) pa bad)

/-! ## The parts of a transfer (R313) -/

/-- The copy's fields (R227). -/
def cpLen (t : Transfer) : Nat := fld (t.words.getD 2 0) 31 0
def cpSpace (t : Transfer) : Nat := fld (t.words.getD 3 0) 15 12
def cpSrc (t : Transfer) (k : Nat) : Word := t.words.getD 0 0 + word (64 * k)
def cpDst (t : Transfer) (k : Nat) : Word := t.words.getD 1 0 + word (64 * k)

/-- The collective's fields (R391). -/
def colOp (t : Transfer) : Nat := fld (t.words.getD 3 0) 15 12
def colTy (t : Transfer) : Nat := fld (t.words.getD 3 0) 11 8
def colRed (t : Transfer) : Nat := fld (t.words.getD 3 0) 7 6
def colCount (t : Transfer) : Nat := fld (t.words.getD 2 0) 31 0
def colRanks (t : Transfer) : Nat := fld (t.words.getD 3 0) 49 32
def colMe (t : Transfer) : Nat := fld (t.words.getD 4 0) 16 0
def colTag (t : Transfer) : Word := t.words.getD 6 0
/-- Granules of one chunk: an element has 4 bytes, or 2 in BF16. -/
def colChunk (t : Transfer) : Nat := colCount t * (if colTy t = 7 then 2 else 4) / 64
/-- Granules of SRC that a member reads, and of DST that it writes (R392). -/
def colSrcLen (t : Transfer) : Nat := colChunk t * (if colOp t = 2 then 1 else colRanks t)
def colDstLen (t : Transfer) : Nat := colChunk t * (if colOp t = 1 then 1 else colRanks t)

/-- Granules of a transfer: a copy's; a collective's of SRC, then of DST. -/
def jobLen (e : EngineId) (t : Transfer) : Nat :=
  match e with
  | .copy _ => cpLen t / 64
  | _ => colSrcLen t + colDstLen t

/-- The first granule from a base address on that lies in the tier page of the k-th. -/
def pageFirst (base : Word) (k : Nat) : Nat := (fld base 15 6 + k) / 1024 * 1024 - fld base 15 6

/-- R313: a segment is named by its first granule. -/
def segOf (e : EngineId) (t : Transfer) (k : Nat) : Nat :=
  match e with
  | .copy _ =>
    let a := pageFirst (cpSrc t 0) k
    if cpSpace t = 0 then max a (pageFirst (cpDst t 0) k) else a
  | _ => if k < colSrcLen t then pageFirst (t.words.getD 0 0) k else colSrcLen t + pageFirst (t.words.getD 1 0) (k - colSrcLen t)

/-- A granule that the engine has still to write in its ordinary course. -/
def granOpen (e : EngineId) (t : Transfer) (k : Nat) : Bool :=
  decide (k < jobLen e t) && !t.written.contains k && !t.failed.contains (segOf e t k) && !t.fix.any fun f => f.first = segOf e t k

/-- Whether every granule is written or given up. -/
def jobDone (e : EngineId) (t : Transfer) : Bool := (List.range (jobLen e t)).all (fun k => !granOpen e t k) && t.fix.isEmpty

/-- R313: while a segment is replayed, the granules of others wait: the list is replayed in its order. -/
def behindReplay (t : Transfer) (f : Nat) (replays : Bool) : Bool := replays && decide (t.cur ≠ some f)

/-- R313: what follows an access that did not translate: its segment is skipped, or given up for want of a permission. -/
def skipSeg (s : State) (e : EngineId) (t : Transfer) (k : Nat) (va : Word) (src : Nat) (r : EngAcc) : State :=
  let f := segOf e t k
  match r with
  | .opened w => updHead s e fun t => { t with fix := t.fix ++ [⟨f, va, w.1, w.2⟩] }
  | .denied entry =>
    let s1 := if t.permed then s else engPermRec s e t.core t.ctx va entry src
    updHead s1 e fun t => { t with failed := f :: t.failed, permed := true }
  | _ => s

/-! ## CPYPOST (R227, R433) -/

/-- R227: the fields of a copy descriptor. -/
def copyFieldsOk (x : Cluster) (ws : List Word) : Bool :=
  let w (i : Nat) : Word := ws.getD i 0
  let len := fld (w 2) 31 0
  let scope := fld (w 3) 18 16
  let space := fld (w 3) 15 12
  let ring := fld (w 3) 11 8
  let tsz := (getRing x ring).tsz
  fld (w 0) 5 0 = 0 && fld (w 1) 5 0 = 0 && fld (w 2) 63 32 = 0 && len % 64 = 0 && 64 ≤ len && len ≤ 2 ^ 31 && fld (w 3) 63 19 = 0 &&
  2 ≤ scope && scope ≤ 5 && space ≤ 2 && fld (w 4) 5 0 = 0 && w 5 = 0 && w 6 = 0 && w 7 = 0 &&
  (if wbit (w 3) 7 then space ≠ 0 && ringSpace ring = space && w 1 = 0 && tsz ≠ 0 && len % (64 * tsz) = 0
   else space = 0 || (w 1).toNat + len ≤ bufSize space)

/-- Whether some entry of a core covers an address for its context (R433). -/
def coreCovers (x : Cluster) (va : Word) : Bool := (rangeFor (coreTable x) x.ctx va).isSome

/-- A post put at the end of an engine's queue of 32; XD receives its number. -/
def postTo (e : EngineId) (w : CWord) (c : ClusterId) (x : Cluster) (ws : List Word) (s : State) : CoreRes :=
  let g := getEngine s e
  if 32 ≤ g.queue.length then .done (putX s c w.xd (status 5))
  else .done (putX (updEngine s e fun y => { y with queue := y.queue ++ [{ num := y.next, words := ws, core := c, ctx := x.ctx }], next := y.next + 1 })
    c w.xd (word g.next))

/-- CPYPOST (R227, R433). -/
def execCpypost (w : CWord) (s : State) : Host.Outcome State Fault Refusal :=
  withDesc w s 1 fun c x ws s =>
    let cnt := ws.getD 4 0
    if !copyFieldsOk x ws then .done (putX s c w.xd (status 1))
    else if (cnt ≠ 0 && !coreCovers x cnt) || !coreCovers x (ws.getD 0 0) || (fld (ws.getD 3 0) 15 12 = 0 && !coreCovers x (ws.getD 1 0)) then
      .done (putX s c w.xd (status 3))
    else postTo (.copy c) w c x ws s

/-! ## The copy engine (R228, R313) -/

/-- COPY_START (R228): the oldest copy starts. -/
def execCopyStart (s : State) : Host.Outcome State Fault Refusal :=
  match s.here with
  | .engine (.copy c) => .next (if clocked s c then updHead s (.copy c) fun t => { t with started := true } else s)
  | _ => .next s

/-- R228: the granule of a ring that takes a copy's k-th granule, while the ring has room for its tile. -/
def copyPlace (x : Cluster) (t : Transfer) (n k : Nat) : Option Nat :=
  let r := getRing x n
  let j := k / r.tsz - t.tiles
  if ringOcc r + j < ringNt r then some (ringGran r (r.tail + BitVec.ofNat 16 j) + k % r.tsz) else none

/-- Where a granule of a copy goes in a typed buffer; none in the ring while it has no room. -/
def copyGran (x : Cluster) (t : Transfer) (k : Nat) : Option Nat :=
  match copyRing t with
  | some n => copyPlace x t n k
  | none => some (fld (t.words.getD 1 0) 63 6 + k)

/-- R228, R313: tiles of a ring-mode copy whose granules are written, or lie in failed segments, are published. -/
def publishTiles : Nat → State → ClusterId → State
  | 0, s, _ => s
  | n + 1, s, c =>
    match headT s (.copy c) with
    | none => s
    | some t => match copyRing t with
      | none => s
      | some r =>
        let tsz := (getRing (getCl s c) r).tsz
        let whole := (List.range tsz).all fun i =>
          let k := t.tiles * tsz + i
          t.written.contains k || t.failed.contains (segOf (.copy c) t k)
        if tsz ≠ 0 ∧ t.tiles * tsz < jobLen (.copy c) t ∧ whole then
          publishTiles n (updHead (updCl s c fun x => pubRing x r 1) (.copy c) fun t => { t with tiles := t.tiles + 1 }) c
        else s

def copyNote (s : State) (c : ClusterId) (k : Nat) : State :=
  publishTiles 65536 (updHead s (.copy c) fun t => { t with written := k :: t.written }) c

/-- Whether a granule that is still open could be written now: in ring mode its tile has room. -/
def copyCan (x : Cluster) (c : ClusterId) (t : Transfer) (k : Nat) : Bool :=
  granOpen (.copy c) t k && match copyRing t with | some n => (copyPlace x t n k).isSome | none => true
/-- Whether the segment under replay has still a granule that could be written now. -/
def copyReplays (x : Cluster) (c : ClusterId) (t : Transfer) : Bool :=
  t.cur.isSome && (List.range (jobLen (.copy c) t)).any fun k => decide (t.cur = some (segOf (.copy c) t k)) && copyCan x c t k

/-- R228: one granule of a copy. -/
def copyWrite (s : State) (c : ClusterId) (t : Transfer) (k : Nat) : State :=
  let e : EngineId := .copy c
  let x := getCl s c
  let phys := some (c.die, pclOfLcl s c)
  let space := cpSpace t
  let blocked := decide (space ≠ 0) && match copyGran x t k with | some g => claimed x space g | none => true
  if !granOpen e t k || decide (64 ≤ t.fix.length) || blocked || behindReplay t (segOf e t k) (copyReplays x c t) then s
  else match engAccess s e t.core t.ctx (cpSrc t k) .r 3 none with
    | (s1, .at_ pa) =>
      let bs := memRead s1 pa 64
      let bad := isPoison s1 pa
      if space = 0 then
        match engAccess s1 e t.core t.ctx (cpDst t k) .w 3 none with
        | (s2, .at_ qa) => copyNote (engPut (touch s2 phys pa t.ctx false) phys t.ctx qa bs bad) c k
        | (s2, r) => publishTiles 65536 (skipSeg s2 e t k (cpDst t k) 3 r) c
      else match copyGran x t k with
        | some g =>
          let s2 := updCl (touch s1 phys pa t.ctx false) c fun y =>
            let z := granPut y space g (payloadOf bs)
            { z with bufPoison := aput false z.bufPoison (granKey space g) bad }
          copyNote (settle s2) c k
        | none => s
    | (s1, r) => publishTiles 65536 (skipSeg s1 e t k (cpSrc t k) 3 r) c

/-- Whether a ring-mode copy can go on only once a skipped segment of the tile to be published next is made good: the tiles of all other open granules lie
so far behind that one that even the empty ring would have no room for them. -/
def ringStuck (s : State) (c : ClusterId) (t : Transfer) : Bool :=
  match copyRing t with
  | none => false
  | some n =>
    let x := getCl s c
    let tsz := (getRing x n).tsz
    (List.range (jobLen (.copy c) t)).all (fun k => !granOpen (.copy c) t k || decide (ringNt (getRing x n) ≤ k / tsz - t.tiles)) &&
    (List.range tsz).any fun i => t.fix.any fun f => f.first = segOf (.copy c) t (t.tiles * tsz + i)

/-- R228: the completion of a copy: bank token, counter, record. -/
def copyDone (s : State) (c : ClusterId) (t : Transfer) : State :=
  let e : EngineId := .copy c
  let w3 := t.words.getD 3 0
  let s1 := if t.step = 0 ∧ wbit w3 6 then updCl s c fun x => { x with bktok := x.bktok ||| (1#32 <<< fld w3 5 1) } else s
  match engBump s1 e t.core t.ctx (t.words.getD 4 0) 3 (some (c.die, pclOfLcl s c)) t.bump t.failed.length with
  | (s2, some w) => updHead s2 e fun t => { t with step := 1, bump := w }
  | (s2, none) =>
    let s3 := if wbit w3 0 then raiseRec s2 t.core { kind := 0x24, ctx := t.ctx, p0 := word t.num } else s2
    popHead s3 e

/-! ## COLPOST (R391) -/

/-- R391: the fields of a collective's descriptor. -/
def colFieldsOk (s : State) (d : Fin 4) (ctx : BitVec 12) (ws : List Word) : Bool :=
  let w (i : Nat) : Word := ws.getD i 0
  let t : Transfer := { num := 0, words := ws, core := ⟨d, 0⟩, ctx := ctx }
  let scope := fld (w 3) 18 16
  let ty := colTy t
  fld (w 0) 5 0 = 0 && fld (w 1) 5 0 = 0 && fld (w 2) 63 32 = 0 && 1 ≤ colCount t && colCount t * (if ty = 7 then 2 else 4) % 64 = 0 &&
  fld (w 3) 63 50 = 0 && fld (w 3) 31 19 = 0 && fld (w 3) 5 1 = 0 && 2 ≤ colRanks t &&
  colRanks t ≤ fld (aget 0 (getDie s d).pctl (ctxPart s d ctx)) 49 32 && 2 ≤ scope && scope ≤ 5 && colOp t ≤ 2 && (ty = 0 || ty = 6 || ty = 7) &&
  colRed t ≠ 3 && (colOp t ≠ 2 || colRed t = 0) && fld (w 4) 63 17 = 0 && colMe t < colRanks t && fld (w 5) 5 0 = 0 && w 7 = 0

/-- The members' devices and dies (R329). -/
def colMembers (s : State) (d : Fin 4) (ctx : BitVec 12) (n : Nat) : Option (List (Nat × Fin 4)) := (List.range n).mapM fun r => rankOf s d ctx r

/-- COLPOST (R391, R433). -/
def execColpost (w : CWord) (s : State) : Host.Outcome State Fault Refusal :=
  withDesc w s 1 fun c x ws s =>
    let t : Transfer := { num := 0, words := ws, core := c, ctx := x.ctx }
    let cnt := ws.getD 5 0
    if !colFieldsOk s c.die x.ctx ws then .done (putX s c w.xd (status 1))
    else match colMembers s c.die x.ctx (colRanks t) with
      | none => .done (putX s c w.xd (status 2))
      | some ms =>
        if ms[colMe t]? ≠ some (Config.deviceNumber.toNat, c.die) then .done (putX s c w.xd (status 2))
        else if (cnt ≠ 0 && !coreCovers x cnt) || !coreCovers x (ws.getD 0 0) || !coreCovers x (ws.getD 1 0) then .done (putX s c w.xd (status 3))
        else postTo (.collective c.die) w c x ws s

/-! ## The collective engine (R392) -/

/-- What members must agree on. -/
def colShape (t : Transfer) : List Nat := [colOp t, colTy t, colRed t, colCount t, colRanks t]

/-- A message to members; a transfer left with no up port ends with status LINK. -/
def colSend (s : State) (d : Fin 4) (t : Transfer) (ranks : List Nat) (b : FlitBody) : State :=
  ranks.foldl (fun s r => match t.ranks[r]? with
    | some peer => match sendTo s d t.core t.ctx peer b with
      | (s1, true) => s1
      | (s1, false) => updHead s1 (.collective d) fun t => { t with status := 5 }
    | none => s) s

/-- The other members. -/
def colOthers (t : Transfer) : List Nat := (List.range (colRanks t)).filter (· ≠ colMe t)

/-- COLLECTIVE_START (R329, R392): the oldest post starts; its members are read and hear of it. -/
def execCollectiveStart (s : State) : Host.Outcome State Fault Refusal :=
  match s.here with
  | .engine (.collective d) =>
    match headT s (.collective d) with
    | none => .next s
    | some t =>
      if t.started then .next s
      else match colMembers s d t.ctx (colRanks t) with
        | none => .next (updHead s (.collective d) fun t => { t with started := true, status := 5 })
        | some ms =>
          let s1 := updHead s (.collective d) fun t => { t with started := true, ranks := ms }
          .next (colSend s1 d { t with ranks := ms } (colOthers t) (.join (colTag t) (colMe t) (colShape t)))
  | _ => .next s

/-- The oldest post of a member that this engine has heard of and not used up: members start their posts of one key in order, so it is the counterpart
of the post under way here (log 61). -/
def memberPost (x : Die) (key r : Nat) : Option Joined := x.joins.find? fun j => j.key = key && j.rank = r && !j.shape.isEmpty
/-- The post of a member that this one is matched with. -/
def joinOf (x : Die) (key : Nat) (t : Transfer) (r : Nat) : Option Joined := (memberPost x key r).filter fun j => j.tag = colTag t
/-- A granule of a member's source. -/
def chunkOf (x : Die) (key : Nat) (t : Transfer) (r off : Nat) : Option Chunk :=
  x.chunks.find? fun j => j.key = key && j.tag = colTag t && j.rank = r && j.off = off

/-- Whether a member's post disagrees with this one (R392), in TAG or in what else members must agree on. -/
def postDiffers (x : Die) (key : Nat) (t : Transfer) (r : Nat) : Bool :=
  match memberPost x key r with
  | some j => decide (j.tag ≠ colTag t) || decide (j.shape ≠ colShape t)
  | none => false
/-- Whether the members of a collective disagree: by a member's post, or by the word of one whose collective has ended so. -/
def colMismatch (x : Die) (key : Nat) (t : Transfer) : Bool :=
  (colOthers t).any (postDiffers x key t) || x.joins.any fun j => j.key = key && j.tag = colTag t && j.shape.isEmpty
/-- The members that a disagreeing member, whose NRANK does not take them in, has not told of its post. -/
def colUntold (x : Die) (key : Nat) (t : Transfer) : List Nat :=
  (colOthers t).filter fun r => (colOthers t).any fun q => postDiffers x key t q && match memberPost x key q with
    | some j => decide (j.shape.getD 4 0 ≤ r)
    | none => false

/-- R389: whether a transfer is left with no port up to a member that it has still to hear from, or to tell that its source is read. -/
def colCut (s : State) (d : Fin 4) (t : Transfer) : Bool :=
  (colOthers t).any fun r => match t.ranks[r]? with
    | some (dev, _) => decide (dev ≠ Config.deviceNumber.toNat) && (waysTo s d dev).isEmpty &&
        (decide (t.step = 0) || !(getDie s d).peersDone.contains (ctxKey s d t.ctx, colTag t, r))
    | none => false
/-- The status that ends a collective before all its granules are written: 0 for none (R389, R392, R395). -/
def colStatus (s : State) (d : Fin 4) (t : Transfer) : Nat :=
  if t.status ≠ 0 then t.status else if colMismatch (getDie s d) (ctxKey s d t.ctx) t then 6 else if colCut s d t then 5 else 0

/-- R392: one element of a reduction. -/
def colElem (ty : Ty) (red a b : Nat) : Nat :=
  let f := fmtOf ty
  match red with
  | 0 => if tyFloat ty then (roundTo f (fsumX .rne [fval f a, fval f b]) .rne .inf).bits else (a + b) % 2 ^ 32
  | 1 => if tyFloat ty then fminmax f true a b else imax 32 true a b
  | _ => if tyFloat ty then fminmax f false a b else imin 32 true a b

/-- R392: granules of the members combined in the order of their ranks. -/
def colCombine (t : Transfer) (ps : List Payload) : Payload :=
  let ty := (tyOfCode (BitVec.ofNat 4 (colTy t))).getD .i32
  let w := tyWidth ty
  match ps with
  | [] => 0
  | p :: rest => packElems w ((List.range (512 / w)).map fun i => rest.foldl (fun acc q => colElem ty (colRed t) acc (elem w q i)) (elem w p i))

/-- The members and granules of SRC that a granule of DST comes from. -/
def colNeeds (t : Transfer) (j : Nat) : List (Nat × Nat) :=
  match colOp t with
  | 0 => (List.range (colRanks t)).map fun r => (r, j)
  | 1 => (List.range (colRanks t)).map fun r => (r, colMe t * colChunk t + j)
  | _ => [(j / colChunk t, j % colChunk t)]

/-- The members that need a granule of this member's SRC. -/
def colTakers (t : Transfer) (k : Nat) : List Nat := if colOp t = 1 then (colOthers t).filter (· = k / colChunk t) else colOthers t

/-- The sources of a granule of DST, once all have come. -/
def colSources (x : Die) (key : Nat) (t : Transfer) (j : Nat) : Option (List Chunk) :=
  (colNeeds t j).mapM fun (r, off) =>
    if r = colMe t || (joinOf x key t r).isSome then chunkOf x key t r off else none

/-- A granule of SRC as read: kept, and sent to the members that need it. -/
def colGive (s : State) (d : Fin 4) (t : Transfer) (k : Nat) (bs : List Byte) (bad : Bool) : State :=
  let key := ctxKey s d t.ctx
  let s1 := updDie s d fun x => { x with chunks := x.chunks ++ [⟨key, colTag t, colMe t, k, bs, bad⟩] }
  colSend s1 d t (colTakers t k) (.chunk (colTag t) (colMe t) k bs bad)

/-- Granules of SRC in a segment given up: the members hear that they have no bytes. -/
def colLost (s : State) (d : Fin 4) (f : Nat) : State :=
  match headT s (.collective d) with
  | none => s
  | some t =>
    if !t.failed.contains f then s
    else ((List.range (colSrcLen t)).filter fun k => segOf (.collective d) t k = f && !t.written.contains k).foldl
      (fun s k => match headT s (.collective d) with | some t => colGive s d t k [] false | none => s) s

/-- Whether a granule that is still open could be written now: of SRC, or of DST once its sources have come. -/
def colCan (x : Die) (key : Nat) (d : Fin 4) (t : Transfer) (k : Nat) : Bool :=
  granOpen (.collective d) t k && (decide (k < colSrcLen t) || (colSources x key t (k - colSrcLen t)).isSome)
/-- Whether the segment under replay has still a granule that could be written now. -/
def colReplays (x : Die) (key : Nat) (d : Fin 4) (t : Transfer) : Bool :=
  t.cur.isSome && (List.range (jobLen (.collective d) t)).any fun k => decide (t.cur = some (segOf (.collective d) t k)) && colCan x key d t k

/-- R392: one granule of a collective: of SRC, read and given to the members; of DST, combined and written. -/
def colWrite (s : State) (d : Fin 4) (t : Transfer) (k : Nat) : State :=
  let e : EngineId := .collective d
  let key := ctxKey s d t.ctx
  let note (s : State) : State := updHead s e fun t => { t with written := k :: t.written }
  if !granOpen e t k || decide (64 ≤ t.fix.length) || decide (t.status ≠ 0) || colMismatch (getDie s d) key t ||
     behindReplay t (segOf e t k) (colReplays (getDie s d) key d t) then s
  else if k < colSrcLen t then
    let va := t.words.getD 0 0 + word (64 * k)
    match engAccess s e t.core t.ctx va .r 4 none with
    | (s1, .at_ pa) => note (colGive (touch s1 none pa t.ctx false) d t k (memRead s1 pa 64) (isPoison s1 pa))
    | (s1, r) => colLost (skipSeg s1 e t k va 4 r) d (segOf e t k)
  else
    let j := k - colSrcLen t
    let va := t.words.getD 1 0 + word (64 * j)
    match colSources (getDie s d) key t j with
    | none => s
    | some cs =>
      if cs.any fun c => c.bytes.isEmpty then updHead s e fun t => { t with failed := segOf e t k :: t.failed }
      else match engAccess s e t.core t.ctx va .w 4 none with
        | (s1, .at_ pa) => note (engPut s1 none t.ctx pa (payloadBytes (colCombine t (cs.map fun c => payloadOf c.bytes))) (cs.any (·.bad)))
        | (s1, r) => skipSeg s1 e t k va 4 r

/-- The first element that a test picks removed. -/
def dropOne {α : Type} (f : α → Bool) (l : List α) : List α := l.eraseIdx (l.findIdx f)

/-- The post of a member that a failed collective was matched with is used up: at once, or when it comes. -/
def useUp (key : Nat) (x : Die) (r : Nat) : Die :=
  match memberPost x key r with
  | some _ => { x with joins := dropOne (fun j => j.key = key && j.rank = r && !j.shape.isEmpty) x.joins }
  | none => { x with skipJoins := x.skipJoins ++ [(key, r)] }

/-- What a collective has heard is used up when it ends: of a complete one the first of each kind; of one that failed, all. -/
def colConsume (x : Die) (key : Nat) (t : Transfer) (all : Bool) : Die :=
  if all then
    let y := (colOthers t).foldl (useUp key) x
    { y with joins := y.joins.filter (fun j => !(j.key = key && j.tag = colTag t && j.shape.isEmpty)), chunks := x.chunks.filter (fun j => !(j.key = key && j.tag = colTag t)),
             peersDone := x.peersDone.filter fun p => !(p.1 = key && p.2.1 = colTag t) }
  else
    let ranks := List.range (colRanks t)
    { x with joins := ranks.foldl (fun l r => dropOne (fun j => j.key = key && j.tag = colTag t && j.rank = r) l) x.joins,
             peersDone := ranks.foldl (fun l r => dropOne (fun p => p = (key, colTag t, r)) l) x.peersDone,
             chunks := ranks.foldl (fun l r => (List.range (max (colSrcLen t) (colDstLen t))).foldl (fun l k =>
               dropOne (fun j => j.key = key && j.tag = colTag t && j.rank = r && j.off = k) l) l) x.chunks }

/-- R392, R400: the completion of a collective: the members hear that their sources are read; once all have said so, counter and record. -/
def colDone (s : State) (d : Fin 4) (t : Transfer) : State :=
  let e : EngineId := .collective d
  let key := ctxKey s d t.ctx
  let st := colStatus s d t
  let s1 := if t.step ≠ 0 then s
    else if st = 0 then updHead (colSend s d t (colOthers t) (.done (colTag t) (colMe t))) e fun t => { t with step := 1 }
    else if st = 6 then colSend s d t (colUntold (getDie s d) key t) (.join (colTag t) (colMe t) [])
    else s
  let heard := (colOthers t).all fun r => (getDie s1 d).peersDone.contains (key, colTag t, r)
  if st = 0 ∧ !heard then s1
  else match engBump s1 e t.core t.ctx (t.words.getD 5 0) 4 none t.bump t.failed.length with
    | (s2, some w) => updHead s2 e fun t => { t with step := 1, bump := w }
    | (s2, none) =>
      let r : Rec := { kind := 0x28, ctx := t.ctx, p0 := word t.num, p1 := word (st + min t.failed.length 255 * 256) }
      let s3 := if wbit (t.words.getD 3 0) 0 then raiseRec s2 t.core r else s2
      updDie (popHead s3 e) d fun x => colConsume x key t (st ≠ 0)

/-! ## ENGINE_DONE, FIXUP_REPLAY (R228, R288, R289, R313) -/

/-- ENGINE_DONE (R228, R288, R392): every granule is written or given up, every skipped segment made good. -/
def execEngineDone (s : State) : Host.Outcome State Fault Refusal :=
  match s.here with
  | .engine e =>
    match headT s e with
    | none => .next s
    | some t =>
      match e with
      | .copy c => .next (if t.started && clocked s c && jobDone e t then copyDone s c t else s)
      | .collective d =>
        .next (if t.started && (jobDone e t || decide (colStatus s d t ≠ 0)) then colDone s d t else s)
      | .network _ => .next s
  | _ => .next s

/-- The oldest skipped segment at its turn: its answer is awaited; failed, it is given up; else its granules are to be written again. -/
def replayFix (s : State) (e : EngineId) (t : Transfer) (f : Fixup) (src : Nat) : State :=
  let d := engDie e
  if reqStands s d (f.req, f.serial) then s
  else if reqFailed s d f.serial then
    let s1 := if t.fataled then s else engFatalRec s e t.core t.ctx f.va (f.req, f.serial) src
    let s2 := updHead s1 e fun t => { t with fix := t.fix.tail, failed := f.first :: t.failed, fataled := true, cur := none }
    match e with
    | .copy c => publishTiles 65536 s2 c
    | _ => colLost s2 d f.first
  else updHead s e fun t => { t with fix := t.fix.tail, cur := some f.first }

/-- FIXUP_REPLAY (R313): after the last ordinary segment, or with a full list, the oldest skipped segment, once the one before is done. A copy whose
ring waits for a skipped segment, and a collective whose open granules all wait for other members, have no ordinary segment to go on with
(log 33, 61). -/
def execFixupReplay (s : State) : Host.Outcome State Fault Refusal :=
  match s.here with
  | .engine e =>
    match headT s e with
    | none => .next s
    | some t => match t.fix with
      | [] => .next s
      | f :: _ =>
        let full := decide (64 ≤ t.fix.length)
        match e with
        | .copy c =>
          let last := (List.range (jobLen e t)).all fun k => !granOpen e t k
          .next (if t.started && clocked s c && !copyReplays (getCl s c) c t && (last || full || ringStuck s c t) then replayFix s e t f 3 else s)
        | .collective d =>
          let x := getDie s d
          let key := ctxKey s d t.ctx
          let last := (List.range (jobLen e t)).all fun k => !colCan x key d t k
          .next (if t.started && !colReplays x key d t && (last || full) then replayFix s e t f 4 else s)
        | .network _ => .next s
  | _ => .next s

end Sys2Proof.Machine
end

