-- ==== Sys2Proof/Machine/Floats.lean ====
section
/-! DEFINITION. The floating-point family in slots (R113 to R122). -/
namespace Sys2Proof.Machine

/-- FADD (R117). -/
def execFadd (w : NWord) (s : State) : Host.Outcome State Fault Refusal := fireCalc .fadd vFadd w s
/-- FSUB (R117). -/
def execFsub (w : NWord) (s : State) : Host.Outcome State Fault Refusal := fireCalc .fsub vFsub w s
/-- FMUL (R117). -/
def execFmul (w : NWord) (s : State) : Host.Outcome State Fault Refusal := fireCalc .fmul vFmul w s
/-- FMA (R117). -/
def execFma (w : NWord) (s : State) : Host.Outcome State Fault Refusal := fireCalc .fma vFma w s
/-- FMS (R117). -/
def execFms (w : NWord) (s : State) : Host.Outcome State Fault Refusal := fireCalc .fms vFms w s
/-- FNMA (R117). -/
def execFnma (w : NWord) (s : State) : Host.Outcome State Fault Refusal := fireCalc .fnma vFnma w s
/-- FMIN (R118). -/
def execFmin (w : NWord) (s : State) : Host.Outcome State Fault Refusal := fireCalc .fmin vFmin w s
/-- FMAX (R118). -/
def execFmax (w : NWord) (s : State) : Host.Outcome State Fault Refusal := fireCalc .fmax vFmax w s
/-- FABS (R118). -/
def execFabs (w : NWord) (s : State) : Host.Outcome State Fault Refusal := fireCalc .fabs vFabs w s
/-- FNEG (R118). -/
def execFneg (w : NWord) (s : State) : Host.Outcome State Fault Refusal := fireCalc .fneg vFneg w s
/-- FCPS (R118). -/
def execFcps (w : NWord) (s : State) : Host.Outcome State Fault Refusal := fireCalc .fcps vFcps w s
/-- FCMP (R119). -/
def execFcmp (w : NWord) (s : State) : Host.Outcome State Fault Refusal := fireCalc .fcmp vFcmp w s
/-- FCLS (R120). -/
def execFcls (w : NWord) (s : State) : Host.Outcome State Fault Refusal := fireCalc .fcls vFcls w s
/-- FDOTA (R121). -/
def execFdota (w : NWord) (s : State) : Host.Outcome State Fault Refusal := fireCalc .fdota vFdota w s
/-- FRCP (R122). -/
def execFrcp (w : NWord) (s : State) : Host.Outcome State Fault Refusal := fireCalc .frcp (vSpecial .frcp) w s
/-- FRSQ (R122). -/
def execFrsq (w : NWord) (s : State) : Host.Outcome State Fault Refusal := fireCalc .frsq (vSpecial .frsq) w s
/-- FSQRT (R122). -/
def execFsqrt (w : NWord) (s : State) : Host.Outcome State Fault Refusal := fireCalc .fsqrt (vSpecial .fsqrt) w s
/-- FEXP2 (R122). -/
def execFexp2 (w : NWord) (s : State) : Host.Outcome State Fault Refusal := fireCalc .fexp2 (vSpecial .fexp2) w s
/-- FLOG2 (R122). -/
def execFlog2 (w : NWord) (s : State) : Host.Outcome State Fault Refusal := fireCalc .flog2 (vSpecial .flog2) w s
/-- FTANH (R122). -/
def execFtanh (w : NWord) (s : State) : Host.Outcome State Fault Refusal := fireCalc .ftanh (vSpecial .ftanh) w s
/-- FSIGM (R122). -/
def execFsigm (w : NWord) (s : State) : Host.Outcome State Fault Refusal := fireCalc .fsigm (vSpecial .fsigm) w s

end Sys2Proof.Machine
end

