-- ==== Sys2Proof/Machine/Integer.lean ====
section
/-! DEFINITION. The integer and bit family in slots (R92 to R103): each instruction is its calculation in a common firing. -/
namespace Sys2Proof.Machine

/-- MOV (R103). -/
def execMov (w : NWord) (s : State) : Host.Outcome State Fault Refusal := fireCalc .mov vMov w s
/-- LDI (R103). -/
def execLdi (w : NWord) (s : State) : Host.Outcome State Fault Refusal := fireCalc .ldi vLdi w s
/-- ADD (R96). -/
def execAdd (w : NWord) (s : State) : Host.Outcome State Fault Refusal := fireCalc .add vAdd w s
/-- SUB (R96). -/
def execSub (w : NWord) (s : State) : Host.Outcome State Fault Refusal := fireCalc .sub vSub w s
/-- ADDS (R96). -/
def execAdds (w : NWord) (s : State) : Host.Outcome State Fault Refusal := fireCalc .adds vAdds w s
/-- SUBS (R96). -/
def execSubs (w : NWord) (s : State) : Host.Outcome State Fault Refusal := fireCalc .subs vSubs w s
/-- MUL (R96). -/
def execMul (w : NWord) (s : State) : Host.Outcome State Fault Refusal := fireCalc .mul vMul w s
/-- MULH (R96). -/
def execMulh (w : NWord) (s : State) : Host.Outcome State Fault Refusal := fireCalc .mulh vMulh w s
/-- MAD (R96). -/
def execMad (w : NWord) (s : State) : Host.Outcome State Fault Refusal := fireCalc .mad vMad w s
/-- DOT4 (R97). -/
def execDot4 (w : NWord) (s : State) : Host.Outcome State Fault Refusal := fireCalc .dot4 vDot4 w s
/-- MIN (R96). -/
def execMin (w : NWord) (s : State) : Host.Outcome State Fault Refusal := fireCalc .min vMin w s
/-- MAX (R96). -/
def execMax (w : NWord) (s : State) : Host.Outcome State Fault Refusal := fireCalc .max vMax w s
/-- ABS (R96). -/
def execAbs (w : NWord) (s : State) : Host.Outcome State Fault Refusal := fireCalc .abs vAbs w s
/-- NEG (R96). -/
def execNeg (w : NWord) (s : State) : Host.Outcome State Fault Refusal := fireCalc .neg vNeg w s
/-- AND (R98). -/
def execAnd (w : NWord) (s : State) : Host.Outcome State Fault Refusal := fireCalc .and vAnd w s
/-- OR (R98). -/
def execOr (w : NWord) (s : State) : Host.Outcome State Fault Refusal := fireCalc .or vOr w s
/-- XOR (R98). -/
def execXor (w : NWord) (s : State) : Host.Outcome State Fault Refusal := fireCalc .xor vXor w s
/-- ANDN (R98). -/
def execAndn (w : NWord) (s : State) : Host.Outcome State Fault Refusal := fireCalc .andn vAndn w s
/-- NOT (R98). -/
def execNot (w : NWord) (s : State) : Host.Outcome State Fault Refusal := fireCalc .not vNot w s
/-- SHL (R98). -/
def execShl (w : NWord) (s : State) : Host.Outcome State Fault Refusal := fireCalc .shl vShl w s
/-- SHR (R98). -/
def execShr (w : NWord) (s : State) : Host.Outcome State Fault Refusal := fireCalc .shr vShr w s
/-- SAR (R98). -/
def execSar (w : NWord) (s : State) : Host.Outcome State Fault Refusal := fireCalc .sar vSar w s
/-- ROL (R98). -/
def execRol (w : NWord) (s : State) : Host.Outcome State Fault Refusal := fireCalc .rol vRol w s
/-- CLZ (R99). -/
def execClz (w : NWord) (s : State) : Host.Outcome State Fault Refusal := fireCalc .clz vClz w s
/-- CTZ (R99). -/
def execCtz (w : NWord) (s : State) : Host.Outcome State Fault Refusal := fireCalc .ctz vCtz w s
/-- POPC (R99). -/
def execPopc (w : NWord) (s : State) : Host.Outcome State Fault Refusal := fireCalc .popc vPopc w s
/-- BREV (R99). -/
def execBrev (w : NWord) (s : State) : Host.Outcome State Fault Refusal := fireCalc .brev vBrev w s
/-- BFX (R100). -/
def execBfx (w : NWord) (s : State) : Host.Outcome State Fault Refusal := fireCalc .bfx vBfx w s
/-- BFXS (R100). -/
def execBfxs (w : NWord) (s : State) : Host.Outcome State Fault Refusal := fireCalc .bfxs vBfxs w s
/-- BFI (R100). -/
def execBfi (w : NWord) (s : State) : Host.Outcome State Fault Refusal := fireCalc .bfi vBfi w s
/-- CMP (R101). -/
def execCmp (w : NWord) (s : State) : Host.Outcome State Fault Refusal := fireCalc .cmp vCmp w s
/-- SEL (R102). -/
def execSel (w : NWord) (s : State) : Host.Outcome State Fault Refusal := fireCalc .sel vSel w s

end Sys2Proof.Machine
end

