-- ==== Sys2Proof/Machine/Lanes.lean ====
section
/-! DEFINITION. The lane family in slots (R105 to R111). -/
namespace Sys2Proof.Machine

/-- SHUF (R106). -/
def execShuf (w : NWord) (s : State) : Host.Outcome State Fault Refusal := fireCalc .shuf vShuf w s
/-- BCST (R107). -/
def execBcst (w : NWord) (s : State) : Host.Outcome State Fault Refusal := fireCalc .bcst vBcst w s
/-- VSET (R107). -/
def execVset (w : NWord) (s : State) : Host.Outcome State Fault Refusal := fireCalc .vset vVset w s
/-- VGET (R107). -/
def execVget (w : NWord) (s : State) : Host.Outcome State Fault Refusal := fireCalc .vget vVget w s
/-- LROT (R108). -/
def execLrot (w : NWord) (s : State) : Host.Outcome State Fault Refusal := fireCalc .lrot vLrot w s
/-- RSUM (R109, R110). -/
def execRsum (w : NWord) (s : State) : Host.Outcome State Fault Refusal := fireCalc .rsum vRsum w s
/-- RMAX (R109, R110). -/
def execRmax (w : NWord) (s : State) : Host.Outcome State Fault Refusal := fireCalc .rmax vRmax w s
/-- RMIN (R109, R110). -/
def execRmin (w : NWord) (s : State) : Host.Outcome State Fault Refusal := fireCalc .rmin vRmin w s
/-- SCAN (R109, R110). -/
def execScan (w : NWord) (s : State) : Host.Outcome State Fault Refusal := fireCalc .scan vScan w s
/-- CMPCT (R111). -/
def execCmpct (w : NWord) (s : State) : Host.Outcome State Fault Refusal := fireCalc .cmpct vCmpct w s

end Sys2Proof.Machine
end

