-- ==== Sys2Proof/Machine/Network.lean ====
section
/-! DEFINITION. The network engine: endpoints (R394), NEPOST and NEPOLL (R396, R397), packets, acknowledgements and completions (R393, R395,
R398 to R401). -/
namespace Sys2Proof.Machine

/-! ## Endpoints (R394) -/

def epCtx (s : State) (d : Fin 4) (i : Nat) : BitVec 12 := (epWord s d i 0).extractLsb' 44 12
def epCore (s : State) (d : Fin 4) (i : Nat) : ClusterId := ⟨d, fin64 (fld (epWord s d i 0) 43 38)⟩
def epJob (s : State) (d : Fin 4) (i : Nat) : BitVec 24 := (epWord s d i 3).extractLsb' 32 24
def getEp (s : State) (d : Fin 4) (i : Nat) : Endpoint := aget {} (getDie s d).eps i
def updEp (s : State) (d : Fin 4) (i : Nat) (f : Endpoint → Endpoint) : State := updDie s d fun x => { x with eps := aupd {} x.eps i f }

/-- The fabric address of an endpoint's peer. -/
def epRemote (s : State) (d : Fin 4) (i : Nat) : BitVec 128 := epWord s d i 1 ++ epWord s d i 2
/-- R393, R394: the key index that an endpoint's packets are secured under, while TSS is 1. -/
def epSec (s : State) (d : Fin 4) (i : Nat) : Option Byte :=
  if wbit (epWord s d i 0) 62 then some ((epWord s d i 4).extractLsb' 0 8) else none

/-- R394: whether an arriving packet names a valid endpoint and matches its addressing and its security (log 90). Index 255 is Lodge's (R421;
log 63). -/
def epAccepts (s : State) (d : Fin 4) (p : Packet) : Bool :=
  decide (p.pid < epCount (getDie s d)) && decide (p.pid ≠ 255) && wbit (epWord s d p.pid 0) 63 && decide (p.job = epJob s d p.pid) &&
  decide (p.src = epRemote s d p.pid) && decide (p.sec = epSec s d p.pid)

/-! ## Work requests (R396) -/

def wrLaddr (w : WorkReq) : Word := w.words.getD 0 0
def wrRaddr (w : WorkReq) : Word := w.words.getD 1 0
def wrLen (w : WorkReq) : Nat := fld (w.words.getD 2 0) 31 0
def wrScout (w : WorkReq) : Nat := fld (w.words.getD 3 0) 55 48
def wrEp (w : WorkReq) : Nat := fld (w.words.getD 3 0) 39 32
def wrTag (w : WorkReq) : BitVec 16 := (w.words.getD 3 0).extractLsb' 16 16
def wrOp (w : WorkReq) : Nat := fld (w.words.getD 3 0) 15 12
def wrRod (w : WorkReq) : Bool := fld (w.words.getD 3 0) 11 10 = 1
def wrCnt (w : WorkReq) : Word := w.words.getD 4 0
/-- Packets of a request, and the bytes of one (R398). -/
def wrPkts (w : WorkReq) : Nat := (wrLen w + 4095) / 4096
def pktLen (len off : Nat) : Nat := min 4096 (len - off)
/-- What a request needs of its local range: it reads it for SEND and WRITE, writes it for READ and RECV. -/
def wrNeed (w : WorkReq) : Need := if wrOp w < 2 then .r else .w

def findWr (s : State) (d : Fin 4) (n : Nat) : Option WorkReq := (getDie s d).wreqs.find? fun w => w.num = n
def updWr (s : State) (d : Fin 4) (n : Nat) (f : WorkReq → WorkReq) : State :=
  updDie s d fun x => { x with wreqs := x.wreqs.map fun w => if w.num = n then f w else w }
def updPkt (s : State) (d : Fin 4) (n k : Nat) (f : PktSt → PktSt) : State := updWr s d n fun w => { w with pkts := aupd {} w.pkts k f }
/-- A request ends with a status, the first that it met. -/
def endWr (s : State) (d : Fin 4) (n st : Nat) : State := updWr s d n fun w => { w with status := some (w.status.getD st) }

/-- R396: the fields of a work request. -/
def wrFieldsOk (x : Die) (ws : List Word) : Bool :=
  let w (i : Nat) : Word := ws.getD i 0
  let len := fld (w 2) 31 0
  let op := fld (w 3) 15 12
  let scout := fld (w 3) 55 48
  fld (w 0) 5 0 = 0 && (if op = 1 ∨ op = 2 then fld (w 1) 5 0 = 0 else w 1 = 0) && fld (w 2) 63 32 = 0 && len % 64 = 0 && 64 ≤ len && len ≤ 2 ^ 31 &&
  fld (w 3) 63 56 = 0 && fld (w 3) 47 40 = 0 && 1 ≤ scout && scout ≤ 64 && fld (w 3) 39 32 < epCount x && op ≤ 3 && fld (w 3) 11 10 ≤ 1 &&
  fld (w 3) 9 1 = 0 && (op = 0 || op = 3 || fld (w 3) 31 16 = 0) && fld (w 4) 5 0 = 0 && w 5 = 0 && w 6 = 0 && w 7 = 0

/-- Whether the network engine of the die of the core at its turn is off (R395). -/
def engineOff (s : State) : Bool := match s.here with | .core c => !wbit (getDie s c.die).nectl 63 | _ => false

/-- NEPOST (R396, R397, R433): -5, whatever it names, while the engine is off (R395). -/
def execNepost (w : CWord) (s : State) : Host.Outcome State Fault Refusal :=
  if engineOff s then atCore w s fun c _ s => .done (putX s c w.xd (status 5))
  else withDesc w s 1 fun c x ws s =>
    let y := getDie s c.die
    let ep := fld (ws.getD 3 0) 39 32
    let cnt := ws.getD 4 0
    if !wrFieldsOk y ws then .done (putX s c w.xd (status 1))
    else if !wbit (epWord s c.die ep 0) 63 || decide (epCtx s c.die ep ≠ x.ctx) || (cnt ≠ 0 && !coreCovers x cnt) || !coreCovers x (ws.getD 0 0) then
      .done (putX s c w.xd (status 3))
    else if 256 ≤ y.wreqs.length then .done (putX s c w.xd (status 5))
    else .done (putX (updDie s c.die fun y => { y with wreqs := y.wreqs ++ [{ num := y.nextWr, words := ws, core := c, ctx := x.ctx }], nextWr := y.nextWr + 1 })
      c w.xd (word y.nextWr))

/-- NEPOLL (R397). -/
def execNepoll (w : CWord) (s : State) : Host.Outcome State Fault Refusal :=
  atCore w s fun c x s =>
    let y := getDie s c.die
    let n := (getX x w.xa).toNat
    let v := if y.wreqs.any fun q => q.num = n && q.ctx = x.ctx then 0
      else match y.completed.find? fun q => q.1 = n && q.2.1 = x.ctx with
        | some q => word (0x100 + q.2.2)
        | none => status 1
    .done (putX s c w.xd v)

/-! ## Translating extents (R398, R401) -/

/-- The request opened for a page, among those remembered. -/
def knownReq (rs : List (Nat × Nat × Nat)) (page : Nat) : Option (Nat × Nat) := (rs.find? fun r => r.1 = page).map (·.2)
def dropReq (rs : List (Nat × Nat × Nat)) (page : Nat) : List (Nat × Nat × Nat) := rs.filter fun r => r.1 ≠ page
def keepReq (rs : List (Nat × Nat × Nat)) (page : Nat) (w : Nat × Nat) : List (Nat × Nat × Nat) := (page, w) :: dropReq rs page

/-- What the granules of a packet translate to: their addresses; or a page is being served; or it failed, or a permission is missing. -/
inductive Span where
  | ok (pas : List Nat)
  | waits
  | failed
  deriving DecidableEq, Repr

/-- `n` granules from an address on, with the requests remembered: one that is answered is so no more. -/
def neSpan (d : Fin 4) (core : ClusterId) (ctx : BitVec 12) (need : Need) :
    Nat → Word → List (Nat × Nat × Nat) → State → State × List (Nat × Nat × Nat) × Span
  | 0, _, rs, s => (s, rs, .ok [])
  | n + 1, va, rs, s =>
    let page := fld va 63 16
    match engAccess s (.network d) core ctx va need 5 (knownReq rs page) with
    | (s1, .at_ pa) =>
      match neSpan d core ctx need n (va + 64) (dropReq rs page) s1 with
      | (s2, rs2, .ok pas) => (s2, rs2, .ok (pa :: pas))
      | r => r
    | (s1, .denied _) => (s1, rs, .failed)
    | (s1, .failed) => (s1, dropReq rs page, .failed)
    | (s1, .waits) => (s1, rs, .waits)
    | (s1, .opened w) => (s1, keepReq rs page w, .waits)

/-- Bytes read at granules, with the places of the poisoned ones. -/
def spanRead (s : State) (pas : List Nat) : List Byte × List Nat :=
  (pas.flatMap fun pa => memRead s pa 64, (List.range pas.length).filter fun i => match pas[i]? with | some pa => isPoison s pa | none => false)

/-! ## Sending (R328, R393, R398) -/

/-- A packet of an endpoint leaves, if its key passes the port. -/
def emitPacket (s : State) (d : Fin 4) (ep : Nat) (core : ClusterId) (plsn : Nat) (b : PacketBody) : State :=
  let ctx := epCtx s d ep
  let key := ctxKey s d ctx
  let port := epPort s d ep
  if keyPasses (getDie s d) key (16 + port.val) then
    { s with out := s.out ++ [.packet d port
        { pid := fld (epWord s d ep 3) 7 0, src := Config.fabricAddr d.val port.val, dst := epRemote s d ep, sec := epSec s d ep, job := epJob s d ep, pkey := key12 key, plsn := plsn,
          trimmed := false, body := b }] }
  else portDrop s d (16 + port.val) false (key12 key) (some core) ctx

/-- WORK_REQUEST_START (R398): the oldest request that has not started. -/
def execWorkRequestStart (s : State) : Host.Outcome State Fault Refusal :=
  match s.here with
  | .die d =>
    match (getDie s d).wreqs.find? fun w => !w.started with
    | some w => .next (updWr s d w.num fun w => { w with started := true })
    | none => .next s
  | _ => .next s

/-- Whether a request is under way and sends packets. -/
def wrSends (w : WorkReq) : Bool := w.started && w.status.isNone && decide (wrOp w ≠ 3)

/-- The first packet not sent. -/
def wrPos (w : WorkReq) : Nat := ((List.range (wrPkts w)).find? fun k => !(aget ({} : PktSt) w.pkts k).sent).getD (wrPkts w)

/-- SCOUT_PASS (R314, R401): the next local page up to SCOUT pages ahead of the block-transfer engine. -/
def execScoutPass (s : State) : Host.Outcome State Fault Refusal :=
  match s.here with
  | .packetOf d n _ =>
    match findWr s d n with
    | none => .next s
    | some w =>
      let first := fld (wrLaddr w) 63 16
      let total := fld (wrLaddr w + word (wrLen w - 64)) 63 16 - first + 1
      let pos := fld (wrLaddr w + word (4096 * wrPos w)) 63 16 - first
      if !wrSends w || decide (total ≤ w.scout) || decide (pos + wrScout w < w.scout) then .next s
      else
        let page := first + w.scout
        let known := knownReq w.reqs page
        match engAccess s (.network d) w.core w.ctx (word (page * 65536)) (wrNeed w) 5 known with
        | (s1, .opened r) => .next (updWr s1 d n fun w => { w with scout := w.scout + 1, reqs := keepReq w.reqs page r })
        | (s1, .waits) => .next (if known.isSome then updWr s1 d n fun w => { w with scout := w.scout + 1 } else s1)
        | (s1, _) => .next (updWr s1 d n fun w => { w with scout := w.scout + 1 })
  | _ => .next s

/-- The body of a packet of a request. -/
def pktBody (w : WorkReq) (off : Nat) (data : List Byte × List Nat) : PacketBody :=
  match wrOp w with
  | 0 => .send w.num (wrTag w) (wrLen w) (wrRod w) off data.1 data.2
  | 1 => .write w.num (wrRaddr w) (wrLen w) (wrRod w) off data.1 data.2
  | _ => .readRequest w.num (wrRaddr w) (wrLen w) (wrRod w) off

/-- A packet is sent, at first or again, once its local granules translate. A failed page ends the request (R401). NEINJ may drop a first
transmission on the wire (R395). -/
def sendPkt (s : State) (d : Fin 4) (w : WorkReq) (k : Nat) (again : Bool) (tries : Nat) : State :=
  let off := 4096 * k
  match neSpan d w.core w.ctx (wrNeed w) (pktLen (wrLen w) off / 64) (wrLaddr w + word off) w.reqs s with
  | (s1, rs, .waits) => updWr s1 d w.num fun w => { w with reqs := rs }
  | (s1, rs, .failed) => endWr (updWr s1 d w.num fun w => { w with reqs := rs }) d w.num 3
  | (s1, rs, .ok pas) =>
    let x := getDie s1 d
    let old := aget ({} : PktSt) w.pkts k
    let plsn := if again then old.plsn else if wrRod w then (getEp s1 d (wrEp w)).plsn else 0
    let psn := if again then old.psn else (getEp s1 d (wrEp w)).psn
    let hit := !again && wbit x.neinj 63 && decide (x.dataSent - x.injAt = fld x.neinj 31 0)
    let s2 := updPkt (updWr s1 d w.num fun w => { w with reqs := rs }) d w.num k fun p =>
      { p with sent := true, lost := false, tries := tries, due := s.clock + cyc100us * 2 ^ tries, plsn := plsn, psn := psn }
    let s3 := updDie s2 d fun x =>
      if again then { x with retx := x.retx + 1 }
      else { x with dataSent := x.dataSent + 1, neinj := if hit then x.neinj &&& ~~~(1#64 <<< 63) else x.neinj }
    let s4 := if again then s3 else updEp s3 d (wrEp w) fun e => { e with plsn := if wrRod w then e.plsn + 1 else e.plsn, psn := e.psn + 1 }
    if hit then s4 else emitPacket s4 d (wrEp w) w.core plsn (pktBody w off (spanRead s1 pas))

/-- Whether a request posted before another has still packets to send: packets leave in posting order (R398, R405). -/
def sendsBefore (x : Die) (n : Nat) : Bool := (x.wreqs.takeWhile fun q => q.num ≠ n).any fun q => q.status.isNone && decide (wrOp q ≠ 3) && decide (wrPos q < wrPkts q)

/-- PACKET_SEND (R398): the next packet of the oldest request that has one, or one that an acknowledgement reports missing. -/
def execPacketSend (s : State) : Host.Outcome State Fault Refusal :=
  match s.here with
  | .packetOf d n k =>
    match findWr s d n with
    | none => .next s
    | some w =>
      let p := aget ({} : PktSt) w.pkts k
      if !wrSends w || decide (wrPkts w ≤ k) then .next s
      else if !p.sent && decide (wrPos w = k) && !sendsBefore (getDie s d) n then .next (sendPkt s d w k false 0)
      else if p.sent && !p.acked && p.lost then .next (sendPkt s d w k true p.tries)
      else .next s
  | _ => .next s

/-- RETRANSMIT_TIMEOUT (R393, R398): a packet's time is over: it is sent again, or after 8 retries the request ends with TIMEOUT. -/
def execRetransmitTimeout (s : State) : Host.Outcome State Fault Refusal :=
  match s.here with
  | .packetOf d n k =>
    match findWr s d n with
    | none => .next s
    | some w =>
      let p := aget ({} : PktSt) w.pkts k
      if !wrSends w || !p.sent || p.acked || decide (s.clock < p.due) then .next s
      else if 8 ≤ p.tries then .next (endWr s d n 2)
      else .next (sendPkt s d w k true (p.tries + 1))
  | _ => .next s

/-! ## Receiving (R393, R394, R398) -/

/-- R393: what an acknowledgement of an endpoint names: the packets that it owes one, and the last 64 that it has taken. -/
def ackBitmap (e : Endpoint) : List (Nat × Nat) := (e.unacked ++ e.taken.take 64).eraseDups

/-- R398: the acknowledgement that an endpoint owes. -/
def sendAcks (s : State) (d : Fin 4) (ep : Nat) : State :=
  updEp (emitPacket s d ep (epCore s d ep) 0 (.ack (ackBitmap (getEp s d ep)))) d ep fun e => { e with unacked := [] }

/-- A packet placed: it is to be acknowledged, on every fourth at once (R393). -/
def owePkt (s : State) (d : Fin 4) (ep msg off : Nat) : State :=
  let s1 := updEp s d ep fun e => { e with unacked := e.unacked ++ [(msg, off)], lastAt := s.clock, got := e.got + 1 }
  if (getEp s1 d ep).got % 4 = 0 then sendAcks s1 d ep else s1

/-- A packet refused: the sender hears the status, and so for every other packet of the message. -/
def refusePkt (s : State) (d : Fin 4) (ep msg st : Nat) : State :=
  let s1 := if (getEp s d ep).refused.any fun r => r.1 = msg then s else updEp s d ep fun e => { e with refused := (msg, st) :: e.refused }
  emitPacket s1 d ep (epCore s d ep) 0 (.refuse msg st)

/-- R398: the RECV that a SEND is matched to, or has been: the oldest posted and not consumed, of its TAG and long enough. -/
def matchRecv (s : State) (d : Fin 4) (ep msg : Nat) (tag : BitVec 16) (mlen : Nat) : Option WorkReq :=
  let rs := (getDie s d).wreqs.filter fun w => decide (wrOp w = 3) && decide (wrEp w = ep) && w.status.isNone
  match rs.find? fun w => match w.matched with | some (m, _) => m = msg | none => false with
  | some w => some w
  | none => rs.find? fun w => w.matched.isNone && decide (wrTag w = tag) && decide (mlen ≤ wrLen w)

/-- What becomes of a packet that is to be placed: it is out of the way (a duplicate, or refused), its granules are being written, or it is not taken
now. -/
inductive Placing where
  | done | lands | waits
  deriving DecidableEq, Repr

/-- A data packet placed at an address through its endpoint's core and context: once all its granules translate, they are written one by one. -/
def placeAt (s : State) (d : Fin 4) (ep msg off : Nat) (va : Word) (bs : List Byte) (bad : List Nat) (recv : Option Nat) (rod : Bool) : State × Placing :=
  match neSpan d (epCore s d ep) (epCtx s d ep) .w (bs.length / 64) va (getEp s d ep).reqs s with
  | (s1, rs, .waits) => (updEp s1 d ep fun e => { e with reqs := rs }, .waits)
  | (s1, rs, .failed) =>
    let s2 := refusePkt (updEp s1 d ep fun e => { e with reqs := rs }) d ep msg 4
    (match recv with | some n => endWr s2 d n 3 | none => s2, .done)
  | (s1, rs, .ok pas) =>
    (updEp s1 d ep fun e => { e with reqs := rs, landing := e.landing ++
      [{ core := epCore s1 d ep, seq := s1.seq, msg := msg, off := off, ctx := epCtx s1 d ep, left := pas.zipIdx.map fun (pa, i) => (i, pa), bytes := bs, bad := bad, recv := recv, rod := rod }] }, .lands)

/-- A packet of a SEND, WRITE or READ at its endpoint. -/
def placePkt (s : State) (d : Fin 4) (p : Packet) : State × Placing :=
  let ep := p.pid
  let e := getEp s d ep
  let known (msg : Nat) : Option Nat := (e.refused.find? fun r => r.1 = msg).map (·.2)
  let lands (msg off : Nat) : Bool := e.landing.any fun l => !l.back && l.msg = msg && l.off = off
  match p.body with
  | .send msg tag mlen rod off bs bad =>
    match known msg with
    | some st => (refusePkt s d ep msg st, .done)
    | none =>
      if e.taken.contains (msg, off) then (owePkt s d ep msg off, .done)
      else if lands msg off then (s, .waits)
      else match matchRecv s d ep msg tag mlen with
        | none => (refusePkt s d ep msg 1, .done)
        | some w => placeAt (updWr s d w.num fun w => { w with matched := some (msg, mlen) }) d ep msg off (wrLaddr w + word off) bs bad (some w.num) rod
  | .write msg raddr _ rod off bs bad =>
    match known msg with
    | some st => (refusePkt s d ep msg st, .done)
    | none =>
      if e.taken.contains (msg, off) then (owePkt s d ep msg off, .done)
      else if lands msg off then (s, .waits)
      else placeAt s d ep msg off (raddr + word off) bs bad none rod
  | .readRequest msg raddr mlen _ off =>
    match known msg with
    | some st => (refusePkt s d ep msg st, .done)
    | none => match neSpan d (epCore s d ep) (epCtx s d ep) .r (pktLen mlen off / 64) (raddr + word off) e.reqs s with
      | (s1, rs, .waits) => (updEp s1 d ep fun e => { e with reqs := rs }, .waits)
      | (s1, rs, .failed) => (refusePkt (updEp s1 d ep fun e => { e with reqs := rs }) d ep msg 4, .done)
      | (s1, rs, .ok pas) =>
        let (bs, bad) := spanRead s1 pas
        (emitPacket (updEp s1 d ep fun e => { e with reqs := rs }) d ep (epCore s d ep) 0 (.readReturn msg off bs bad), .done)
  | _ => (s, .done)

/-- Packets held for ROD order that can be placed now (R398). -/
def placeHeld : Nat → State → Fin 4 → Nat → State
  | 0, s, _, _ => s
  | n + 1, s, d, ep =>
    match (getEp s d ep).held.find? fun p => p.plsn = (getEp s d ep).rodNext with
    | none => s
    | some p =>
      let letGo (s : State) : State := updEp s d ep fun e => { e with held := e.held.filter fun q => q.plsn ≠ p.plsn }
      match placePkt s d p with
      | (s1, .done) => placeHeld n (updEp (letGo s1) d ep fun e => { e with rodNext := e.rodNext + 1 }) d ep
      | (s1, .lands) => letGo s1
      | (s1, .waits) => s1

/-- Whether a packet's message is in ROD mode. -/
def bodyRod : PacketBody → Bool
  | .send _ _ _ rod _ _ _ => rod
  | .write _ _ _ rod _ _ _ => rod
  | .readRequest _ _ _ rod _ => rod
  | _ => false

/-- A packet in the order that its mode asks for. -/
def orderPkt (s : State) (d : Fin 4) (p : Packet) : State :=
  let e := getEp s d p.pid
  if !bodyRod p.body || decide (p.plsn < e.rodNext) then (placePkt s d p).1
  else if e.rodNext < p.plsn then
    if e.held.any fun q => q.plsn = p.plsn then s else updEp s d p.pid fun e => { e with held := e.held ++ [p] }
  else match placePkt s d p with
    | (s1, .done) => placeHeld e.held.length (updEp s1 d p.pid fun e => { e with rodNext := e.rodNext + 1 }) d p.pid
    | (s1, _) => s1

/-- A READ's returned bytes at the requester: placed through the posting core's table, granule by granule. -/
def placeReturn (s : State) (d : Fin 4) (p : Packet) (msg off : Nat) (bs : List Byte) (bad : List Nat) : State :=
  match findWr s d msg with
  | none => s
  | some w =>
    let k := off / 4096
    if !wrSends w || decide (wrOp w ≠ 2) || decide (wrEp w ≠ p.pid) || decide (wrPkts w ≤ k) || (aget ({} : PktSt) w.pkts k).acked ||
       (getEp s d p.pid).landing.any (fun l => l.back && l.msg = msg && l.off = off) then s
    else match neSpan d w.core w.ctx .w (bs.length / 64) (wrLaddr w + word off) w.reqs s with
      | (s1, rs, .waits) => updWr s1 d msg fun w => { w with reqs := rs }
      | (s1, rs, .failed) => endWr (updWr s1 d msg fun w => { w with reqs := rs }) d msg 3
      | (s1, rs, .ok pas) =>
        updEp (updWr s1 d msg fun w => { w with reqs := rs }) d p.pid fun e => { e with landing := e.landing ++
          [{ core := w.core, seq := s1.seq, msg := msg, off := off, ctx := w.ctx, left := pas.zipIdx.map fun (pa, i) => (i, pa), bytes := bs, bad := bad, back := true }] }

/-- A packet all of whose granules are written: of a READ, it is acknowledged by that; another is taken, owed an acknowledgement, and lets the
next in ROD order follow. -/
def landed (s : State) (d : Fin 4) (ep : Nat) (l : Landing) : State :=
  if l.back then updWr (updPkt s d l.msg (l.off / 4096) fun p => { p with acked := true }) d l.msg fun w => { w with bytes := w.bytes + l.bytes.length }
  else
    let s1 := updEp s d ep fun e => { e with taken := (l.msg, l.off) :: e.taken, rodNext := if l.rod then e.rodNext + 1 else e.rodNext }
    let s2 := match l.recv with
      | some n => updWr s1 d n fun w => { w with placed := l.off :: w.placed, bytes := w.bytes + l.bytes.length }
      | none => s1
    let s3 := owePkt s2 d ep l.msg l.off
    if l.rod then placeHeld (getEp s3 d ep).held.length s3 d ep else s3

/-- The granules of packets that a die's engine has still to write: endpoint, packet, granule, place. -/
def netGrans (x : Die) : List (Nat × Nat × Nat × Nat) :=
  x.eps.flatMap fun (ep, e) => e.landing.zipIdx.flatMap fun (l, j) => l.left.map fun (i, pa) => (ep, j, i, pa)

/-- R288, R289, R398: one of those granules is written, as an engine write. -/
def netWrite (s : State) (d : Fin 4) (k : Nat) : State :=
  match (netGrans (getDie s d))[k]? with
  | none => s
  | some (ep, j, i, pa) =>
    match (getEp s d ep).landing[j]? with
    | none => s
    | some l =>
      let m := { l with left := l.left.filter fun g => g.1 ≠ i }
      let s1 := engPut s none l.ctx pa ((l.bytes.drop (64 * i)).take 64) (l.bad.contains i)
      if m.left.isEmpty then landed (updEp s1 d ep fun e => { e with landing := e.landing.eraseIdx j }) d ep m
      else updEp s1 d ep fun e => { e with landing := e.landing.set j m }

/-- ENGINE_WRITE (R288, R289): a granule of the transfer under way, of a packet being placed, or of an array's result, in any order. -/
def execEngineWrite (s : State) : Host.Outcome State Fault Refusal :=
  match s.here with
  | .granule e k =>
    match e with
    | .network d => .next (netWrite s d k)
    | .copy c => .next (match headT s e with | some t => if t.started && clocked s c then copyWrite s c t k else s | none => s)
    | .collective d => .next (match headT s e with | some t => if t.started then colWrite s d t k else s | none => s)
  | .arrayGran c q k => .next (arrayWrite s c q k)
  | _ => .next s

/-- A packet dropped on arrival (R393). -/
def dropPkt (s : State) (d : Fin 4) : State := updDie s d fun x => { x with drops := x.drops + 1 }

/-- What arrives passes the port's key check and its endpoint's, or is dropped and counted; a trimmed packet is a loss (R328, R393, R394). -/
def arrivePkt (s : State) (d : Fin 4) (port : Fin 2) (p : Packet) (go : State → State) : State :=
  if p.trimmed then s
  else if !keyPasses (getDie s d) p.pkey.toNat (16 + port.val) then dropPkt (portDrop s d (16 + port.val) true p.pkey none 0) d
  else if p.body = .unsupported || !epAccepts s d p then dropPkt s d
  else go s

/-- PACKET_RECEIVE (R393, R394, R398): a packet of a message, or a READ's return. Acknowledgements have a move of their own. -/
def execPacketReceive (s : State) : Host.Outcome State Fault Refusal :=
  match s.here with
  | .packet d port p =>
    match p.body with
    | .ack _ => .next s
    | .refuse _ _ => .next s
    | .readReturn msg off bs bad => .next (arrivePkt s d port p fun s => placeReturn s d p msg off bs bad)
    | _ => .next (arrivePkt s d port p fun s => orderPkt s d p)
  | _ => .next s

/-- Whether an endpoint's acknowledgement is due: 2 µs after the last packet that is not acknowledged (R393). -/
def ackOwed (s : State) (e : Endpoint) : Bool := !e.unacked.isEmpty && decide (e.lastAt + 2 * Config.cyclesPerUs ≤ s.clock)

/-- ACK_TIMER (R393): 2 µs after the last packet placed, what is owed is acknowledged. -/
def execAckTimer (s : State) : Host.Outcome State Fault Refusal :=
  match s.here with
  | .endpoint d ep =>
    let e := getEp s d ep.val
    .next (if ackOwed s e then sendAcks s d ep.val else s)
  | _ => .next s

/-- The latest sent of the packets that an acknowledgement of an endpoint names. -/
def ackTop (s : State) (d : Fin 4) (ep : Nat) (pkts : List (Nat × Nat)) : Nat :=
  pkts.foldl (fun n (m, off) => match findWr s d m with
    | some w => if wrEp w = ep then max n (aget ({} : PktSt) w.pkts (off / 4096)).psn else n
    | none => n) 0

/-- R398: a packet of a request under a selective acknowledgement: named, it is acknowledged; among the 64 before the latest named and not named, it is
missing. -/
def ackPkt (pkts : List (Nat × Nat)) (top n k : Nat) (p : PktSt) : PktSt :=
  if !p.sent || p.acked then p
  else if pkts.contains (n, 4096 * k) then { p with acked := true }
  else if p.psn < top && top < p.psn + 64 then { p with lost := true }
  else p

/-- A request under a selective acknowledgement, with the bytes that its acknowledged packets placed. -/
def ackWr (pkts : List (Nat × Nat)) (top : Nat) (w : WorkReq) : WorkReq :=
  (List.range (wrPkts w)).foldl (fun v k =>
    let p := aget ({} : PktSt) w.pkts k
    let q := ackPkt pkts top w.num k p
    { v with pkts := aput {} v.pkts k q, bytes := if q.acked && !p.acked then v.bytes + pktLen (wrLen w) (4096 * k) else v.bytes }) w

/-- A selective acknowledgement takes its effect on every SEND and WRITE of its endpoint. -/
def takeAck (s : State) (d : Fin 4) (ep : Nat) (pkts : List (Nat × Nat)) : State :=
  let top := ackTop s d ep pkts
  updDie s d fun x => { x with wreqs := x.wreqs.map fun w => if wrEp w = ep ∧ wrOp w < 2 then ackWr pkts top w else w }

/-- ACK_RECEIVE (R398): an acknowledgement, or a refusal, which ends the request. -/
def execAckReceive (s : State) : Host.Outcome State Fault Refusal :=
  match s.here with
  | .packet d port p =>
    match p.body with
    | .ack pkts => .next (arrivePkt s d port p fun s => takeAck s d p.pid pkts)
    | .refuse msg st =>
      .next (arrivePkt s d port p fun s => match findWr s d msg with
        | some w => if wrEp w = p.pid && wrSends w then endWr s d msg st else s
        | none => s)
    | _ => .next s
  | _ => .next s

/-! ## WORK_REQUEST_COMPLETE (R399, R400, R432) -/

/-- Whether a packet for a request is still being placed. -/
def wrLands (s : State) (d : Fin 4) (w : WorkReq) : Bool :=
  (getDie s d).eps.any fun (_, e) => e.landing.any fun l => if l.back then l.msg = w.num else l.recv = some w.num

/-- R399: whether a request is complete. -/
def wrDone (w : WorkReq) : Bool :=
  w.started && (w.status.isSome ||
    if wrOp w = 3 then (match w.matched with | some (_, mlen) => decide (w.bytes = mlen) | none => false)
    else (List.range (wrPkts w)).all fun k => (aget ({} : PktSt) w.pkts k).acked)

/-- WORK_REQUEST_COMPLETE (R399, R400): requests of one endpoint and side in posting order. -/
def execWorkRequestComplete (s : State) : Host.Outcome State Fault Refusal :=
  match s.here with
  | .item d n =>
    let x := getDie s d
    match findWr s d n with
    | none => .next s
    | some w =>
      let before := (x.wreqs.takeWhile fun q => q.num ≠ n).any fun q => wrEp q = wrEp w && (wrOp q = 3) = (wrOp w = 3)
      if !wrDone w || wrLands s d w || before then .next s
      else match engBump s (.network d) w.core w.ctx (wrCnt w) 5 none w.bump 0 with
        | (s1, some b) => .next (updWr s1 d n fun w => { w with bump := b, step := 1 })
        | (s1, none) =>
          let st := w.status.getD 0
          let r : Rec := { kind := 0x27, ctx := w.ctx, p0 := word n, p1 := word (min w.bytes (2 ^ 32 - 1) * 2 ^ 32 + wrOp w * 256 + st) }
          let s2 := if wbit (w.words.getD 3 0) 0 then raiseRec s1 w.core r else s1
          .next (updDie s2 d fun x => { x with wreqs := x.wreqs.filter fun q => q.num ≠ n, completed := ((n, w.ctx, st) :: x.completed).take 256 })
  | _ => .next s

end Sys2Proof.Machine
end

