-- ==== Sys2Proof/Machine/Lodge.lean ====
section
/-! DEFINITION. Lodge (R421 to R425), a host's reads and writes (R421), bring-up, power and heat (R426, R428). -/
namespace Sys2Proof.Machine

/-! ## Commands (R422) -/

/-- Word n of a command. -/
def cmdWord (c : LodgeCmd) (n : Nat) : Word := word (ofBytes ((c.bytes.drop (8 * n)).take 8))
def cmdTag (c : LodgeCmd) : Word := cmdWord c 0
def cmdOp (c : LodgeCmd) : Nat := fld (cmdWord c 1) 63 56
def cmdCore (c : LodgeCmd) : ClusterId := ⟨Fin.ofNat 4 (fld (cmdWord c 1) 55 54), fin64 (fld (cmdWord c 1) 53 48)⟩
def cmdArg (c : LodgeCmd) : Word := cmdWord c 2
def cmdPorts (c : LodgeCmd) : Nat := fld (cmdWord c 3) 20 16
def cmdReg (c : LodgeCmd) : Nat := fld (cmdWord c 3) 15 0
def cmdBody (c : LodgeCmd) : Nat := fld (cmdWord c 1) 47 32

/-- R422: the header's lengths, its reserved bits, its tag; a body is LAUNCH's alone. -/
def headerOk (c : LodgeCmd) : Bool :=
  decide (cmdTag c ≠ 0) && decide (cmdBody c = c.bytes.length - 64) && decide (fld (cmdWord c 1) 31 0 = 0) && decide (fld (cmdWord c 3) 63 21 = 0) &&
  (List.range 4).all (fun i => decide (cmdWord c (4 + i) = 0)) && (decide (cmdOp c = 1) || decide (cmdBody c = 0))

/-! ## The journal (R423 to R425) -/

/-- R424: a journal entry. -/
def lodgeEntry (s : State) (c : LodgeCmd) (st : Nat) (result : Word) : List Byte :=
  [word s.ljnext, cmdTag c, word (fld (cmdWord c 1) 63 48 * 2 ^ 48 + (2 ^ 32 - st) % 2 ^ 32), result, c.src, word s.clock, 0, 0].flatMap
    fun w => bytesOf 8 w.toNat

/-- Entries that Lodge compares with, the latest first (R425). -/
def lodgeSeen (s : State) (c : LodgeCmd) : Option (List Byte) :=
  (s.journal.take (2 ^ fld s.ljbase 4 0)).find? fun e =>
    ofBytes ((e.drop 8).take 8) = (cmdTag c).toNat && ofBytes ((e.drop 32).take 8) = c.src.toNat

def lodgeReply (s : State) (c : LodgeCmd) (e : List Byte) : State := { s with out := s.out ++ [.reply c.src e] }

/-- R423: an executed command's entry is written at its place, and sent as the reply. -/
def lodgeEnd (s : State) (c : LodgeCmd) (st : Nat) (result : Word) : State :=
  let e := lodgeEntry s c st result
  let a := fld s.ljbase 38 16 * 65536 + 64 * (s.ljnext % 2 ^ fld s.ljbase 4 0)
  let s1 := setPoison (memWrite (touch s none a 0 true) a e) a false
  lodgeReply { s1 with ljnext := s.ljnext + 1, journal := (e :: s.journal).take (2 ^ 20) } c e

/-- What executing a command gives: its status (0, or the negative of a number) and its result. -/
structure Executed where
  st : Nat
  result : Word := 0
  s : State
  deriving DecidableEq, Repr

/-- A command at Lodge (R421 to R425): refused while the journal is off, answered again when it has been executed before, else executed; none of
an execution means that it waits. -/
def lodgeStep (mine : Nat → Bool) (go : LodgeCmd → State → Option Executed) (s : State) : Host.Outcome State Fault Refusal :=
  match s.here with
  | .command c =>
    if c.bytes.length < 64 ∨ 1024 < c.bytes.length ∨ !mine (cmdOp c) then .next s
    else if !wbit s.ljbase 63 then .next (lodgeReply s c (lodgeEntry s c 5 0))
    else match lodgeSeen s c with
      | some e => .next (lodgeReply s c e)
      | none =>
        if !headerOk c then .next (lodgeEnd s c 1 0)
        else match go c s with
          | none => .next s
          | some x => .next (lodgeEnd x.s c x.st x.result)
  | _ => .next s

/-! ## The operations (R422) -/

/-- The port set that a LAUNCH carries, if every entry passes the checks of R305. -/
def cmdSet (c : LodgeCmd) : Option (List RangeCopy) :=
  (List.range (cmdPorts c)).mapM fun i =>
    let w (f : Nat) : Word := cmdWord c (8 + 32 + 4 * i + f)
    if (List.range 4).any fun f => rangeRsv f (w f) then none else some { entry := { base := w 0, lim := w 1, pa := w 2, vo := w 3 }, src := i }

/-- The descriptors that a record binds, read through the port set; none where one cannot be read (log 18). -/
def cmdDescs (s : State) (d : Fin 4) (es : List RangeCopy) (ctx : BitVec 12) (ws : List Word) : Option (List (Nat × List Word)) :=
  let binds := (((ws.drop 16).take 16).zipIdx).filter fun (a, _) => a ≠ 0
  binds.mapM fun (a, p) =>
    if fld a 5 0 ≠ 0 then none
    else match translate s d (portTable es) ctx a .r with
      | .ok pa _ _ => some (p, lineWords (memRead s pa 64) 8)
      | _ => none

/-- LAUNCH by a host. -/
def lodgeLaunch (c : LodgeCmd) (s : State) : Option Executed :=
  let ws := (List.range 32).map fun i => cmdWord c (8 + i)
  let near := cmdCore c
  if 16 < cmdPorts c ∨ cmdBody c ≠ 256 + 32 * cmdPorts c then some { st := 1, s := s }
  else match parseRecord ws, cmdSet c with
    | some r, some es => match cmdDescs s near.die es r.ctx ws with
      | none => some { st := 1, s := s }
      | some ds => match acceptLaunch s { issuer := none, near := near, sys := true, ctx := r.ctx, ws := ws, place := cmdArg c, ports := es, descs := ds } with
        | .error k => some { st := k, s := s }
        | .ok (h, s1) => some { st := 0, result := word h, s := s1 }
    | _, _ => some { st := 1, s := s }

/-- LODGE_LAUNCH (R422). -/
def execLodgeLaunch (s : State) : Host.Outcome State Fault Refusal := lodgeStep (· = 1) lodgeLaunch s

/-- CSTART (R264, R269, R422): a stopped core starts in system mode, but for one that only a cluster reset restarts. Its PC is a multiple of 8 (R263;
log 20). -/
def execCstart (s : State) : Host.Outcome State Fault Refusal :=
  lodgeStep (· = 2) (fun c s =>
    let k := cmdCore c
    let x := getCl s k
    if x.run ≠ .stopped ∨ x.corestop ∨ x.pstate ≠ 0 then some { st := 1, s := s }
    else some { st := 0, s := setCl s k { x with run := .running, mode := true, pc := cmdArg c &&& ~~~7 } }) s

/-- CSTOP (R422): a wait is abandoned. -/
def execCstop (s : State) : Host.Outcome State Fault Refusal :=
  lodgeStep (· = 3) (fun c s => some { st := 0, s := updCl s (cmdCore c) fun x => { x with run := .stopped } }) s

/-- REGWR (R281, R422). -/
def execRegwr (s : State) : Host.Outcome State Fault Refusal :=
  lodgeStep (· = 4) (fun c s =>
    let k := cmdCore c
    if !regAssigned (cmdReg c) then some { st := 1, s := s }
    else if !coreIdle (getCl s k) then none
    else some { st := 0, s := regWriteSys s k (cmdReg c) (cmdArg c) }) s

/-- REGRD (R281, R422). -/
def execRegrd (s : State) : Host.Outcome State Fault Refusal :=
  lodgeStep (· = 5) (fun c s =>
    let k := cmdCore c
    if !regAssigned (cmdReg c) then some { st := 1, s := s }
    else if !coreIdle (getCl s k) then none
    else some { st := 0, result := regReadSys s k (cmdReg c), s := s }) s

/-- UNASSIGNED_OP (R421, R422): status -1; a send that is no command is dropped and counted. -/
def execUnassignedOp (s : State) : Host.Outcome State Fault Refusal :=
  match s.here with
  | .command c =>
    if c.bytes.length < 64 ∨ 1024 < c.bytes.length then .next (dropPkt s c.die)
    else lodgeStep (fun op => decide (op = 0) || decide (5 < op)) (fun _ s => some { st := 1, s := s }) s
  | _ => .next s

/-! ## A host's writes and reads (R421, R429) -/

/-- The granules that a range of bytes touches, and those it covers wholly. -/
def granTouched (pa n : Nat) : List Nat := if n = 0 then [] else (List.range ((pa + n - 1) / 64 - pa / 64 + 1)).map (pa / 64 + ·)
def granWhole (pa n : Nat) : List Nat := (granTouched pa n).filter fun g => pa ≤ 64 * g && 64 * g + 64 ≤ pa + n

/-- HOST_WRITE (R421): at the home slice, with no range entry; full-empty bits stay. -/
def execHostWrite (s : State) : Host.Outcome State Fault Refusal :=
  match s.here with
  | .hostWrite pa bs =>
    if 2 ^ 39 < pa + bs.length then .next s
    else
      let s1 := (granTouched pa bs.length).foldl (fun s g => touch s none (64 * g) 0 true) s
      .next ((granWhole pa bs.length).foldl (fun s g => setPoison s (64 * g) false) (memWrite s1 pa bs))
  | _ => .next s

/-- HOST_READ (R421). -/
def execHostRead (s : State) : Host.Outcome State Fault Refusal :=
  match s.here with
  | .hostRead pa n =>
    if 2 ^ 39 < pa + n then .next s
    else
      let s1 := (granTouched pa n).foldl (fun s g => touch s none (64 * g) 0 false) s
      let bs := (memRead s pa n).zipIdx.map fun (b, i) => if isPoison s (pa + i) then Config.poisonByte (pa + i) else b
      .next { s1 with out := s1.out ++ [.hostData bs] }
  | _ => .next s

/-! ## Bring-up, trim, heat (R239, R426, R428) -/

/-- Links that are down begin to train. -/
def trainLinks (s : State) : State :=
  ([0, 1, 2, 3] : List (Fin 4)).foldl (fun s d => (List.range 16).foldl (fun s p =>
    updYl s d (Fin.ofNat 16 p) fun y => if y.st = 0 then { y with st := 1 } else y) s) s

/-- POWER_ON (R239, R426): Kiosk trains the links, leaves every granule full, and sets LJBASE. A package that was off comes up as at reset; one
that is up, its journal not yet set, has the rest of its bring-up. -/
def execPowerOn (s : State) : Host.Outcome State Fault Refusal :=
  match s.here with
  | .power v =>
    let base := if fld v 62 39 ≠ 0 ∨ fld v 15 5 ≠ 0 ∨ fld v 4 0 < 10 ∨ 20 < fld v 4 0 then 0 else v
    if !s.powered then .next (trainLinks { State.reset with ljbase := base, flash := s.flash, out := s.out, seq := s.seq, free := s.free, agenda := s.agenda, here := s.here })
    else if wbit s.ljbase 63 then .next s
    else .next (trainLinks { s with ljbase := base })
  | _ => .next s

/-- Cycles without a replay after which the voltage goes down, and of the interval in which one makes it go up. -/
def trimDownAfter : Nat := 10000 * Config.cyclesPerUs
def trimUpAfter : Nat := 1000000

/-- The cycle from which a cluster has been without a replay or a step. -/
def trimSince (x : Cluster) : Nat := max x.trimAt (x.trimRep.getD 0)

/-- R428: whether a step down is due, after 10 ms in which no replay occurred; and a step up, after 10^6 cycles that held one. -/
def trimDownDue (s : State) (x : Cluster) : Bool := x.trimEn && decide (x.trimStep < 24) && decide (trimSince x + trimDownAfter ≤ s.clock)
def trimUpDue (s : State) (x : Cluster) : Bool := x.trimEn && x.trimRep.isSome && decide (x.trimAt + trimUpAfter ≤ s.clock)

/-- TRIM_STEP_DOWN (R428): 10 ms in which no replay occurred. -/
def execTrimStepDown (s : State) : Host.Outcome State Fault Refusal :=
  match s.here with
  | .core c =>
    let x := getCl s c
    .next (if trimDownDue s x then countCluster (setCl s c { x with trimStep := x.trimStep + 1, trimAt := s.clock }) c 0 0x52 1 else s)
  | _ => .next s

/-- TRIM_STEP_UP (R428): 10^6 cycles that held a replay. -/
def execTrimStepUp (s : State) : Host.Outcome State Fault Refusal :=
  match s.here with
  | .core c =>
    let x := getCl s c
    if !trimUpDue s x then .next s
    else
      let s1 := setCl s c { x with trimStep := x.trimStep - 1, trimAt := s.clock, trimRep := none }
      .next (if x.trimStep = 0 then s1 else countCluster s1 c 0 0x51 1)
  | _ => .next s

/-- THERMAL_LIMIT (R428): above 105 °C every cluster's EN is 0. -/
def execThermalLimit (s : State) : Host.Outcome State Fault Refusal :=
  match s.here with
  | .heat t => .next (if 105 < t then { s with clusters := s.clusters.map fun (k, x) => (k, { x with trimEn := false }) } else s)
  | _ => .next s

/-- THERMAL_SHUTDOWN (R428): at 115 °C the package powers off; the cause goes to flash. -/
def execThermalShutdown (s : State) : Host.Outcome State Fault Refusal :=
  match s.here with
  | .heat t => .next (if 115 ≤ t then { s with powered := false, flash := t } else s)
  | _ => .next s

end Sys2Proof.Machine
end

