-- ==== Sys2Proof/Machine/Dispatch.lean ====
section
/-! DEFINITION. One arm for each constructor of Instr: a direct call of its meaning. -/
namespace Sys2Proof.Machine

def exec (i : Instr) (s : State) : Host.Outcome State Fault Refusal :=
  match i with
  | .beginStream part => Sys2Proof.Machine.execBeginStream part s
  | .plane v => Sys2Proof.Machine.execPlane v s
  | .page v => Sys2Proof.Machine.execPage v s
  | .origin r c => Sys2Proof.Machine.execOrigin r c s
  | .copies v => Sys2Proof.Machine.execCopies v s
  | .pc n v => Sys2Proof.Machine.execPc n v s
  | .check v => Sys2Proof.Machine.execCheck v s
  | .endStream => Sys2Proof.Machine.execEndStream s
  | .tileCommand row col fn v => Sys2Proof.Machine.execTileCommand row col fn v s
  | .steer a c t f => Sys2Proof.Machine.execSteer a c t f s
  | .carry a b c t => Sys2Proof.Machine.execCarry a b c t s
  | .inv a c t => Sys2Proof.Machine.execInv a c t s
  | .merge a b c t => Sys2Proof.Machine.execMerge a b c t s
  | .mov w => Sys2Proof.Machine.execMov w s
  | .ldi w => Sys2Proof.Machine.execLdi w s
  | .add w => Sys2Proof.Machine.execAdd w s
  | .sub w => Sys2Proof.Machine.execSub w s
  | .adds w => Sys2Proof.Machine.execAdds w s
  | .subs w => Sys2Proof.Machine.execSubs w s
  | .mul w => Sys2Proof.Machine.execMul w s
  | .mulh w => Sys2Proof.Machine.execMulh w s
  | .mad w => Sys2Proof.Machine.execMad w s
  | .dot4 w => Sys2Proof.Machine.execDot4 w s
  | .min w => Sys2Proof.Machine.execMin w s
  | .max w => Sys2Proof.Machine.execMax w s
  | .abs w => Sys2Proof.Machine.execAbs w s
  | .neg w => Sys2Proof.Machine.execNeg w s
  | .and w => Sys2Proof.Machine.execAnd w s
  | .or w => Sys2Proof.Machine.execOr w s
  | .xor w => Sys2Proof.Machine.execXor w s
  | .andn w => Sys2Proof.Machine.execAndn w s
  | .not w => Sys2Proof.Machine.execNot w s
  | .shl w => Sys2Proof.Machine.execShl w s
  | .shr w => Sys2Proof.Machine.execShr w s
  | .sar w => Sys2Proof.Machine.execSar w s
  | .rol w => Sys2Proof.Machine.execRol w s
  | .clz w => Sys2Proof.Machine.execClz w s
  | .ctz w => Sys2Proof.Machine.execCtz w s
  | .popc w => Sys2Proof.Machine.execPopc w s
  | .brev w => Sys2Proof.Machine.execBrev w s
  | .bfx w => Sys2Proof.Machine.execBfx w s
  | .bfxs w => Sys2Proof.Machine.execBfxs w s
  | .bfi w => Sys2Proof.Machine.execBfi w s
  | .cmp w => Sys2Proof.Machine.execCmp w s
  | .sel w => Sys2Proof.Machine.execSel w s
  | .nopCore w => Sys2Proof.Machine.execNopCore w s
  | .movCore w => Sys2Proof.Machine.execMovCore w s
  | .ldiCore w => Sys2Proof.Machine.execLdiCore w s
  | .addCore w => Sys2Proof.Machine.execAddCore w s
  | .subCore w => Sys2Proof.Machine.execSubCore w s
  | .addsCore w => Sys2Proof.Machine.execAddsCore w s
  | .subsCore w => Sys2Proof.Machine.execSubsCore w s
  | .mulCore w => Sys2Proof.Machine.execMulCore w s
  | .mulhCore w => Sys2Proof.Machine.execMulhCore w s
  | .madCore w => Sys2Proof.Machine.execMadCore w s
  | .minCore w => Sys2Proof.Machine.execMinCore w s
  | .maxCore w => Sys2Proof.Machine.execMaxCore w s
  | .absCore w => Sys2Proof.Machine.execAbsCore w s
  | .negCore w => Sys2Proof.Machine.execNegCore w s
  | .andCore w => Sys2Proof.Machine.execAndCore w s
  | .orCore w => Sys2Proof.Machine.execOrCore w s
  | .xorCore w => Sys2Proof.Machine.execXorCore w s
  | .andnCore w => Sys2Proof.Machine.execAndnCore w s
  | .notCore w => Sys2Proof.Machine.execNotCore w s
  | .shlCore w => Sys2Proof.Machine.execShlCore w s
  | .shrCore w => Sys2Proof.Machine.execShrCore w s
  | .sarCore w => Sys2Proof.Machine.execSarCore w s
  | .rolCore w => Sys2Proof.Machine.execRolCore w s
  | .clzCore w => Sys2Proof.Machine.execClzCore w s
  | .ctzCore w => Sys2Proof.Machine.execCtzCore w s
  | .popcCore w => Sys2Proof.Machine.execPopcCore w s
  | .brevCore w => Sys2Proof.Machine.execBrevCore w s
  | .bfxCore w => Sys2Proof.Machine.execBfxCore w s
  | .bfxsCore w => Sys2Proof.Machine.execBfxsCore w s
  | .bfiCore w => Sys2Proof.Machine.execBfiCore w s
  | .cmpCore w => Sys2Proof.Machine.execCmpCore w s
  | .selCore w => Sys2Proof.Machine.execSelCore w s
  | .div w => Sys2Proof.Machine.execDiv w s
  | .divu w => Sys2Proof.Machine.execDivu w s
  | .rem w => Sys2Proof.Machine.execRem w s
  | .remu w => Sys2Proof.Machine.execRemu w s
  | .fadd w => Sys2Proof.Machine.execFadd w s
  | .fsub w => Sys2Proof.Machine.execFsub w s
  | .fmul w => Sys2Proof.Machine.execFmul w s
  | .fma w => Sys2Proof.Machine.execFma w s
  | .fms w => Sys2Proof.Machine.execFms w s
  | .fnma w => Sys2Proof.Machine.execFnma w s
  | .fmin w => Sys2Proof.Machine.execFmin w s
  | .fmax w => Sys2Proof.Machine.execFmax w s
  | .fabs w => Sys2Proof.Machine.execFabs w s
  | .fneg w => Sys2Proof.Machine.execFneg w s
  | .fcps w => Sys2Proof.Machine.execFcps w s
  | .fcmp w => Sys2Proof.Machine.execFcmp w s
  | .fcls w => Sys2Proof.Machine.execFcls w s
  | .fdota w => Sys2Proof.Machine.execFdota w s
  | .frcp w => Sys2Proof.Machine.execFrcp w s
  | .frsq w => Sys2Proof.Machine.execFrsq w s
  | .fsqrt w => Sys2Proof.Machine.execFsqrt w s
  | .fexp2 w => Sys2Proof.Machine.execFexp2 w s
  | .flog2 w => Sys2Proof.Machine.execFlog2 w s
  | .ftanh w => Sys2Proof.Machine.execFtanh w s
  | .fsigm w => Sys2Proof.Machine.execFsigm w s
  | .cvtup w => Sys2Proof.Machine.execCvtup w s
  | .cvtdn w => Sys2Proof.Machine.execCvtdn w s
  | .cvtif w => Sys2Proof.Machine.execCvtif w s
  | .cvtfi w => Sys2Proof.Machine.execCvtfi w s
  | .rndi w => Sys2Proof.Machine.execRndi w s
  | .pack w => Sys2Proof.Machine.execPack w s
  | .unpk w => Sys2Proof.Machine.execUnpk w s
  | .scl w => Sys2Proof.Machine.execScl w s
  | .cmpr w => Sys2Proof.Machine.execCmpr w s
  | .clen w => Sys2Proof.Machine.execClen w s
  | .shuf w => Sys2Proof.Machine.execShuf w s
  | .bcst w => Sys2Proof.Machine.execBcst w s
  | .lrot w => Sys2Proof.Machine.execLrot w s
  | .rsum w => Sys2Proof.Machine.execRsum w s
  | .rmax w => Sys2Proof.Machine.execRmax w s
  | .rmin w => Sys2Proof.Machine.execRmin w s
  | .scan w => Sys2Proof.Machine.execScan w s
  | .vset w => Sys2Proof.Machine.execVset w s
  | .vget w => Sys2Proof.Machine.execVget w s
  | .cmpct w => Sys2Proof.Machine.execCmpct w s
  | .wget w => Sys2Proof.Machine.execWget w s
  | .wset w => Sys2Proof.Machine.execWset w s
  | .wmul w => Sys2Proof.Machine.execWmul w s
  | .gapt w => Sys2Proof.Machine.execGapt w s
  | .keyg w => Sys2Proof.Machine.execKeyg w s
  | .hdrg w => Sys2Proof.Machine.execHdrg w s
  | .hdrs w => Sys2Proof.Machine.execHdrs w s
  | .win w => Sys2Proof.Machine.execWin w s
  | .join w => Sys2Proof.Machine.execJoin w s
  | .agg w => Sys2Proof.Machine.execAgg w s
  | .bx w => Sys2Proof.Machine.execBx w s
  | .bxc w => Sys2Proof.Machine.execBxc w s
  | .tspawn w => Sys2Proof.Machine.execTspawn w s
  | .tjoin w => Sys2Proof.Machine.execTjoin w s
  | .thalt w => Sys2Proof.Machine.execThalt w s
  | .dsel w => Sys2Proof.Machine.execDsel w s
  | .seq w => Sys2Proof.Machine.execSeq w s
  | .btok w => Sys2Proof.Machine.execBtok w s
  | .barn w => Sys2Proof.Machine.execBarn w s
  | .evpost w => Sys2Proof.Machine.execEvpost w s
  | .agen w => Sys2Proof.Machine.execAgen w s
  | .ld w => Sys2Proof.Machine.execLd w s
  | .st w => Sys2Proof.Machine.execSt w s
  | .ldf w => Sys2Proof.Machine.execLdf w s
  | .stf w => Sys2Proof.Machine.execStf w s
  | .clre w => Sys2Proof.Machine.execClre w s
  | .atom w => Sys2Proof.Machine.execAtom w s
  | .mcast w => Sys2Proof.Machine.execMcast w s
  | .pref w => Sys2Proof.Machine.execPref w s
  | .cjoin w => Sys2Proof.Machine.execCjoin w s
  | .bkgive w => Sys2Proof.Machine.execBkgive w s
  | .mxn w => Sys2Proof.Machine.execMxn w s
  | .mseq w => Sys2Proof.Machine.execMseq w s
  | .radv w => Sys2Proof.Machine.execRadv w s
  | .rstat w => Sys2Proof.Machine.execRstat w s
  | .mmul w => Sys2Proof.Machine.execMmul w s
  | .mmult w => Sys2Proof.Machine.execMmult w s
  | .mzero w => Sys2Proof.Machine.execMzero w s
  | .mstc w => Sys2Proof.Machine.execMstc w s
  | .mldc w => Sys2Proof.Machine.execMldc w s
  | .ld8 w => Sys2Proof.Machine.execLd8 w s
  | .ld16 w => Sys2Proof.Machine.execLd16 w s
  | .ld32 w => Sys2Proof.Machine.execLd32 w s
  | .ld64 w => Sys2Proof.Machine.execLd64 w s
  | .st8 w => Sys2Proof.Machine.execSt8 w s
  | .st16 w => Sys2Proof.Machine.execSt16 w s
  | .st32 w => Sys2Proof.Machine.execSt32 w s
  | .st64 w => Sys2Proof.Machine.execSt64 w s
  | .amo w => Sys2Proof.Machine.execAmo w s
  | .bc w => Sys2Proof.Machine.execBc w s
  | .j w => Sys2Proof.Machine.execJ w s
  | .jal w => Sys2Proof.Machine.execJal w s
  | .jr w => Sys2Proof.Machine.execJr w s
  | .crd w => Sys2Proof.Machine.execCrd w s
  | .cwr w => Sys2Proof.Machine.execCwr w s
  | .fence w => Sys2Proof.Machine.execFence w s
  | .trap w => Sys2Proof.Machine.execTrap w s
  | .eret w => Sys2Proof.Machine.execEret w s
  | .wfe w => Sys2Proof.Machine.execWfe w s
  | .launch w => Sys2Proof.Machine.execLaunch w s
  | .sbind w => Sys2Proof.Machine.execSbind w s
  | .sclose w => Sys2Proof.Machine.execSclose w s
  | .phase w => Sys2Proof.Machine.execPhase w s
  | .cfgld w => Sys2Proof.Machine.execCfgld w s
  | .cpf w => Sys2Proof.Machine.execCpf w s
  | .modld w => Sys2Proof.Machine.execModld w s
  | .modul w => Sys2Proof.Machine.execModul w s
  | .rsw w => Sys2Proof.Machine.execRsw w s
  | .dselc w => Sys2Proof.Machine.execDselc w s
  | .evpop w => Sys2Proof.Machine.execEvpop w s
  | .evwait w => Sys2Proof.Machine.execEvwait w s
  | .trel w => Sys2Proof.Machine.execTrel w s
  | .bara w => Sys2Proof.Machine.execBara w s
  | .barw w => Sys2Proof.Machine.execBarw w s
  | .nepost w => Sys2Proof.Machine.execNepost w s
  | .nepoll w => Sys2Proof.Machine.execNepoll w s
  | .cpypost w => Sys2Proof.Machine.execCpypost w s
  | .colpost w => Sys2Proof.Machine.execColpost w s
  | .rinv w => Sys2Proof.Machine.execRinv w s
  | .resid w => Sys2Proof.Machine.execResid w s
  | .ctrrd w => Sys2Proof.Machine.execCtrrd w s
  | .ctrsel w => Sys2Proof.Machine.execCtrsel w s
  | .bpset w => Sys2Proof.Machine.execBpset w s
  | .mcut w => Sys2Proof.Machine.execMcut w s
  | .illegal w => Sys2Proof.Machine.execIllegal w s
  | .extTarget w => Sys2Proof.Machine.execExtTarget w s
  | .fetch addr => Sys2Proof.Machine.execFetch addr s
  | .reservedStreamCommand w => Sys2Proof.Machine.execReservedStreamCommand w s
  | .forward => Sys2Proof.Machine.execForward s
  | .localSend => Sys2Proof.Machine.execLocalSend s
  | .arrive => Sys2Proof.Machine.execArrive s
  | .gapPlace => Sys2Proof.Machine.execGapPlace s
  | .edgeGateClose => Sys2Proof.Machine.execEdgeGateClose s
  | .edgeGateOpen => Sys2Proof.Machine.execEdgeGateOpen s
  | .pkthdrTake => Sys2Proof.Machine.execPkthdrTake s
  | .loneToken => Sys2Proof.Machine.execLoneToken s
  | .resultComplete => Sys2Proof.Machine.execResultComplete s
  | .qwc => Sys2Proof.Machine.execQwc s
  | .threadRetire => Sys2Proof.Machine.execThreadRetire s
  | .phaseEnd => Sys2Proof.Machine.execPhaseEnd s
  | .planeSwitch => Sys2Proof.Machine.execPlaneSwitch s
  | .cfgLoadStart => Sys2Proof.Machine.execCfgLoadStart s
  | .schedulerLoad => Sys2Proof.Machine.execSchedulerLoad s
  | .rswApply => Sys2Proof.Machine.execRswApply s
  | .launchPlace => Sys2Proof.Machine.execLaunchPlace s
  | .residencyGateMet => Sys2Proof.Machine.execResidencyGateMet s
  | .inStreamInject => Sys2Proof.Machine.execInStreamInject s
  | .outStreamWrite => Sys2Proof.Machine.execOutStreamWrite s
  | .streamComplete => Sys2Proof.Machine.execStreamComplete s
  | .perform => Sys2Proof.Machine.execPerform s
  | .pageRequestOpen => Sys2Proof.Machine.execPageRequestOpen s
  | .fill => Sys2Proof.Machine.execFill s
  | .writeBack => Sys2Proof.Machine.execWriteBack s
  | .copyStart => Sys2Proof.Machine.execCopyStart s
  | .engineWrite => Sys2Proof.Machine.execEngineWrite s
  | .engineDone => Sys2Proof.Machine.execEngineDone s
  | .fixupReplay => Sys2Proof.Machine.execFixupReplay s
  | .drain => Sys2Proof.Machine.execDrain s
  | .coreRead => Sys2Proof.Machine.execCoreRead s
  | .record => Sys2Proof.Machine.execRecord s
  | .eqlost => Sys2Proof.Machine.execEqlost s
  | .register => Sys2Proof.Machine.execRegister s
  | .barrierReport => Sys2Proof.Machine.execBarrierReport s
  | .release => Sys2Proof.Machine.execRelease s
  | .threadDelivery => Sys2Proof.Machine.execThreadDelivery s
  | .eventWake => Sys2Proof.Machine.execEventWake s
  | .waitTimeout => Sys2Proof.Machine.execWaitTimeout s
  | .matrixOpStart => Sys2Proof.Machine.execMatrixOpStart s
  | .matrixRetire => Sys2Proof.Machine.execMatrixRetire s
  | .mcastRequest => Sys2Proof.Machine.execMcastRequest s
  | .mcastSendStart => Sys2Proof.Machine.execMcastSendStart s
  | .mcastLineSend => Sys2Proof.Machine.execMcastLineSend s
  | .mcastLand => Sys2Proof.Machine.execMcastLand s
  | .agenEmit => Sys2Proof.Machine.execAgenEmit s
  | .mseqEmit => Sys2Proof.Machine.execMseqEmit s
  | .bkgiveSet => Sys2Proof.Machine.execBkgiveSet s
  | .radvPublish => Sys2Proof.Machine.execRadvPublish s
  | .moduleUnload => Sys2Proof.Machine.execModuleUnload s
  | .sliceExpiry => Sys2Proof.Machine.execSliceExpiry s
  | .preempt => Sys2Proof.Machine.execPreempt s
  | .saveComplete => Sys2Proof.Machine.execSaveComplete s
  | .restore => Sys2Proof.Machine.execRestore s
  | .restoreComplete => Sys2Proof.Machine.execRestoreComplete s
  | .watchdog => Sys2Proof.Machine.execWatchdog s
  | .watchdogDrainEnd => Sys2Proof.Machine.execWatchdogDrainEnd s
  | .resetComplete => Sys2Proof.Machine.execResetComplete s
  | .suspend => Sys2Proof.Machine.execSuspend s
  | .resume => Sys2Proof.Machine.execResume s
  | .reset => Sys2Proof.Machine.execReset s
  | .prectWrite => Sys2Proof.Machine.execPrectWrite s
  | .pctlWrite => Sys2Proof.Machine.execPctlWrite s
  | .rkbaseWrite => Sys2Proof.Machine.execRkbaseWrite s
  | .guardRewrite => Sys2Proof.Machine.execGuardRewrite s
  | .mxmodeWrite => Sys2Proof.Machine.execMxmodeWrite s
  | .portGuardReport => Sys2Proof.Machine.execPortGuardReport s
  | .leaseRequest => Sys2Proof.Machine.execLeaseRequest s
  | .leaseRelease => Sys2Proof.Machine.execLeaseRelease s
  | .cutRecord => Sys2Proof.Machine.execCutRecord s
  | .cutDone => Sys2Proof.Machine.execCutDone s
  | .promotion => Sys2Proof.Machine.execPromotion s
  | .demotion => Sys2Proof.Machine.execDemotion s
  | .evaluation => Sys2Proof.Machine.execEvaluation s
  | .exchange => Sys2Proof.Machine.execExchange s
  | .pairAbandon => Sys2Proof.Machine.execPairAbandon s
  | .mapChange => Sys2Proof.Machine.execMapChange s
  | .flitReceive => Sys2Proof.Machine.execFlitReceive s
  | .collectiveStart => Sys2Proof.Machine.execCollectiveStart s
  | .workRequestStart => Sys2Proof.Machine.execWorkRequestStart s
  | .scoutPass => Sys2Proof.Machine.execScoutPass s
  | .packetSend => Sys2Proof.Machine.execPacketSend s
  | .packetReceive => Sys2Proof.Machine.execPacketReceive s
  | .ackTimer => Sys2Proof.Machine.execAckTimer s
  | .ackReceive => Sys2Proof.Machine.execAckReceive s
  | .retransmitTimeout => Sys2Proof.Machine.execRetransmitTimeout s
  | .workRequestComplete => Sys2Proof.Machine.execWorkRequestComplete s
  | .lodgeLaunch => Sys2Proof.Machine.execLodgeLaunch s
  | .cstart => Sys2Proof.Machine.execCstart s
  | .cstop => Sys2Proof.Machine.execCstop s
  | .regwr => Sys2Proof.Machine.execRegwr s
  | .regrd => Sys2Proof.Machine.execRegrd s
  | .hostWrite => Sys2Proof.Machine.execHostWrite s
  | .hostRead => Sys2Proof.Machine.execHostRead s
  | .pstateOn => Sys2Proof.Machine.execPstateOn s
  | .pstateIdle => Sys2Proof.Machine.execPstateIdle s
  | .pstateOff => Sys2Proof.Machine.execPstateOff s
  | .trimStepDown => Sys2Proof.Machine.execTrimStepDown s
  | .trimStepUp => Sys2Proof.Machine.execTrimStepUp s
  | .thermalLimit => Sys2Proof.Machine.execThermalLimit s
  | .thermalShutdown => Sys2Proof.Machine.execThermalShutdown s
  | .powerOn => Sys2Proof.Machine.execPowerOn s
  | .rgeomWrite => Sys2Proof.Machine.execRgeomWrite s
  | .rptrClear => Sys2Proof.Machine.execRptrClear s
  | .slareaWrite => Sys2Proof.Machine.execSlareaWrite s
  | .swinWrite => Sys2Proof.Machine.execSwinWrite s
  | .barcfgWrite => Sys2Proof.Machine.execBarcfgWrite s
  | .rangeEntryWrite => Sys2Proof.Machine.execRangeEntryWrite s
  | .registerWrite => Sys2Proof.Machine.execRegisterWrite s
  | .shootdownComplete => Sys2Proof.Machine.execShootdownComplete s
  | .linkTrainingDone => Sys2Proof.Machine.execLinkTrainingDone s
  | .unassignedOp => Sys2Proof.Machine.execUnassignedOp s

end Sys2Proof.Machine
end

