-- ==== Sys2Proof/Machine/Clock.lean ====
section
/-! DEFINITION. The end of a cycle: what must have happened in it, and what is counted of it (R13, R142, R145, R157, R342, R344). -/
namespace Sys2Proof.Machine

/-! ## What a cycle owes (R13, R86, R142, R145, R146, R355) -/

/-- Whether a tile still owes something in this cycle: a token to forward, an arrival, a gap marker or a packet header to take, the issue of a
ready slot, the step of a router operator (R29, R158), the record of a cut, the token of a local source whose links are free. -/
def tileOwes (s : State) (t : TileId) (x : Tile) : Bool :=
  x.links.any (fun (_, l) => match l with | (_, at_) :: _ => decide (at_ < s.clock) | [] => false) ||
  x.queues.any (fun (_, q) => !q.arr.isEmpty || (hdrDue s.clock q && !tileHalted s t x) || (x.active.isSome && gapDue s.clock q)) ||
  (List.range 6).any (fun k => !(queueAt x (8 + k)).arr.isEmpty || gapDue s.clock (queueAt x (8 + k))) ||
  (issuer s t).isSome || ([0, 1] : List (Fin 2)).any (fun g => (opNext s t g).isSome) || recordDue s t ||
  localSrcs.any fun src => ableSend s x src && winsLinks s x src && !tileHalted s t x

/-- Whether a launch's region still owes something in this cycle: the token of an in-port (R258), a change of the edge gate that has reached
the ingress points (R148), the record of the quiescence detector (R157), the write of an RSW (R190), the start of a deferred load (R179), the retirement of a thread
(R186) or its delivery from a drained region (R114), the end of its phase (R188). -/
def launchOwes (s : State) (l : LaunchId) (x : Launch) : Bool :=
  (List.range 8).any (fun p => injectOwed s l x (Fin.ofNat 16 p)) || gateArrived s l x || qwcDue x || rswOwed s l x ||
  deferredDue s l x || x.threads.any (fun (k, y) => mayRetire s l x (BitVec.ofNat 8 k) y || stopDue s l x (BitVec.ofNat 8 k) y) ||
  (phaseEndDue s l x && (decide (x.st = .running) || decide (ctxState s l.die x.lr.ctx = 1)))

/-- Whether a launch's context still owes what its slice's time asks for in this cycle: the expiry, the watchdog, the end of its drain (R334, R339). -/
def sliceOwes (s : State) (l : LaunchId) (x : Launch) : Bool := sliceOver s l x || watchdogDue s l x || drainOver s x

/-- Whether a cluster still owes what a time asks for in this cycle: the end of a core's wait (R274, R275), a step of its voltage (R428). -/
def clusterOwes (s : State) (x : Cluster) : Bool := (waitOver s x).isSome || trimDownDue s x || trimUpDue s x

/-- Whether a die still owes what a time asks for in this cycle: an evaluation, an exchange or the end of a pair of the Parterre (R380, R382), the
report of a port (R328), an acknowledgement (R393). -/
def dieOwes (s : State) (d : Fin 4) : Bool :=
  let x := getDie s d
  evalDue s d || x.armed.any (fun p => exchangeDue s d p || abandonDue s d p) || x.portDrops.any (fun (k, ys) => !ys.isEmpty && portReportDue s x k) ||
  x.eps.any fun (_, e) => ackOwed s e

/-- A launch's identifier by its key. -/
def launchOfKey (k : Nat) : LaunchId := ⟨Fin.ofNat 4 k, k / 4⟩

/-- Whether the cycle is complete. -/
def cycleDone (s : State) : Bool :=
  s.tiles.all (fun (k, x) => !tileOwes s (tileOfKey k) x) &&
  s.launches.all (fun (k, x) => !launchOwes s (launchOfKey k) x && !sliceOwes s (launchOfKey k) x) &&
  s.clusters.all (fun (_, x) => !clusterOwes s x) && ([0, 1, 2, 3] : List (Fin 4)).all fun d => !dieOwes s d

/-! ## Cycle classes (R177, R342) -/

/-- The oldest held slot's port (R87). -/
def heldPort (s : State) (t : TileId) (x : Tile) : Option Nat :=
  ((List.range 8).foldl (fun (best : Option (Nat × Nat)) k =>
    match (getSlot x k).since, slotInstr x k with
    | some c, some i =>
      if want s t x k = .none then best
      else match heldOn x (view i), best with
        | none, b => b
        | some p, none => some (p, c)
        | some p, some (q, c') => if c < c' then some (p, c) else some (q, c')
    | _, _ => best) none).map (·.1)

/-- A port whose oldest token was kept from its links by arbitration (R142); none where a STOP cut keeps the tile from sending (R357). -/
def lostPort (s : State) (t : TileId) (x : Tile) : Option Nat :=
  if tileHalted s t x then none else (List.range 4).find? fun p => (aget [] x.outs p) ≠ [] && decide (afind x.used (20 + p) ≠ some s.clock)

/-- The first operand without a head of the lowest-numbered enabled slot that names one. -/
def waitArg (x : Tile) : Option Nat :=
  (List.range 8).findSome? fun k => match slotInstr x k with
    | none => none
    | some i => ((named (view i)).find? fun (_, q) => (nodeHead x q).isNone).map (·.1)

/-- Whether a memory slot waits for its port, a fault, the edge gate or a bank token. -/
def waitMem (s : State) (t : TileId) (x : Tile) : Bool :=
  (List.range 8).any fun k => match slotInstr x k with
    | none => false
    | some i => match view i, (getSlot x k).node with
      | _, .agen .. => true
      | .mem op w, _ => headsReady x (.mem op w) [0, 1, 2] && !memReady s t x (getSlot x k) k op w
      | _, _ => false

/-- The class of a PE's cycle; `cfg` is the class of a region that waits for a load into its active plane. A replay has the class of the cycle that it
repeats (R343). -/
def peClass (s : State) (t : TileId) (x : Tile) (cfg : Option Nat) : Nat :=
  match cfg, x.replay with
  | some k, _ => k
  | none, some k => k
  | none, none =>
    if x.issued = some s.clock ∨ afind x.used emitUsed = some s.clock then 0
    else match heldPort s t x with
      | some p => 4 + p
      | none => match lostPort s t x with
        | some p => 4 + p
        | none => match waitArg x with
          | some a => 1 + a
          | none => if waitMem s t x then 1 else 11

/-- The head that an operator's next step lacks: 1 INA, 2 INB, 3 CIN (R159 to R162). -/
def opLacks (i : Instr) (y : Op) : Option Nat :=
  let a := if (headOf y.ina).isNone then some 1 else none
  let b := if (headOf y.inb).isNone then some 2 else none
  let c := if (headOf y.cin).isNone then some 3 else none
  let first (u v : Option Nat) : Option Nat := if u.isSome then u else v
  match i with
  | .steer .. => first a c
  | .carry .. => if y.loop then first b c else a
  | .inv .. => if y.held.isSome then c else a
  | .merge .. =>
    let fence (q : Queue) : Bool := match headV q with | some r => !countsAsData r && r.kind ≠ kGap | none => false
    match headC y.cin with
    | none => if fence y.inb && a.isSome then a else if fence y.ina && b.isSome then b else c
    | some true => if 0 < y.owedA then none else if fence y.ina then b else a
    | some false => if 0 < y.owedB then none else if fence y.inb then a else b
  | _ => none

/-- The class of a router operator's cycle, when it has an operation. -/
def opClass (s : State) (t : TileId) (x : Tile) (g : Fin 2) (cfg : Option Nat) : Option Nat :=
  (opInstr x g).map fun i =>
    let y := getOp x g
    match cfg with
    | some k => k
    | none =>
      if afind x.used (opUsed g) = some s.clock then 0
      else if y.outT.isSome && !tileHalted s t x then 4
      else if y.outF.isSome && !tileHalted s t x then 5
      else match opLacks i y with
        | some k => k
        | none => 11

/-- R177: the class of a region that waits at a boundary for the load of the plane that is to become active, by the farthest level that has
supplied a line of it: the load of the chosen block, or one into a DSEL's plane. -/
def cfgClass (x : Launch) : Option Nat :=
  let class_ (y : Load) : Nat := 8 + y.level
  match x.st, x.choice with
  | .boundary, some pc => if (planeOf x pc).isSome then none else (x.loads.find? fun (y : Load) => y.pc = pc).map class_
  | .switching p, _ => if (getPlane x p.val).st = .resident then none else (firstLoad x p).map class_
  | _, _ => none

/-- Whether a stage of a PE that fired in this cycle is replayed in the next (R343, R428), where its cluster's voltage is over-scaled. -/
def replaysNext (s : State) (t : TileId) (x : Tile) : Bool :=
  (getCl s (clusterOf s t)).trimEn && x.issued = some s.clock && Config.replays s.clock (tileKey t)

/-- The next cycle of a PE as a repetition of this one, of a class, or not: the replay counted (R343, R344, R428). -/
def tickReplay (s : State) (t : TileId) (cls : Nat) : State :=
  let x := getTile s t
  if replaysNext s t x then
    updCl (countEv (setTile s t { x with replay := some cls }) t 0x50 0 1) (clusterOf s t) fun y => { y with trimRep := some s.clock }
  else if x.replay.isSome then setTile s t { x with replay := none }
  else s

/-- The cycle of one tile is counted: its elements' classes, its queues' close requests, its parked LDFs. -/
def countTileCycle (s : State) (l : LaunchId) (cfg : Option Nat) (t : TileId) : State :=
  let x := getTile s t
  let cs := peClass s t x cfg :: ([0, 1] : List (Fin 2)).filterMap fun g => opClass s t x g cfg
  let s1 := cs.foldl (fun s c => updLaunch (countTile s t c 0) l fun y => { y with classes := aupd 0 y.classes c (· + 1) }) s
  let s2 := ((List.range 14).filter fun k => (queueAt x k).close).foldl (fun s k => countTile s t 0x16 k) s1
  let s3 := if x.port.queue.any fun a => a.parked.isSome then countTile s2 t 0x42 0 else s2
  tickReplay s3 t (peClass s t x cfg)

/-- R344: the cycles in which an out-port's queue holds a close request, at the tile of its link (R259: queue code 14). -/
def countPorts (s : State) (l : LaunchId) (x : Launch) : State :=
  x.streams.foldl (fun s (p, y) => match edgeOf s l x p with
    | some (t, _) => if y.close then countTile s t 0x16 14 else s
    | none => s) s

/-- R212: busy cycles of a cluster's queues, and cycles in which the head waits for its tiles. -/
def countArray (s : State) (x : Cluster) : State :=
  x.mqs.foldl (fun s (q, os) => match os with
    | o :: _ => countEv s o.tile (if o.started then 0x32 else 0x33) (opHalf x q o) 1
    | [] => s) s

/-! ## The quiescence counter (R157) -/

/-- Whether a memory request of a tile is outstanding: an access of its port, an MCAST, a stream store that waits to be written back, an
operation that executes in the array (R157, R213). -/
def tileRequests (s : State) (t : TileId) (y : Tile) : Bool :=
  !y.port.queue.isEmpty || mcastBusy s t ||
  (t.col.val % 2 = 1 && (getSlice s (sliceOf t)).wins.any fun (_, w) => w.held.any (·.store)) ||
  (getCl s (clusterOf s t)).mqs.any fun (_, os) => os.any fun o => o.started && o.tile = t

/-- Whether a binding has a request outstanding: a token that its in-port may read and inject, or one that its out-port has still to write
(R157; log 66). -/
def streamRequests (s : State) (l : LaunchId) (x : Launch) : Bool :=
  x.streams.any fun (p, y) => (!y.words.isEmpty && !y.queue.isEmpty) || (inReady s l x (Fin.ofNat 16 p)).isSome ||
    (match y.req with | some w => reqStands s l.die w | none => false)

/-- Whether something in a region keeps its quiescence counter at zero in this cycle. -/
def regionActive (s : State) (l : LaunchId) (x : Launch) : Bool :=
  decide (liveThreads x = 0) || x.active.isNone || (match x.st with | .running => false | .boundary => loadsRun x || x.choice.isSome | _ => true) ||
  streamRequests s l x ||
  (regionTiles l x).any fun t =>
    let y := getTile s t
    y.issued = some s.clock || ([0, 1] : List (Fin 2)).any (fun g => afind y.used (opUsed g) = some s.clock) || y.links.any (fun (_, k) => !k.isEmpty) ||
    tileRequests s t y

/-- The counter of a launch at the end of a cycle; it does not run during a halt (R357). -/
def tickQuiet (s : State) (l : LaunchId) : State :=
  updLaunch s l fun x =>
    if x.halted then x
    else if regionActive s l x then { x with quiet := 0, qwcDone := false } else if x.qwcDone then x else { x with quiet := x.quiet + 1 }

/-! ## The next cycle (R13) -/

/-- The slots that are ready at the start of the next cycle; one that was ready keeps its age, one held by its port's limits too (R240). -/
def tickTile (s : State) (t : TileId) : State :=
  let x := getTile s t
  if x.active.isNone then s
  else
    let since (k : Nat) (y : Slot) : Option Nat := if want s t x k = .none then (if limited s t x k then y.since else none) else some (y.since.getD (s.clock + 1))
    setTile s t ((List.range 8).foldl (fun z k =>
      let y := getSlot x k
      if since k y = y.since then z else setSlot z k { y with since := since k y }) x)

/-- R429: a soft error of a cycle, if one strikes: a correctable one is counted; an uncorrectable one poisons a granule and is counted, or marks a word
of local memory (R268). -/
def strike (s : State) : State :=
  let w := Config.strikeAt s.clock
  let c : ClusterId := ⟨Fin.ofNat 4 (w / 64), fin64 w⟩
  let space := w / 256 % 3 + 1
  match Config.strikeKind s.clock with
  | 1 => { s with serrCorr := s.serrCorr + 1 }
  | 2 => setPoison { s with serrUnc := s.serrUnc + 1 } (64 * (w % 2 ^ 33)) true
  | 3 => updCl { s with serrUnc := s.serrUnc + 1 } c fun x =>
      { x with bufPoison := aput false x.bufPoison (granKey space (w / 768 % (bufSize space / 64))) true }
  | 4 => updCl s c fun x => { x with locBad := (w / 256 % (localEnd / 8)) :: x.locBad }
  | _ => s

/-- A tick of the clock: the cycle ends once everything that it owes has happened; until then it does not. -/
def tickClock (s : State) : State :=
  if !cycleDone s then s
  else
    let ls := s.launches.map fun (k, x) => (launchOfKey k, x)
    let s1 := ls.foldl (fun s (l, x) =>
      if x.corner.isNone then s
      else updLaunch ((regionTiles l x).foldl (fun s t => countTileCycle s l (cfgClass x) t) s) l fun y => { y with cycs := y.cycs + 1 }) s
    let s2 := s.clusters.foldl (fun s (_, x) => countArray s x) (ls.foldl (fun s (l, x) => countPorts s l x) s1)
    let s3 := ls.foldl (fun s (l, _) => tickGate (tickQuiet s l) l) s2
    let s4 := s3.tiles.foldl (fun z (k, _) => tickTile z (tileOfKey k)) s3
    { strike s4 with clock := s.clock + 1 }

end Sys2Proof.Machine
end

