-- ==== Sys2Proof/Machine/Fetch.lean ====
section
/-! DEFINITION. What comes next: the agenda's next act (R286; log 10), the word that a place fetches (R45, R52, R54, R222, R264), the
placing of a word where the next step fetches it. -/
namespace Sys2Proof.Machine

/-! ## Fetching -/

/-- A step that no word names: the place it happens at is its only operand. -/
def isMove (i : Instr) : Bool := match i with | .fetch _ => false | _ => decide (encode i = .none)

/-- The instruction at a core's pc. A fetch at or above 0x4_0000, of the word or of the format E word that it asks for, is FETCH (R45, R264). -/
def fetchCore (x : Cluster) : Instr :=
  if localEnd ≤ x.pc.toNat then .fetch x.pc
  else
    let w := locWord x x.pc.toNat
    if !wantsExtension w then decodeCore w 0
    else if localEnd ≤ (x.pc + 8).toNat then .fetch (x.pc + 8)
    else decodeCore w (locWord x (x.pc + 8).toNat)

/-- The configuration command at the head of the started load of a plane of a launch (R52, R179). -/
def fetchLoader (s : State) (l : LaunchId) (p : Fin 4) : Option Instr :=
  match (findLaunch s l).bind (theLoad · p) with
  | none => none
  | some y => y.words.head?.map decodeStream

/-- The control token of the oldest operation of a queue of the array that has started and has not run (R222). -/
def fetchArray (x : Cluster) (q : Fin 2) : Option Instr :=
  match splitFirst (fun o => !o.ran && o.cause = 0) (getMq x q.val) with
  | some (_, o, _) => if o.started then decodeMatrix o.tok else none
  | none => none

/-- The instruction that a place holds for its next turn, if it holds one. -/
def fetchAt (s : State) : Place → Option Instr
  | .core c => some (fetchCore (getCl s c))
  | .slot sl => slotInstr (getTile s sl.tile) sl.slot.val
  | .router t g => opInstr (getTile s t) g
  | .loader l p => fetchLoader s l p
  | .array c q => fetchArray (getCl s c) q
  | _ => none

/-! ## The agenda -/

/-- The links of the edge ports of a context's block, as its listing states them: a port that it does not name has none, whatever block lay at that
PC before (R415; log 15). -/
def listEdges (ctx : BitVec 12) (pc : Word) (links : List (Fin 16 × Fin 32 × Fin 32 × Dir)) (s : State) : State :=
  let bare := (List.range 16).foldl (fun es p => adel es (edgeKey ctx pc p)) s.edges
  { s with edges := links.foldl (fun es (p, r, c, d) => aset es (edgeKey ctx pc p.val) (r.val, c.val, d)) bare }

/-- What a step is to do: it has been done, or an instruction executes in a state. -/
inductive Turn where
  | quiet (s : State)
  | run (i : Instr) (s : State)
  deriving DecidableEq, Repr

/-- The place of the step under way, and the agenda without its next act. -/
def atPlace (s : State) (p : Place) : State := { s with here := p }
def dropAct (s : State) : State := { s with agenda := s.agenda.tail }

/-- An act of the agenda. Without power nothing happens but POWER_ON (R428); a place that holds no instruction waits. -/
def turnOf (s : State) : Act → Turn
  | .tick => if s.powered then .quiet (tickClock s) else .quiet s
  | .word p =>
    if s.powered then
      match fetchAt s p with
      | some i => .run i (atPlace s p)
      | none => .quiet s
    else .quiet s
  | .move i p => if isMove i ∧ (s.powered ∨ i = .powerOn) then .run i (atPlace s p) else .quiet s
  | .listing ctx pc links => .quiet (listEdges ctx pc links s)

/-- The next act: the agenda's, or a tick of the clock where it has none. -/
def nextTurn (s : State) : Turn :=
  match s.agenda with
  | [] => turnOf s .tick
  | a :: _ => turnOf (dropAct s) a

/-- The place of a step is left when it is over. -/
def leave : Host.Outcome State Fault Refusal → Host.Outcome State Fault Refusal
  | .next s => .next (atPlace s .none)
  | .fault e => .fault e
  | .refused r => .refused r

/-! ## Placing a word (log 10) -/

/-- A launch record of one tile with nothing in it. -/
def blankRec : LaunchRec where
  entry := 0
  module := 0
  ctx := 0
  prio := 0
  log := false
  pmove := false
  qwin := 0
  resmin := 0
  quant := 0
  threads := 0
  copies := 0
  cols := 0
  rows := 0
  group := 0
  midx := 0
  levels := []
  liv := []
  binds := []

/-- The cluster, tile and launch at which a word is placed. -/
def homeCl : ClusterId := ⟨0, 0⟩
def homeTile : TileId := ⟨0, 0, 0⟩
def homeLaunch : LaunchId := ⟨0, 1⟩

/-- The four fields of a 64-bit word, from field `f` on. -/
def putFields (m : Assoc (BitVec 16)) (f : Nat) (w : Word) : Assoc (BitVec 16) :=
  [0, 1, 2, 3].foldl (fun m i => aput 0 m (f + i) (w.extractLsb' (16 * i) 16)) m

/-- The launch of one tile whose active block holds the word placed, with one thread in it (R24, R178, R185). -/
def homeRegion : Launch :=
  { lr := blankRec, issuer := some homeCl, near := homeCl, place := 0, order := 0, corner := some (0, 0), st := .running,
    planes := [(0, { st := .resident })], active := some 0, threads := [(0, { pc := 0, t := [0, 0, 0, 0], st := .flight })] }

/-- The queues of a node word whose heads its first firing takes: all that its operands name, but for the done tokens of SEQ, which take the
iterations that it has sent (R86, R196). -/
def firstHeads (w : Word) : List Nat :=
  match decodeSlot w with
  | .ok (some i) => (named (view i)).filterMap fun (k, q) => match view i with
    | .node .seq _ => if k = 1 then none else some q
    | _ => some q
  | _ => []

/-- An operand token: a vector token in I0 to I5, a scalar token in I6 and I7 (R12). -/
def operandTok (q : Nat) : Tok := if q < 6 then .vec (plainTok 0) else .sca ⟨0, 0⟩

/-- A queue whose head is a token. -/
def headQ (t : Tok) : Queue := { items := [{ tok := t }] }

/-- A node word in slot 0 of a memory tile, its slot enabled (R50, R51), with the operand tokens that its first firing takes, ready since this
cycle (R13). -/
def placeSlot (s : State) (w : Word) : State :=
  updTile (setLaunch { s with agenda := [.word (.slot ⟨homeTile, 0⟩)] } homeLaunch homeRegion) homeTile fun x =>
    let y := { x with owner := some homeLaunch.handle, active := some 0, cfg := aput 0 (putFields x.cfg 0 w) (64 + 16) 0x0201 }
    setSlot ((firstHeads w).foldl (fun y q => setQ y q (headQ (operandTok q))) y) 0 { getSlot x 0 with since := some s.clock }

/-- A router word in operator 0 of a tile (R43, R50), with a head in each of its queues: a record at INA and INB, a 1 at CIN (R158). -/
def placeRouter (s : State) (w : BitVec 32) : State :=
  updTile (setLaunch { s with agenda := [.word (.router homeTile 0)] } homeLaunch homeRegion) homeTile fun x =>
    { x with
      owner := some homeLaunch.handle, active := some 0
      cfg := aput 0 (aput 0 x.cfg (64 + 6) (w.extractLsb' 0 16)) (64 + 7) (w.extractLsb' 16 16)
      g0 := { ina := headQ (.vec (plainTok 0)), inb := headQ (.vec (plainTok 0)), cin := headQ (.ctl true) } }

/-- A configuration command as the next word of a started load: BEGIN opens a stream, END closes one, the rest stand within one (R52). -/
def placeStream (s : State) (w : BitVec 32) : State :=
  let fn := (w.extractLsb' 16 6).toNat
  let stream := w.extractLsb' 22 10 = 0x3FF
  let y : Load := { pc := 0, plane := 1, started := true,
                    seen := if stream ∧ fn = 0 then [] else if stream ∧ fn = 63 then [62, 0] else [0],
                    words := if stream ∧ fn = 63 then [w] else [w, streamWord 63 0] }
  let x : Launch := { lr := blankRec, issuer := some homeCl, near := homeCl, place := 0, order := 0, corner := some (0, 0), st := .boundary,
                      loads := [y] }
  setLaunch { s with agenda := [.word (.loader homeLaunch 1)] } homeLaunch x

/-- A control token as a started operation of queue 0 of the array (R213, R222). -/
def placeMatrix (s : State) (w : Word) : State :=
  let o : MOp := { id := 0, tok := w, tile := homeTile, slot := 0, thr := 0, part := none, seq := 0, started := true }
  updCl { s with agenda := [.word (.array homeCl 0)] } homeCl fun x => setMq x 0 [o]

/-- A core's word at its pc, with the format E word after it, on a running core (R264). -/
def placeCore (s : State) (w e : Word) : State :=
  updCl { s with agenda := [.word (.core homeCl)] } homeCl fun x =>
    { x with run := .running, loc := writeBytes (writeBytes x.loc x.pc.toNat (bytesOf 8 w.toNat)) (x.pc.toNat + 8) (bytesOf 8 e.toNat) }

/-- A word placed where it belongs by its width: as decodeTableWord reads it. -/
def placeWord (s : State) (nbits w : Nat) : State :=
  let s1 := { s with powered := true }
  if nbits = 32 then
    match decodeRouter (BitVec.ofNat 32 w) with
    | .ok (some _) => placeRouter s1 (BitVec.ofNat 32 w)
    | _ => placeStream s1 (BitVec.ofNat 32 w)
  else if nbits = 64 then
    match decodeSlot (BitVec.ofNat 64 w), decodeMatrix (BitVec.ofNat 64 w) with
    | .ok (some _), _ => placeSlot s1 (BitVec.ofNat 64 w)
    | _, some _ => placeMatrix s1 (BitVec.ofNat 64 w)
    | _, none => placeCore s1 (BitVec.ofNat 64 w) 0
  else placeCore s1 (BitVec.ofNat 64 w) (BitVec.ofNat 64 (w / 2 ^ 64))

end Sys2Proof.Machine
end

