-- ==== Sys2Proof/Safety.lean ====
section
/-! DEFINITION. The terms in which claims are stated: what it is to complete, what of the machine stays as it was, what a safe run keeps. -/
namespace Sys2Proof.Machine

/-! ## Completing -/

/-- The instruction completes at a state: exec answers a next state, and `q` holds of it. -/
def Completes (i : Instr) (s : State) (q : State → Prop) : Prop := ∃ t, exec i s = .next t ∧ q t

/-- The instruction waits at a state: nothing changes. -/
def Waits (i : Instr) (s : State) : Prop := exec i s = .next s

/-! ## What stays as it was -/

/-- A byte of DRAM as a read gives it. -/
def memByte (s : State) (a : Nat) : Byte := aget memDefault s.mem a

/-- Every byte of memory outside some bytes reads as before, and so does every full-empty bit and every poison mark outside some
granules; far memory is untouched. -/
def SameMemBut (s t : State) (bytes grans : Nat → Prop) : Prop :=
  (∀ a, ¬ bytes a → memByte t a = memByte s a) ∧
  (∀ a, ¬ grans (a / 64) → isFull t a = isFull s a ∧ isPoison t a = isPoison s a) ∧ t.far = s.far ∧ t.farFull = s.farFull

/-- All of memory reads as before. -/
def SameMem (s t : State) : Prop := SameMemBut s t (fun _ => False) (fun _ => False)

/-- A cluster without the records it still has to write, its event counters and its counts, which the tiles in it change. -/
def coreView (x : Cluster) : Cluster := { x with pend := [], ctrs := [], counts := [] }

/-- Every cluster outside some is as before, registers, special registers, exception registers, barriers and buffers, but for records
and counters. -/
def SameCoresBut (s t : State) (p : ClusterId → Prop) : Prop := ∀ c, ¬ p c → coreView (getCl t c) = coreView (getCl s c)
def SameCores (s t : State) : Prop := SameCoresBut s t fun _ => False

/-- A cluster without its general registers, its pc, its records and its counters: what a register instruction leaves. -/
def specialView (x : Cluster) : Cluster := { coreView x with regs := [], pc := 0 }

/-- Every general register of a cluster but one reads as before. -/
def SameRegsBut (s t : State) (c : ClusterId) (rd : Fin 32) : Prop :=
  ∀ r, r ≠ rd → getX (getCl t c) r = getX (getCl s c) r

/-- Every tile outside some is as before. -/
def SameTilesBut (s t : State) (p : TileId → Prop) : Prop := ∀ u, ¬ p u → getTile t u = getTile s u
def SameTiles (s t : State) : Prop := t.tiles = s.tiles

/-- Every launch but one is as before. -/
def SameLaunchesBut (s t : State) (l : LaunchId) : Prop := ∀ k, k ≠ l → findLaunch t k = findLaunch s k

/-- The package's own registers, its clock and what has left it are as before. -/
def SamePackage (s t : State) : Prop :=
  t.clock = s.clock ∧ t.ljbase = s.ljbase ∧ t.ljnext = s.ljnext ∧ t.journal = s.journal ∧ t.serrCorr = s.serrCorr ∧
  t.serrUnc = s.serrUnc ∧ t.powered = s.powered ∧ t.flash = s.flash ∧ t.out = s.out ∧ t.edges = s.edges

/-- What a tile's step leaves: memory, the cores, the dies, every other tile, the package. -/
def TileFrame (s t : State) (u : TileId) : Prop :=
  SameMem s t ∧ SameCores s t ∧ t.dies = s.dies ∧ SameTilesBut s t (· = u) ∧ SamePackage s t

/-- What a register instruction of a core leaves: memory, every tile, launch, slice and die, every other cluster, its own special state and
every register but one. -/
def CoreFrame (s t : State) (c : ClusterId) (rd : Fin 32) : Prop :=
  SameMem s t ∧ t.tiles = s.tiles ∧ t.launches = s.launches ∧ t.slices = s.slices ∧ t.dies = s.dies ∧ SameCoresBut s t (· = c) ∧
  specialView (getCl t c) = specialView (getCl s c) ∧ SameRegsBut s t c rd ∧ SamePackage s t

/-! ## Firings -/

/-- The latch of a slot. -/
def latchOf (s : State) (sl : SlotId) : VTok := (getSlot (getTile s sl.tile) sl.slot.val).latch
/-- The firings in a slot's pipeline. -/
def pipeOf (s : State) (sl : SlotId) : List Firing := (getSlot (getTile s sl.tile) sl.slot.val).pipe
/-- What a slot keeps besides its latch. -/
def slotNode (s : State) (sl : SlotId) : NodeSt := (getSlot (getTile s sl.tile) sl.slot.val).node

/-- The slot has made its tile's issue of the cycle, and its readiness has ended (R13). -/
def Issued (s t : State) (sl : SlotId) : Prop :=
  (getTile t sl.tile).issued = some s.clock ∧ (getSlot (getTile t sl.tile) sl.slot.val).since = none ∧
  (getSlot (getTile t sl.tile) sl.slot.val).fired = true

/-- It is a slot's turn with an instruction that it can fire. -/
def AtTurn (s : State) (sl : SlotId) (i : Instr) : Prop := s.here = .slot sl ∧ canFire s sl i = true

/-- The nodes whose result is calculated from the operands alone (R92 to R133, R165, R166, R221). -/
def calculates (op : NodeOp) : Bool :=
  match op with
  | .win | .join | .agg | .bx | .bxc | .tspawn | .tjoin | .thalt | .dsel | .seq | .btok | .barn | .evpost | .mxn | .mseq | .radv => false
  | _ => true

/-- A node that calculates element by element, on the types of which `p` holds: fired with a legal type, it leaves in its latch a DATA token
of FMT `res`, valid by VM, in whose valid elements stands `f` of the word, the type, and the elements of A, B and C, and zero in the others; and that
token goes to the ports of OUT. -/
def NodeGivesBy (op : NodeOp) (p : Ty → Prop) (res : Ty → BitVec 4) (f : NWord → Ty → Nat → Nat → Nat → Nat) : Prop :=
  ∀ (w : NWord) (sl : SlotId) (s : State), AtTurn s sl (nodeInstr op w) →
    let x := fireOf s sl (.node op w)
    let n := tyWidth x.ty
    x.pktOk = true → p x.ty →
    Completes (nodeInstr op w) s fun t =>
      let r := latchOf t sl
      Issued s t sl ∧ r.kind = kData ∧ r.fmt = res x.ty ∧ r.thr = x.thr ∧ r.valid = vmValid w.vm x.ty x.k7 x.a x.b x.c ∧
      (∀ i, i < 512 / n → elem n r.pay i =
        if elemValid n r.valid i then f w x.ty (elem n x.a.pay i) (elem n x.b.pay i) (elem n x.c.pay i) else 0) ∧
      (w.out ≠ 0 → w.so = false → ∃ k, pipeOf t sl = pipeOf s sl ++ [{ results (emsOf w.out r) with arith := k }]) ∧ TileFrame s t sl.tile

/-- The same for all of the instruction's types, with a result of the type itself, by width and sign. -/
def NodeGives (op : NodeOp) (f : Nat → Bool → Nat → Nat → Nat → Nat) : Prop :=
  NodeGivesBy op (fun _ => True) tyCode fun _ ty a b c => f (tyWidth ty) (tySigned ty) a b c

/-- Lanes of an element of the lane family: one, or two for a pair. -/
def unitLanes (ty : Ty) : Nat := if ty = .i64x8 then 2 else 1

/-- A node that moves lanes: lane `l` of its result is the lane of A that `src` names, valid where that lane's element is (and the flag that comes with it is set), or
zero and invalid where it names none. `u` is the number of lanes that move and are valid together. -/
def LanesFrom (op : NodeOp) (u : Ty → Nat) (src : NWord → Ty → VTok → Nat → Option (Nat × Bool)) : Prop :=
  ∀ (w : NWord) (sl : SlotId) (s : State), AtTurn s sl (nodeInstr op w) →
    let x := fireOf s sl (.node op w)
    x.pktOk = true →
    Completes (nodeInstr op w) s fun t =>
      let r := latchOf t sl
      let va (j : Nat) : Bool := if u x.ty = 2 then x.a.valid.getLsbD (j / 2 * 2) && x.a.valid.getLsbD (j / 2 * 2 + 1) else x.a.valid.getLsbD j
      Issued s t sl ∧ r.kind = kData ∧ r.fmt = tyCode x.ty ∧ r.thr = x.thr ∧
      (∀ l, l < 16 → match src w x.ty x.b l with
        | some (j, ok) => r.valid.getLsbD l = (va j && ok) ∧ lane r.pay l = if va j && ok then lane x.a.pay j else 0
        | none => r.valid.getLsbD l = false ∧ lane r.pay l = 0) ∧
      TileFrame s t sl.tile

/-- The target of BX, BXC and TSPAWN (R192): an offset of the block's address, long from two constants or short in units of 64 bytes. -/
def blockTarget (s : State) (sl : SlotId) (w : NWord) (pc : Word) : Word :=
  let x := getTile s sl.tile
  let p := (x.active.getD 0).val
  let k := (w.aux.extractLsb' 1 3).toNat
  if w.aux.getLsbD 0 then pc + (constK x p (2 * k + 1) ++ constK x p (2 * k)) else pc + w.imm.signExtend 64 * 64

/-- It is the turn of a node access that performs by itself: its port's conditions hold (R288), it does not wait for a page request, and no LDF is parked. -/
def Performs (s : State) (t : TileId) (a : Access) : Prop :=
  s.here = .access t a.id ∧ findAccess (getTile s t) a.id = some a ∧ a.op ≠ .mcast ∧ a.op ≠ .bkgive ∧ a.parked = none ∧
  inWindow s t a = false ∧ portReady s t (getTile s t) a = true ∧ answerOf s t.die a.fault = .again ∧ parkedAll s = []

/-- What a load leaves once its access has performed (R246): in its slot's latch a DATA token of FMT TY, key 0, weight 1.0 and A's THR, its lanes valid as
said and their bytes those of the granule; and in the pipeline, where its firing waited, that result and then its completion token. -/
def LoadGives (s u : State) (t : TileId) (a : Access) (valid : BitVec 16) (byte : Nat → Byte) : Prop :=
  loadsOp a.op = true →
    let r := latchOf u ⟨t, a.slot⟩
    r.kind = kData ∧ r.fmt = tyCode a.w.ty ∧ r.key = 0 ∧ r.wt = wOne ∧ r.thr = a.thr ∧ r.valid = valid ∧
    (∀ b, b < 64 → r.valid.getLsbD (b / 4) = true → BitVec.ofNat 8 (elem 8 r.pay b) = byte b) ∧
    (∀ f ∈ pipeOf s ⟨t, a.slot⟩, f.id = a.id → f.ready = false →
      { f with ready := true, ems := emsOf a.w.out r ++ complEms a.w a.ea a.thr } ∈ pipeOf u ⟨t, a.slot⟩)

/-- Bytes of a table after a store to the granule that begins at a key: those of the payload's lanes that are written, the others as before. -/
def GranuleStored (old new : Assoc Byte) (key : Nat) (written : BitVec 16) (p : Payload) : Prop :=
  ∀ k, aget memDefault new k =
    if key ≤ k ∧ k < key + 64 ∧ written.getLsbD ((k - key) / 4) = true then BitVec.ofNat 8 (elem 8 p (k - key)) else aget memDefault old k

/-! ## Control cores -/

/-- A running core whose word has been fetched without a trap and whose registers do not wait for loads (R265, R268). -/
def CoreTurn (s : State) (c : ClusterId) (w : CWord) : Prop :=
  s.here = .core c ∧ (getCl s c).run = .running ∧ fetchTrap (getCl s c) w.long = none ∧ coreBusy (getCl s c) w = false

/-- Memory, tiles, launches, slices, dies, the other clusters and the package are as before. -/
def OnlyCore (s t : State) (c : ClusterId) : Prop :=
  SameMem s t ∧ t.tiles = s.tiles ∧ t.launches = s.launches ∧ t.slices = s.slices ∧ t.dies = s.dies ∧ SameCoresBut s t (· = c) ∧ SamePackage s t

/-- R269: a core has taken a trap: to its tenant handler, to its system handler, or it has stopped with a CORESTOP record. -/
def TookTrap (s t : State) (c : ClusterId) (code : Nat) (tval : Word) (async : Bool) (epc : Word) : Prop :=
  let x := getCl s c
  let cause : Word := if async then word (2 ^ 63 + code) else word code
  OnlyCore s t c ∧
  if x.mode = false ∧ x.tdeleg.getLsbD code = true ∧ x.thu = false ∧ x.tvecu ≠ 0 then
    getCl t c = { x with epcu := epc, causeu := cause, tvalu := tval, paie := x.aie, aie := false, thu := true, pc := x.tvecu, run := .running }
  else if x.ths then
    getCl t c = { x with run := .stopped, corestop := true, pend := x.pend ++ [{ kind := 0x19, ctx := x.ctx, p0 := word code, p1 := epc }] }
  else
    getCl t c = { x with estats := statusWord x, epcs := epc, causes := cause, tvals := tval, mode := true, ths := true, aie := false,
                         pc := x.tvecs, run := .running }

/-- An instruction of a core writes its result to X[XD] (X0 stays 0), goes on to the next word, and leaves everything else. -/
def CoreGives (op : CoreOp) (f : CWord → Word → Word → Word → Word) : Prop :=
  ∀ (w : CWord) (c : ClusterId) (s : State), CoreTurn s c w →
    let x := getCl s c
    Completes (coreInstr op w) s fun t =>
      getX (getCl t c) w.xd = (if w.xd = 0 then 0 else f w (getX x w.xa) (getX x w.xb + w.imm) (getX x w.xd)) ∧
      (getCl t c).pc = x.pc + (if w.long then 16 else 8) ∧ CoreFrame s t c w.xd

/-! ## Launches (R25 to R28, R171, R183, R198, R199, R307, R308, R324, R331) -/

/-- A launch of a record that nothing refuses. -/
def LaunchFits (s : State) (a : Ask) (r : LaunchRec) : Prop :=
  let d := a.near.die
  parseRecord a.ws = some r ∧ placeOk a.place = true ∧ a.ports.length ≤ 16 ∧ portBits a.ports ≤ 8192 ∧ (∀ e ∈ a.descs, descOk e.1 e.2 = true) ∧
  (a.sys = true ∨ r.ctx = a.ctx) ∧ (getDie s d).ctxbase.getLsbD 63 = true ∧ ctxState s d r.ctx < 2 ∧
  (∃ q, launchPart s d r.ctx = some q ∧ placeInside q a.place (r.rows + 1) (r.cols + 1) = true) ∧ (∃ m, bindModule (getDie s d) r = .ok m) ∧
  groupOk s r = true ∧ ((launchesOf s d).filter fun (_, y) => y.st = .waiting).length < 64

/-- The handle that the next launch of a die takes. -/
def nextLaunch (s : State) (d : Fin 4) : LaunchId := ⟨d, (getDie s d).nextHandle⟩

/-- A launch has been accepted: it waits for its region, every thread of it in the entry queue of ENTRY with the record's words; no other launch has
changed. -/
def LaunchMade (s t : State) (a : Ask) (r : LaunchRec) : Prop :=
  SameLaunchesBut s t (nextLaunch s a.near.die) ∧
  ∃ y, findLaunch t (nextLaunch s a.near.die) = some y ∧ y.lr = r ∧ y.st = .waiting ∧ y.issuer = a.issuer ∧ y.place = a.place ∧ y.portSet = a.ports ∧
    y.table = [{ pc := r.entry, thrs := (List.range r.threads).map (BitVec.ofNat 8), age := 0 }] ∧
    ∀ k, k < r.threads → ∃ th, afind y.threads k = some th ∧ th.pc = r.entry ∧ th.t = r.liv ∧ th.st = .waiting

/-! ## Commands of Lodge (R421 to R425) -/

/-- A command that Lodge executes now: its length in range, the journal on, no entry of its tag and source, its header good. -/
def LodgeTurn (s : State) (c : LodgeCmd) : Prop :=
  s.here = .command c ∧ 64 ≤ c.bytes.length ∧ c.bytes.length ≤ 1024 ∧ s.ljbase.getLsbD 63 = true ∧ lodgeSeen s c = none ∧ headerOk c = true

/-- The place of the next entry of the journal. -/
def journalPlace (s : State) : Nat := s.ljbase.toNat / 2 ^ 16 % 2 ^ 23 * 65536 + 64 * (s.ljnext % 2 ^ (s.ljbase.toNat % 32))

/-- The command has been answered with a new entry of the journal, of a status and a result. -/
def LodgeAnswered (s t : State) (c : LodgeCmd) (st : Nat) (result : Word) : Prop :=
  let e := lodgeEntry s c st result
  t.out = s.out ++ [.reply c.src e] ∧ t.ljnext = s.ljnext + 1 ∧ t.journal = (e :: s.journal).take (2 ^ 20) ∧ memRead t (journalPlace s) 64 = e ∧
  t.tiles = s.tiles

/-- Besides that nothing has changed. -/
def LodgeStill (s t : State) : Prop :=
  t.clusters = s.clusters ∧ t.launches = s.launches ∧
  SameMemBut s t (fun a => journalPlace s ≤ a ∧ a < journalPlace s + 64) (fun g => g = journalPlace s / 64)

/-! ## Words with every field zero, from which a statement builds its words -/

def nullN : NWord :=
  { ty := .i32, sa := .zero, sb := .zero, sc := .zero, out := 0, rm := .rne, ov := .sat, vm := .conj, aux := 0, wp := false, gp := false,
    so := false, imm := 0 }
def nullM : MWord :=
  { ty := .i32, sa := .zero, sb := .zero, sc := .zero, out := 0, cls := .stream, space := .global, aop := 0, cpl := false, cplPort := 0,
    scope := .tile, fe := false, imm := 0 }
def nullX : XWord :=
  { half := .whole, tyab := 0, tyc := 0, ringa := 0, ringb := 0, m1 := 0, n1 := 0, k1 := 0, acc := false, ctile := 0, ofmt := 0,
    popa := false, popb := false }
def nullC : CWord := { long := false, ty := 0, xd := 0, xa := 0, xb := 0, aux := 0, imm := 0 }

/-- The configuration commands but the reserved ones (R46, R47). -/
def isStreamCommand (i : Instr) : Bool :=
  match i with
  | .beginStream _ | .plane _ | .page _ | .origin _ _ | .copies _ | .pc _ _ | .check _ | .endStream | .tileCommand _ _ _ _ => true
  | _ => false

/-! ## What a safe run keeps -/

/-- A table's keys rise strictly and no entry holds the default. -/
def Canonical (s : State) : Prop :=
  Memory.wf s.mem = true ∧ awf true 0 s.full = true ∧ awf false 0 s.poison = true

/-- A run never stops: the machine has a next state. -/
def GoesOn (s : State) : Prop := ∃ t, step s = .next t

end Sys2Proof.Machine
end

