-- ==== Sys2Proof/Certificates/Slice0/Obligations.lean ====
section
/-! DEFINITION. The statements about this model. Each says which rules of spec/ it formalises. -/
open Sys2Proof Sys2Proof.Machine

/-! ## A step, decoding, reset, the whole machine -/

/-- A step at a place runs the instruction that the place's word decodes to, with State.here at the place, which is left afterwards. The
agenda, which says whose turn it is, is the model's own (log 10). -/
def Obligations.StepRunsDecoded : Prop :=
  ∀ (s : State) (p : Place) (rest : List Act) (i : Instr), s.agenda = .word p :: rest → s.powered = true →
    fetchAt (dropAct s) p = some i → step s = leave (exec i (atPlace (dropAct s) p))

/-- R45, R263, R264, R268: a core fetches eight bytes of local memory at its pc, and the eight after them for a word that takes an extension;
at or above 0x4_0000 it executes FETCH. -/
def Obligations.CoreFetchesAtPc : Prop :=
  ∀ (s : State) (c : ClusterId),
    let x := getCl s c
    (x.pc.toNat + 16 ≤ 0x40000 →
      let w := word (ofBytes (readBytes x.loc x.pc.toNat 8))
      let e := word (ofBytes (readBytes x.loc (x.pc.toNat + 8) 8))
      fetchAt s (.core c) = some (if wantsExtension w then decodeCore w e else decodeCore w 0)) ∧
    (0x40000 ≤ x.pc.toNat → fetchAt s (.core c) = some (.fetch x.pc))

/-- Words that the spec works out (spec/01, spec/03, R95, R116, R123, R159, R191, R217) decode to the instructions they stand for. -/
def Obligations.DecodeSamples : Prop :=
  decodeSlot 0x2030031100000000 = .ok (some (.fadd { nullN with ty := .f32, sa := .queue 0, sb := .queue 1, out := 1 })) ∧
  decodeSlot 0x0520101100100000 = .ok (some (.dot4 { nullN with ty := .i8x4, sa := .queue 0, sb := .const 0, sc := .queue 1, out := 1, aux := 1 })) ∧
  decodeSlot 0x2048031130000000 = .ok (some (.fadd { nullN with ty := .e4m3x4, sa := .queue 0, sb := .queue 1, out := 1, ov := .trap })) ∧
  decodeSlot 0x40B0231100120019 =
    .ok (some (.cvtdn { nullN with ty := .f32, sa := .queue 0, out := 1, aux := 1, so := true, imm := 0x0019 })) ∧
  decodeSlot 0x8131C11040600000 =
    .ok (some (.st { nullM with ty := .f32, sa := .queue 7, sb := .queue 0, cls := .random, cpl := true, cplPort := 2 })) ∧
  decodeSlot 0x70D9A3100000FFFE = .ok (some (.bxc { nullN with ty := .b32, sa := .queue 6, imm := 0xFFFE })) ∧
  decodeSlot 0xA059A31400000000 = .ok (some (.mxn { nullN with ty := .b32, sa := .queue 6, out := 4 })) ∧
  decodeSlot 0xA0DA126400000000 = .ok (some (.mseq { nullN with ty := .b32, sa := .const 0, sb := .const 1, sc := .queue 6, out := 4 })) ∧
  decodeCore 0x02806400FFFFFFFF 0 = .addsCore { nullC with xd := 3, xa := 4, imm := 0xFFFFFFFFFFFFFFFF } ∧
  decodeCore 0x0141600000000040 0xFF80000000000001 = .ldiCore { nullC with long := true, xd := 11, imm := 0x100000040 } ∧
  decodeRouter 0x16214000 = .ok (some (.steer (.link .w) .o3 (.link .e) (.link .s))) ∧
  decodeStream 0xFFC10000 = .plane 0 ∧ decodeStream 0xFFFE31C6 = .check 0x31C6 ∧ decodeStream 0x00020311 = .tileCommand 0 0 2 0x0311

/-- Decode and encode agree on every well-formed word of a PE slot (R34 to R40): the encoder gives one 64-bit word, and a slot that holds it
holds the instruction, with every field at the value it had. -/
def Obligations.DecodeEncodeSlot : Prop :=
  (∀ (op : NodeOp) (w : NWord), nodeCheck op w = none →
    encode (nodeInstr op w) = .word (wordN op w) ∧ decodeSlot (wordN op w) = .ok (some (nodeInstr op w))) ∧
  (∀ (op : MemOp) (w : MWord), memCheck op w = none →
    encode (memInstr op w) = .word (wordM op w) ∧ decodeSlot (wordM op w) = .ok (some (memInstr op w)))

/-- Decode and encode agree on every well-formed core instruction, alone whatever follows it or with its format E word (R44, R45), control token
of the matrix array (R41), router word (R43) and configuration command (R46, R47). -/
def Obligations.DecodeEncodeRest : Prop :=
  (∀ (op : CoreOp) (w : CWord), coreOk op w = true →
    (w.long = false → encode (coreInstr op w) = .word (wordC op w) ∧ ∀ e, decodeCore (wordC op w) e = coreInstr op w) ∧
    (w.long = true → encode (coreInstr op w) = .pair (wordC op w) (wordE w) ∧ wantsExtension (wordC op w) = true ∧
      decodeCore (wordC op w) (wordE w) = coreInstr op w)) ∧
  (∀ (op : MatOp) (w : XWord), matrixOk op w = true →
    encode (matInstr op w) = .word (wordX op w) ∧ decodeMatrix (wordX op w) = some (matInstr op w)) ∧
  (∀ i, isStreamCommand i = true → wf i = true → ∃ w, encode i = .half w ∧ decodeStream w = i) ∧
  (∀ a b c t f, decodeRouter (wordG 1 (rinCode a) 0 c (routCode t) (routCode f)) = .ok (some (.steer a c t f)) ∧
    decodeRouter (wordG 2 (rinCode a) (rinCode b) c (routCode t) 0) = .ok (some (.carry a b c t)) ∧
    decodeRouter (wordG 3 (rinCode a) 0 c (routCode t) 0) = .ok (some (.inv a c t)) ∧
    decodeRouter (wordG 4 (rinCode a) (rinCode b) c (routCode t) 0) = .ok (some (.merge a b c t)))

/-- The machine never stops of itself: from every state, reachable or not, step answers a next state (spec/95: each step is whole; the spec
gives no instruction without an effect). -/
def Obligations.StepAlwaysAnswers : Prop := ∀ s : State, GoesOn s

/-- Every step keeps memory, full-empty bits and poison marks in their one canonical form. -/
def Obligations.StepKeepsCanonical : Prop := ∀ s t : State, Canonical s → step s = .next t → Canonical t

/-- Reset leaves memory canonical; and of every core (R203, R264, R266, R267, R305): it is stopped, in system mode with every other bit of
STATUS 0, LMLIM at 0x4_0000, CAUSEU and CAUSES at 0 and no record held or lost, every range entry 0, every granule of WBUF, ABUF and CBUF empty
and every byte of them zero. -/
def Obligations.ResetLeaves : Prop :=
  let s := State.reset
  Canonical s ∧
  ∀ c : ClusterId,
    let x := getCl s c
    x.run = .stopped ∧ regRead s c 0x001 = 1 ∧ regRead s c 0x00D = 0x40000 ∧ regRead s c 0x006 = 0 ∧ regRead s c 0x00A = 0 ∧
    regRead s c 0x011 = 0 ∧ (∀ n, 0x100 ≤ n → n ≤ 0x1FF → regRead s c n = 0) ∧ (∀ space g, bufIsFull x space g = false) ∧
    ∀ space off n, bufRead x space off n = List.replicate n 0
/-! ## Calculating nodes: the integer, lane, floating-point, conversion and record families in slots -/

/-- R13, R14, R86: every instruction of a PE slot whose turn it is issues: it uses the tile's issue of the cycle, its readiness ends, and of
memory, dies, other tiles and the package nothing changes; nor does a core, but for the cluster of a BARN, MXN or RADV. -/
def Obligations.EverySlotIssues : Prop :=
  (∀ (op : NodeOp) (w : NWord) (sl : SlotId) (s : State), AtTurn s sl (nodeInstr op w) →
    Completes (nodeInstr op w) s fun t => Issued s t sl ∧ SameMem s t ∧ t.dies = s.dies ∧ SameTilesBut s t (· = sl.tile) ∧
      SameCoresBut s t (· = clusterOf s sl.tile) ∧ SamePackage s t) ∧
  (∀ (op : MemOp) (w : MWord) (sl : SlotId) (s : State), AtTurn s sl (memInstr op w) →
    Completes (memInstr op w) s fun t => Issued s t sl ∧ TileFrame s t sl.tile)

/-- R13, R14, R88, R89: a calculating node fires: its result stands in its latch and goes to its ports, with the THR of the first named queue
in the order A, B, C (0 where it names none); without FL.WP it carries key 0 and weight 1.0, but for HDRS, WSET, WMUL and CMPR, which set
fields themselves; an invalid lane of the result holds zero. A PKT firing without a legal type gives a token with no valid lane (R38). -/
def Obligations.CalculatingNodesFire : Prop :=
  ∀ (op : NodeOp) (w : NWord) (sl : SlotId) (s : State), calculates op = true → AtTurn s sl (nodeInstr op w) →
    Completes (nodeInstr op w) s fun t =>
      let x := fireOf s sl (.node op w)
      let r := latchOf t sl
      Issued s t sl ∧ r.thr = x.thr ∧
      (w.wp = false → ¬ [NodeOp.hdrs, .wset, .wmul, .cmpr].contains op → r.key = 0 ∧ r.wt = wOne ∧ r.kind = kData) ∧
      (op ≠ .cmpr → ∀ l, l < 16 → r.valid.getLsbD l = false → lane r.pay l = 0) ∧
      (x.pktOk = false → r.valid = 0) ∧
      (w.out ≠ 0 → w.so = false → ∃ k, pipeOf t sl = pipeOf s sl ++ [{ results (emsOf w.out r) with arith := k }]) ∧ TileFrame s t sl.tile

/-- R96: ADD, SUB, MUL, MULH, MAD, ADDS, SUBS, MIN, MAX, ABS and NEG in a slot. -/
def Obligations.NodeArithmetic : Prop :=
  NodeGives .add (fun w _ a b _ => (a + b) % 2 ^ w) ∧
  NodeGives .sub (fun w _ a b _ => (a + 2 ^ w - b) % 2 ^ w) ∧
  NodeGives .mul (fun w _ a b _ => a * b % 2 ^ w) ∧
  NodeGives .mad (fun w _ a b c => (a * b + c) % 2 ^ w) ∧
  NodeGives .mulh (fun w sg a b _ => if sg then ((sint w a * sint w b) / 2 ^ w % 2 ^ w).toNat else a * b / 2 ^ w) ∧
  NodeGives .adds (fun w sg a b _ =>
    if sg then (Max.max (-2 ^ (w - 1)) (Min.min (2 ^ (w - 1) - 1) (sint w a + sint w b)) % 2 ^ w).toNat else Min.min (a + b) (2 ^ w - 1)) ∧
  NodeGives .subs (fun w sg a b _ =>
    if sg then (Max.max (-2 ^ (w - 1)) (Min.min (2 ^ (w - 1) - 1) (sint w a - sint w b)) % 2 ^ w).toNat else a - b) ∧
  NodeGives .min (fun w sg a b _ => if sg then (if sint w a < sint w b then a else b) else Min.min a b) ∧
  NodeGives .max (fun w sg a b _ => if sg then (if sint w a > sint w b then a else b) else Max.max a b) ∧
  NodeGives .abs (fun w _ a _ _ => if a < 2 ^ (w - 1) then a else (2 ^ w - a) % 2 ^ w) ∧
  NodeGives .neg (fun w _ a _ _ => (2 ^ w - a) % 2 ^ w)

/-- R98, R99, R102: AND, OR, XOR, ANDN, NOT, SHL, SHR, SAR, ROL, CLZ, CTZ, POPC, BREV and SEL in a slot, element by element, and on the core, on 64 bits (SEL
chooses by C, on the core by X[XD]); and MOV (R103). -/
def Obligations.BitsAndCounts : Prop :=
  NodeGives .and (fun _ _ a b _ => a &&& b) ∧ NodeGives .or (fun _ _ a b _ => a ||| b) ∧ NodeGives .xor (fun _ _ a b _ => a ^^^ b) ∧
  NodeGives .andn (fun w _ a b _ => a &&& (2 ^ w - 1 - b)) ∧ NodeGives .not (fun w _ a _ _ => 2 ^ w - 1 - a) ∧
  NodeGives .shl (fun w _ a b _ => if b < w then a * 2 ^ b % 2 ^ w else 0) ∧
  NodeGives .shr (fun w _ a b _ => if b < w then a / 2 ^ b else 0) ∧
  NodeGives .sar (fun w _ a b _ => if b < w then (sint w a / 2 ^ b % 2 ^ w).toNat else if 2 ^ (w - 1) ≤ a then 2 ^ w - 1 else 0) ∧
  NodeGives .rol (fun w _ a b _ => a * 2 ^ (b % w) % 2 ^ w + a / 2 ^ (w - b % w)) ∧
  NodeGives .clz (fun w _ a _ _ => if a = 0 then w else w - 1 - Nat.log2 a) ∧
  NodeGives .popc (fun w _ a _ _ => ((List.range w).filter a.testBit).length) ∧
  NodeGives .ctz (fun w _ a _ _ => ((List.range w).takeWhile fun j => !a.testBit j).length) ∧
  NodeGives .brev (fun w _ a _ _ => ((List.range w).map fun j => if a.testBit j then 2 ^ (w - 1 - j) else 0).sum) ∧
  NodeGives .sel (fun _ _ a b c => if c ≠ 0 then a else b) ∧ NodeGives .mov (fun _ _ a _ _ => a) ∧
  CoreGives .and (fun _ a b _ => a &&& b) ∧ CoreGives .or (fun _ a b _ => a ||| b) ∧ CoreGives .xor (fun _ a b _ => a ^^^ b) ∧
  CoreGives .andn (fun _ a b _ => a &&& ~~~b) ∧ CoreGives .not (fun _ a _ _ => ~~~a) ∧
  CoreGives .shl (fun _ a b _ => if b.toNat < 64 then a <<< b.toNat else 0) ∧
  CoreGives .shr (fun _ a b _ => if b.toNat < 64 then a >>> b.toNat else 0) ∧
  CoreGives .sar (fun _ a b _ => a.sshiftRight (Min.min b.toNat 64)) ∧ CoreGives .rol (fun _ a b _ => a.rotateLeft (b.toNat % 64)) ∧
  CoreGives .clz (fun _ a _ _ => word (if a = 0 then 64 else 63 - Nat.log2 a.toNat)) ∧
  CoreGives .ctz (fun _ a _ _ => word ((List.range 64).takeWhile fun j => !a.getLsbD j).length) ∧
  CoreGives .popc (fun _ a _ _ => word ((List.range 64).filter a.getLsbD).length) ∧
  CoreGives .brev (fun _ a _ _ => a.reverse) ∧
  CoreGives .sel (fun _ a b d => if d ≠ 0 then a else b) ∧ CoreGives .mov (fun _ a _ _ => a)
/-! ## Floating point and lanes in slots -/

/-- R117: the arithmetic of the floating-point family: the exact value of one sub-element, passed once through round_to under the word's RM and
OV. A fused product is not rounded before it is added. -/
def Obligations.FloatArithmetic : Prop :=
  let v (ty : Ty) (a : Nat) : FVal := fval (fmtOf ty) a
  let rnd (w : NWord) (ty : Ty) (e : FVal) : Nat := (roundTo (fmtOf ty) e w.rm w.ov).bits
  let gives (op : NodeOp) (f : Rm → FVal → FVal → FVal → FVal) : Prop :=
    NodeGivesBy op (fun _ => True) tyCode fun w ty a b c => rnd w ty (f w.rm (v ty a) (v ty b) (v ty c)) % 2 ^ tyWidth ty
  gives .fadd (fun rm a b _ => fsumX rm [a, b]) ∧ gives .fsub (fun rm a b _ => fsumX rm [a, fneg' b]) ∧
  gives .fmul (fun _ a b _ => fmulX a b) ∧ gives .fma (fun rm a b c => fsumX rm [fmulX a b, c]) ∧
  gives .fms (fun rm a b c => fsumX rm [fmulX a b, fneg' c]) ∧ gives .fnma (fun rm a b c => fsumX rm [fneg' (fmulX a b), c])

/-- R118: FABS, FNEG and FCPS change the sign bit alone, or give canonical NaN. FCMP's conditions on F32 and FCLS's classes of F32, on encodings (R119, R120). -/
def Obligations.FloatSignsComparesAndClasses : Prop :=
  let top (ty : Ty) : Nat := 2 ^ (tyWidth ty - 1)
  let nan (ty : Ty) (a : Nat) : Bool := isNan (fmtOf ty) a
  NodeGivesBy .fabs (fun ty => tyFloat ty = true) tyCode (fun _ ty a _ _ => if nan ty a then (fmtOf ty).nan else a % top ty) ∧
  NodeGivesBy .fneg (fun ty => tyFloat ty = true) tyCode (fun _ ty a _ _ => if nan ty a then (fmtOf ty).nan else a ^^^ top ty) ∧
  NodeGivesBy .fcps (fun ty => tyFloat ty = true) tyCode
    (fun _ ty a b _ => if nan ty a then (fmtOf ty).nan else a % top ty + b / top ty * top ty) ∧
  (
  let nan (a : Nat) : Bool := decide (0x7F800000 < a % 2 ^ 31)
  -- the order of two F32 encodings that are no NaN, the zeros equal
  let key (a : Nat) : Int := if a < 2 ^ 31 then (a : Int) else -((a % 2 ^ 31 : Nat) : Int)
  NodeGivesBy .fcmp (fun ty => ty = .f32) (fun _ => 11) (fun w _ a b _ =>
    let n := nan a || nan b
    let holds : Bool := match (w.aux.extractLsb' 0 3).toNat with
      | 0 => !n && key a = key b | 1 => n || key a ≠ key b | 2 => !n && key a < key b | 3 => !n && key a ≤ key b
      | 4 => n || key a < key b | 5 => n || key a ≤ key b | 6 => !n && key b < key a | _ => !n && key b ≤ key a
    if holds then 0xFFFFFFFF else 0) ∧
  NodeGivesBy .fcls (fun ty => ty = .f32) (fun _ => 1) (fun _ _ a _ _ =>
    let m := a % 2 ^ 31
    if nan a then 8
    else
      let k := if m = 0x7F800000 then 3 else if 0x800000 ≤ m then 2 else if 0 < m then 1 else 0
      if 2 ^ 31 ≤ a then 3 - k else 4 + k))

/-- R105 to R108: SHUF by B or by its fixed patterns, BCST, VGET, LROT. -/
def Obligations.LanesMove : Prop :=
  LanesFrom .shuf (fun _ => 1) (fun w _ b l =>
    match w.aux.toNat % 8 with
    | 0 => let k := (lane b.pay l).toNat; if k.testBit 4 then none else some (k % 16, b.valid.getLsbD l)
    | 1 => some (15 - l, true)
    | 2 => some (l ^^^ 1, true) | 3 => some (l ^^^ 2, true) | 4 => some (l ^^^ 4, true) | _ => some (l ^^^ 8, true)) ∧
  LanesFrom .bcst unitLanes (fun w ty _ l =>
    let u := unitLanes ty
    some (u * (w.imm.toNat % 16 % (16 / u)) + l % u, true)) ∧
  LanesFrom .vget unitLanes (fun w ty _ l =>
    let u := unitLanes ty
    if l < u then some (u * (w.imm.toNat % 16 % (16 / u)) + l, true) else none) ∧
  LanesFrom .lrot unitLanes (fun w ty b l =>
    let u := unitLanes ty
    let n := 16 / u
    let amt := if w.sb = .zero then w.imm.toNat % 16 else if b.valid.getLsbD 0 then (lane b.pay 0).toNat % 16 else 0
    let e := l / u
    if w.aux.getLsbD 0 then (if amt % n ≤ e then some (u * (e - amt % n) + l % u, true) else none)
    else some (u * ((e + n - amt % n) % n) + l % u, true))

/-- R109, R110: RSUM of an integer type gives the sum of the valid elements modulo 2^W in element 0, with no valid lane when A has none. -/
def Obligations.IntegerSumAcross : Prop :=
  ∀ (w : NWord) (sl : SlotId) (s : State), AtTurn s sl (.rsum w) →
    let x := fireOf s sl (.node .rsum w)
    let n := tyWidth x.ty
    x.pktOk = true → tyFloat x.ty = false → w.aux = 0 →
    Completes (.rsum w) s fun t =>
      let r := latchOf t sl
      let valid := (List.range (512 / n)).filter (elemValid n x.a.valid)
      (r.valid = if valid = [] then 0 else if n = 64 then 3 else 1) ∧
      r.pay.toNat = (valid.map (elem n x.a.pay)).sum % 2 ^ n ∧ Issued s t sl ∧ TileFrame s t sl.tile
/-! ## Records, windows, blocks and threads in slots -/

/-- R165, R166: what WGET, WSET, WMUL, GAPT, KEYG, HDRG and HDRS give, from the header of A (and lane 0 of B). -/
def Obligations.HeaderNodes : Prop :=
  ∀ (w : NWord) (sl : SlotId) (s : State),
    let a (op : NodeOp) : VTok := (fireOf s sl (.node op w)).a
    let b (op : NodeOp) : VTok := (fireOf s sl (.node op w)).b
    let gives (op : NodeOp) (q : VTok → Prop) : Prop :=
      AtTurn s sl (nodeInstr op w) → Completes (nodeInstr op w) s fun t => q (latchOf t sl) ∧ Issued s t sl ∧ TileFrame s t sl.tile
    let valid (op : NodeOp) (r : VTok) : Prop :=
      let x := fireOf s sl (.node op w)
      r.valid = vmValid w.vm x.ty x.k7 x.a x.b x.c
    let copies (op : NodeOp) (r : VTok) : Prop := r.key = (a op).key ∧ r.fmt = (a op).fmt ∧ r.kind = kData ∧ r.thr = (fireOf s sl (.node op w)).thr ∧
      valid op r ∧ ∀ l, l < 16 → lane r.pay l = if r.valid.getLsbD l then lane (a op).pay l else 0
    gives .wget (fun r => r.fmt = 6 ∧ valid .wget r ∧ ∀ l, l < 16 → r.valid.getLsbD l → lane r.pay l = BitVec.ofNat 32 (wToF32 (a .wget).wt)) ∧
    gives .wset (fun r => copies .wset r ∧
      r.wt = if (b .wset).valid.getLsbD 0 then f32ToW (lane (b .wset).pay 0).toNat else wread (a .wset).wt) ∧
    gives .wmul (fun r => copies .wmul r ∧
      r.wt = if (b .wmul).valid.getLsbD 0 then wmul (a .wmul).wt (f32ToW (lane (b .wmul).pay 0).toNat) else wread (a .wmul).wt) ∧
    gives .gapt (fun r => r.valid = 0x000F ∧ r.fmt = 11 ∧ lane r.pay 2 = BitVec.ofNat 32 (wToF32 (a .gapt).wt) ∧
      (if (a .gapt).kind = kGap then lane r.pay 0 = 1 ∧ lane r.pay 1 = (a .gapt).key.setWidth 32 ∧ lane r.pay 3 = ((a .gapt).fmt.extractLsb' 0 2).setWidth 32
       else lane r.pay 0 = 0 ∧ lane r.pay 1 = 0 ∧ lane r.pay 3 = 0)) ∧
    gives .keyg (fun r => r.valid = 0xFFFF ∧ r.fmt = 1 ∧ ∀ l, l < 16 → lane r.pay l = (a .keyg).key.setWidth 32) ∧
    gives .hdrg (fun r => r.valid = 3 ∧ r.fmt = 11 ∧
      lowPair r.pay = (a .hdrg).valid ++ (a .hdrg).wt ++ (a .hdrg).key ++ (a .hdrg).kind ++ (a .hdrg).fmt ++ (a .hdrg).thr) ∧
    gives .hdrs (fun r => r.kind = kData ∧ r.wt = wread (a .hdrs).wt ∧ r.fmt = (a .hdrs).fmt ∧
      r.key = (match w.aux.toNat with | 0 => (lane (b .hdrs).pay 0).setWidth 16 | 1 => w.imm | _ => (a .hdrs).key) ∧
      (w.aux = 2 → r.valid = (lane (b .hdrs).pay 0).setWidth 16))

/-- R167 to R169: WIN passes a record on and closes its window after L of them; JOIN takes a record into the table of the side whose head came
first; AGG takes a record into its window, and gives its result and the WEND at the window's end. -/
def Obligations.WindowNodes : Prop :=
  ∀ (w : NWord) (sl : SlotId) (s : State),
    (AtTurn s sl (.win w) →
      let a := (fireOf s sl (.node .win w)).a
      let x := winOf (slotNode s sl)
      a.kind ≠ kGap → a.kind ≠ kBarrier → w.out ≠ 0 →
      Completes (.win w) s fun t => Issued s t sl ∧ TileFrame s t sl.tile ∧
        if x.pos + 1 = w.imm.toNat then
          winOf (slotNode t sl) = ⟨0, 0, 0, x.num + 1⟩ ∧
          pipeOf t sl = pipeOf s sl ++ [results (emsOf w.out a), results (emsOf w.out (wendTok x.lc x.lw a.thr))]
        else winOf (slotNode t sl) = { x with pos := x.pos + 1 } ∧ pipeOf t sl = pipeOf s sl ++ [results (emsOf w.out a)]) ∧
    (AtTurn s sl (.agg w) →
      let a := (fireOf s sl (.node .agg w)).a
      let (rows, num) := aggOf (slotNode s sl)
      w.out ≠ 0 →
      Completes (.agg w) s fun t => Issued s t sl ∧ TileFrame s t sl.tile ∧
        (if a.kind = kWend then
          slotNode t sl = .agg [] (num + 1) ∧
          pipeOf t sl = pipeOf s sl ++ [results (emsOf w.out (aggResult w rows num a).2), results (emsOf w.out a)]
        else pipeOf t sl = pipeOf s sl ∧ (a.kind ≠ kGap → rows.length < 65535 → aggOf (slotNode t sl) = (rows ++ [a], num)))) ∧
    (AtTurn s sl (.join w) →
      Completes (.join w) s fun t => Issued s t sl ∧ TileFrame s t sl.tile ∧
        (∀ (side : Bool) (q : Fin 8), joinStep (getTile s sl.tile) (getSlot (getTile s sl.tile) sl.slot.val) w = .side side →
          (if side then w.sb else w.sa) = .queue q →
          let r := seenHead (getTile s sl.tile) q.val
          let (a, b) := joinSides (slotNode s sl)
          r.kind = kData → (if side then b else a).rows.length < 32 →
          joinSides (slotNode t sl) =
            if side then (a, { b with rows := b.rows ++ [{ tok := r }] }) else ({ a with rows := a.rows ++ [{ tok := r }] }, b)) ∧
        (∀ a b m p v rest wend, slotNode s sl = .join a b ((m, p, .vec v) :: rest) wend → v.kind ≠ kWend →
          slotNode t sl = .join a b rest wend ∧ latchOf t sl = v ∧ pipeOf t sl = pipeOf s sl ++ [results [(p, .vec v)]]))

/-- R185, R192, R195: the first exit firing for a thread in flight decides its pass: BX to the target; BXC to the target or to the block that
follows, by bit 0 of its scalar; THALT and TJOIN to an end. -/
def Obligations.ExitsDecideThePass : Prop :=
  ∀ (w : NWord) (sl : SlotId) (s : State) (l : LaunchId) (x : Launch) (y : Thread),
    ownerOf s sl.tile = some l → findLaunch s l = some x →
    let decides (op : NodeOp) (e : Exit) : Prop :=
      AtTurn s sl (nodeInstr op w) → findThread x (fireOf s sl (.node op w)).thr = some y → y.st = .flight → y.exit = none →
        Completes (nodeInstr op w) s fun t => Issued s t sl ∧ TileFrame s t sl.tile ∧ SameLaunchesBut s t l ∧
          ∃ x' y', findLaunch t l = some x' ∧ findThread x' (fireOf s sl (.node op w)).thr = some y' ∧ y'.exit = some e
    decides .bx (.go (blockTarget s sl w (activePc x)) (w.aux.getLsbD 4)) ∧
    decides .bxc (.go (if (fireOf s sl (.node .bxc w)).a.pay.getLsbD 0 then blockTarget s sl w (activePc x) else fallPc x) (w.aux.getLsbD 4)) ∧
    decides .thalt .stop ∧ decides .tjoin .stop

/-- R194: TSPAWN makes a child thread under the lowest free number, with its target, its three operands and its parent's number as live values,
and the parent's join count goes up; without a free number it gives 2^64 - 1. The number goes out on O2. -/
def Obligations.SpawnMakesChild : Prop :=
  ∀ (w : NWord) (sl : SlotId) (s : State) (l : LaunchId) (x : Launch) (y : Thread),
    AtTurn s sl (.tspawn w) → ownerOf s sl.tile = some l → findLaunch s l = some x → w.out = 4 →
    let f := fireOf s sl (.node .tspawn w)
    findThread x f.thr = some y →
    match (List.range 256).find? (fun k => (afind x.threads k).isNone) with
    | some n =>
      Completes (.tspawn w) s fun t => Issued s t sl ∧ TileFrame s t sl.tile ∧
        pipeOf t sl = pipeOf s sl ++ [results [(2, .sca ⟨word n, f.thr⟩)]] ∧
        ∃ x' c p, findLaunch t l = some x' ∧ afind x'.threads n = some c ∧ c.pc = blockTarget s sl w (activePc x) ∧
          c.t = [lowPair f.a.pay, lowPair f.b.pay, lowPair f.c.pay, f.thr.setWidth 64] ∧ c.parent = some f.thr ∧ c.st = .waiting ∧
          findThread x' f.thr = some p ∧ p.joins = y.joins + 1
    | none =>
      Completes (.tspawn w) s fun t => Issued s t sl ∧ TileFrame s t sl.tile ∧
        pipeOf t sl = pipeOf s sl ++ [results [(2, .sca ⟨BitVec.allOnes 64, f.thr⟩)]]

/-- R189, R196, R197, R277: DSEL's first decision of a phase stands; SEQ's start emits iteration 0, or the control 0 alone where N is 0; SEQ goes on with
the next iteration, with the control 0 after the last, or with a done token, as its step says; BTOK emits a BARRIER token; EVPOST raises a USER record
with lanes 0 to 3 of A; BARN arrives at its barrier for the first episode, from the model's GEN of that barrier on, whose arrivals do not yet number EXPECT,
and owes an output, which RELEASE of that episode sends. -/
def Obligations.SynchronisationNodes : Prop :=
  ∀ (w : NWord) (sl : SlotId) (s : State) (l : LaunchId) (x : Launch),
    ownerOf s sl.tile = some l → findLaunch s l = some x →
    (AtTurn s sl (.dsel w) →
      let p : Fin 4 := Fin.ofNat 4 ((lane (fireOf s sl (.node .dsel w)).a.pay 0).toNat % 4)
      x.active ≠ some p → (getPlane x p.val).st ≠ .invalid → x.decided = false →
      Completes (.dsel w) s fun t => Issued s t sl ∧ TileFrame s t sl.tile ∧
        ∃ x', findLaunch t l = some x' ∧ x'.dsel = some (.plane p) ∧ x'.decided = true) ∧
    (AtTurn s sl (.seq w) → w.out = 9 →
      let f := fireOf s sl (.node .seq w)
      -- R196: iteration i, or the byte of the constants that LIST names for it
      let value (i : Nat) : Nat := if w.aux.getLsbD 2 then (kOf s f (i % 32 / 4)).toNat / 2 ^ (8 * (i % 4)) % 256 else i
      let emits (t : State) (i : Nat) (thr : BitVec 8) : Prop :=
        ∃ v : VTok, pipeOf t sl = pipeOf s sl ++ [results [(0, .vec v), (3, .ctl true)]] ∧ v.valid = 1 ∧ v.fmt = 1 ∧ v.thr = thr ∧
          lane v.pay 0 = BitVec.ofNat 32 (value i)
      let n := (lane f.c.pay 0).toNat
      ((∀ n i k thr, slotNode s sl ≠ .seq n i k thr true) →
      Completes (.seq w) s fun t => Issued s t sl ∧ TileFrame s t sl.tile ∧
        if n = 0 then pipeOf t sl = pipeOf s sl ++ [results [(3, .ctl false)]]
        else slotNode t sl = .seq n 1 0 f.thr true ∧ emits t 0 f.thr) ∧
      (∀ n i taken thr, slotNode s sl = .seq n i taken thr true →
        let step := seqStep (getTile s sl.tile) (getSlot (getTile s sl.tile) sl.slot.val) w
        (step = .emit → Completes (.seq w) s fun t => Issued s t sl ∧ TileFrame s t sl.tile ∧
          if i < n then slotNode t sl = .seq n (i + 1) taken thr true ∧ emits t i thr
          else slotNode t sl = .idle ∧ pipeOf t sl = pipeOf s sl ++ [results [(3, .ctl false)]]) ∧
        (step = .done → Completes (.seq w) s fun t => Issued s t sl ∧ TileFrame s t sl.tile ∧
          slotNode t sl = .seq n i (taken + 1) thr true ∧ pipeOf t sl = pipeOf s sl ∧ latchOf t sl = latchOf s sl))) ∧
    (AtTurn s sl (.btok w) → w.out = 1 →
      Completes (.btok w) s fun t => Issued s t sl ∧ TileFrame s t sl.tile ∧
        ∃ v : VTok, pipeOf t sl = pipeOf s sl ++ [results [(0, .vec v)]] ∧ v.kind = kBarrier ∧ v.key = w.imm ∧
          v.thr = (fireOf s sl (.node .btok w)).thr) ∧
    (AtTurn s sl (.evpost w) →
      let f := fireOf s sl (.node .evpost w)
      Completes (.evpost w) s fun t => Issued s t sl ∧ TileFrame s t sl.tile ∧
        let r : Rec :=
          { kind := 0x26, ctx := x.lr.ctx, row := sl.tile.row.val, col := sl.tile.col.val, thr := f.thr, tag := w.imm, handle := l.handle,
            p0 := f.a.pay.extractLsb' 0 64, p1 := f.a.pay.extractLsb' 64 64 }
        ∃ pre, (getCl t (homeOf s l x)).pend = pre ++ [r]) ∧
    (AtTurn s sl (.barn w) →
      let c := clusterOf s sl.tile
      let b := w.imm.toNat % 512
      let y := getBar (getCl s c) b
      let f := fireOf s sl (.node .barn w)
      barExpect y ≠ 0 → y.ctx = x.lr.ctx →
      Completes (.barn w) s fun t => Issued s t sl ∧ SameMem s t ∧ SameTilesBut s t (· = sl.tile) ∧ SameCoresBut s t (· = c) ∧ t.dies = s.dies ∧
        ∃ k, y.counts.getD k 0 < barExpect y ∧ (∀ j, j < k → barExpect y ≤ y.counts.getD j 0) ∧
          (getBar (getCl t c) b).made = y.made ++ [⟨y.gen + k, s.seq, some l, f.thr⟩] ∧ (getBar (getCl t c) b).arrived = y.arrived ∧
          (getSlot (getTile t sl.tile) sl.slot.val).barns = (getSlot (getTile s sl.tile) sl.slot.val).barns ++ [(f.thr, b, y.gen + k)]) ∧
    (∀ (c : ClusterId) (b : Fin 512) (thr : BitVec 8), s.here = .barrier c b → c.die = sl.tile.die → pclOfLcl s c = pclOf sl.tile →
      let y := getBar (getCl s c) b.val
      barExpect y ≠ 0 → y.arrived = barExpect y → barSpan y = false →
      slotInstr (getTile s sl.tile) sl.slot.val = some (.barn w) → w.out = 1 →
      (getSlot (getTile s sl.tile) sl.slot.val).barns = [(thr, b.val, y.gen)] →
      Completes .release s fun t => SameMem s t ∧ (getSlot (getTile t sl.tile) sl.slot.val).barns = [] ∧
        ∃ v : VTok, pipeOf t sl = pipeOf s sl ++ [results [(0, .vec v)]] ∧ v.kind = kBarrier ∧ v.key = BitVec.ofNat 16 b.val ∧ v.thr = thr ∧ v.valid = 0)
/-! ## Memory nodes and their accesses -/

/-- R240, R241, R245, R246, R288: LD, LDF, ST, STF, CLRE, ATOM, MCAST and PREF fire: the access enters its port queue at the tail with the
address of A plus 64 times IMM16, and B and C; with SCOPE TILE a store's completion token leaves at once (a PREF's never does, R255), otherwise what
it will send waits in the slot's pipeline. A gap marker's firing and the nodes with a stream window have statements of their own. R249: a gap marker of count c at B of an ST, STF or ATOM makes c firings: each takes a head of A, makes no access, and sends its completion
token; the marker leaves B with the last. -/
def Obligations.MemoryNodesIssue : Prop :=
  (
    ∀ (op : MemOp) (w : MWord) (sl : SlotId) (s : State), op ≠ .agen → op ≠ .cjoin → op ≠ .bkgive → AtTurn s sl (memInstr op w) →
      gapFiring (getTile s sl.tile) op w = false → (w.cls = .stream → (windowOf s sl.tile sl.slot.val).usize = 0 ∨
        op = .ld ∧ fillReady (windowOf s sl.tile sl.slot.val) (effAddr (fireOf s sl (.mem op w)).a w.imm) = false) →
      let f := fireOf s sl (.mem op w)
      Completes (memInstr op w) s fun t => Issued s t sl ∧ TileFrame s t sl.tile ∧
        ∃ a : Access, (getTile t sl.tile).port.queue = (getTile s sl.tile).port.queue ++ [a] ∧
          a.op = op ∧ a.w = w ∧ a.slot = sl.slot ∧ a.thr = f.thr ∧ a.ea = lowPair f.a.pay + w.imm.signExtend 64 * 64 ∧ a.data = f.b ∧ a.cmp = f.c ∧
          a.parked = none ∧ a.fault = .none ∧
          pipeOf t sl = pipeOf s sl ++
            (if w.scope = .tile ∧ loadsOp op = false ∧ op ≠ .pref then (if w.cpl then [results (complEms w a.ea f.thr)] else [])
             else if w.out ≠ 0 ∨ w.cpl = true then [awaiting a.id] else [])) ∧
  (
    ∀ (op : MemOp) (w : MWord) (sl : SlotId) (s : State) (qa qb : Fin 8), op = .st ∨ op = .stf ∨ op = .atom → AtTurn s sl (memInstr op w) →
      w.sa = .queue qa → w.sb = .queue qb → w.sc = .zero → qa ≠ qb →
      let x := getTile s sl.tile
      let b := seenHead x qb.val
      b.kind = kGap → 0 < b.key.toNat →
      Completes (memInstr op w) s fun t => Issued s t sl ∧ TileFrame s t sl.tile ∧
        (getTile t sl.tile).port.queue = x.port.queue ∧
        (getQ (getTile t sl.tile) qa.val).taken = (getQ x qa.val).taken + 1 ∧
        (if b.key.toNat ≤ (getSlot x sl.slot.val).gap + 1
         then (getQ (getTile t sl.tile) qb.val).taken = (getQ x qb.val).taken + 1 ∧ (getSlot (getTile t sl.tile) sl.slot.val).gap = 0
         else getQ (getTile t sl.tile) qb.val = getQ x qb.val ∧ (getSlot (getTile t sl.tile) sl.slot.val).gap = (getSlot x sl.slot.val).gap + 1) ∧
        (w.cpl = true → ∃ ems, pipeOf t sl = pipeOf s sl ++ [results ems] ∧ ems = complEms w (effAddr (fireOf s sl (.mem op w)).a w.imm)
          (fireOf s sl (.mem op w)).thr))

/-- R243: with a window, a STREAM LD takes the fill of its address and advances TAIL; a STREAM ST puts its data at HEAD. -/
def Obligations.StreamNodesUseTheirWindow : Prop :=
  ∀ (w : MWord) (sl : SlotId) (s : State),
    let win := windowOf s sl.tile sl.slot.val
    let k := sl.slot.val
    (AtTurn s sl (.ld w) → w.cls = .stream → win.usize ≠ 0 → ∀ g rest, win.held = g :: rest → g.stale = false →
      let f := fireOf s sl (.mem .ld w)
      g.store = false → g.va = effAddr f.a w.imm &&& ~~~63 →
      Completes (.ld w) s fun t => Issued s t sl ∧ TileFrame s t sl.tile ∧
        (getTile t sl.tile).port.queue = (getTile s sl.tile).port.queue ∧
        windowOf t sl.tile k = { win with held := rest, tail := win.tail + 1 } ∧
        (latchOf t sl).valid = g.valid ∧ (latchOf t sl).fmt = tyCode w.ty ∧ (latchOf t sl).thr = f.thr ∧ (latchOf t sl).key = 0 ∧
        (latchOf t sl).wt = wOne ∧ ∀ l, l < 16 → lane (latchOf t sl).pay l = if g.valid.getLsbD l then lane g.data l else 0) ∧
    (AtTurn s sl (.st w) → w.cls = .stream → win.usize ≠ 0 → gapFiring (getTile s sl.tile) .st w = false →
      let f := fireOf s sl (.mem .st w)
      Completes (.st w) s fun t => Issued s t sl ∧ TileFrame s t sl.tile ∧
        ∃ a : Access, (getTile t sl.tile).port.queue = (getTile s sl.tile).port.queue ++ [a] ∧ a.ea = effAddr f.a w.imm ∧ a.data = f.b ∧
          (windowOf t sl.tile k).head = win.head + 1 ∧ (windowOf t sl.tile k).tail = win.tail ∧
          ∃ g, (windowOf t sl.tile k).held.getLast? = some g ∧ g.va = a.ea ∧ g.data = f.b.pay ∧ g.valid = f.b.valid ∧ g.store = true ∧ g.id = a.id)

/-- R210, R211, R247, R256: AGEN starts its pass of n addresses from a base by a stride; CJOIN counts its firings and passes A on with the IMM16-th;
BKGIVE parks at the port with the bank's byte offset for an address. -/
def Obligations.AddressAndJoinNodes : Prop :=
  ∀ (w : MWord) (sl : SlotId) (s : State),
    (AtTurn s sl (.agen w) →
      let a := lowPair (fireOf s sl (.mem .agen w)).a.pay
      let b := lowPair (fireOf s sl (.mem .agen w)).b.pay
      Completes (.agen w) s fun t => Issued s t sl ∧ TileFrame s t sl.tile ∧
        (w.sb = .zero → a.toNat / 2 ^ 48 ≠ 0 →
          slotNode t sl = .agen (a.toNat / 2 ^ 48) 0 (word (a.toNat % 2 ^ 48 / 64 * 64)) 1 (fireOf s sl (.mem .agen w)).thr []) ∧
        (w.sb ≠ .zero → b.toNat / 2 ^ 32 ≠ 0 →
          slotNode t sl = .agen (b.toNat / 2 ^ 32) 0 (word (a.toNat / 64 * 64)) (b.setWidth 32).toInt (fireOf s sl (.mem .agen w)).thr []) ∧
        ((if w.sb = .zero then a.toNat / 2 ^ 48 else b.toNat / 2 ^ 32) = 0 → slotNode t sl = slotNode s sl)) ∧
    (AtTurn s sl (.cjoin w) → ∀ n, slotNode s sl = .cjoin n ∨ slotNode s sl = .idle ∧ n = 0 → w.out ≠ 0 →
      Completes (.cjoin w) s fun t => Issued s t sl ∧ TileFrame s t sl.tile ∧
        let f := fireOf s sl (.mem .cjoin w)
        if n + 1 = w.imm.toNat then slotNode t sl = .cjoin 0 ∧ pipeOf t sl = pipeOf s sl ++ [results (emsOf w.out { f.a with thr := f.thr })]
        else slotNode t sl = .cjoin (n + 1) ∧ pipeOf t sl = pipeOf s sl) ∧
    (AtTurn s sl (.bkgive w) →
      Completes (.bkgive w) s fun t => Issued s t sl ∧ TileFrame s t sl.tile ∧
        ∃ a : Access, (getTile t sl.tile).port.queue = (getTile s sl.tile).port.queue ++ [a] ∧ a.op = .bkgive ∧ a.w = w ∧
          a.thr = (fireOf s sl (.mem .bkgive w)).thr ∧ a.ea = word (w.imm.toNat % 16 * 131072))

/-- R287, R288, R248, R251, R429: every access that its space allows performs at its turn. A global access at its turn performs in one indivisible step: a store writes the bytes of B's valid lanes, an
ATOM the new elements of B's valid lanes; STF leaves its granule full, CLRE and a taking LDF empty; a full write clears poison. Every other byte of
memory but the page's residency byte (R370) is unchanged. It leaves its port queue. No LDF is parked. A load (R246)
gives the granule's 64 bytes as they stood, with VALID all ones (B's for ATOM; none for a poisoned granule, R429), FMT TY, key 0, weight 1.0 and THR
of A; its completion token follows. R201, R202, R208: an LD, LDF, ST, STF or CLRE of WBUF or ABUF, or a load of CBUF, does the same to the bytes, the
full-empty bit and the poison mark of its granule of the buffer, once no operation of the matrix unit claims it. R245: an LD or ST of a slice window reads or writes
the bytes of its granule of the window. -/
def Obligations.AccessesPerform : Prop :=
  (∀ (s : State) (t : TileId) (a : Access) (pa k : Nat) (map : Option Nat), Performs s t a → a.w.space = .global →
    translate s t.die (portTable (getTile s t).port.entries) (tileCtx s t) a.ea (needOf a.op) = .ok pa k map → (a.op = .ldf → isFull s pa = true) →
    Completes .perform s fun u =>
      let m := markAcc s t.die (tileCtx s t) map
      let new : Payload := if a.op = .atom then atomPay a.w (payloadOf (memRead s (pa / 64 * 64) 64)) a.data a.cmp else a.data.pay
      let writes (b : Nat) : Bool := writesOp a.op && b / 64 = pa / 64 && a.data.valid.getLsbD (b % 64 / 4)
      (∀ b, memByte u b = if writes b then BitVec.ofNat 8 (elem 8 new (b % 64)) else memByte m b) ∧
      (∀ b, memByte m b = if map.map (mapAddr s t.die (tileCtx s t) + ·) = some b then memByte s b ||| 4 else memByte s b) ∧
      (∀ g, isFull u (64 * g) = if g = pa / 64 ∧ (a.op = .stf ∨ a.op = .clre ∨ a.op = .ldf ∧ a.w.fe = true) then decide (a.op = .stf) else isFull s (64 * g)) ∧
      (∀ g, isPoison u (64 * g) = if g = pa / 64 ∧ writesOp a.op = true ∧ a.data.valid = 0xFFFF then false else isPoison s (64 * g)) ∧
      u.far = s.far ∧ (getTile u t).port.queue = (getTile s t).port.queue.filter (fun b => b.id ≠ a.id) ∧ SameCores s u ∧
      SameTilesBut s u (· = t) ∧ SamePackage s u ∧
      LoadGives s u t a (if isPoison s pa then 0 else if a.op = .atom then a.data.valid else 0xFFFF) (fun b => memByte s (pa / 64 * 64 + b))) ∧
  (∀ (s : State) (t : TileId) (a : Access), Performs s t a → a.w.space = .wbuf ∨ a.w.space = .abuf ∨ a.w.space = .cbuf →
    let c := clusterOf s t
    let x := getCl s c
    let sp := spaceNum a.w.space
    let g := a.ea.toNat / 64
    let stores : Bool := a.op = .st || a.op = .stf
    a.op = .ld ∨ a.op = .ldf ∨ a.w.space ≠ .cbuf ∧ (stores = true ∨ a.op = .clre) → 64 * g < bufSize sp →
    (stores = true ∨ a.op = .clre → claimed x sp g = false) → (a.op = .ldf → bufIsFull x sp g = true) →
    Completes .perform s fun u =>
      let y := getCl u c
      GranuleStored x.buf y.buf (bufKey sp (64 * g)) (if stores then a.data.valid else 0) a.data.pay ∧
      (∀ k, aget false y.bufFull k =
        if k = granKey sp g ∧ (a.op = .stf ∨ a.op = .clre ∨ a.op = .ldf ∧ a.w.fe = true) then decide (a.op = .stf) else aget false x.bufFull k) ∧
      (∀ k, aget false y.bufPoison k =
        if k = granKey sp g ∧ stores = true ∧ a.data.valid = 0xFFFF then false else aget false x.bufPoison k) ∧
      coreView { y with buf := x.buf, bufFull := x.bufFull, bufPoison := x.bufPoison } = coreView x ∧
      (getTile u t).port.queue = (getTile s t).port.queue.filter (fun b => b.id ≠ a.id) ∧ SameMem s u ∧ SameCoresBut s u (· = c) ∧
      SameTilesBut s u (· = t) ∧ SamePackage s u ∧
      LoadGives s u t a (if aget false x.bufPoison (granKey sp g) then 0 else 0xFFFF) (fun b => aget memDefault x.buf (bufKey sp (64 * g) + b))) ∧
  (∀ (s : State) (t : TileId) (a : Access), Performs s t a → a.w.space = .window → a.op = .ld ∨ a.op = .st →
    let y := getSlice s (sliceOf t)
    let w := aget ({} : Window) y.wins (a.ea.toNat / 2 ^ 20 % 8)
    let n := a.ea.toNat / 64 % 2 ^ 14
    a.ea.toNat / 2 ^ 23 = 0 → n < 1024 * w.usize →
    Completes .perform s fun u =>
      GranuleStored y.data (getSlice u (sliceOf t)).data (winByte w n) (if a.op = .st then a.data.valid else 0) a.data.pay ∧
      (getTile u t).port.queue = (getTile s t).port.queue.filter (fun b => b.id ≠ a.id) ∧ SameMem s u ∧ SameCores s u ∧
      SameTilesBut s u (· = t) ∧ SamePackage s u ∧ (∀ z, z ≠ sliceOf t → getSlice u z = getSlice s z) ∧
      LoadGives s u t a 0xFFFF (fun b => aget memDefault y.data (winByte w n + b)))

/-- R251: the new elements of an ATOM on 32-bit integers and on bits, for the lanes of B that are valid; CAS needs C's lane valid too. -/
def Obligations.AtomElements : Prop :=
  ∀ (w : MWord) (old : Payload) (b c : VTok) (i : Nat), i < 16 →
    let o := lane old i
    let x := lane b.pay i
    let new := lane (atomPay w old b c) i
    (b.valid.getLsbD i = false → tyWidth w.ty = 32 → new = o) ∧
    (b.valid.getLsbD i = true →
      (w.aop = 0 → w.ty = .i32 ∨ w.ty = .n32 → new = o + x) ∧
      (w.aop = 2 → w.ty = .i32 → new = if o.toInt < x.toInt then o else x) ∧ (w.aop = 2 → w.ty = .n32 → new = if o.toNat < x.toNat then o else x) ∧
      (w.aop = 3 → w.ty = .i32 → new = if o.toInt > x.toInt then o else x) ∧ (w.aop = 3 → w.ty = .n32 → new = if o.toNat > x.toNat then o else x) ∧
      (w.aop = 4 → w.ty = .b32 → new = o &&& x) ∧ (w.aop = 5 → w.ty = .b32 → new = o ||| x) ∧ (w.aop = 6 → w.ty = .b32 → new = o ^^^ x) ∧
      (w.aop = 7 → tyWidth w.ty = 32 → new = x) ∧
      (w.aop = 8 → w.ty ≠ .i64x8 → new = if c.valid.getLsbD i = true ∧ o = lane c.pay i then x else o))

/-- R202, R245, R309, R310: an access refused (an operation that a buffer or a slice window does not take, one outside it, or one for want of a permission) has no effect, gives VALID 0 and still leaves its queue; an
access without an entry faults, keeps its place, opens a page request and stops its slot. -/
def Obligations.RefusedAndFaultingAccesses : Prop :=
  ∀ (s : State) (t : TileId) (a : Access), Performs s t a → a.op ≠ .pref →
    let es := portTable (getTile s t).port.entries
    (a.w.space = .global → ∀ k, translate s t.die es (tileCtx s t) a.ea (needOf a.op) = .perm k →
      Completes .perform s fun u => SameMem s u ∧ SameCores s u ∧ SameTilesBut s u (· = t) ∧
        (getTile u t).port.queue = (getTile s t).port.queue.filter (fun b => b.id ≠ a.id) ∧ (loadsOp a.op = true → (latchOf u ⟨t, a.slot⟩).valid = 0)) ∧
    (a.w.space = .wbuf ∨ a.w.space = .abuf ∨ a.w.space = .cbuf →
      bufAllowed (spaceNum a.w.space) a.op = false ∨ bufSize (spaceNum a.w.space) ≤ a.ea.toNat / 64 * 64 →
      Completes .perform s fun u => SameMem s u ∧ SameCores s u ∧ SameTilesBut s u (· = t) ∧
        (getTile u t).port.queue = (getTile s t).port.queue.filter (fun b => b.id ≠ a.id) ∧ (loadsOp a.op = true → (latchOf u ⟨t, a.slot⟩).valid = 0)) ∧
    (a.w.space = .window →
      a.op ≠ .ld ∧ a.op ≠ .st ∨ a.ea.toNat / 2 ^ 23 ≠ 0 ∨
        1024 * (aget ({} : Window) (getSlice s (sliceOf t)).wins (a.ea.toNat / 2 ^ 20 % 8)).usize ≤ a.ea.toNat / 64 % 2 ^ 14 →
      Completes .perform s fun u => SameMem s u ∧ SameCores s u ∧ SameTilesBut s u (· = t) ∧
        (getTile u t).port.queue = (getTile s t).port.queue.filter (fun b => b.id ≠ a.id) ∧ (loadsOp a.op = true → (latchOf u ⟨t, a.slot⟩).valid = 0)) ∧
    (a.w.space = .global → translate s t.die es (tileCtx s t) a.ea (needOf a.op) = .miss →
      sameReq (getDie s t.die) (tileCtx s t) (a.ea.toNat / 65536) (fun p => match p with | .node u _ => u = t | _ => false) = none →
      ∀ n, freeReq (getDie s t.die) = some n →
        Completes .perform s fun u => SameMem s u ∧ SameCores s u ∧ SameTilesBut s u (· = t) ∧
          (getTile u t).port.queue.map (·.id) = (getTile s t).port.queue.map (·.id) ∧ (getSlot (getTile u t) a.slot.val).fault = true ∧
          ∃ r, afind (getDie u t.die).reqs n = some r ∧ r.cause = 1 ∧ r.page = a.ea.toNat / 65536 ∧ r.ctx = tileCtx s t ∧ r.va = a.ea)
/-! ## Other moves of memory nodes -/

/-- R209, R247: AGEN_EMIT sends the next address of a pass that has sent none in this cycle, base + 64 (IMM16 + stride i), to the ports of OUT, taking the
bank's token first where FE gates it and the pass does not hold it. -/
def Obligations.PassEmitsItsAddresses : Prop :=
  ∀ (s : State) (sl : SlotId) (w : MWord) (n i : Nat) (base : Word) (stride : Int) (thr : BitVec 8) (banks : List Nat),
    s.here = .slot sl → slotInstr (getTile s sl.tile) sl.slot.val = some (.agen w) → slotNode s sl = .agen n i base stride thr banks →
    gateClosed s sl.tile = false → heldOn (getTile s sl.tile) (.mem .agen w) = none → tileHalted s sl.tile (getTile s sl.tile) = false →
    afind (getTile s sl.tile).used (slotEmit sl.slot.val) ≠ some s.clock →
    let a := base + BitVec.ofInt 64 (64 * ((w.imm.toInt) + stride * i))
    let c := clusterOf s sl.tile
    (∀ b, agenBank w a = some b → banks.contains b = false → (getCl s c).bktok.getLsbD b = true) →
    Completes .agenEmit s fun t =>
      (latchOf t sl).kind = kData ∧ (latchOf t sl).thr = thr ∧ lowPair (latchOf t sl).pay = a ∧ (latchOf t sl).fmt = 12 ∧
      (w.out ≠ 0 → pipeOf t sl = pipeOf s sl ++ [results (emsOf w.out (latchOf t sl))]) ∧
      (match agenBank w a with
       | some b => if banks.contains b then SameCores s t
                   else SameCoresBut s t (· = c) ∧ (getCl t c).bktok = (getCl s c).bktok &&& ~~~(1#32 <<< b)
       | none => SameCores s t) ∧
      (n ≤ i + 1 → slotNode t sl = .idle) ∧ (i + 1 < n → ∃ bs, slotNode t sl = .agen n (i + 1) base stride thr bs) ∧ SameMem s t ∧ SameTilesBut s t (· = sl.tile) ∧ SamePackage s t

/-- R243, R288: FILL reads the next address queued at a STREAM LD's A into its window at HEAD; WRITE_BACK performs the window's oldest store and
advances TAIL. -/
def Obligations.WindowsFillAndWriteBack : Prop :=
  ∀ (s : State) (sl : SliceId) (k : Fin 8) (w : MWord),
    let t := tileOfSlice sl
    let x := getTile s t
    let win := windowOf s t k.val
    s.here = .window sl k → sliceOf t = sl →
    (slotInstr x k.val = some (.ld w) → w.cls = .stream → win.usize ≠ 0 → x.port.start = true → gateClosed s t = false →
      win.held.length < 1024 * win.usize →
      ∀ (q : Fin 8) (v : Word) (pa e : Nat) (map : Option Nat), w.sa = .queue q → scalarAt (getQ x q.val) win.held.length = some v →
        translate s t.die (portTable x.port.entries) (tileCtx s t) (v + w.imm.signExtend 64 * 64) .r = .ok pa e map →
        (∀ b ∈ x.port.queue, b.parked = none → accKey s t x b ≠ .pa (pa / 64)) →
        Completes .fill s fun u =>
          (∃ g, (windowOf u t k.val).held = win.held ++ [g] ∧ g.va = (v + w.imm.signExtend 64 * 64) &&& ~~~63 ∧ g.store = false ∧
            g.data = payloadOf (memRead s (pa / 64 * 64) 64) ∧ g.valid = if isPoison s pa then 0 else 0xFFFF) ∧
          (windowOf u t k.val).head = win.head + 1 ∧ SameCores s u ∧ SameTilesBut s u (· = t) ∧ SamePackage s u ∧
          (∀ b, map.map (mapAddr s t.die (tileCtx s t) + ·) ≠ some b → memByte u b = memByte s b)) ∧
    (∀ (g : WinGran) (rest : List WinGran) (a : Access) (pa e : Nat), win.held = g :: rest → g.store = true → findAccess x g.id = some a → a.op = .st →
      a.w.space = .global → portReady s t x a = true → answerOf s t.die a.fault = .again →
      translate s t.die (portTable x.port.entries) (tileCtx s t) a.ea .w = .ok pa e none →
      Completes .writeBack s fun u =>
        (windowOf u t k.val).held = rest ∧ (windowOf u t k.val).tail = win.tail + 1 ∧
        (getTile u t).port.queue = x.port.queue.filter (fun b => b.id ≠ a.id) ∧ SameCores s u ∧ SameTilesBut s u (· = t) ∧
        ∀ b, memByte u b = if b / 64 = pa / 64 ∧ a.data.valid.getLsbD (b % 64 / 4) = true then BitVec.ofNat 8 (elem 8 a.data.pay (b % 64))
          else memByte s b)

/-- R211, R310: BKGIVE_SET sets its bank's bit once the thread's earlier stores into the bank have performed; of a bit already set it counts the give at
the tile, and the launch's first one in a phase writes a BKDUP record; PAGE_REQUEST_OPEN gives a fault that waited its request. -/
def Obligations.GivesAndLateRequests : Prop :=
  ∀ (s : State) (t : TileId) (a : Access), s.here = .access t a.id → findAccess (getTile s t) a.id = some a →
    (a.op = .bkgive → (getTile s t).port.start = true → a.w.space = .wbuf ∨ a.w.space = .abuf →
      let n := a.ea.toNat / 2 ^ 17 % 16
      let b := (spaceNum a.w.space - 1) * 16 + n
      storesDone s t a.thr a.seq (fun e => decide (spaceNum e.w.space = spaceNum a.w.space) && decide (fld e.ea 63 17 = n)) = true →
      Completes .bkgiveSet s fun u =>
        (getCl u (clusterOf s t)).bktok = (getCl s (clusterOf s t)).bktok ||| (1#32 <<< b) ∧ SameMem s u ∧
        SameCoresBut s u (· = clusterOf s t) ∧ SameTilesBut s u (· = t) ∧
        (getTile u t).port.queue = (getTile s t).port.queue.filter (fun b => b.id ≠ a.id) ∧
        let dup := (getCl s (clusterOf s t)).bktok.getLsbD b
        aget 0 (getTile u t).counts 0x103 = aget 0 (getTile s t).counts 0x103 + (if dup then 1 else 0) ∧
        (∀ l x, ownerOf s t = some l → findLaunch s l = some x →
          let first : Bool := dup && !x.first.contains 0x11
          let r : Rec :=
            { kind := 0x11, ctx := x.lr.ctx, row := t.row.val, col := t.col.val, thr := a.thr, sub := a.slot.val, handle := l.handle, p0 := word b }
          (getCl u (homeOf s l x)).pend = (getCl s (homeOf s l x)).pend ++ (if first then [r] else []) ∧
          (first = true → ∃ x', findLaunch u l = some x' ∧ x'.first.contains 0x11 = true))) ∧
    (∀ c, a.fault = .waits c → a.op ≠ .mcast →
      translate s t.die (portTable (getTile s t).port.entries) (tileCtx s t) a.ea (needOf a.op) = .miss →
      sameReq (getDie s t.die) (tileCtx s t) (a.ea.toNat / 65536) (fun p => match p with | .node u _ => u = t | _ => false) = none →
      ∀ n, freeReq (getDie s t.die) = some n →
        Completes .pageRequestOpen s fun u => SameMem s u ∧ SameCores s u ∧ SameTilesBut s u (· = t) ∧
          ∃ r, afind (getDie u t.die).reqs n = some r ∧ r.cause = 1 ∧ r.page = a.ea.toNat / 65536 ∧ r.ctx = tileCtx s t ∧
            (findAccess (getTile u t) a.id).map (·.fault) = some (.open_ n r.serial))

/-- R252, R253: MCAST_REQUEST refuses a request whose fields do not fit: it lands nothing, is counted, writes MCASTREF and leaves its port. Of a request
that fits, and of which no piece still to come faults (R312), it asks for the next piece, which joins the home slice's open entry of the same piece,
AOP, MASK and CTX, or opens one; it has missed the lines sent before the cycle (R302). -/
def Obligations.MulticastRequests : Prop :=
  (∀ (s : State) (t : TileId) (a : Access), s.here = .access t a.id → findAccess (getTile s t) a.id = some a → a.op = .mcast →
    portReady s t (getTile s t) a = true → a.mc.accepted = false → a.mc.asked = 0 →
    let c := clusterOf s t
    let mask := a.bval.extractLsb' 48 16
    let len := (a.bval.extractLsb' 32 16).toNat
    (mask.getLsbD (c.lcl.val % 16) = false ∨ c.lcl.val / 16 ≠ a.w.aop.toNat ∨ len = 0 ∨ 32768 < len ∨ a.bval.extractLsb' 28 3 ≠ 0 ∨
      a.bval.extractLsb' 16 8 ≠ 0 ∨
      a.bval.getLsbD 31 = true ∧ len ≠ (getRing (getCl s c) (a.bval.extractLsb' 24 4).toNat).tsz) →
    Completes .mcastRequest s fun u => SameMem s u ∧ SameCores s u ∧ SameTilesBut s u (· = t) ∧ u.slices = s.slices ∧
      (getTile u t).port.queue = (getTile s t).port.queue.filter (fun b => b.id ≠ a.id) ∧
      aget 0 (getCl u c).counts cntMcastref = aget 0 (getCl s c).counts cntMcastref + 1 ∧
      ∀ l x, ownerOf s t = some l → findLaunch s l = some x →
        let r : Rec :=
          { kind := 0x16, ctx := x.lr.ctx, row := t.row.val, col := t.col.val, thr := a.thr, sub := a.slot.val, handle := l.handle, p0 := a.ea, p1 := a.bval }
        (getCl u (homeOf s l x)).pend = (getCl s (homeOf s l x)).pend ++ [r]) ∧
  (∀ (s : State) (t : TileId) (a : Access) (pa e : Nat), s.here = .access t a.id → findAccess (getTile s t) a.id = some a → a.op = .mcast →
    portReady s t (getTile s t) a = true → a.mc.asked < mcPieces a.ea (mcLen a) → a.mc.accepted = true ∨ mcOk (getCl s (clusterOf s t)) (clusterOf s t) a = true →
    answerOf s t.die a.fault = .again →
    let tr (p : Nat) := translate s t.die (portTable (getTile s t).port.entries) (tileCtx s t) (mcAddr a p) .r
    (∀ p, p < mcPieces a.ea (mcLen a) → (∀ k, tr p ≠ .perm k) ∧ (a.mc.asked ≤ p → tr p ≠ .miss ∧ ∀ k i f, tr p ≠ .tier k i f)) →
    tr a.mc.asked = .ok pa e none →
    let (off, n) := mcPiece a.ea (mcLen a) a.mc.asked
    Completes .mcastRequest s fun u => SameMem s u ∧ SameTilesBut s u (· = t) ∧ SameCoresBut s u (· = clusterOf s t) ∧
      ((findAccess (getTile u t) a.id).map fun b => (b.mc.accepted, b.mc.asked)) = some (true, a.mc.asked + 1) ∧
      ∃ x ∈ (getSlice u (homeSlice (pa / 64 * 64))).mcast, x.pa = pa / 64 * 64 ∧ x.lines = n ∧ x.group = a.w.aop.toNat ∧
        x.mask = fld a.bval 63 48 ∧ x.ctx = tileCtx s t ∧
        ∃ m ∈ x.members, m.cl = clusterOf s t ∧ m.tile = t ∧ m.id = a.id ∧ m.off = off ∧
          m.missed = if x.sentAt = some s.clock ∧ x.catchup = 0 then x.next - 1 else x.next)

/-- R253, R254: sending starts when every member of MASK has joined or 32 cycles after the opening; a line of the main pass, one in a cycle, goes as it
is read to every member of the entry; after the main pass the next line of the catch-up pass goes to every member that missed it; the entry closes with the last such
line, or at once where nobody missed one. A line that has arrived at a member, whichever it is, lands in its granule and sets that full; with the last of its lines the
request leaves its port, and in ring mode TAIL advances by 1. -/
def Obligations.MulticastSendsAndLands : Prop :=
  (∀ (s : State) (h : SliceId) (x : McastEntry), s.here = .merged h x.id → (getSlice s h).mcast.find? (fun y => y.id = x.id) = some x →
    let entry (u : State) : Option McastEntry := (getSlice u h).mcast.find? (fun y => y.id = x.id)
    -- line i, as memory holds it, has gone to the members of which `to_` holds
    let sent (u : State) (i : Nat) (to_ : Member → Bool) : Prop :=
      SameMem s u ∧ u.clusters = s.clusters ∧ SameTilesBut s u (fun v => ∃ m ∈ x.members, m.tile = v ∧ to_ m = true) ∧
      ∀ v id a, findAccess (getTile s v) id = some a → findAccess (getTile u v) id = some { a with mc := { a.mc with
        arrived := a.mc.arrived ++ (x.members.filter fun m => to_ m && decide (m.tile = v ∧ m.id = id)).map fun m =>
          (m.off + i, payloadOf (memRead s (x.pa + 64 * i) 64), isPoison s (x.pa + 64 * i)) } }
    (x.sending = false →
      ((∀ i, i < 16 → x.mask.testBit i = true → ∃ m ∈ x.members, m.cl.lcl.val % 16 = i) ∨ x.opened + 32 ≤ s.clock) →
      Completes .mcastSendStart s fun u => entry u = some { x with sending := true } ∧
        SameMem s u ∧ u.clusters = s.clusters ∧ u.tiles = s.tiles) ∧
    (x.sending = true → x.sentAt ≠ some s.clock →
      (x.next < x.lines → Completes .mcastLineSend s fun u => sent u x.next (fun _ => true) ∧
        entry u = some { x with next := x.next + 1, sentAt := some s.clock, line := payloadOf (memRead s (x.pa + 64 * x.next) 64),
                                lineBad := isPoison s (x.pa + 64 * x.next) }) ∧
      (x.lines ≤ x.next → (∃ m ∈ x.members, x.catchup < m.missed) →
        Completes .mcastLineSend s fun u => sent u x.catchup (fun m => decide (x.catchup < m.missed)) ∧
          ((∃ m ∈ x.members, x.catchup + 1 < m.missed) → entry u = some { x with catchup := x.catchup + 1, sentAt := some s.clock }) ∧
          ((∀ m ∈ x.members, m.missed ≤ x.catchup + 1) → entry u = none)) ∧
      (x.lines ≤ x.next → (∀ m ∈ x.members, m.missed ≤ x.catchup) →
        Completes .mcastLineSend s fun u => entry u = none ∧ SameMem s u ∧ u.clusters = s.clusters ∧ u.tiles = s.tiles))) ∧
  (∀ (s : State) (t : TileId) (a : Access) (k i : Nat) (p : Payload) (bad : Bool),
    s.here = .landing t a.id k → findAccess (getTile s t) a.id = some a → a.mc.arrived[k]? = some (i, p, bad) → parkedAll s = [] →
    let c := clusterOf s t
    let sp := spaceNum a.w.space
    let last : Bool := decide (a.mc.landed + 1 = mcLen a)
    claimed (getCl s c) sp (a.mc.base + i) = false →
    Completes .mcastLand s fun u => SameMem s u ∧ SameCoresBut s u (· = c) ∧ SameTilesBut s u (· = t) ∧ SamePackage s u ∧
      granRead (getCl u c) sp (a.mc.base + i) = p ∧ bufIsFull (getCl u c) sp (a.mc.base + i) = true ∧
      aget false (getCl u c).bufPoison (granKey sp (a.mc.base + i)) = bad ∧
      (∀ n, getRing (getCl u c) n =
        let r := getRing (getCl s c) n
        if last = true ∧ mcRing a = some n then { r with tail := r.tail + 1, claimed := r.claimed - 1 } else r) ∧
      (if last then (getTile u t).port.queue = (getTile s t).port.queue.filter (fun b => b.id ≠ a.id)
       else (findAccess (getTile u t) a.id).map (fun b => (b.mc.arrived, b.mc.landed)) = some (a.mc.arrived.eraseIdx k, a.mc.landed + 1)))
/-! ## The matrix array and its nodes -/

/-- R42, R218 to R221: MXN sends a legal control token to its queue and waits for the retirement token, and refuses another on the spot with cause 1;
MSEQ begins a run of n tokens, which MSEQ_EMIT sends on O2, at most one in a cycle; RADV HEAD acts at once, RADV TAIL parks until RADV_PUBLISH; RSTAT reads its ring. -/
def Obligations.MatrixNodes : Prop :=
  ∀ (w : NWord) (sl : SlotId) (s : State),
    let c := clusterOf s sl.tile
    let n := w.aux.toNat % 16
    let r := getRing (getCl s c) n
    (AtTurn s sl (.mxn w) →
      let f := fireOf s sl (.node .mxn w)
      let v := lowPair f.a.pay
      let q := if (getCl s c).split = true ∧ w.aux.toNat % 4 = 2 then 1 else 0
      ((decodeMatrix v).isSome = true → Completes (.mxn w) s fun t => Issued s t sl ∧ SameMem s t ∧ SameTilesBut s t (· = sl.tile) ∧ SameCoresBut s t (· = c) ∧
        ∃ o : MOp, getMq (getCl t c) q = getMq (getCl s c) q ++ [o] ∧ o.tok = v ∧ o.tile = sl.tile ∧ o.slot = sl.slot ∧ o.thr = f.thr ∧
          o.started = false ∧ pipeOf t sl = pipeOf s sl ++ [awaiting o.id]) ∧
      (decodeMatrix v = none → w.out = 4 → Completes (.mxn w) s fun t => Issued s t sl ∧ TileFrame s t sl.tile ∧
        pipeOf t sl = pipeOf s sl ++ [results [(2, .sca ⟨word (v.toNat / 2 ^ 53 * 2 ^ 53 + 257), f.thr⟩)]])) ∧
    (AtTurn s sl (.mseq w) →
      let f := fireOf s sl (.node .mseq w)
      let k := if w.aux.toNat % 4 = 0 then 1 else f.c.pay.toNat % 65536
      Completes (.mseq w) s fun t => Issued s t sl ∧ TileFrame s t sl.tile ∧
        (0 < k → ∃ thr, slotNode t sl = .mseq k 0 (lane f.b.pay 0 ++ lane f.a.pay 0) (w.aux.toNat % 4) thr) ∧ (k = 0 → slotNode t sl = slotNode s sl)) ∧
    (∀ k i tok mode thr, s.here = .slot sl → slotNode s sl = .mseq k i tok mode thr →
      (aget [] (getTile s sl.tile).outs 2).length + promised (getTile s sl.tile) 2 < 4 → tileHalted s sl.tile (getTile s sl.tile) = false →
      afind (getTile s sl.tile).used (slotEmit sl.slot.val) ≠ some s.clock →
      Completes .mseqEmit s fun t => TileFrame s t sl.tile ∧
        slotNode t sl = (if i + 1 < k then .mseq k (i + 1) tok mode thr else .idle) ∧
        ∃ v : Word, pipeOf t sl = pipeOf s sl ++ [results [(2, .sca ⟨v, thr⟩)]] ∧
          (mode = 0 → v = tok) ∧ (mode = 1 → v = if i = 0 then tok else tok ||| 0x10000) ∧
          (mode = 2 → v.extractLsb' 10 6 = tok.extractLsb' 10 6 + BitVec.ofNat 6 i ∧ v &&& ~~~0xFC00 = tok &&& ~~~0xFC00)) ∧
    (AtTurn s sl (.radv w) → ringMine (getCl s c) n (partOf s sl.tile) = true →
      (w.aux.getLsbD 4 = true → Completes (.radv w) s fun t => Issued s t sl ∧ SameMem s t ∧ SameTilesBut s t (· = sl.tile) ∧ SameCoresBut s t (· = c) ∧
        (getRing (getCl t c) n).tail = r.tail ∧
        (getRing (getCl t c) n).head = if w.imm.toNat ≤ (r.tail - r.head).toNat then r.head + w.imm else r.head) ∧
      (w.aux.getLsbD 4 = false → Completes (.radv w) s fun t => Issued s t sl ∧ TileFrame s t sl.tile ∧
        ∃ id l, slotNode t sl = .radv (l ++ [(id, id, (fireOf s sl (.node .radv w)).thr)]) ∧ pipeOf t sl = pipeOf s sl ++ [awaiting id])) ∧
    (∀ id before thr rest, s.here = .slot sl → slotInstr (getTile s sl.tile) sl.slot.val = some (.radv w) →
      slotNode s sl = .radv ((id, before, thr) :: rest) → w.aux.getLsbD 4 = false →
      storesDone s sl.tile thr before (fun e => decide (spaceNum e.w.space = ringSpace n)) = true → ringMine (getCl s c) n (partOf s sl.tile) = true →
      Completes .radvPublish s fun t => SameMem s t ∧ SameTilesBut s t (· = sl.tile) ∧ SameCoresBut s t (· = c) ∧ slotNode t sl = .radv rest ∧
        (getRing (getCl t c) n).head = r.head ∧
        (getRing (getCl t c) n).tail = if (r.tail - r.head).toNat + w.imm.toNat ≤ ringNt r then r.tail + w.imm else r.tail) ∧
    (AtTurn s sl (.rstat w) → Completes (.rstat w) s fun t => Issued s t sl ∧ TileFrame s t sl.tile ∧
      let p := (latchOf t sl).pay
      (latchOf t sl).valid = 0x00FF ∧ (latchOf t sl).fmt = 1 ∧ lane p 0 = r.head.setWidth 32 ∧ lane p 1 = r.tail.setWidth 32 ∧
      lane p 2 = (r.tail - r.head).setWidth 32 ∧ (r.size < 2 ^ 16 → r.tsz < 2 ^ 16 → r.base < 2 ^ 16 →
        lane p 3 = BitVec.ofNat 32 (if r.tsz = 0 then 0 else r.size / r.tsz) ∧ lane p 4 = BitVec.ofNat 32 r.base ∧
        lane p 5 = BitVec.ofNat 32 r.size ∧ lane p 6 = BitVec.ofNat 32 r.tsz ∧ lane p 7 = if r.few then 1 else 0))

/-- R222 to R226, R289: the operations of the array, when it is their turn: each works out the granules that it writes and changes nothing else; when
those are written, MZERO has cleared its elements of CTILE; MMUL and MMULT have added up the products, on integers modulo 2^32, on floats as R85 says;
MLDC has copied a tile's elements in; MSTC has written its tile's granules; and they are full. ENGINE_WRITE writes one of the granules, in any order,
once no earlier operation has it to write and no operation but its own and later ones of the queue claims its tile (R208). Memory, tiles and other
clusters stay. No LDF is parked at a write. -/
def Obligations.ArrayOperationsRun : Prop :=
  ∀ (w : XWord) (s : State) (c : ClusterId) (q : Fin 2) (pre post : List MOp) (o : MOp),
    let x0 := getCl s c
    -- the buffers as the earlier operations leave them
    let x := afterOps x0 pre
    let tile := w.ctile.toNat
    let a := w.ringa.toNat
    let b := w.ringb.toNat
    let ta := o.ta
    let tb := o.tb
    let runs (i : Instr) (p : Cluster → Prop) : Prop :=
      s.here = .array c q → getMq x0 q.val = pre ++ o :: post → (∀ e ∈ pre, e.ran = true ∨ e.cause ≠ 0) → o.ran = false → o.cause = 0 →
      o.started = true → decodeMatrix o.tok = some i →
      Completes i s fun u => ∃ l, let o' := { o with ran := true, todo := l }
        SameMem s u ∧ u.tiles = s.tiles ∧ SameCoresBut s u (· = c) ∧ SamePackage s u ∧
        getCl u c = setMq x0 q.val (pre ++ o' :: post) ∧ p (afterOps x0 (pre ++ [o']))
    -- the elements of CTILE: those of the operation by `f`, the others of the tile as before
    let cells (f : Nat → Nat → Nat) (y : Cluster) : Prop := ∀ m n, m < 64 → n < 64 →
      cRead y tile m n = if m < rowsOf w ∧ n < colsOf w then f m n else cRead x tile m n
    let sum (t : Bool) (m n : Nat) : Int := ((List.range (depthK w)).map fun k =>
      match tileHeader x a ta, tileHeader x b tb with
      | some (da, _), some (db, _) =>
        ival 8 (w.tyab = 4) (tileElem x a ta da.tpr 1 m k) *
          ival 8 (w.tyab = 4) (if t then tileElem x b tb db.tpr 1 k n else tileElem x b tb db.tpr 1 n k)
      | _, _ => 0).sum
    let c0 (m n : Nat) : Nat := if w.acc then cRead x tile m n else 0
    let float (t : Bool) (m n : Nat) : Nat :=
      match tileHeader x a ta, tileHeader x b tb with
      | some (da, _), some (db, _) =>
        mmElem w.tyab (depthK w / 16) (fun k => tileElem x a ta da.tpr (ebOf w.tyab) m k)
          (fun k => if t then tileElem x b tb db.tpr (ebOf w.tyab) k n else tileElem x b tb db.tpr (ebOf w.tyab) n k)
          (fun g => tileScale da (ebOf w.tyab) m (16 * g) +
            (if t then tileScale db (ebOf w.tyab) (16 * g) n else tileScale db (ebOf w.tyab) n (16 * g))) (c0 m n)
      | _, _ => 0
    let product (t : Bool) (i : Instr) : Prop :=
      (tileHeader x a ta).isSome = true → (tileHeader x b tb).isSome = true →
      runs i (cells fun m n => if w.tyab = 4 ∨ w.tyab = 5 then (((c0 m n : Int) + sum t m n) % 2 ^ 32).toNat else float t m n)
    product false (.mmul w) ∧ product true (.mmult w) ∧
    runs (.mzero w) (cells fun _ _ => 0) ∧
    runs (.mldc w) (cells fun m n => tileElem x a ta ((colsOf w * 4 + 63) / 64) 4 m n) ∧
    runs (.mstc w) (fun y =>
      let g := ringGran (getRing x a) o.td
      ∀ i p, (mstcTile w x)[i]? = some p → granRead y (ringSpace a) (g + i) = p ∧ bufIsFull y (ringSpace a) (g + i) = true) ∧
    (∀ k p, s.here = .arrayGran c q k → parkedAll s = [] → getMq x0 q.val = pre ++ o :: post → (∀ e ∈ pre, ∀ f ∈ e.todo, f.1 ≠ k) →
      o.todo.find? (fun e => e.1 = k) = some (k, p) →
      k / 2 ^ 16 = 3 ∨ claimedBy x0 (pre ++ (x0.mqs.filter fun e => e.1 ≠ q.val).flatMap (·.2)) (k / 2 ^ 16) (k % 2 ^ 16) = false →
      Completes .engineWrite s fun u => SameMem s u ∧ u.tiles = s.tiles ∧ SameCoresBut s u (· = c) ∧ SamePackage s u ∧
        getMq (getCl u c) q.val = pre ++ { o with todo := o.todo.eraseP fun e => e.1 = k } :: post ∧
        granRead (getCl u c) (k / 2 ^ 16) (k % 2 ^ 16) = p ∧ bufIsFull (getCl u c) (k / 2 ^ 16) (k % 2 ^ 16) = true ∧
        ∀ sp g, granKey sp g ≠ k → granRead (getCl u c) sp g = granRead x0 sp g ∧ bufIsFull (getCl u c) sp g = bufIsFull x0 sp g)

/-- R208, R212 to R215, R289: MATRIX_OP_START starts the next operation of a queue once its tiles are available, refused or not by R214, with cause 5
where the rows of its half have met an uncorrectable error, and places it at the tiles it reads and writes; MATRIX_RETIRE retires
the oldest once its granules are written: the pops and publishes it named are made if it was accepted, and its retirement token goes to its MXN. -/
def Obligations.ArrayOperationsStartAndRetire : Prop :=
  ∀ (s : State) (c : ClusterId) (q : Fin 2) (o : MOp),
    let x := getCl s c
    (∀ pre post i, s.here = .array c q ∨ s.here = .rowError c q → getMq x q.val = pre ++ o :: post → (∀ e ∈ pre, e.started = true) → o.started = false → decodeMatrix o.tok = some i →
      Completes .matrixOpStart s fun u => SameMem s u ∧ u.tiles = s.tiles ∧ SameCoresBut s u (· = c) ∧
        (o.cause ≠ 0 ∨ halfLegal x q.val i o.part = false → getMq (getCl u c) q.val = pre ++ { placeOp x pre o with started := true, cause := 4 } :: post) ∧
        (o.cause = 0 → halfLegal x q.val i o.part = true → ¬ (∃ w, i = .mstc w ∧ w.tyc = 0 ∧ w.ofmt ≠ 3) →
          getMq (getCl u c) q.val =
            if tilesReady x pre i then
              pre ++ { placeOp x pre o with started := true, cause := if s.here = .rowError c q then 5 else tilesCheck x pre i } :: post
            else pre ++ o :: post)) ∧
    (∀ pre n pop,
      ((opUse o).a = some (n, pop) → (placeOp x pre o).ta = (getRing x n).head + BitVec.ofNat 16 (popsOn pre n)) ∧
      ((opUse o).b = some (n, pop) → (placeOp x pre o).tb = (getRing x n).head + BitVec.ofNat 16 (popsOn pre n)) ∧
      ((opUse o).dst = some (n, pop) → (placeOp x pre o).td = (getRing x n).tail + BitVec.ofNat 16 (pubsOn pre n))) ∧
    (∀ rest, s.here = .array c q → getMq x q.val = o :: rest → o.started = true → o.ran = true ∧ o.todo = [] ∨ o.cause ≠ 0 →
      Completes .matrixRetire s fun u => SameMem s u ∧ SameCoresBut s u (· = c) ∧ SameTilesBut s u (· = o.tile) ∧
        getMq (getCl u c) q.val = rest ∧
        (∀ n, let r := getRing (getCl u c) n
          let old := getRing x n
          if o.cause = 0 then
            r.head = old.head + (if (opUse o).a = some (n, true) then 1 else 0) + (if (opUse o).b = some (n, true) then 1 else 0) ∧
            r.tail = old.tail + (if (opUse o).dst = some (n, true) then 1 else 0)
          else r = old) ∧
        (∀ f ∈ pipeOf s ⟨o.tile, o.slot⟩, f.id = o.id → f.ready = false →
          ∃ ems, { f with ready := true, ems := ems } ∈ pipeOf u ⟨o.tile, o.slot⟩ ∧
            ∀ w, slotInstr (getTile s o.tile) o.slot.val = some (.mxn w) → w.out = 4 →
              ems = [(2, .sca ⟨word (o.tok.toNat / 2 ^ 53 * 2 ^ 53 + (if o.cause = 0 then 0 else 256 + o.cause)), o.thr⟩)]))
/-! ## The control core -/

/-- R93, R96, R100, R101, R103, R104: NOP, LDI, the integer arithmetic, the bit fields, CMP and the divisions on the core, which never trap. -/
def Obligations.CoreCalculates : Prop :=
  let all (p : Bool) : Word := if p then BitVec.allOnes 64 else 0
  let top : Int := 2 ^ 63
  let clamp (n : Int) : Word := BitVec.ofInt 64 (Max.max (-top) (Min.min (top - 1) n))
  CoreGives .nop (fun _ _ _ d => d) ∧ CoreGives .ldi (fun _ _ b _ => b) ∧
  CoreGives .add (fun _ a b _ => a + b) ∧ CoreGives .sub (fun _ a b _ => a - b) ∧
  CoreGives .adds (fun _ a b _ => clamp (a.toInt + b.toInt)) ∧ CoreGives .subs (fun _ a b _ => clamp (a.toInt - b.toInt)) ∧
  CoreGives .mul (fun _ a b _ => a * b) ∧ CoreGives .mulh (fun _ a b _ => BitVec.ofInt 64 (a.toInt * b.toInt / 2 ^ 64)) ∧
  CoreGives .mad (fun _ a b d => a * b + d) ∧
  CoreGives .min (fun _ a b _ => if a.toInt < b.toInt then a else b) ∧ CoreGives .max (fun _ a b _ => if a.toInt > b.toInt then a else b) ∧
  CoreGives .abs (fun _ a _ _ => if a.toInt < 0 then -a else a) ∧ CoreGives .neg (fun _ a _ _ => -a) ∧
  CoreGives .bfx (fun _ a b _ => word (a.toNat / 2 ^ (b.toNat % 256) % 2 ^ (b.toNat / 256 % 256))) ∧
  CoreGives .bfxs (fun _ a b _ =>
    let wd := b.toNat / 256 % 256
    let f := a.toInt / 2 ^ (b.toNat % 256) % 2 ^ wd
    if wd = 0 then 0 else BitVec.ofInt 64 (if f < 2 ^ (wd - 1) then f else f - 2 ^ wd)) ∧
  CoreGives .bfi (fun _ a b d =>
    let off := b.toNat % 256
    let wd := b.toNat / 256 % 256
    if wd = 0 ∨ 64 ≤ off then a
    else
      let m : Word := word ((2 ^ Min.min wd (64 - off) - 1) * 2 ^ off)
      (a &&& ~~~m) ||| ((d <<< off) &&& m)) ∧
  CoreGives .cmp (fun w a b _ => all (match w.aux.toNat with
    | 0 => a = b | 1 => a ≠ b | 2 => a.toInt < b.toInt | 3 => a.toInt ≤ b.toInt | 4 => a.toNat < b.toNat | 5 => a.toNat ≤ b.toNat
    | 6 => b.toInt < a.toInt | _ => b.toInt ≤ a.toInt)) ∧
  CoreGives .div (fun _ a b _ => if b = 0 then BitVec.allOnes 64 else BitVec.ofInt 64 (a.toInt.tdiv b.toInt)) ∧
  CoreGives .divu (fun _ a b _ => if b = 0 then BitVec.allOnes 64 else a / b) ∧
  CoreGives .rem (fun _ a b _ => if b = 0 then a else BitVec.ofInt 64 (a.toInt.tmod b.toInt)) ∧
  CoreGives .remu (fun _ a b _ => if b = 0 then a else a % b)

/-- R280: BC, J, JAL and JR go to their targets, JAL and JR with the address after them in X[XD]; a taken target that is no multiple of 8 raises
MISALIGN and changes no register. A word with OPC 0x1FF at the pc raises EXT_TARGET with EPC and TVAL at it. -/
def Obligations.CoreBranches : Prop :=
  ∀ (w : CWord) (c : ClusterId) (s : State), CoreTurn s c w →
    let x := getCl s c
    let a := getX x w.xa
    let b := getX x w.xb
    let next := x.pc + (if w.long then 16 else 8)
    let goes (i : Instr) (link : Fin 32) (dst : Word) : Prop :=
      (dst.toNat % 8 = 0 → Completes i s fun t => (getCl t c).pc = dst ∧ CoreFrame s t c link ∧ getX (getCl t c) link = if link = 0 then 0 else next) ∧
      (dst.toNat % 8 ≠ 0 → Completes i s fun t => TookTrap s t c 3 dst false x.pc)
    let cond : Prop := match w.aux.toNat with
      | 0 => a = b | 1 => a ≠ b | 2 => a.toInt < b.toInt | 3 => a.toInt ≤ b.toInt | 4 => a.toNat < b.toNat | 5 => a.toNat ≤ b.toNat
      | 6 => b.toInt < a.toInt | _ => b.toInt ≤ a.toInt
    (cond → goes (.bc w) 0 (x.pc + w.imm)) ∧ (¬ cond → Completes (.bc w) s fun t => (getCl t c).pc = next ∧ CoreFrame s t c 0) ∧
    goes (.j w) 0 (x.pc + w.imm) ∧ goes (.jal w) w.xd (x.pc + w.imm) ∧ goes (.jr w) w.xd (a + w.imm) ∧
    (let v := word (ofBytes (readBytes x.loc x.pc.toNat 8))
     x.pc.toNat + 16 ≤ 0x40000 → v.extractLsb' 55 9 = 0x1FF → w.long = false →
      fetchAt s (.core c) = some (.extTarget v) ∧ Completes (.extTarget v) s fun t => TookTrap s t c 2 x.pc false x.pc)

/-- R56, R264, R268, R269: TRAP, an ILLEGAL word, a fetch of OPC 0x1FF and a fetch at or above 0x4_0000 are taken as traps: to the tenant handler
where TDELEG sends them, else to the system handler, else the core stops. ERET returns, to the saved address with its bits [2:0] cleared (log 20);
in tenant mode with THU 0 it is ILLEGAL. -/
def Obligations.CoreTrapsAndReturns : Prop :=
  ∀ (w : CWord) (c : ClusterId) (s : State), CoreTurn s c w →
    let x := getCl s c
    (Completes (.trap w) s fun t => TookTrap s t c 5 (getX x w.xb + w.imm) false (x.pc + (if w.long then 16 else 8))) ∧
    (∀ v, w.long = false → Completes (.illegal v) s fun t => TookTrap s t c 1 v false x.pc) ∧
    (∀ v, w.long = false → Completes (.extTarget v) s fun t => TookTrap s t c 2 x.pc false x.pc) ∧
    (∀ a, Completes (.fetch a) s fun t => TookTrap s t c 13 a false x.pc) ∧
    (x.mode = true → Completes (.eret w) s fun t => OnlyCore s t c ∧
      getCl t c = { x with pc := x.epcs &&& ~~~7, mode := x.estats.getLsbD 0, aie := x.estats.getLsbD 1, thu := x.estats.getLsbD 2,
                           ths := x.estats.getLsbD 3, paie := x.estats.getLsbD 5 }) ∧
    (x.mode = false → x.thu = true → Completes (.eret w) s fun t => OnlyCore s t c ∧
      getCl t c = { x with pc := x.epcu &&& ~~~7, thu := false, aie := x.paie }) ∧
    (x.mode = false → x.thu = false → Completes (.eret w) s fun t => TookTrap s t c 1 (wordC .eret w) false x.pc)

/-- R265, R279: loads, stores and AMO of local memory act at once; of each, a misaligned address raises MISALIGN, and a tenant's access that passes
LMLIM raises PERM. -/
def Obligations.CoreLocalAccesses : Prop :=
  ∀ (w : CWord) (c : ClusterId) (s : State), CoreTurn s c w →
    let x := getCl s c
    let a := getX x w.xa + w.imm
    let old (i : Nat) : Byte := aget memDefault x.loc i
    let traps (i : Instr) (n : Nat) : Prop :=
      (a.toNat % n ≠ 0 → Completes i s fun t => TookTrap s t c 3 a false x.pc) ∧
      (a.toNat % n = 0 → a.toNat < 0x40000 → x.mode = false → x.lmlim.toNat < a.toNat + n → Completes i s fun t => TookTrap s t c 7 a false x.pc)
    let loads (i : Instr) (n : Nat) : Prop :=
      traps i n ∧
      (a.toNat % n = 0 → a.toNat < 0x40000 → locTrap x a n = none → Completes i s fun t => CoreFrame s t c w.xd ∧
        (getCl t c).pc = x.pc + (if w.long then 16 else 8) ∧
        (w.xd ≠ 0 → (∀ b, b < 8 * n → (getX (getCl t c) w.xd).getLsbD b = (old (a.toNat + b / 8)).getLsbD (b % 8)) ∧
          ∀ b, 8 * n ≤ b → b < 64 → (getX (getCl t c) w.xd).getLsbD b = (decide (w.ty = 0) && (old (a.toNat + n - 1)).getLsbD 7)))
    let stores (i : Instr) (n : Nat) : Prop :=
      traps i n ∧
      (a.toNat % n = 0 → a.toNat < 0x40000 → locTrap x a n = none → Completes i s fun t => OnlyCore s t c ∧
        (getCl t c).pc = x.pc + (if w.long then 16 else 8) ∧ { getCl t c with pc := x.pc, loc := x.loc } = x ∧
        ∀ b, aget memDefault (getCl t c).loc b =
          if a.toNat ≤ b ∧ b < a.toNat + n then (getX x w.xb).extractLsb' (8 * (b - a.toNat)) 8 else old b)
    loads (.ld8 w) 1 ∧ loads (.ld16 w) 2 ∧ loads (.ld32 w) 4 ∧ loads (.ld64 w) 8 ∧
    stores (.st8 w) 1 ∧ stores (.st16 w) 2 ∧ stores (.st32 w) 4 ∧ stores (.st64 w) 8 ∧
    traps (.amo w) 8 ∧
    (a.toNat % 8 = 0 → a.toNat < 0x40000 → locTrap x a 8 = none →
      Completes (.amo w) s fun t => OnlyCore s t c ∧ (getCl t c).pc = x.pc + (if w.long then 16 else 8) ∧
        { getCl t c with pc := x.pc, loc := x.loc, regs := x.regs } = x ∧ SameRegsBut s t c w.xd ∧
        getX (getCl t c) w.xd = (if w.xd = 0 then 0 else locWord x a.toNat) ∧
        let new := amoVal w.ty.toNat (locWord x a.toNat) (getX x w.xb) (getX x w.xd)
        ∀ b, aget memDefault (getCl t c).loc b =
          if a.toNat ≤ b ∧ b < a.toNat + 8 then new.extractLsb' (8 * (b - a.toNat)) 8 else old b)

/-- R265, R279, R282, R288: a global store enters the store buffer; a load of bytes that the buffer does not hold is issued, and CORE_READ performs it;
DRAIN performs the oldest store once every earlier load has (R295); a global AMO performs as one step once every earlier access has; FENCE waits for the same. -/
def Obligations.CoreGlobalAccesses : Prop :=
  ∀ (w : CWord) (c : ClusterId) (s : State),
    let x := getCl s c
    let a := getX x w.xa + w.imm
    let at_ (n : Nat) (need : Need) (pa : Nat) : Prop :=
      CoreTurn s c w ∧ a.toNat % n = 0 ∧ 0x40000 ≤ a.toNat ∧ ∃ k, translate s c.die (coreTable x) x.ctx a need = .ok pa k none
    let stores (i : Instr) (n : Nat) : Prop := ∀ pa, at_ n .w pa → x.sb.length < 16 → Completes i s fun t => OnlyCore s t c ∧
      ∃ e, (getCl t c).sb = x.sb ++ [e] ∧ e.pa = pa ∧ e.bytes = bytesOf n (getX x w.xb).toNat ∧ (getCl t c).regs = x.regs ∧ (getCl t c).loads = x.loads
    let loads (i : Instr) (n : Nat) : Prop := ∀ pa, at_ n .r pa → (sbCover x.sb pa n).all (·.isNone) = true →
      Completes i s fun t => OnlyCore s t c ∧ ∃ k, (getCl t c).loads = x.loads ++ [⟨w.xd, pa, n, decide (w.ty = 0), x.ctx, k⟩] ∧
        (getCl t c).sb = x.sb ∧ (getCl t c).regs = x.regs
    loads (.ld8 w) 1 ∧ loads (.ld16 w) 2 ∧ loads (.ld32 w) 4 ∧ loads (.ld64 w) 8 ∧
    stores (.st8 w) 1 ∧ stores (.st16 w) 2 ∧ stores (.st32 w) 4 ∧ stores (.st64 w) 8 ∧
    (∀ pa, at_ 8 .rwa pa → x.sb = [] → x.loads = [] → isPoison s pa = false →
      Completes (.amo w) s fun t => t.tiles = s.tiles ∧ SameCoresBut s t (· = c) ∧
        (w.xd ≠ 0 → getX (getCl t c) w.xd = memWord s pa) ∧ SameRegsBut s t c w.xd ∧
        memWord t pa = amoVal w.ty.toNat (memWord s pa) (getX x w.xb) (getX x w.xd) ∧
        (∀ b, ¬ (pa ≤ b ∧ b < pa + 8) → memByte t b = memByte s b) ∧ t.full = s.full) ∧
    (CoreTurn s c w → if x.sb = [] ∧ x.loads = [] then
        Completes (.fence w) s fun t => CoreFrame s t c 0 ∧ (getCl t c).pc = x.pc + (if w.long then 16 else 8)
      else Waits (.fence w) s) ∧
    (∀ e rest, s.here = .core c → x.pstate = 0 → x.sb = e :: rest → (∀ p ∈ x.loads, e.seq ≤ p.seq) →
      Completes .drain s fun t => t.tiles = s.tiles ∧ SameCoresBut s t (· = c) ∧ getCl t c = { x with sb := rest } ∧ t.full = s.full ∧
        ∀ b, memByte t b = if e.pa ≤ b ∧ b < e.pa + e.bytes.length then e.bytes.getD (b - e.pa) 0 else memByte s b) ∧
    (∀ p rest, s.here = .core c → x.pstate = 0 → x.loads = p :: rest → isPoison s p.pa = false →
      Completes .coreRead s fun t => SameMem s t ∧ t.tiles = s.tiles ∧ SameCoresBut s t (· = c) ∧
        getCl t c = setX { x with loads := rest } p.xd (loadVal p.signed (memRead s p.pa p.size)))
/-! ## Events, delivered threads, barriers -/

/-- R134, R271, R273 to R275, R359: RECORD appends a record before which no raised one of its source, its firings or its launch's end stands, with the next SEQ and sets EF, or loses it where the queue has no room for its kind; EQLOST reports losses; EVPOP
copies the oldest record the core may see and removes it, or gives 0; EVWAIT and WFE return at once or wait; EVENT_WAKE and WAIT_TIMEOUT end the wait. -/
def Obligations.EventsAndWaits : Prop :=
  ∀ (w : CWord) (c : ClusterId) (s : State),
    let x := getCl s c
    let after := x.pc + (if w.long then 16 else 8)
    (∀ k r, s.here = .arrival c k → x.pend[k]? = some r → (∀ q ∈ x.pend.take k, keepOrder q r = false) → r.firing = 0 → x.losses = [] →
      reportHeld s c.die r = false →
      Completes .record s fun t => OnlyCore s t c ∧
        let rest := x.pend.take k ++ x.pend.drop (k + 1)
        if x.eq.length < (if 1 ≤ r.kind ∧ r.kind ≤ 0x1F then 960 else 1024) then
          getCl t c = { x with pend := rest, eq := x.eq ++ [{ r with seq := x.eqSeq.toNat, firing := 0, at_ := 0 }], eqSeq := x.eqSeq + 1, ef := true }
        else getCl t c = { x with pend := rest, losses := [(r.ctx, 1, word (2 ^ r.kind))] }) ∧
    (∀ ctx n m rest, s.here = .core c → x.losses = (ctx, n, m) :: rest → x.eq.length < 1024 →
      Completes .eqlost s fun t => OnlyCore s t c ∧ getCl t c =
        { x with losses := rest, eq := x.eq ++ [{ kind := 0x3F, ctx := ctx, p0 := word n, p1 := m, seq := x.eqSeq.toNat }], eqSeq := x.eqSeq + 1, ef := true }) ∧
    (CoreTurn s c w → (getX x w.xa + w.imm).toNat % 32 = 0 →
      (x.eq.find? (seesRec x) = none → Completes (.evpop w) s fun t => CoreFrame s t c w.xd ∧ (getCl t c).pc = after ∧ getX (getCl t c) w.xd = 0) ∧
      (∀ r, x.eq.find? (seesRec x) = some r → (getX x w.xa + w.imm).toNat < 0x40000 → locTrap x (getX x w.xa + w.imm) 32 = none →
        Completes (.evpop w) s fun t => OnlyCore s t c ∧ (getCl t c).pc = after ∧ (getCl t c).eq = x.eq.erase r ∧
          (w.xd ≠ 0 → getX (getCl t c) w.xd = word r.kind) ∧ SameRegsBut s t c w.xd ∧
          (∀ b, aget memDefault (getCl t c).loc b =
            let a := (getX x w.xa + w.imm).toNat
            if a ≤ b ∧ b < a + 32 then (recBytes r).getD (b - a) 0 else aget memDefault x.loc b))) ∧
    (CoreTurn s c w →
      (if 0 < (x.eq.filter (seesRec x)).length then
        Completes (.evwait w) s fun t => CoreFrame s t c w.xd ∧ (getCl t c).pc = after ∧
          (w.xd ≠ 0 → getX (getCl t c) w.xd = word (Min.min 1024 (x.eq.filter (seesRec x)).length))
       else Completes (.evwait w) s fun t => OnlyCore s t c ∧ getCl t c = { x with run := .evwait s.clock w.imm.toNat w.xd after }) ∧
      (if x.ef then Completes (.wfe w) s fun t => OnlyCore s t c ∧ getCl t c = { setX { x with ef := false } w.xd 1 with pc := after }
       else Completes (.wfe w) s fun t => OnlyCore s t c ∧ getCl t c = { x with run := .wfe s.clock w.imm.toNat w.xd after })) ∧
    (s.here = .core c → ∀ since limit xd dst,
      (x.run = .wfe since limit xd dst → x.ef = true → Completes .eventWake s fun t => OnlyCore s t c ∧
        getCl t c = setX { x with ef := false, run := .running, pc := dst } xd 1) ∧
      (x.run = .evwait since limit xd dst → 0 < (x.eq.filter (seesRec x)).length → Completes .eventWake s fun t => OnlyCore s t c ∧
        getCl t c = setX { x with run := .running, pc := dst } xd (word (Min.min 1024 (x.eq.filter (seesRec x)).length))) ∧
      (x.run = .wfe since limit xd dst → limit ≠ 0 → since + limit ≤ s.clock → x.ef = false → Completes .waitTimeout s fun t => OnlyCore s t c ∧
        getCl t c = setX { x with run := .running, pc := dst } xd 0) ∧
      (x.run = .evwait since limit xd dst → limit ≠ 0 → since + limit ≤ s.clock → (x.eq.filter (seesRec x)) = [] →
        Completes .waitTimeout s fun t => OnlyCore s t c ∧ getCl t c = setX { x with run := .running, pc := dst } xd 0))

/-- R269, R270, R283: THREAD_DELIVERY loads the delivered thread's registers, sets TD and takes the asynchronous trap; TREL ends the thread or lets it join the entry
queue of X[XB], and clears TD, or gives -1 where no thread is held; PHASE reads a launch's state, and YIELD makes its phase's decision. -/
def Obligations.DeliveredThreadsAndPhase : Prop :=
  ∀ (w : CWord) (c : ClusterId) (s : State),
    let x := getCl s c
    let after := x.pc + (if w.long then 16 else 8)
    (∀ v rest y t, s.here = .core c → x.deliveries = v :: rest → x.run ≠ .stopped → x.td = false → x.aie = true →
      findLaunch s v.launch = some y → findThread y v.thr = some t →
      Completes .threadDelivery s fun u => ∃ m, OnlyCore s m c ∧
        getCl m c = { x with deliveries := rest, held := some v, td := true, ttpc := t.pc, tt := (List.range 4).map fun i => (i, t.entered.getD i 0),
                             tthr := word (v.thr.toNat * 2 ^ 32 + v.launch.handle) } ∧
        TookTrap m u c v.cause (word v.launch.handle) true x.pc) ∧
    (CoreTurn s c w →
      (x.held = none ∨ x.td = false ∨ w.imm.getLsbD 0 = true ∧ (getX x w.xb).toNat % 64 ≠ 0 →
        Completes (.trel w) s fun t => CoreFrame s t c w.xd ∧ (getCl t c).pc = after ∧ (w.xd ≠ 0 → getX (getCl t c) w.xd = BitVec.allOnes 64)) ∧
      (∀ v y th, x.held = some v → x.td = true → findLaunch s v.launch = some y → findThread y v.thr = some th →
        (w.imm.getLsbD 0 = true → (getX x w.xb).toNat % 64 = 0 → Completes (.trel w) s fun t => SameMem s t ∧ t.tiles = s.tiles ∧
          SameCoresBut s t (· = c) ∧ SameLaunchesBut s t v.launch ∧ coreView (getCl t c) = coreView { setX { x with td := false, held := none } w.xd 0 with pc := after } ∧
          ∃ y' th', findLaunch t v.launch = some y' ∧ findThread y' v.thr = some th' ∧ th'.pc = getX x w.xb ∧ th'.st = .waiting ∧
            th'.t = (List.range 4).map fun i => aget 0 x.tt i) ∧
        (w.imm.getLsbD 0 = false → Completes (.trel w) s fun t => SameMem s t ∧ t.tiles = s.tiles ∧
          SameCoresBut s t (· = c) ∧ SameLaunchesBut s t v.launch ∧ coreView (getCl t c) = coreView { setX { x with td := false, held := none } w.xd 0 with pc := after } ∧
          ∃ y', findLaunch t v.launch = some y' ∧ ∀ th', findThread y' v.thr = some th' → th'.st = .ended)) ∧
      (∀ l y, myLaunch s c (getX x w.xa) = some (l, y) →
        Completes (.phase w) s fun t => SameMem s t ∧ t.tiles = s.tiles ∧ SameLaunchesBut s t l ∧ specialView (getCl t c) = specialView x ∧
          SameCoresBut s t (· = c) ∧ SameRegsBut s t c w.xd ∧ (getCl t c).pc = after ∧
          (w.xd ≠ 0 → getX (getCl t c) w.xd = word (y.phases % 2 ^ 15 * 2 ^ 48 + liveThreads y * 2 ^ 39 + (y.active.map Fin.val).getD 0 * 2 ^ 34 +
            phaseState y * 2 ^ 32 + Min.min (s.clock - y.phaseAt) (2 ^ 32 - 1))) ∧
          (w.imm.getLsbD 0 = false → t.launches = s.launches) ∧
          (w.imm.getLsbD 0 = true → y.st = .running → y.decided = false → findLaunch t l = some { y with dsel := some .yield, decided := true })))

/-- R277, R284: BARA arrives at its barrier without waiting and gives its episode; BARW says whether an episode has released; REGISTER registers an
arrival; RELEASE sets ARRIVED to 0, adds 1 to GEN and sets EF; BARRIER_REPORT counts at the home. -/
def Obligations.BarriersRelease : Prop :=
  (∀ (w : CWord) (c : ClusterId) (s : State), CoreTurn s c w →
    let x := getCl s c
    let after := x.pc + (if w.long then 16 else 8)
    let n := (getX x w.xb + w.imm).toNat
    let y := getBar x n
    (512 ≤ n → Completes (.bara w) s (fun t => TookTrap s t c 1 (wordC .bara w) false x.pc) ∧
      Completes (.barw w) s fun t => TookTrap s t c 1 (wordC .barw w) false x.pc) ∧
    (n < 512 → y.cfg.toNat % 65536 ≠ 0 → y.ctx = x.ctx → (∀ k ∈ y.counts.head?, k < y.cfg.toNat % 65536) →
      Completes (.bara w) s fun t => OnlyCore s t c ∧ (getCl t c).pc = after ∧ SameRegsBut s t c w.xd ∧
        (w.xd ≠ 0 → getX (getCl t c) w.xd = word (y.gen % 65536)) ∧
        (getBar (getCl t c) n).made = y.made ++ [⟨y.gen, s.seq, none, 0⟩] ∧ (getBar (getCl t c) n).arrived = y.arrived ∧
        ∀ b, b ≠ n → getBar (getCl t c) b = getBar x b) ∧
    (n < 512 → y.cfg.toNat % 65536 = 0 ∨ y.ctx ≠ x.ctx →
      Completes (.bara w) s fun t => OnlyCore s t c ∧ (getCl t c).pc = after ∧ SameRegsBut s t c w.xd ∧ (getCl t c).bars = x.bars ∧
        ∃ r, (getCl t c).pend = x.pend ++ [r] ∧ r.kind = 0x18 ∧ r.p0 = word n ∧ r.p1 = if y.cfg.toNat % 65536 = 0 then 0 else 1) ∧
    (n < 512 → Completes (.barw w) s fun t => CoreFrame s t c w.xd ∧ (getCl t c).pc = after ∧
      (w.xd ≠ 0 → getX (getCl t c) w.xd =
        let k := (BitVec.ofNat 16 y.gen - (getX x w.xa).extractLsb' 0 16).toNat
        if 0 < k ∧ k < 2 ^ 15 then 1 else 0))) ∧
  (∀ (c : ClusterId) (b : Fin 512) (s : State), s.here = .barrier c b →
    let x := getCl s c
    let y := getBar x b.val
    (∀ a rest, y.made = a :: rest → a.episode = y.gen → arrivalReady s c a = true →
      Completes .register s fun t => OnlyCore s t c ∧ getBar (getCl t c) b.val = { y with made := rest, arrived := y.arrived + 1 } ∧
        ∀ k, k ≠ b.val → getBar (getCl t c) k = getBar x k) ∧
    (y.cfg.toNat % 65536 ≠ 0 → y.arrived = y.cfg.toNat % 65536 →
      (y.cfg.getLsbD 60 = false → Completes .release s fun t => SameMem s t ∧ SameCoresBut s t (· = c) ∧ t.launches = s.launches ∧ (getCl t c).ef = true ∧
        let z := getBar (getCl t c) b.val
        z.arrived = 0 ∧ z.reports = 0 ∧ z.gen = y.gen + 1 ∧ z.cfg = y.cfg ∧ z.made = y.made) ∧
      (y.cfg.getLsbD 60 = true → y.sent = false → barHome y ≠ c →
        let h := barHome y
        let z := getBar (getCl s h) b.val
        z.cfg.getLsbD 60 = true → z.ctx = y.ctx → z.reports + 1 ≠ z.cfg.toNat / 2 ^ 43 % 2 ^ 9 →
        Completes .barrierReport s fun t => SameMem s t ∧ t.tiles = s.tiles ∧ SameCoresBut s t (fun k => k = c ∨ k = h) ∧
          (getBar (getCl t h) b.val).reports = z.reports + 1 ∧ (getBar (getCl t h) b.val).gen = z.gen ∧ (getBar (getCl t c) b.val).sent = true)))
/-! ## System registers -/

/-- R266, R267, R281 (that the registers of R426 to R429 are system-only, and that CYCLE stands still while the cluster's clocks do, is the model's choice,
log 53): CRD gives a register's value; CWR writes it; both wait until every earlier access of the core has performed. An unassigned number raises
ILLEGAL, a system-only register in tenant mode PRIV. What the core's own registers read as, and what a write leaves in them. -/
def Obligations.CoreReadsAndWritesRegisters : Prop :=
  ∀ (w : CWord) (c : ClusterId) (s : State), CoreTurn s c w →
    let x := getCl s c
    let after := x.pc + (if w.long then 16 else 8)
    let n := (getX x w.xb + w.imm).toNat
    let v := getX x w.xa
    (2 ^ 16 ≤ n ∨ regAssigned n = false →
      Completes (.crd w) s (fun t => TookTrap s t c 1 (wordC .crd w) false x.pc) ∧ Completes (.cwr w) s fun t => TookTrap s t c 1 (wordC .cwr w) false x.pc) ∧
    (regSys n = true → x.mode = false →
      Completes (.crd w) s (fun t => TookTrap s t c 4 (wordC .crd w) false x.pc) ∧ Completes (.cwr w) s fun t => TookTrap s t c 4 (wordC .cwr w) false x.pc) ∧
    (regAssigned n = true → regPriv x n = false → x.sb = [] → x.loads = [] →
      (Completes (.crd w) s fun t => CoreFrame s t c w.xd ∧ (getCl t c).pc = after ∧ (w.xd ≠ 0 →
        let r := getX (getCl t c) w.xd
        r = regRead s c n ∧ (n = 1 → (r.getLsbD 0 = x.mode ∧ r.getLsbD 1 = x.aie ∧ r.getLsbD 2 = x.thu ∧ r.getLsbD 3 = x.ths ∧ r.getLsbD 5 = x.paie ∧
          r.getLsbD 6 = x.td ∧ r.getLsbD 7 = x.ef)) ∧ (n = 2 → r = x.ctx.setWidth 64) ∧ (n = 5 → r = x.epcu) ∧ (n = 8 → r = x.tvecs) ∧ (n = 9 → r = x.epcs) ∧
          (n = 10 → r = x.causes) ∧ (n = 11 → r = x.tvals) ∧ (n = 12 → r = x.estats) ∧ (n = 16 → r = if x.pstate = 2 then 0 else word ((if x.pstate = 1 then x.idleAt else s.clock) - x.resetAt)) ∧
          (n = 0x220 → r = x.bktok.setWidth 64))) ∧
      (Completes (.cwr w) s fun t => t = setPc (regWrite s c n v) c after ∧
        (n = 1 → getCl t c = { x with aie := if v.getLsbD 4 then x.aie else v.getLsbD 1, pc := after } ∧ OnlyCore s t c) ∧
        (n = 8 → v.toNat % 8 = 0 → getCl t c = { x with tvecs := v, pc := after } ∧ OnlyCore s t c) ∧
        (n = 9 → getCl t c = { x with epcs := v, pc := after } ∧ OnlyCore s t c) ∧ (n = 12 → getCl t c = { x with estats := v, pc := after } ∧ OnlyCore s t c) ∧
        (n = 3 → x.mode = true → (getCl t c).tdeleg = v &&& ~~~0x3010 ∧ OnlyCore s t c) ∧ (n = 3 → x.mode = false → getCl t c = { x with pc := after }) ∧
        (n = 16 → getCl t c = { x with pc := after } ∧ OnlyCore s t c))) ∧
    (regAssigned n = true → regPriv x n = false → x.sb ≠ [] ∨ x.loads ≠ [] → Waits (.crd w) s ∧ Waits (.cwr w) s)

/-- R205, R206, R233, R236, R276, R305: what a write of RGEOM, RPTR, SLAREA, SWIN, BARCFG or a range entry leaves when it is accepted, and when not. -/
def Obligations.ClusterRegistersAreWritten : Prop :=
  ∀ (c : ClusterId) (reg : BitVec 16) (v : Word) (s : State), s.here = .register c reg v →
    let x := getCl s c
    let n := reg.toNat
    (0x200 ≤ n → n ≤ 0x21F → let k := (n - 0x200) / 2
      let tsz := v.toNat / 2 ^ 32 % 2 ^ 16
      let size := v.toNat / 2 ^ 16 % 2 ^ 16
      let base := v.toNat % 2 ^ 16
      let fits : Prop := v.toNat / 2 ^ 49 = 0 ∧ tsz ≠ 0 ∧ size ≠ 0 ∧ size % tsz = 0 ∧ base + size ≤ 32768
      (n % 2 = 0 → ringIdle x k = true → fits → Completes .rgeomWrite s fun t => OnlyCore s t c ∧ getRing (getCl t c) k =
        { getRing x k with few := v.getLsbD 48, tsz := tsz, size := size, base := base, head := 0, tail := 0 }) ∧
      (n % 2 = 0 → ringIdle x k = false ∨ ¬ fits → Completes .rgeomWrite s fun t => OnlyCore s t c ∧ getCl t c =
        { x with pend := x.pend ++ [{ kind := 0x10, ctx := x.ctx, p0 := word n, p1 := v }] }) ∧
      (n % 2 = 1 → v.getLsbD 32 = true → ringIdle x k = true → v.toNat / 2 ^ 33 = 0 → Completes .rptrClear s fun t => OnlyCore s t c ∧
        getRing (getCl t c) k = { getRing x k with head := 0, tail := 0 } ∧
        ∀ g, (getRing x k).base ≤ g → g < (getRing x k).base + (getRing x k).size → bufIsFull (getCl t c) (ringSpace k) g = false)) ∧
    (0x300 ≤ n → n ≤ 0x31F → let h := sliceOfCore s c (n - 0x300)
      (v.toNat / 2 ^ 12 = 0 → (getSlice s h).wins = [] → Completes .slareaWrite s fun t => SameMem s t ∧ t.tiles = s.tiles ∧ SameCores s t ∧
        (getSlice t h).smap = v.setWidth 12 ∧ ∀ g, g ≠ h → getSlice t g = getSlice s g) ∧
      (v.toNat / 2 ^ 12 ≠ 0 → Completes .slareaWrite s fun t => OnlyCore s t c ∧ t.slices = s.slices)) ∧
    (0x400 ≤ n → n ≤ 0x4FF → let h := sliceOfCore s c ((n - 0x400) / 8)
      let ubase := v.toNat / 2 ^ 52 % 16
      let usize := v.toNat / 2 ^ 48 % 16
      (v &&& ~~~0x00FF000000000000 = 0 → (getSlice s h).wins = [] → ubase ≤ 11 → ubase + usize ≤ 12 → (∀ u, ubase ≤ u → u < ubase + usize → (getSlice s h).smap.getLsbD u = true) →
        Completes .swinWrite s fun t => SameMem s t ∧ t.tiles = s.tiles ∧ SameCores s t ∧
          aget ({} : Window) (getSlice t h).wins (n % 8) = { ubase := ubase, usize := usize } ∧ ∀ g, g ≠ h → getSlice t g = getSlice s g) ∧
      (12 < ubase + usize → Completes .swinWrite s fun t => OnlyCore s t c ∧ t.slices = s.slices)) ∧
    (0x800 ≤ n → n ≤ 0x9FF → let b := n - 0x800
      let y := getBar x b
      let fits : Prop := y.arrived = 0 ∧ y.reports = 0 ∧ v.toNat / 2 ^ 16 % 2 ^ 27 = 0 ∧ 1 ≤ v.toNat / 2 ^ 61 ∧ v.toNat / 2 ^ 61 ≤ 5 ∧
        (v.getLsbD 60 = true → 1 ≤ v.toNat / 2 ^ 43 % 2 ^ 9 ∧ v.toNat / 2 ^ 43 % 2 ^ 9 ≤ 256)
      (fits → Completes .barcfgWrite s fun t => OnlyCore s t c ∧ getBar (getCl t c) b = { y with cfg := v, ctx := x.ctx }) ∧
      (¬ fits → Completes .barcfgWrite s fun t => OnlyCore s t c ∧ getBar (getCl t c) b = y ∧
        (getCl t c).pend = x.pend ++ [{ kind := 0x18, ctx := x.ctx, p0 := word b, p1 := 2 }])) ∧
    (0x100 ≤ n → n ≤ 0x1FF → let k := (n - 0x100) / 4
      let e := aget ({} : RangeEntry) x.ranges k
      (v.toNat % 2 ^ 16 = 0 → n % 4 = 1 → coreBits (aset x.ranges k { e with lim := v }) ≤ 32768 →
        Completes .rangeEntryWrite s fun t => OnlyCore s t c ∧ aget ({} : RangeEntry) (getCl t c).ranges k = { e with lim := v }) ∧
      (v.toNat % 2 ^ 16 ≠ 0 → n % 4 = 1 →
        Completes .rangeEntryWrite s fun t => OnlyCore s t c ∧ aget ({} : RangeEntry) (getCl t c).ranges k = { e with base := e.base &&& ~~~1 }))

/-- R5, R209, R212, R322, R323, R330, R427: writes of PRECT, PCTL and RKBASE, of MXMODE, of BKTOK by REGISTER_WRITE, and the power states of a cluster. That BKTOK
takes the low 32 bits of a value (log 81), and that CYCLE stands still in IDLE and counts anew from the return from OFF, which clears the core's registers
(log 53), are the model's choices. -/
def Obligations.DieRegistersAndPower : Prop :=
  (∀ (c : ClusterId) (reg : BitVec 16) (v : Word) (s : State), s.here = .register c reg v →
    let x := getCl s c
    let n := reg.toNat
    let y := getDie s c.die
    let p := (n - 0x500) / 4
    (0x500 ≤ n → n ≤ 0x53F →
      let part (i : Instr) (k : Nat) (rect ctl rank : Word) : Prop :=
        n % 4 = k → Completes i s fun t => SameMem s t ∧ t.tiles = s.tiles ∧ SameCores s t ∧ t.launches = s.launches ∧
          let z := getDie t c.die
          if partOk s c.die p rect ctl rank then aget 0 z.prect p = rect ∧ aget 0 z.pctl p = ctl ∧ aget 0 z.rkbase p = rank else t.dies = s.dies
      part .prectWrite 0 v (aget 0 y.pctl p) (aget 0 y.rkbase p) ∧ part .pctlWrite 1 (aget 0 y.prect p) v (aget 0 y.rkbase p) ∧
      part .rkbaseWrite 2 (aget 0 y.prect p) (aget 0 y.pctl p) v) ∧
    (n = 0x583 → v.toNat / 2 ^ 14 = 0 → v.toNat / 32 % 8 = 0 → v.toNat / 256 % 32 ≤ 16 → v.toNat % 32 ≤ 16 → (v.getLsbD 13 = false → v.toNat % 32 = 16) →
      Completes .mxmodeWrite s fun t => OnlyCore s t c ∧ (getCl t c).ownu = v.extractLsb' 8 5 ∧ (getCl t c).ownl = v.extractLsb' 0 5 ∧
        (getCl t c).split = if x.mqs.all (fun e => e.2.isEmpty) then v.getLsbD 13 else x.split) ∧
    (n = 0x220 → Completes .registerWrite s fun t => OnlyCore s t c ∧ getCl t c = { x with bktok := v.setWidth 32 })) ∧
  (∀ (c : ClusterId) (s : State), s.here = .core c →
    let x := getCl s c
    (Completes .pstateOn s fun t => OnlyCore s t c ∧ getCl t c =
      { x with pstate := 0, resetAt := if x.pstate = 2 then s.clock else if x.pstate = 1 then x.resetAt + (s.clock - x.idleAt) else x.resetAt }) ∧
    (clusterAllotted s c = false → x.run = .stopped →
      (Completes .pstateIdle s fun t => OnlyCore s t c ∧ getCl t c =
        { x with pstate := 1, resetAt := if x.pstate = 2 then s.clock else x.resetAt, idleAt := if x.pstate = 1 then x.idleAt else s.clock }) ∧
      Completes .pstateOff s fun t => SameMem s t ∧ SameCoresBut s t (· = c) ∧ t.launches = s.launches ∧ t.dies = s.dies ∧ SamePackage s t ∧
        (getCl t c).pstate = 2 ∧ (getCl t c).regs = [] ∧ (getCl t c).buf = [] ∧ (getCl t c).run = .stopped) ∧
    (clusterAllotted s c = true ∨ x.run ≠ .stopped → Waits .pstateIdle s ∧ Waits .pstateOff s))
/-! ## Posts of a core: launches, bindings, modules, engines, tables, observation -/

/-- R25 to R28, R171, R182, R183, R198, R199, R261, R296 (the order in which the statuses are tried is log 38, the handle's store as an ordinary one of the
core log 54, P's low 32 bits log 19): LAUNCH reads its record and the descriptors that it binds, from local memory or through the core's ranges. A misaligned
record, one out of range and a misaligned descriptor give -1, and a launch that is refused its status. A launch that nothing refuses gives its handle, which is also
written into the record, by a store of the core; it waits with its threads in the entry queue of ENTRY. A read that traps is taken as the trap; the core waits
for loads before a record outside local memory. -/
def Obligations.LaunchesAreAccepted : Prop :=
  ∀ (w : CWord) (c : ClusterId) (s s1 s2 : State) (ws : List Word) (r : LaunchRec) (ds : List (Nat × List Word)), CoreTurn s c w →
    let x := getCl s c
    let a := getX x w.xa
    let after := x.pc + (if w.long then 16 else 8)
    let binds := r.binds.zipIdx.map fun (b, p) => (p, b)
    let ask : Ask := { issuer := some c, near := c, sys := x.mode, ctx := x.ctx, ws := ws, place := getX x w.xb + w.imm, ports := portSetOf s2 c.die x, descs := ds }
    let refused (s' : State) (n : Nat) : Prop :=
      Completes (.launch w) s fun t => CoreFrame s' t c w.xd ∧ (getCl t c).pc = after ∧ (w.xd ≠ 0 → getX (getCl t c) w.xd = -(word n))
    let taken (t : State) : Prop := SameCoresBut s2 t (· = c) ∧ (getCl t c).pc = after ∧ SameRegsBut s2 t c w.xd ∧
      (w.xd ≠ 0 → getX (getCl t c) w.xd = word (nextLaunch s2 c.die).handle) ∧ LaunchMade s2 t ask r ∧ t.tiles = s2.tiles ∧
      ∀ b, ¬ (ctxAddr s2 c.die r.ctx ≤ b ∧ b < ctxAddr s2 c.die r.ctx + 8) → memByte t b = memByte s2 b
    (a.toNat % 64 ≠ 0 → refused s 1) ∧
    (a.toNat % 64 = 0 → readDesc c 4 a s = .wait → Waits (.launch w) s) ∧
    (∀ k va, a.toNat % 64 = 0 → readDesc c 4 a s = .trap k va s1 → k ≠ trSw → Completes (.launch w) s fun t => TookTrap s1 t c k va false x.pc) ∧
    (a.toNat % 64 = 0 → readDesc c 4 a s = .words ws s1 →
      (parseRecord ws = none → refused s1 1) ∧
      (parseRecord ws = some r → readBinds c binds s1 = .bad → refused s1 1) ∧
      (parseRecord ws = some r → readBinds c binds s1 = .got ds s2 →
        (∀ n, acceptLaunch s2 ask = .error n → refused s2 n) ∧
        (LaunchFits s2 ask r → (a + 0x38).toNat < 0x40000 → locTrap x (a + 0x38) 8 = none →
          Completes (.launch w) s fun t => taken t ∧ locWord (getCl t c) (a.toNat + 0x38) = word (nextLaunch s2 c.die).handle) ∧
        (LaunchFits s2 ask r → ∀ pa k, 0x40000 ≤ (a + 0x38).toNat → translate s2 c.die (coreTable x) x.ctx (a + 0x38) .w = .ok pa k none → x.sb.length < 16 →
          Completes (.launch w) s fun t => taken t ∧ (getCl t c).loc = (getCl s2 c).loc ∧
            ∃ e, (getCl t c).sb = (getCl s2 c).sb ++ [e] ∧ e.pa = pa ∧ e.bytes = bytesOf 8 (nextLaunch s2 c.die).handle)))

/-- R177 to R183, R189, R190, R198, R199, R257 to R261 (that CFGLD, RSW and DSELC give -1 to a launch without its region or an active plane is log 69, that SBIND
checks the record's CTX and writes it by a store of the core log 54): SBIND checks its descriptor and the record's context, and writes its address into the record; SCLOSE ends a binding; CFGLD appends a load of a
plane; RSW appends its commands to the region's pending ones; DSELC makes a decision; MODLD registers a module; MODUL sets it UNLOADING; CPF never writes a register. -/
def Obligations.ConfigurationPosts : Prop :=
  ∀ (w : CWord) (c : ClusterId) (s : State), CoreTurn s c w →
    let x := getCl s c
    let a := getX x w.xa
    let b := getX x w.xb
    let after := x.pc + (if w.long then 16 else 8)
    let gives (i : Instr) (v : Word) (q : State → Prop) : Prop :=
      Completes i s fun t => SameCoresBut s t (· = c) ∧ t.tiles = s.tiles ∧ SamePackage s t ∧ (getCl t c).pc = after ∧ SameRegsBut s t c w.xd ∧
        (w.xd ≠ 0 → getX (getCl t c) w.xd = v) ∧ q t
    let still (t : State) : Prop := SameMem s t ∧ t.launches = s.launches ∧ t.dies = s.dies ∧ specialView (getCl t c) = specialView x
    let onLaunch (t : State) (l : LaunchId) (y : Launch) : Prop :=
      SameMem s t ∧ SameLaunchesBut s t l ∧ findLaunch t l = some y ∧ specialView (getCl t c) = specialView x
    (myLaunch s c a = none → gives (.sclose w) (-3) still ∧ gives (.cfgld w) (-3) still ∧ gives (.rsw w) (-3) still ∧ gives (.dselc w) (-3) still) ∧
    (∀ l y, myLaunch s c a = some (l, y) →
      (let p := w.imm.toNat % 16
       if (getStream y p).words = [] then gives (.sclose w) (-1) still
       else gives (.sclose w) 0 fun t => ∃ y', onLaunch t l y' ∧ getStream y' p = { getStream y p with closed := true }) ∧
      (if y.corner = none then gives (.cfgld w) (-1) still
       else gives (.cfgld w) 0 fun t => ∃ ld, onLaunch t l { y with loads := y.loads ++ [ld] } ∧ ld.pc = b ∧ ld.plane = Fin.ofNat 4 w.imm.toNat ∧
         ld.deferred = decide (y.active = some (Fin.ofNat 4 w.imm.toNat))) ∧
      (∀ p, y.active = some p → y.decided = false → Fin.ofNat 4 w.imm.toNat ≠ p → (getPlane y (w.imm.toNat % 4)).st ≠ .invalid →
        gives (.dselc w) 0 fun t => onLaunch t l { y with dsel := some (.plane (Fin.ofNat 4 w.imm.toNat)), decided := true }) ∧
      (y.active = none → gives (.rsw w) (-1) still ∧ gives (.dselc w) (-1) still) ∧
      (∀ p i j fn v, y.active = some p → w.imm.getLsbD 1 = false → rswCmd (b.setWidth 32) = some (i, j, fn, v) →
        (¬ (i < (getPlane y p.val).fh ∧ j < (getPlane y p.val).fw) → gives (.rsw w) (-1) still) ∧
        (i < (getPlane y p.val).fh → j < (getPlane y p.val).fw → y.rsws = [] →
          (∀ e ∈ copyTiles l y (getPlane y p.val).fh (getPlane y p.val).fw, ∀ f : List (Nat × Nat × BitVec 16),
            (∀ g ∈ f, g.2 = (fn, v)) → boxesOk (withFields (getTile s e.1) p.val (tileKey e.1) f) p.val = true) →
          gives (.rsw w) 0 fun t => ∃ cmds, onLaunch t l { y with rsws := [⟨w.imm.getLsbD 0, p, cmds⟩] } ∧ ∀ g ∈ cmds, g.2 = (fn, v)))) ∧
    (a.toNat % 64 ≠ 0 → gives (.sbind w) (-1) still ∧ gives (.modld w) (-1) still) ∧
    (∀ ws rs, a.toNat % 64 = 0 → readDesc c 1 a s = .words ws s →
      let port := (ws.getD 3 0).toNat / 256 % 16
      let at_ := b + word (0x80 + 8 * port)
      (b.toNat % 64 ≠ 0 ∨ descOk port ws = false → gives (.sbind w) (-1) still) ∧
      (b.toNat % 64 = 0 → descOk port ws = true → readDesc c 1 b s = .words rs s →
        (x.mode = false → (rs.getD 2 0).extractLsb' 40 12 ≠ x.ctx → gives (.sbind w) (-3) still) ∧
        (x.mode = true ∨ (rs.getD 2 0).extractLsb' 40 12 = x.ctx → at_.toNat < 0x40000 → locTrap x at_ 8 = none →
          gives (.sbind w) 0 fun t => SameMem s t ∧ t.launches = s.launches ∧ locWord (getCl t c) at_.toNat = a)) ∧
      (x.sb = [] → parseModule ws = none → gives (.modld w) (-1) still) ∧
      (∀ base size k, x.sb = [] → parseModule ws = some (base, size, false) → (∀ e ∈ (getDie s c.die).modules, e.2.st = 0) →
        (List.range 256).find? (fun k => decide ((aget ({} : Module) (getDie s c.die).modules k).st = 0)) = some k →
        let gen := (aget ({} : Module) (getDie s c.die).modules k).gen + 1
        gen ≠ 0 → Completes (.modld w) s fun t => SameMem s t ∧ t.launches = s.launches ∧ t.tiles = s.tiles ∧ (getCl t c).pc = after ∧ SameRegsBut s t c w.xd ∧
          (w.xd ≠ 0 → getX (getCl t c) w.xd = word (k * 65536 + gen.toNat)) ∧
          aget ({} : Module) (getDie t c.die).modules k = { st := modLoaded, gen := gen, ctx := x.ctx, base := base, size := size, cl := c.lcl })) ∧
    (modOf (getDie s c.die) a = none → gives (.modul w) (-3) still) ∧
    (∀ k m, modOf (getDie s c.die) a = some (k, m) → x.mode = true ∨ m.ctx = x.ctx → if m.st = modUnloading then gives (.modul w) (-4) still
      else gives (.modul w) 0 fun t => SameMem s t ∧ t.launches = s.launches ∧ aget ({} : Module) (getDie t c.die).modules k = { m with st := modUnloading }) ∧
    Completes (.cpf w) s fun t => (getCl t c).regs = x.regs ∧ (getCl t c).pc = after ∧ t.tiles = s.tiles ∧ t.launches = s.launches

/-- R198, R227, R296, R391, R395 to R397, R433 (that a NEPOST to an endpoint whose V is 0 gives -3 is the model's choice, log 63): CPYPOST, COLPOST and NEPOST read their descriptor from local memory or through the core's ranges; they refuse a bad one with
-1, one whose ranges the core's entries do not cover with -3, a collective of other members with -2, and -5 when their queue is full, and otherwise put it at the
end of the queue and give its number; NEPOST gives -5 while the engine is off; NEPOLL tells how a work request stands. -/
def Obligations.EnginePosts : Prop :=
  ∀ (w : CWord) (c : ClusterId) (s s1 : State) (ws : List Word), CoreTurn s c w →
    let x := getCl s c
    let a := getX x w.xa
    let after := x.pc + (if w.long then 16 else 8)
    let y := getDie s1 c.die
    let gives (i : Instr) (s' : State) (v : Word) (q : State → Prop) : Prop :=
      Completes i s fun t => SameMem s' t ∧ SameCoresBut s' t (· = c) ∧ t.tiles = s'.tiles ∧ t.launches = s'.launches ∧ SamePackage s' t ∧ (getCl t c).pc = after ∧
        SameRegsBut s' t c w.xd ∧ (w.xd ≠ 0 → getX (getCl t c) w.xd = v) ∧ q t
    let still (s' t : State) : Prop := t.dies = s'.dies ∧ (getCl t c).copy = (getCl s' c).copy
    let joins (e : EngineId) (t : State) : Prop :=
      (getEngine t e).queue = (getEngine s1 e).queue ++ [{ num := (getEngine s1 e).next, words := ws, core := c, ctx := x.ctx }] ∧
      (getEngine t e).next = (getEngine s1 e).next + 1
    let covered (va : Word) : Prop := coreCovers x va = true
    let cntOk (va : Word) : Prop := va = 0 ∨ covered va
    let on : Prop := (getDie s c.die).nectl.getLsbD 63 = true
    (¬ on → gives (.nepost w) s (-5) (still s)) ∧
    (a.toNat % 64 ≠ 0 → gives (.cpypost w) s (-1) (still s) ∧ gives (.colpost w) s (-1) (still s) ∧ (on → gives (.nepost w) s (-1) (still s))) ∧
    (a.toNat % 64 = 0 → readDesc c 1 a s = .wait → Waits (.cpypost w) s ∧ Waits (.colpost w) s ∧ (on → Waits (.nepost w) s)) ∧
    (a.toNat % 64 = 0 → readDesc c 1 a s = .words ws s1 →
      -- CPYPOST
      (copyFieldsOk x ws = false → gives (.cpypost w) s1 (-1) (still s1)) ∧
      (let ok : Prop := cntOk (ws.getD 4 0) ∧ covered (ws.getD 0 0) ∧ ((ws.getD 3 0).toNat / 2 ^ 12 % 16 = 0 → covered (ws.getD 1 0))
       (copyFieldsOk x ws = true → ¬ ok → gives (.cpypost w) s1 (-3) (still s1)) ∧
       (copyFieldsOk x ws = true → ok → 32 ≤ (getEngine s1 (.copy c)).queue.length → gives (.cpypost w) s1 (-5) (still s1)) ∧
       (copyFieldsOk x ws = true → ok → (getEngine s1 (.copy c)).queue.length < 32 →
         gives (.cpypost w) s1 (word (getEngine s1 (.copy c)).next) (joins (.copy c)))) ∧
      -- COLPOST
      (let tr : Transfer := { num := 0, words := ws, core := c, ctx := x.ctx }
       let ok : Prop := cntOk (ws.getD 5 0) ∧ covered (ws.getD 0 0) ∧ covered (ws.getD 1 0)
       let e : EngineId := .collective c.die
       (colFieldsOk s1 c.die x.ctx ws = false → gives (.colpost w) s1 (-1) (still s1)) ∧
       (colFieldsOk s1 c.die x.ctx ws = true →
         (colMembers s1 c.die x.ctx (colRanks tr) = none → gives (.colpost w) s1 (-2) (still s1)) ∧
         ∀ ms, colMembers s1 c.die x.ctx (colRanks tr) = some ms →
           (ms[colMe tr]? ≠ some (Config.deviceNumber.toNat, c.die) → gives (.colpost w) s1 (-2) (still s1)) ∧
           (ms[colMe tr]? = some (Config.deviceNumber.toNat, c.die) → ¬ ok → gives (.colpost w) s1 (-3) (still s1)) ∧
           (ms[colMe tr]? = some (Config.deviceNumber.toNat, c.die) → ok → 32 ≤ (getEngine s1 e).queue.length → gives (.colpost w) s1 (-5) (still s1)) ∧
           (ms[colMe tr]? = some (Config.deviceNumber.toNat, c.die) → ok → (getEngine s1 e).queue.length < 32 →
             gives (.colpost w) s1 (word (getEngine s1 e).next) (joins e)))) ∧
      -- NEPOST
      (let ep := (ws.getD 3 0).toNat / 2 ^ 32 % 256
       let ok : Prop := wbit (epWord s1 c.die ep 0) 63 = true ∧ epCtx s1 c.die ep = x.ctx ∧ cntOk (ws.getD 4 0) ∧ covered (ws.getD 0 0)
       (on → wrFieldsOk y ws = false → gives (.nepost w) s1 (-1) (still s1)) ∧
       (on → wrFieldsOk y ws = true → ¬ ok → gives (.nepost w) s1 (-3) (still s1)) ∧
       (on → wrFieldsOk y ws = true → ok → 256 ≤ y.wreqs.length → gives (.nepost w) s1 (-5) (still s1)) ∧
       (on → wrFieldsOk y ws = true → ok → y.wreqs.length < 256 → gives (.nepost w) s1 (word y.nextWr) fun t =>
         (getDie t c.die).wreqs = y.wreqs ++ [{ num := y.nextWr, words := ws, core := c, ctx := x.ctx }] ∧ (getDie t c.die).nextWr = y.nextWr + 1))) ∧
    -- NEPOLL
    (let z := getDie s c.die
     let mine : Prop := ∃ q ∈ z.wreqs, q.num = a.toNat ∧ q.ctx = x.ctx
     let done := z.completed.find? fun q => q.1 = a.toNat && q.2.1 = x.ctx
     (mine → gives (.nepoll w) s 0 (still s)) ∧
     (¬ mine → done = none → gives (.nepoll w) s (-1) (still s)) ∧
     (∀ n ctx st, ¬ mine → done = some (n, ctx, st) → gives (.nepoll w) s (word (0x100 + st)) (still s)))

/-! ## Range entries, shoot-downs, residency, tiers -/

/-- R315 to R320, R371 to R377: RINV refuses a bad operand and a fifth shoot-down, and otherwise invalidates, updates or fails, giving its sequence number; shoot-downs
complete in order once no earlier access can still use the old value; RESID counts resident pages and leaves its hint; a gate that is met lets its launch go on; a
promotion and a demotion move a page (whether a transfer with a peer or host ends in error is a free value, log 52; RINV changes the port copies when it is issued, log 49; the gate may be met before the launch's turn, log 50), and a frame whose page software has made far is free (R369). -/
def Obligations.RangesAndResidency : Prop :=
  (∀ (w : CWord) (c : ClusterId) (s : State), CoreTurn s c w →
    let x := getCl s c
    let b := getX x w.xb + w.imm
    let after := x.pc + (if w.long then 16 else 8)
    let still (i : Instr) (v : Word) : Prop := Completes i s fun t => CoreFrame s t c w.xd ∧ (getCl t c).pc = after ∧ (w.xd ≠ 0 → getX (getCl t c) w.xd = v)
    (x.mode = false → Completes (.rinv w) s fun t => TookTrap s t c 4 (wordC .rinv w) false x.pc) ∧
    (x.mode = true →
      let mode := b.toNat / 256 % 4
      let req := b.toNat / 2 ^ 16 % 256
      let e := b.toNat % 64
      let legal : Prop := b.toNat / 2 ^ 24 = 0 ∧ b.toNat / 2 ^ 10 % 64 = 0 ∧ b.toNat / 64 % 4 = 0 ∧ mode ≠ 3 ∧ (if mode = 2 then e = 0 else req = 0)
      let ent := aget ({} : RangeEntry) x.ranges e
      let accepted (q : State → Prop) : Prop := Completes (.rinv w) s fun t => (getCl t c).pc = after ∧ SameRegsBut s t c w.xd ∧
        (w.xd ≠ 0 → getX (getCl t c) w.xd = word x.nextShoot) ∧ (getCl t c).nextShoot = x.nextShoot + 1 ∧ (getCl t c).shoots.length = x.shoots.length + 1 ∧ q t
      let spread (t : State) (new : RangeEntry) : Prop :=
        ∀ l y u, (l, y) ∈ launchesOf s c.die → y.issuer = some c → u ∈ regionTiles l y → ∀ k ∈ (getTile t u).port.entries, k.src = e → k.entry = new
      (¬ legal → still (.rinv w) (-1)) ∧
      (legal → 4 ≤ x.shoots.length → still (.rinv w) (-5)) ∧
      (legal → x.shoots.length < 4 →
        (mode = 0 → accepted fun t => aget ({} : RangeEntry) (getCl t c).ranges e = { ent with base := ent.base &&& ~~~1 } ∧
          (∀ k, k ≠ e → aget ({} : RangeEntry) (getCl t c).ranges k = aget ({} : RangeEntry) x.ranges k) ∧ spread t { ent with base := ent.base &&& ~~~1 } ∧
          ∀ l y z, (l, y) ∈ launchesOf s c.die → y.issuer = some c → findLaunch t l = some z → ∀ k ∈ z.portSet, k.src ≠ e) ∧
        (mode = 1 → ent.pa.toNat / 2 ^ 52 % 256 = (ctxGen s c.die (ent.pa.extractLsb' 40 12)).toNat → (getDie s c.die).reqs = [] → accepted fun t =>
          (getCl t c).ranges = x.ranges ∧ (getCl t c).late = x.late ∧ spread t ent) ∧
        (mode = 1 → ent.pa.toNat / 2 ^ 52 % 256 ≠ (ctxGen s c.die (ent.pa.extractLsb' 40 12)).toNat → accepted fun t => (getCl t c).ranges = x.ranges ∧
          (getCl t c).late = min 65535 (x.late + 1) ∧ t.tiles = s.tiles ∧ t.launches = s.launches) ∧
        (mode = 2 → afind (getDie s c.die).reqs req = none → accepted fun t => (getCl t c).ranges = x.ranges ∧
          (getCl t c).late = min 65535 (x.late + 1) ∧ t.tiles = s.tiles ∧ t.launches = s.launches))) ∧
    (let va := getX x w.xa
     let n := (getX x w.xb).toNat
     let mode := w.imm.toNat % 4
     (mode = 3 → Completes (.resid w) s fun t => TookTrap s t c 1 (wordC .resid w) false x.pc) ∧
     (mode ≠ 3 → rangeFor (coreTable x) x.ctx va = none → still (.resid w) (-3)) ∧
     (∀ k ent, mode ≠ 3 → rangeFor (coreTable x) x.ctx va = some (k, ent) →
       let within : Prop := 1 ≤ n ∧ n ≤ 65536 ∧ va.toNat / 2 ^ 16 + n - 1 ≤ ent.lim.toNat / 2 ^ 16
       let first := ent.vo.toNat % 65536 + (va.toNat / 2 ^ 16 - ent.base.toNat / 2 ^ 16)
       let count := ((List.range n).filter fun i => isResident s c.die x.ctx (first + i)).length
       (¬ within → still (.resid w) (-1)) ∧
       (within → ent.base.getLsbD 5 = true → still (.resid w) (word n)) ∧
       (within → ent.base.getLsbD 5 = false → mode = 0 → still (.resid w) (word count)) ∧
       (within → ent.base.getLsbD 5 = false → mode ≠ 0 → Completes (.resid w) s fun t => (getCl t c).pc = after ∧ SameRegsBut s t c w.xd ∧
         t.tiles = s.tiles ∧ t.launches = s.launches ∧ SameCoresBut s t (· = c) ∧ (w.xd ≠ 0 → getX (getCl t c) w.xd = word count) ∧
         (let map := mapAddr s c.die x.ctx + first
          let desc := tierAddr s c.die x.ctx
          (getDie s c.die).tierbase.getLsbD 63 = true → map + n ≤ desc ∨ desc + 64 ≤ map → ∀ i, i < n → first + i < mapPages s c.die x.ctx →
            memByte t (map + i) = if mode = 1 then memByte s (map + i) ||| 2 else (memByte s (map + i) &&& 0x1D) ||| 0x10))))) ∧
  (∀ (c : ClusterId) (s : State) (y : Shoot) (rest : List Shoot), s.here = .core c → (getCl s c).shoots = y :: rest →
    (shootWaits s c y.before = true → Waits .shootdownComplete s) ∧
    (shootWaits s c y.before = false → Completes .shootdownComplete s fun t => OnlyCore s t c ∧
      getCl t c = { getCl s c with shoots := rest, done := BitVec.ofNat 32 y.num })) ∧
  (∀ (l : LaunchId) (s : State) (x : Launch), s.here = .launch l → findLaunch s l = some x → x.st = .waiting → x.gateOk = false →
    (gateMet s l.die x.lr.ctx x.lr.resmin = false → Waits .residencyGateMet s) ∧
    (gateMet s l.die x.lr.ctx x.lr.resmin = true → Completes .residencyGateMet s fun t => SameMem s t ∧ t.tiles = s.tiles ∧ SameLaunchesBut s t l ∧
      findLaunch t l = some { x with gateOk := true })) ∧
  (∀ (d : Fin 4) (k : Nat) (s : State) (m : TierMove), s.here = .item d k → (getDie s d).moves[k]? = some m →
    let x := getDie s d
    let p := ctxPart s d m.ctx
    let dev (peer : Nat) := peer / 4
    -- the move has left the table, the memory and the registers of every core unchanged but for what is said
    let ends (t : State) : Prop := t.tiles = s.tiles ∧ SameCores s t ∧ t.launches = s.launches ∧ (getDie t d).moves = x.moves.eraseIdx k
    -- a request for every granule of the page has gone to the peer, or waits for room, at the first port that reaches it and passes the key
    let asks (t : State) (peer : Nat) (body : Nat → FlitBody) : Prop := t.mem = s.mem ∧ t.tiles = s.tiles ∧ SameCores s t ∧ t.launches = s.launches ∧
      ∃ q ∈ waysTo s d (dev peer), keyPasses x (ctxKey s d m.ctx) q.val = true ∧ ∀ g, g < 1024 →
        ∃ f ∈ (getYl t d q).sent ++ (getYl t d q).waiting, f.dev = dev peer ∧ f.die = Fin.ofNat 4 peer ∧ f.body = body g
    -- PROMOTION
    (m.up = true → m.away = none → (∀ n ∈ x.moves.take k, ¬ (n.ctx = m.ctx ∧ n.idx = m.idx)) → moveWanted s d m = true →
      isResident s d m.ctx m.idx = true → m.req = none → (∀ e, m.party ≠ .core e) →
      Completes .promotion s fun t => t.mem = s.mem ∧ ends t ∧ ∀ f ∈ staleFrames s d, ∀ e, (f.1, e) ∉ (getDie t d).frames) ∧
    (let up (frame : Nat) (bytes : Nat → Byte) (full : Nat → Bool) (t : State) : Prop := ends t ∧
       aget 0 (getDie t d).used p = aget 0 x.used p + 1 ∧ (∀ i, i < 65536 → memByte t (frame * 65536 + i) = bytes i) ∧
       memByte t (mapAddr s d m.ctx + m.idx) = (memByte s (mapAddr s d m.ctx + m.idx) &&& 6) ||| 1 ∧
       ∀ g, g < 1024 → isFull t (frame * 65536 + 64 * g) = full g ∧ isPoison t (frame * 65536 + 64 * g) = false
     let clear (frame : Nat) : Prop :=
       let desc := tierAddr s d m.ctx
       let map := mapAddr s d m.ctx + m.idx
       let page := frame * 65536
       (desc + 64 ≤ page ∨ page + 65536 ≤ desc) ∧ (map < page ∨ page + 65536 ≤ map)
     m.up = true → m.req = none → staleFrames s d = [] → parkedAll s = [] →
     (m.away = none → (∀ n ∈ x.moves.take k, ¬ (n.ctx = m.ctx ∧ n.idx = m.idx)) → moveWanted s d m = true → isResident s d m.ctx m.idx = false →
       gateTurn s d k m = true → wantsVictim s d k m = false → 0 < (if m.asked then freePages s d p else looseFor s d p k) → movesBusy x < 8 →
       ∀ far frame va, farPlace s d m.ctx m.idx = some far → frameOf s d m.ctx m.idx = some (frame, va) → afind x.frames frame = none →
         (∀ n ∈ x.moves, n.up = true → n.away.isSome = true → n.frame ≠ frame) →
         (∀ pa, far = .own pa → clear frame → Completes .promotion s (up frame (fun i => memByte s (pa + i)) fun g => isFull s (pa + 64 * g))) ∧
         (∀ peer a, far = .away 1 peer a → Completes .promotion s fun t =>
           if Config.farFails 1 peer s.free then t.mem = s.mem ∧ t.tiles = s.tiles ∧ SameCores s t ∧ (getDie t d).moves = x.moves.eraseIdx k
           else asks t peer (fun g => .readRequest (moveId m g) Config.deviceNumber.toNat d (a + 64 * g)) ∧
             (getDie t d).moves = x.moves.set k { m with away := some (peer, a, List.range 1024), frame := frame })) ∧
     (∀ peer a, m.away = some (peer, a, []) → clear m.frame → Completes .promotion s
       (up m.frame (fun i => (afind s.far (farKey 1 peer (a + i))).getD (Config.farByte 1 peer (a + i)))
         fun g => (afind s.farFull (farKey 1 peer (a + 64 * g) / 64)).getD (Config.farGranFull 1 peer (a + 64 * g))))) ∧
    -- DEMOTION
    (m.up = false → m.withdrawn = false → (∀ n ∈ x.moves.take k, ¬ (n.ctx = m.ctx ∧ n.idx = m.idx)) →
      (∀ n ∈ x.moves.take k, n.up = false → n.withdrawn = false → n.forCtx ≠ m.forCtx) → movesBusy x < 8 → isResident s d m.ctx m.idx = true →
      Completes .demotion s fun t => t.tiles = s.tiles ∧ SameCores s t ∧ t.launches = s.launches ∧
        (getDie t d).moves = x.moves.set k { m with withdrawn := true } ∧
        memByte t (mapAddr s d m.ctx + m.idx) = (resByte s d m.ctx m.idx &&& 0x16) ||| 8) ∧
    (m.up = false → m.withdrawn = true → frameBusy s m.frame = true → Waits .demotion s) ∧
    (m.up = false → m.withdrawn = true → frameBusy s m.frame = false →
      let fails (t : State) : Prop := ends t ∧ (getDie t d).barred = (m.ctx, m.idx) :: x.barred ∧ t.far = s.far ∧
        memByte t (mapAddr s d m.ctx + m.idx) = (resByte s d m.ctx m.idx &&& 0x16) ||| 1
      let down (kind peer a : Nat) (t : State) : Prop := ends t ∧ afind (getDie t d).frames m.frame = none ∧
        memByte t (mapAddr s d m.ctx + m.idx) = resByte s d m.ctx m.idx &&& 0x16 ∧
        ∀ i, i < 65536 → afind t.far (farKey kind peer (a + i)) = some (memByte s (m.frame * 65536 + i))
      (m.away = none →
        (farPlace s d m.ctx m.idx = none → Completes .demotion s fails) ∧
        (∀ peer a, farPlace s d m.ctx m.idx = some (.away 2 peer a) → Completes .demotion s fun t =>
          if Config.farFails 2 peer s.free then fails t else down 2 peer a t) ∧
        (∀ peer a, farPlace s d m.ctx m.idx = some (.away 1 peer a) → Completes .demotion s fun t =>
          if Config.farFails 1 peer s.free then fails t
          else asks t peer (fun g => .writeRequest (moveId m g) Config.deviceNumber.toNat d (a + 64 * g) (memRead s (m.frame * 65536 + 64 * g) 64)
              (isFull s (m.frame * 65536 + 64 * g))) ∧
            (getDie t d).moves = x.moves.set k { m with away := some (peer, a, List.range 1024) })) ∧
      (∀ peer a, m.away = some (peer, a, []) → Completes .demotion s (down 1 peer a))))

/-! ## The Belvedere: counters, leases, breakpoints, cuts -/

/-- R344 to R349, R353 to R357: CTRSEL, CTRRD, BPSET and MCUT give their status or value; leases are granted, lost and released, each clearing the
resource; a tile of a cut records what it holds and sends its markers; a cut that every tile has completed writes its dump and its record, and leaves a
region halted that a STOP cut stopped, but not in a watchdog's drain (R357). The model's own: a tenant's request is lost at once in the cycle in which the
hypervisor took a free resource, and a repeated request clears for the hypervisor and changes nothing for a tenant that holds (log 51); a dump goes through
the table of the launch's home cluster under the launch's CTX (logs 36 and 47), in the layout of log 17; a plane switch begins at the choice of the next
block (log 92). -/
def Obligations.ObservationResources : Prop :=
  (∀ (w : CWord) (c : ClusterId) (s : State), CoreTurn s c w →
    let x := getCl s c
    let a := getX x w.xa
    let n := (getX x w.xb + w.imm).toNat
    let after := x.pc + (if w.long then 16 else 8)
    let still (i : Instr) (v : Word) : Prop := Completes i s fun t => CoreFrame s t c w.xd ∧ (getCl t c).pc = after ∧ (w.xd ≠ 0 → getX (getCl t c) w.xd = v)
    let gives (i : Instr) (q : State → Prop) : Prop := Completes i s fun t => SameMem s t ∧ SameCoresBut s t (· = c) ∧ t.dies = s.dies ∧ SamePackage s t ∧
      (getCl t c).pc = after ∧ SameRegsBut s t c w.xd ∧ (w.xd ≠ 0 → getX (getCl t c) w.xd = 0) ∧ q t
    let ctr := aget ({} : Ctr) x.ctrs n
    let event (z : Word) : Nat := z.toNat / 2 ^ 48 % 256
    let free : Bool := x.mode || eventAllowed x (ctxPart s c.die x.ctx) (event a)
    (32 ≤ n → Completes (.ctrsel w) s (fun t => TookTrap s t c 1 (wordC .ctrsel w) false x.pc) ∧
      Completes (.ctrrd w) s fun t => TookTrap s t c 1 (wordC .ctrrd w) false x.pc) ∧
    (n < 32 → selOk s c a = false → still (.ctrsel w) (-1)) ∧
    (n < 32 → selOk s c a = true → holdsLease x (n / 8) = false → x.mode = false → still (.ctrsel w) (-3)) ∧
    (n < 32 → selOk s c a = true → holdsLease x (n / 8) = true → free = false → (aget 0 x.gvctl (ctxPart s c.die x.ctx)).getLsbD 0 = true →
      Completes (.ctrsel w) s fun t => TookTrap s t c 4 (wordC .ctrsel w) false x.pc) ∧
    (n < 32 → selOk s c a = true → holdsLease x (n / 8) = true → free = true ∨ (aget 0 x.gvctl (ctxPart s c.die x.ctx)).getLsbD 0 = false →
      gives (.ctrsel w) fun t => t.tiles = s.tiles ∧ t.launches = s.launches ∧ aget ({} : Ctr) (getCl t c).ctrs n = { sel := a, disallowed := !free, since := s.clock } ∧
        ∀ m, m ≠ n → aget ({} : Ctr) (getCl t c).ctrs m = aget ({} : Ctr) x.ctrs m) ∧
    (n < 32 → selOk s c a = true → holdsLease x (n / 8) = false → x.mode = true →
      gives (.ctrsel w) fun t => t.tiles = s.tiles ∧ t.launches = s.launches ∧ aget ({} : Ctr) (getCl t c).ctrs n = { sel := a, disallowed := false, since := s.clock } ∧
        holdsLease (getCl t c) (n / 8) = true) ∧
    (n < 32 → lostLease x (n / 8) = true → still (.ctrrd w) (word (2 ^ 63))) ∧
    (n < 32 → lostLease x (n / 8) = false → holdsLease x (n / 8) = false → x.mode = false → Completes (.ctrrd w) s fun t => CoreFrame s t c w.xd ∧ (getCl t c).pc = after) ∧
    (n < 32 → lostLease x (n / 8) = false → x.mode = true ∨ holdsLease x (n / 8) = true → still (.ctrrd w)
      (let absent := (eventFilt (event ctr.sel)).isNone
       if absent = true ∨ ctr.disallowed = true then word ((if absent then 2 ^ 62 else 0) + if ctr.disallowed then 2 ^ 61 else 0)
       else word (ctr.val + if ctr.ovf then 2 ^ 60 else 0))) ∧
    (4 ≤ n → Completes (.bpset w) s fun t => TookTrap s t c 1 (wordC .bpset w) false x.pc) ∧
    (let fits : Prop := a.toNat / 2 ^ 48 % 2 ^ 14 = 0 ∧ a.toNat / 2 ^ 34 % 4 ≠ 3
     (n < 4 → ¬ fits → still (.bpset w) (-1)) ∧
     (n < 4 → fits → holdsLease x (6 + n) = false → still (.bpset w) (-3)) ∧
     (n < 4 → fits → holdsLease x (6 + n) = true → gives (.bpset w) fun t => t.tiles = s.tiles ∧ t.launches = s.launches ∧
       aget ({} : Bp) (getCl t c).bps n = { aget ({} : Bp) x.bps n with spec := a, hit := false })) ∧
    (let mode := w.imm.toNat / 2 ^ 16 % 4
     let limit := w.imm.toNat / 2 ^ 24 % 256
     let area := getX x w.xb
     let fits : Prop := if mode = 2 then area = 0 ∧ limit = 0 else limit ≠ 0 ∧ area.toNat % 64 = 0 ∧ 0x40000 ≤ area.toNat
     let saving (y : Launch) : Prop := ctxState s c.die y.lr.ctx = csSaving ∨ ctxState s c.die y.lr.ctx = csRestoring
     let moving (y : Launch) : Prop := (∃ p, y.st = .switching p) ∨ (y.st = .boundary ∧ y.choice ≠ none) ∨ saving y
     (¬ fits → still (.mcut w) (-1)) ∧
     (fits → myLaunch s c a = none → still (.mcut w) (-3)) ∧
     (∀ l y, fits → myLaunch s c a = some (l, y) →
       (mode = 2 → y.halted = false → still (.mcut w) (-1)) ∧
       (mode = 2 → y.halted = true → y.cut ≠ none ∨ saving y → still (.mcut w) (-5)) ∧
       (mode = 2 → y.halted = true → y.cut = none → ¬ saving y → onCluster s c l y = true → gives (.mcut w) fun t => t.tiles = s.tiles ∧ SameLaunchesBut s t l ∧
         findLaunch t l = some { y with halted := false }) ∧
       (mode ≠ 2 → y.cut ≠ none ∨ moving y → still (.mcut w) (-5)) ∧
       (mode ≠ 2 → y.cut = none → ¬ moving y → onCluster s c l y = true → (∀ p u d, p < 8 → edgeOf s l y p = some (u, d) → u ∈ regionTiles l y) → gives (.mcut w) fun t => SameLaunchesBut s t l ∧ SameTilesBut s t (· ∈ regionTiles l y) ∧
         findLaunch t l = some { y with cut := some { num := w.imm.extractLsb' 0 16, stop := decide (mode = 1), area := area, limit := limit, source := 0, start := s.clock } } ∧
         (∀ u ∈ regionTiles l y, (getTile t u).cut = some { num := w.imm.toNat % 2 ^ 16 }) ∧
         ∀ p u d, p < 8 → edgeOf s l y p = some (u, d) →
           (aget [] (getTile t u).links (linkKey .vector d)).getLast? = some (markTok (w.imm.extractLsb' 0 16), s.clock))))) ∧
  (∀ (c : ClusterId) (k : Fin 10) (s : State), s.here = .lease c k →
    let x := getCl s c
    let y := getLease x k.val
    let cleared (t : State) : Prop := (k.val < 4 → ∀ n, n / 8 = k.val → aget ({} : Ctr) (getCl t c).ctrs n = {}) ∧
      (4 ≤ k.val → k.val < 6 → afind (getCl t c).traces (k.val - 4) = none) ∧ (6 ≤ k.val → afind (getCl t c).bps (k.val - 6) = none)
    (x.mode = false → y.held = false → Completes .leaseRequest s fun t => OnlyCore s t c ∧ cleared t ∧
      getLease (getCl t c) k.val = { held := true, hv := false, holder := x.ctx, lost := y.lost.filter fun e => e ≠ x.ctx, since := s.clock }) ∧
    (let both : Prop := y.hv = true ∧ y.wasFree = true ∧ y.since = s.clock
     (x.mode = false → y.held = true → ¬ both → Completes .leaseRequest s fun t => OnlyCore s t c ∧
       getLease (getCl t c) k.val = { y with lost := y.lost.filter fun e => e ≠ x.ctx }) ∧
     (x.mode = false → y.held = true → both → Completes .leaseRequest s fun t => OnlyCore s t c ∧
       getLease (getCl t c) k.val = { y with lost := x.ctx :: y.lost.filter fun e => e ≠ x.ctx, wasFree := false } ∧
       (getCl t c).pend = x.pend ++ [{ kind := 0x36, ctx := x.ctx, p0 := word k.val, p1 := x.ctx.setWidth 64 }])) ∧
    (x.mode = true → y.held = false → Completes .leaseRequest s fun t => OnlyCore s t c ∧ cleared t ∧
      getLease (getCl t c) k.val = { held := true, hv := true, holder := 0, lost := y.lost, since := s.clock, wasFree := true }) ∧
    (x.mode = true → y.held = true → y.hv = true → Completes .leaseRequest s fun t => OnlyCore s t c ∧ cleared t ∧
      getLease (getCl t c) k.val = { held := true, hv := true, holder := 0, lost := y.lost, since := s.clock, wasFree := false }) ∧
    (x.mode = true → y.held = true → y.hv = false → Completes .leaseRequest s fun t => OnlyCore s t c ∧ cleared t ∧
      (getLease (getCl t c) k.val).held = true ∧ (getLease (getCl t c) k.val).hv = true ∧ y.holder ∈ (getLease (getCl t c) k.val).lost ∧
      (getCl t c).pend = x.pend ++ [{ kind := 0x36, ctx := y.holder, p0 := word k.val, p1 := y.holder.setWidth 64 }]) ∧
    (holdsLease x k.val = true → Completes .leaseRelease s fun t => OnlyCore s t c ∧ cleared t ∧
      getLease (getCl t c) k.val = { y with held := false, hv := false, holder := 0 }) ∧
    (holdsLease x k.val = false → Completes .leaseRelease s fun t => OnlyCore s t c ∧ getCl t c = x)) ∧
  (∀ (u : TileId) (s : State) (l : LaunchId) (y : Launch) (k : Cut) (q : CutTile), s.here = .tile u → ownerOf s u = some l → findLaunch s l = some y →
    y.cut = some k → (getTile s u).cut = some q → recordDue s u = true → Completes .cutRecord s fun t => SameMem s t ∧ SameCores s t ∧ t.dies = s.dies ∧
      findLaunch t l = some { y with cut := some { k with snaps := k.snaps ++ [(tileKey u, s.clock, getTile s u)] } } ∧
      getTile t u = { getTile s u with cut := some { q with recorded := true } } ∧
      ∀ n d v, insideNext s u d = some v →
        aget [] (getTile t v).links (linkKey n (opposite d)) = aget [] (getTile s v).links (linkKey n (opposite d)) ++
          [(markTok (BitVec.ofNat 16 q.num), s.clock + if pclOf u = pclOf v then 0 else 1)]) ∧
  ∀ (l : LaunchId) (s : State) (y : Launch) (k : Cut) (home : ClusterId), s.here = .launch l → findLaunch s l = some y → y.cut = some k → y.issuer = some home →
    (∀ u ∈ regionTiles l y, cutTileDone s u = true) → Completes .cutDone s fun t =>
      let dump := (k.snaps.foldr insertSnap []).flatMap fun (j, at_, z) => tileDump k j at_ z
      let bytes := dump.take (k.limit * 65536)
      let done := dumpWrite home y.lr.ctx (bytes.length / 64 + 1) k.area bytes 0 s
      t.mem = done.1.mem ∧ t.full = s.full ∧ t.poison = s.poison ∧ SameCores s t ∧ SameLaunchesBut s t l ∧
      findLaunch t l = some { y with cut := none, halted := y.halted || (k.stop && y.drainAt.isNone) } ∧
      (∀ u ∈ regionTiles l y, getTile t u = { getTile s u with cut := none }) ∧ SameTilesBut s t (· ∈ regionTiles l y) ∧
      let p1 := word (k.num.toNat + (if k.stop then 2 ^ 16 else 0) + (if k.limit * 65536 < dump.length then 2 ^ 17 else 0) + k.source * 2 ^ 18)
      (getCl t home).pend = (getCl s home).pend ++ [{ kind := 0x29, ctx := y.lr.ctx, handle := l.handle, p0 := word done.2, p1 := p1 }]

/-! ## Configuration streams, loads and modules -/

/-- R46 to R52, R172 to R174, R179, R182: the load of a plane that is not active starts with its image or is refused; each command of its stream has its effect at the plane's loader,
and the first failure ends the load with a CFGERR and a BADBLOCK record; END makes the plane resident; an unloading module is freed when no launch uses it, and
its planes are invalid. -/
def Obligations.ConfigurationStreams : Prop :=
  (∀ (l : LaunchId) (s : State) (x : Launch) (y : Load) (w : BitVec 32) (rest : List (BitVec 32)) (home : ClusterId) (pl : Fin 4), s.here = .loader l pl → findLaunch s l = some x →
    theLoad x pl = some y → y.words = w :: rest → x.issuer = some home →
    let stream : Bool := w.extractLsb' 22 10 = 0x3FF
    let fn := (w.extractLsb' 16 6).toNat
    let p := pl.val
    let next : Load := { y with words := rest, seen := (if stream then fn else 64) :: y.seen, sum := y.sum + (w.extractLsb' 0 16 + w.extractLsb' 16 16) }
    let inOrder : Prop := y.seen ≠ [] ∧ 62 ∉ y.seen ∧ rest ≠ []
    let goes (i : Instr) (z : Load) : Prop := Completes i s fun t => SameMem s t ∧ t.tiles = s.tiles ∧ t.clusters = s.clusters ∧ SameLaunchesBut s t l ∧
      findLaunch t l = some (setLoad x z)
    let refused (i : Instr) (cause page field : Nat) : Prop := y.cfgld = true → x.st ≠ .switching pl → Completes i s fun t =>
      let p0 := word (cause + (w.extractLsb' 22 10).toNat * 2 ^ 8 + page * 2 ^ 18 + field * 2 ^ 24)
      let r1 : Rec := { kind := 0x01, ctx := x.lr.ctx, handle := l.handle, p0 := p0, p1 := y.pc }
      let r2 : Rec := { kind := 0x02, ctx := x.lr.ctx, handle := l.handle, p0 := y.pc, p1 := 3 }
      SameMem s t ∧ t.tiles = s.tiles ∧ SameCores s t ∧ SameLaunchesBut s t l ∧ (getCl t home).pend = (getCl s home).pend ++ [r1, r2] ∧
        ∃ z, findLaunch t l = some z ∧ (getPlane z p).st = .invalid ∧ z.loads = dropFirst (aimsAt pl) x.loads
    (∀ part, decodeStream w = .beginStream part → y.seen = [] → rest ≠ [] → goes (.beginStream part) { next with part := part }) ∧
    (∀ i, decodeStream w = i → isStreamCommand i = true → y.seen = [] → fn ≠ 0 ∨ stream = false → refused i 4 y.page.toNat fn) ∧
    (∀ i, decodeStream w = i → isStreamCommand i = true → 62 ∈ y.seen → fn ≠ 63 ∨ stream = false → refused i 4 y.page.toNat fn) ∧
    (∀ part, decodeStream w = .beginStream part → inOrder → refused (.beginStream part) 4 y.page.toNat fn) ∧
    (∀ v, decodeStream w = .plane v → inOrder →
      (1 ∉ y.seen → 64 ∉ y.seen → v = 0 → goes (.plane v) next) ∧ (1 ∈ y.seen ∨ 64 ∈ y.seen → refused (.plane v) 4 y.page.toNat fn) ∧
      (1 ∉ y.seen → 64 ∉ y.seen → 4 ≤ v.toNat → refused (.plane v) 2 y.page.toNat fn)) ∧
    (∀ v, decodeStream w = .page v → inOrder → (v.toNat < 2 → goes (.page v) { next with page := v }) ∧ (2 ≤ v.toNat → refused (.page v) 2 y.page.toNat fn)) ∧
    (∀ r c, decodeStream w = .origin r c → inOrder → goes (.origin r c) { next with orow := r.toNat, ocol := c.toNat }) ∧
    (∀ v, decodeStream w = .copies v → inOrder →
      (1 ≤ v.toNat → v.toNat ≤ 64 → v.toNat = x.lr.copies + 1 → goes (.copies v) next) ∧
      (1 ≤ v.toNat → v.toNat ≤ 64 → v.toNat ≠ x.lr.copies + 1 → refused (.copies v) 6 y.page.toNat fn)) ∧
    (∀ n v, decodeStream w = .pc n v → inOrder → goes (.pc n v) { next with pcw := aset y.pcw n.val v }) ∧
    (∀ v, decodeStream w = .check v → inOrder → (v = y.sum → goes (.check v) { next with sum := y.sum }) ∧ (v ≠ y.sum → refused (.check v) 7 y.page.toNat fn)) ∧
    (∀ v, decodeStream w = .reservedStreamCommand v → inOrder → refused (.reservedStreamCommand v) 2 y.page.toNat fn) ∧
    (∀ row col f v, decodeStream w = .tileCommand row col f v → inOrder → y.page.toNat < 2 →
      let i := row.toNat + y.orow
      let j := col.toNat + y.ocol
      (1 ∉ y.seen → refused (.tileCommand row col f v) 4 y.page.toNat fn) ∧
      (1 ∈ y.seen → ¬ (i < y.head.fh ∧ j < y.head.fw) → refused (.tileCommand row col f v) 5 y.page.toNat fn) ∧
      (1 ∈ y.seen → i < y.head.fh → j < y.head.fw → fieldBad y.page.toNat f.toNat v = true → refused (.tileCommand row col f v) 2 y.page.toNat fn) ∧
      let wrongMode : Prop := y.page = 1 ∧ f = 16 ∧ ∃ u ∈ elementTiles l x y.head i j, modeBad u v = true
      (1 ∈ y.seen → i < y.head.fh → j < y.head.fw → fieldBad y.page.toNat f.toNat v = false → wrongMode → refused (.tileCommand row col f v) 9 1 16) ∧
      (1 ∈ y.seen → i < y.head.fh → j < y.head.fw → fieldBad y.page.toNat f.toNat v = false → ¬ wrongMode → Completes (.tileCommand row col f v) s fun t =>
        SameMem s t ∧ t.clusters = s.clusters ∧ SameLaunchesBut s t l ∧
        (∃ z, findLaunch t l = some (setLoad x z) ∧ z.words = rest ∧ z.cleared = true) ∧
        ∀ u q pg g, q < 4 → pg < 2 → g < 64 → cfgF (getTile t u) q pg g =
          if (u, i, j) ∈ copyTiles l x y.head.fh y.head.fw ∧ q = p ∧ pg = y.page.toNat ∧ g = f.toNat then v
          else if y.part = false ∧ y.cleared = false ∧ u ∈ regionTiles l x ∧ q = p then 0 else cfgF (getTile s u) q pg g)) ∧
    (decodeStream w = .endStream → 62 ∈ y.seen → 1 ∈ y.seen → y.pcw.length = 4 → rest = [] → (y.part = true ∨ y.cleared = true) → (y.part = true ∨ x.lr.rows ≠ 31) →
      y.pc.toNat % 64 = 0 → y.pc = word ((List.range 4).foldl (fun n k => n + (aget 0 y.pcw k).toNat * 2 ^ (16 * k)) 0) →
      let ts := copyTiles l x y.head.fh y.head.fw
      (∀ e ∈ ts, tileCause e.1 (getTile s e.1) p (loutsAt y.head e.2.1 e.2.2) = none) → loopBad s (ts.map (·.1)) y.plane = none →
      countIns s l x y.head p = y.nins → Completes .endStream s fun t => SameMem s t ∧ t.tiles = s.tiles ∧ t.clusters = s.clusters ∧ SameLaunchesBut s t l ∧
        ∃ z, findLaunch t l = some z ∧ getPlane z p = { y.head with st := .resident, last := (getPlane x p).last } ∧ z.loads = dropFirst (aimsAt pl) x.loads)) ∧
  (∀ (l : LaunchId) (s : State) (x : Launch) (y : Load) (home : ClusterId) (pl : Fin 4), s.here = .loader l pl → findLaunch s l = some x → nextLoad s.clock x pl = some y → y.req = none → x.issuer = some home →
    (y.cfgld = true → x.st ≠ .switching pl → y.pc.toNat % 64 ≠ 0 → Completes .cfgLoadStart s fun t => SameMem s t ∧ t.tiles = s.tiles ∧ SameLaunchesBut s t l ∧
      (getCl t home).pend = (getCl s home).pend ++ [{ kind := 0x02, ctx := x.lr.ctx, handle := l.handle, p0 := y.pc, p1 := 6 }] ∧
      ∃ z, findLaunch t l = some z ∧ (getPlane z pl.val).st = .invalid ∧ z.loads = dropFirst (aimsAt pl) x.loads) ∧
    (∀ s1 s2 h k b nins nwords ps j, y.pc.toNat % 64 = 0 → outsideModule s l x y.pc = false → cfgLine s home true (loadTable s x y) x.lr.ctx y.pc = (s1, .got h k) →
      parseHeader y.pc h = some (b, nins, nwords) → holds x b.fh b.fw = true →
      cfgLines home true (loadTable s x y) x.lr.ctx ((4 * nwords + 63) / 64) (y.pc + 64) s1 = (s2, .got ps j) → Completes .cfgLoadStart s fun t =>
        t.tiles = s.tiles ∧ SameLaunchesBut s t l ∧ ∃ z u, findLaunch t l = some z ∧ theLoad z pl = some u ∧ u.pc = y.pc ∧ u.head = b ∧
          u.nins = nins ∧ u.words = (streamWords ps).take nwords ∧ (getPlane z pl.val).st = .loading)) ∧
  ∀ (d : Fin 4) (k : Nat) (s : State) (m : Module), s.here = .item d k → afind (getDie s d).modules k = some m →
    (m.st ≠ modUnloading ∨ (∃ e ∈ launchesOf s d, e.2.mod = some k) → Waits .moduleUnload s) ∧
    let inside (a : Nat) : Prop := m.base.toNat ≤ a ∧ a < m.base.toNat + m.size
    (m.st = modUnloading → (∀ e ∈ launchesOf s d, e.2.mod ≠ some k) → Completes .moduleUnload s fun t => SameMem s t ∧ t.tiles = s.tiles ∧
      (aget ({} : Module) (getDie t d).modules k).st = 0 ∧ { kind := 0x23, ctx := m.ctx, p0 := word (k * 65536 + m.gen.toNat) } ∈ (getCl t ⟨d, m.cl⟩).pend ∧
      (∀ e ∈ (getDie t d).l3, ¬ (e.ctx = m.ctx ∧ inside (64 * e.line))) ∧
      (∀ c, c.die = d → ∀ e ∈ (getCl t c).l2, ¬ (e.ctx = m.ctx ∧ inside (64 * e.line))) ∧
      (((launchesOf s d).map (·.1)).Nodup → ∀ l y p, (l, y) ∈ launchesOf s d → y.lr.ctx = m.ctx → theLoad y p = none → (getPlane y p.val).st = .resident →
        inside (getPlane y p.val).pc.toNat → ∀ z, findLaunch t l = some z → (getPlane z p.val).st = .invalid))

/-! ## Router operators, networks, queues -/

/-- R158 to R162: what a step of STEER, CARRY, INV and MERGE takes from its queues and leaves at its outputs, and when it takes none. -/
def Obligations.RouterOperatorsStep : Prop :=
  ∀ (u : TileId) (g : Fin 2) (s : State), s.here = .router u g →
    let x := getTile s u
    let y := getOp x g
    let a := headV y.ina
    let b := headV y.inb
    let c := headC y.cin
    let takeA (z : Op) : Op := { z with ina := popO s.clock y.ina }
    let takeB (z : Op) : Op := { z with inb := popO s.clock y.inb }
    let takeC (z : Op) : Op := { z with cin := popO s.clock y.cin }
    let free : Prop := y.outT = none ∧ y.outF = none ∧ afind x.used (opUsed g) ≠ some s.clock ∧ tileHalted s u x = false ∧
      ∀ k < 3, arrived s x (8 + k + 3 * g.val) = false
    let acts (i : Instr) (z : Op) : Prop := Completes i s fun t => TileFrame s t u ∧ t.launches = s.launches ∧ getOp (getTile t u) g = z ∧
      getOp (getTile t u) (1 - g) = getOp x (1 - g) ∧ (getTile t u).queues = x.queues ∧ (getTile t u).links = x.links
    let idles (i : Instr) : Prop := Waits i s
    (∀ i, opInstr x g = some i → y.outT ≠ none ∨ y.outF ≠ none → idles i) ∧
    (∀ m k tt ff, opInstr x g = some (.steer m k tt ff) → free → let i := .steer m k tt ff
      (a = none → idles i) ∧
      (∀ r, a = some r → countsAsData r = true →
        (c = some true → acts i { takeA (takeC y) with outT := some r }) ∧ (c = some false → acts i { takeA (takeC y) with outF := some r }) ∧ (c = none → idles i)) ∧
      (∀ r, a = some r → countsAsData r = false → acts i { takeA y with outT := some r, outF := some r })) ∧
    (∀ m n k tt, opInstr x g = some (.carry m n k tt) → free → let i := .carry m n k tt
      (y.loop = false → (∀ r, a = some r → acts i { takeA y with outT := some r, loop := countsAsData r }) ∧ (a = none → idles i)) ∧
      (y.loop = true →
        (∀ r, b = some r → countsAsData r = false → acts i { takeB y with outT := some r }) ∧
        (∀ r, b = some r → countsAsData r = true → c = some true → acts i { takeB (takeC y) with outT := some r }) ∧
        (c = some false → (∀ r, b = some r → countsAsData r = true) → acts i { takeC y with loop := false }) ∧
        (b = none → c ≠ some false → idles i))) ∧
    (∀ m k tt, opInstr x g = some (.inv m k tt) → free → let i := .inv m k tt
      (y.held = none → (∀ r, a = some r → acts i { takeA y with outT := some r, held := if countsAsData r then some r else none }) ∧ (a = none → idles i)) ∧
      (∀ v, y.held = some v → (c = some true → acts i { takeC y with outT := some v }) ∧ (c = some false → acts i { takeC y with held := none }) ∧ (c = none → idles i))) ∧
    (∀ m n k tt, opInstr x g = some (.merge m n k tt) → free → let i := .merge m n k tt
      let paired : Prop := ∃ p q, a = some p ∧ b = some q ∧ countsAsData p = false ∧ countsAsData q = false ∧ headerWord p = headerWord q
      (∀ p, a = some p → paired → acts i { takeA (takeB y) with outT := some p }) ∧
      (¬ paired → (c = none → idles i) ∧
        (c = some true → 0 < y.owedA → acts i { takeC y with owedA := y.owedA - 1 }) ∧
        (∀ p, c = some true → y.owedA = 0 → a = some p → countsAsData p = true → acts i { takeA (takeC y) with outT := some p }) ∧
        (∀ p, c = some true → y.owedA = 0 → a = some p → countsAsData p = false → p.kind = kGap →
          acts i { takeA (takeC y) with outT := some p, owedA := p.key.toNat - 1 }) ∧
        (c = some true → y.owedA = 0 → a = none → idles i) ∧
        (∀ p, c = some true → y.owedA = 0 → a = some p → countsAsData p = false → p.kind ≠ kGap → idles i) ∧
        (c = some false → y.owedB = 0 → b = none → idles i) ∧
        (∀ p, c = some false → y.owedB = 0 → b = some p → countsAsData p = false → p.kind ≠ kGap → idles i) ∧
        (c = some false → 0 < y.owedB → acts i { takeC y with owedB := y.owedB - 1 }) ∧
        (∀ p, c = some false → y.owedB = 0 → b = some p → countsAsData p = true → acts i { takeB (takeC y) with outT := some p }) ∧
        (∀ p, c = some false → y.owedB = 0 → b = some p → countsAsData p = false → p.kind = kGap →
          acts i { takeB (takeC y) with outT := some p, owedB := p.key.toNat - 1 })))

/-- R11, R86, R87, R138 to R154, R157, R326: a token on a link goes to every destination that the switch box gives it, a guarded link drops it, a parity
error makes it a gap marker, a reserved KIND is counted, and a marker of a cut goes to the tile's cut logic unless it fails its check; a local source sends in
the same way; a queue admits an arriving token or sheds it by its policy; a pending gap is placed; the operand decoder of a tile that is not halted takes a
packet header; results enter their result buffers; the edge gate closes and opens; the quiescence record is written. The model's own: DROPH drops the
arriving record where the queue would still hold DEPTH entries without its head (log 89). -/
def Obligations.NetworkAndQueueMoves : Prop :=
  let unheard (s : State) : Prop := ∀ c, (getCl s c).traces = [] ∧ (getCl s c).bps = []
  let lands (s t : State) (u : TileId) (n : Net) (dst : Dests) (tok : Tok) : Prop :=
    (∀ q, dst.queue = some q → (getQ (getTile t u) q).arr = (getQ (getTile s u) q).arr ++ [match tok with | .ctl b => .sca ⟨if b then 1 else 0, 0⟩ | tok => tok]) ∧
    (∀ k ∈ dst.ops, (queueAt (getTile t u) k).arr = (queueAt (getTile s u) k).arr ++ [tok]) ∧
    ∀ d v, d ∈ dst.links → stepDir u d = some v →
      aget [] (getTile t v).links (linkKey n (opposite d)) = aget [] (getTile s v).links (linkKey n (opposite d)) ++ [(tok, s.clock + if pclOf u = pclOf v then 0 else 1)]
  let open_ (s : State) (u : TileId) (n : Net) (dst : Dests) : Prop := dst.queue ≠ some 8 ∧ ∀ d ∈ dst.links, guardOf s u n d = none ∧ (n = .vector → portAtLink s u d = none)
  (∀ (u : TileId) (n : Net) (d : Dir) (b : Parity) (s : State) (tok : Tok) (at_ : Nat) (rest : List (Tok × Nat)), s.here = .link u n d b →
    aget [] (getTile s u).links (linkKey n d) = (tok, at_) :: rest →
    (markDue s u n d = true → markGood n b = true →
      (∀ c, (getTile s u).cut = some c → c.recorded = false → Waits .forward s) ∧
      (∀ c, (getTile s u).cut = some c → c.recorded = true → Completes .forward s fun t => TileFrame s t u ∧ t.launches = s.launches ∧
        aget [] (getTile t u).links (linkKey n d) = rest ∧ (getTile t u).cut = some { c with marked := linkKey n d :: c.marked }) ∧
      ((getTile s u).cut = none → Completes .forward s fun t => TileFrame s t u ∧ t.launches = s.launches ∧ aget [] (getTile t u).links (linkKey n d) = rest)) ∧
    ((markDue s u n d && markGood n b) = false →
    (s.clock ≤ at_ → Waits .forward s) ∧
    (at_ < s.clock → b = .ok → reservedKind tok = false → unheard s → open_ s u n (linkDests (getTile s u) n d) → Completes .forward s fun t =>
      SameMem s t ∧ SameCores s t ∧ aget [] (getTile t u).links (linkKey n d) = rest ∧ lands s t u n (linkDests (getTile s u) n d) tok) ∧
    (at_ < s.clock → b = .ok → reservedKind tok = true → (getTile s u).cut = none → Completes .forward s fun t => TileFrame s t u ∧ t.launches = s.launches ∧
      aget [] (getTile t u).links (linkKey n d) = rest ∧ aget 0 (getTile t u).counts 0x21 = aget 0 (getTile s u).counts 0x21 + 1) ∧
    (∀ o k, at_ < s.clock → b = .ok → reservedKind tok = false → linkDests (getTile s u) n d = ⟨[o], none, []⟩ → guardOf s u n o = some k → (getTile s u).cut = none →
      aget 0 (getTile s u).drops (linkKey n o) < 65534 → Completes .forward s fun t => TileFrame s t u ∧ t.launches = s.launches ∧
        aget [] (getTile t u).links (linkKey n d) = rest ∧ aget 0 (getTile t u).drops (linkKey n o) = aget 0 (getTile s u).drops (linkKey n o) + 1) ∧
    (∀ v, at_ < s.clock → b = .payload → tok = .vec v → unheard s → open_ s u n (linkDests (getTile s u) n d) → Completes .forward s fun t =>
      SameMem s t ∧ aget [] (getTile t u).links (linkKey n d) = rest ∧ aget 0 (getTile t u).counts 0x20 = aget 0 (getTile s u).counts 0x20 + 1 ∧
      lands s t u n (linkDests (getTile s u) n d) (.vec (gapTok ⟨1, wread v.wt, true, false, v.thr⟩))))) ∧
  (∀ (u : TileId) (src : LocalSrc) (s : State) (tok : Tok), s.here = .source u src → localTok (getTile s u) src = some tok → reservedKind tok = false →
    (ableSend s (getTile s u) src = false ∨ winsLinks s (getTile s u) src = false ∨ tileHalted s u (getTile s u) = true → Waits .localSend s) ∧
    (ableSend s (getTile s u) src = true → winsLinks s (getTile s u) src = true → tileHalted s u (getTile s u) = false → unheard s → open_ s u (localNet src) (localDests (getTile s u) src) →
      Completes .localSend s fun t => SameMem s t ∧ SameCores s t ∧ lands s t u (localNet src) (localDests (getTile s u) src) tok ∧
        match src with
        | .pe p => aget [] (getTile t u).outs p.val = (aget [] (getTile s u).outs p.val).tail
        | .op g true => (getOp (getTile t u) g).outT = none
        | .op g false => (getOp (getTile t u) g).outF = none)) ∧
  (∀ (u : TileId) (q : Fin 8) (s : State) (p : Fin 4) (tok : Tok) (rest : List Tok), s.here = .queue ⟨u, q⟩ → (getTile s u).active = some p →
    let y := getQ (getTile s u) q.val
    let c := queueCfg s u (getTile s u) p.val q.val
    let occ := y.items.length
    let e : QEntry := { tok := tok, at_ := s.clock }
    y.arr = tok :: rest → issuer s u = none → (hdrDue s.clock y && !tileHalted s u (getTile s u)) = false → liveOut s u q.val = none → capW s u (getTile s u) p.val q.val = 0 → y.pend.count = 0 → y.head.count = 0 →
    let after (f : Queue → Prop) : Prop := Completes .arrive s fun t => SameMem s t ∧ SameCores s t ∧ t.dies = s.dies ∧ t.slices = s.slices ∧ SameTilesBut s t (· = u) ∧
      let z := getQ (getTile t u) q.val
      z.arr = rest ∧ (∀ k, k ≠ q.val → getQ (getTile t u) k = getQ (getTile s u) k) ∧ f z
    (isRecord tok = true → occ < c.hw → occ < c.depth → after fun z => z.items = y.items ++ [e] ∧ z.pend = y.pend ∧ z.head = y.head ∧
      z.close = (y.close || (decide (c.policy = 0) && decide (c.hw ≤ occ + 1)))) ∧
    (isRecord tok = false → occ < c.depth + 4 → after fun z => z.items = y.items ++ [e] ∧ z.pend = y.pend ∧ z.head = y.head) ∧
    (isRecord tok = false → c.depth + 4 ≤ occ → after fun z => z.items = y.items ∧ z.pend = y.pend ∧ z.head = y.head) ∧
    (∀ v, tok = .vec v → isRecord tok = true → ¬ (occ < c.hw ∧ occ < c.depth) →
      let lost (ovr : Bool) (z : Queue) : Prop := z.items = y.items ∧ z.pend = ⟨1, wread v.wt, false, ovr, v.thr⟩ ∧ z.head = y.head
      (c.policy = 0 → occ < c.depth → after fun z => z.items = y.items ++ [e] ∧ z.pend = y.pend ∧ z.close = true) ∧
      (c.policy = 0 → c.depth ≤ occ → after (lost true)) ∧
      (c.policy = 1 → after (lost false)) ∧
      (∀ h he tl, c.policy = 2 → y.items = he :: tl → he.tok = .vec h → countsAsData h = true → c.depth ≤ tl.length → after (lost false)) ∧
      (∀ h he tl, c.policy = 2 → y.items = he :: tl → he.tok = .vec h → countsAsData h = true → tl.length < c.depth → after fun z => z.items = tl ++ [e] ∧ z.pend = y.pend ∧
        z.head = ⟨1, wread h.wt, false, false, h.thr⟩) ∧
      (c.policy = 2 → (∀ h he tl, y.items = he :: tl → he.tok = .vec h → countsAsData h = false) → after (lost false)) ∧
      (c.policy = 3 → let r := lfsrStep y.lfsr
        (r.toNat % 2 ^ c.s = 0 → occ < c.depth → after fun z => z.lfsr = r ∧ z.items = y.items ++ [{ e with tok := .vec { v with wt := wscale v.wt c.s } }] ∧ z.pend = y.pend) ∧
        (r.toNat % 2 ^ c.s = 0 → c.depth ≤ occ → after fun z => z.lfsr = r ∧ lost false z) ∧
        (r.toNat % 2 ^ c.s ≠ 0 → after fun z => z.lfsr = r ∧ z.items = y.items ∧ z.pend = if c.gos then ⟨1, wread v.wt, false, false, v.thr⟩ else y.pend)) ∧
      (∀ he h, c.policy = 4 → y.items.getLast? = some he → he.tok = .vec h →
        after fun z => if mergeable he v = true then z.items = y.items.dropLast ++ [{ he with tok := .vec (mergeTok c.mop h v) }] ∧ z.pend = y.pend else lost false z) ∧
      (∀ he, c.policy = 4 → y.items.getLast? = some he → (∀ h, he.tok ≠ .vec h) → after (lost false)) ∧
      (c.policy = 5 → (narrowTok c.ntgt v = none → after (lost false)) ∧
        (∀ m he, narrowTok c.ntgt v = some m → y.items.getLast? = some he →
          (he.nrw = true → he.second = none → after fun z => z.items = y.items.dropLast ++ [{ he with second := some m, at2 := s.clock }]) ∧
          (he.nrw = false ∨ he.second ≠ none → occ < c.depth → after fun z => z.items = y.items ++ [{ e with tok := .vec m, nrw := true }]) ∧
          (he.nrw = false ∨ he.second ≠ none → c.depth ≤ occ → after (lost false)))))) ∧
  (∀ (u : TileId) (q : Fin 8) (s : State) (p : Fin 4), s.here = .queue ⟨u, q⟩ → (getTile s u).active = some p → capW s u (getTile s u) p.val q.val = 0 →
    let y := getQ (getTile s u) q.val
    (gapDue s.clock y = true → Completes .gapPlace s fun t => SameMem s t ∧ SameTilesBut s t (· = u) ∧ (getQ (getTile t u) q.val).pend = {} ∧
      (getQ (getTile t u) q.val).items = [{ tok := .vec (gapTok y.pend), at_ := s.clock }]) ∧
    (tileHalted s u (getTile s u) = true → Waits .pkthdrTake s) ∧
    (∀ v, headOf y = some (.vec v) → v.kind = kPkthdr → y.headAt < s.clock → tileHalted s u (getTile s u) = false → Completes .pkthdrTake s fun t => SameMem s t ∧ SameTilesBut s t (· = u) ∧ SameCores s t ∧
      getQ (getTile t u) q.val = { popQ s.clock (queueCfg s u (getTile s u) p.val q.val) y with dec := pktOf v, j := 0 })) ∧
  (∀ (sl : SlotId) (s : State), s.here = .slot sl →
    (∀ q arg i op w, want s sl.tile (getTile s sl.tile) sl.slot.val = .lone q arg → slotInstr (getTile s sl.tile) sl.slot.val = some i → view i = .node op w →
      issuer s sl.tile = some sl.slot.val → capW s sl.tile (getTile s sl.tile) ((getTile s sl.tile).active.getD 0).val q = 0 →
      let v := seenHead (getTile s sl.tile) q
      Completes .loneToken s fun t => SameMem s t ∧ SameTilesBut s t (· = sl.tile) ∧ (getTile t sl.tile).issued = some s.clock ∧
        (getSlot (getTile t sl.tile) sl.slot.val).fired = (getSlot (getTile s sl.tile) sl.slot.val).fired ∧
        (useOf (view i) arg v = .forward → w.out.getLsbD 0 = true → w.out.getLsbD 1 = false → pipeOf t sl = pipeOf s sl ++ [results [(0, .vec v)]]) ∧
        (useOf (view i) arg v ≠ .forward → pipeOf t sl = pipeOf s sl ∧ aget 0 (getTile t sl.tile).counts 0x23 = aget 0 (getTile s sl.tile).counts 0x23 + 1)) ∧
    (∀ f rest, pipeOf s sl = f :: rest → f.ready = true → fits (getTile s sl.tile) f.ems = true → passedBy s (getTile s sl.tile) sl.slot.val = false → tileHalted s sl.tile (getTile s sl.tile) = false →
      Completes .resultComplete s fun t => TileFrame s t sl.tile ∧
      pipeOf t sl = rest ∧ ∀ p : Fin 4, aget [] (getTile t sl.tile).outs p.val =
        aget [] (getTile s sl.tile).outs p.val ++ (f.ems.filter fun e => decide (e.1 = p)).map (·.2)) ∧
    (∀ f rest, pipeOf s sl = f :: rest → f.ready = false ∨ fits (getTile s sl.tile) f.ems = false ∨ passedBy s (getTile s sl.tile) sl.slot.val = true ∨
      tileHalted s sl.tile (getTile s sl.tile) = true → Waits .resultComplete s)) ∧
  ∀ (l : LaunchId) (s : State) (x : Launch) (home : ClusterId), s.here = .launch l → findLaunch s l = some x → x.issuer = some home →
    let only (t : State) (y : Launch) : Prop := SameMem s t ∧ t.tiles = s.tiles ∧ SameLaunchesBut s t l ∧ findLaunch t l = some y
    (∀ k, gateWanted s l x = true → x.gate = false → x.gateDue = some k →
      (k ≤ s.clock → Completes .edgeGateClose s fun t => only t { x with gate := true, gateDue := none } ∧ t.clusters = s.clusters) ∧ (s.clock < k → Waits .edgeGateClose s)) ∧
    (∀ k, gateWanted s l x = false → x.gate = true → x.gateDue = some k →
      (k ≤ s.clock → Completes .edgeGateOpen s fun t => only t { x with gate := false, gateDue := none } ∧ t.clusters = s.clusters) ∧ (s.clock < k → Waits .edgeGateOpen s)) ∧
    (2 ^ x.lr.qwin ≤ x.quiet → x.qwcDone = false → Completes .qwc s fun t => only t { x with qwcDone := true } ∧
      ∃ p1, (closers s l x = [] → p1 = 0) ∧ (getCl t home).pend = (getCl s home).pend ++
        [{ kind := 0x0B, ctx := x.lr.ctx, handle := l.handle, p0 := word (min (closers s l x).length 511), p1 := p1 }]) ∧
    (x.quiet < 2 ^ x.lr.qwin ∨ x.qwcDone = true → Waits .qwc s)

/-! ## Threads, phases, planes, streams -/

/-- R24, R114, R171, R178, R184 to R191, R243, R257 to R259, R351, R357, R403: a thread that may retire ends, is held or joins the entry queue of its next
block; a launch gets its rectangle; the scheduler asks for the chosen block; a phase that is over, with no cut in progress and no halt, ends the launch or
decides the next block; a resident plane is switched to, with the ended phase's interval record; a pending RSW is applied; an in-port injects its next token,
an out-port writes its oldest, and a stream completes. The model's own: a launch that waits at its residency gate is placed once the gate is met (log 50); an
interval record is written at the plane switch and holds the cycles classed since the last (log 84); out-ports alone complete (log 56). -/
def Obligations.ThreadsPhasesAndStreams : Prop :=
  (∀ (l : LaunchId) (thr : BitVec 8) (s : State) (x : Launch) (y : Thread) (p : Fin 4) (home : ClusterId), s.here = .thread l thr → findLaunch s l = some x →
    findThread x thr = some y → x.active = some p → x.issuer = some home →
    (mayRetire s l x thr y = false → stopDue s l x thr y = false → Waits .threadRetire s) ∧
    (stopDue s l x thr y = true → x.stopThr = [thr] → (∀ e ∈ x.threads, e.1 < 256) → Completes .threadRetire s fun t => SameMem s t ∧ t.tiles = s.tiles ∧ SameCoresBut s t (· = home) ∧ SameLaunchesBut s t l ∧
      (getCl t home).deliveries = (getCl s home).deliveries ++ [⟨l, thr, 10⟩] ∧
      ∃ z, findLaunch t l = some z ∧ z.stopThr = [] ∧ z.drained = x.drained ++ [thr] ∧ findThread z thr = some { y with st := .delivered }) ∧
    (mayRetire s l x thr y = true → y.fatal = false → thr ∉ x.stopThr →
      let pc := (getPlane x p.val).pc
      let exact : Word := if y.inexact then 0 else 1
      let out := (List.range 4).map fun n => match y.outs.find? fun o => o.1 = n with | some o => o.2 | none => y.t.getD n 0
      let crec : List Rec := if (getPlane x p.val).crec then [{ kind := 0x20, ctx := x.lr.ctx, handle := l.handle, thr := thr, p0 := pc, p1 := exact }] else []
      let leaves (recs : List Rec) (q : Launch → Prop) : Prop := Completes .threadRetire s fun t => SameMem s t ∧ t.dies = s.dies ∧ SameCores s t ∧ SameLaunchesBut s t l ∧
        (getCl t home).pend = (getCl s home).pend ++ crec ++ recs ∧ ∃ z, findLaunch t l = some z ∧ q z
      let joined (next : Word) (v : List Word) (z : Launch) : Prop := (∃ w, findThread z thr = some w ∧ w.st = .waiting ∧ w.pc = next ∧ w.t = v ∧ w.exit = none ∧ w.outs = []) ∧
        ((∃ r ∈ z.table, r.pc = next ∧ thr ∈ r.thrs) ∨ (next, thr) ∈ z.overflow)
      ((∀ n b, y.exit ≠ some (.go n b)) → leaves [{ kind := 0x21, ctx := x.lr.ctx, handle := l.handle, thr := thr, p0 := pc, p1 := exact }] fun z =>
        z.exact = (x.exact && !y.inexact) ∧ if y.joins = 0 then findThread z thr = none else ∃ w, findThread z thr = some w ∧ w.st = .ended ∧ w.t = out) ∧
      (∀ next, y.exit = some (.go next true) → leaves [] fun z => if y.joins = 0 then joined next (out.take 3 ++ [y.sum]) z
        else ∃ w, findThread z thr = some w ∧ w.st = .holding ∧ w.pc = next ∧ w.t = out) ∧
      (∀ next, y.exit = some (.go next false) → ¬ (next = pc ∧ (∀ r ∈ x.table, r.pc = pc) ∧ ∀ e ∈ x.overflow, e.1 = pc) → leaves [] (joined next out)) ∧
      (∀ next, y.exit = some (.go next false) → next = pc → (∀ r ∈ x.table, r.pc = pc) → (∀ e ∈ x.overflow, e.1 = pc) → leaves [] fun z =>
        ∃ w, findThread z thr = some w ∧ w.st = .flight ∧ w.pc = pc ∧ w.t = out ∧ w.entered = out ∧ w.exit = none))) ∧
  (∀ (l : LaunchId) (s : State) (x : Launch) (home : ClusterId), s.here = .launch l → findLaunch s l = some x → x.issuer = some home →
    let only (t : State) (q : Launch → Prop) : Prop := SameMem s t ∧ SameLaunchesBut s t l ∧ ∃ z, findLaunch t l = some z ∧ q z
    let ts := regionTiles l x
    let quantum := x.lr.quant * Config.cyclesPerUs
    let debt := ctxDebt s l.die x.lr.ctx
    (∀ r c, x.st = .waiting → ctxState s l.die x.lr.ctx = 1 → servedBefore s l.die (launchTurn x) = false → cornerNow s l x = some (r, c) →
      (debt < quantum → x.gateOk = false → Waits .launchPlace s) ∧
      (debt < quantum → x.gateOk = true → Completes .launchPlace s fun t =>
        let a := ctxAddr s l.die x.lr.ctx + 8
        SameMemBut s t (fun b => a ≤ b ∧ b < a + 8) (fun _ => False) ∧ memWord t a = 0 ∧ SameLaunchesBut s t l ∧ SameCores s t ∧
        (∃ z, findLaunch t l = some z ∧ z.corner = some (r, c) ∧ z.since = s.clock ∧ z.sliceAt = s.clock ∧ z.sliceLen = quantum - debt ∧
          match chooseRow x with
          | none => z.st = .boundary ∧ z.choice = none
          | some w => z.choice = some w.pc ∧ match planeOf x w.pc with | some p => z.st = .switching p | none => z.st = .boundary) ∧
        (∀ u ∈ rectTiles l.die r c (x.lr.rows + 1) (x.lr.cols + 1), getTile t u = { owner := some l.handle, counts := (getTile s u).counts }) ∧
        SameTilesBut s t (· ∈ rectTiles l.die r c (x.lr.rows + 1) (x.lr.cols + 1))) ∧
      (quantum ≤ debt → Completes .launchPlace s fun t => t.tiles = s.tiles ∧ SameCores s t ∧ SameLaunchesBut s t l ∧
        ∃ n, findLaunch t l = some { x with order := n, waitAt := s.clock })) ∧
    (x.st ≠ .waiting ∨ cornerNow s l x = none → Waits .launchPlace s) ∧
    (∀ pc, x.st = .boundary → x.choice = some pc → haveBlock x pc = false →
      (∀ p, takePlane x false = some p → Completes .schedulerLoad s fun t => only t (fun z => z = { x with loads := x.loads ++ [{ pc := pc, plane := p }] }) ∧ t.tiles = s.tiles ∧
        t.clusters = s.clusters) ∧ (takePlane x false = none → Waits .schedulerLoad s)) ∧
    (let quiet : Prop := (∀ u ∈ ts, (getTile s u).drops = []) ∧ (getCl s home).ivbase.getLsbD 0 = false ∧ x.drainAt = none
     let follows (t : State) (q : Launch → Prop) : Prop := t.tiles = s.tiles ∧ only t q
     let chosen (z : Launch) : Prop := match chooseRow x with
       | none => z.st = .boundary ∧ z.choice = none
       | some r => z.choice = some r.pc ∧ (∀ e ∈ x.table, e.pc ≠ r.pc → { e with age := e.age + 1 } ∈ z.table) ∧
         match planeOf x r.pc with | some p => z.st = .switching p | none => z.st = .boundary
     (phaseEndDue s l x = false → Waits .phaseEnd s) ∧
     (x.st = .boundary → phaseEndDue s l x = true → liveThreads x ≠ 0 → ctxState s l.die x.lr.ctx = 1 →
       (x.dsel = none → Completes .phaseEnd s fun t => follows t chosen) ∧
       (∀ p, x.dsel = some (.plane p) → (getPlane x p.val).st ≠ .invalid → Completes .phaseEnd s fun t => follows t fun z => z = { x with st := .switching p })) ∧
     (x.st = .running → (phaseOver s l x = false → Waits .phaseEnd s) ∧
      (phaseOver s l x = true → quiet → liveThreads x = 0 → outsDone x = true → Completes .phaseEnd s fun t => findLaunch t l = none ∧ SameLaunchesBut s t l ∧
        (∀ u ∈ ts, (getTile t u).owner = none) ∧ SameTilesBut s t (· ∈ ts) ∧
        { kind := 0x22, ctx := x.lr.ctx, handle := l.handle, p0 := if x.exact then 1 else 0 } ∈ (getCl t home).pend) ∧
      (phaseOver s l x = true → quiet → liveThreads x ≠ 0 → x.stopThr = [] → x.drained = [] → ctxState s l.die x.lr.ctx = 1 → (getDie s l.die).armed = [] →
        (x.dsel = none → Completes .phaseEnd s fun t => follows t chosen) ∧
        (∀ p, x.dsel = some (.plane p) → (getPlane x p.val).st ≠ .invalid → Completes .phaseEnd s fun t => follows t fun z => z.st = .switching p ∧ z.dsel = x.dsel)))) ∧
    (switchTo x = .wait → Waits .planeSwitch s) ∧
    (∀ p, switchTo x = .lost p → Completes .planeSwitch s fun t => only t (fun z => z.st = .boundary ∧ z.dsel = none) ∧ t.tiles = s.tiles ∧ SameCores s t ∧
      (getCl t home).pend = (getCl s home).pend ++ [{ kind := 0x0D, ctx := x.lr.ctx, handle := l.handle, p0 := word p.val }]) ∧
    (switchTo x = .again → Completes .planeSwitch s fun t => only t (fun z => z = { x with st := .boundary }) ∧ t.tiles = s.tiles ∧ SameCores s t) ∧
    (∀ p, switchTo x = .take p →
      let on : Bool := x.active.isSome && (getCl s home).ivbase.getLsbD 0 && decide ((getCl s home).ivcfg.toNat % 4096 = x.lr.ctx.toNat)
      (outsWritten x = false ∨ ctxState s l.die x.lr.ctx ≠ 1 ∨ x.cut ≠ none ∨ x.halted = true → Waits .planeSwitch s) ∧
      (∀ q pa k, outsWritten x = true → ctxState s l.die x.lr.ctx = 1 → x.cut = none → x.halted = false → on = true → x.active = some q → parkedAll s = [] →
        let y := getCl s home
        let elems := ts.length + (ts.map fun u => (activeOps (getTile s u)).length).sum
        translate s home.die (coreTable y) 0 (word (y.ivbase.toNat / 2 ^ 12 * 4096 + 64 * (y.ivWritten % 2 ^ (y.ivcfg.toNat / 2 ^ 12 % 16)))) .w = .ok pa k none →
        Completes .planeSwitch s fun t => SameLaunchesBut s t l ∧ SameCoresBut s t (· = home) ∧ (getCl t home).ivWritten = y.ivWritten + 1 ∧
          SameMemBut s t (fun a => pa ≤ a ∧ a < pa + 64) (fun g => g = pa / 64) ∧ isFull t pa = true ∧
          memWord t pa = word (x.lr.ctx.toNat + q.val * 2 ^ 14 + x.phases % 2 ^ 16 * 2 ^ 16 + l.handle * 2 ^ 32) ∧
          memWord t (pa + 8) = word (elems + min x.cycs (2 ^ 32 - 1) * 2 ^ 32) ∧
          (∀ c, c < 12 → memRead t (pa + 16 + 4 * c) 4 = bytesOf 4 (min (aget 0 x.classes c) (2 ^ 32 - 1))) ∧
          ∃ z, findLaunch t l = some z ∧ z.active = some p ∧ z.st = .running ∧ z.cycs = 0 ∧ z.classes = []) ∧
      (outsWritten x = true → ctxState s l.die x.lr.ctx = 1 → x.cut = none → x.halted = false → on = false → Completes .planeSwitch s fun t => SameLaunchesBut s t l ∧ SameCores s t ∧
        (∃ z, findLaunch t l = some z ∧ z.active = some p ∧ z.st = .running ∧ z.phases = x.phases + 1 ∧ z.phaseAt = s.clock ∧ z.decided = false ∧ z.dsel = none ∧ z.choice = none ∧
          ∀ r ∈ x.table, r.pc = (getPlane x p.val).pc → ∀ thr ∈ r.thrs, ∀ w, findThread x thr = some w → ∃ v, findThread z thr = some v ∧ v.st = .flight ∧ v.entered = w.t) ∧
        (∀ u ∈ ts, (getTile t u).active = some p ∧ (getTile t u).cfg = (getTile s u).cfg ∧ (getTile t u).slots = [] ∧ (getTile t u).links = [] ∧ (getTile t u).outs = [] ∧
          (getTile t u).port.queue = [] ∧ (getTile t u).port.entries = if tileMode (getTile s u) p.val = 2 then x.portSet else []) ∧
        ∀ u, u ∉ ts → { getTile t u with queues := [] } = { getTile s u with queues := [] })) ∧
    (∀ r rest, x.rsws = r :: rest → r.hot = false → (∀ u ∈ ts, ∀ e ∈ (getTile s u).links, e.2 = []) →
      let at_ (k : Nat) : TileId := { tileOfKey k with die := l.die }
      (r.cmds.map fun e => (at_ e.1, e.2.1)).Nodup → (∀ e ∈ r.cmds, e.2.1 < 64) → Completes .rswApply s fun t => only t (fun z => z = { x with rsws := rest }) ∧ SameCores s t ∧
        ∀ e ∈ r.cmds, cfgF (getTile t (at_ e.1)) r.plane.val 1 e.2.1 = e.2.2) ∧
    (∀ r rest u e, x.rsws = r :: rest → r.hot = false → u ∈ ts → e ∈ (getTile s u).links → e.2 ≠ [] → Waits .rswApply s)) ∧
  (∀ (u : TileId) (l : LaunchId) (s : State) (x : Launch) (r : RswReq) (rest : List RswReq) (fn : Nat) (v : BitVec 16), s.here = .tile u → ownerOf s u = some l →
    findLaunch s l = some x → x.rsws = r :: rest → r.hot = true → r.cmds = [(tileKey u, fn, v)] → fn < 64 →
    (boxIdle s (getTile s u) (rswNet fn) = false → Waits .rswApply s) ∧
    (boxIdle s (getTile s u) (rswNet fn) = true → Completes .rswApply s fun t => SameMem s t ∧ SameCores s t ∧ SameTilesBut s t (· = u) ∧ SameLaunchesBut s t l ∧
      findLaunch t l = some { x with rsws := rest } ∧ cfgF (getTile t u) r.plane.val 1 fn = v)) ∧
  ∀ (l : LaunchId) (p : Fin 16) (s : State) (x : Launch), s.here = .edge l p → findLaunch s l = some x → (getStream x p.val).words ≠ [] → (getStream x p.val).req = none →
    let y := getStream x p.val
    let va := strAddr y y.next
    let z (t : State) : Stream := match findLaunch t l with | some w => getStream w p.val | none => {}
    (∀ u d pa k, p.val < 8 → streamSpent y = false → x.st = .running → gateShut s l x = false → x.halted = false → edgeOf s l x p.val = some (u, d) → strHdr y = false →
      (∀ e ∈ aget [] (getTile s u).links (linkKey .vector d), e.2 ≠ s.clock) → translate s l.die (portTable x.portSet) x.lr.ctx va .r = .ok pa k none → isPoison s pa = false →
      Completes .inStreamInject s fun t => SameMem s t ∧ SameCores s t ∧ SameLaunchesBut s t l ∧ SameTilesBut s t (· = u) ∧ z t = { y with next := y.next + 1 } ∧
        let tok : VTok := { valid := 0xFFFF, wt := wOne, key := 0, kind := kData, fmt := strFmt y, thr := strThr y, pay := payloadOf (memRead s (pa / 64 * 64) 64) }
        aget [] (getTile t u).links (linkKey .vector d) = aget [] (getTile s u).links (linkKey .vector d) ++ [(.vec tok, s.clock)]) ∧
    (p.val < 8 → gateShut s l x = true ∨ streamSpent y = true → Waits .inStreamInject s) ∧
    (∀ tok rest, 8 ≤ p.val → y.queue = tok :: rest →
      (∀ v pa k, tok = .vec v → isRecord tok = true → strHdr y = false → y.next < strCount y → translate s l.die (portTable x.portSet) x.lr.ctx va .w = .ok pa k none →
        Completes .outStreamWrite s fun t => SameMemBut s t (fun a => a / 64 = pa / 64) (fun g => g = pa / 64) ∧ t.tiles = s.tiles ∧ SameCores s t ∧ SameLaunchesBut s t l ∧
          (∀ i, i < 64 → memByte t (pa / 64 * 64 + i) = BitVec.ofNat 8 (v.pay.toNat / 2 ^ (8 * i))) ∧ isFull t pa = isFull s pa ∧ isPoison t pa = false ∧
          (z t).next = y.next + 1 ∧ (z t).queue = rest) ∧
      (∀ v, tok = .vec v → isRecord tok = false → strHdr y = false → Completes .outStreamWrite s fun t => SameMem s t ∧ t.tiles = s.tiles ∧ SameCores s t ∧ SameLaunchesBut s t l ∧
        (z t).queue = rest ∧ (z t).next = y.next + if v.kind = kGap ∧ y.next < strCount y then v.key.toNat else 0) ∧
      (∀ v, tok = .vec v → isRecord tok = true → strCount y ≤ y.next → Completes .outStreamWrite s fun t => SameMem s t ∧ t.tiles = s.tiles ∧ SameCores s t ∧
        SameLaunchesBut s t l ∧ (z t).queue = rest ∧ (z t).next = y.next ∧ (z t).excess = y.excess + 1)) ∧
    (8 ≤ p.val → y.complete = false → strCount y ≤ y.next ∨ (y.closed = true ∧ y.queue = []) →
      (∀ home, strCnt y = 0 → x.issuer = some home → Completes .streamComplete s fun t => SameMem s t ∧ t.tiles = s.tiles ∧ SameLaunchesBut s t l ∧
        z t = { y with complete := true, req := none } ∧ (getCl t home).pend = (getCl s home).pend ++
          if strEvr y then [{ kind := 0x25, ctx := x.lr.ctx, handle := l.handle, p0 := word p.val }] else []) ∧
      (∀ pa k, strCnt y ≠ 0 → translate s l.die (portTable x.portSet) x.lr.ctx (strCnt y) .w = .ok pa k none → parkedAll s = [] → Completes .streamComplete s fun t =>
        SameMemBut s t (fun a => pa ≤ a ∧ a < pa + 8) (fun g => g = pa / 64) ∧ memWord t pa = memWord s pa + 1 ∧ isFull t pa = true ∧ t.tiles = s.tiles ∧
        z t = { y with complete := true, req := none }))

/-! ## Copy and collective engines, Yunajor Link -/

/-- R228, R313, R328, R389 to R392, R427, R432: a copy of a cluster whose clocks run starts and writes its granules in any order, setting each full; a segment
without a permission is given up with a record, one whose page request is answered is written again, one whose request failed is given up; a finished copy gives
its bank token, its count and its record; a collective starts with its members, gives them its source, combines the members' granules and ends; a flit is taken
in order, answered for replay, dropped for its key; a peer's request is performed and answered; a port that has trained is up. The model's own: a port retrains
at the seventeenth failure and what it kept moves to ports that are up (log 62); no other segment is written while a replayed one is unfinished, and a ring that
waits for a skipped segment lets it be replayed (log 33); status 5 for a rank refused at the start, and what counts as a disagreement (log 61). -/
def Obligations.EnginesAndLinks : Prop :=
  (∀ (c : ClusterId) (s : State) (tr : Transfer) (rest : List Transfer), (getCl s c).copy.queue = tr :: rest → tr.core = c →
    let e : EngineId := .copy c
    let head (t : State) (z : Transfer) : Prop := getCl t c = { getCl s c with copy := { (getCl s c).copy with queue := z :: rest } }
    (s.here = .engine e → clocked s c = true → Completes .copyStart s fun t => OnlyCore s t c ∧ head t { tr with started := true }) ∧
    (s.here = .engine e → clocked s c = false → Waits .copyStart s ∧ Waits .engineDone s ∧ Waits .fixupReplay s) ∧
    let behind (k : Nat) : Bool := behindReplay tr (segOf e tr k) (copyReplays (getCl s c) c tr)
    (∀ k pa qa i j, s.here = .granule e k → clocked s c = true → tr.started = true → granOpen e tr k = true → tr.fix.length < 64 → behind k = false → cpSpace tr = 0 → copyRing tr = none →
      translate s c.die (coreTable (getCl s c)) tr.ctx (cpSrc tr k) .r = .ok pa i none → translate s c.die (coreTable (getCl s c)) tr.ctx (cpDst tr k) .w = .ok qa j none →
      qa % 64 = 0 → parkedAll s = [] → Completes .engineWrite s fun t => SameMemBut s t (fun a => qa ≤ a ∧ a < qa + 64) (fun g => g = qa / 64) ∧ t.tiles = s.tiles ∧ t.launches = s.launches ∧
        SameCoresBut s t (· = c) ∧ (∀ n, n < 64 → memByte t (qa + n) = memByte s (pa + n)) ∧ isFull t qa = true ∧ isPoison t qa = isPoison s pa ∧
        head t { tr with written := k :: tr.written }) ∧
    (∀ k n, s.here = .granule e k → clocked s c = true → tr.started = true → granOpen e tr k = true → tr.fix.length < 64 → behind k = false → cpSpace tr = 0 → copyRing tr = none → tr.permed = false →
      translate s c.die (coreTable (getCl s c)) tr.ctx (cpSrc tr k) .r = .perm n → Completes .engineWrite s fun t => SameMem s t ∧ t.tiles = s.tiles ∧
        (getCl t c).copy.queue = { tr with failed := segOf e tr k :: tr.failed, permed := true } :: rest ∧
        (getCl t c).pend = (getCl s c).pend ++ [{ kind := 0x30, ctx := tr.ctx, p0 := cpSrc tr k, p1 := faultP1 0xFF (ctxGen s c.die tr.ctx) n 3 2 }]) ∧
    (∀ k pa i, s.here = .granule e k → clocked s c = true → tr.started = true → granOpen e tr k = true → tr.fix.length < 64 → behind k = false → cpSpace tr ≠ 0 → copyRing tr = none →
      let g := (tr.words.getD 1 0).toNat / 64 + k
      claimed (getCl s c) (cpSpace tr) g = false → parkedAll s = [] → translate s c.die (coreTable (getCl s c)) tr.ctx (cpSrc tr k) .r = .ok pa i none →
      Completes .engineWrite s fun t => SameMem s t ∧ t.tiles = s.tiles ∧ t.launches = s.launches ∧ SameCoresBut s t (· = c) ∧ (getCl t c).regs = (getCl s c).regs ∧
        granRead (getCl t c) (cpSpace tr) g = payloadOf (memRead s pa 64) ∧ bufIsFull (getCl t c) (cpSpace tr) g = true ∧
        (getCl t c).copy.queue = { tr with written := k :: tr.written } :: rest) ∧
    (∀ k, s.here = .granule e k → clocked s c = false ∨ tr.started = false ∨ granOpen e tr k = false ∨ 64 ≤ tr.fix.length ∨ behind k = true → Waits .engineWrite s) ∧
    (s.here = .engine e → tr.started = false ∨ jobDone e tr = false → Waits .engineDone s) ∧
    (s.here = .engine e → clocked s c = true → tr.started = true → jobDone e tr = true → tr.step = 0 → tr.words.getD 4 0 = 0 → Completes .engineDone s fun t => OnlyCore s t c ∧
      let w3 := tr.words.getD 3 0
      (getCl t c).copy.queue = rest ∧ (getCl t c).bktok = (if w3.getLsbD 6 then (getCl s c).bktok ||| (1#32 <<< (w3.toNat / 2 % 32)) else (getCl s c).bktok) ∧
      (getCl t c).pend = (getCl s c).pend ++ if w3.getLsbD 0 then [{ kind := 0x24, ctx := tr.ctx, p0 := word tr.num }] else []) ∧
    (∀ pa i, s.here = .engine e → clocked s c = true → tr.started = true → jobDone e tr = true → tr.words.getD 4 0 ≠ 0 → tr.bump = none → tr.failed = [] → parkedAll s = [] →
      translate s c.die (coreTable (getCl s c)) tr.ctx (tr.words.getD 4 0) .w = .ok pa i none → Completes .engineDone s fun t =>
        SameMemBut s t (fun a => pa ≤ a ∧ a < pa + 8) (fun g => g = pa / 64) ∧ memWord t pa = memWord s pa + 1 ∧ isFull t pa = true ∧ (getCl t c).copy.queue = rest) ∧
    let last : Prop := (∀ k, k < jobLen e tr → granOpen e tr k = false) ∨ 64 ≤ tr.fix.length ∨ ringStuck s c tr = true
    (s.here = .engine e → ¬ last ∨ copyReplays (getCl s c) c tr = true → Waits .fixupReplay s) ∧
    (∀ f fs, s.here = .engine e → clocked s c = true → tr.started = true → tr.fix = f :: fs → last → copyReplays (getCl s c) c tr = false →
      (reqStands s c.die (f.req, f.serial) = true → Waits .fixupReplay s) ∧
      (reqStands s c.die (f.req, f.serial) = false → reqFailed s c.die f.serial = false → Completes .fixupReplay s fun t => OnlyCore s t c ∧ head t { tr with fix := fs, cur := some f.first }) ∧
      (reqStands s c.die (f.req, f.serial) = false → reqFailed s c.die f.serial = true → tr.fataled = false → copyRing tr = none → Completes .fixupReplay s fun t => OnlyCore s t c ∧
        (getCl t c).copy.queue = { tr with fix := fs, failed := f.first :: tr.failed, fataled := true, cur := none } :: rest ∧
        (getCl t c).pend = (getCl s c).pend ++ [{ kind := 0x30, ctx := tr.ctx, p0 := f.va, p1 := faultP1 f.req (failedAs s c.die f.serial).2 (failedAs s c.die f.serial).1 3 4 }]))) ∧
  (∀ (d : Fin 4) (s : State) (tr : Transfer) (rest : List Transfer), (getDie s d).collective.queue = tr :: rest →
    let e : EngineId := .collective d
    let key := ctxKey s d tr.ctx
    (s.here = .engine e → tr.started = true → Waits .collectiveStart s) ∧
    (s.here = .engine e → tr.started = false → colMembers s d tr.ctx (colRanks tr) = none → Completes .collectiveStart s fun t => SameMem s t ∧ t.tiles = s.tiles ∧
      t.clusters = s.clusters ∧ (getDie t d).collective.queue = { tr with started := true, status := 5 } :: rest) ∧
    (∀ ms, s.here = .engine e → tr.started = false → colMembers s d tr.ctx (colRanks tr) = some ms → Completes .collectiveStart s fun t => SameMem s t ∧ t.tiles = s.tiles ∧
      t.clusters = s.clusters ∧ ∃ z, (getDie t d).collective.queue = z :: rest ∧ z.started = true ∧ z.ranks = ms ∧ z.words = tr.words ∧ z.written = tr.written) ∧
    (∀ k cs pa i, s.here = .granule e k → tr.started = true → tr.status = 0 → granOpen e tr k = true → tr.fix.length < 64 →
      behindReplay tr (segOf e tr k) (colReplays (getDie s d) key d tr) = false → colMismatch (getDie s d) key tr = false → colSrcLen tr ≤ k → colSources (getDie s d) key tr (k - colSrcLen tr) = some cs →
      (∀ x ∈ cs, x.bytes ≠ []) → translate s d (coreTable (getCl s tr.core)) tr.ctx (tr.words.getD 1 0 + word (64 * (k - colSrcLen tr))) .w = .ok pa i none → pa % 64 = 0 →
      parkedAll s = [] → Completes .engineWrite s fun t => SameMemBut s t (fun a => pa ≤ a ∧ a < pa + 64) (fun g => g = pa / 64) ∧ t.tiles = s.tiles ∧ t.clusters = s.clusters ∧
        memRead t pa 64 = payloadBytes (colCombine tr (cs.map fun x => payloadOf x.bytes)) ∧ isFull t pa = true ∧ isPoison t pa = cs.any (·.bad) ∧
        (getDie t d).collective.queue = { tr with written := k :: tr.written } :: rest) ∧
    (∀ k pa i, s.here = .granule e k → tr.started = true → tr.status = 0 → granOpen e tr k = true → tr.fix.length < 64 →
      behindReplay tr (segOf e tr k) (colReplays (getDie s d) key d tr) = false → colMismatch (getDie s d) key tr = false → k < colSrcLen tr →
      translate s d (coreTable (getCl s tr.core)) tr.ctx (tr.words.getD 0 0 + word (64 * k)) .r = .ok pa i none → Completes .engineWrite s fun t => SameMem s t ∧ t.tiles = s.tiles ∧
        t.clusters = s.clusters ∧ ⟨key, colTag tr, colMe tr, k, memRead s pa 64, isPoison s pa⟩ ∈ (getDie t d).chunks ∧
        ∃ z, (getDie t d).collective.queue = z :: rest ∧ z.written = k :: tr.written) ∧
    (s.here = .engine e → tr.started = false ∨ (jobDone e tr = false ∧ colStatus s d tr = 0) → Waits .engineDone s) ∧
    (s.here = .engine e → tr.started = true → jobDone e tr = true → colStatus s d tr = 0 → (∀ r ∈ colOthers tr, (key, colTag tr, r) ∈ (getDie s d).peersDone) →
      tr.words.getD 5 0 = 0 → Completes .engineDone s fun t => SameMem s t ∧ t.tiles = s.tiles ∧ SameCores s t ∧ (getDie t d).collective.queue = rest ∧
        (getCl t tr.core).pend = (getCl s tr.core).pend ++ if (tr.words.getD 3 0).getLsbD 0 then
          [{ kind := 0x28, ctx := tr.ctx, p0 := word tr.num, p1 := word (min tr.failed.length 255 * 256) }] else []) ∧
    (s.here = .engine e → tr.started = true → colStatus s d tr ≠ 0 → tr.words.getD 5 0 = 0 → Completes .engineDone s fun t => SameMem s t ∧ t.tiles = s.tiles ∧ SameCores s t ∧
      (getDie t d).collective.queue = rest ∧ (getCl t tr.core).pend = (getCl s tr.core).pend ++ if (tr.words.getD 3 0).getLsbD 0 then
        [{ kind := 0x28, ctx := tr.ctx, p0 := word tr.num, p1 := word (colStatus s d tr + min tr.failed.length 255 * 256) }] else [])) ∧
  (∀ (d : Fin 4) (p : Fin 16) (f : Flit) (s : State), s.here = .flit d p f →
    let y := getYl s d p
    let reply (b : FlitBody) : OutItem := .flit d p { dev := 0, die := 0, seq := 0, pkey := 0, crcOk := true, body := b }
    let keeps (t : State) : Prop := SameMem s t ∧ t.tiles = s.tiles ∧ t.clusters = s.clusters ∧ t.launches = s.launches
    (y.st ≠ 2 → Waits .flitReceive s) ∧
    let fails := if f.seq = y.expect then y.fails + 1 else y.fails
    (y.st = 2 → f.crcOk = false → fails ≤ 16 → Completes .flitReceive s fun t => keeps t ∧ t.out = s.out ++ [reply (.replay f.seq)] ∧
      getYl t d p = { y with crcerr := min 65535 (y.crcerr + 1), replay := min 65535 (y.replay + 1), fails := fails }) ∧
    (y.st = 2 → f.crcOk = false → 16 < fails →
      let down : YlPort := { y with st := 1, fails := 0, crcerr := min 65535 (y.crcerr + 1) }
      Completes .flitReceive s fun t => keeps t ∧ (getYl t d p).st = 1 ∧ (getYl t d p).fails = 0 ∧ (getYl t d p).replay = y.replay ∧
        ((∀ q, q ≠ p → (getYl s d q).st ≠ 2) → getYl t d p = down ∧ t.out = s.out) ∧
        (∀ g q, y.sent = [g] → y.waiting = [] → otherWay (updYl s d p fun _ => down) d g = some q → (getYl s d q).sent.length < 512 →
          getYl t d p = { down with sent := [] } ∧ t.out = s.out ++ [.flit d q { g with seq := (getYl s d q).nextSeq }])) ∧
    (∀ n, y.st = 2 → f.crcOk = true → f.body = .ack n →
      let kept := y.sent.filter fun g => decide (n ≤ g.seq)
      Completes .flitReceive s fun t => keeps t ∧ (y.waiting = [] → t.out = s.out ∧ getYl t d p = { y with sent := kept }) ∧
        ∀ g, y.waiting = [g] → kept.length < 512 → t.out = s.out ++ [.flit d p { g with seq := y.nextSeq }] ∧
          getYl t d p = { y with sent := kept ++ [{ g with seq := y.nextSeq }], nextSeq := y.nextSeq + 1, waiting := [] }) ∧
    (∀ n, y.st = 2 → f.crcOk = true → f.body = .replay n →
      let z : YlPort := if n < y.nextSeq ∧ ∀ g ∈ y.sent, g.seq ≠ n then
        { y with sent := y.sent.zipIdx.map (fun (g, i) => { g with seq := n + i }), nextSeq := n + y.sent.length } else y
      Completes .flitReceive s fun t => keeps t ∧ getYl t d p = z ∧ t.out = s.out ++ (z.sent.filter fun g => decide (n ≤ g.seq)).map (fun g => .flit d p g)) ∧
    (y.st = 2 → f.crcOk = true → (∀ n, f.body ≠ .ack n ∧ f.body ≠ .replay n) →
      (f.seq ≠ y.expect → Waits .flitReceive s) ∧
      (f.seq = y.expect → keyPasses (getDie s d) f.pkey.toNat p.val = false → Completes .flitReceive s fun t => keeps t ∧ t.out = s.out ++ [reply (.ack (y.expect + 1))] ∧
        getYl t d p = { y with expect := y.expect + 1, fails := 0 } ∧
        let drops (s : State) : List PortDrop := aget [] (getDie s d).portDrops (2 * p.val + 1)
        let same (y : PortDrop) : Prop := y.key = f.pkey ∧ y.core = none ∧ y.ctx = 0
        ((∀ y ∈ drops s, ¬ same y) → drops t = drops s ++ [{ count := 1, key := f.pkey, core := none, ctx := 0 }]) ∧
        ∀ y, y ∈ drops s → same y → { y with count := y.count + 1 } ∈ drops t) ∧
      (∀ tag rank off bs bad, f.seq = y.expect → keyPasses (getDie s d) f.pkey.toNat p.val = true → f.dev = Config.deviceNumber.toNat → f.die = d → f.body = .chunk tag rank off bs bad →
        Completes .flitReceive s fun t => keeps t ∧ t.out = s.out ++ [reply (.ack (y.expect + 1))] ∧
          (getDie t d).chunks = (getDie s d).chunks ++ [⟨f.pkey.toNat, tag, rank, off, bs, bad⟩]) ∧
      (∀ tag rank shape, f.seq = y.expect → keyPasses (getDie s d) f.pkey.toNat p.val = true → f.dev = Config.deviceNumber.toNat → f.die = d → f.body = .join tag rank shape →
        Completes .flitReceive s fun t => keeps t ∧ t.out = s.out ++ [reply (.ack (y.expect + 1))] ∧
          if shape ≠ [] ∧ (f.pkey.toNat, rank) ∈ (getDie s d).skipJoins then
            (getDie t d).joins = (getDie s d).joins ∧ (getDie t d).skipJoins = (getDie s d).skipJoins.erase (f.pkey.toNat, rank)
          else (getDie t d).joins = (getDie s d).joins ++ [⟨f.pkey.toNat, tag, rank, shape⟩] ∧ (getDie t d).skipJoins = (getDie s d).skipJoins) ∧
      (let answers (t : State) (dev : Nat) (die : Fin 4) (b : FlitBody) : Prop :=
         t.out = s.out ++ [reply (.ack (y.expect + 1)), .flit d p { dev := dev, die := die, seq := y.nextSeq, pkey := f.pkey, crcOk := true, body := b }]
       f.seq = y.expect → keyPasses (getDie s d) f.pkey.toNat p.val = true → f.dev = Config.deviceNumber.toNat → y.sent.length < 512 →
        (∀ id dev die pa, f.body = .readRequest id dev die pa → Completes .flitReceive s fun t => keeps t ∧
          let g := pa % 2 ^ 39 / 64 * 64
          answers t dev die (.reply id (memRead s g 64) (isFull s g))) ∧
        (∀ id dev die pa bs full, f.body = .writeRequest id dev die pa bs full → bs.length = 64 → parkedAll s = [] → Completes .flitReceive s fun t =>
          let g := pa % 2 ^ 39 / 64 * 64
          SameMemBut s t (fun a => g ≤ a ∧ a < g + 64) (fun b => b = g / 64) ∧ memRead t g 64 = bs ∧ isFull t g = full ∧ isPoison t g = false ∧
          t.tiles = s.tiles ∧ t.clusters = s.clusters ∧ answers t dev die (.reply id [] full))))) ∧
  ∀ (d : Fin 4) (p : Fin 18) (b : Bool) (s : State), s.here = .port d p b → p.val < 16 →
    let y := getYl s d (Fin.ofNat 16 p.val)
    (y.st = 2 → Waits .linkTrainingDone s) ∧
    let q : Fin 16 := Fin.ofNat 16 p.val
    let again := y.sent.map fun f => OutItem.flit d q f
    (y.st ≠ 2 → Completes .linkTrainingDone s fun t => SameMem s t ∧ t.tiles = s.tiles ∧ t.clusters = s.clusters ∧ (getYl t d q).st = 2 ∧ (getYl t d q).fails = 0 ∧
      (y.waiting = [] → getYl t d q = { y with st := 2, fails := 0 } ∧ t.out = s.out ++ again) ∧
      ∀ g, y.waiting = [g] → y.sent.length < 512 → t.out = s.out ++ again ++ [.flit d q { g with seq := y.nextSeq }] ∧ (getYl t d q).waiting = [])

/-- R288, R289, R314, R328, R393 to R401, R405: a work request starts, its scout pass goes a page further, its packets are sent in posting order when their
granules translate and sent again when their time is over, and after eight retries it ends with TIMEOUT; an arriving packet is dropped for its key or its
endpoint, refused, or placed granule by granule and then owed an acknowledgement; acknowledgements are sent on every fourth packet and after their time, and
taken; a finished request gives its count and its record. The model's own (log 63): what an acknowledgement names (what is owed and the last 64 taken), every
fourth counted over all that an endpoint has taken, what counts as missing, and a packet taken when its last granule is written; a packet's security is the
endpoint's key index (log 90). -/
def Obligations.NetworkEngineMoves : Prop :=
  let others (s t : State) (d : Fin 4) (n : Nat) : Prop := ∀ m, m ≠ n → findWr t d m = findWr s d m
  let keeps (s t : State) : Prop := t.tiles = s.tiles ∧ SameCores s t ∧ t.launches = s.launches
  (∀ (d : Fin 4) (s : State), s.here = .die d →
    ((∀ w ∈ (getDie s d).wreqs, w.started = true) → Waits .workRequestStart s) ∧
    (∀ w, (getDie s d).wreqs.find? (fun w => !w.started) = some w → findWr s d w.num = some w → Completes .workRequestStart s fun t => SameMem s t ∧ keeps s t ∧
      findWr t d w.num = some { w with started := true } ∧ others s t d w.num)) ∧
  (∀ (d : Fin 4) (n k : Nat) (s : State) (w : WorkReq), s.here = .packetOf d n k → findWr s d n = some w → w.num = n →
    let p := aget ({} : PktSt) w.pkts k
    (wrSends w = false → Waits .scoutPass s ∧ Waits .packetSend s ∧ Waits .retransmitTimeout s) ∧
    (∀ pa i, wrSends w = true →
      let page (a : Word) : Nat := a.toNat / 2 ^ 16
      let first := page (wrLaddr w)
      w.scout < page (wrLaddr w + word (wrLen w - 64)) - first + 1 → w.scout ≤ page (wrLaddr w + word (4096 * wrPos w)) - first + wrScout w →
      knownReq w.reqs (first + w.scout) = none →
      translate s d (coreTable (getCl s w.core)) w.ctx (word ((first + w.scout) * 65536)) (wrNeed w) = .ok pa i none → Completes .scoutPass s fun t => SameMem s t ∧ keeps s t ∧
        findWr t d n = some { w with scout := w.scout + 1 } ∧ others s t d n) ∧
    (∀ s1 rs pas, wrSends w = true → neSpan d w.core w.ctx (wrNeed w) (pktLen (wrLen w) (4096 * k) / 64) (wrLaddr w + word (4096 * k)) w.reqs s = (s1, rs, .ok pas) →
      let ep := wrEp w
      let port := epPort s1 d ep
      let key := ctxKey s1 d (epCtx s1 d ep)
      let src := Config.fabricAddr d.val port.val
      let packet (plsn : Nat) : OutItem := .packet d port
        { pid := (epWord s1 d ep 3).toNat % 256, src := src, dst := epWord s1 d ep 1 ++ epWord s1 d ep 2,
          sec := if (epWord s1 d ep 0).getLsbD 62 then some ((epWord s1 d ep 4).extractLsb' 0 8) else none, job := epJob s1 d ep, pkey := BitVec.ofNat 12 key,
          plsn := plsn, trimmed := false, body := pktBody w (4096 * k) (spanRead s1 pas) }
      let passes : Prop := keyPasses (getDie s1 d) key (16 + port.val) = true
      let sent (t : State) (q : PktSt) : Prop := keeps s t ∧ t.mem = s1.mem ∧ others s1 t d n ∧ ∃ z, findWr t d n = some z ∧ aget ({} : PktSt) z.pkts k = q ∧ z.reqs = rs
      (k < wrPkts w → p.sent = false → wrPos w = k → sendsBefore (getDie s d) n = false → wrRod w = false → (getDie s1 d).neinj.getLsbD 63 = false → Completes .packetSend s fun t =>
        sent t { p with sent := true, lost := false, tries := 0, due := s.clock + cyc100us, plsn := 0, psn := (getEp s1 d ep).psn } ∧
        (getDie t d).dataSent = (getDie s1 d).dataSent + 1 ∧ (passes → t.out = s1.out ++ [packet 0]) ∧ (¬ passes → t.out = s1.out)) ∧
      (p.sent = false → wrPos w ≠ k ∨ sendsBefore (getDie s d) n = true → Waits .packetSend s) ∧
      (k < wrPkts w → p.sent = true → p.acked = false → p.lost = true → passes → Completes .packetSend s fun t =>
        sent t { p with lost := false, due := s.clock + cyc100us * 2 ^ p.tries } ∧ t.out = s1.out ++ [packet p.plsn] ∧ (getDie t d).retx = (getDie s1 d).retx + 1) ∧
      (p.sent = true → p.acked = false → p.due ≤ s.clock → p.tries < 8 → passes → Completes .retransmitTimeout s fun t =>
        sent t { p with lost := false, tries := p.tries + 1, due := s.clock + cyc100us * 2 ^ (p.tries + 1) } ∧ t.out = s1.out ++ [packet p.plsn] ∧
        (getDie t d).retx = (getDie s1 d).retx + 1)) ∧
    (wrSends w = true → p.sent = true → p.acked = false → p.due ≤ s.clock → 8 ≤ p.tries → Completes .retransmitTimeout s fun t => SameMem s t ∧ keeps s t ∧ t.out = s.out ∧
      findWr t d n = some { w with status := some 2 } ∧ others s t d n) ∧
    (p.sent = false ∨ p.acked = true ∨ s.clock < p.due → Waits .retransmitTimeout s)) ∧
  (∀ (d : Fin 4) (port : Fin 2) (p : Packet) (s : State), s.here = .packet d port p →
    let passes := keyPasses (getDie s d) p.pkey.toNat (16 + port.val)
    let e := getEp s d p.pid
    let core := epCore s d p.pid
    let ctx := epCtx s d p.pid
    let fresh (msg off : Nat) : Prop := (msg, off) ∉ e.taken ∧ ∀ l ∈ e.landing, ¬ (l.back = false ∧ l.msg = msg ∧ l.off = off)
    let pageFree (rs : List (Nat × Nat × Nat)) (a : Word) : Prop := knownReq rs (a.toNat / 2 ^ 16) = none
    let answers : Prop := keyPasses (getDie s d) (ctxKey s d ctx) (16 + (epPort s d p.pid).val) = true
    let drops (t : State) : Prop := SameMem s t ∧ keeps s t ∧ t.out = s.out ∧ (getDie t d).drops = (getDie s d).drops + 1
    (∀ msg raddr len off bs bad, p.body = .write msg raddr len false off bs bad →
      (p.trimmed = true → Waits .packetReceive s) ∧
      (p.trimmed = false → passes = false → Completes .packetReceive s drops) ∧
      (p.trimmed = false → passes = true → epAccepts s d p = false → Completes .packetReceive s drops) ∧
      (p.trimmed = false → passes = true → epAccepts s d p = true → e.refused = [] →
        (∀ l ∈ e.landing, l.back = false → l.msg = msg → l.off = off → (msg, off) ∉ e.taken → Waits .packetReceive s) ∧
        ((msg, off) ∈ e.taken → (e.got + 1) % 4 ≠ 0 → Completes .packetReceive s fun t => SameMem s t ∧ keeps s t ∧ t.out = s.out ∧
          getEp t d p.pid = { e with unacked := e.unacked ++ [(msg, off)], lastAt := s.clock, got := e.got + 1 }) ∧
        ∀ pa i, fresh msg off → bs.length = 64 → pageFree e.reqs (raddr + word off) → translate s d (coreTable (getCl s core)) ctx (raddr + word off) .w = .ok pa i none →
          Completes .packetReceive s fun t => SameMem s t ∧ keeps s t ∧ t.out = s.out ∧ (getEp t d p.pid).taken = e.taken ∧ (getEp t d p.pid).unacked = e.unacked ∧
            (getEp t d p.pid).landing = e.landing ++ [{ core := core, seq := s.seq, msg := msg, off := off, ctx := ctx, left := [(0, pa)], bytes := bs, bad := bad }])) ∧
    (∀ msg tag len off bs bad, p.body = .send msg tag len false off bs bad → p.trimmed = false → passes = true → epAccepts s d p = true → e.refused = [] → fresh msg off →
      (matchRecv s d p.pid msg tag len = none → answers → Completes .packetReceive s fun t => SameMem s t ∧ keeps s t ∧ (getEp t d p.pid).refused = [(msg, 1)] ∧
        ∃ q, t.out = s.out ++ [.packet d (epPort s d p.pid) q] ∧ q.body = .refuse msg 1) ∧
      ∀ w pa i, matchRecv s d p.pid msg tag len = some w → findWr s d w.num = some w → bs.length = 64 → pageFree e.reqs (wrLaddr w + word off) →
        translate s d (coreTable (getCl s core)) ctx (wrLaddr w + word off) .w = .ok pa i none → Completes .packetReceive s fun t => SameMem s t ∧ keeps s t ∧ t.out = s.out ∧
          findWr t d w.num = some { w with matched := some (msg, len) } ∧
          (getEp t d p.pid).landing = e.landing ++ [{ core := core, seq := s.seq, msg := msg, off := off, ctx := ctx, left := [(0, pa)], bytes := bs, bad := bad, recv := some w.num }]) ∧
    (∀ msg raddr len off pa i, p.body = .readRequest msg raddr len false off → p.trimmed = false → passes = true → epAccepts s d p = true → e.refused = [] → pktLen len off = 64 →
      pageFree e.reqs (raddr + word off) → translate s d (coreTable (getCl s core)) ctx (raddr + word off) .r = .ok pa i none → answers →
      Completes .packetReceive s fun t => SameMem s t ∧ keeps s t ∧ ∃ q, t.out = s.out ++ [.packet d (epPort s d p.pid) q] ∧
        q.body = .readReturn msg off (memRead s pa 64) (if isPoison s pa then [0] else [])) ∧
    (∀ msg off bs bad w pa i, p.body = .readReturn msg off bs bad → p.trimmed = false → passes = true → epAccepts s d p = true → findWr s d msg = some w → wrSends w = true →
      wrOp w = 2 → wrEp w = p.pid → off / 4096 < wrPkts w → (aget ({} : PktSt) w.pkts (off / 4096)).acked = false → (∀ l ∈ e.landing, ¬ (l.back = true ∧ l.msg = msg ∧ l.off = off)) →
      bs.length = 64 → pageFree w.reqs (wrLaddr w + word off) → translate s d (coreTable (getCl s w.core)) w.ctx (wrLaddr w + word off) .w = .ok pa i none →
      Completes .packetReceive s fun t => SameMem s t ∧ keeps s t ∧ t.out = s.out ∧
        (getEp t d p.pid).landing = e.landing ++ [{ core := w.core, seq := s.seq, msg := msg, off := off, ctx := w.ctx, left := [(0, pa)], bytes := bs, bad := bad, back := true }]) ∧
    (∀ pkts w, p.body = .ack pkts → p.trimmed = false → passes = true → epAccepts s d p = true → findWr s d w.num = some w →
      Completes .ackReceive s fun t => SameMem s t ∧ keeps s t ∧ t.out = s.out ∧ ∃ z, findWr t d w.num = some z ∧
        (wrEp w ≠ p.pid ∨ 2 ≤ wrOp w → z = w) ∧
        (wrEp w = p.pid → wrOp w < 2 → z.words = w.words ∧ z.status = w.status ∧ ∀ k, k < wrPkts w →
          let q := aget ({} : PktSt) w.pkts k
          let top := ackTop s d p.pid pkts
          aget ({} : PktSt) z.pkts k = if q.sent = false ∨ q.acked = true then q else if (w.num, 4096 * k) ∈ pkts then { q with acked := true }
            else if q.psn < top ∧ top < q.psn + 64 then { q with lost := true } else q)) ∧
    (∀ msg st w, p.body = .refuse msg st → p.trimmed = false → passes = true → epAccepts s d p = true → findWr s d msg = some w → w.num = msg → wrEp w = p.pid → wrSends w = true →
      Completes .ackReceive s fun t => SameMem s t ∧ keeps s t ∧ findWr t d msg = some { w with status := some st })) ∧
  (∀ (d : Fin 4) (ep : Fin 256) (s : State), s.here = .endpoint d ep →
    let e := getEp s d ep.val
    (e.unacked = [] ∨ s.clock < e.lastAt + 2 * Config.cyclesPerUs → Waits .ackTimer s) ∧
    (∀ msg off, e.unacked = [(msg, off)] → e.lastAt + 2 * Config.cyclesPerUs ≤ s.clock →
      keyPasses (getDie s d) (ctxKey s d (epCtx s d ep.val)) (16 + (epPort s d ep.val).val) = true → Completes .ackTimer s fun t => SameMem s t ∧ keeps s t ∧
        (getEp t d ep.val).unacked = [] ∧ ∃ q, t.out = s.out ++ [.packet d (epPort s d ep.val) q] ∧ q.body = .ack (((msg, off) :: e.taken.take 64).eraseDups) ∧ q.job = epJob s d ep.val)) ∧
  (∀ (d : Fin 4) (k ep j i pa : Nat) (l : Landing) (s : State), s.here = .granule (.network d) k → (netGrans (getDie s d))[k]? = some (ep, j, i, pa) →
    (getEp s d ep).landing[j]? = some l → pa % 64 = 0 → ((l.bytes.drop (64 * i)).take 64).length = 64 → parkedAll s = [] →
    let e := getEp s d ep
    let writes (t : State) : Prop := SameMemBut s t (fun a => pa ≤ a ∧ a < pa + 64) (fun g => g = pa / 64) ∧ keeps s t ∧ memRead t pa 64 = (l.bytes.drop (64 * i)).take 64 ∧
      isFull t pa = true ∧ isPoison t pa = l.bad.contains i
    let last : Prop := ∀ g ∈ l.left, g.1 = i
    (¬ last → Completes .engineWrite s fun t => writes t ∧ t.out = s.out ∧ getEp t d ep = { e with landing := e.landing.set j { l with left := l.left.filter fun g => g.1 ≠ i } }) ∧
    (last → l.back = false → l.rod = false → Completes .engineWrite s fun t => writes t ∧ (getEp t d ep).landing = e.landing.eraseIdx j ∧
      (getEp t d ep).taken = (l.msg, l.off) :: e.taken ∧ (getEp t d ep).lastAt = s.clock ∧ (getEp t d ep).got = e.got + 1 ∧
      (∀ n w, l.recv = some n → findWr s d n = some w → findWr t d n = some { w with placed := l.off :: w.placed, bytes := w.bytes + l.bytes.length }) ∧
      ((e.got + 1) % 4 ≠ 0 → (getEp t d ep).unacked = e.unacked ++ [(l.msg, l.off)] ∧ t.out = s.out) ∧
      ((e.got + 1) % 4 = 0 → (getEp t d ep).unacked = [] ∧ (keyPasses (getDie t d) (ctxKey t d (epCtx t d ep)) (16 + (epPort t d ep).val) = true →
        ∃ q, t.out = s.out ++ [.packet d (epPort t d ep) q] ∧ q.body = .ack ((e.unacked ++ [(l.msg, l.off)] ++ ((l.msg, l.off) :: e.taken).take 64).eraseDups)))) ∧
    (∀ w, last → l.back = true → findWr s d l.msg = some w → Completes .engineWrite s fun t => writes t ∧ t.out = s.out ∧ (getEp t d ep).landing = e.landing.eraseIdx j ∧
      ∃ z, findWr t d l.msg = some z ∧ z.bytes = w.bytes + l.bytes.length ∧ (aget ({} : PktSt) z.pkts (l.off / 4096)).acked = true)) ∧
  ∀ (d : Fin 4) (n : Nat) (s : State) (w : WorkReq), s.here = .item d n → findWr s d n = some w → w.num = n → (getDie s d).wreqs.head? = some w →
    let ends (t : State) : Prop := findWr t d n = none ∧ others s t d n ∧ (getDie t d).completed = ((n, w.ctx, w.status.getD 0) :: (getDie s d).completed).take 256 ∧
      (getCl t w.core).pend = (getCl s w.core).pend ++ if (w.words.getD 3 0).getLsbD 0 then
        [{ kind := 0x27, ctx := w.ctx, p0 := word n, p1 := word (min w.bytes (2 ^ 32 - 1) * 2 ^ 32 + wrOp w * 2 ^ 8 + w.status.getD 0) }] else []
    (wrDone w = false ∨ wrLands s d w = true → Waits .workRequestComplete s) ∧
    (wrDone w = true → wrLands s d w = false → wrCnt w = 0 → Completes .workRequestComplete s fun t => SameMem s t ∧ keeps s t ∧ ends t) ∧
    (∀ pa i, wrDone w = true → wrLands s d w = false → wrCnt w ≠ 0 → w.bump = none → translate s d (coreTable (getCl s w.core)) w.ctx (wrCnt w) .w = .ok pa i none → parkedAll s = [] →
      Completes .workRequestComplete s fun t => SameMemBut s t (fun a => pa ≤ a ∧ a < pa + 8) (fun g => g = pa / 64) ∧ memWord t pa = memWord s pa + 1 ∧ isFull t pa = true ∧ ends t)

/-! ## Contexts: slices, saving, resets, the watchdog; guards -/

/-- R325 to R341: a slice that is over makes its context yield or begins anew; SUSPEND, RESUME and RESET of PCTXCMD; a yielding context is saved, waits, is restored or found lost; a reset
frees everything the context has and raises its generation; the watchdog drains a region that never comes to a boundary and its context fails; the guards follow PRECT; port drops are
reported. The model's own: a slice that ends while its context yields begins its region's overrun, and overruns add up (log 45); the image is written a granule for each PREEMPT behind a
header WRITING (log 46), with bytes that Config lays out (log 17); the residency gate stands before a restore (log 50). -/
def Obligations.ContextMoves : Prop :=
  (∀ (l : LaunchId) (s : State) (x : Launch), s.here = .launch l → findLaunch s l = some x →
    let d := l.die
    let ctx := x.lr.ctx
    let st := ctxState s d ctx
    let done : Prop := x.corner ≠ none ∧ x.sliceLen ≠ 0 ∧ x.sliceAt + x.sliceLen ≤ s.clock ∧ (st = 1 ∨ (st = 2 ∧ x.st = .running ∧ x.expired = none))
    (¬ done → Waits .sliceExpiry s) ∧
    (done → st = 2 → Completes .sliceExpiry s fun t => t.tiles = s.tiles ∧ SameCores s t ∧ SameLaunchesBut s t l ∧ (getCtx t d ctx).sliceEnd = s.clock ∧
      findLaunch t l = some { x with expired := some (x.sliceAt + x.sliceLen) }) ∧
    (let s1 := updCtx (recordWs s d ctx) d ctx fun z => { z with sliceEnd := s.clock }
     done → st = 1 →
      (owesYield s1 d ctx = true → Completes .sliceExpiry s fun t => ctxState t d ctx = 2 ∧ t.tiles = s.tiles ∧ SameCores s t ∧ (getCtx t d ctx).sliceEnd = s.clock ∧
        (x.st = .running → ∃ z k, findLaunch t l = some z ∧ z.expired = some k ∧
          ((∀ e ∈ ctxLaunches s d ctx, e.1 = l → e.2 = x) → k = x.sliceAt + x.sliceLen))) ∧
      (owesYield s1 d ctx = false → Completes .sliceExpiry s fun t => t.tiles = s.tiles ∧ SameCores s t ∧ SameLaunchesBut s t l ∧ (getCtx t d ctx).sliceEnd = s.clock ∧
        ∃ z, findLaunch t l = some z ∧ z.sliceAt = s.clock ∧ 1 ≤ z.sliceLen ∧ z.expired = none)) ∧
    (let late : Prop := ctxState s d ctx = 2 ∧ x.st = .running ∧ x.drainAt = none ∧ x.sliceLen ≠ 0 ∧ x.sliceAt + 4 * x.lr.quant * Config.cyclesPerUs ≤ s.clock ∧ phaseOver s l x = false
     (late → Completes .watchdog s fun t => SameMem s t ∧ t.tiles = s.tiles ∧ SameCores s t ∧ SameLaunchesBut s t l ∧
      findLaunch t l = some { x with gate := true, halted := false, drainAt := some s.clock }) ∧ (¬ late → Waits .watchdog s)) ∧
    (x.drainAt = none → Waits .watchdogDrainEnd s) ∧
    (∀ k home, x.drainAt = some k → x.issuer = some home →
      let empty : Prop := ∀ u ∈ regionTiles l x, tileEmpty (lessParked (getTile s u)) = true
      (s.clock ≤ k ∨ (¬ empty ∧ s.clock < k + 1000 * Config.cyclesPerUs) → Waits .watchdogDrainEnd s) ∧
      (k < s.clock → empty ∨ k + 1000 * Config.cyclesPerUs ≤ s.clock → Completes .watchdogDrainEnd s fun t => ctxState t d ctx = 6 ∧ findLaunch t l = none ∧
        (∀ u ∈ regionTiles l x, (getTile t u).owner = none) ∧
        ∃ r ∈ (getCl t home).pend, r.kind = 0x34 ∧ r.ctx = ctx ∧ r.handle = l.handle ∧ r.p0 = word (s.clock - x.sliceAt) ∧
          (r.p1 = 1 ↔ empty ∧ s.clock < k + 1000 * Config.cyclesPerUs)))) ∧
  (∀ (d : Fin 4) (ctx : BitVec 12) (s : State), s.here = .context d ctx →
    let st := ctxState s d ctx
    let z := getCtx s d ctx
    let mine := ctxLaunches s d ctx
    let placed := mine.filter fun e => e.2.corner.isSome
    ((getDie s d).busy = true → Waits .suspend s ∧ Waits .resume s ∧ Waits .reset s) ∧
    ((getDie s d).busy = false →
      let noted (cmd : BitVec 4) (t : State) : Prop := (getDie t d).cmd = cmd ∧ (getDie t d).ctxn = ctx
      let only (cmd : BitVec 4) (t : State) : Prop := SameMem s t ∧ t.tiles = s.tiles ∧ t.clusters = s.clusters ∧ t.launches = s.launches ∧
        getDie t d = { getDie s d with cmd := cmd, ctxn := ctx }
      (st ≠ 1 → Completes .suspend s (only 1)) ∧ (st = 1 → Completes .suspend s fun t => noted 1 t ∧ ctxState t d ctx = 2 ∧ (getCtx t d ctx).suspended = true ∧ t.tiles = s.tiles ∧ SameCores s t) ∧
      (st ≠ 4 → Completes .resume s (only 2)) ∧
      (st = 4 → Completes .resume s fun t => noted 2 t ∧ SameMem s t ∧ t.tiles = s.tiles ∧ SameCores s t ∧ t.launches = s.launches ∧ getCtx t d ctx = { z with suspended := false }) ∧
      (st = 0 → Completes .reset s fun t => noted 3 t ∧ (∀ e ∈ (getDie t d).reqs, e.2.ctx ≠ ctx) ∧ ctxState t d ctx = 0 ∧ ctxGen t d ctx = ctxGen s d ctx + 1 ∧ t.tiles = s.tiles ∧
        t.launches = s.launches ∧ (∀ e ∈ (getDie t d).l3, e.ctx ≠ ctx) ∧ ∀ c, { getCl t c with l2 := [] } = { getCl s c with l2 := [] } ∧ (c.die = d → ∀ e ∈ (getCl t c).l2, e.ctx ≠ ctx)) ∧
      (st ≠ 0 → Completes .reset s fun t => ctxState t d ctx = 7 ∧ (getDie t d).busy = true ∧ noted 3 t ∧ (getCtx t d ctx).resetFrom = st ∧
        (∀ e ∈ ctxLaunches t d ctx, ∀ u ∈ regionTiles e.1 e.2, (getTile t u).port.queue = []) ∧
        (∀ e ∈ mine, ∃ y, findLaunch t e.1 = some y ∧ y.halted = true ∧ y.gate = true ∧ y.drainAt = none) ∧
        (∀ w ∈ (getDie t d).wreqs, w.ctx ≠ ctx) ∧ (∀ w ∈ (getDie t d).collective.queue, w.ctx ≠ ctx) ∧
        ∀ c, (∀ q, ∀ o ∈ getMq (getCl t c) q, ∀ e ∈ mine, ownerOf s o.tile ≠ some e.1) ∧
          (c.die = d → (∀ w ∈ (getCl t c).copy.queue, w.ctx ≠ ctx) ∧ (∀ e ∈ (getCl t c).sb, e.ctx ≠ ctx) ∧ ∀ e ∈ (getCl t c).loads, e.ctx ≠ ctx))) ∧
    (st ≠ 7 → Waits .resetComplete s) ∧
    (st = 7 → Completes .resetComplete s fun t => ctxState t d ctx = 0 ∧ ctxGen t d ctx = ctxGen s d ctx + 1 ∧ (getDie t d).busy = false ∧ getCtx t d ctx = {} ∧
      (∀ e ∈ mine, findLaunch t e.1 = none ∧ ∀ u ∈ regionTiles e.1 e.2, (getTile t u).owner = none) ∧ (∀ e ∈ (getDie t d).l3, e.ctx ≠ ctx) ∧
      (∀ e ∈ (getDie t d).reqs, e.2.ctx ≠ ctx) ∧ ∀ c, c.die = d → ∀ e ∈ (getCl t c).l2, e.ctx ≠ ctx) ∧
    ((st ≠ 2 ∧ st ≠ 3) ∨ (st = 2 ∧ ∃ e ∈ placed, atStop e.2 = false ∧ regionQuiescent s e.1 e.2 = false) → Waits .preempt s) ∧
    (st = 3 → Completes .preempt s fun t => let n := (z.body.take 64).length
      memRead t (z.image + z.written) n = z.body.take 64 ∧ (∀ a, ¬ (z.image + z.written ≤ a ∧ a < z.image + z.written + n) → memByte t a = memByte s a) ∧
      getCtx t d ctx = { z with written := z.written + n, body := z.body.drop 64 } ∧ t.tiles = s.tiles ∧ t.clusters = s.clusters ∧ t.launches = s.launches) ∧
    (st = 2 → (∀ e ∈ placed, atStop e.2 = true ∨ regionQuiescent s e.1 e.2 = true) →
      let s1 := recordWs (placed.foldl (fun s e => addOverrun s e.1) s) d ctx
      let len := 64 + (imageBody s1 d ctx).length
      let room := 4096 * ((memWord s1 (ctxAddr s d ctx + 0x18)).toNat % 2 ^ 32)
      let image := (memWord s1 (ctxAddr s d ctx + 0x10)).toNat / 2 ^ 12 % 2 ^ 27 * 4096
      (room < len → Completes .preempt s fun t => ctxState t d ctx = 6 ∧ t.tiles = s.tiles ∧ SameCores s t) ∧
      (len ≤ room → Completes .preempt s fun t => (getCtx t d ctx).image = image ∧ (getCtx t d ctx).len = len ∧ (getCtx t d ctx).written = 64 ∧
        (getCtx t d ctx).body = imageBody s1 d ctx ∧
        (getCtx t d ctx).saved.map (·.handle) = placed.map (·.1.handle) ∧
        ((∀ e ∈ placed, e.2.st = .running ∨ (getCl s (homeOf s e.1 e.2)).ivbase.getLsbD 0 = false) → SameCores s t ∧ ∃ gen, memRead t image 64 = imageHeader 0 ctx gen len) ∧
        ∀ e ∈ placed, ∀ u ∈ regionTiles e.1 e.2, (getTile t u).slots = [] ∧ (getTile t u).active = none)) ∧
    (st ≠ 3 ∨ z.body ≠ [] → Waits .saveComplete s) ∧
    (st = 3 → z.body = [] → Completes .saveComplete s fun t => ctxState t d ctx = 4 ∧ SameCores s t ∧ (getCtx t d ctx).waitAt = s.clock ∧
      (z.image + 64 ≤ ctxAddr s d ctx ∨ ctxAddr s d ctx + 8 ≤ z.image → memRead t z.image 64 = imageHeader 1 ctx (ctxGen s d ctx) z.len) ∧
      ∀ e ∈ placed, (∃ y, findLaunch t e.1 = some y ∧ y.st = .saved ∧ y.corner = none ∧ y.sliceLen = 0 ∧ y.loads = []) ∧ ∀ u ∈ regionTiles e.1 e.2, (getTile t u).owner = none) ∧
    (st ≠ 4 ∨ savedFree s d ctx = false ∨ servedBefore s d (savedTurn s d ctx) = true → Waits .restore s) ∧
    (let gate : Prop := z.gateOk = true ∨ gateFree s d ctx (savedResmin s d ctx) = true
     st = 4 → savedFree s d ctx = true → servedBefore s d (savedTurn s d ctx) = false →
      (savedQuant s d ctx ≤ ctxDebt s d ctx → Completes .restore s fun t => (getCtx t d ctx).order = s.seq ∧ (getCtx t d ctx).waitAt = s.clock ∧ t.tiles = s.tiles ∧ t.launches = s.launches ∧ SameCores s t) ∧
      (ctxDebt s d ctx < savedQuant s d ctx → ¬ gate → Waits .restore s) ∧
      (ctxDebt s d ctx < savedQuant s d ctx → gate → memRead s z.image 64 ≠ imageHeader 1 ctx (ctxGen s d ctx) z.len → Completes .restore s fun t =>
        ctxState t d ctx = 6 ∧ t.tiles = s.tiles ∧ t.launches = s.launches ∧ SameCores s t) ∧
      (ctxDebt s d ctx < savedQuant s d ctx → gate → memRead s z.image 64 = imageHeader 1 ctx (ctxGen s d ctx) z.len → Completes .restore s fun t =>
        ctxState t d ctx = 5 ∧ SameCores s t ∧ ∀ r ∈ z.saved, ∀ x, findLaunch s ⟨d, r.handle⟩ = some x → ∃ y, findLaunch t ⟨d, r.handle⟩ = some y ∧ y.corner ≠ none)) ∧
    (st ≠ 5 → Waits .restoreComplete s) ∧
    (st = 5 → (∀ r ∈ z.saved, r.quiescent = false) → parkedAll s = [] → Completes .restoreComplete s fun t => ctxState t d ctx = 1 ∧ t.tiles = s.tiles ∧ (getCtx t d ctx).saved = [] ∧
      ∀ r ∈ z.saved, ∀ x, findLaunch s ⟨d, r.handle⟩ = some x → ∃ y, findLaunch t ⟨d, r.handle⟩ = some y ∧ y.st = .boundary ∧ y.active = none ∧ y.sliceAt = s.clock) ∧
    (st = 5 → (∀ r ∈ z.saved, r.quiescent = true ∧ ∀ e ∈ r.tiles, ∀ a ∈ e.2.port.queue, a.parked = none) → parkedAll s = [] → Completes .restoreComplete s fun t =>
      ctxState t d ctx = 1 ∧ (getCtx t d ctx).saved = [] ∧
      ∀ r ∈ z.saved, ∀ x, findLaunch s ⟨d, r.handle⟩ = some x → ∃ y, findLaunch t ⟨d, r.handle⟩ = some y ∧ y.st = .running ∧ y.hold = none ∧ y.sliceAt = s.clock)) ∧
  (∀ (d : Fin 4) (s : State), s.here = .die d →
    ((getDie s d).guardDue = false → Waits .guardRewrite s) ∧
    ((getDie s d).guardDue = true → Completes .guardRewrite s fun t => SameMem s t ∧ t.tiles = s.tiles ∧ t.clusters = s.clusters ∧ t.launches = s.launches ∧
      getDie t d = { getDie s d with guards := (getDie s d).prect, guardDue := false })) ∧
  ∀ (d : Fin 4) (p : Fin 18) (incoming : Bool) (s : State), s.here = .port d p incoming →
    let key := 2 * p.val + if incoming then 1 else 0
    let ys := aget [] (getDie s d).portDrops key
    (ys = [] ∨ s.clock < aget 0 (getDie s d).portAt key + 1000 * Config.cyclesPerUs → Waits .portGuardReport s) ∧
    (ys ≠ [] → aget 0 (getDie s d).portAt key + 1000 * Config.cyclesPerUs ≤ s.clock → Completes .portGuardReport s fun t => SameMem s t ∧ t.tiles = s.tiles ∧ SameCores s t ∧
      afind (getDie t d).portDrops key = none ∧ aget 0 (getDie t d).portAt key = s.clock ∧
      let kind := if p.val < 16 then 2 else 4
      ∀ y ∈ ys, let r : Rec := { kind := 0x33, ctx := y.ctx, p0 := word (min y.count 65535 * 2 ^ 48 + kind * 2 ^ 44 + 3 * 2 ^ 42 + y.key.toNat * 2 ^ 28), p1 := word p.val }
      ∀ c, y.core = some c → incoming = false → r ∈ (getCl t c).pend)

/-! ## The Parterre, Lodge, the host, power -/

/-- R378 to R384: an evaluation arms pairs of eligible clusters that gain an eighth, no cluster twice; an exchange swaps the tiles and the map entries of two still clusters; a pair held too
long is abandoned; the new map is in force 100 microseconds after an exchange. The model's own: an exchange takes place only while PTCTL.EN is 1 and both occupants may still be moved, and the
power registers stay with their physical cluster (log 60). -/
def Obligations.ParterreMoves : Prop :=
  (∀ (d : Fin 4) (s : State), s.here = .die d →
    let x := getDie s d
    (x.ptctl.getLsbD 63 = false ∨ s.clock < x.evalAt + 10000 * Config.cyclesPerUs → Waits .evaluation s) ∧
    (x.ptctl.getLsbD 63 = true → x.evalAt + 10000 * Config.cyclesPerUs ≤ s.clock → (∀ e ∈ launchesOf s d, e.2.hold = none) → Completes .evaluation s fun t =>
      SameMem s t ∧ t.tiles = s.tiles ∧ t.clusters = s.clusters ∧ t.launches = s.launches ∧ (getDie t d).traf = [] ∧ (getDie t d).evalAt = s.clock ∧
      (∀ p ∈ (getDie t d).armed, 0 < p.dist ∧ 8 * p.dist' ≤ 7 * p.dist ∧ (p.dist, p.dist') = pairDist x p.a.val p.b.val ∧ eligible s d p.a.val = true ∧ eligible s d p.b.val = true ∧
        physPart x p.a.val = physPart x p.b.val ∧ gridDist p.a.val p.b.val = 1) ∧
      (getDie t d).armed.Pairwise (fun p q => p.a ≠ q.a ∧ p.a ≠ q.b ∧ p.b ≠ q.a ∧ p.b ≠ q.b) ∧
      (gaining s d ≠ [] → (getDie t d).armed ≠ [])) ∧
    (x.mapUntil = none → Waits .mapChange s) ∧
    (∀ k, x.mapUntil = some k → (s.clock < k → Waits .mapChange s) ∧
      (k ≤ s.clock → Completes .mapChange s fun t => SameMem s t ∧ t.tiles = s.tiles ∧ t.clusters = s.clusters ∧ getDie t d = { x with mapUntil := none }))) ∧
  ∀ (d : Fin 4) (k : Nat) (s : State) (p : Pair), s.here = .item d k → (getDie s d).armed[k]? = some p →
    let x := getDie s d
    let a := p.a.val
    let b := p.b.val
    let ca := lclOfPcl s d p.a
    let cb := lclOfPcl s d p.b
    let ready : Prop := x.ptctl.getLsbD 63 = true ∧ (∀ i : Fin 64, (getCl s ⟨d, i⟩).shoots = []) ∧ movable s d a = true ∧ movable s d b = true ∧
      stillPhys s d a = true ∧ stillPhys s d b = true
    let mine (y : Launch) : Prop := cornerPhys y = some a ∨ cornerPhys y = some b
    let late : Prop := ∃ e ∈ launchesOf s d, mine e.2 ∧ ∃ n, e.2.hold = some n ∧ n + 100 * Config.cyclesPerUs ≤ s.clock
    (¬ ready → Waits .exchange s) ∧
    (ready → p.a ≠ p.b → pclOfLcl s ca = p.a → pclOfLcl s cb = p.b → (∀ e ∈ onPhys s d a ++ onPhys s d b, ∀ y, findLaunch s e.1 = some y → liveThreads y ≠ 0) → Completes .exchange s fun t =>
      pclOfLcl t ca = p.b ∧ pclOfLcl t cb = p.a ∧ (∀ c, c ≠ ca → c ≠ cb → pclOfLcl t c = pclOfLcl s c) ∧
      (∀ u, (pclOf u).val = a ∨ (pclOf u).val = b → u.die = d → getTile t (swapTile a b u) = getTile s u) ∧
      (∀ u, (pclOf u).val = a ∨ (pclOf u).val = b → u.die = d → ∀ n ∈ busyWindows (getTile s u), (aget {} (getSlice t (sliceOf (swapTile a b u))).wins n).busy = true) ∧
      (let place (old new : Nat) (e : LaunchId × Launch) : Prop := ∃ c, ∃ r ∈ (getCl t c).pend, r.kind = 0x32 ∧ r.ctx = e.2.lr.ctx ∧ r.handle = e.1.handle ∧ r.p0 = word (old * 256 + new) ∧
         r.p1 = word (min p.dist (2 ^ 32 - 1) * 2 ^ 32 + min p.dist' (2 ^ 32 - 1))
       (∀ e ∈ onPhys s d a, place a b e) ∧ ∀ e ∈ onPhys s d b, place b a e) ∧
      SameTilesBut s t (fun u => u.die = d ∧ ((pclOf u).val = a ∨ (pclOf u).val = b)) ∧ (getCl t ca).regs = (getCl s ca).regs ∧ (getCl t cb).regs = (getCl s cb).regs ∧
      (getCl t ca).loc = (getCl s ca).loc ∧ (getCl t ca).pstate = (getCl s cb).pstate ∧ (getCl t cb).pstate = (getCl s ca).pstate ∧ (getDie t d).ptDone = x.ptDone + 1 ∧ (getDie t d).armed = x.armed.eraseIdx k ∧
      (getDie t d).mapUntil = some (s.clock + 100 * Config.cyclesPerUs)) ∧
    (¬ late → Waits .pairAbandon s) ∧
    (late → Completes .pairAbandon s fun t => (getDie t d).armed = x.armed.eraseIdx k ∧ (getDie t d).ptAband = x.ptAband + 1 ∧
      aget 0 (getDie t d).exchAt a = s.clock ∧ aget 0 (getDie t d).exchAt b = s.clock)

/-- R281, R421 to R426, R428, R429: a command of good length that Lodge has not executed before is executed when its header is good, and answered with an entry of the
journal: LAUNCH as at a core, with the port set and descriptors that it carries; CSTART, CSTOP, REGWR and REGRD at their core; -1 for an unassigned operation and a bad header. A
command already executed gets its entry again, -5 while the journal is off. A host writes and reads bytes of memory. POWER_ON brings the package up; the
voltage is trimmed down and up again; heat stops the trim, and then the package. The model's own: CSTART clears bits [2:0] of its address (log 20); -1 for a core that is not ON and for an
unassigned register, and the sends that are dropped (log 64); POWER_ON of a package that is up (log 65); a LAUNCH's descriptors are read through the port set that it carries (log 18). -/
def Obligations.LodgeHostAndPower : Prop :=
  -- commands that are not executed
  (∀ (c : LodgeCmd) (i : Instr) (s : State), s.here = .command c →
    let op := cmdOp c
    let mine : Prop := (i = .lodgeLaunch ∧ op = 1) ∨ (i = .cstart ∧ op = 2) ∨ (i = .cstop ∧ op = 3) ∨ (i = .regwr ∧ op = 4) ∨ (i = .regrd ∧ op = 5) ∨
      (i = .unassignedOp ∧ (op = 0 ∨ 5 < op))
    let replied (t : State) (e : List Byte) : Prop := SameMem s t ∧ t.tiles = s.tiles ∧ t.clusters = s.clusters ∧ t.launches = s.launches ∧ t.ljnext = s.ljnext ∧
      t.journal = s.journal ∧ t.out = s.out ++ [.reply c.src e]
    (c.bytes.length < 64 ∨ 1024 < c.bytes.length → Completes .unassignedOp s fun t => SameMem s t ∧ t.tiles = s.tiles ∧ t.out = s.out ∧
      (getDie t c.die).drops = (getDie s c.die).drops + 1) ∧
    (64 ≤ c.bytes.length → c.bytes.length ≤ 1024 → mine →
      (s.ljbase.getLsbD 63 = false → Completes i s fun t => replied t (lodgeEntry s c 5 0)) ∧
      (∀ e, s.ljbase.getLsbD 63 = true → lodgeSeen s c = some e → Completes i s fun t => replied t e) ∧
      (s.ljbase.getLsbD 63 = true → lodgeSeen s c = none → headerOk c = false → Completes i s fun t => LodgeAnswered s t c 1 0 ∧ LodgeStill s t))) ∧
  -- the operations
  (∀ (c : LodgeCmd) (s : State), LodgeTurn s c →
    let k := cmdCore c
    let x := getCl s k
    let arg := cmdArg c
    let reg := cmdReg c
    let idle : Prop := x.sb = [] ∧ x.loads = []
    (cmdOp c = 0 ∨ 5 < cmdOp c → Completes .unassignedOp s fun t => LodgeAnswered s t c 1 0 ∧ LodgeStill s t) ∧
    (cmdOp c = 2 → x.run = .stopped → x.corestop = false → x.pstate = 0 → Completes .cstart s fun t => LodgeAnswered s t c 0 0 ∧ SameCoresBut s t (· = k) ∧
      getCl t k = { x with run := .running, mode := true, pc := arg &&& ~~~7 } ∧ t.launches = s.launches) ∧
    (cmdOp c = 2 → x.run ≠ .stopped ∨ x.corestop = true ∨ x.pstate ≠ 0 → Completes .cstart s fun t => LodgeAnswered s t c 1 0 ∧ LodgeStill s t) ∧
    (cmdOp c = 3 → Completes .cstop s fun t => LodgeAnswered s t c 0 0 ∧ SameCoresBut s t (· = k) ∧ getCl t k = { x with run := .stopped } ∧ t.launches = s.launches) ∧
    (cmdOp c = 4 → regAssigned reg = false → Completes .regwr s fun t => LodgeAnswered s t c 1 0 ∧ LodgeStill s t) ∧
    (cmdOp c = 4 → regAssigned reg = true → ¬ idle → Waits .regwr s) ∧
    (cmdOp c = 4 → regAssigned reg = true → idle → Completes .regwr s fun t => t = lodgeEnd (regWriteSys s k reg arg) c 0 0) ∧
    (cmdOp c = 4 → reg = 8 → arg.toNat % 8 = 0 → idle → Completes .regwr s fun t => LodgeAnswered s t c 0 0 ∧ SameCoresBut s t (· = k) ∧ getCl t k = { x with tvecs := arg } ∧
      t.launches = s.launches) ∧
    (cmdOp c = 5 → regAssigned reg = false → Completes .regrd s fun t => LodgeAnswered s t c 1 0 ∧ LodgeStill s t) ∧
    (cmdOp c = 5 → regAssigned reg = true → ¬ idle → Waits .regrd s) ∧
    (cmdOp c = 5 → regAssigned reg = true → idle → Completes .regrd s fun t => LodgeAnswered s t c 0 (regReadSys s k reg) ∧ LodgeStill s t) ∧
    (cmdOp c = 5 → reg = 8 → idle → Completes .regrd s fun t => LodgeAnswered s t c 0 x.tvecs ∧ LodgeStill s t) ∧
    (cmdOp c = 1 → 16 < cmdPorts c ∨ cmdBody c ≠ 256 + 32 * cmdPorts c → Completes .lodgeLaunch s fun t => LodgeAnswered s t c 1 0 ∧ LodgeStill s t) ∧
    (cmdOp c = 1 → cmdPorts c ≤ 16 → cmdBody c = 256 + 32 * cmdPorts c →
      let ws := (List.range 32).map fun i => cmdWord c (8 + i)
      (parseRecord ws = none ∨ cmdSet c = none → Completes .lodgeLaunch s fun t => LodgeAnswered s t c 1 0 ∧ LodgeStill s t) ∧
      ∀ r es, parseRecord ws = some r → cmdSet c = some es →
        (cmdDescs s k.die es r.ctx ws = none → Completes .lodgeLaunch s fun t => LodgeAnswered s t c 1 0 ∧ LodgeStill s t) ∧
        ∀ ds, cmdDescs s k.die es r.ctx ws = some ds →
          let ask : Ask := { issuer := none, near := k, sys := true, ctx := r.ctx, ws := ws, place := arg, ports := es, descs := ds }
          (∀ n, acceptLaunch s ask = .error n → Completes .lodgeLaunch s fun t => LodgeAnswered s t c n 0 ∧ LodgeStill s t) ∧
          (LaunchFits s ask r → Completes .lodgeLaunch s fun t => LodgeAnswered s t c 0 (word (nextLaunch s k.die).handle) ∧ LaunchMade s t ask r ∧ t.clusters = s.clusters))) ∧
  -- a host's bytes
  (∀ (pa : Nat) (bs : List Byte) (s : State), s.here = .hostWrite pa bs →
    (2 ^ 39 < pa + bs.length → Waits .hostWrite s) ∧
    (pa + bs.length ≤ 2 ^ 39 → Completes .hostWrite s fun t => t.tiles = s.tiles ∧ t.clusters = s.clusters ∧ t.full = s.full ∧ memRead t pa bs.length = bs ∧
      (∀ a, ¬ (pa ≤ a ∧ a < pa + bs.length) → memByte t a = memByte s a) ∧
      ∀ a, isPoison t a = if pa ≤ a / 64 * 64 ∧ a / 64 * 64 + 64 ≤ pa + bs.length then false else isPoison s a)) ∧
  (∀ (pa n : Nat) (s : State), s.here = .hostRead pa n →
    (2 ^ 39 < pa + n → Waits .hostRead s) ∧
    (pa + n ≤ 2 ^ 39 → Completes .hostRead s fun t => SameMem s t ∧ t.tiles = s.tiles ∧ t.clusters = s.clusters ∧ ∃ bs, t.out = s.out ++ [.hostData bs] ∧ bs.length = n ∧
      ∀ i, i < n → isPoison s (pa + i) = false → bs[i]? = some (memByte s (pa + i)))) ∧
  -- power
  (∀ (v : Word) (s : State), s.here = .power v →
    let good : Prop := 10 ≤ v.toNat % 32 ∧ v.toNat % 32 ≤ 20 ∧ v.toNat / 2 ^ 5 % 2 ^ 11 = 0 ∧ v.toNat / 2 ^ 39 % 2 ^ 24 = 0
    (s.powered = true → s.ljbase.getLsbD 63 = true → Waits .powerOn s) ∧
    (s.powered = false → Completes .powerOn s fun t =>
      t.powered = true ∧ (good → t.ljbase = v) ∧ t.mem = [] ∧ t.full = [] ∧ t.tiles = [] ∧ t.clusters = [] ∧ t.launches = [] ∧ t.clock = 0 ∧ t.flash = s.flash ∧
      ∀ (d : Fin 4) (p : Fin 16), (getYl t d p).st = 1) ∧
    (s.powered = true → s.ljbase.getLsbD 63 = false → Completes .powerOn s fun t => (good → t.ljbase = v) ∧ SameMem s t ∧ t.tiles = s.tiles ∧ t.clusters = s.clusters ∧
      ∀ (d : Fin 4) (p : Fin 16), (getYl t d p).st = if (getYl s d p).st = 0 then 1 else (getYl s d p).st)) ∧
  -- voltage
  (∀ (c : ClusterId) (s : State), s.here = .core c →
    let x := getCl s c
    let still (t : State) : Prop := SameMem s t ∧ t.tiles = s.tiles ∧ SameCoresBut s t (· = c) ∧ (getCl t c).regs = x.regs ∧ (getCl t c).trimAt = s.clock
    (x.trimEn = true → x.trimStep < 24 → x.trimAt + 10000 * Config.cyclesPerUs ≤ s.clock → x.trimRep.getD 0 + 10000 * Config.cyclesPerUs ≤ s.clock →
      Completes .trimStepDown s fun t => still t ∧ (getCl t c).trimStep = x.trimStep + 1) ∧
    (x.trimEn = false ∨ 24 ≤ x.trimStep ∨ s.clock < x.trimAt + 10000 * Config.cyclesPerUs ∨ s.clock < x.trimRep.getD 0 + 10000 * Config.cyclesPerUs → Waits .trimStepDown s) ∧
    (x.trimEn = true → x.trimRep ≠ none → x.trimAt + 1000000 ≤ s.clock → Completes .trimStepUp s fun t => still t ∧ (getCl t c).trimStep = x.trimStep - 1 ∧ (getCl t c).trimRep = none) ∧
    (x.trimEn = false ∨ x.trimRep = none ∨ s.clock < x.trimAt + 1000000 → Waits .trimStepUp s)) ∧
  -- heat
  ∀ (n : Nat) (s : State), s.here = .heat n →
    (n ≤ 105 → Waits .thermalLimit s) ∧ (105 < n → Completes .thermalLimit s fun t => SameMem s t ∧ t.tiles = s.tiles ∧ ∀ c, getCl t c = { getCl s c with trimEn := false }) ∧
    (n < 115 → Waits .thermalShutdown s) ∧
    (115 ≤ n → Completes .thermalShutdown s fun t => t = { s with powered := false, flash := n })
end

