-- ==== Sys2Proof/Laws/Assoc.lean ====
section
/-! SUPPORT. What reading gives after each operation on a sparse table, and that the canonical form is kept. -/
namespace Sys2Proof.Machine

variable {α : Type}

@[simp] theorem aget_nil (d : α) (i : Nat) : aget d [] i = d := rfl
@[simp] theorem afind_nil (i : Nat) : afind ([] : Assoc α) i = none := rfl

theorem aget_eq_afind (d : α) (m : Assoc α) (i : Nat) : aget d m i = (afind m i).getD d := by
  induction m with
  | nil => rfl
  | cons p m ih => obtain ⟨k, v⟩ := p; simp only [aget, afind]; split <;> simp_all

@[simp] theorem afind_aset_same (m : Assoc α) (i : Nat) (x : α) : afind (aset m i x) i = some x := by
  induction m with
  | nil => simp [aset, afind]
  | cons p m ih =>
    obtain ⟨k, v⟩ := p
    simp only [aset]
    split
    · simp [afind, *]
    · split <;> simp [afind, *]

theorem afind_aset_other (m : Assoc α) {i j : Nat} (x : α) (h : j ≠ i) : afind (aset m i x) j = afind m j := by
  induction m with
  | nil => simp [aset, afind, h]
  | cons p m ih =>
    obtain ⟨k, v⟩ := p
    simp only [aset]
    split
    · next e => subst e; simp [afind, h]
    · split
      · simp [afind, h]
      · simp only [afind, ih]

@[simp] theorem aget_aset_same (d : α) (m : Assoc α) (i : Nat) (x : α) : aget d (aset m i x) i = x := by
  simp [aget_eq_afind]

theorem aget_aset_other (d : α) (m : Assoc α) {i j : Nat} (x : α) (h : j ≠ i) : aget d (aset m i x) j = aget d m j := by
  simp [aget_eq_afind, afind_aset_other m x h]

theorem aget_aset (d : α) (m : Assoc α) (i j : Nat) (x : α) : aget d (aset m i x) j = if j = i then x else aget d m j := by
  split
  · next h => subst h; simp
  · next h => exact aget_aset_other d m x h

@[simp] theorem afind_adel_same (m : Assoc α) (i : Nat) : afind (adel m i) i = none := by
  induction m with
  | nil => rfl
  | cons p m ih =>
    obtain ⟨k, v⟩ := p
    simp only [adel]
    split
    · exact ih
    · simp [afind, *]

theorem afind_adel_other (m : Assoc α) {i j : Nat} (h : j ≠ i) : afind (adel m i) j = afind m j := by
  induction m with
  | nil => rfl
  | cons p m ih =>
    obtain ⟨k, v⟩ := p
    simp only [adel]
    split
    · next e => subst e; simp [afind, h, ih]
    · simp only [afind, ih]

theorem aget_aput [DecidableEq α] (d : α) (m : Assoc α) (i j : Nat) (x : α) :
    aget d (aput d m i x) j = if j = i then x else aget d m j := by
  unfold aput
  by_cases hx : x = d <;> by_cases hj : j = i
  · subst hj; simp [hx, aget_eq_afind]
  · simp [hx, hj, aget_eq_afind, afind_adel_other m hj]
  · subst hj; simp [hx]
  · simp [hx, hj, aget_aset_other d m x hj]

@[simp] theorem aget_aput_same [DecidableEq α] (d : α) (m : Assoc α) (i : Nat) (x : α) : aget d (aput d m i x) i = x := by
  simp [aget_aput]

/-! ## The canonical form -/

theorem awf_mono [DecidableEq α] {d : α} {m : Assoc α} {lo lo' : Nat} (hl : lo' ≤ lo) (h : awf d lo m = true) : awf d lo' m = true := by
  cases m with
  | nil => rfl
  | cons p m => obtain ⟨k, v⟩ := p; simp [awf] at h ⊢; exact ⟨⟨by omega, h.1.2⟩, h.2⟩

theorem awf_adel [DecidableEq α] {d : α} {m : Assoc α} {lo : Nat} (i : Nat) (h : awf d lo m = true) : awf d lo (adel m i) = true := by
  induction m generalizing lo with
  | nil => rfl
  | cons p m ih =>
    obtain ⟨k, v⟩ := p
    simp only [awf, Bool.and_eq_true, decide_eq_true_eq] at h
    simp only [adel]
    split
    · exact awf_mono (by omega) (ih h.2)
    · simp [awf, h.1.1, h.1.2, ih h.2]

theorem awf_aset [DecidableEq α] {d : α} {m : Assoc α} {lo : Nat} {i : Nat} {x : α} (hx : x ≠ d) (hi : lo ≤ i)
    (h : awf d lo m = true) : awf d lo (aset m i x) = true := by
  induction m generalizing lo with
  | nil => simp [aset, awf, hx, hi]
  | cons p m ih =>
    obtain ⟨k, v⟩ := p
    simp only [awf, Bool.and_eq_true, decide_eq_true_eq] at h
    simp only [aset]
    split
    · next e => subst e; simp [awf, hx, h.1.1, h.2]
    · split
      · simp [awf, hx, hi, h.1.2, h.2]; omega
      · simp [awf, h.1.1, h.1.2]; exact ih (by omega) h.2

/-- A canonical write keeps the canonical form. -/
theorem awf_aput [DecidableEq α] {d : α} {m : Assoc α} (i : Nat) (x : α) (h : awf d 0 m = true) : awf d 0 (aput d m i x) = true := by
  unfold aput
  split
  · exact awf_adel i h
  · next hx => exact awf_aset hx (Nat.zero_le i) h

end Sys2Proof.Machine
end

