-- ==== Sys2Proof/Laws/Elements.lean ====
section
/-! SUPPORT. Elements of a packed payload, and the lanes that a firing zeroes. -/
namespace Sys2Proof.Machine

theorem getLsbD_packElems {w : Nat} (hw : 0 < w) (l : List Nat) (j : Nat) (hj : j < 512) :
    (packElems w l).getLsbD j = (l.getD (j / w) 0).testBit (j % w) := by
  induction l generalizing j with
  | nil => simp [packElems]
  | cons x l ih =>
    have e : packElems w (x :: l) = (packElems w l <<< w) ||| BitVec.ofNat 512 (x % 2 ^ w) := rfl
    rw [e, BitVec.getLsbD_or, BitVec.getLsbD_shiftLeft, BitVec.getLsbD_ofNat]
    simp only [Nat.testBit_mod_two_pow]
    by_cases h : j < w
    · simp [h, hj, Nat.div_eq_of_lt h, Nat.mod_eq_of_lt h]
    · have h1 : j / w = (j - w) / w + 1 := by
        conv_lhs => rw [show j = (j - w) + w by omega, Nat.add_div_right _ hw]
      have h2 : j % w = (j - w) % w := by
        conv_lhs => rw [show j = (j - w) + w by omega, Nat.add_mod_right]
      simp [h, hj, ih (j - w) (by omega), h1, h2]

theorem testBit_elem (w : Nat) (p : Payload) (i k : Nat) : (elem w p i).testBit k = (decide (k < w) && p.getLsbD (w * i + k)) := by
  simp only [elem, BitVec.testBit_toNat, BitVec.getLsbD_extractLsb']

/-- An element of a packed payload is the value packed, modulo the width. -/
theorem elem_packElems {w : Nat} (hw : 0 < w) (l : List Nat) (i : Nat) (h : w * i + w ≤ 512) :
    elem w (packElems w l) i = l.getD i 0 % 2 ^ w := by
  apply Nat.eq_of_testBit_eq
  intro k
  simp only [elem, BitVec.testBit_toNat, BitVec.getLsbD_extractLsb', Nat.testBit_mod_two_pow]
  by_cases hk : k < w
  · rw [getLsbD_packElems hw l _ (by omega)]
    have h1 : (w * i + k) / w = i := by rw [Nat.mul_add_div hw, Nat.div_eq_of_lt hk]; rfl
    have h2 : (w * i + k) % w = k := by rw [Nat.mul_add_mod, Nat.mod_eq_of_lt hk]
    simp [hk, h1, h2]
  · simp [hk]

theorem elem_packElems_map {w n : Nat} (hw : 0 < w) (f : Nat → Nat) (i : Nat) (hi : i < n) (h : w * i + w ≤ 512) :
    elem w (packElems w ((List.range n).map f)) i = f i % 2 ^ w := by
  rw [elem_packElems hw _ _ h]; simp [List.getD_eq_getElem?_getD, hi]

theorem getLsbD_laneMask (v : BitVec 16) (j : Nat) (hj : j < 512) : (laneMask v).getLsbD j = v.getLsbD (j / 32) := by
  have h : ∀ (l : List Nat) (j : Nat), j < 512 → ((l.foldr (fun l acc =>
      if v.getLsbD l then acc ||| (BitVec.ofNat 512 0xFFFFFFFF <<< (32 * l)) else acc) 0 : BitVec 512)).getLsbD j =
      (l.contains (j / 32) && v.getLsbD (j / 32)) := by
    intro l j hj
    induction l with
    | nil => simp
    | cons x l ih =>
      simp only [List.foldr_cons]
      have hm : (BitVec.ofNat 512 0xFFFFFFFF <<< (32 * x)).getLsbD j = decide (j / 32 = x) := by
        rw [BitVec.getLsbD_shiftLeft, BitVec.getLsbD_ofNat]
        by_cases h1 : j < 32 * x
        · have : j / 32 ≠ x := by omega
          simp [h1, this]
        · have e : Nat.testBit 0xFFFFFFFF (j - 32 * x) = decide (j - 32 * x < 32) := by
            rw [show (0xFFFFFFFF : Nat) = 2 ^ 32 - 1 by norm_num, Nat.testBit_two_pow_sub_one]
          rw [e]
          by_cases h2 : j / 32 = x
          · have : j - 32 * x < 32 := by omega
            simp [h1, h2, hj, this]; omega
          · have : ¬ j - 32 * x < 32 := by omega
            simp [h2, this]
      split
      · next hv =>
        rw [BitVec.getLsbD_or, ih, hm]
        by_cases hx : j / 32 = x
        · subst hx; simp [hv]
        · simp [hx]
      · next hv =>
        rw [ih]
        by_cases hx : j / 32 = x
        · subst hx; simp [hv]
        · simp [hx]
  rw [laneMask, h _ j hj]
  have : j / 32 < 16 := by omega
  simp [this]

theorem getLsbD_zeroInvalid (v : BitVec 16) (p : Payload) (j : Nat) (hj : j < 512) :
    (zeroInvalid v p).getLsbD j = (p.getLsbD j && v.getLsbD (j / 32)) := by
  rw [zeroInvalid, BitVec.getLsbD_and, getLsbD_laneMask v j hj]

/-- An element below a lane's width is kept in a valid lane and zero in an invalid one. -/
theorem elem_zeroInvalid {w : Nat} (hw : w ∣ 32) (v : BitVec 16) (p : Payload) (i : Nat) (h : w * i + w ≤ 512) :
    elem w (zeroInvalid v p) i = if v.getLsbD (laneOf w i) then elem w p i else 0 := by
  have hpos : 0 < w := Nat.pos_of_dvd_of_pos hw (by norm_num)
  apply Nat.eq_of_testBit_eq
  intro k
  simp only [elem, BitVec.testBit_toNat, BitVec.getLsbD_extractLsb']
  by_cases hk : k < w
  · obtain ⟨c, hc⟩ := hw
    have hl : (w * i + k) / 32 = laneOf w i := by
      unfold laneOf
      rw [hc, ← Nat.div_div_eq_div_mul, ← Nat.div_div_eq_div_mul, Nat.mul_add_div hpos, Nat.div_eq_of_lt hk, Nat.mul_div_cancel_left _ hpos]
      rfl
    rw [getLsbD_zeroInvalid v p _ (by omega), hl]
    split
    · next hv => simp [hk, hv, BitVec.testBit_toNat]
    · next hv => simp [hv]
  · split
    · simp [hk]
    · simp [hk]

/-- The same for a pair whose two lanes are valid together. -/
theorem elem_zeroInvalid_pair (v : BitVec 16) (p : Payload) (i : Nat) (h : 64 * i + 64 ≤ 512) (hv : v.getLsbD (2 * i + 1) = v.getLsbD (2 * i)) :
    elem 64 (zeroInvalid v p) i = if v.getLsbD (2 * i) then elem 64 p i else 0 := by
  apply Nat.eq_of_testBit_eq
  intro k
  by_cases hk : k < 64
  · have hl : v.getLsbD ((64 * i + k) / 32) = v.getLsbD (2 * i) := by
      by_cases h2 : k < 32
      · rw [show (64 * i + k) / 32 = 2 * i by omega]
      · rw [show (64 * i + k) / 32 = 2 * i + 1 by omega, hv]
    rw [testBit_elem, getLsbD_zeroInvalid v p _ (by omega), hl]
    cases v.getLsbD (2 * i) <;> simp [testBit_elem]
  · rw [testBit_elem]
    split <;> simp [testBit_elem, hk]

theorem pairValid_pair (v : BitVec 16) (i : Nat) (h : i < 8) :
    (pairValid v).getLsbD (2 * i + 1) = (pairValid v).getLsbD (2 * i) := by
  have : i = 0 ∨ i = 1 ∨ i = 2 ∨ i = 3 ∨ i = 4 ∨ i = 5 ∨ i = 6 ∨ i = 7 := by omega
  rcases this with rfl | rfl | rfl | rfl | rfl | rfl | rfl | rfl <;>
    simp [pairValid]

end Sys2Proof.Machine
end

