-- ==== Sys2Proof/Laws/State.lean ====
section
/-! SUPPORT. What each named update of the state leaves of every field, and what reading gives after it. -/
namespace Sys2Proof.Machine

@[simp] theorem setTile_clock (s : State) (t : TileId) (x : Tile) : (setTile s t x).clock = s.clock := rfl
@[simp] theorem setTile_mem (s : State) (t : TileId) (x : Tile) : (setTile s t x).mem = s.mem := rfl
@[simp] theorem setTile_full (s : State) (t : TileId) (x : Tile) : (setTile s t x).full = s.full := rfl
@[simp] theorem setTile_poison (s : State) (t : TileId) (x : Tile) : (setTile s t x).poison = s.poison := rfl
@[simp] theorem setTile_far (s : State) (t : TileId) (x : Tile) : (setTile s t x).far = s.far := rfl
@[simp] theorem setTile_farFull (s : State) (t : TileId) (x : Tile) : (setTile s t x).farFull = s.farFull := rfl
@[simp] theorem setTile_clusters (s : State) (t : TileId) (x : Tile) : (setTile s t x).clusters = s.clusters := rfl
@[simp] theorem setTile_slices (s : State) (t : TileId) (x : Tile) : (setTile s t x).slices = s.slices := rfl
@[simp] theorem setTile_launches (s : State) (t : TileId) (x : Tile) : (setTile s t x).launches = s.launches := rfl
@[simp] theorem setTile_dies (s : State) (t : TileId) (x : Tile) : (setTile s t x).dies = s.dies := rfl
@[simp] theorem setTile_ljbase (s : State) (t : TileId) (x : Tile) : (setTile s t x).ljbase = s.ljbase := rfl
@[simp] theorem setTile_ljnext (s : State) (t : TileId) (x : Tile) : (setTile s t x).ljnext = s.ljnext := rfl
@[simp] theorem setTile_journal (s : State) (t : TileId) (x : Tile) : (setTile s t x).journal = s.journal := rfl
@[simp] theorem setTile_serrCorr (s : State) (t : TileId) (x : Tile) : (setTile s t x).serrCorr = s.serrCorr := rfl
@[simp] theorem setTile_serrUnc (s : State) (t : TileId) (x : Tile) : (setTile s t x).serrUnc = s.serrUnc := rfl
@[simp] theorem setTile_powered (s : State) (t : TileId) (x : Tile) : (setTile s t x).powered = s.powered := rfl
@[simp] theorem setTile_flash (s : State) (t : TileId) (x : Tile) : (setTile s t x).flash = s.flash := rfl
@[simp] theorem setTile_out (s : State) (t : TileId) (x : Tile) : (setTile s t x).out = s.out := rfl
@[simp] theorem setTile_edges (s : State) (t : TileId) (x : Tile) : (setTile s t x).edges = s.edges := rfl
@[simp] theorem setTile_seq (s : State) (t : TileId) (x : Tile) : (setTile s t x).seq = s.seq := rfl
@[simp] theorem setTile_free (s : State) (t : TileId) (x : Tile) : (setTile s t x).free = s.free := rfl
@[simp] theorem setTile_here (s : State) (t : TileId) (x : Tile) : (setTile s t x).here = s.here := rfl
@[simp] theorem setTile_agenda (s : State) (t : TileId) (x : Tile) : (setTile s t x).agenda = s.agenda := rfl

@[simp] theorem setCl_clock (s : State) (c : ClusterId) (x : Cluster) : (setCl s c x).clock = s.clock := rfl
@[simp] theorem setCl_mem (s : State) (c : ClusterId) (x : Cluster) : (setCl s c x).mem = s.mem := rfl
@[simp] theorem setCl_full (s : State) (c : ClusterId) (x : Cluster) : (setCl s c x).full = s.full := rfl
@[simp] theorem setCl_poison (s : State) (c : ClusterId) (x : Cluster) : (setCl s c x).poison = s.poison := rfl
@[simp] theorem setCl_far (s : State) (c : ClusterId) (x : Cluster) : (setCl s c x).far = s.far := rfl
@[simp] theorem setCl_farFull (s : State) (c : ClusterId) (x : Cluster) : (setCl s c x).farFull = s.farFull := rfl
@[simp] theorem setCl_tiles (s : State) (c : ClusterId) (x : Cluster) : (setCl s c x).tiles = s.tiles := rfl
@[simp] theorem setCl_slices (s : State) (c : ClusterId) (x : Cluster) : (setCl s c x).slices = s.slices := rfl
@[simp] theorem setCl_launches (s : State) (c : ClusterId) (x : Cluster) : (setCl s c x).launches = s.launches := rfl
@[simp] theorem setCl_dies (s : State) (c : ClusterId) (x : Cluster) : (setCl s c x).dies = s.dies := rfl
@[simp] theorem setCl_ljbase (s : State) (c : ClusterId) (x : Cluster) : (setCl s c x).ljbase = s.ljbase := rfl
@[simp] theorem setCl_ljnext (s : State) (c : ClusterId) (x : Cluster) : (setCl s c x).ljnext = s.ljnext := rfl
@[simp] theorem setCl_journal (s : State) (c : ClusterId) (x : Cluster) : (setCl s c x).journal = s.journal := rfl
@[simp] theorem setCl_serrCorr (s : State) (c : ClusterId) (x : Cluster) : (setCl s c x).serrCorr = s.serrCorr := rfl
@[simp] theorem setCl_serrUnc (s : State) (c : ClusterId) (x : Cluster) : (setCl s c x).serrUnc = s.serrUnc := rfl
@[simp] theorem setCl_powered (s : State) (c : ClusterId) (x : Cluster) : (setCl s c x).powered = s.powered := rfl
@[simp] theorem setCl_flash (s : State) (c : ClusterId) (x : Cluster) : (setCl s c x).flash = s.flash := rfl
@[simp] theorem setCl_out (s : State) (c : ClusterId) (x : Cluster) : (setCl s c x).out = s.out := rfl
@[simp] theorem setCl_edges (s : State) (c : ClusterId) (x : Cluster) : (setCl s c x).edges = s.edges := rfl
@[simp] theorem setCl_seq (s : State) (c : ClusterId) (x : Cluster) : (setCl s c x).seq = s.seq := rfl
@[simp] theorem setCl_free (s : State) (c : ClusterId) (x : Cluster) : (setCl s c x).free = s.free := rfl
@[simp] theorem setCl_here (s : State) (c : ClusterId) (x : Cluster) : (setCl s c x).here = s.here := rfl
@[simp] theorem setCl_agenda (s : State) (c : ClusterId) (x : Cluster) : (setCl s c x).agenda = s.agenda := rfl

@[simp] theorem setSlice_clock (s : State) (i : SliceId) (x : Slice) : (setSlice s i x).clock = s.clock := rfl
@[simp] theorem setSlice_mem (s : State) (i : SliceId) (x : Slice) : (setSlice s i x).mem = s.mem := rfl
@[simp] theorem setSlice_full (s : State) (i : SliceId) (x : Slice) : (setSlice s i x).full = s.full := rfl
@[simp] theorem setSlice_poison (s : State) (i : SliceId) (x : Slice) : (setSlice s i x).poison = s.poison := rfl
@[simp] theorem setSlice_far (s : State) (i : SliceId) (x : Slice) : (setSlice s i x).far = s.far := rfl
@[simp] theorem setSlice_farFull (s : State) (i : SliceId) (x : Slice) : (setSlice s i x).farFull = s.farFull := rfl
@[simp] theorem setSlice_tiles (s : State) (i : SliceId) (x : Slice) : (setSlice s i x).tiles = s.tiles := rfl
@[simp] theorem setSlice_clusters (s : State) (i : SliceId) (x : Slice) : (setSlice s i x).clusters = s.clusters := rfl
@[simp] theorem setSlice_launches (s : State) (i : SliceId) (x : Slice) : (setSlice s i x).launches = s.launches := rfl
@[simp] theorem setSlice_dies (s : State) (i : SliceId) (x : Slice) : (setSlice s i x).dies = s.dies := rfl
@[simp] theorem setSlice_ljbase (s : State) (i : SliceId) (x : Slice) : (setSlice s i x).ljbase = s.ljbase := rfl
@[simp] theorem setSlice_ljnext (s : State) (i : SliceId) (x : Slice) : (setSlice s i x).ljnext = s.ljnext := rfl
@[simp] theorem setSlice_journal (s : State) (i : SliceId) (x : Slice) : (setSlice s i x).journal = s.journal := rfl
@[simp] theorem setSlice_serrCorr (s : State) (i : SliceId) (x : Slice) : (setSlice s i x).serrCorr = s.serrCorr := rfl
@[simp] theorem setSlice_serrUnc (s : State) (i : SliceId) (x : Slice) : (setSlice s i x).serrUnc = s.serrUnc := rfl
@[simp] theorem setSlice_powered (s : State) (i : SliceId) (x : Slice) : (setSlice s i x).powered = s.powered := rfl
@[simp] theorem setSlice_flash (s : State) (i : SliceId) (x : Slice) : (setSlice s i x).flash = s.flash := rfl
@[simp] theorem setSlice_out (s : State) (i : SliceId) (x : Slice) : (setSlice s i x).out = s.out := rfl
@[simp] theorem setSlice_edges (s : State) (i : SliceId) (x : Slice) : (setSlice s i x).edges = s.edges := rfl
@[simp] theorem setSlice_seq (s : State) (i : SliceId) (x : Slice) : (setSlice s i x).seq = s.seq := rfl
@[simp] theorem setSlice_free (s : State) (i : SliceId) (x : Slice) : (setSlice s i x).free = s.free := rfl
@[simp] theorem setSlice_here (s : State) (i : SliceId) (x : Slice) : (setSlice s i x).here = s.here := rfl
@[simp] theorem setSlice_agenda (s : State) (i : SliceId) (x : Slice) : (setSlice s i x).agenda = s.agenda := rfl

@[simp] theorem setDie_clock (s : State) (d : Fin 4) (x : Die) : (setDie s d x).clock = s.clock := rfl
@[simp] theorem setDie_mem (s : State) (d : Fin 4) (x : Die) : (setDie s d x).mem = s.mem := rfl
@[simp] theorem setDie_full (s : State) (d : Fin 4) (x : Die) : (setDie s d x).full = s.full := rfl
@[simp] theorem setDie_poison (s : State) (d : Fin 4) (x : Die) : (setDie s d x).poison = s.poison := rfl
@[simp] theorem setDie_far (s : State) (d : Fin 4) (x : Die) : (setDie s d x).far = s.far := rfl
@[simp] theorem setDie_farFull (s : State) (d : Fin 4) (x : Die) : (setDie s d x).farFull = s.farFull := rfl
@[simp] theorem setDie_tiles (s : State) (d : Fin 4) (x : Die) : (setDie s d x).tiles = s.tiles := rfl
@[simp] theorem setDie_clusters (s : State) (d : Fin 4) (x : Die) : (setDie s d x).clusters = s.clusters := rfl
@[simp] theorem setDie_slices (s : State) (d : Fin 4) (x : Die) : (setDie s d x).slices = s.slices := rfl
@[simp] theorem setDie_launches (s : State) (d : Fin 4) (x : Die) : (setDie s d x).launches = s.launches := rfl
@[simp] theorem setDie_ljbase (s : State) (d : Fin 4) (x : Die) : (setDie s d x).ljbase = s.ljbase := rfl
@[simp] theorem setDie_ljnext (s : State) (d : Fin 4) (x : Die) : (setDie s d x).ljnext = s.ljnext := rfl
@[simp] theorem setDie_journal (s : State) (d : Fin 4) (x : Die) : (setDie s d x).journal = s.journal := rfl
@[simp] theorem setDie_serrCorr (s : State) (d : Fin 4) (x : Die) : (setDie s d x).serrCorr = s.serrCorr := rfl
@[simp] theorem setDie_serrUnc (s : State) (d : Fin 4) (x : Die) : (setDie s d x).serrUnc = s.serrUnc := rfl
@[simp] theorem setDie_powered (s : State) (d : Fin 4) (x : Die) : (setDie s d x).powered = s.powered := rfl
@[simp] theorem setDie_flash (s : State) (d : Fin 4) (x : Die) : (setDie s d x).flash = s.flash := rfl
@[simp] theorem setDie_out (s : State) (d : Fin 4) (x : Die) : (setDie s d x).out = s.out := rfl
@[simp] theorem setDie_edges (s : State) (d : Fin 4) (x : Die) : (setDie s d x).edges = s.edges := rfl
@[simp] theorem setDie_seq (s : State) (d : Fin 4) (x : Die) : (setDie s d x).seq = s.seq := rfl
@[simp] theorem setDie_free (s : State) (d : Fin 4) (x : Die) : (setDie s d x).free = s.free := rfl
@[simp] theorem setDie_here (s : State) (d : Fin 4) (x : Die) : (setDie s d x).here = s.here := rfl
@[simp] theorem setDie_agenda (s : State) (d : Fin 4) (x : Die) : (setDie s d x).agenda = s.agenda := rfl

@[simp] theorem setLaunch_clock (s : State) (l : LaunchId) (x : Launch) : (setLaunch s l x).clock = s.clock := rfl
@[simp] theorem setLaunch_mem (s : State) (l : LaunchId) (x : Launch) : (setLaunch s l x).mem = s.mem := rfl
@[simp] theorem setLaunch_full (s : State) (l : LaunchId) (x : Launch) : (setLaunch s l x).full = s.full := rfl
@[simp] theorem setLaunch_poison (s : State) (l : LaunchId) (x : Launch) : (setLaunch s l x).poison = s.poison := rfl
@[simp] theorem setLaunch_far (s : State) (l : LaunchId) (x : Launch) : (setLaunch s l x).far = s.far := rfl
@[simp] theorem setLaunch_farFull (s : State) (l : LaunchId) (x : Launch) : (setLaunch s l x).farFull = s.farFull := rfl
@[simp] theorem setLaunch_tiles (s : State) (l : LaunchId) (x : Launch) : (setLaunch s l x).tiles = s.tiles := rfl
@[simp] theorem setLaunch_clusters (s : State) (l : LaunchId) (x : Launch) : (setLaunch s l x).clusters = s.clusters := rfl
@[simp] theorem setLaunch_slices (s : State) (l : LaunchId) (x : Launch) : (setLaunch s l x).slices = s.slices := rfl
@[simp] theorem setLaunch_dies (s : State) (l : LaunchId) (x : Launch) : (setLaunch s l x).dies = s.dies := rfl
@[simp] theorem setLaunch_ljbase (s : State) (l : LaunchId) (x : Launch) : (setLaunch s l x).ljbase = s.ljbase := rfl
@[simp] theorem setLaunch_ljnext (s : State) (l : LaunchId) (x : Launch) : (setLaunch s l x).ljnext = s.ljnext := rfl
@[simp] theorem setLaunch_journal (s : State) (l : LaunchId) (x : Launch) : (setLaunch s l x).journal = s.journal := rfl
@[simp] theorem setLaunch_serrCorr (s : State) (l : LaunchId) (x : Launch) : (setLaunch s l x).serrCorr = s.serrCorr := rfl
@[simp] theorem setLaunch_serrUnc (s : State) (l : LaunchId) (x : Launch) : (setLaunch s l x).serrUnc = s.serrUnc := rfl
@[simp] theorem setLaunch_powered (s : State) (l : LaunchId) (x : Launch) : (setLaunch s l x).powered = s.powered := rfl
@[simp] theorem setLaunch_flash (s : State) (l : LaunchId) (x : Launch) : (setLaunch s l x).flash = s.flash := rfl
@[simp] theorem setLaunch_out (s : State) (l : LaunchId) (x : Launch) : (setLaunch s l x).out = s.out := rfl
@[simp] theorem setLaunch_edges (s : State) (l : LaunchId) (x : Launch) : (setLaunch s l x).edges = s.edges := rfl
@[simp] theorem setLaunch_seq (s : State) (l : LaunchId) (x : Launch) : (setLaunch s l x).seq = s.seq := rfl
@[simp] theorem setLaunch_free (s : State) (l : LaunchId) (x : Launch) : (setLaunch s l x).free = s.free := rfl
@[simp] theorem setLaunch_here (s : State) (l : LaunchId) (x : Launch) : (setLaunch s l x).here = s.here := rfl
@[simp] theorem setLaunch_agenda (s : State) (l : LaunchId) (x : Launch) : (setLaunch s l x).agenda = s.agenda := rfl

@[simp] theorem delLaunch_clock (s : State) (l : LaunchId) : (delLaunch s l).clock = s.clock := rfl
@[simp] theorem delLaunch_mem (s : State) (l : LaunchId) : (delLaunch s l).mem = s.mem := rfl
@[simp] theorem delLaunch_full (s : State) (l : LaunchId) : (delLaunch s l).full = s.full := rfl
@[simp] theorem delLaunch_poison (s : State) (l : LaunchId) : (delLaunch s l).poison = s.poison := rfl
@[simp] theorem delLaunch_far (s : State) (l : LaunchId) : (delLaunch s l).far = s.far := rfl
@[simp] theorem delLaunch_farFull (s : State) (l : LaunchId) : (delLaunch s l).farFull = s.farFull := rfl
@[simp] theorem delLaunch_tiles (s : State) (l : LaunchId) : (delLaunch s l).tiles = s.tiles := rfl
@[simp] theorem delLaunch_clusters (s : State) (l : LaunchId) : (delLaunch s l).clusters = s.clusters := rfl
@[simp] theorem delLaunch_slices (s : State) (l : LaunchId) : (delLaunch s l).slices = s.slices := rfl
@[simp] theorem delLaunch_dies (s : State) (l : LaunchId) : (delLaunch s l).dies = s.dies := rfl
@[simp] theorem delLaunch_ljbase (s : State) (l : LaunchId) : (delLaunch s l).ljbase = s.ljbase := rfl
@[simp] theorem delLaunch_ljnext (s : State) (l : LaunchId) : (delLaunch s l).ljnext = s.ljnext := rfl
@[simp] theorem delLaunch_journal (s : State) (l : LaunchId) : (delLaunch s l).journal = s.journal := rfl
@[simp] theorem delLaunch_serrCorr (s : State) (l : LaunchId) : (delLaunch s l).serrCorr = s.serrCorr := rfl
@[simp] theorem delLaunch_serrUnc (s : State) (l : LaunchId) : (delLaunch s l).serrUnc = s.serrUnc := rfl
@[simp] theorem delLaunch_powered (s : State) (l : LaunchId) : (delLaunch s l).powered = s.powered := rfl
@[simp] theorem delLaunch_flash (s : State) (l : LaunchId) : (delLaunch s l).flash = s.flash := rfl
@[simp] theorem delLaunch_out (s : State) (l : LaunchId) : (delLaunch s l).out = s.out := rfl
@[simp] theorem delLaunch_edges (s : State) (l : LaunchId) : (delLaunch s l).edges = s.edges := rfl
@[simp] theorem delLaunch_seq (s : State) (l : LaunchId) : (delLaunch s l).seq = s.seq := rfl
@[simp] theorem delLaunch_free (s : State) (l : LaunchId) : (delLaunch s l).free = s.free := rfl
@[simp] theorem delLaunch_here (s : State) (l : LaunchId) : (delLaunch s l).here = s.here := rfl
@[simp] theorem delLaunch_agenda (s : State) (l : LaunchId) : (delLaunch s l).agenda = s.agenda := rfl

@[simp] theorem memWrite_clock (s : State) (a : Nat) (bs : List Byte) : (memWrite s a bs).clock = s.clock := rfl
@[simp] theorem memWrite_full (s : State) (a : Nat) (bs : List Byte) : (memWrite s a bs).full = s.full := rfl
@[simp] theorem memWrite_poison (s : State) (a : Nat) (bs : List Byte) : (memWrite s a bs).poison = s.poison := rfl
@[simp] theorem memWrite_far (s : State) (a : Nat) (bs : List Byte) : (memWrite s a bs).far = s.far := rfl
@[simp] theorem memWrite_farFull (s : State) (a : Nat) (bs : List Byte) : (memWrite s a bs).farFull = s.farFull := rfl
@[simp] theorem memWrite_tiles (s : State) (a : Nat) (bs : List Byte) : (memWrite s a bs).tiles = s.tiles := rfl
@[simp] theorem memWrite_clusters (s : State) (a : Nat) (bs : List Byte) : (memWrite s a bs).clusters = s.clusters := rfl
@[simp] theorem memWrite_slices (s : State) (a : Nat) (bs : List Byte) : (memWrite s a bs).slices = s.slices := rfl
@[simp] theorem memWrite_launches (s : State) (a : Nat) (bs : List Byte) : (memWrite s a bs).launches = s.launches := rfl
@[simp] theorem memWrite_dies (s : State) (a : Nat) (bs : List Byte) : (memWrite s a bs).dies = s.dies := rfl
@[simp] theorem memWrite_ljbase (s : State) (a : Nat) (bs : List Byte) : (memWrite s a bs).ljbase = s.ljbase := rfl
@[simp] theorem memWrite_ljnext (s : State) (a : Nat) (bs : List Byte) : (memWrite s a bs).ljnext = s.ljnext := rfl
@[simp] theorem memWrite_journal (s : State) (a : Nat) (bs : List Byte) : (memWrite s a bs).journal = s.journal := rfl
@[simp] theorem memWrite_serrCorr (s : State) (a : Nat) (bs : List Byte) : (memWrite s a bs).serrCorr = s.serrCorr := rfl
@[simp] theorem memWrite_serrUnc (s : State) (a : Nat) (bs : List Byte) : (memWrite s a bs).serrUnc = s.serrUnc := rfl
@[simp] theorem memWrite_powered (s : State) (a : Nat) (bs : List Byte) : (memWrite s a bs).powered = s.powered := rfl
@[simp] theorem memWrite_flash (s : State) (a : Nat) (bs : List Byte) : (memWrite s a bs).flash = s.flash := rfl
@[simp] theorem memWrite_out (s : State) (a : Nat) (bs : List Byte) : (memWrite s a bs).out = s.out := rfl
@[simp] theorem memWrite_edges (s : State) (a : Nat) (bs : List Byte) : (memWrite s a bs).edges = s.edges := rfl
@[simp] theorem memWrite_seq (s : State) (a : Nat) (bs : List Byte) : (memWrite s a bs).seq = s.seq := rfl
@[simp] theorem memWrite_free (s : State) (a : Nat) (bs : List Byte) : (memWrite s a bs).free = s.free := rfl
@[simp] theorem memWrite_here (s : State) (a : Nat) (bs : List Byte) : (memWrite s a bs).here = s.here := rfl
@[simp] theorem memWrite_agenda (s : State) (a : Nat) (bs : List Byte) : (memWrite s a bs).agenda = s.agenda := rfl

@[simp] theorem setFull_clock (s : State) (a : Nat) (b : Bool) : (setFull s a b).clock = s.clock := rfl
@[simp] theorem setFull_mem (s : State) (a : Nat) (b : Bool) : (setFull s a b).mem = s.mem := rfl
@[simp] theorem setFull_poison (s : State) (a : Nat) (b : Bool) : (setFull s a b).poison = s.poison := rfl
@[simp] theorem setFull_far (s : State) (a : Nat) (b : Bool) : (setFull s a b).far = s.far := rfl
@[simp] theorem setFull_farFull (s : State) (a : Nat) (b : Bool) : (setFull s a b).farFull = s.farFull := rfl
@[simp] theorem setFull_tiles (s : State) (a : Nat) (b : Bool) : (setFull s a b).tiles = s.tiles := rfl
@[simp] theorem setFull_clusters (s : State) (a : Nat) (b : Bool) : (setFull s a b).clusters = s.clusters := rfl
@[simp] theorem setFull_slices (s : State) (a : Nat) (b : Bool) : (setFull s a b).slices = s.slices := rfl
@[simp] theorem setFull_launches (s : State) (a : Nat) (b : Bool) : (setFull s a b).launches = s.launches := rfl
@[simp] theorem setFull_dies (s : State) (a : Nat) (b : Bool) : (setFull s a b).dies = s.dies := rfl
@[simp] theorem setFull_ljbase (s : State) (a : Nat) (b : Bool) : (setFull s a b).ljbase = s.ljbase := rfl
@[simp] theorem setFull_ljnext (s : State) (a : Nat) (b : Bool) : (setFull s a b).ljnext = s.ljnext := rfl
@[simp] theorem setFull_journal (s : State) (a : Nat) (b : Bool) : (setFull s a b).journal = s.journal := rfl
@[simp] theorem setFull_serrCorr (s : State) (a : Nat) (b : Bool) : (setFull s a b).serrCorr = s.serrCorr := rfl
@[simp] theorem setFull_serrUnc (s : State) (a : Nat) (b : Bool) : (setFull s a b).serrUnc = s.serrUnc := rfl
@[simp] theorem setFull_powered (s : State) (a : Nat) (b : Bool) : (setFull s a b).powered = s.powered := rfl
@[simp] theorem setFull_flash (s : State) (a : Nat) (b : Bool) : (setFull s a b).flash = s.flash := rfl
@[simp] theorem setFull_out (s : State) (a : Nat) (b : Bool) : (setFull s a b).out = s.out := rfl
@[simp] theorem setFull_edges (s : State) (a : Nat) (b : Bool) : (setFull s a b).edges = s.edges := rfl
@[simp] theorem setFull_seq (s : State) (a : Nat) (b : Bool) : (setFull s a b).seq = s.seq := rfl
@[simp] theorem setFull_free (s : State) (a : Nat) (b : Bool) : (setFull s a b).free = s.free := rfl
@[simp] theorem setFull_here (s : State) (a : Nat) (b : Bool) : (setFull s a b).here = s.here := rfl
@[simp] theorem setFull_agenda (s : State) (a : Nat) (b : Bool) : (setFull s a b).agenda = s.agenda := rfl

@[simp] theorem setPoison_clock (s : State) (a : Nat) (b : Bool) : (setPoison s a b).clock = s.clock := rfl
@[simp] theorem setPoison_mem (s : State) (a : Nat) (b : Bool) : (setPoison s a b).mem = s.mem := rfl
@[simp] theorem setPoison_full (s : State) (a : Nat) (b : Bool) : (setPoison s a b).full = s.full := rfl
@[simp] theorem setPoison_far (s : State) (a : Nat) (b : Bool) : (setPoison s a b).far = s.far := rfl
@[simp] theorem setPoison_farFull (s : State) (a : Nat) (b : Bool) : (setPoison s a b).farFull = s.farFull := rfl
@[simp] theorem setPoison_tiles (s : State) (a : Nat) (b : Bool) : (setPoison s a b).tiles = s.tiles := rfl
@[simp] theorem setPoison_clusters (s : State) (a : Nat) (b : Bool) : (setPoison s a b).clusters = s.clusters := rfl
@[simp] theorem setPoison_slices (s : State) (a : Nat) (b : Bool) : (setPoison s a b).slices = s.slices := rfl
@[simp] theorem setPoison_launches (s : State) (a : Nat) (b : Bool) : (setPoison s a b).launches = s.launches := rfl
@[simp] theorem setPoison_dies (s : State) (a : Nat) (b : Bool) : (setPoison s a b).dies = s.dies := rfl
@[simp] theorem setPoison_ljbase (s : State) (a : Nat) (b : Bool) : (setPoison s a b).ljbase = s.ljbase := rfl
@[simp] theorem setPoison_ljnext (s : State) (a : Nat) (b : Bool) : (setPoison s a b).ljnext = s.ljnext := rfl
@[simp] theorem setPoison_journal (s : State) (a : Nat) (b : Bool) : (setPoison s a b).journal = s.journal := rfl
@[simp] theorem setPoison_serrCorr (s : State) (a : Nat) (b : Bool) : (setPoison s a b).serrCorr = s.serrCorr := rfl
@[simp] theorem setPoison_serrUnc (s : State) (a : Nat) (b : Bool) : (setPoison s a b).serrUnc = s.serrUnc := rfl
@[simp] theorem setPoison_powered (s : State) (a : Nat) (b : Bool) : (setPoison s a b).powered = s.powered := rfl
@[simp] theorem setPoison_flash (s : State) (a : Nat) (b : Bool) : (setPoison s a b).flash = s.flash := rfl
@[simp] theorem setPoison_out (s : State) (a : Nat) (b : Bool) : (setPoison s a b).out = s.out := rfl
@[simp] theorem setPoison_edges (s : State) (a : Nat) (b : Bool) : (setPoison s a b).edges = s.edges := rfl
@[simp] theorem setPoison_seq (s : State) (a : Nat) (b : Bool) : (setPoison s a b).seq = s.seq := rfl
@[simp] theorem setPoison_free (s : State) (a : Nat) (b : Bool) : (setPoison s a b).free = s.free := rfl
@[simp] theorem setPoison_here (s : State) (a : Nat) (b : Bool) : (setPoison s a b).here = s.here := rfl
@[simp] theorem setPoison_agenda (s : State) (a : Nat) (b : Bool) : (setPoison s a b).agenda = s.agenda := rfl

@[simp] theorem atPlace_clock (s : State) (p : Place) : (atPlace s p).clock = s.clock := rfl
@[simp] theorem atPlace_mem (s : State) (p : Place) : (atPlace s p).mem = s.mem := rfl
@[simp] theorem atPlace_full (s : State) (p : Place) : (atPlace s p).full = s.full := rfl
@[simp] theorem atPlace_poison (s : State) (p : Place) : (atPlace s p).poison = s.poison := rfl
@[simp] theorem atPlace_far (s : State) (p : Place) : (atPlace s p).far = s.far := rfl
@[simp] theorem atPlace_farFull (s : State) (p : Place) : (atPlace s p).farFull = s.farFull := rfl
@[simp] theorem atPlace_tiles (s : State) (p : Place) : (atPlace s p).tiles = s.tiles := rfl
@[simp] theorem atPlace_clusters (s : State) (p : Place) : (atPlace s p).clusters = s.clusters := rfl
@[simp] theorem atPlace_slices (s : State) (p : Place) : (atPlace s p).slices = s.slices := rfl
@[simp] theorem atPlace_launches (s : State) (p : Place) : (atPlace s p).launches = s.launches := rfl
@[simp] theorem atPlace_dies (s : State) (p : Place) : (atPlace s p).dies = s.dies := rfl
@[simp] theorem atPlace_ljbase (s : State) (p : Place) : (atPlace s p).ljbase = s.ljbase := rfl
@[simp] theorem atPlace_ljnext (s : State) (p : Place) : (atPlace s p).ljnext = s.ljnext := rfl
@[simp] theorem atPlace_journal (s : State) (p : Place) : (atPlace s p).journal = s.journal := rfl
@[simp] theorem atPlace_serrCorr (s : State) (p : Place) : (atPlace s p).serrCorr = s.serrCorr := rfl
@[simp] theorem atPlace_serrUnc (s : State) (p : Place) : (atPlace s p).serrUnc = s.serrUnc := rfl
@[simp] theorem atPlace_powered (s : State) (p : Place) : (atPlace s p).powered = s.powered := rfl
@[simp] theorem atPlace_flash (s : State) (p : Place) : (atPlace s p).flash = s.flash := rfl
@[simp] theorem atPlace_out (s : State) (p : Place) : (atPlace s p).out = s.out := rfl
@[simp] theorem atPlace_edges (s : State) (p : Place) : (atPlace s p).edges = s.edges := rfl
@[simp] theorem atPlace_seq (s : State) (p : Place) : (atPlace s p).seq = s.seq := rfl
@[simp] theorem atPlace_free (s : State) (p : Place) : (atPlace s p).free = s.free := rfl
@[simp] theorem atPlace_agenda (s : State) (p : Place) : (atPlace s p).agenda = s.agenda := rfl

@[simp] theorem dropAct_clock (s : State) : (dropAct s).clock = s.clock := rfl
@[simp] theorem dropAct_mem (s : State) : (dropAct s).mem = s.mem := rfl
@[simp] theorem dropAct_full (s : State) : (dropAct s).full = s.full := rfl
@[simp] theorem dropAct_poison (s : State) : (dropAct s).poison = s.poison := rfl
@[simp] theorem dropAct_far (s : State) : (dropAct s).far = s.far := rfl
@[simp] theorem dropAct_farFull (s : State) : (dropAct s).farFull = s.farFull := rfl
@[simp] theorem dropAct_tiles (s : State) : (dropAct s).tiles = s.tiles := rfl
@[simp] theorem dropAct_clusters (s : State) : (dropAct s).clusters = s.clusters := rfl
@[simp] theorem dropAct_slices (s : State) : (dropAct s).slices = s.slices := rfl
@[simp] theorem dropAct_launches (s : State) : (dropAct s).launches = s.launches := rfl
@[simp] theorem dropAct_dies (s : State) : (dropAct s).dies = s.dies := rfl
@[simp] theorem dropAct_ljbase (s : State) : (dropAct s).ljbase = s.ljbase := rfl
@[simp] theorem dropAct_ljnext (s : State) : (dropAct s).ljnext = s.ljnext := rfl
@[simp] theorem dropAct_journal (s : State) : (dropAct s).journal = s.journal := rfl
@[simp] theorem dropAct_serrCorr (s : State) : (dropAct s).serrCorr = s.serrCorr := rfl
@[simp] theorem dropAct_serrUnc (s : State) : (dropAct s).serrUnc = s.serrUnc := rfl
@[simp] theorem dropAct_powered (s : State) : (dropAct s).powered = s.powered := rfl
@[simp] theorem dropAct_flash (s : State) : (dropAct s).flash = s.flash := rfl
@[simp] theorem dropAct_out (s : State) : (dropAct s).out = s.out := rfl
@[simp] theorem dropAct_edges (s : State) : (dropAct s).edges = s.edges := rfl
@[simp] theorem dropAct_seq (s : State) : (dropAct s).seq = s.seq := rfl
@[simp] theorem dropAct_free (s : State) : (dropAct s).free = s.free := rfl
@[simp] theorem dropAct_here (s : State) : (dropAct s).here = s.here := rfl

/-! ## Keys -/

theorem tileKey_inj {a b : TileId} (h : tileKey a = tileKey b) : a = b := by
  obtain ⟨⟨d, hd⟩, ⟨r, hr⟩, ⟨c, hc⟩⟩ := a
  obtain ⟨⟨d', hd'⟩, ⟨r', hr'⟩, ⟨c', hc'⟩⟩ := b
  simp only [tileKey] at h
  have : d = d' ∧ r = r' ∧ c = c' := by omega
  simp [this]

theorem clKey_inj {a b : ClusterId} (h : clKey a = clKey b) : a = b := by
  obtain ⟨⟨d, hd⟩, ⟨r, hr⟩⟩ := a
  obtain ⟨⟨d', hd'⟩, ⟨r', hr'⟩⟩ := b
  simp only [clKey] at h
  have : d = d' ∧ r = r' := by omega
  simp [this]

theorem sliceKey_inj {a b : SliceId} (h : sliceKey a = sliceKey b) : a = b := by
  obtain ⟨⟨d, hd⟩, ⟨r, hr⟩, ⟨c, hc⟩⟩ := a
  obtain ⟨⟨d', hd'⟩, ⟨r', hr'⟩, ⟨c', hc'⟩⟩ := b
  simp only [sliceKey] at h
  have : d = d' ∧ r = r' ∧ c = c' := by omega
  simp [this]

theorem launchKey_inj {a b : LaunchId} (h : launchKey a = launchKey b) : a = b := by
  obtain ⟨⟨d, hd⟩, n⟩ := a
  obtain ⟨⟨d', hd'⟩, n'⟩ := b
  simp only [launchKey] at h
  have : d = d' ∧ n = n' := by omega
  simp [this]

/-! ## Reading after an update -/

@[simp] theorem getTile_setTile (s : State) (i : TileId) (x : Tile) : getTile (setTile s i x) i = x := by simp [getTile, setTile]
theorem getTile_setTile_other (s : State) {i j : TileId} (x : Tile) (h : j ≠ i) : getTile (setTile s i x) j = getTile s j := by
  simp only [getTile, setTile]; exact aget_aset_other _ _ _ fun e => h (tileKey_inj e)
@[simp] theorem getCl_setCl (s : State) (i : ClusterId) (x : Cluster) : getCl (setCl s i x) i = x := by simp [getCl, setCl]
theorem getCl_setCl_other (s : State) {i j : ClusterId} (x : Cluster) (h : j ≠ i) : getCl (setCl s i x) j = getCl s j := by
  simp only [getCl, setCl]; exact aget_aset_other _ _ _ fun e => h (clKey_inj e)
@[simp] theorem getSlice_setSlice (s : State) (i : SliceId) (x : Slice) : getSlice (setSlice s i x) i = x := by simp [getSlice, setSlice]
theorem getSlice_setSlice_other (s : State) {i j : SliceId} (x : Slice) (h : j ≠ i) : getSlice (setSlice s i x) j = getSlice s j := by
  simp only [getSlice, setSlice]; exact aget_aset_other _ _ _ fun e => h (sliceKey_inj e)
@[simp] theorem getDie_setDie (s : State) (i : Fin 4) (x : Die) : getDie (setDie s i x) i = x := by simp [getDie, setDie]
theorem getDie_setDie_other (s : State) {i j : Fin 4} (x : Die) (h : j ≠ i) : getDie (setDie s i x) j = getDie s j := by
  simp only [getDie, setDie]; exact aget_aset_other _ _ _ fun e => h (Fin.ext e)
@[simp] theorem findLaunch_setLaunch (s : State) (i : LaunchId) (x : Launch) : findLaunch (setLaunch s i x) i = some x := by
  simp [findLaunch, setLaunch]
theorem findLaunch_setLaunch_other (s : State) {i j : LaunchId} (x : Launch) (h : j ≠ i) :
    findLaunch (setLaunch s i x) j = findLaunch s j := by
  simp only [findLaunch, setLaunch]; exact afind_aset_other _ _ fun e => h (launchKey_inj e)
@[simp] theorem findLaunch_delLaunch (s : State) (i : LaunchId) : findLaunch (delLaunch s i) i = none := by
  simp [findLaunch, delLaunch]

@[simp] theorem getCl_setTile' (s : State) (t : TileId) (x : Tile) (u : ClusterId) : getCl (setTile s t x) u = getCl s u := rfl
@[simp] theorem getSlice_setTile' (s : State) (t : TileId) (x : Tile) (u : SliceId) : getSlice (setTile s t x) u = getSlice s u := rfl
@[simp] theorem getDie_setTile' (s : State) (t : TileId) (x : Tile) (u : Fin 4) : getDie (setTile s t x) u = getDie s u := rfl
@[simp] theorem findLaunch_setTile' (s : State) (t : TileId) (x : Tile) (u : LaunchId) : findLaunch (setTile s t x) u = findLaunch s u := rfl
@[simp] theorem getTile_setCl' (s : State) (c : ClusterId) (x : Cluster) (u : TileId) : getTile (setCl s c x) u = getTile s u := rfl
@[simp] theorem getSlice_setCl' (s : State) (c : ClusterId) (x : Cluster) (u : SliceId) : getSlice (setCl s c x) u = getSlice s u := rfl
@[simp] theorem getDie_setCl' (s : State) (c : ClusterId) (x : Cluster) (u : Fin 4) : getDie (setCl s c x) u = getDie s u := rfl
@[simp] theorem findLaunch_setCl' (s : State) (c : ClusterId) (x : Cluster) (u : LaunchId) : findLaunch (setCl s c x) u = findLaunch s u := rfl
@[simp] theorem getTile_setSlice' (s : State) (i : SliceId) (x : Slice) (u : TileId) : getTile (setSlice s i x) u = getTile s u := rfl
@[simp] theorem getCl_setSlice' (s : State) (i : SliceId) (x : Slice) (u : ClusterId) : getCl (setSlice s i x) u = getCl s u := rfl
@[simp] theorem getDie_setSlice' (s : State) (i : SliceId) (x : Slice) (u : Fin 4) : getDie (setSlice s i x) u = getDie s u := rfl
@[simp] theorem findLaunch_setSlice' (s : State) (i : SliceId) (x : Slice) (u : LaunchId) : findLaunch (setSlice s i x) u = findLaunch s u := rfl
@[simp] theorem getTile_setDie' (s : State) (d : Fin 4) (x : Die) (u : TileId) : getTile (setDie s d x) u = getTile s u := rfl
@[simp] theorem getCl_setDie' (s : State) (d : Fin 4) (x : Die) (u : ClusterId) : getCl (setDie s d x) u = getCl s u := rfl
@[simp] theorem getSlice_setDie' (s : State) (d : Fin 4) (x : Die) (u : SliceId) : getSlice (setDie s d x) u = getSlice s u := rfl
@[simp] theorem findLaunch_setDie' (s : State) (d : Fin 4) (x : Die) (u : LaunchId) : findLaunch (setDie s d x) u = findLaunch s u := rfl
@[simp] theorem getTile_setLaunch' (s : State) (l : LaunchId) (x : Launch) (u : TileId) : getTile (setLaunch s l x) u = getTile s u := rfl
@[simp] theorem getCl_setLaunch' (s : State) (l : LaunchId) (x : Launch) (u : ClusterId) : getCl (setLaunch s l x) u = getCl s u := rfl
@[simp] theorem getSlice_setLaunch' (s : State) (l : LaunchId) (x : Launch) (u : SliceId) : getSlice (setLaunch s l x) u = getSlice s u := rfl
@[simp] theorem getDie_setLaunch' (s : State) (l : LaunchId) (x : Launch) (u : Fin 4) : getDie (setLaunch s l x) u = getDie s u := rfl
@[simp] theorem getTile_delLaunch' (s : State) (l : LaunchId) (u : TileId) : getTile (delLaunch s l) u = getTile s u := rfl
@[simp] theorem getCl_delLaunch' (s : State) (l : LaunchId) (u : ClusterId) : getCl (delLaunch s l) u = getCl s u := rfl
@[simp] theorem getSlice_delLaunch' (s : State) (l : LaunchId) (u : SliceId) : getSlice (delLaunch s l) u = getSlice s u := rfl
@[simp] theorem getDie_delLaunch' (s : State) (l : LaunchId) (u : Fin 4) : getDie (delLaunch s l) u = getDie s u := rfl
@[simp] theorem getTile_memWrite' (s : State) (a : Nat) (bs : List Byte) (u : TileId) : getTile (memWrite s a bs) u = getTile s u := rfl
@[simp] theorem getCl_memWrite' (s : State) (a : Nat) (bs : List Byte) (u : ClusterId) : getCl (memWrite s a bs) u = getCl s u := rfl
@[simp] theorem getSlice_memWrite' (s : State) (a : Nat) (bs : List Byte) (u : SliceId) : getSlice (memWrite s a bs) u = getSlice s u := rfl
@[simp] theorem getDie_memWrite' (s : State) (a : Nat) (bs : List Byte) (u : Fin 4) : getDie (memWrite s a bs) u = getDie s u := rfl
@[simp] theorem findLaunch_memWrite' (s : State) (a : Nat) (bs : List Byte) (u : LaunchId) : findLaunch (memWrite s a bs) u = findLaunch s u := rfl
@[simp] theorem getTile_setFull' (s : State) (a : Nat) (b : Bool) (u : TileId) : getTile (setFull s a b) u = getTile s u := rfl
@[simp] theorem getCl_setFull' (s : State) (a : Nat) (b : Bool) (u : ClusterId) : getCl (setFull s a b) u = getCl s u := rfl
@[simp] theorem getSlice_setFull' (s : State) (a : Nat) (b : Bool) (u : SliceId) : getSlice (setFull s a b) u = getSlice s u := rfl
@[simp] theorem getDie_setFull' (s : State) (a : Nat) (b : Bool) (u : Fin 4) : getDie (setFull s a b) u = getDie s u := rfl
@[simp] theorem findLaunch_setFull' (s : State) (a : Nat) (b : Bool) (u : LaunchId) : findLaunch (setFull s a b) u = findLaunch s u := rfl
@[simp] theorem getTile_setPoison' (s : State) (a : Nat) (b : Bool) (u : TileId) : getTile (setPoison s a b) u = getTile s u := rfl
@[simp] theorem getCl_setPoison' (s : State) (a : Nat) (b : Bool) (u : ClusterId) : getCl (setPoison s a b) u = getCl s u := rfl
@[simp] theorem getSlice_setPoison' (s : State) (a : Nat) (b : Bool) (u : SliceId) : getSlice (setPoison s a b) u = getSlice s u := rfl
@[simp] theorem getDie_setPoison' (s : State) (a : Nat) (b : Bool) (u : Fin 4) : getDie (setPoison s a b) u = getDie s u := rfl
@[simp] theorem findLaunch_setPoison' (s : State) (a : Nat) (b : Bool) (u : LaunchId) : findLaunch (setPoison s a b) u = findLaunch s u := rfl
@[simp] theorem getTile_atPlace' (s : State) (p : Place) (u : TileId) : getTile (atPlace s p) u = getTile s u := rfl
@[simp] theorem getCl_atPlace' (s : State) (p : Place) (u : ClusterId) : getCl (atPlace s p) u = getCl s u := rfl
@[simp] theorem getSlice_atPlace' (s : State) (p : Place) (u : SliceId) : getSlice (atPlace s p) u = getSlice s u := rfl
@[simp] theorem getDie_atPlace' (s : State) (p : Place) (u : Fin 4) : getDie (atPlace s p) u = getDie s u := rfl
@[simp] theorem findLaunch_atPlace' (s : State) (p : Place) (u : LaunchId) : findLaunch (atPlace s p) u = findLaunch s u := rfl
@[simp] theorem getTile_dropAct' (s : State) (u : TileId) : getTile (dropAct s) u = getTile s u := rfl
@[simp] theorem getCl_dropAct' (s : State) (u : ClusterId) : getCl (dropAct s) u = getCl s u := rfl
@[simp] theorem getSlice_dropAct' (s : State) (u : SliceId) : getSlice (dropAct s) u = getSlice s u := rfl
@[simp] theorem getDie_dropAct' (s : State) (u : Fin 4) : getDie (dropAct s) u = getDie s u := rfl
@[simp] theorem findLaunch_dropAct' (s : State) (u : LaunchId) : findLaunch (dropAct s) u = findLaunch s u := rfl

@[simp] theorem getTile_updTile (s : State) (t : TileId) (f : Tile → Tile) : getTile (updTile s t f) t = f (getTile s t) := by
  simp [updTile]
theorem getTile_updTile_other (s : State) {t u : TileId} (f : Tile → Tile) (h : u ≠ t) : getTile (updTile s t f) u = getTile s u := by
  simp [updTile, getTile_setTile_other _ _ h]
@[simp] theorem getCl_updCl (s : State) (c : ClusterId) (f : Cluster → Cluster) : getCl (updCl s c f) c = f (getCl s c) := by
  simp [updCl]
theorem getCl_updCl_other (s : State) {c e : ClusterId} (f : Cluster → Cluster) (h : e ≠ c) : getCl (updCl s c f) e = getCl s e := by
  simp [updCl, getCl_setCl_other _ _ h]

end Sys2Proof.Machine
end

