-- ==== Sys2Proof/Laws/Memory.lean ====
section
/-! SUPPORT. Reading after writing in memory, and that every memory operation keeps the canonical form. -/
namespace Sys2Proof.Machine

theorem aget_writeBytes (m : Assoc Byte) (a : Nat) (bs : List Byte) (i : Nat) :
    aget memDefault (writeBytes m a bs) i = if a ≤ i ∧ i < a + bs.length then bs.getD (i - a) 0 else aget memDefault m i := by
  induction bs generalizing m a with
  | nil =>
    have h : ¬ (a ≤ i ∧ i < a + ([] : List Byte).length) := by simp only [List.length_nil]; omega
    rw [if_neg h, writeBytes]
  | cons b bs ih =>
    simp only [writeBytes, ih, aget_aput, List.length_cons]
    by_cases h1 : i = a
    · subst h1; have h2 : ¬ (i + 1 ≤ i ∧ i < i + 1 + bs.length) := by omega
      simp
    · by_cases h2 : a + 1 ≤ i ∧ i < a + 1 + bs.length
      · have h3 : a ≤ i ∧ i < a + (bs.length + 1) := by omega
        obtain ⟨k, rfl⟩ : ∃ k, i = a + 1 + k := ⟨i - a - 1, by omega⟩
        have e : a + 1 + k - a = k + 1 := by omega
        simp [h2, h3, e]
      · have h3 : ¬ (a ≤ i ∧ i < a + (bs.length + 1)) := by omega
        rw [if_neg h2, if_neg h1, if_neg h3]

theorem aget_writeBytes_other (m : Assoc Byte) (a : Nat) (bs : List Byte) {i : Nat} (h : ¬ (a ≤ i ∧ i < a + bs.length)) :
    aget memDefault (writeBytes m a bs) i = aget memDefault m i := by
  simp [aget_writeBytes, h]

@[simp] theorem readBytes_length (m : Assoc Byte) (a n : Nat) : (readBytes m a n).length = n := by
  induction n generalizing a with
  | zero => rfl
  | succ n ih => simp [readBytes, ih]

theorem readBytes_congr {m m' : Assoc Byte} {a n : Nat} (h : ∀ i, a ≤ i → i < a + n → aget memDefault m' i = aget memDefault m i) :
    readBytes m' a n = readBytes m a n := by
  induction n generalizing a with
  | zero => rfl
  | succ n ih =>
    simp only [readBytes]
    rw [h a (by omega) (by omega), ih fun i h1 h2 => h i (by omega) (by omega)]

/-- Read after write: the bytes written are the bytes read. -/
theorem readBytes_writeBytes_same (m : Assoc Byte) (a : Nat) (bs : List Byte) : readBytes (writeBytes m a bs) a bs.length = bs := by
  induction bs generalizing m a with
  | nil => rfl
  | cons b bs ih =>
    simp only [List.length_cons, readBytes, writeBytes]
    rw [ih, aget_writeBytes_other _ _ _ (by omega), aget_aput_same]

theorem readBytes_writeBytes_other (m : Assoc Byte) {a n i : Nat} (bs : List Byte) (h : i + n ≤ a ∨ a + bs.length ≤ i) :
    readBytes (writeBytes m a bs) i n = readBytes m i n :=
  readBytes_congr fun j h1 h2 => aget_writeBytes_other _ _ _ (by omega)

theorem wf_writeBytes {m : Assoc Byte} (a : Nat) (bs : List Byte) (h : Memory.wf m = true) : Memory.wf (writeBytes m a bs) = true := by
  induction bs generalizing m a with
  | nil => exact h
  | cons b bs ih => exact ih _ (awf_aput _ _ h)

/-- A write keeps memory in canonical form, and so do the writes of full-empty bits and poison marks. -/
theorem wf_memWrite {s : State} (a : Nat) (bs : List Byte) (h : Memory.wf s.mem = true) : Memory.wf (memWrite s a bs).mem = true :=
  wf_writeBytes a bs h
theorem wf_setFull {s : State} (a : Nat) (b : Bool) (h : awf true 0 s.full = true) : awf true 0 (setFull s a b).full = true :=
  awf_aput _ _ h
theorem wf_setPoison {s : State} (a : Nat) (b : Bool) (h : awf false 0 s.poison = true) : awf false 0 (setPoison s a b).poison = true :=
  awf_aput _ _ h

theorem reset_memory_wf : Memory.wf State.reset.mem = true := rfl

@[simp] theorem memRead_memWrite_same (s : State) (a : Nat) (bs : List Byte) : memRead (memWrite s a bs) a bs.length = bs :=
  readBytes_writeBytes_same _ _ _

theorem isFull_setFull (s : State) (a b : Nat) (v : Bool) : isFull (setFull s a v) b = if b / 64 = a / 64 then v else isFull s b := by
  simp only [isFull, setFull, aget_aput]

@[simp] theorem bytesOf_length (n x : Nat) : (bytesOf n x).length = n := by
  induction n generalizing x with
  | zero => rfl
  | succ n ih => simp [bytesOf, ih]

theorem ofBytes_bytesOf (n x : Nat) : ofBytes (bytesOf n x) = x % 256 ^ n := by
  induction n generalizing x with
  | zero => simp [bytesOf, ofBytes, Nat.mod_one]
  | succ n ih =>
    simp only [bytesOf, ofBytes, ih, BitVec.toNat_ofNat]
    have h1 : x % 256 ^ (n + 1) = x % 256 + 256 * (x / 256 % 256 ^ n) := by
      rw [Nat.pow_succ, Nat.mul_comm (256 ^ n) 256, Nat.mod_mul]
    omega

/-- A 64-bit value written in memory reads back. -/
theorem memWord_memSetWord (s : State) (a : Nat) (w : Word) : memWord (memSetWord s a w) a = w := by
  have h : memRead (memSetWord s a w) a 8 = bytesOf 8 w.toNat := by
    have := memRead_memWrite_same s a (bytesOf 8 w.toNat)
    simpa [memSetWord] using this
  have : w.toNat < 2 ^ 64 := w.isLt
  simp only [memWord, h, ofBytes_bytesOf, word]
  apply BitVec.eq_of_toNat_eq
  simp; omega

end Sys2Proof.Machine
end

