-- ==== Sys2Proof/Laws/Frames.lean ====
section
/-! SUPPORT. What the operations of a tile leave unchanged: one lemma per operation, composed by transitivity. -/
namespace Sys2Proof.Machine

/-! ## The relations compose -/

theorem SameMem.refl (s : State) : SameMem s s := ⟨fun _ _ => rfl, fun _ _ => ⟨rfl, rfl⟩, rfl, rfl⟩
theorem SameMem.trans {a b c : State} (h : SameMem a b) (k : SameMem b c) : SameMem a c :=
  ⟨fun i n => (k.1 i n).trans (h.1 i n), fun i n => ⟨(k.2.1 i n).1.trans (h.2.1 i n).1, (k.2.1 i n).2.trans (h.2.1 i n).2⟩,
   k.2.2.1.trans h.2.2.1, k.2.2.2.trans h.2.2.2⟩
theorem SameMem.of_eq {s t : State} (h1 : t.mem = s.mem) (h2 : t.full = s.full) (h3 : t.poison = s.poison) (h4 : t.far = s.far)
    (h5 : t.farFull = s.farFull) : SameMem s t :=
  ⟨fun _ _ => by simp [memByte, h1], fun _ _ => by simp [isFull, isPoison, h2, h3], h4, h5⟩

theorem SamePackage.refl (s : State) : SamePackage s s := ⟨rfl, rfl, rfl, rfl, rfl, rfl, rfl, rfl, rfl, rfl⟩
theorem SamePackage.trans {a b c : State} (h : SamePackage a b) (k : SamePackage b c) : SamePackage a c := by
  obtain ⟨h1, h2, h3, h4, h5, h6, h7, h8, h9, h10⟩ := h
  obtain ⟨k1, k2, k3, k4, k5, k6, k7, k8, k9, k10⟩ := k
  exact ⟨k1.trans h1, k2.trans h2, k3.trans h3, k4.trans h4, k5.trans h5, k6.trans h6, k7.trans h7, k8.trans h8, k9.trans h9,
    k10.trans h10⟩

theorem SameCoresBut.refl (s : State) (p : ClusterId → Prop) : SameCoresBut s s p := fun _ _ => rfl
theorem SameCoresBut.trans {a b c : State} {p : ClusterId → Prop} (h : SameCoresBut a b p) (k : SameCoresBut b c p) :
    SameCoresBut a c p := fun i n => (k i n).trans (h i n)
theorem SameCores.refl (s : State) : SameCores s s := SameCoresBut.refl s _
theorem SameCores.trans {a b c : State} (h : SameCores a b) (k : SameCores b c) : SameCores a c := SameCoresBut.trans h k
theorem SameCores.of_eq {s t : State} (h : t.clusters = s.clusters) : SameCores s t := fun _ _ => by simp [getCl, h]

theorem SameTilesBut.trans {a b c : State} {p : TileId → Prop} (h : SameTilesBut a b p) (k : SameTilesBut b c p) :
    SameTilesBut a c p := fun i n => (k i n).trans (h i n)

theorem TileFrame.refl (s : State) (u : TileId) : TileFrame s s u :=
  ⟨SameMem.refl s, SameCores.refl s, rfl, fun _ _ => rfl, SamePackage.refl s⟩
theorem TileFrame.trans {a b c : State} {u : TileId} (h : TileFrame a b u) (k : TileFrame b c u) : TileFrame a c u :=
  ⟨h.1.trans k.1, h.2.1.trans k.2.1, k.2.2.1.trans h.2.2.1, h.2.2.2.1.trans k.2.2.2.1, h.2.2.2.2.trans k.2.2.2.2⟩

/-- A fold of steps that each keep a frame keeps it. -/
theorem TileFrame.foldl {β : Type} {u : TileId} (f : State → β → State) (h : ∀ s x, TileFrame s (f s x) u) (l : List β) (s : State) :
    TileFrame s (l.foldl f s) u := by
  induction l generalizing s with
  | nil => exact TileFrame.refl s u
  | cons x l ih => exact (h s x).trans (ih _)

/-! ## Updates of one table -/

theorem setTile_frame (s : State) (u : TileId) (x : Tile) : TileFrame s (setTile s u x) u :=
  ⟨SameMem.of_eq rfl rfl rfl rfl rfl, SameCores.of_eq rfl, rfl, fun _ h => getTile_setTile_other s x h, SamePackage.refl s⟩
theorem updTile_frame (s : State) (u : TileId) (f : Tile → Tile) : TileFrame s (updTile s u f) u := setTile_frame _ _ _
theorem setLaunch_frame (s : State) (l : LaunchId) (x : Launch) (u : TileId) : TileFrame s (setLaunch s l x) u :=
  ⟨SameMem.of_eq rfl rfl rfl rfl rfl, SameCores.of_eq rfl, rfl, fun _ _ => rfl, SamePackage.refl s⟩
theorem updLaunch_frame (s : State) (l : LaunchId) (f : Launch → Launch) (u : TileId) : TileFrame s (updLaunch s l f) u := by
  unfold updLaunch; split
  · exact TileFrame.refl s u
  · exact setLaunch_frame ..
theorem updThread_frame (s : State) (l : LaunchId) (thr : BitVec 8) (f : Thread → Thread) (u : TileId) :
    TileFrame s (updThread s l thr f) u := updLaunch_frame ..
theorem updSlice_frame (s : State) (i : SliceId) (f : Slice → Slice) (u : TileId) : TileFrame s (updSlice s i f) u :=
  ⟨SameMem.of_eq rfl rfl rfl rfl rfl, SameCores.of_eq rfl, rfl, fun _ _ => rfl, SamePackage.refl s⟩

/-- A cluster changed in records and counters alone. -/
theorem setCl_frame {s : State} {c : ClusterId} {x : Cluster} (h : coreView x = coreView (getCl s c)) (u : TileId) :
    TileFrame s (setCl s c x) u :=
  ⟨SameMem.of_eq rfl rfl rfl rfl rfl,
   fun e _ => by
    by_cases he : e = c
    · subst he; simpa using h
    · rw [getCl_setCl_other s x he],
   rfl, fun _ _ => rfl, SamePackage.refl s⟩

/-! ## Records, counters, threads -/

theorem raiseRec_frame (s : State) (c : ClusterId) (r : Rec) (u : TileId) : TileFrame s (raiseRec s c r) u := by
  apply setCl_frame; rfl
theorem recL_frame (s : State) (l : LaunchId) (r : Rec) (u : TileId) : TileFrame s (recL s l r) u := by
  unfold recL; split
  · exact TileFrame.refl s u
  · exact raiseRec_frame ..
theorem recT_frame (s : State) (t : TileId) (r : Rec) (u : TileId) : TileFrame s (recT s t r) u := by
  unfold recT; dsimp only; split
  · exact recL_frame ..
  · exact raiseRec_frame ..
theorem recFirst_frame (s : State) (u : TileId) (r : Rec) : TileFrame s (recFirst s u r) u := by
  unfold recFirst; split
  · exact TileFrame.refl s u
  · exact (updTile_frame ..).trans (recT_frame ..)
theorem recFirstL_frame (s : State) (l : LaunchId) (r : Rec) (u : TileId) : TileFrame s (recFirstL s l r) u := by
  unfold recFirstL; split
  · exact TileFrame.refl s u
  · split
    · exact TileFrame.refl s u
    · exact (setLaunch_frame ..).trans (recL_frame ..)
theorem countEv_frame (s : State) (t : TileId) (ev q n : Nat) (u : TileId) : TileFrame s (countEv s t ev q n) u := by
  unfold countEv; dsimp only; split
  · exact TileFrame.refl s u
  · apply setCl_frame; rfl
theorem countTile_frame (s : State) (u : TileId) (ev q : Nat) : TileFrame s (countTile s u ev q) u :=
  (updTile_frame ..).trans (countEv_frame ..)
theorem countCl_frame (s : State) (c : ClusterId) (n : Nat) (u : TileId) : TileFrame s (countCl s c n) u := by
  apply setCl_frame; rfl
theorem countL_frame (s : State) (l : LaunchId) (n : Nat) (u : TileId) : TileFrame s (countL s l n) u := updLaunch_frame ..
theorem inexact_frame (s : State) (t : TileId) (thr : BitVec 8) (u : TileId) : TileFrame s (inexact s t thr) u := by
  unfold inexact; split
  · exact TileFrame.refl s u
  · exact updThread_frame ..

/-! ## Queues -/

theorem qEffects_frame (t : TileId) (q : Nat) (es : List QEff) (s : State) (u : TileId) : TileFrame s (qEffects t q es s) u :=
  TileFrame.foldl _ (fun s e => by
    cases e
    · exact inexact_frame ..
    · exact countEv_frame ..
    · exact recT_frame ..
    · exact TileFrame.refl ..) es s
theorem scratch_frame (s : State) (t : TileId) (before after : List QEntry) (d c n : Nat) (u : TileId) :
    TileFrame s (scratch s t before after d c n) u := by
  unfold scratch; split
  · exact TileFrame.refl s u
  · exact updSlice_frame ..
theorem putQ_frame (s : State) (u : TileId) (q : Nat) (v : Queue) (n : Nat) : TileFrame s (putQ s u q v n) u := by
  unfold putQ; exact (setTile_frame s u _).trans (scratch_frame ..)
theorem runQ_frame (s : State) (u : TileId) (q : Nat) (r : QRun) : TileFrame s (runQ s u q r) u :=
  (putQ_frame ..).trans (qEffects_frame ..)
theorem takeQ_frame (s : State) (u : TileId) (q : Nat) : TileFrame s (takeQ s u q) u := putQ_frame ..

/-! ## Firings -/

theorem takeHead_frame (s : State) (u : TileId) (q : Nat) : TileFrame s (takeHead s u q) u := by
  unfold takeHead; dsimp only; split
  · exact TileFrame.refl s u
  · split
    · have h : ∀ z : State, TileFrame s z u → ∀ r, TileFrame s (recFirst (countTile z u 34 0) u r) u := fun z hz r =>
        hz.trans ((countTile_frame ..).trans (recFirst_frame ..))
      have k : ∀ v : VTok, TileFrame s (if v.kind = kGap then inexact (takeQ s u q) u v.thr else takeQ s u q) u := fun v => by
        split
        · exact (takeQ_frame ..).trans (inexact_frame ..)
        · exact takeQ_frame ..
      split
      · exact h _ (k _) _
      · exact k _
    · exact takeQ_frame ..
theorem thrMix_frame (s : State) (sl : SlotId) (x : Tile) (qs : List Nat) : TileFrame s (thrMix s sl x qs) sl.tile := by
  unfold thrMix; split
  · exact TileFrame.refl ..
  · split
    · exact TileFrame.refl ..
    · exact (countTile_frame ..).trans (recFirst_frame ..)
theorem markIssue_frame (s : State) (sl : SlotId) : TileFrame s (markIssue s sl) sl.tile := updTile_frame ..
theorem beginFire_frame (s : State) (sl : SlotId) (qs : List Nat) : TileFrame s (beginFire s sl qs) sl.tile :=
  ((thrMix_frame ..).trans (TileFrame.foldl _ (fun s q => takeHead_frame s sl.tile q) _ _)).trans (markIssue_frame ..)
theorem pushPipe_frame (s : State) (sl : SlotId) (f : Firing) : TileFrame s (pushPipe s sl f) sl.tile := updTile_frame ..
theorem pushEms_frame (s : State) (sl : SlotId) (es : List (Fin 4 × Tok)) : TileFrame s (pushEms s sl es) sl.tile := by
  unfold pushEms; split
  · exact TileFrame.refl ..
  · exact pushPipe_frame ..
theorem setLatch_frame (s : State) (sl : SlotId) (t : VTok) : TileFrame s (setLatch s sl t) sl.tile := updTile_frame ..
theorem setNode_frame (s : State) (sl : SlotId) (n : NodeSt) : TileFrame s (setNode s sl n) sl.tile := updTile_frame ..
theorem arith_frame (s : State) (sl : SlotId) (thr : BitVec 8) (mask q n k : Nat) (u : TileId) : TileFrame s (arith s sl thr mask q n k) u := by
  unfold arith; split
  · exact TileFrame.refl ..
  · dsimp only; split
    · exact recT_frame ..
    · exact (recT_frame ..).trans (updLaunch_frame ..)
theorem fresh_frame (s : State) (u : TileId) : TileFrame s (fresh s).2 u :=
  ⟨SameMem.of_eq rfl rfl rfl rfl rfl, SameCores.of_eq rfl, rfl, fun _ _ => rfl, SamePackage.refl s⟩
theorem pushArith_frame (s : State) (sl : SlotId) (thr : BitVec 8) (mask : Nat) (tok : Nat × Nat) (es : List (Fin 4 × Tok)) :
    TileFrame s (pushArith s sl thr mask tok es) sl.tile := by
  unfold pushArith; split
  · exact pushEms_frame ..
  · split
    · exact arith_frame ..
    · exact ((fresh_frame ..).trans (arith_frame ..)).trans (pushPipe_frame ..)
theorem typeFail_frame (s : State) (f : Fire) (w : NWord) (r : Calc) : TileFrame s (typeFail s f w r) f.sl.tile := by
  exact ((recFirst_frame ..).trans (setLatch_frame ..)).trans (pushEms_frame ..)
theorem fireState_frame (v : View) (w : NWord) (g : Fire → Calc) (fix : Fire → Calc → VTok → VTok) (sl : SlotId) (s : State) :
    TileFrame s (fireState v w g fix sl s) sl.tile := by
  unfold fireState; dsimp only; split
  · exact ((beginFire_frame ..).trans (setLatch_frame ..)).trans (pushArith_frame ..)
  · exact (beginFire_frame ..).trans (typeFail_frame ..)

end Sys2Proof.Machine
end

