-- ==== Sys2Proof/Laws/Firings.lean ====
section
/-! SUPPORT. What a firing leaves in its slot: the issue, the latch, the pipeline. -/
namespace Sys2Proof.Machine

/-- The slots of a tile, its issue of the cycle and the clock are as before. -/
def SameSlots (s t : State) (u : TileId) : Prop :=
  (getTile t u).slots = (getTile s u).slots ∧ (getTile t u).issued = (getTile s u).issued ∧ t.clock = s.clock

theorem SameSlots.refl (s : State) (u : TileId) : SameSlots s s u := ⟨rfl, rfl, rfl⟩
theorem SameSlots.trans {a b c : State} {u : TileId} (h : SameSlots a b u) (k : SameSlots b c u) : SameSlots a c u :=
  ⟨k.1.trans h.1, k.2.1.trans h.2.1, k.2.2.trans h.2.2⟩
theorem SameSlots.foldl {β : Type} {u : TileId} (f : State → β → State) (h : ∀ s x, SameSlots s (f s x) u) (l : List β) (s : State) :
    SameSlots s (l.foldl f s) u := by
  induction l generalizing s with
  | nil => exact SameSlots.refl s u
  | cons x l ih => exact (h s x).trans (ih _)

theorem setTile_slots {s : State} {u : TileId} {x : Tile} (h : x.slots = (getTile s u).slots) (k : x.issued = (getTile s u).issued) :
    SameSlots s (setTile s u x) u := ⟨by simpa using h, by simpa using k, rfl⟩
theorem raiseRec_slots (s : State) (c : ClusterId) (r : Rec) (u : TileId) : SameSlots s (raiseRec s c r) u := ⟨rfl, rfl, rfl⟩
theorem setLaunch_slots (s : State) (l : LaunchId) (x : Launch) (u : TileId) : SameSlots s (setLaunch s l x) u := ⟨rfl, rfl, rfl⟩
theorem updLaunch_slots (s : State) (l : LaunchId) (f : Launch → Launch) (u : TileId) : SameSlots s (updLaunch s l f) u := by
  unfold updLaunch; split
  · exact SameSlots.refl s u
  · exact setLaunch_slots ..
theorem recL_slots (s : State) (l : LaunchId) (r : Rec) (u : TileId) : SameSlots s (recL s l r) u := by
  unfold recL; split
  · exact SameSlots.refl s u
  · exact raiseRec_slots ..
theorem recT_slots (s : State) (t : TileId) (r : Rec) (u : TileId) : SameSlots s (recT s t r) u := by
  unfold recT; dsimp only; split
  · exact recL_slots ..
  · exact raiseRec_slots ..
theorem recFirst_slots (s : State) (u : TileId) (r : Rec) : SameSlots s (recFirst s u r) u := by
  unfold recFirst; split
  · exact SameSlots.refl s u
  · refine SameSlots.trans ?_ (recT_slots ..)
    exact setTile_slots rfl rfl
theorem countEv_slots (s : State) (t : TileId) (ev q n : Nat) (u : TileId) : SameSlots s (countEv s t ev q n) u := by
  unfold countEv; dsimp only; split
  · exact SameSlots.refl s u
  · exact ⟨rfl, rfl, rfl⟩
theorem countTile_slots (s : State) (u : TileId) (ev q : Nat) : SameSlots s (countTile s u ev q) u := by
  refine SameSlots.trans ?_ (countEv_slots ..)
  exact setTile_slots rfl rfl
theorem inexact_slots (s : State) (t : TileId) (thr : BitVec 8) (u : TileId) : SameSlots s (inexact s t thr) u := by
  unfold inexact; split
  · exact SameSlots.refl s u
  · exact updLaunch_slots ..
theorem scratch_slots (s : State) (t : TileId) (before after : List QEntry) (d c n : Nat) (u : TileId) :
    SameSlots s (scratch s t before after d c n) u := by
  unfold scratch; split
  · exact SameSlots.refl s u
  · exact ⟨rfl, rfl, rfl⟩
theorem putQ_slots (s : State) (u : TileId) (q : Nat) (v : Queue) (n : Nat) : SameSlots s (putQ s u q v n) u := by
  unfold putQ
  refine SameSlots.trans (b := setTile s u (setQ (getTile s u) q v)) ?_ (scratch_slots ..)
  exact setTile_slots rfl rfl
theorem takeHead_slots (s : State) (u : TileId) (q : Nat) : SameSlots s (takeHead s u q) u := by
  unfold takeHead; dsimp only; split
  · exact SameSlots.refl s u
  · split
    · have h : ∀ z : State, SameSlots s z u → ∀ r, SameSlots s (recFirst (countTile z u 34 0) u r) u := fun z hz r =>
        hz.trans ((countTile_slots ..).trans (recFirst_slots ..))
      have k : ∀ v : VTok, SameSlots s (if v.kind = kGap then inexact (takeQ s u q) u v.thr else takeQ s u q) u := fun v => by
        split
        · exact (putQ_slots ..).trans (inexact_slots ..)
        · exact putQ_slots ..
      split
      · exact h _ (k _) _
      · exact k _
    · exact putQ_slots ..
theorem thrMix_slots (s : State) (sl : SlotId) (x : Tile) (qs : List Nat) : SameSlots s (thrMix s sl x qs) sl.tile := by
  unfold thrMix; split
  · exact SameSlots.refl ..
  · split
    · exact SameSlots.refl ..
    · exact (countTile_slots ..).trans (recFirst_slots ..)
theorem arith_slots (s : State) (sl : SlotId) (thr : BitVec 8) (mask q n k : Nat) (u : TileId) : SameSlots s (arith s sl thr mask q n k) u := by
  unfold arith; split
  · exact SameSlots.refl ..
  · dsimp only; split
    · exact recT_slots ..
    · exact (recT_slots ..).trans (updLaunch_slots ..)

@[simp] theorem getSlot_setSlot (x : Tile) (k : Nat) (y : Slot) : getSlot (setSlot x k y) k = y := by simp [getSlot, setSlot]
@[simp] theorem getSlot_updSlot (x : Tile) (k : Nat) (f : Slot → Slot) : getSlot (updSlot x k f) k = f (getSlot x k) := by simp [updSlot]

/-- A slot as its tile holds it. -/
def slotAt (s : State) (sl : SlotId) : Slot := getSlot (getTile s sl.tile) sl.slot.val

theorem SameSlots.slotAt {s t : State} {sl : SlotId} (h : SameSlots s t sl.tile) : slotAt t sl = slotAt s sl := by
  simp [Machine.slotAt, getSlot, h.1]

/-- A firing's heads taken and its issue made: the slot's readiness ends, and nothing else of the slot changes. -/
theorem slotAt_beginFire (s : State) (sl : SlotId) (qs : List Nat) :
    slotAt (beginFire s sl qs) sl = { slotAt s sl with since := none, fired := true } := by
  have h := (thrMix_slots s sl (getTile s sl.tile) qs).trans
    (SameSlots.foldl (u := sl.tile) (fun s q => takeHead s sl.tile q) (fun s q => takeHead_slots s sl.tile q) qs _)
  have k := h.slotAt (sl := sl)
  simp only [beginFire, markIssue]
  rw [← k]
  simp [slotAt, getSlot, updSlot, setSlot]
theorem issued_beginFire (s : State) (sl : SlotId) (qs : List Nat) : (getTile (beginFire s sl qs) sl.tile).issued = some s.clock := by
  have h := (thrMix_slots s sl (getTile s sl.tile) qs).trans
    (SameSlots.foldl (u := sl.tile) (fun s q => takeHead s sl.tile q) (fun s q => takeHead_slots s sl.tile q) qs _)
  simp [beginFire, markIssue, updSlot, setSlot, h.2.2]

@[simp] theorem slotAt_setLatch (s : State) (sl : SlotId) (t : VTok) : slotAt (setLatch s sl t) sl = { slotAt s sl with latch := t } := by
  simp [slotAt, setLatch]
@[simp] theorem slotAt_setNode (s : State) (sl : SlotId) (n : NodeSt) : slotAt (setNode s sl n) sl = { slotAt s sl with node := n } := by
  simp [slotAt, setNode]
@[simp] theorem slotAt_pushPipe (s : State) (sl : SlotId) (f : Firing) :
    slotAt (pushPipe s sl f) sl = { slotAt s sl with pipe := (slotAt s sl).pipe ++ [f] } := by
  simp [slotAt, pushPipe]
theorem slotAt_pushEms (s : State) (sl : SlotId) (es : List (Fin 4 × Tok)) :
    slotAt (pushEms s sl es) sl = { slotAt s sl with pipe := (slotAt s sl).pipe ++ (if es = [] then [] else [results es]) } := by
  unfold pushEms; cases es <;> simp
@[simp] theorem issued_setLatch (s : State) (sl : SlotId) (t : VTok) : (getTile (setLatch s sl t) sl.tile).issued = (getTile s sl.tile).issued := by
  simp [setLatch, updSlot, setSlot]
@[simp] theorem issued_setNode (s : State) (sl : SlotId) (n : NodeSt) : (getTile (setNode s sl n) sl.tile).issued = (getTile s sl.tile).issued := by
  simp [setNode, updSlot, setSlot]
@[simp] theorem issued_pushPipe (s : State) (sl : SlotId) (f : Firing) : (getTile (pushPipe s sl f) sl.tile).issued = (getTile s sl.tile).issued := by
  simp [pushPipe, updSlot, setSlot]
@[simp] theorem issued_pushEms (s : State) (sl : SlotId) (es : List (Fin 4 × Tok)) :
    (getTile (pushEms s sl es) sl.tile).issued = (getTile s sl.tile).issued := by
  unfold pushEms; split <;> simp

theorem fresh_slots (s : State) (u : TileId) : SameSlots s (fresh s).2 u := ⟨rfl, rfl, rfl⟩

/-- A firing's results put in the pipeline, under the serial of its ARITH record where it has one. -/
theorem slotAt_pushArith (s : State) (sl : SlotId) (thr : BitVec 8) (mask : Nat) (tok : Nat × Nat) (es : List (Fin 4 × Tok)) :
    ∃ k, slotAt (pushArith s sl thr mask tok es) sl =
      { slotAt s sl with pipe := (slotAt s sl).pipe ++ (if es = [] then [] else [{ results es with arith := k }]) } := by
  unfold pushArith; split
  · exact ⟨0, by rw [slotAt_pushEms]; rfl⟩
  · split
    next h => exact ⟨0, by rw [(arith_slots _ sl _ _ _ _ _ sl.tile).slotAt]; simp [List.isEmpty_iff.mp h]⟩
    next h =>
      refine ⟨s.seq + 1, ?_⟩
      have e : es ≠ [] := fun e => h (by simp [e])
      rw [show fresh s = (s.seq, (fresh s).2) from rfl]
      dsimp only
      rw [slotAt_pushPipe, (arith_slots _ sl _ _ _ _ _ sl.tile).slotAt, (fresh_slots s sl.tile).slotAt, if_neg e]
theorem issued_pushArith (s : State) (sl : SlotId) (thr : BitVec 8) (mask : Nat) (tok : Nat × Nat) (es : List (Fin 4 × Tok)) :
    (getTile (pushArith s sl thr mask tok es) sl.tile).issued = (getTile s sl.tile).issued := by
  unfold pushArith; split
  · exact issued_pushEms ..
  · split
    · exact (arith_slots ..).2.1
    · simp only [fresh]
      rw [issued_pushPipe, (arith_slots _ sl _ _ _ _ _ sl.tile).2.1]; rfl

/-- What a firing of a calculating node with a legal type leaves in its slot. -/
theorem slotAt_fireState (v : View) (w : NWord) (g : Fire → Calc) (fix : Fire → Calc → VTok → VTok) (sl : SlotId) (s : State)
    (h : (fireOf s sl v).pktOk = true) :
    let f := fireOf s sl v
    let t := fix f (g f) (resultTok f w (g f))
    let es := emsOf w.out t ++ secEms f w (g f)
    ∃ k, slotAt (fireState v w g fix sl s) sl =
      { slotAt s sl with since := none, fired := true, latch := t,
                         pipe := (slotAt s sl).pipe ++ (if es = [] then [] else [{ results es with arith := k }]) } := by
  intro f t es
  simp only [fireState, h, if_true]
  obtain ⟨k, hk⟩ := slotAt_pushArith (setLatch (beginFire s sl (namedOnce v)) sl t) sl f.thr
    (if (g f).rawMask then (g f).mask else maskValid t.valid ((g f).mask ||| immMask (maskWidth v f.ty) f.ty w)) (arithTok (getTile s sl.tile) v) es
  exact ⟨k, by rw [hk, slotAt_setLatch, slotAt_beginFire]⟩

/-- And one without (R38): a token with no valid lane, with a secondary output where the entry has one. -/
theorem slotAt_fireState_bad (v : View) (w : NWord) (g : Fire → Calc) (fix : Fire → Calc → VTok → VTok) (sl : SlotId) (s : State)
    (h : (fireOf s sl v).pktOk = false) :
    let f := fireOf s sl v
    let r := g (noLanes f)
    let t : VTok := { valid := 0, wt := if w.wp then wread f.a.wt else wOne, key := if w.wp then f.a.key else 0, kind := kData, fmt := r.fmt,
                      thr := f.thr, pay := 0 }
    let es := emsOf w.out t ++ secEms f w r
    slotAt (fireState v w g fix sl s) sl =
      { slotAt s sl with since := none, fired := true, latch := t, pipe := (slotAt s sl).pipe ++ (if es = [] then [] else [results es]) } := by
  have e : (fireOf s sl v).sl = sl := rfl
  simp only [fireState, h, typeFail, e, Bool.false_eq_true, if_false]
  rw [slotAt_pushEms, slotAt_setLatch, (recFirst_slots _ sl.tile _).slotAt, slotAt_beginFire]

theorem issued_fireState (v : View) (w : NWord) (g : Fire → Calc) (fix : Fire → Calc → VTok → VTok) (sl : SlotId) (s : State) :
    (getTile (fireState v w g fix sl s) sl.tile).issued = some s.clock := by
  have e : (fireOf s sl v).sl = sl := rfl
  unfold fireState; dsimp only; split
  · rw [issued_pushArith, issued_setLatch, issued_beginFire]
  · rw [typeFail, e, issued_pushEms, issued_setLatch, (recFirst_slots _ sl.tile _).2.1, issued_beginFire]

/-- An instruction of a slot whose turn it is does what its meaning says. -/
theorem atSlot_turn {i : Instr} {s : State} {sl : SlotId} (h : AtTurn s sl i) (go : SlotId → State → State) :
    atSlot i s go = .next (go sl s) := by
  simp [atSlot, h.1, h.2]

end Sys2Proof.Machine
end

