-- ==== Sys2Proof/Laws/Posts.lean ====
section
/-! SUPPORT. What a launch that nothing refuses, and the end of a command of Lodge, make of a state. -/
namespace Sys2Proof.Machine
open Sys2Proof

/-! ## Launches -/

theorem afind_range_map {α : Type} (f : Nat → α) (a n k : Nat) (h1 : a ≤ k) (h2 : k < a + n) :
    afind ((List.range' a n).map fun i => (i, f i)) k = some (f k) := by
  induction n generalizing a with
  | zero => omega
  | succ n ih =>
    simp only [List.range'_succ, List.map_cons, afind]
    split
    · next e => rw [e]
    · exact ih (a + 1) (by omega) (by omega)

theorem memByte_setCtxState (s : State) (d : Fin 4) (ctx : BitVec 12) (n b : Nat) (h : ¬ (ctxAddr s d ctx ≤ b ∧ b < ctxAddr s d ctx + 8)) :
    memByte (setCtxState s d ctx n) b = memByte s b := by
  unfold setCtxState setCtx memSetWord memWrite memByte
  exact aget_writeBytes_other _ _ _ (by rwa [bytesOf_length])

theorem setCtxState_same (s : State) (d : Fin 4) (ctx : BitVec 12) (n : Nat) : setCtxState s d ctx n = { s with mem := (setCtxState s d ctx n).mem } := rfl

theorem launchKey_ne {a b : LaunchId} (h : a ≠ b) : launchKey a ≠ launchKey b := by
  intro e
  apply h
  obtain ⟨d, n⟩ := a
  obtain ⟨d', n'⟩ := b
  simp only [launchKey] at e
  have := d.isLt
  have := d'.isLt
  simp only [LaunchId.mk.injEq, Fin.ext_iff]
  omega

/-- A launch that fits is accepted under the next handle; besides the launch, the die's next handle and a context's STATE nothing changes. -/
theorem acceptLaunch_fits {s : State} {a : Ask} {r : LaunchRec} (h : LaunchFits s a r) :
    ∃ t, acceptLaunch s a = .ok ((nextLaunch s a.near.die).handle, t) ∧ LaunchMade s t a r ∧ t.clusters = s.clusters ∧ t.tiles = s.tiles ∧
      (∀ b, ¬ (ctxAddr s a.near.die r.ctx ≤ b ∧ b < ctxAddr s a.near.die r.ctx + 8) → memByte t b = memByte s b) ∧ t.ljbase = s.ljbase ∧ t.ljnext = s.ljnext ∧
      t.journal = s.journal ∧ t.out = s.out ∧ t.clock = s.clock := by
  obtain ⟨h1, h2, h3, h4, h5, h6, h7, h8, ⟨q, h9, h10⟩, ⟨m, h11⟩, h12, h13⟩ := h
  have e5 : (a.descs.any fun (p, ws) => !descOk p ws) = false := by
    rw [List.any_eq_false]; intro e he; simp [h5 e he]
  have h7' : wbit (getDie s a.near.die).ctxbase 63 = true := h7
  have hw : ¬ 64 ≤ (List.filter (fun x => decide (x.2.st = LaunchSt.waiting)) (launchesOf s a.near.die)).length := Nat.not_le.2 h13
  have hr : ¬ ((!a.sys) = true ∧ r.ctx ≠ a.ctx ∨ (!wbit (getDie s a.near.die).ctxbase 63) = true ∨ 2 ≤ ctxState s a.near.die r.ctx) := by
    rintro (⟨g1, g2⟩ | g | g)
    · rcases h6 with h | h
      · simp [h] at g1
      · exact g2 h
    · simp [h7'] at g
    · omega
  have hp : ¬ (16 < a.ports.length ∨ 8192 < portBits a.ports) := by omega
  unfold acceptLaunch
  simp only [h1, h2, h9, h10, h11, h12, e5, hw, hr, hp, Bool.not_true, Bool.false_eq_true, or_false, if_false]
  refine ⟨_, rfl, ?_⟩
  have key : ∀ n, n < r.threads → afind ((List.range r.threads).map fun k => (k, ({ pc := r.entry, t := r.liv } : Thread))) n = some { pc := r.entry, t := r.liv } := by
    intro n hn
    rw [List.range_eq_range']
    exact afind_range_map _ 0 r.threads n (Nat.zero_le _) (by omega)
  split
  all_goals
    refine ⟨⟨fun k hk => ?_, _, afind_aset_same .., rfl, rfl, rfl, rfl, rfl, rfl, fun n hn => ⟨_, key n hn, rfl, rfl, rfl⟩⟩, ?_, ?_, fun b hb => ?_, ?_, ?_, ?_, ?_, ?_⟩
  all_goals try (first | (rw [setCtxState_same]; rfl) | rfl)
  · exact afind_aset_other _ _ (launchKey_ne hk)
  · exact memByte_setCtxState _ _ _ _ _ (by simpa [ctxAddr, getDie, updDie, setDie, setLaunch, fresh] using hb)
  · exact afind_aset_other _ _ (launchKey_ne hk)

/-! ## Commands of Lodge -/

theorem lodgeEntry_length (s : State) (c : LodgeCmd) (st : Nat) (r : Word) : (lodgeEntry s c st r).length = 64 := by
  simp [lodgeEntry]

theorem journalPlace_eq (s : State) : fld s.ljbase 38 16 * 65536 + 64 * (s.ljnext % 2 ^ fld s.ljbase 4 0) = journalPlace s := by
  simp [journalPlace, fld, Nat.shiftRight_eq_div_pow]

/-- The end of a command writes its entry at the journal's next place and sends it. -/
theorem lodgeEnd_eq (s : State) (c : LodgeCmd) (st : Nat) (r : Word) :
    lodgeEnd s c st r =
      { s with
        slices := (touch s none (journalPlace s) 0 true).slices, mem := writeBytes s.mem (journalPlace s) (lodgeEntry s c st r),
        poison := aput false s.poison (journalPlace s / 64) false, ljnext := s.ljnext + 1,
        journal := (lodgeEntry s c st r :: s.journal).take (2 ^ 20), out := s.out ++ [.reply c.src (lodgeEntry s c st r)] } := by
  unfold lodgeEnd
  generalize lodgeEntry s c st r = e
  simp only [journalPlace_eq, lodgeReply, setPoison, memWrite, touch, updSlice, setSlice]

theorem lodgeEnd_answered (s : State) (c : LodgeCmd) (st : Nat) (r : Word) : LodgeAnswered s (lodgeEnd s c st r) c st r := by
  have h := readBytes_writeBytes_same s.mem (journalPlace s) (lodgeEntry s c st r)
  have hl := lodgeEntry_length s c st r
  rw [lodgeEnd_eq]
  unfold LodgeAnswered
  generalize lodgeEntry s c st r = e at *
  rw [hl] at h
  exact ⟨rfl, rfl, rfl, h, rfl⟩

/-- The same after an operation that leaves the journal and the tiles as they were. -/
theorem lodgeEnd_answered_of {s s' : State} (c : LodgeCmd) (st : Nat) (r : Word) (h1 : s'.ljbase = s.ljbase) (h2 : s'.ljnext = s.ljnext)
    (h3 : s'.journal = s.journal) (h4 : s'.out = s.out) (h5 : s'.tiles = s.tiles) (h6 : s'.clock = s.clock) :
    LodgeAnswered s (lodgeEnd s' c st r) c st r := by
  have := lodgeEnd_answered s' c st r
  simpa [LodgeAnswered, lodgeEntry, journalPlace, h1, h2, h3, h4, h5, h6] using this

theorem lodgeEnd_still (s : State) (c : LodgeCmd) (st : Nat) (r : Word) : LodgeStill s (lodgeEnd s c st r) := by
  have h := lodgeEntry_length s c st r
  rw [lodgeEnd_eq]
  generalize lodgeEntry s c st r = e at *
  refine ⟨rfl, rfl, fun a ha => ?_, fun a ha => ⟨rfl, ?_⟩, rfl, rfl⟩
  · exact aget_writeBytes_other _ _ _ (by rwa [h])
  · simp only [isPoison, aget_aput, if_neg ha]

/-- A command at its turn is executed, and answered unless it waits. -/
theorem lodgeStep_turn {s : State} {c : LodgeCmd} (h : LodgeTurn s c) (mine : Nat → Bool) (go : LodgeCmd → State → Option Executed) (hm : mine (cmdOp c) = true) :
    lodgeStep mine go s = match go c s with | none => .next s | some x => .next (lodgeEnd x.s c x.st x.result) := by
  obtain ⟨ha, hb, hc, hd, he, hf⟩ := h
  have hd' : wbit s.ljbase 63 = true := hd
  unfold lodgeStep
  simp [ha, hd', he, hf, hm, Nat.not_lt.2 hb, Nat.not_lt.2 hc] <;> rfl

end Sys2Proof.Machine
end

