-- ==== Sys2Proof/Tests/States.lean ====
section
/-! SUPPORT. Small states from which the tests start: a tile with one word in slot 0, a running core, a launch, a die. -/
set_option Elab.async false
namespace Sys2Proof.Tests
open Sys2Proof Sys2Proof.Machine

/-- The tile, slot, cluster and launch of the tests. The tile stands before slice 0 of its cluster (R230). -/
abbrev tl : TileId := ⟨0, 0, 1⟩
abbrev s0 : SlotId := ⟨tl, 0⟩
abbrev c0 : ClusterId := ⟨0, 0⟩
abbrev l0 : LaunchId := ⟨0, 1⟩

/-- A full vector token with one value in every lane. -/
def vt (n : Nat) : VTok := { valid := 0xFFFF, wt := wOne, key := 0, kind := kData, fmt := 11, thr := 0, pay := BitVec.ofNat 512 (n * ((2 ^ 512 - 1) / (2 ^ 32 - 1))) }

/-- A launch of one tile with one thread in flight. -/
def run1 : Launch :=
  { lr := { blankRec with ctx := 5, cols := 1, rows := 1 }, issuer := some c0, near := c0, place := 0, order := 0, corner := some (0, 1), st := .running,
    active := some 0, planes := [(0, { st := .resident }), (1, { st := .resident })], threads := [(0, { pc := 0, t := [], st := .flight })] }

/-- A 64-bit word in a slot of the tile's active plane, the slot enabled and ready since cycle 0 (R50, R51, R13). `mode` is TILE MODE. -/
def putWord (k : Nat) (w : Word) (mode : BitVec 16) (x : Tile) : Tile :=
  setSlot { x with active := some 0, owner := some 1, cfg := aput 0 (putFields x.cfg (4 * k) w) (64 + 16) (mode * 256 + BitVec.ofNat 16 (2 ^ k)) }
    k { since := some 0 }

/-- Heads of input queues. -/
def putHeads (hs : List (Nat × Tok)) (x : Tile) : Tile := hs.foldl (fun x (q, t) => setQ x q { items := [{ tok := t }] }) x

/-- An instruction's word in slot 0, its queues' heads given, at the slot's turn. -/
def slotState (i : Instr) (mode : BitVec 16) (hs : List (Nat × Tok)) : State :=
  match encode i with
  | .word w => updTile (setLaunch { State.reset with here := .slot s0 } l0 run1) tl fun x => putHeads hs (putWord 0 w mode x)
  | _ => State.reset

/-- A running core, in tenant or system mode, at its turn. -/
def coreState (f : Cluster → Cluster) : State := setCl { State.reset with here := .core c0 } c0 (f { run := .running })

/-- A launch and its tile, at a place. -/
def launchState (p : Place) (x : Launch) : State := setLaunch (updTile { State.reset with here := p } tl fun y => { y with owner := some 1, active := some 0 }) l0 x

/-! ## A rank table that names this device, whose number is a free value -/

/-- The bytes of a rank entry that names this device and die 0 (R329). -/
def ownBytes : List Byte :=
  let n := Config.deviceNumber.toNat
  [BitVec.ofNat 8 n, BitVec.ofNat 8 (n / 256), BitVec.ofNat 8 (n / 65536), 0, 0, 0, 0, 0x80]

theorem own_bytes_value (n : Nat) (hn : n < 2 ^ 17) : ofBytes [BitVec.ofNat 8 n, BitVec.ofNat 8 (n / 256), BitVec.ofNat 8 (n / 65536), 0, 0, 0, 0, 0x80] =
    2 ^ 63 + n := by
  have z0 : (0 : Byte).toNat = 0 := rfl
  have z1 : (0x80 : Byte).toNat = 128 := rfl
  simp only [ofBytes, BitVec.toNat_ofNat] at *
  generalize BitVec.toNat (0 : Byte) = p at *
  generalize BitVec.toNat (0x80 : Byte) = q at *
  subst z0 z1
  omega

theorem own_word {s : State} {a : Nat} (h : memRead s a 8 = ownBytes) : memWord s a = word (2 ^ 63 + Config.deviceNumber.toNat) := by
  rw [memWord, h, ownBytes, own_bytes_value _ Config.deviceNumber.isLt]

theorem own_rank {s : State} {d : Fin 4} {ctx : BitVec 12} {r : Nat}
    (hp : fld (aget 0 (getDie s d).pctl (ctxPart s d ctx)) 49 32 > r)
    (h : memRead s (fld (aget 0 (getDie s d).rkbase (ctxPart s d ctx)) 38 3 * 8 + 8 * r) 8 = ownBytes) :
    rankOf s d ctx r = some (Config.deviceNumber.toNat, 0) := by
  have hn := Config.deviceNumber.isLt
  have h1 := own_word h
  have h2 : wbit (word (2 ^ 63 + Config.deviceNumber.toNat)) 63 = true := by
    rw [wbit, word, BitVec.getLsbD_ofNat, Nat.testBit_eq_decide_div_mod_eq]
    simp; omega
  have f1 : fld (word (2 ^ 63 + Config.deviceNumber.toNat)) 62 19 = 0 := by
    simp only [fld, word, BitVec.toNat_ofNat, Nat.shiftRight_eq_div_pow]; omega
  have f2 : fld (word (2 ^ 63 + Config.deviceNumber.toNat)) 16 0 = Config.deviceNumber.toNat := by
    simp only [fld, word, BitVec.toNat_ofNat, Nat.shiftRight_eq_div_pow]; omega
  have f3 : fld (word (2 ^ 63 + Config.deviceNumber.toNat)) 18 17 = 0 := by
    simp only [fld, word, BitVec.toNat_ofNat, Nat.shiftRight_eq_div_pow]; omega
  simp only [rankOf, h1, h2, f1, f2, f3, hp, and_self, if_true]
  rfl

end Sys2Proof.Tests
end

