-- ==== Sys2Proof/Tests/Slice0.lean ====
section
/-! SUPPORT. Tests of decoding against words laid out from the spec's encodings, of the well-formedness checks, and of single steps against the
spec's worked examples. -/
set_option Elab.async false
namespace Sys2Proof.Tests
open Sys2Proof Sys2Proof.Machine

/-! ## Decoding: every row with a word, by a word laid out from the encodings -/

def slotGives (p : Word × Instr) : Bool := wf p.2 && (match decodeSlot p.1 with | .ok (some i) => i = p.2 | _ => false)
def coreGives (p : Word × Word × Instr) : Bool := wf p.2.2 && decodeCore p.1 p.2.1 = p.2.2
def tokenGives (p : Word × Instr) : Bool := wf p.2 && decodeMatrix p.1 = some p.2
def commandGives (p : BitVec 32 × Instr) : Bool := decodeStream p.1 = p.2

/-- Integer family of R95: opcodes of R53, words laid out by R35. -/
theorem test_decode_integer_nodes :
    ([[(0x00E3231400000000, .mov { nullN with ty := .i64x8, sa := .const 4, out := 4 }),
      (0x01346311C0004049, .ldi { nullN with ty := .f32, out := 1, rm := .rup, imm := 0x4049 }),
      (0x0190031100000000, .add { nullN with ty := .i16x2, sa := .queue 0, sb := .queue 1, out := 1 }),
      (0x022861120000FFFF, .sub { nullN with ty := .n8x4, sa := .queue 1, sb := .imm, out := 2, imm := 0xFFFF }),
      (0x0280131302000000, .adds { nullN with sa := .queue 0, sb := .const 1, out := 3, vm := .a }),
      (0x0319651100000000, .subs { nullN with ty := .n16x2, sa := .queue 5, sb := .lane, out := 1 }),
      (0x0380271100000000, .mul { nullN with sa := .queue 0, sb := .latch, out := 1 }),
      (0x0408031100080000, .mulh { nullN with ty := .n32, sa := .queue 0, sb := .queue 1, out := 1, wp := true }),
      (0x04A0102100000000, .mad { nullN with ty := .i8x4, sa := .queue 0, sb := .const 0, sc := .queue 2, out := 1 }),
      (0x0520101100100000, .dot4 { nullN with ty := .i8x4, sa := .queue 0, sb := .const 0, sc := .queue 1, out := 1, aux := 1 }),
      (0x05F8031100000000, .min { nullN with ty := .pkt, sa := .queue 0, sb := .queue 1, out := 1 }),
      (0x06618F1400000000, .max { nullN with ty := .i64x8, sa := .queue 6, sb := .queue 7, out := 4 })],
     [(0x0690E31100040000, .abs { nullN with ty := .i16x2, sa := .queue 3, out := 1, gp := true }),
      (0x0721231100000000, .neg { nullN with ty := .i8x4, sa := .queue 4, out := 1 }),
      (0x07D81F1100000000, .and { nullN with ty := .b32, sa := .queue 0, sb := .const 7, out := 1 }),
      (0x0858031800000000, .or { nullN with ty := .b32, sa := .queue 0, sb := .queue 1, out := 8 }),
      (0x0880031104000000, .xor { nullN with sa := .queue 0, sb := .queue 1, out := 1, vm := .full }),
      (0x0908031100000000, .andn { nullN with ty := .n32, sa := .queue 0, sb := .queue 1, out := 1 }),
      (0x09D8231106000000, .not { nullN with ty := .b32, sa := .queue 0, out := 1, vm := .k7 }),
      (0x0A00211100000005, .shl { nullN with sa := .queue 0, sb := .imm, out := 1, imm := 0x0005 }),
      (0x0A98151100000000, .shr { nullN with ty := .n16x2, sa := .queue 0, sb := .const 2, out := 1 }),
      (0x0B20171100000000, .sar { nullN with ty := .i8x4, sa := .queue 0, sb := .const 3, out := 1 }),
      (0x0BD8171100000000, .rol { nullN with ty := .b32, sa := .queue 0, sb := .const 3, out := 1 }),
      (0x0C60231100000000, .clz { nullN with ty := .i64x8, sa := .queue 0, out := 1 })],
     [(0x0CD8231100000000, .ctz { nullN with ty := .b32, sa := .queue 0, out := 1 }),
      (0x0D28231100000000, .popc { nullN with ty := .n8x4, sa := .queue 0, out := 1 }),
      (0x0DD8231100000000, .brev { nullN with ty := .b32, sa := .queue 0, out := 1 }),
      (0x0E58111100000000, .bfx { nullN with ty := .b32, sa := .queue 0, sb := .const 0, out := 1 }),
      (0x0E80111100000000, .bfxs { nullN with sa := .queue 0, sb := .const 0, out := 1 }),
      (0x0F5802D100000000, .bfi { nullN with ty := .b32, sa := .queue 0, sb := .queue 1, sc := .const 5, out := 1 }),
      (0x0F88551800100000, .cmp { nullN with ty := .n32, sa := .queue 1, sb := .const 2, out := 8, aux := 1 }),
      (0x1062100400000000, .sel { nullN with ty := .i64x8, sa := .const 0, sb := .const 0, sc := .queue 0, out := 4 })]] : List (List (Word × Instr))).all (fun l => l.all slotGives) = true := by decide +kernel

/-- Float family of R116: opcodes of R53, words laid out by R35. -/
theorem test_decode_float_nodes :
    ([[(0x2048031130000000, .fadd { nullN with ty := .e4m3x4, sa := .queue 0, sb := .queue 1, out := 1, ov := .trap }),
      (0x20B0031200000000, .fsub { nullN with ty := .f32, sa := .queue 0, sb := .queue 1, out := 2 }),
      (0x2138211140003F00, .fmul { nullN with ty := .bf16x2, sa := .queue 0, sb := .imm, out := 1, rm := .rtz, imm := 0x3F00 }),
      (0x21C0022180000000, .fma { nullN with ty := .f16x2, sa := .queue 0, sb := .queue 1, sc := .queue 2, out := 1, rm := .rdn }),
      (0x2230022110000000, .fms { nullN with ty := .f32, sa := .queue 0, sb := .queue 1, sc := .queue 2, out := 1, ov := .inf }),
      (0x22B0022120000000, .fnma { nullN with ty := .f32, sa := .queue 0, sb := .queue 1, sc := .queue 2, out := 1, ov := .nan }),
      (0x2350031100000000, .fmin { nullN with ty := .e5m2x4, sa := .queue 0, sb := .queue 1, out := 1 }),
      (0x23B0251100000000, .fmax { nullN with ty := .f32, sa := .queue 0, sb := .lane, out := 1 }),
      (0x2430231100000000, .fabs { nullN with ty := .f32, sa := .queue 0, out := 1 }),
      (0x24C0231100000000, .fneg { nullN with ty := .f16x2, sa := .queue 0, out := 1 }),
      (0x2530031100000000, .fcps { nullN with ty := .f32, sa := .queue 0, sb := .queue 1, out := 1 }),
      (0x25B0031800700000, .fcmp { nullN with ty := .f32, sa := .queue 0, sb := .queue 1, out := 8, aux := 7 })],
     [(0x2678231100000000, .fcls { nullN with ty := .pkt, sa := .queue 0, out := 1 }),
      (0x26B8022100000000, .fdota { nullN with ty := .bf16x2, sa := .queue 0, sb := .queue 1, sc := .queue 2, out := 1 }),
      (0x2730231100000000, .frcp { nullN with ty := .f32, sa := .queue 0, out := 1 }),
      (0x27B8231100000000, .frsq { nullN with ty := .bf16x2, sa := .queue 0, out := 1 }),
      (0x2840231100000000, .fsqrt { nullN with ty := .f16x2, sa := .queue 0, out := 1 }),
      (0x28B02311C0000000, .fexp2 { nullN with ty := .f32, sa := .queue 0, out := 1, rm := .rup }),
      (0x2930231100000000, .flog2 { nullN with ty := .f32, sa := .queue 0, out := 1 }),
      (0x29F8231100000000, .ftanh { nullN with ty := .pkt, sa := .queue 0, out := 1 }),
      (0x2A30231100000000, .fsigm { nullN with ty := .f32, sa := .queue 0, out := 1 })]] : List (List (Word × Instr))).all (fun l => l.all slotGives) = true := by decide +kernel

/-- Conversions of R123: opcodes of R53, words laid out by R35. -/
theorem test_decode_conversion_nodes :
    ([[(0x4048231100000036, .cvtup { nullN with ty := .e4m3x4, sa := .queue 0, out := 1, imm := 0x0036 }),
      (0x40B0231100120019, .cvtdn { nullN with ty := .f32, sa := .queue 0, out := 1, aux := 1, so := true, imm := 0x0019 }),
      (0x4118231140000008, .cvtif { nullN with ty := .n16x2, sa := .queue 0, out := 1, rm := .rtz, imm := 0x0008 }),
      (0x41B0231130000001, .cvtfi { nullN with ty := .f32, sa := .queue 0, out := 1, ov := .trap, imm := 0x0001 }),
      (0x4230231180000000, .rndi { nullN with ty := .f32, sa := .queue 0, out := 1, rm := .rdn }),
      (0x4280031100100000, .pack { nullN with sa := .queue 0, sb := .queue 1, out := 1, aux := 1 }),
      (0x4328231100000001, .unpk { nullN with ty := .n8x4, sa := .queue 0, out := 1, imm := 0x0001 }),
      (0x43B023110000FFFB, .scl { nullN with ty := .f32, sa := .queue 0, out := 1, imm := 0xFFFB }),
      (0x4448231300000000, .cmpr { nullN with ty := .e4m3x4, sa := .queue 0, out := 3 }),
      (0x44D0231100000000, .clen { nullN with ty := .e5m2x4, sa := .queue 0, out := 1 })]] : List (List (Word × Instr))).all (fun l => l.all slotGives) = true := by decide +kernel

/-- Lane family of R105: opcodes of R53, words laid out by R35. -/
theorem test_decode_lane_nodes :
    ([[(0x5058231100500000, .shuf { nullN with ty := .b32, sa := .queue 0, out := 1, aux := 5 }),
      (0x50B0A3150000000F, .bcst { nullN with ty := .f32, sa := .queue 2, out := 5, imm := 0x000F }),
      (0x5100231100100003, .lrot { nullN with sa := .queue 0, out := 1, aux := 1, imm := 0x0003 }),
      (0x5180631200000000, .rsum { nullN with sa := .queue 1, out := 2 }),
      (0x5230231100000000, .rmax { nullN with ty := .f32, sa := .queue 0, out := 1 }),
      (0x52A0231100000000, .rmin { nullN with ty := .i8x4, sa := .queue 0, out := 1 }),
      (0x5308231100200000, .scan { nullN with ty := .n32, sa := .queue 0, out := 1, aux := 2 }),
      (0x53E0031100000007, .vset { nullN with ty := .i64x8, sa := .queue 0, sb := .queue 1, out := 1, imm := 0x0007 }),
      (0x5400231400000009, .vget { nullN with sa := .queue 0, out := 4, imm := 0x0009 }),
      (0x54D8031100220000, .cmpct { nullN with ty := .b32, sa := .queue 0, sb := .queue 1, out := 1, aux := 2, so := true })]] : List (List (Word × Instr))).all (fun l => l.all slotGives) = true := by decide +kernel

/-- Weights, gaps, headers, windows (R164): opcodes of R53, words laid out by R35. -/
theorem test_decode_header_and_window_nodes :
    ([[(0x6030231100000000, .wget { nullN with ty := .f32, sa := .queue 0, out := 1 }),
      (0x60D8031100000000, .wset { nullN with ty := .b32, sa := .queue 0, sb := .queue 1, out := 1 }),
      (0x6158031100040000, .wmul { nullN with ty := .b32, sa := .queue 0, sb := .queue 1, out := 1, gp := true }),
      (0x61D8231900000000, .gapt { nullN with ty := .b32, sa := .queue 0, out := 9 }),
      (0x6208231100000000, .keyg { nullN with ty := .n32, sa := .queue 0, out := 1 }),
      (0x62D8231400000000, .hdrg { nullN with ty := .b32, sa := .queue 0, out := 4 }),
      (0x6358031100200000, .hdrs { nullN with ty := .b32, sa := .queue 0, sb := .queue 1, out := 1, aux := 2 }),
      (0x63D8231100000004, .win { nullN with ty := .b32, sa := .queue 0, out := 1, imm := 0x0004 }),
      (0x6430231300000000, .join { nullN with ty := .f32, sa := .queue 0, out := 3 }),
      (0x64B0231100000000, .agg { nullN with ty := .f32, sa := .queue 0, out := 1 })]] : List (List (Word × Instr))).all (fun l => l.all slotGives) = true := by decide +kernel

/-- Control and matrix families (R191, R210, R217): opcodes of R53, words laid out by R35. -/
theorem test_decode_control_nodes :
    ([[(0x705823100100FFFF, .bx { nullN with ty := .b32, sa := .queue 0, aux := 16, imm := 0xFFFF }),
      (0x70D9A3100000FFFE, .bxc { nullN with ty := .b32, sa := .queue 6, imm := 0xFFFE }),
      (0x7158022400200007, .tspawn { nullN with ty := .b32, sa := .queue 0, sb := .queue 1, sc := .queue 2, out := 4, aux := 2, imm := 0x0007 }),
      (0x71D8231000000000, .tjoin { nullN with ty := .b32, sa := .queue 0 }),
      (0x7258631000000000, .thalt { nullN with ty := .b32, sa := .queue 1 }),
      (0x7280231000000000, .dsel { nullN with sa := .queue 0 }),
      (0x7359A28800200000, .seq { nullN with ty := .b32, sa := .queue 6, sc := .const 0, out := 8, aux := 2 }),
      (0x73D8231100001234, .btok { nullN with ty := .b32, sa := .queue 0, out := 1, imm := 0x1234 }),
      (0x74582311000001FF, .barn { nullN with ty := .b32, sa := .queue 0, out := 1, imm := 0x01FF }),
      (0x74D823100000ABCD, .evpost { nullN with ty := .b32, sa := .queue 0, imm := 0xABCD }),
      (0xA059A31400000000, .mxn { nullN with ty := .b32, sa := .queue 6, out := 4 }),
      (0xA0DA126400000000, .mseq { nullN with ty := .b32, sa := .const 0, sb := .const 1, sc := .queue 6, out := 4 })],
     [(0xA158231800800001, .radv { nullN with ty := .b32, sa := .queue 0, out := 8, aux := 8, imm := 0x0001 }),
      (0xA1D8231100800000, .rstat { nullN with ty := .b32, sa := .queue 0, out := 1, aux := 8 })]] : List (List (Word × Instr))).all (fun l => l.all slotGives) = true := by decide +kernel

/-- Memory family (R244): opcodes of R53, words laid out by R40. -/
theorem test_decode_memory_nodes :
    ([[(0x8061A31400000000, .agen { nullM with ty := .i64x8, sa := .queue 6, out := 4 }),
      (0x80B1A31100000000, .ld { nullM with ty := .f32, sa := .queue 6, out := 1 }),
      (0x8131C11040600000, .st { nullM with ty := .f32, sa := .queue 7, sb := .queue 0, cls := .random, cpl := true, cplPort := 2 }),
      (0x8189A31140010000, .ldf { nullM with ty := .n32, sa := .queue 6, out := 1, cls := .random, fe := true }),
      (0x825981104006FFFF, .stf { nullM with ty := .b32, sa := .queue 6, sb := .queue 0, cls := .random, scope := .die, imm := 0xFFFF }),
      (0x82D9A31080000000, .clre { nullM with ty := .b32, sa := .queue 6, cls := .ordered }),
      (0x83018011840A0000, .atom { nullM with sa := .queue 6, sb := .queue 0, sc := .queue 1, out := 1, cls := .ordered, aop := 8, scope := .system }),
      (0x83D98F1048740000, .mcast { nullM with ty := .b32, sa := .queue 6, sb := .queue 7, cls := .random, space := .wbuf, cpl := true, cplPort := 3, scope := .cluster }),
      (0x8459A31040080000, .pref { nullM with ty := .b32, sa := .queue 6, cls := .random, scope := .package }),
      (0x84D8231240000080, .cjoin { nullM with ty := .b32, sa := .queue 0, out := 2, cls := .random, imm := 0x0080 }),
      (0x8558231050040003, .bkgive { nullM with ty := .b32, sa := .queue 0, cls := .random, space := .abuf, scope := .cluster, imm := 0x0003 })]] : List (List (Word × Instr))).all (fun l => l.all slotGives) = true := by decide +kernel

/-- Core arithmetic (R44, R45, R95): opcodes of R53, words laid out by R44 and R45. -/
theorem test_decode_core_arithmetic :
    ([[(0x0000000000000000, 0, .nopCore nullC),
      (0x0080220000000000, 0, .movCore { nullC with xd := 1, xa := 2 }),
      (0x0141600000000040, 0xFF80000000000001, .ldiCore { nullC with long := true, xd := 11, imm := 0x100000040 }),
      (0x0183FEE8FFFFFFFE, 0, .addCore { nullC with xd := 31, xa := 30, xb := 29, imm := 0xFFFFFFFFFFFFFFFE }),
      (0x0200221800000005, 0, .subCore { nullC with xd := 1, xa := 2, xb := 3, imm := 0x5 }),
      (0x02806400FFFFFFFF, 0, .addsCore { nullC with xd := 3, xa := 4, imm := 0xFFFFFFFFFFFFFFFF }),
      (0x0300221800000000, 0, .subsCore { nullC with xd := 1, xa := 2, xb := 3 }),
      (0x0380221800000000, 0, .mulCore { nullC with xd := 1, xa := 2, xb := 3 }),
      (0x0400221800000000, 0, .mulhCore { nullC with xd := 1, xa := 2, xb := 3 }),
      (0x0480221800000000, 0, .madCore { nullC with xd := 1, xa := 2, xb := 3 }),
      (0x0580221800000000, 0, .minCore { nullC with xd := 1, xa := 2, xb := 3 }),
      (0x0600221800000000, 0, .maxCore { nullC with xd := 1, xa := 2, xb := 3 })],
     [(0x0680220000000000, 0, .absCore { nullC with xd := 1, xa := 2 }),
      (0x0700220000000000, 0, .negCore { nullC with xd := 1, xa := 2 }),
      (0x078022007FFFFFFF, 0, .andCore { nullC with xd := 1, xa := 2, imm := 0x7FFFFFFF }),
      (0x0800221800000000, 0, .orCore { nullC with xd := 1, xa := 2, xb := 3 }),
      (0x0880221800000000, 0, .xorCore { nullC with xd := 1, xa := 2, xb := 3 }),
      (0x0900221800000000, 0, .andnCore { nullC with xd := 1, xa := 2, xb := 3 }),
      (0x0980220000000000, 0, .notCore { nullC with xd := 1, xa := 2 }),
      (0x0A00220000000009, 0, .shlCore { nullC with xd := 1, xa := 2, imm := 0x9 }),
      (0x0A80221800000000, 0, .shrCore { nullC with xd := 1, xa := 2, xb := 3 }),
      (0x0B00221800000000, 0, .sarCore { nullC with xd := 1, xa := 2, xb := 3 }),
      (0x0B80221800000000, 0, .rolCore { nullC with xd := 1, xa := 2, xb := 3 }),
      (0x0C00220000000000, 0, .clzCore { nullC with xd := 1, xa := 2 })],
     [(0x0C80220000000000, 0, .ctzCore { nullC with xd := 1, xa := 2 }),
      (0x0D00220000000000, 0, .popcCore { nullC with xd := 1, xa := 2 }),
      (0x0D80220000000000, 0, .brevCore { nullC with xd := 1, xa := 2 }),
      (0x0E00220000001008, 0, .bfxCore { nullC with xd := 1, xa := 2, imm := 0x1008 }),
      (0x0E80221800000000, 0, .bfxsCore { nullC with xd := 1, xa := 2, xb := 3 }),
      (0x0F00221800000000, 0, .bfiCore { nullC with xd := 1, xa := 2, xb := 3 }),
      (0x0F80221F00000000, 0, .cmpCore { nullC with xd := 1, xa := 2, xb := 3, aux := 7 }),
      (0x1000221800000000, 0, .selCore { nullC with xd := 1, xa := 2, xb := 3 }),
      (0x1080221800000000, 0, .div { nullC with xd := 1, xa := 2, xb := 3 }),
      (0x1100221800000000, 0, .divu { nullC with xd := 1, xa := 2, xb := 3 }),
      (0x1180221800000000, 0, .rem { nullC with xd := 1, xa := 2, xb := 3 }),
      (0x1200221800000000, 0, .remu { nullC with xd := 1, xa := 2, xb := 3 })]] : List (List (Word × Word × Instr))).all (fun l => l.all coreGives) = true := by decide +kernel

/-- Core accesses and control (R278): opcodes of R53, words laid out by R44 and R45. -/
theorem test_decode_core_memory_and_control :
    ([[(0xB0042200FFFFFFFF, 0, .ld8 { nullC with ty := 1, xd := 1, xa := 2, imm := 0xFFFFFFFFFFFFFFFF }),
      (0xB080220000000000, 0, .ld16 { nullC with xd := 1, xa := 2 }),
      (0xB104220000000000, 0, .ld32 { nullC with ty := 1, xd := 1, xa := 2 }),
      (0xB180E30000000010, 0, .ld64 { nullC with xd := 7, xa := 3, imm := 0x10 }),
      (0xB200021800000000, 0, .st8 { nullC with xa := 2, xb := 3 }),
      (0xB280021800000000, 0, .st16 { nullC with xa := 2, xb := 3 }),
      (0xB300021800000000, 0, .st32 { nullC with xa := 2, xb := 3 }),
      (0xB3C002183456789A, 0xFF80000000000012, .st64 { nullC with long := true, xa := 2, xb := 3, imm := 0x123456789A }),
      (0xB400824800000000, 0, .amo { nullC with xd := 4, xa := 2, xb := 9 }),
      (0xB480060100000018, 0, .bc { nullC with xa := 6, aux := 1, imm := 0x18 }),
      (0xB5000000FFFFFFE8, 0, .j { nullC with imm := 0xFFFFFFFFFFFFFFE8 }),
      (0xB583E00000000040, 0, .jal { nullC with xd := 31, imm := 0x40 })],
     [(0xB600220000000000, 0, .jr { nullC with xd := 1, xa := 2 }),
      (0xB680A03000000100, 0, .crd { nullC with xd := 5, xb := 6, imm := 0x100 }),
      (0xB7000A0000000807, 0, .cwr { nullC with xa := 10, imm := 0x807 }),
      (0xB780000300000000, 0, .fence { nullC with aux := 3 }),
      (0xB800000000000021, 0, .trap { nullC with imm := 0x21 }),
      (0xB880000000000000, 0, .eret nullC),
      (0xB900000000000000, 0, .wfe nullC),
      (0xBE80220000000000, 0, .evpop { nullC with xd := 1, xa := 2 }),
      (0xBF00000000000000, 0, .evwait nullC),
      (0xC000A00000000007, 0, .bara { nullC with xd := 5, imm := 0x7 }),
      (0xC080C50000000007, 0, .barw { nullC with xd := 6, xa := 5, imm := 0x7 }),
      (0xBF80201000000001, 0, .trel { nullC with xd := 1, xb := 2, imm := 0x1 })]] : List (List (Word × Word × Instr))).all (fun l => l.all coreGives) = true := by decide +kernel

/-- Posts and resources (R198, R227, R260, R317, R345, R353, R354, R376, R391, R397): opcodes of R53, words laid out by R44 and R45. -/
theorem test_decode_core_posts :
    ([[(0xB9818B0000000000, 0, .launch { nullC with xd := 12, xa := 11 }),
      (0xBA00221800000000, 0, .sbind { nullC with xd := 1, xa := 2, xb := 3 }),
      (0xBA8022000000000F, 0, .sclose { nullC with xd := 1, xa := 2, imm := 0xF }),
      (0xBB00220000000001, 0, .phase { nullC with xd := 1, xa := 2, imm := 0x1 }),
      (0xBB80221800000003, 0, .cfgld { nullC with xd := 1, xa := 2, xb := 3, imm := 0x3 }),
      (0xBC00020000000001, 0, .cpf { nullC with xa := 2, imm := 0x1 }),
      (0xBC80220000000000, 0, .modld { nullC with xd := 1, xa := 2 }),
      (0xBD00220000000000, 0, .modul { nullC with xd := 1, xa := 2 }),
      (0xBD80221800000002, 0, .rsw { nullC with xd := 1, xa := 2, xb := 3, imm := 0x2 }),
      (0xBE00220000000001, 0, .dselc { nullC with xd := 1, xa := 2, imm := 0x1 }),
      (0xC100A60000000000, 0, .nepost { nullC with xd := 5, xa := 6 }),
      (0xC180E80000000000, 0, .nepoll { nullC with xd := 7, xa := 8 })],
     [(0xC200220000000000, 0, .cpypost { nullC with xd := 1, xa := 2 }),
      (0xC280220000000000, 0, .colpost { nullC with xd := 1, xa := 2 }),
      (0xC300201000000003, 0, .rinv { nullC with xd := 1, xb := 2, imm := 0x3 }),
      (0xC380A63800000000, 0, .resid { nullC with xd := 5, xa := 6, xb := 7 }),
      (0xC400A00000000003, 0, .ctrrd { nullC with xd := 5, imm := 0x3 }),
      (0xC4800A0000000003, 0, .ctrsel { nullC with xa := 10, imm := 0x3 }),
      (0xC500221800000003, 0, .bpset { nullC with xd := 1, xa := 2, xb := 3, imm := 0x3 }),
      (0xC580CC6804010007, 0, .mcut { nullC with xd := 6, xa := 12, xb := 13, imm := 0x4010007 })]] : List (List (Word × Word × Instr))).all (fun l => l.all coreGives) = true := by decide +kernel

/-- Matrix control tokens (R41): opcodes of R53, words laid out by R41. -/
theorem test_decode_matrix_tokens :
    ([[(0xA20ED01FFE0600C0, .mmul { nullX with tyab := 7, tyc := 6, ringa := 8, m1 := 63, n1 := 63, k1 := 3, popa := true, popb := true }),
      (0xA2C81EEF83FFFC00, .mmult { nullX with half := .lower, tyab := 4, ringa := 15, ringb := 7, m1 := 31, n1 := 1, k1 := 255, ctile := 63, acc := true }),
      (0xA300C00084001400, .mzero { nullX with tyc := 6, m1 := 1, n1 := 2, ctile := 5 }),
      (0xA380D21FFE000080, .mstc { nullX with tyc := 6, ringa := 9, m1 := 63, n1 := 63, popa := true }),
      (0xA42014078E000400, .mldc { nullX with half := .upper, ringa := 10, m1 := 15, n1 := 7, ctile := 1 })]] : List (List (Word × Instr))).all (fun l => l.all tokenGives) = true := by decide +kernel
/-- Router operators (R43). The first is the worked STEER of spec/07. -/
theorem test_decode_router_operators :
    ((([(0x16214000, .steer (.link .w) .o3 (.link .e) (.link .s)), (0x28D80000, .carry .o0 (.link .w) (.link .w) (.link .n)),
        (0x3A050000, .inv .o1 (.link .n) .none), (0x40640000, .merge (.link .n) (.link .e) .o3 .pe)] :
      List (BitVec 32 × Instr)).all fun p => match decodeRouter p.1 with | .ok (some i) => i = p.2 | _ => false) &&
     (match decodeRouter 0x16214001, decodeRouter 0x50000000, decodeRouter 0x162D4000 with
      | .error .field, .error .field, .error .field => true | _, _, _ => false)) = true := by decide +kernel

/-- Configuration commands (R46, R47): the stream of spec/03 and the image of spec/08. -/
theorem test_decode_configuration_commands :
    ((([(0xFFC00000, .beginStream false), (0xFFC00001, .beginStream true), (0xFFC10001, .plane 1), (0xFFC81000, .pc 0 0x1000), (0xFFCA0004, .pc 2 4),
        (0xFFC20001, .page 1), (0xFFFE31C7, .check 0x31C7), (0xFFFF0000, .endStream), (0x00020311, .tileCommand 0 0 2 0x0311),
        (0x00100001, .tileCommand 0 0 16 1), (0xFFC30000 + 0x45, .origin 2 5), (0xFFC4000C, .copies 12)] : List (BitVec 32 × Instr)).all commandGives) &&
     (match decodeStream 0xFFC50000, decodeStream 0xFFC10100 with | .reservedStreamCommand _, _ => true | _, _ => false)) = true := by decide +kernel

/-- Core words that no instruction has (R45, R54, R56). -/
theorem test_decode_core_refuses :
    decodeCore 0xFF80000000000000 0 = .extTarget 0xFF80000000000000 ∧ decodeCore 0x1280000000000000 0 = .illegal 0x1280000000000000 ∧
    decodeCore 0x0000000000000001 0 = .illegal 0x0000000000000001 ∧ decodeCore 0x0141600000000040 0xFF80000100000001 = .illegal 0x0141600000000040 ∧
    decodeCore 0xC380000000000003 0 = .illegal 0xC380000000000003 := by decide +kernel

/-- Words that no slot may hold: a core's opcode, an unassigned one, a NOP that is all zero, a reserved source, a reserved class (R36, R40, R52, R54, R95). -/
theorem test_decode_slot_refuses :
    (match decodeSlot 0xB180000000000000, decodeSlot 0x1280000000000000, decodeSlot 0, decodeSlot 0x0085031100000000, decodeSlot 0x80B1A311C0000000,
       decodeSlot 0x0004631100000000 with
     | .error .opc, .error .opc, .error .field, .error .field, .error .field, .error .field => true | _, _, _, _, _, _ => false) = true := by decide +kernel

/-! ## Well-formedness: an ill-formed term for each check -/

/-- One word per column of R35: type, operands, a constant pair, IMM16 with PKT, OUT, RM, OV, VM, AUX, FL.WP, FL.GP, FL.SO, IMM16. -/
theorem test_wf_node_words :
    (([.dot4 { nullN with ty := .i32, sa := .queue 0, sb := .queue 1, sc := .queue 2 }, .add { nullN with sa := .queue 0, sb := .queue 1, sc := .queue 2 },
       .bxc { nullN with ty := .b32, sa := .queue 0 }, .mov { nullN with ty := .i64x8, sa := .const 1 }, .mov { nullN with ty := .pkt, sa := .imm },
       .cmpr { nullN with ty := .e4m3x4, sa := .queue 0, out := 4 }, .add { nullN with sa := .queue 0, rm := .rup }, .fmin { nullN with ty := .f32, ov := .inf },
       .keyg { nullN with ty := .n32, vm := .full }, .add { nullN with aux := 1 }, .wset { nullN with ty := .b32, wp := true }, .win { nullN with ty := .b32, gp := true, imm := 1 },
       .add { nullN with so := true }, .add { nullN with imm := 1 }] : List Instr).all fun i => !wf i) = true := by decide +kernel

/-- The conditions of single rows (R105, R123, R124, R164, R191, R217). -/
theorem test_wf_node_rows :
    (([.shuf { nullN with aux := 6 }, .scan { nullN with ty := .i32, aux := 3 }, .lrot { nullN with sb := .queue 0, imm := 1 }, .vget { nullN with ty := .i64x8, imm := 8 },
       .cvtdn { nullN with ty := .f32, imm := 0x0001 }, .cvtup { nullN with ty := .bf16x2, imm := 0x0026 }, .win { nullN with ty := .b32 },
       .join { nullN with ty := .f32, out := 2 }, .hdrs { nullN with ty := .b32, aux := 3 }, .seq { nullN with ty := .b32, aux := 3 },
       .radv { nullN with ty := .b32, imm := 0 }, .radv { nullN with ty := .b32, imm := 0x8001 }, .mxn { nullN with ty := .b32, sa := .queue 6, aux := 3 },
       .barn { nullN with ty := .b32, imm := 0x200 }, .tspawn { nullN with ty := .b32, out := 1 }] : List Instr).all fun i => !wf i) = true := by decide +kernel

/-- Memory words (R40, R210, R244). -/
theorem test_wf_memory_words :
    (([.ld { nullM with ty := .pkt, sa := .queue 6 }, .ld { nullM with ty := .f32, sa := .queue 0 }, .st { nullM with ty := .f32, sa := .queue 6, sb := .queue 0, out := 1 },
       .ld { nullM with ty := .f32, sa := .queue 6, space := .wbuf }, .ld { nullM with ty := .f32, sa := .queue 6, cplPort := 1 },
       .ldf { nullM with ty := .f32, sa := .queue 6 }, .atom { nullM with ty := .f32, sa := .queue 6, sb := .queue 0, cls := .ordered },
       .atom { nullM with ty := .i32, sa := .queue 6, sb := .queue 0, cls := .random }, .mcast { nullM with ty := .b32, sa := .queue 6, sb := .queue 7, cls := .random, space := .wbuf },
       .cjoin { nullM with ty := .b32, sa := .queue 0, cls := .random }, .bkgive { nullM with ty := .b32, sa := .queue 0, cls := .random, space := .abuf, scope := .cluster, imm := 16 },
       .agen { nullM with ty := .i64x8, sa := .queue 6, fe := true }, .stf { nullM with ty := .b32, sa := .queue 6, sb := .queue 0, cls := .random, space := .cbuf }] :
      List Instr).all fun i => !wf i) = true := by decide +kernel

/-- Core words (R44, R45), control tokens (R41) and tile commands (R23). -/
theorem test_wf_other_words :
    (([.nopCore { nullC with xd := 1 }, .addCore { nullC with ty := 1 }, .addCore { nullC with aux := 1 }, .movCore { nullC with imm := 1 }, .addCore { nullC with imm := 0x80000000 },
       .ld8 { nullC with ty := 2 }, .amo { nullC with ty := 10 }, .fence nullC, .fence { nullC with aux := 6 }, .eret { nullC with long := true }, .resid { nullC with imm := 3 },
       .cfgld { nullC with imm := 4 }, .mcut { nullC with imm := 0x30000 }, .bpset { nullC with long := true },
       .mmul { nullX with tyab := 6, tyc := 6, ringa := 8 }, .mmul { nullX with tyab := 4, tyc := 6, ringa := 8 }, .mmul { nullX with tyab := 4, ringa := 7 },
       .mmul { nullX with tyab := 4, ringa := 8, ringb := 8 }, .mmul { nullX with half := .upper, tyab := 4, ringa := 8, m1 := 32 }, .mzero { nullX with acc := true },
       .mstc { nullX with ringa := 8, popb := true }, .mldc { nullX with ringa := 8, ofmt := 1 }, .tileCommand 31 31 0 0] : List Instr).all fun i => !wf i) = true := by
  decide +kernel

/-! ## Single steps against the spec's worked examples -/

/-- A full vector token with the given lanes, the last repeated. -/
def lanesTok (ls : List Nat) : VTok := { vt 0 with pay := packElems 32 ((List.range 16).map fun l => ls.getD l (ls.getLastD 0)) }
/-- The latch after a node has fired at its turn. -/
def latchOfRun (i : Instr) (hs : List (Nat × Tok)) : Option VTok :=
  match exec i (slotState i 0 hs) with
  | .next t => some (latchOf t s0)
  | _ => none
def laneOfRun (i : Instr) (hs : List (Nat × Tok)) (l : Nat) : Option Nat := (latchOfRun i hs).map fun t => (lane t.pay l).toNat
/-- What left the slot, by firing. -/
def sentBy (i : Instr) (s : State) : List (List (Fin 4 × Tok)) := match exec i s with | .next t => (pipeOf t s0).map (·.ems) | _ => []

/-- spec/05: the lane of DOT4 with C = 100 gives 118; with C = 0x7FFF_FFF0 and (−128)² four times it saturates, or wraps without AUX. -/
theorem test_dot4_worked :
    let w : NWord := { nullN with ty := .i8x4, sa := .queue 0, sb := .queue 1, sc := .queue 2, out := 1, aux := 1 }
    let hs (a b c : Nat) : List (Nat × Tok) := [(0, .vec (lanesTok [a])), (1, .vec (lanesTok [b])), (2, .vec (lanesTok [c]))]
    laneOfRun (.dot4 w) (hs 0x04FD02FF 0x08070605 100) 5 = some 118 ∧
    laneOfRun (.dot4 w) (hs 0x80808080 0x80808080 0x7FFFFFF0) 0 = some 0x7FFFFFFF ∧
    laneOfRun (.dot4 { w with aux := 0 }) (hs 0x80808080 0x80808080 0x7FFFFFF0) 0 = some 0x8000FFF0 := by decide +kernel

/-- spec/06: lane 3 of FADD.e4m3x4 under TRAP, SAT and INF; TRAP writes the ARITH record of mask 0x1000. -/
theorem test_fadd_worked :
    let w : NWord := { nullN with ty := .e4m3x4, sa := .queue 0, sb := .queue 1, out := 1, ov := .trap }
    let hs : List (Nat × Tok) := [(0, .vec (lanesTok [0, 0, 0, 0x40387F7E, 0])), (1, .vec (lanesTok [0, 0, 0, 0x3838387E, 0]))]
    laneOfRun (.fadd w) hs 3 = some 0x44407F7F ∧ laneOfRun (.fadd { w with ov := .sat }) hs 3 = some 0x44407F7E ∧
    laneOfRun (.fadd { w with ov := .inf }) hs 3 = some 0x44407F7F ∧
    (match exec (.fadd w) (slotState (.fadd w) 0 hs) with
     | .next t => (getCl t c0).pend.map (fun r => r.p0) = [0x1000] | _ => false) = true := by decide +kernel

/-- spec/06: FDOTA of a BF16 lane adds exactly before it rounds. -/
theorem test_fdota_worked :
    laneOfRun (.fdota { nullN with ty := .bf16x2, sa := .queue 0, sb := .queue 1, sc := .queue 2, out := 1 })
      [(0, .vec (lanesTok [0x3F804B80])), (1, .vec (lanesTok [0x3F803F80])), (2, .vec (lanesTok [0xCB800000]))] 0 = some 0x3F800000 := by decide +kernel

/-- spec/06: CVTDN of F32 to part 1 of E4M3, with its overflow token on O1. -/
theorem test_cvtdn_worked :
    let w : NWord := { nullN with ty := .f32, sa := .queue 0, out := 1, so := true, aux := 1, imm := 0x19 }
    let hs : List (Nat × Tok) := [(0, .vec (lanesTok [0x43960000, 0x43EB0000, 0xC47A0000, 0x3A800000, 0x3F800000]))]
    [3, 4, 5, 7, 8].map (laneOfRun (.cvtdn w) hs) = [some 0, some 0x00FE7E79, some 0x38383838, some 0x38383838, some 0] ∧
    ((sentBy (.cvtdn w) (slotState (.cvtdn w) 0 hs)).map fun es => es.map fun e =>
      (e.1.val, match e.2 with | .vec v => [0, 1, 2].map (fun l => (lane v.pay l).toNat) | _ => [])) =
      [[(0, [0, 0, 0]), (1, [0x00060000, 0, 0x447A0000])]] := by decide +kernel

/-- spec/06: −2.5 under RNE gives −2, 300.0 into I8 saturates at 127, −0.75 into N8 under RTZ gives 0. -/
theorem test_cvtfi_worked :
    laneOfRun (.cvtfi { nullN with ty := .f32, sa := .queue 0, out := 1 }) [(0, .vec (lanesTok [0xC0200000]))] 0 = some 0xFFFFFFFE ∧
    laneOfRun (.cvtfi { nullN with ty := .e5m2x4, sa := .queue 0, out := 1, imm := 4 }) [(0, .vec (lanesTok [0x5D5D5D5D]))] 0 = some 0x7F7F7F7F ∧
    laneOfRun (.cvtfi { nullN with ty := .e4m3x4, sa := .queue 0, out := 1, rm := .rtz, imm := 5 }) [(0, .vec (lanesTok [0xB4B4B4B4]))] 0 = some 0 := by decide +kernel

/-- The table of worked conversions of spec/04. -/
theorem test_round_to_worked :
    let f (x : Nat) : FVal := fval fmtF32 x
    (roundTo fmtBf16 (f 0x3F808000) .rne .sat).bits = 0x3F80 ∧ (roundTo fmtBf16 (f 0x3F808000) .rup .sat).bits = 0x3F81 ∧
    (roundTo fmtE4m3 (f 0x43960000) .rne .sat).bits = 0x79 ∧ (roundTo fmtE4m3 (f 0x43E80000) .rne .sat).bits = 0x7E ∧
    (roundTo fmtE4m3 (f 0x43EB0000) .rne .sat).bits = 0x7E ∧ (roundTo fmtE4m3 (f 0x43EB0000) .rne .inf).bits = 0x7F ∧
    (roundTo fmtE5m2 (f 0x43FA0000) .rne .sat).bits = 0x60 ∧ (roundTo fmtE4m3 (f 0x3A800000) .rne .sat).bits = 0 ∧
    (roundTo fmtE4m3 (f 0x3A800000) .rup .sat).bits = 1 := by decide +kernel

/-- The weights worked in spec/04. -/
theorem test_weights_worked : wadd 0x7C00 0x5000 = 0x7C00 ∧ wscale 0x7C00 3 = 0x8800 ∧ wscale 0xF800 2 = 0xFBFF ∧ wmul 0x8000 0x7C00 = 0x8000 := by
  decide +kernel

/-- spec/04: the block of one 2.0, one −0.5 and 62 ones has header 0x0830 under CMPR, and CLEN gives its 48 bytes. -/
theorem test_cf8_worked :
    let a := lanesTok [0x38B04038, 0x38383838]
    (latchOfRun (.cmpr { nullN with ty := .e4m3x4, sa := .queue 0, out := 1 }) [(0, .vec a)]).map (·.key) = some 0x0830 ∧
    [0, 1].map (laneOfRun (.clen { nullN with ty := .e4m3x4, sa := .queue 0, out := 1 }) [(0, .vec a)]) = [some 48, some 0x0830] := by decide +kernel

/-- spec/07: WIN with L = 4 at pos 3 splits a gap of count 3 and weight 3.0: GAP(1), WEND(1), GAP(2), and pos is 2. -/
theorem test_win_gap_worked :
    let w : NWord := { nullN with ty := .b32, sa := .queue 0, out := 1, imm := 4 }
    let s := slotState (.win w) 0 [(0, .vec { vt 0 with kind := kGap, key := 3, wt := 0x8200, valid := 0 })]
    let s := updTile s tl fun x => updSlot x 0 fun y => { y with node := .win 3 0 0 0 }
    (sentBy (.win w) s).map (fun es => es.map fun e => match e.2 with | .vec v => (v.kind, v.key, v.wt) | _ => (0, 0, 0)) =
      [[(kGap, 1, 0x7C00)], [(kWend, 1, 0x7C00)], [(kGap, 2, 0x8000)]] ∧
    (match exec (.win w) s with | .next t => (winOf (slotNode t s0)).pos = 2 | _ => false) = true := by decide +kernel

/-- spec/07: window 1 of the keyed join under SUM: 350 · 2.0 + 490 = 1,190, total weight 3.0, missing weight 1.0. -/
theorem test_agg_worked :
    let row (v : Nat) (wt : Weight) : VTok := { lanesTok [v] with wt := wt, fmt := 6 }
    let w : NWord := { nullN with ty := .f32, sa := .queue 0, out := 1 }
    let s := slotState (.agg w) 0 [(0, .vec { vt 0 with kind := kWend, key := 1, wt := 0x7C00, valid := 0, fmt := 1 })]
    let s := updTile s tl fun x => updSlot x 0 fun y => { y with node := .agg [row 0x43AF0000 0x8000, row 0x43F50000 0x7C00] 0 }
    ((sentBy (.agg w) s).head?.bind List.head?).map (fun e => match e.2 with | .vec v => [0, 14, 15].map (fun l => (lane v.pay l).toNat) | _ => []) =
      some [0x4494C000, 0x40400000, 0x3F800000] := by decide +kernel

/-- Integer corners: ADD wraps, ADDS saturates, a shift by the width gives 0, SAR fills, MULH is signed, ABS of the least number stays (R96, R98). -/
theorem test_integer_corners :
    let n : NWord := { nullN with sa := .queue 0, sb := .queue 1, out := 1 }
    let hs (a b : Nat) : List (Nat × Tok) := [(0, .vec (lanesTok [a])), (1, .vec (lanesTok [b]))]
    laneOfRun (.add n) (hs 0xFFFFFFFF 2) 0 = some 1 ∧ laneOfRun (.adds n) (hs 0x7FFFFFFF 1) 0 = some 0x7FFFFFFF ∧
    laneOfRun (.shl { n with ty := .b32 }) (hs 1 32) 0 = some 0 ∧ laneOfRun (.sar { n with ty := .i32 }) (hs 0x80000000 40) 0 = some 0xFFFFFFFF ∧
    laneOfRun (.mulh n) (hs 0xFFFFFFFF 2) 0 = some 0xFFFFFFFF ∧ laneOfRun (.abs { n with sb := .zero }) (hs 0x80000000 0) 0 = some 0x80000000 ∧
    laneOfRun (.sub { n with ty := .n16x2 }) (hs 0x00010000 0x00010001) 0 = some 0x0000FFFF := by decide +kernel

/-! ## Single steps of a core -/

/-- A running core in system mode, its state after an instruction. -/
def coreRun (i : Instr) (f : Cluster → Cluster) : Option Cluster := match exec i (coreState f) with | .next t => some (getCl t c0) | _ => none

/-- spec/11's worked program: LDI with its extension word, BC.ne to 0x40 from 0x28, J to 0x20 from 0x38. -/
theorem test_core_worked :
    (coreRun (decodeCore 0x0141400000000001 0xFF80000040000000) fun x => x).map (fun x => (getX x 10, x.pc)) = some (0x4000000000000001, 16) ∧
    (coreRun (decodeCore 0xB480060100000018 0) fun x => { x with pc := 0x28, regs := [(6, 1)] }).map (·.pc) = some 0x40 ∧
    (coreRun (decodeCore 0xB480060100000018 0) fun x => { x with pc := 0x28 }).map (·.pc) = some 0x30 ∧
    (coreRun (decodeCore 0xB5000000FFFFFFE8 0) fun x => { x with pc := 0x38 }).map (·.pc) = some 0x20 := by decide +kernel

/-- X0 reads zero and discards writes; a division by zero, and of the least number by −1 (R93, R104). -/
theorem test_core_arithmetic :
    (coreRun (.addCore { nullC with xd := 0, imm := 7 }) fun x => x).map (fun x => getX x 0) = some 0 ∧
    (coreRun (.div { nullC with xd := 1, xa := 2 }) fun x => { x with regs := [(2, 9)] }).map (fun x => getX x 1) = some (BitVec.allOnes 64) ∧
    (coreRun (.div { nullC with xd := 1, xa := 2, imm := BitVec.allOnes 64 }) fun x => { x with regs := [(2, 0x8000000000000000)] }).map (fun x => getX x 1) = some 0x8000000000000000 ∧
    (coreRun (.remu { nullC with xd := 1, xa := 2 }) fun x => { x with regs := [(2, 9)] }).map (fun x => getX x 1) = some 9 := by decide +kernel

/-- TRAP goes to the system handler with its cause, code and pc saved; ERET returns (R268, R269, R280). -/
theorem test_core_trap_and_return :
    (coreRun (.trap { nullC with imm := 0x21 }) fun x => { x with mode := false, pc := 0x100, tvecs := 0x800 }).map
      (fun x => (x.pc, x.mode, x.ths, x.tvals)) = some (0x800, true, true, 0x21) ∧
    (coreRun (.eret nullC) fun x => { x with mode := true, ths := true, epcs := 0x108, estats := 0 }).map (fun x => (x.pc, x.mode, x.ths)) =
      some (0x108, false, false) := by decide +kernel

/-- A byte load of local memory extends by its sign; a misaligned word traps with the address in TVAL (R268, R278). -/
theorem test_core_loads :
    (coreRun (.ld8 { nullC with xd := 1, imm := 0x10 }) fun x => { x with loc := [(0x10, 0x80)] }).map (fun x => getX x 1) = some 0xFFFFFFFFFFFFFF80 ∧
    (coreRun (.ld32 { nullC with xd := 1, imm := 0x12 }) fun x => { x with tvecs := 0x800 }).map (fun x => (x.pc, x.tvals)) = some (0x800, 0x12) := by decide +kernel

end Sys2Proof.Tests
end

