-- ==== Sys2Proof/Tests/WitnessCore.lean ====
section
/-! SUPPORT. States and operands that meet the hypotheses of the statements about control cores, their events, barriers and registers. -/
set_option Elab.async false
namespace Sys2Proof.Tests
open Sys2Proof Sys2Proof.Machine

/-- The conditions of CoreTurn, as one Bool. -/
def coreTurn (s : State) (w : CWord) : Bool :=
  decide (s.here = .core c0) && decide ((getCl s c0).run = .running) && decide (fetchTrap (getCl s c0) w.long = none) && !coreBusy (getCl s c0) w

theorem coreTurn_spec (s : State) (w : CWord) (h : coreTurn s w = true) : CoreTurn s c0 w := by
  simp [coreTurn] at h
  obtain ⟨⟨⟨h1, h2⟩, h3⟩, h4⟩ := h
  exact ⟨h1, h2, h3, h4⟩

/-- CoreCalculates, the core's part of BitsAndCounts, and every statement about a core's turn: words alone and with an extension, up to the last that local memory holds, and with
a load to another register outstanding. -/
theorem witness_core_turns :
    coreTurn (coreState fun x => { x with pc := 0x3FFF8 }) { nullC with xd := 31, xa := 30, xb := 29, imm := BitVec.allOnes 64 } = true ∧
    coreTurn (coreState fun x => { x with pc := 0x3FFF0 }) { nullC with long := true, xd := 1, imm := 0x1_0000_0000 } = true ∧
    coreTurn (coreState fun x => { x with loads := [⟨7, 0, 8, false, 0, 0⟩] }) { nullC with xd := 1, xa := 2, xb := 3 } = true := by decide +kernel

/-- CoreBranches: a target that is a multiple of 8 and one that is not, for each branch; a condition that holds and one that does not; the last word of
local memory that has one after it, with OPC 0x1FF. -/
theorem witness_core_branches :
    let x := getCl (coreState fun x => { x with regs := [(1, 16)] }) c0
    let y := getCl (coreState fun x => { x with regs := [(1, 12)] }) c0
    (getX x 1 + 0).toNat % 8 = 0 ∧ (getX y 1 + 0).toNat % 8 ≠ 0 ∧ (x.pc + 0x40).toNat % 8 = 0 ∧ (x.pc + 0x44).toNat % 8 ≠ 0 ∧
    getX x 1 = getX x 1 ∧ getX x 1 ≠ getX x 2 ∧
    (let s := coreState fun x => { x with pc := 0x3FFF0, loc := [(0x3FFF6, 0x80), (0x3FFF7, 0xFF)] }
     coreTurn s nullC = true ∧ (getCl s c0).pc.toNat + 16 ≤ 0x40000 ∧
     (word (ofBytes (readBytes (getCl s c0).loc (getCl s c0).pc.toNat 8))).extractLsb' 55 9 = 0x1FF) := by decide +kernel

/-- CoreTrapsAndReturns: a core in system mode; in tenant mode within its handler and outside. -/
theorem witness_core_traps :
    coreTurn (coreState id) nullC = true ∧ (getCl (coreState id) c0).mode = true ∧
    (let s := coreState fun x => { x with mode := false, thu := true }
     coreTurn s nullC = true ∧ (getCl s c0).mode = false ∧ (getCl s c0).thu = true) ∧
    (let s := coreState fun x => { x with mode := false }
     coreTurn s nullC = true ∧ (getCl s c0).mode = false ∧ (getCl s c0).thu = false) := by decide +kernel

/-- CoreLocalAccesses: aligned and misaligned addresses, the last of local memory; in tenant mode, within LMLIM and past it. -/
theorem witness_core_local :
    let w : CWord := { nullC with xd := 3, xa := 1, xb := 2 }
    let s (a : Word) := coreState fun x => { x with regs := [(1, a)] }
    let u (a : Word) := coreState fun x => { x with regs := [(1, a)], mode := false, lmlim := 0x1000 }
    ([1, 2, 4, 8].all fun n => coreTurn (s (0x40000 - word n)) w && decide ((0x40000 - word n).toNat % n = 0) && decide ((0x40000 - word n).toNat < 0x40000) &&
      decide (locTrap (getCl (s (0x40000 - word n)) c0) (0x40000 - word n) n = none)) = true ∧
    ([2, 4, 8].all fun n => coreTurn (s 1) w && decide ((1 : Word).toNat % n ≠ 0)) = true ∧
    locTrap (getCl (u 0xFF8) c0) 0xFF8 8 = none ∧
    ([1, 2, 4, 8].all fun n => coreTurn (u 0x1000) w && decide ((getCl (u 0x1000) c0).lmlim.toNat < 0x1000 + n) && decide ((0x1000 : Word).toNat % n = 0) && !(getCl (u 0x1000) c0).mode) = true := by decide +kernel

/-- CoreGlobalAccesses: an address of a pinned range, for each need; a buffered store and an outstanding load; no poison. -/
theorem witness_core_global :
    let e : RangeEntry := { base := 0x10003F, lim := 0x1F0000, pa := 0x200000, vo := 0 }
    let w : CWord := { nullC with xd := 3, xa := 1, xb := 2 }
    let s := coreState fun x => { x with regs := [(1, 0x1FFFF8)], ranges := [(63, e)] }
    let t := coreState fun x => { x with sb := [⟨0x200000, [1, 2], 0, 0⟩], ranges := [(63, e)] }
    let u := coreState fun x => { x with loads := [⟨3, 0x200000, 8, false, 0, 0⟩] }
    coreTurn s w = true ∧ (getX (getCl s c0) 1 + w.imm) = 0x1FFFF8 ∧
    ([Need.r, .w, .rwa].all fun n => decide (translate s 0 (coreTable (getCl s c0)) (getCl s c0).ctx 0x1FFFF8 n = .ok 0x2FFFF8 63 none)) = true ∧
    (getCl s c0).sb = [] ∧ (getCl s c0).loads = [] ∧ isPoison s 0x2FFFF8 = false ∧ (sbCover [] 0x2FFFF8 8).all (·.isNone) = true ∧
    t.here = .core c0 ∧ (getCl t c0).sb = [⟨0x200000, [1, 2], 0, 0⟩] ∧ (getCl t c0).loads = [] ∧ coreTurn t nullC = true ∧
    (getCl t c0).pstate = 0 ∧ (getCl u c0).pstate = 0 ∧ (getCl u c0).loads = [⟨3, 0x200000, 8, false, 0, 0⟩] ∧ isPoison u 0x200000 = false := by decide +kernel

/-! ## Events, deliveries, barriers -/

def rec5 : Rec := { kind := 0x26, ctx := 5 }

/-- EventsAndWaits: a record with room and without; a loss to report; a pop that finds a record and one that does not; waits that end and that do not. -/
theorem witness_events :
    (let at_ (n : Nat) := { coreState (fun x => { x with pend := [rec5], eq := List.replicate n rec5 }) with here := .arrival c0 0 }
     ([0, 959, 1024].all fun n => decide ((at_ n).here = .arrival c0 0) && decide ((getCl (at_ n) c0).pend[0]? = some rec5) &&
       decide ((getCl (at_ n) c0).losses = []) && !reportHeld (at_ n) 0 rec5 && decide ((getCl (at_ n) c0).eq.length = n)) = true) ∧
    (let s := coreState fun x => { x with losses := [(5, 2, 1)] }
     s.here = .core c0 ∧ (getCl s c0).losses = [(5, 2, 1)] ∧ (getCl s c0).eq.length < 1024) ∧
    (let w : CWord := { nullC with xd := 3, xa := 1 }
     let s := coreState fun x => { x with regs := [(1, 0x3FFE0)], eq := [rec5], ef := true }
     let t := coreState fun x => { x with regs := [(1, 0x3FFE0)], eq := [rec5], mode := false }
     coreTurn s w = true ∧ coreTurn t w = true ∧ (getX (getCl s c0) 1 + w.imm).toNat % 32 = 0 ∧ (getX (getCl s c0) 1 + w.imm).toNat < 0x40000 ∧
     locTrap (getCl s c0) 0x3FFE0 32 = none ∧ (getCl s c0).eq.find? (seesRec (getCl s c0)) = some rec5 ∧
     (getCl t c0).eq.find? (seesRec (getCl t c0)) = none ∧ 0 < ((getCl s c0).eq.filter (seesRec (getCl s c0))).length ∧
     ((getCl t c0).eq.filter (seesRec (getCl t c0))).length = 0) ∧
    (let s (r : CoreRun) (ef : Bool) (q : List Rec) := { coreState (fun x => { x with run := r, ef := ef, eq := q }) with clock := 20 }
     (s (.wfe 10 10 3 8) true []).here = .core c0 ∧ (getCl (s (.wfe 10 10 3 8) true []) c0).ef = true ∧
     0 < ((getCl (s (.evwait 10 10 3 8) false [rec5]) c0).eq.filter (seesRec (getCl (s (.evwait 10 10 3 8) false [rec5]) c0))).length ∧
     10 + 10 ≤ (s (.wfe 10 10 3 8) false []).clock ∧ (getCl (s (.wfe 10 10 3 8) false []) c0).ef = false ∧
     (getCl (s (.evwait 10 10 3 8) false []) c0).eq.filter (seesRec (getCl (s (.evwait 10 10 3 8) false []) c0)) = []) := by decide +kernel

/-- DeliveredThreadsAndPhase: a delivery to a core with traps enabled; releases of a held thread, to an end and to a block, and with none held;
a launch to look at, and one whose phase can be made to yield. -/
theorem witness_deliveries :
    (let v : Delivery := ⟨l0, 0, 9⟩
     let s := setLaunch (coreState fun x => { x with deliveries := [v], aie := true }) l0 run1
     s.here = .core c0 ∧ (getCl s c0).deliveries = [v] ∧ (getCl s c0).run ≠ .stopped ∧ (getCl s c0).td = false ∧ (getCl s c0).aie = true ∧
     findLaunch s v.launch = some run1 ∧ (findThread run1 v.thr).isSome = true) ∧
    (let v : Delivery := ⟨l0, 0, 9⟩
     let s := setLaunch (coreState fun x => { x with ctx := 5, held := some v, td := true, regs := [(1, 1), (2, 64)] }) l0 run1
     let t := coreState id
     coreTurn s { nullC with xd := 3, xb := 2, imm := 1 } = true ∧ coreTurn s { nullC with xd := 3, xb := 2 } = true ∧ (getCl s c0).held = some v ∧
     (getCl s c0).td = true ∧ (getX (getCl s c0) 2).toNat % 64 = 0 ∧ (getX (getCl s c0) 1).toNat % 64 ≠ 0 ∧ coreTurn t { nullC with xd := 3 } = true ∧
     (getCl t c0).held = none ∧ findLaunch s v.launch = some run1 ∧ (findThread run1 v.thr).isSome = true ∧
     coreTurn s { nullC with xd := 3, xa := 1, imm := 1 } = true ∧ myLaunch s c0 (getX (getCl s c0) 1) = some (l0, run1) ∧
     run1.st = .running ∧ run1.decided = false) := by decide +kernel

/-- BarriersRelease: a barrier number out of range and the last in range; a configured barrier of the core's context, and one that is not; an arrival to
register; a barrier to release, and one to report to another cluster. -/
theorem witness_barriers :
    (let w : CWord := { nullC with xd := 3, xb := 1 }
     let s (n : Word) (b : Barrier) := coreState fun x => { x with regs := [(1, n)], bars := [(511, b)] }
     let b2 : Barrier := { cfg := 0x6000000000000002 }
     coreTurn (s 512 {}) w = true ∧ 512 ≤ (getX (getCl (s 512 {}) c0) 1 + w.imm).toNat ∧
     coreTurn (s 511 b2) w = true ∧ (getX (getCl (s 511 b2) c0) 1 + w.imm).toNat < 512 ∧ (getBar (getCl (s 511 b2) c0) 511) = b2 ∧
     b2.cfg.toNat % 65536 ≠ 0 ∧ b2.ctx = (getCl (s 511 b2) c0).ctx ∧ b2.counts.head? = none ∧
     (getBar (getCl (s 511 {}) c0) 511).cfg.toNat % 65536 = 0 ∧ ({ b2 with ctx := 9 } : Barrier).ctx ≠ (getCl (s 511 b2) c0).ctx) ∧
    (let at_ (b : Barrier) := { coreState (fun x => { x with bars := [(0, b)] }) with here := .barrier c0 0 }
     let h : ClusterId := ⟨0, 1⟩
     let a : Barrier := { cfg := 2, made := [⟨0, 0, none, 0⟩] }
     let full : Barrier := { cfg := 2, arrived := 2 }
     let span : Barrier := { cfg := 0x7010100000000002, arrived := 2 }
     let home : Barrier := { cfg := 0x7010100000000002 }
     (at_ a).here = .barrier c0 0 ∧ (getBar (getCl (at_ a) c0) 0).made = ⟨0, 0, none, 0⟩ :: [] ∧ a.gen = 0 ∧ arrivalReady (at_ a) c0 ⟨0, 0, none, 0⟩ = true ∧
     full.cfg.toNat % 65536 ≠ 0 ∧ full.arrived = full.cfg.toNat % 65536 ∧ full.cfg.getLsbD 60 = false ∧
     span.arrived = span.cfg.toNat % 65536 ∧ span.cfg.getLsbD 60 = true ∧ span.sent = false ∧ barHome span = h ∧ h ≠ c0 ∧
     (let s := setCl (at_ span) h { bars := [(0, home)] }
      getBar (getCl s h) 0 = home ∧ home.cfg.getLsbD 60 = true ∧ home.ctx = span.ctx ∧ home.reports + 1 ≠ home.cfg.toNat / 2 ^ 43 % 2 ^ 9)) := by
  decide +kernel

/-! ## Registers -/

/-- CoreReadsAndWritesRegisters: an unassigned number and one beyond 16 bits; a system-only register in tenant mode; each register that the statement
names, with nothing outstanding and with a buffered store. -/
theorem witness_core_registers :
    (let w : CWord := { nullC with xd := 3, xa := 2, xb := 1 }
     let s (n : Word) (mode : Bool) (sb : List SbEntry) := coreState fun x => { x with regs := [(1, n), (2, 64)], mode := mode, sb := sb }
     coreTurn (s 0xFFFF true []) w = true ∧ regAssigned 0xFFFF = false ∧ 2 ^ 16 ≤ (getX (getCl (s 0x10000 true []) c0) 1 + w.imm).toNat ∧
     coreTurn (s 8 false []) w = true ∧ regSys 8 = true ∧ (getCl (s 8 false []) c0).mode = false ∧
     ([1, 2, 3, 5, 8, 9, 10, 11, 12, 16, 0x220].all fun n => coreTurn (s (word n) true []) w && regAssigned n && !regPriv (getCl (s (word n) true []) c0) n) = true ∧
     regPriv (getCl (s 3 false []) c0) 3 = false ∧ (getX (getCl (s 8 true []) c0) 2).toNat % 8 = 0 ∧ (getCl (s 8 true []) c0).loads = [] ∧
     coreTurn (s 1 true [⟨0, [1], 0, 0⟩]) w = true ∧ (getCl (s 1 true [⟨0, [1], 0, 0⟩]) c0).sb ≠ []) := by decide +kernel

/-- The test's core at a register write. -/
def regState (n : BitVec 16) (v : Word) : State := { coreState id with here := .register c0 n v }

/-- ClusterRegistersAreWritten: for each register, a value that is accepted and one that is not, at the first and the last of each range. -/
theorem witness_cluster_registers :
    ([0x200, 0x21E].all fun n => decide ((regState (BitVec.ofNat 16 n) 0x0000_0004_0010_7FF0).here = .register c0 (BitVec.ofNat 16 n) 0x0000_0004_0010_7FF0) &&
      ringIdle (getCl (regState 0 0) c0) ((n - 0x200) / 2)) = true ∧
    ((0x0000_0004_0010_7FF0 : Word).toNat / 2 ^ 49 = 0 ∧ (0x0000_0004_0010_7FF0 : Word).toNat / 2 ^ 32 % 2 ^ 16 = 4 ∧
     (0x0000_0004_0010_7FF0 : Word).toNat / 2 ^ 16 % 2 ^ 16 = 16 ∧ (0x0000_0004_0010_7FF0 : Word).toNat % 2 ^ 16 + 16 = 32768) ∧
    ¬ ((0x0000_0004_0011_0000 : Word).toNat / 2 ^ 16 % 2 ^ 16 % 4 = 0) ∧
    (0x1_0000_0000 : Word).getLsbD 32 = true ∧ (0x1_0000_0000 : Word).toNat / 2 ^ 33 = 0 ∧ ringIdle (getCl (regState 0x21F 0) c0) 15 = true ∧
    (0xFFF : Word).toNat / 2 ^ 12 = 0 ∧ (getSlice (regState 0x31F 0xFFF) (sliceOfCore (regState 0 0) c0 31)).wins = [] ∧
    (let s := updSlice (regState 0x4FF 0x0031_0000_0000_0000) (sliceOfCore (regState 0 0) c0 31) fun x => { x with smap := 0xFFF }
     (0x0031_0000_0000_0000 : Word) &&& ~~~0x00FF000000000000 = 0 ∧ (getSlice s (sliceOfCore s c0 31)).wins = [] ∧
     (getSlice s (sliceOfCore s c0 31)).smap.getLsbD 3 = true ∧ (0x0031_0000_0000_0000 : Word).toNat / 2 ^ 52 % 16 = 3 ∧
     (0x0031_0000_0000_0000 : Word).toNat / 2 ^ 48 % 16 = 1) ∧
    12 < (0x00B2_0000_0000_0000 : Word).toNat / 2 ^ 52 % 16 + (0x00B2_0000_0000_0000 : Word).toNat / 2 ^ 48 % 16 ∧
    (let v : Word := 0xB000080000000002
     v.toNat / 2 ^ 16 % 2 ^ 27 = 0 ∧ v.toNat / 2 ^ 61 = 5 ∧ v.getLsbD 60 = true ∧ v.toNat / 2 ^ 43 % 2 ^ 9 = 1 ∧ (getBar (getCl (regState 0x9FF v) c0) 511).arrived = 0) ∧
    ¬ (1 ≤ (0x2 : Word).toNat / 2 ^ 61) ∧
    (0x1F0000 : Word).toNat % 2 ^ 16 = 0 ∧ 0x1FD % 4 = 1 ∧
    coreBits (aset (getCl (regState 0x1FD 0) c0).ranges 63 { ({} : RangeEntry) with lim := 0x1F0000 }) ≤ 32768 ∧ (0x1F0001 : Word).toNat % 2 ^ 16 ≠ 0 := by
  decide +kernel

/-- DieRegistersAndPower: a partition's registers; MXMODE unsplit; BKTOK; a cluster with no tile allotted, and one with a running core. -/
theorem witness_die_registers :
    (regState 0x500 1).here = .register c0 0x500 1 ∧ 0x500 % 4 = 0 ∧ 0x53D % 4 = 1 ∧ 0x53E % 4 = 2 ∧
    partOk (regState 0x500 0) 0 0 0x8000_0000_0000_0000 1 0 = true ∧ partOk (regState 0x500 0) 0 0 0 0 0 = false ∧
    (0x0210 : Word).toNat / 2 ^ 14 = 0 ∧ (0x0210 : Word).toNat / 32 % 8 = 0 ∧ (0x0210 : Word).toNat / 256 % 32 ≤ 16 ∧ (0x0210 : Word).toNat % 32 = 16 ∧
    (0x0210 : Word).getLsbD 13 = false ∧
    (let s := coreState fun x => { x with run := .stopped }
     s.here = .core c0 ∧ clusterAllotted s c0 = false ∧ (getCl s c0).run = .stopped) ∧
    (getCl (coreState id) c0).run ≠ .stopped := by decide +kernel

end Sys2Proof.Tests
end

