-- ==== Sys2Proof/Tests/WitnessPosts.lean ====
section
/-! SUPPORT. States and operands that meet the hypotheses of the statements about a core's posts, address ranges and observation. -/
set_option Elab.async false
namespace Sys2Proof.Tests
open Sys2Proof Sys2Proof.Machine

/-! ## Launches -/

/-- Words at an address of a core's local memory. -/
def withLoc (a : Nat) (ws : List Word) (x : Cluster) : Cluster := { x with loc := writeBytes x.loc a (ws.flatMap fun w => bytesOf 8 w.toNat) }

/-- A launch record of context 5, priority 1, one thread, one tile, with one level of hierarchy, which covers the region (R25, R26). -/
def record5 : List Word :=
  [0x1000, 0, 0x0000_0500_1080_0000, 50, 0x10000, 0, 0, 0, 0xB200_0001, 0, 0, 0] ++ List.replicate 20 0

/-- A die whose partition 0 is all of it, with a context table at 0x4_0000 (R322, R331). -/
def die1 : Die := { ctxbase := 0x8000_0000_0004_0000, prect := [(0, 0x8000_0000_0000_0FFF)] }

/-- The core, in system mode, with a record at 0x100. -/
def launchAt (ws : List Word) (d : Die) : State :=
  setDie (coreState fun x => withLoc 0x100 ws { x with regs := [(1, 0x100)] }) 0 d

def postW : CWord := { nullC with xd := 3, xa := 1, xb := 2 }

/-- What LAUNCH asks for there. -/
def askOf (s : State) (ws : List Word) (ds : List (Nat × List Word)) : Ask :=
  { issuer := some c0, near := c0, sys := (getCl s c0).mode, ctx := (getCl s c0).ctx, ws := ws, place := getX (getCl s c0) 2 + postW.imm,
    ports := portSetOf s 0 (getCl s c0), descs := ds }

/-- Words as the bytes of memory that are not 0. -/
def memOf (a : Nat) (ws : List Word) : Assoc Byte :=
  ((ws.flatMap fun w => bytesOf 8 w.toNat).zipIdx.filter fun e => e.1 ≠ 0).map fun (b, i) => (a + i, b)

/-- A range entry of context 0, on pages 0x10 to 0x1F of its addresses, pinned at page 0x20 (R305). -/
def entry0 : RangeEntry := { base := 0x10003F, lim := 0x1F0000, pa := 0x200000, vo := 0 }

/-- The core, in system mode, with a record at 0x10_0000 of its addresses. -/
def launchFar (f : Cluster → Cluster) : State :=
  { setDie (coreState fun x => f { x with regs := [(1, 0x100000)], ranges := [(0, entry0)] }) 0 die1 with mem := memOf 0x200000 record5 }

/-- A record that binds a descriptor at in-port 0. -/
def recordBinds (d : Word) : List Word := record5.take 16 ++ d :: record5.drop 17

/-- That record as LAUNCH reads it. -/
def a5 : LaunchRec := (parseRecord record5).getD blankRec

/-- The trap that a read of a descriptor takes. -/
def trapRead (r : DescRead) : Nat × Word × State := match r with | .trap k va s => (k, va, s) | _ => (0, 0, State.reset)

/-- The state that a read of a descriptor leaves. -/
def afterRead (r : DescRead) : State := match r with | .words _ s => s | .trap _ _ s => s | .wait => State.reset

/-- The descriptors that a record binds. -/
def bindsOf (ws : List Word) : List (Nat × Word) := ((parseRecord ws).getD blankRec).binds.zipIdx.map fun (b, p) => (p, b)

/-! LaunchesAreAccepted, a witness for each of its clauses. -/

theorem witness_launch_misaligned : coreTurn (coreState fun x => { x with regs := [(1, 0x104)] }) postW = true ∧ (0x104 : Word).toNat % 64 ≠ 0 := by
  decide +kernel

theorem witness_launch_waits : let s := launchFar fun x => { x with loads := [⟨9, 0x200000, 8, false, 0, 0⟩] }
    coreTurn s postW = true ∧ getX (getCl s c0) postW.xa = 0x100000 ∧ readDesc c0 4 0x100000 s = .wait := by decide +kernel

theorem witness_launch_traps : let s := coreState fun x => { x with regs := [(1, 0x100000)] }
    let r := trapRead (readDesc c0 4 0x100000 s)
    coreTurn s postW = true ∧ getX (getCl s c0) postW.xa = 0x100000 ∧ readDesc c0 4 0x100000 s = .trap r.1 r.2.1 r.2.2 ∧ r.1 ≠ trSw := by decide +kernel

theorem witness_launch_bad_record : let s := launchAt (List.replicate 32 1) die1
    coreTurn s postW = true ∧ getX (getCl s c0) postW.xa = 0x100 ∧ readDesc c0 4 0x100 s = .words (List.replicate 32 1) s ∧
    parseRecord (List.replicate 32 1) = none := by decide +kernel

theorem witness_launch_bad_binding : let s := launchAt (recordBinds 4) die1
    coreTurn s postW = true ∧ getX (getCl s c0) postW.xa = 0x100 ∧ readDesc c0 4 0x100 s = .words (recordBinds 4) s ∧
    (parseRecord (recordBinds 4)).isSome = true ∧ readBinds c0 (bindsOf (recordBinds 4)) s = .bad := by decide +kernel

/-- The context table is not set, so the record's context is no context of the die. -/
theorem witness_launch_refused : let s := launchAt record5 {}
    coreTurn s postW = true ∧ getX (getCl s c0) postW.xa = 0x100 ∧ readDesc c0 4 0x100 s = .words record5 s ∧ (parseRecord record5).isSome = true ∧
    readBinds c0 (bindsOf record5) s = .got [] s ∧ acceptLaunch s (askOf s record5 []) = .error 3 := by decide +kernel

/-- What LAUNCH asks for at a core in system mode with the whole die as its partition is accepted. -/
theorem fits_of {s : State} {a : Ask} (h : (parseRecord a.ws = some a5 ∧ placeOk a.place = true ∧ a.ports.length ≤ 16 ∧ portBits a.ports ≤ 8192 ∧ a.descs = [] ∧
    a.sys = true ∧ (getDie s a.near.die).ctxbase.getLsbD 63 = true ∧ ctxState s a.near.die a5.ctx < 2) ∧
    ((launchPart s a.near.die a5.ctx).any fun q => placeInside q a.place (a5.rows + 1) (a5.cols + 1)) = true ∧
    bindModule (getDie s a.near.die) a5 = .ok none ∧ groupOk s a5 = true ∧
    ((launchesOf s a.near.die).filter fun e => e.2.st = .waiting).length < 64) : LaunchFits s a a5 := by
  obtain ⟨⟨h1, h2, h3, h4, h5, h6, h7, h8⟩, h9, h10, h11, h12⟩ := h
  exact ⟨h1, h2, h3, h4, by simp [h5], .inl h6, h7, h8, by simpa [Option.any_eq_true] using h9, ⟨none, h10⟩, h11, h12⟩

/-- A record in local memory: the handle goes into it. -/
theorem witness_launch_accepted : let s := launchAt record5 die1
    (coreTurn s postW = true ∧ getX (getCl s c0) postW.xa = 0x100 ∧ readDesc c0 4 0x100 s = .words record5 s ∧ parseRecord record5 = some a5 ∧
      readBinds c0 (bindsOf record5) s = .got [] s) ∧ LaunchFits s (askOf s record5 []) a5 ∧
    ((0x100 : Word) + 0x38).toNat < 0x40000 ∧ locTrap (getCl s c0) (0x100 + 0x38) 8 = none :=
  ⟨by decide +kernel, fits_of (by decide +kernel), by decide, by decide +kernel⟩

/-- A record in memory: the handle goes into the store buffer. -/
theorem witness_launch_accepted_far : let s := launchFar id
    let s1 := afterRead (readDesc c0 4 0x100000 s)
    (coreTurn s postW = true ∧ getX (getCl s c0) postW.xa = 0x100000 ∧ readDesc c0 4 0x100000 s = .words record5 s1 ∧ parseRecord record5 = some a5 ∧
      readBinds c0 (bindsOf record5) s1 = .got [] s1) ∧ LaunchFits s1 { askOf s record5 [] with ports := portSetOf s1 0 (getCl s c0) } a5 ∧
    0x40000 ≤ ((0x100000 : Word) + 0x38).toNat ∧
    translate s1 0 (coreTable (getCl s c0)) (getCl s c0).ctx (0x100000 + 0x38) .w = .ok 0x200038 0 none ∧ (getCl s c0).sb.length < 16 :=
  ⟨by decide +kernel, fits_of (by decide +kernel), by decide, by decide +kernel⟩

/-! ## Bindings, planes, modules -/

/-- A good descriptor of in-port 0 and a good module descriptor. -/
def desc0 : List Word := [0x100000, 1, 0, 0, 0, 0, 0, 0]
def module0 : List Word := [0x200000, 64, 0, 0, 0, 0, 0, 0]

/-- A launch with a stream bound at port 0. -/
def bound1 : Launch := { run1 with streams := [(0, { words := desc0 })] }

/-- The core with a handle in X1 and a command for row 0, field 2 in X2. -/
def handleState : State := coreState fun x => { x with ctx := 5, regs := [(1, 1), (2, 0x00020311)] }

/-- ConfigurationPosts: no launch of the handle; a launch, with a stream bound and without, without a region, with an active plane and without. -/
theorem witness_configuration_launch : coreTurn handleState postW = true ∧ myLaunch handleState c0 1 = none ∧
    myLaunch (setLaunch handleState l0 bound1) c0 1 = some (l0, bound1) ∧ (getStream bound1 0).words ≠ [] ∧ (getStream run1 0).words = [] ∧
    bound1.corner ≠ none ∧ myLaunch (setLaunch handleState l0 { run1 with corner := none }) c0 1 = some (l0, { run1 with corner := none }) ∧
    bound1.active = some 0 ∧ bound1.decided = false ∧ (getPlane bound1 1).st ≠ .invalid ∧
    myLaunch (setLaunch handleState l0 { run1 with active := none }) c0 1 = some (l0, { run1 with active := none }) := by decide +kernel

/-- ConfigurationPosts: RSW's commands inside the block and outside. -/
theorem witness_configuration_rsw : rswCmd ((0x00020311 : Word).setWidth 32) = some (0, 0, 2, 0x0311) ∧
    rswCmd ((0x08020311 : Word).setWidth 32) = some (1, 0, 2, 0x0311) ∧ 0 < (getPlane bound1 0).fh ∧ 0 < (getPlane bound1 0).fw ∧
    ¬ (1 < (getPlane bound1 0).fh) ∧ bound1.rsws = [] ∧ postW.imm.getLsbD 1 = false := by decide +kernel

/-- The core with a descriptor at 0x100 and a record's address in X2. -/
def descAt (ws : List Word) : State := coreState fun x => withLoc 0x100 ws { x with regs := [(1, 0x100), (2, 0x200)] }

/-- The core in a mode, with a descriptor at 0x100, a launch record of context 5 at 0x200 and both addresses in its registers. -/
def bindAt (sys : Bool) (ctx : BitVec 12) : State := setCl (coreState id) c0
  (withLoc 0x200 record5 (withLoc 0x100 desc0 { getCl (coreState id) c0 with mode := sys, ctx := ctx, regs := [(1, 0x100), (2, 0x200)] }))

/-- ConfigurationPosts: SBIND's descriptor, bad. -/
theorem witness_configuration_sbind_bad : let s := descAt (List.replicate 8 1)
    coreTurn s postW = true ∧ getX (getCl s c0) postW.xa = 0x100 ∧ readDesc c0 1 0x100 s = .words (List.replicate 8 1) s ∧
    descOk (((List.replicate 8 (1 : Word)).getD 3 0).toNat / 256 % 16) (List.replicate 8 1) = false := by decide +kernel

/-- ConfigurationPosts: SBIND with a record of another context; with one of the core's own context; in system mode. -/
theorem witness_configuration_sbind : let s := bindAt false 6
    coreTurn s postW = true ∧ readDesc c0 1 0x100 s = .words desc0 s ∧ (0x200 : Word).toNat % 64 = 0 ∧ descOk ((desc0.getD 3 0).toNat / 256 % 16) desc0 = true ∧
    readDesc c0 1 0x200 s = .words (record5.take 8) s ∧ (getCl s c0).mode = false ∧ ((record5.take 8).getD 2 0).extractLsb' 40 12 ≠ (getCl s c0).ctx := by
  decide +kernel

theorem witness_configuration_sbind_good : ∀ s ∈ [bindAt false 5, bindAt true 0],
    coreTurn s postW = true ∧ readDesc c0 1 0x100 s = .words desc0 s ∧ (0x200 : Word).toNat % 64 = 0 ∧ descOk ((desc0.getD 3 0).toNat / 256 % 16) desc0 = true ∧
    readDesc c0 1 0x200 s = .words (record5.take 8) s ∧ ((getCl s c0).mode = true ∨ ((record5.take 8).getD 2 0).extractLsb' 40 12 = (getCl s c0).ctx) ∧
    ((0x200 : Word) + word 0x80).toNat < 0x40000 ∧ locTrap (getCl s c0) (0x200 + word 0x80) 8 = none := by decide +kernel

/-- ConfigurationPosts: MODLD's descriptor, good and bad, with an empty table. -/
theorem witness_configuration_modld : readDesc c0 1 0x100 (descAt module0) = .words module0 (descAt module0) ∧
    parseModule module0 = some (0x200000, 64, false) ∧ parseModule (List.replicate 8 1) = none ∧ (getDie (descAt module0) 0).modules = [] ∧
    (List.range 256).find? (fun k => decide ((aget ({} : Module) (getDie (descAt module0) 0).modules k).st = 0)) = some 0 ∧
    (aget ({} : Module) (getDie (descAt module0) 0).modules 0).gen + 1 ≠ 0 ∧ (getCl (descAt module0) c0).sb = [] := by decide +kernel

/-- ConfigurationPosts: MODUL of no module, of a loaded one and of one that is UNLOADING. -/
theorem witness_configuration_modul : modOf {} 7 = none ∧ modOf { modules := [(0, { st := modLoaded, gen := 7 })] } 7 = some (0, { st := modLoaded, gen := 7 }) ∧
    modOf { modules := [(0, { st := modUnloading, gen := 7 })] } 7 = some (0, { st := modUnloading, gen := 7 }) ∧ modLoaded ≠ modUnloading := by decide +kernel

/-- ConfigurationPosts: the fields that RSW would leave pass the checks of a block. -/
theorem witness_rsw_fields : ∀ e ∈ copyTiles l0 run1 1 1, ∀ f : List (Nat × Nat × BitVec 16), (∀ g ∈ f, g.2 = (5, 0)) →
    boxesOk (withFields (getTile State.reset e.1) 0 (tileKey e.1) f) 0 = true := by
  intro e he f hf
  have h0 : getTile State.reset e.1 = {} := rfl
  have key : ∀ f : List (Nat × Nat × BitVec 16), (∀ g ∈ f, g.2 = (5, 0)) → withFields {} 0 (tileKey e.1) f = {} := by
    intro f
    induction f with
    | nil => intro _; rfl
    | cons a l ih =>
      intro h
      obtain ⟨j, fn, v⟩ := a
      have h1 := h (j, fn, v) (by simp)
      have h2 := ih fun g hg => h g (by simp [hg])
      simp only [Prod.mk.injEq] at h1
      simp only [withFields, List.foldl_cons, h1.1, h1.2] at h2 ⊢
      split
      · exact h2
      · exact h2
  rw [h0, key f hf]
  decide +kernel

/-! ## Engines -/

/-- A core with a descriptor at 0x100, one range, and a die. -/
def engineAt (ws : List Word) (d : Die) (m : Assoc Byte) : State :=
  { setDie (coreState fun x => withLoc 0x100 ws { x with regs := [(1, 0x100)], ranges := [(0, entry0)] }) 0 d with mem := m }

/-- A copy of 64 bytes; an all-gather of 16 words by rank 0 of 2; a send of 64 bytes at endpoint 0. -/
def copy0 : List Word := [0x100000, 0x100040, 64, 0x20000, 0, 0, 0, 0]
def coll0 : List Word := [0x100000, 0x100040, 16, 0x0000_0002_0002_0000, 0, 0, 0, 0]
def send0 : List Word := [0x100000, 0, 64, 0x0001_0000_0000_0000, 0, 0, 0, 0]

/-- A die whose partition 0 has two ranks, with the table at 0x9000, and an endpoint, with the table at 0xA000. -/
def die2 : Die := { pctl := [(0, 0x2_0000_0000)], rkbase := [(0, 0x9000)], nectl := 0x8000_0000_0000_A001 }

/-- A rank table whose ranks both lie on die 1 of device 0; an endpoint of context 0. -/
def otherRanks : Assoc Byte := [(0x9002, 0x02), (0x9007, 0x80), (0x900A, 0x02), (0x900F, 0x80), (0xA007, 0x80)]

/-- A core's post of a descriptor in local memory. -/
def posted (s : State) (ws : List Word) : Prop :=
  coreTurn s postW = true ∧ getX (getCl s c0) postW.xa = 0x100 ∧ (0x100 : Word).toNat % 64 = 0 ∧ readDesc c0 1 0x100 s = .words ws s

/-- 32 posts. -/
def posts32 : List Transfer := List.replicate 32 { num := 0, words := [], core := c0, ctx := 0 }

/-! EnginePosts, a witness for each of its clauses. -/

theorem witness_post_misaligned : let s := setDie (coreState fun x => { x with regs := [(1, 0x104)] }) 0 die2
    coreTurn s postW = true ∧ (0x104 : Word).toNat % 64 ≠ 0 ∧ (getDie s 0).nectl.getLsbD 63 = true := by decide +kernel

theorem witness_post_waits :
    let s := setDie (coreState fun x => { x with regs := [(1, 0x100000)], ranges := [(0, entry0)], loads := [⟨9, 0x200000, 8, false, 0, 0⟩] }) 0 die2
    coreTurn s postW = true ∧ getX (getCl s c0) postW.xa = 0x100000 ∧ readDesc c0 1 0x100000 s = .wait ∧ (getDie s 0).nectl.getLsbD 63 = true := by
  decide +kernel

theorem witness_cpypost_bad : let s := engineAt coll0 {} []
    posted s coll0 ∧ copyFieldsOk (getCl s c0) coll0 = false := ⟨by unfold posted; decide +kernel, by decide +kernel⟩

/-- A copy from an address that no entry of the core covers. -/
theorem witness_cpypost_uncovered : let ws : List Word := [0x900000, 0x100040, 64, 0x20000, 0, 0, 0, 0]
    let s := engineAt ws {} []
    posted s ws ∧ copyFieldsOk (getCl s c0) ws = true ∧ coreCovers (getCl s c0) 0x900000 = false := ⟨by unfold posted; decide +kernel, by decide +kernel⟩

theorem witness_cpypost_full : let s := updCl (engineAt copy0 {} []) c0 fun x => { x with copy := { queue := posts32 } }
    posted s copy0 ∧ copyFieldsOk (getCl s c0) copy0 = true ∧ coreCovers (getCl s c0) 0x100000 = true ∧ coreCovers (getCl s c0) 0x100040 = true ∧
    32 ≤ (getEngine s (.copy c0)).queue.length := ⟨by unfold posted; decide +kernel, by decide +kernel⟩

theorem witness_cpypost : let s := engineAt copy0 {} []
    posted s copy0 ∧ copyFieldsOk (getCl s c0) copy0 = true ∧ coreCovers (getCl s c0) 0x100000 = true ∧ coreCovers (getCl s c0) 0x100040 = true ∧
    (getEngine s (.copy c0)).queue.length < 32 := ⟨by unfold posted; decide +kernel, by decide +kernel⟩

/-- The collective as COLPOST looks at it. -/
def tr0 (ws : List Word) : Transfer := { num := 0, words := ws, core := c0, ctx := 0 }

theorem witness_colpost_bad : let s := engineAt copy0 die2 []
    posted s copy0 ∧ colFieldsOk s 0 0 copy0 = false := ⟨by unfold posted; decide +kernel, by decide +kernel⟩

theorem witness_colpost_unknown : let s := engineAt coll0 die2 []
    posted s coll0 ∧ colFieldsOk s 0 0 coll0 = true ∧ colMembers s 0 0 (colRanks (tr0 coll0)) = none :=
  ⟨by unfold posted; decide +kernel, by decide +kernel⟩

theorem witness_colpost_other : let s := engineAt coll0 die2 otherRanks
    posted s coll0 ∧ colFieldsOk s 0 0 coll0 = true ∧ colMembers s 0 0 (colRanks (tr0 coll0)) = some [(0, 1), (0, 1)] ∧
    ([(0, 1), (0, 1)] : List (Nat × Fin 4))[colMe (tr0 coll0)]? ≠ some (Config.deviceNumber.toNat, c0.die) :=
  ⟨by unfold posted; decide +kernel, by decide +kernel, by decide +kernel, by
    intro h
    have h1 : ([(0, 1), (0, 1)] : List (Nat × Fin 4))[colMe (tr0 coll0)]? = some (0, 1) := by decide +kernel
    rw [h1] at h
    simp at h⟩

/-- A rank table whose rank 0 is this die of this device. -/
def ownRanks : Assoc Byte :=
  let n := Config.deviceNumber.toNat
  [(0x9000, BitVec.ofNat 8 n), (0x9001, BitVec.ofNat 8 (n / 256)), (0x9002, BitVec.ofNat 8 (n / 65536)), (0x9007, 0x80), (0x900A, 0x02), (0x900F, 0x80)]

theorem own_members {s : State} (hp : fld (aget 0 (getDie s 0).pctl (ctxPart s 0 0)) 49 32 > 0)
    (ha : fld (aget 0 (getDie s 0).rkbase (ctxPart s 0 0)) 38 3 * 8 + 8 * 0 = 0x9000) (hb : memRead s 0x9000 8 = ownBytes)
    (h1 : rankOf s 0 0 1 = some (0, 1)) : colMembers s 0 0 2 = some [(Config.deviceNumber.toNat, 0), (0, 1)] := by
  have h0 : rankOf s 0 0 0 = some (Config.deviceNumber.toNat, 0) := own_rank hp (by rw [ha]; exact hb)
  simp [colMembers, List.range, List.range.loop]
  rw [show rankOf s 0 0#12 0 = _ from h0, show rankOf s 0 0#12 1 = _ from h1]
  rfl

/-- The same with a rank table whose rank 0 is this die, which the descriptor names as its own, in a core whose queue of the engine holds some posts. -/
def collAt (ws : List Word) (q : List Transfer) : State := updEngine (engineAt ws die2 ownRanks) (.collective 0) fun e => { e with queue := q }

theorem coll_members : ∀ ws ∈ [coll0, [0x900000, 0x100040, 16, 0x0000_0002_0002_0000, 0, 0, 0, 0]], ∀ q ∈ [[], posts32],
    colMembers (collAt ws q) 0 0 2 = some [(Config.deviceNumber.toNat, 0), (0, 1)] := by
  intro ws hw q hq
  simp only [List.mem_cons, List.not_mem_nil, or_false] at hw hq
  rcases hw with rfl | rfl <;> rcases hq with rfl | rfl <;> exact own_members (by decide +kernel) (by decide +kernel) rfl (by decide +kernel)

theorem witness_colpost_uncovered : let ws : List Word := [0x900000, 0x100040, 16, 0x0000_0002_0002_0000, 0, 0, 0, 0]
    let s := collAt ws []
    posted s ws ∧ colFieldsOk s 0 0 ws = true ∧ colMembers s 0 0 (colRanks (tr0 ws)) = some [(Config.deviceNumber.toNat, 0), (0, 1)] ∧
    [(Config.deviceNumber.toNat, (0 : Fin 4)), (0, 1)][colMe (tr0 ws)]? = some (Config.deviceNumber.toNat, c0.die) ∧ coreCovers (getCl s c0) 0x900000 = false :=
  ⟨⟨by decide +kernel, by decide +kernel, by decide, rfl⟩, by decide +kernel, coll_members _ (by decide) _ (by decide), rfl, by decide +kernel⟩

theorem witness_colpost_full : let s := collAt coll0 posts32
    posted s coll0 ∧ colFieldsOk s 0 0 coll0 = true ∧ colMembers s 0 0 (colRanks (tr0 coll0)) = some [(Config.deviceNumber.toNat, 0), (0, 1)] ∧
    [(Config.deviceNumber.toNat, (0 : Fin 4)), (0, 1)][colMe (tr0 coll0)]? = some (Config.deviceNumber.toNat, c0.die) ∧
    (coreCovers (getCl s c0) 0x100000 = true ∧ coreCovers (getCl s c0) 0x100040 = true ∧ 32 ≤ (getEngine s (.collective 0)).queue.length) :=
  ⟨⟨by decide +kernel, by decide +kernel, by decide, rfl⟩, by decide +kernel, coll_members _ (by decide) _ (by decide), rfl, by decide +kernel⟩

theorem witness_colpost : let s := collAt coll0 []
    posted s coll0 ∧ colFieldsOk s 0 0 coll0 = true ∧ colMembers s 0 0 (colRanks (tr0 coll0)) = some [(Config.deviceNumber.toNat, 0), (0, 1)] ∧
    [(Config.deviceNumber.toNat, (0 : Fin 4)), (0, 1)][colMe (tr0 coll0)]? = some (Config.deviceNumber.toNat, c0.die) ∧
    (coreCovers (getCl s c0) 0x100000 = true ∧ coreCovers (getCl s c0) 0x100040 = true ∧ (getEngine s (.collective 0)).queue.length < 32) :=
  ⟨⟨by decide +kernel, by decide +kernel, by decide, rfl⟩, by decide +kernel, coll_members _ (by decide) _ (by decide), rfl, by decide +kernel⟩

theorem witness_nepost_bad : let s := engineAt copy0 die2 otherRanks
    posted s copy0 ∧ (getDie s 0).nectl.getLsbD 63 = true ∧ wrFieldsOk (getDie s 0) copy0 = false := ⟨by unfold posted; decide +kernel, by decide +kernel, by decide +kernel⟩

/-- An endpoint that is not valid. -/
theorem witness_nepost_refused : let s := engineAt send0 die2 []
    posted s send0 ∧ (getDie s 0).nectl.getLsbD 63 = true ∧ wrFieldsOk (getDie s 0) send0 = true ∧ wbit (epWord s 0 ((send0.getD 3 0).toNat / 2 ^ 32 % 256) 0) 63 = false :=
  ⟨by unfold posted; decide +kernel, by decide +kernel, by decide +kernel, by decide +kernel⟩

/-- What NEPOST asks for beside its fields. -/
def endpointOk (s : State) : Prop :=
  wbit (epWord s 0 ((send0.getD 3 0).toNat / 2 ^ 32 % 256) 0) 63 = true ∧ epCtx s 0 ((send0.getD 3 0).toNat / 2 ^ 32 % 256) = (getCl s c0).ctx ∧
  send0.getD 4 0 = 0 ∧ coreCovers (getCl s c0) (send0.getD 0 0) = true

/-- An engine that is off. -/
theorem witness_nepost_off : let s := engineAt send0 { die2 with nectl := 0xA001 } otherRanks
    posted s send0 ∧ (getDie s 0).nectl.getLsbD 63 = false :=
  ⟨by unfold posted; decide +kernel, by decide +kernel⟩

/-- An engine whose 256 requests are taken. -/
theorem witness_nepost_full : let s := engineAt send0 { die2 with wreqs := List.replicate 256 { num := 0, words := [], core := c0, ctx := 0 } } otherRanks
    posted s send0 ∧ (getDie s 0).nectl.getLsbD 63 = true ∧ wrFieldsOk (getDie s 0) send0 = true ∧ endpointOk s ∧ 256 ≤ (getDie s 0).wreqs.length :=
  ⟨by unfold posted; decide +kernel, by decide +kernel, by decide +kernel, by unfold endpointOk; decide +kernel, by decide +kernel⟩

theorem witness_nepost : let s := engineAt send0 die2 otherRanks
    posted s send0 ∧ wrFieldsOk (getDie s 0) send0 = true ∧ endpointOk s ∧ (getDie s 0).nectl.getLsbD 63 = true ∧ (getDie s 0).wreqs.length < 256 :=
  ⟨by unfold posted; decide +kernel, by decide +kernel, by unfold endpointOk; decide +kernel, by decide +kernel⟩

/-- NEPOLL of a request that waits, of one that is unknown and of one that is done. -/
theorem witness_nepoll :
    let s (y : Die) := engineAt [] y []
    let q : WorkReq := { num := 256, words := [], core := c0, ctx := 0 }
    (coreTurn (s { wreqs := [q] }) postW = true ∧ (getDie (s { wreqs := [q] }) 0).wreqs = [q] ∧ q.num = (0x100 : Word).toNat ∧
      q.ctx = (getCl (s { wreqs := [q] }) c0).ctx) ∧
    (coreTurn (s {}) postW = true ∧ (getDie (s {}) 0).wreqs = [] ∧ (getDie (s {}) 0).completed.find? (fun e => e.1 = 256 && e.2.1 = 0) = none) ∧
    (coreTurn (s { completed := [(256, 0, 1)] }) postW = true ∧ (getDie (s { completed := [(256, 0, 1)] }) 0).wreqs = [] ∧
      (getDie (s { completed := [(256, 0, 1)] }) 0).completed.find? (fun e => e.1 = 256 && e.2.1 = 0) = some (256, 0, 1)) := by decide +kernel

/-! ## Ranges, residency and tiers -/

/-- A die with a tier table at 0x8_0000 and a quota for partition 0; the residency map of context 0 has four pages, at 0xA_0000. -/
def die3 : Die := { tierbase := 0x8000_0000_0008_0000, quota := [(0, 2)], pctl := [(0, 0x1_0000_0000)], rkbase := [(0, 0x9000)] }
def tierMem (b0 : Byte) : Assoc Byte := [(0x80002, 0x0A), (0x80008, 4), (0x80017, 0x40), (0x8001C, 1), (0xA0000, b0)]

/-- An entry of context 0 that is not pinned: pages 0x10 to 0x13, at map indices 0 to 3, frames 0x20 to 0x23. -/
def entryT : RangeEntry := { base := 0x10000F, lim := 0x130000, pa := 0x200000, vo := 0 }

def rangeAt (regs : Assoc Word) (e : RangeEntry) (b0 : Byte) : State :=
  { setDie (coreState fun x => { x with regs := regs, ranges := [(0, e)] }) 0 die3 with mem := tierMem b0 }

/-- RangesAndResidency: RINV in tenant mode; its operands, illegal and legal, in each mode, with room and without. -/
theorem witness_rinv :
    let s (b : Word) := coreState fun x => { x with regs := [(2, b)], ranges := [(0, entry0)] }
    let w : CWord := { nullC with xd := 3, xb := 2 }
    coreTurn (coreState fun x => { x with mode := false }) w = true ∧ coreTurn (s 0) w = true ∧ (getCl (s 0) c0).mode = true ∧
    (0x300 : Word).toNat / 256 % 4 = 3 ∧ (0x3F : Word).toNat / 256 % 4 = 0 ∧ (0x3F : Word).toNat % 64 = 63 ∧
    (0x100 : Word).toNat / 256 % 4 = 1 ∧ (0xFF0200 : Word).toNat / 256 % 4 = 2 ∧ (0xFF0200 : Word).toNat / 2 ^ 16 % 256 = 255 ∧
    (0xFF0200 : Word).toNat / 2 ^ 24 = 0 ∧ (getCl (s 0) c0).shoots.length < 4 ∧ 4 ≤ (List.replicate 4 (⟨1, 0, 0, 0⟩ : Shoot)).length ∧
    entry0.pa.toNat / 2 ^ 52 % 256 = (ctxGen (s 0) 0 (entry0.pa.extractLsb' 40 12)).toNat ∧ (getDie (s 0) 0).reqs = [] ∧
    ({ entry0 with pa := 0x0010_0000_0020_0000 } : RangeEntry).pa.toNat / 2 ^ 52 % 256 ≠ (ctxGen (s 0) 0 0).toNat ∧
    afind (getDie (s 0) 0).reqs 255 = none := by decide +kernel

/-- RangesAndResidency: RESID of an address without an entry, of too many pages, of pages of a pinned and of an unpinned range. -/
theorem witness_resid :
    let w : CWord := { nullC with xd := 3, xa := 1, xb := 2, imm := 1 }
    let s (va n : Word) := rangeAt [(1, va), (2, n)] entryT 1
    coreTurn (s 0x120000 2) w = true ∧ w.imm.toNat % 4 ≠ 3 ∧ ({ w with imm := 3 } : CWord).imm.toNat % 4 = 3 ∧
    rangeFor (coreTable (getCl (s 0 1) c0)) 0 0x300000 = none ∧ rangeFor (coreTable (getCl (s 0 1) c0)) 0 0x120000 = some (0, entryT) ∧
    (0x120000 : Word).toNat / 2 ^ 16 + 2 - 1 ≤ entryT.lim.toNat / 2 ^ 16 ∧ ¬ ((0x120000 : Word).toNat / 2 ^ 16 + 3 - 1 ≤ entryT.lim.toNat / 2 ^ 16) ∧
    entryT.base.getLsbD 5 = false ∧ entry0.base.getLsbD 5 = true ∧
    (getDie (s 0 1) 0).tierbase.getLsbD 63 = true ∧ tierAddr (s 0 1) 0 0 + 64 ≤ mapAddr (s 0 1) 0 0 ∧ mapPages (s 0 1) 0 0 = 4 := by decide +kernel

/-- RangesAndResidency: a shoot-down that waits for a buffered store and one that does not; a gate that is met and one that is not. -/
theorem witness_shoots_and_gates :
    (let y : Shoot := ⟨1, 0, 0, 5⟩
     let s := coreState fun x => { x with shoots := [y] }
     let t := coreState fun x => { x with shoots := [y], sb := [⟨0, [1], 0, 4⟩] }
     s.here = .core c0 ∧ (getCl s c0).shoots = [y] ∧ shootWaits s c0 5 = false ∧ shootWaits t c0 5 = true) ∧
    (let x (n : Nat) : Launch := { run1 with lr := { blankRec with resmin := n }, st := .waiting }
     let s (n : Nat) (b : Byte) : State := { setDie (launchState (.launch l0) (x n)) 0 die3 with mem := tierMem b }
     (s 0 2).here = .launch l0 ∧ findLaunch (s 256 2) l0 = some (x 256) ∧ (x 256).gateOk = false ∧ gateMet (s 0 2) 0 0 0 = true ∧
     gateMet (s 256 2) 0 0 256 = false ∧ gateMet (s 256 3) 0 0 256 = true) := by decide +kernel

/-- A die's move at its turn. -/
def moveAt (m : TierMove) (b0 : Byte) (mem : Assoc Byte) : State :=
  { setDie (coreState fun x => { x with ranges := [(0, entryT)] }) 0 { die3 with moves := [m] } with here := .item 0 0, mem := mem ++ tierMem b0 }

/-- RangesAndResidency: a promotion of a resident page; one whose granules a peer has sent; demotions to withdraw, that wait for their frame, that the far tier
refuses, and whose granules a peer has taken. -/
theorem witness_moves :
    let up : TierMove := { up := true, ctx := 0, idx := 0, frame := 0x20, party := .want c0 }
    let down : TierMove := { up := false, ctx := 0, idx := 0, frame := 0x20, party := .want c0 }
    let gone : TierMove := { down with withdrawn := true }
    (moveAt up 1 []).here = .item 0 0 ∧ (getDie (moveAt up 1 []) 0).moves[0]? = some up ∧ moveWanted (moveAt up 1 []) 0 up = true ∧
    isResident (moveAt up 1 []) 0 0 0 = true ∧ isResident (moveAt down 1 []) 0 0 0 = true ∧
    (getDie (moveAt up 1 []) 0).moves.take 0 = [] ∧ movesBusy (getDie (moveAt down 1 []) 0) < 8 ∧
    (let come : TierMove := { up with away := some (5, 0x10000, []) }
     (getDie (moveAt come 0 []) 0).moves[0]? = some come ∧ staleFrames (moveAt come 0 []) 0 = [] ∧ parkedAll (moveAt come 0 []) = [] ∧
     tierAddr (moveAt come 0 []) 0 0 + 64 ≤ 0x20 * 65536 ∧ mapAddr (moveAt come 0 []) 0 0 < 0x20 * 65536) ∧
    (let sent : TierMove := { gone with away := some (5, 0x10000, []) }
     (getDie (moveAt sent 0 []) 0).moves[0]? = some sent ∧ frameBusy (moveAt sent 0 []) 0x20 = false) ∧
    frameBusy (updCl (moveAt gone 0 []) c0 fun x => { x with sb := [⟨0x200000, [1], 0, 0⟩] }) 0x20 = true ∧ frameBusy (moveAt gone 0 []) 0x20 = false ∧
    farPlace (moveAt gone 0 []) 0 0 0 = none := by decide +kernel

/-- RangesAndResidency: a demotion to a host, behind endpoint 0 of the network engine. -/
theorem witness_demotion_away :
    let gone : TierMove := { up := false, ctx := 0, idx := 0, frame := 0x20, party := .want c0, withdrawn := true }
    let s : State := { updDie (moveAt gone 0 []) 0 fun x => { x with nectl := 1 } with
      mem := [(0x80002, 0x0A), (0x80008, 4), (0x80017, 0x80), (0x8001C, 1)] }
    (getDie s 0).moves[0]? = some gone ∧ frameBusy s 0x20 = false ∧ farPlace s 0 0 0 = some (.away 2 0 0x1_0000_0000) := by decide +kernel

/-- RangesAndResidency: a promotion from a page of this package, whose far place names this device, with a free frame and quota. -/
theorem witness_promotion_own :
    let up : TierMove := { up := true, ctx := 0, idx := 0, frame := 0x20, party := .want c0 }
    let s := moveAt up 0 (let n := Config.deviceNumber.toNat
      [(0x9000, BitVec.ofNat 8 n), (0x9001, BitVec.ofNat 8 (n / 256)), (0x9002, BitVec.ofNat 8 (n / 65536)), (0x9007, 0x80)])
    (getDie s 0).moves[0]? = some up ∧ isResident s 0 0 0 = false ∧ farPlace s 0 0 0 = some (.own 0x1_0000_0000) ∧
    frameOf s 0 0 0 = some (0x20, 0x100000) ∧ afind (getDie s 0).frames 0x20 = none ∧
    aget 0 (getDie s 0).used (ctxPart s 0 0) < aget 0 (getDie s 0).quota (ctxPart s 0 0) ∧ parkedAll s = [] ∧
    staleFrames s 0 = [] ∧ up.req = none ∧ moveWanted s 0 up = true ∧ gateTurn s 0 0 up = true ∧ wantsVictim s 0 0 up = false ∧
    0 < looseFor s 0 (ctxPart s 0 0) 0 ∧ movesBusy (getDie s 0) < 8 ∧ (∀ n ∈ (getDie s 0).moves, n.away.isSome = false) ∧
    0x20 * 65536 + 65536 ≤ tierAddr s 0 0 + 0x200000 ∧ tierAddr s 0 0 + 64 ≤ 0x20 * 65536 ∧ mapAddr s 0 0 < 0x20 * 65536 := by
  intro up s
  have ha : fld (aget 0 (getDie s 0).rkbase (ctxPart s 0 0)) 38 3 * 8 + 8 * 0 = 0x9000 := by decide +kernel
  have h0 : rankOf s 0 0 0 = some (Config.deviceNumber.toNat, 0) := own_rank (by decide +kernel) (by rw [ha]; rfl)
  refine ⟨rfl, by decide +kernel, ?_, by decide +kernel, rfl, by decide +kernel, rfl, rfl, rfl, rfl, by decide +kernel, by decide +kernel, by decide +kernel⟩
  have h1 : fld (memWord s (tierAddr s 0 0 + 0x10)) 63 62 = 1 := by decide +kernel
  have h2 : fld (memWord s (tierAddr s 0 0 + 0x10)) 16 0 = 0 := by decide +kernel
  have h3 : (memWord s (tierAddr s 0 0 + 0x18) + word (65536 * 0)).toNat = 0x1_0000_0000 := by decide +kernel
  have h4 : (!wbit (getDie s 0).tierbase 63 || decide (mapPages s 0 0 ≤ 0)) = false := by decide +kernel
  simp only [farPlace, h1, h2, h3, h4, h0]
  rfl

/-- RangesAndResidency: a page of device 5, over port 0, which is up. Which device this is, and whether the port leads to device 5, are free values: the two
hypotheses name the ones that this state stands for. -/
theorem witness_moves_peer (hd : Config.deviceNumber.toNat ≠ 5) (hl : Config.linkReaches 0 0 5 = true) :
    let up : TierMove := { up := true, ctx := 0, idx := 0, frame := 0x20, party := .want c0 }
    let gone : TierMove := { up := false, ctx := 0, idx := 0, frame := 0x20, party := .want c0, withdrawn := true }
    let at_ (m : TierMove) := updDie (moveAt m 0 [(0x9000, 5), (0x9007, 0x80)]) 0 fun x => { x with yl := [(0, { st := 2 })] }
    farPlace (at_ up) 0 0 0 = some (.away 1 20 0x1_0000_0000) ∧ farPlace (at_ gone) 0 0 0 = some (.away 1 20 0x1_0000_0000) ∧
    frameOf (at_ up) 0 0 0 = some (0x20, 0x100000) ∧ isResident (at_ up) 0 0 0 = false ∧ moveWanted (at_ up) 0 up = true ∧
    gateTurn (at_ up) 0 0 up = true ∧ wantsVictim (at_ up) 0 0 up = false ∧ 0 < looseFor (at_ up) 0 (ctxPart (at_ up) 0 0) 0 ∧
    staleFrames (at_ up) 0 = [] ∧ movesBusy (getDie (at_ up) 0) < 8 ∧ frameBusy (at_ gone) 0x20 = false := by
  have far : ∀ m : TierMove, m = { up := true, ctx := 0, idx := 0, frame := 0x20, party := .want c0 } ∨
      m = { up := false, ctx := 0, idx := 0, frame := 0x20, party := .want c0, withdrawn := true } →
      let s := updDie (moveAt m 0 [(0x9000, 5), (0x9007, 0x80)]) 0 fun x => { x with yl := [(0, { st := 2 })] }
      farPlace s 0 0 0 = some (.away 1 20 0x1_0000_0000) := by
    intro m hm s
    have h0 : rankOf s 0 0 0 = some (5, 0) := by rcases hm with rfl | rfl <;> decide +kernel
    have h1 : fld (memWord s (tierAddr s 0 0 + 0x10)) 63 62 = 1 := by rcases hm with rfl | rfl <;> decide +kernel
    have h2 : fld (memWord s (tierAddr s 0 0 + 0x10)) 16 0 = 0 := by rcases hm with rfl | rfl <;> decide +kernel
    have h3 : (memWord s (tierAddr s 0 0 + 0x18) + word (65536 * 0)).toNat = 0x1_0000_0000 := by rcases hm with rfl | rfl <;> decide +kernel
    have h4 : (!wbit (getDie s 0).tierbase 63 || decide (mapPages s 0 0 ≤ 0)) = false := by rcases hm with rfl | rfl <;> decide +kernel
    have h5 : ylUp (getDie s 0) = [0] := by rcases hm with rfl | rfl <;> decide +kernel
    have h6 : keyPasses (getDie s 0) (ctxKey s 0 0) 0 = true := by rcases hm with rfl | rfl <;> decide +kernel
    have h7 : waysTo s 0 5 = [0] := by simp [waysTo, h5, hl]
    have h8 : (5 : Nat) ≠ Config.deviceNumber.toNat := fun e => hd e.symm
    simp only [farPlace, h1, h2, h3, h4, h0]
    show (if (5 : Nat) = Config.deviceNumber.toNat then some (Far.own 0x1_0000_0000)
      else if (waysTo s 0 5).any (fun p => keyPasses (getDie s 0) (ctxKey s 0 0) p.val) then some (Far.away 1 20 0x1_0000_0000) else none) = _
    rw [if_neg h8, h7, show ([0] : List (Fin 16)).any (fun p => keyPasses (getDie s 0) (ctxKey s 0 0) p.val) = true from by
      show (keyPasses (getDie s 0) (ctxKey s 0 0) 0 || false) = true; rw [h6]; rfl, if_pos rfl]
  refine ⟨far _ (.inl rfl), far _ (.inr rfl), by decide +kernel, by decide +kernel, by decide +kernel, by decide +kernel, by decide +kernel, by decide +kernel,
    by decide +kernel, by decide +kernel, by decide +kernel⟩

end Sys2Proof.Tests
end

