-- ==== Sys2Proof/Tests/WitnessObserve.lean ====
section
/-! SUPPORT. States and operands that meet the hypotheses of the statements about observation resources. -/
set_option Elab.async false
namespace Sys2Proof.Tests
open Sys2Proof Sys2Proof.Machine

/-! ## Counters, breakpoints, leases -/

/-- A core with counter number or unit in X2 and a selector or specification in X1. -/
def ctrAt (sel n : Word) (f : Cluster → Cluster) : State := coreState fun x => f { x with regs := [(1, sel), (2, n)] }

/-- The lease of the last resource held, by context 0. -/
def leased (k : Nat) (x : Cluster) : Cluster := { x with mode := false, leases := [(k, { held := true })] }

/-- ObservationResources: counters out of range and the last; selectors good and bad; without the lease; with an event that a guest may count and one that it
may not, with and without the trap; a lost lease. -/
theorem witness_counters :
    coreTurn (ctrAt 0 32 id) postW = true ∧ 32 ≤ (getX (getCl (ctrAt 0 32 id) c0) 2 + postW.imm).toNat ∧ coreTurn (ctrAt 0 31 id) postW = true ∧
    selOk (ctrAt 0 31 id) c0 0 = true ∧ selOk (ctrAt 0 31 id) c0 0x0100_0000_0000_0000 = false ∧
    (let s := ctrAt 0 31 fun x => { x with mode := false }
     coreTurn s postW = true ∧ holdsLease (getCl s c0) 3 = false ∧ (getCl s c0).mode = false ∧ lostLease (getCl s c0) 3 = false) ∧
    (let s := ctrAt 0 31 (leased 3)
     let t := ctrAt 0 31 fun x => { leased 3 x with gvctl := [(0, 1)] }
     let u := ctrAt 0 31 fun x => { leased 3 x with gevm := [(0, 1)] }
     holdsLease (getCl s c0) 3 = true ∧ eventAllowed (getCl s c0) 0 0 = false ∧ (aget 0 (getCl s c0).gvctl 0).getLsbD 0 = false ∧
     (aget 0 (getCl t c0).gvctl 0).getLsbD 0 = true ∧ eventAllowed (getCl u c0) 0 0 = true ∧ ctxPart s 0 0 = 0) ∧
    (let s := ctrAt 0 31 fun x => { x with mode := false, leases := [(3, { lost := [0] })] }
     lostLease (getCl s c0) 3 = true) ∧
    eventFilt 0 ≠ none ∧ eventFilt 0x0C = none := by decide +kernel

/-- ObservationResources: breakpoint units out of range and the last; specifications good and bad; with the lease and without. -/
theorem witness_breakpoints :
    coreTurn (ctrAt 0 4 id) postW = true ∧ 4 ≤ (getX (getCl (ctrAt 0 4 id) c0) 2 + postW.imm).toNat ∧ coreTurn (ctrAt 0 3 id) postW = true ∧
    (0 : Word).toNat / 2 ^ 48 % 2 ^ 14 = 0 ∧ (0 : Word).toNat / 2 ^ 34 % 4 ≠ 3 ∧ (0xC_0000_0000 : Word).toNat / 2 ^ 34 % 4 = 3 ∧
    holdsLease (getCl (ctrAt 0 3 id) c0) 9 = false ∧ holdsLease (getCl (ctrAt 0 3 (leased 9)) c0) 9 = true ∧
    coreTurn (ctrAt 0 3 (leased 9)) postW = true := by decide +kernel

/-- ObservationResources: requests of a free and of a held resource, in both modes; releases by its holder and by another. -/
theorem witness_leases :
    let at_ (f : Cluster → Cluster) : State := { coreState f with here := .lease c0 9 }
    (at_ id).here = .lease c0 9 ∧ (getCl (at_ fun x => { x with mode := false }) c0).mode = false ∧ (getLease (getCl (at_ id) c0) 9).held = false ∧
    (getLease (getCl (at_ (leased 9)) c0) 9).held = true ∧ (getCl (at_ (leased 9)) c0).mode = false ∧
    (let s := at_ fun x => { leased 9 x with mode := true }
     (getCl s c0).mode = true ∧ (getLease (getCl s c0) 9).held = true ∧ (getLease (getCl s c0) 9).hv = false ∧ holdsLease (getCl s c0) 9 = false) ∧
    (let s := at_ fun x => { x with mode := true, leases := [(9, { held := true, hv := true })] }
     (getCl s c0).mode = true ∧ (getLease (getCl s c0) 9).held = true ∧ (getLease (getCl s c0) 9).hv = true) ∧
    holdsLease (getCl (at_ (leased 9)) c0) 9 = true ∧
    (let y : Lease := { held := true, hv := true, wasFree := true, since := 0 }
     let s := at_ fun x => { x with mode := false, leases := [(9, y)] }
     (getCl s c0).mode = false ∧ getLease (getCl s c0) 9 = y ∧ y.since = s.clock) := by decide +kernel

/-! ## Cuts -/

/-- A core with a handle in X1 and a dump area in X2, the launch, and an edge port of its block on its tile. -/
def cutAt (y : Launch) (area : Word) (f : Cluster → Cluster) : State :=
  setLaunch { updTile (coreState fun x => f { x with ctx := 5, regs := [(1, 1), (2, area)] }) tl fun z => { z with owner := some 1 } with edges := [(edgeKey 5 0 0, (0, 0, .w))] } l0 y

/-- A launch of one tile. -/
def run0 : Launch := { run1 with lr := { blankRec with ctx := 5, cols := 0, rows := 0 } }

/-- ObservationResources: MCUT with a mode, limit and area that fit and do not; without a launch; resuming a region that is halted and one that is not; a
cut under way, a context in transition, and a cut that starts, with its edge port. -/
theorem witness_mcut :
    let w (imm : Word) : CWord := { nullC with xd := 3, xa := 1, xb := 2, imm := imm }
    let s := cutAt run0 0x100000 id
    coreTurn s (w 0x01000007) = true ∧ (0x01000007 : Word).toNat / 2 ^ 16 % 4 = 0 ∧ (0x01000007 : Word).toNat / 2 ^ 24 % 256 = 1 ∧
    (0x100000 : Word).toNat % 64 = 0 ∧ 0x40000 ≤ (0x100000 : Word).toNat ∧ (7 : Word).toNat / 2 ^ 24 % 256 = 0 ∧
    coreTurn (cutAt run0 0 id) (w 0x20000) = true ∧ (0x20000 : Word).toNat / 2 ^ 16 % 4 = 2 ∧ (0x01010007 : Word).toNat / 2 ^ 16 % 4 = 1 ∧
    myLaunch (ctrAt 2 0x100000 id) c0 2 = none ∧ myLaunch s c0 1 = some (l0, run0) ∧ run0.halted = false ∧ ({ run0 with halted := true } : Launch).halted = true ∧
    onCluster s c0 l0 run0 = true ∧ run0.cut = none ∧ run0.st = .running ∧ ctxState s 0 5 = 0 ∧
    (let y : Launch := { run0 with st := .boundary, choice := some 0x1000, cut := some { num := 7, stop := true, area := 0, limit := 1, source := 0, start := 0 } }
     myLaunch (cutAt y 0x100000 id) c0 1 = some (l0, y) ∧ y.st = .boundary ∧ y.choice ≠ none ∧ y.cut ≠ none) ∧
    (let y : Launch := { run0 with halted := true }
     let t := cutAt y 0 id
     myLaunch t c0 1 = some (l0, y) ∧ onCluster t c0 l0 y = true ∧ y.cut = none ∧ ctxState t 0 5 ≠ csSaving ∧ ctxState t 0 5 ≠ csRestoring) ∧
    edgeOf s l0 run0 0 = some (tl, .w) ∧ regionTiles l0 run0 = [tl] ∧ ((List.range 8).all fun p => p = 0 || (edgeOf s l0 run0 p).isNone) = true := by
  decide +kernel

/-- A region of two tiles in a cut. -/
def cut0 : Cut := { num := 7, stop := true, area := 0x100000, limit := 1, source := 0, start := 0 }
def run2 : Launch := { run1 with lr := { blankRec with ctx := 5, cols := 1, rows := 0 }, cut := some cut0 }

/-- ObservationResources: a tile of the cut that is to record, with a neighbour; a cut whose tiles are all done. -/
theorem witness_cut_moves :
    (let s := updTiles (launchState (.tile tl) run2) [tl, ⟨0, 0, 2⟩] fun y => { y with owner := some 1, cut := some { num := 7 } }
     s.here = .tile tl ∧ ownerOf s tl = some l0 ∧ findLaunch s l0 = some run2 ∧ run2.cut = some cut0 ∧ (getTile s tl).cut = some { num := 7 } ∧
     recordDue s tl = true ∧ insideNext s tl .e = some ⟨0, 0, 2⟩) ∧
    (let t := updTiles (launchState (.launch l0) run2) [tl, ⟨0, 0, 2⟩] fun y =>
       { y with owner := some 1, cut := some { num := 7, recorded := true, marked := List.range 64 } }
     t.here = .launch l0 ∧ findLaunch t l0 = some run2 ∧ run2.issuer = some c0 ∧ ((regionTiles l0 run2).all fun u => cutTileDone t u) = true) := by
  decide +kernel

end Sys2Proof.Tests
end

