-- ==== Sys2Proof/Tests/WitnessStreams.lean ====
section
/-! SUPPORT. States and operands that meet the hypotheses of the statements about configuration streams and router operators. -/
set_option Elab.async false
namespace Sys2Proof.Tests
open Sys2Proof Sys2Proof.Machine

/-! ## Streams -/

/-- A started load into plane 1, asked for by CFGLD, with words left and the commands seen. -/
def load1 (ws : List (BitVec 32)) (seen : List Nat) : Load := { pc := 0x1000, plane := 1, cfgld := true, started := true, words := ws, seen := seen }

/-- The launch of one tile with a load, at its loader. -/
def streamAt (y : Load) : State := launchState (.loader l0 y.plane) { run0 with loads := [y] }

/-- The words of a command, a stream command or a tile command of row 0, column 0; and an END after it. -/
def scmd (fn : Nat) (v : BitVec 16) : List (BitVec 32) := [streamWord fn v, streamWord 63 0]
def tcmd (row fn : Nat) (v : BitVec 16) : List (BitVec 32) := [BitVec.ofNat 5 row ++ 0#5 ++ BitVec.ofNat 6 fn ++ v, streamWord 63 0]

/-- The statement's first hypotheses at a state with one load, and that the load may be refused. -/
def loaderTurn (s : State) (y : Load) (x : Launch) : Bool :=
  s.here = .loader l0 y.plane && findLaunch s l0 = some x && theLoad x y.plane = some y && y.words ≠ [] && x.issuer = some c0 && y.cfgld && x.st ≠ .switching y.plane

/-- ConfigurationStreams: every load of the witnesses stands at its loader. -/
theorem witness_stream_turns :
    ([load1 (scmd 0 1) [], load1 (scmd 1 0) [], load1 (tcmd 0 0 5) [0], load1 (scmd 1 0) [62, 0], load1 (scmd 0 0) [0], load1 (scmd 1 0) [1, 0], load1 (scmd 1 4) [0],
      load1 (scmd 4 1) [0], load1 [streamWord 63 0] [62, 1, 0]].all fun y => loaderTurn (streamAt y) y { run0 with loads := [y] }) = true := by decide +kernel

/-- ConfigurationStreams: the order of a stream: BEGIN first, another command or a tile command first, one after CHECK, a second BEGIN, a command in order. -/
theorem witness_stream_order :
    decodeStream (scmd 0 1).head! = .beginStream true ∧ (scmd 0 1).tail ≠ [] ∧ isStreamCommand (.plane 0) = true ∧ decodeStream (scmd 1 0).head! = .plane 0 ∧
    ((scmd 1 0).head!.extractLsb' 16 6).toNat ≠ 0 ∧ isStreamCommand (.tileCommand 0 0 0 5) = true ∧ decodeStream (tcmd 0 0 5).head! = .tileCommand 0 0 0 5 ∧
    (tcmd 0 0 5).head!.extractLsb' 22 10 ≠ (0x3FF : BitVec 10) ∧ 62 ∈ (load1 (scmd 1 0) [62, 0]).seen ∧ ((scmd 1 0).head!.extractLsb' 16 6).toNat ≠ 63 ∧
    decodeStream (scmd 0 0).head! = .beginStream false ∧ [0] ≠ ([] : List Nat) ∧ 62 ∉ [0] ∧ (scmd 0 0).tail ≠ [] := by decide +kernel

/-- ConfigurationStreams: each command with a value that it takes and one that it refuses, at the ends of its range. -/
theorem witness_stream_commands :
    decodeStream (scmd 1 0).head! = .plane 0 ∧ 1 ∉ [0] ∧ 64 ∉ [0] ∧ 64 ∈ [64, 1, 0] ∧ decodeStream (scmd 1 4).head! = .plane 4 ∧ 4 ≤ (4 : BitVec 16).toNat ∧
    decodeStream (scmd 2 1).head! = .page 1 ∧ (1 : BitVec 16).toNat < 2 ∧ decodeStream (scmd 2 2).head! = .page 2 ∧ decodeStream (scmd 3 0x3FF).head! = .origin 31 31 ∧
    decodeStream (scmd 4 1).head! = .copies 1 ∧ (1 : BitVec 16).toNat = run0.lr.copies + 1 ∧ decodeStream (scmd 4 64).head! = .copies 64 ∧
    (64 : BitVec 16).toNat ≠ run0.lr.copies + 1 ∧ decodeStream (scmd 11 5).head! = .pc 3 5 ∧ decodeStream (scmd 62 0).head! = .check 0 ∧
    (0 : BitVec 16) = (load1 [] []).sum ∧ decodeStream (scmd 62 1).head! = .check 1 ∧ (1 : BitVec 16) ≠ (load1 [] []).sum ∧
    decodeStream (scmd 5 0).head! = .reservedStreamCommand (scmd 5 0).head! := by decide +kernel

/-- ConfigurationStreams: tile commands before PLANE, outside the block, with a bad field, and the last of the good ones. -/
theorem witness_stream_tiles :
    (0 : BitVec 16).toNat < 2 ∧ 1 ∉ [0] ∧ decodeStream (tcmd 0 0 5).head! = .tileCommand 0 0 0 5 ∧ 1 ∈ [1, 0] ∧
    decodeStream (tcmd 1 0 5).head! = .tileCommand 1 0 0 5 ∧ ¬ (1 < (load1 [] []).head.fh ∧ 0 < (load1 [] []).head.fw) ∧
    0 < (load1 [] []).head.fh ∧ 0 < (load1 [] []).head.fw ∧ decodeStream (tcmd 0 48 5).head! = .tileCommand 0 0 48 5 ∧ fieldBad 0 48 5 = true ∧
    decodeStream (tcmd 0 47 5).head! = .tileCommand 0 0 47 5 ∧ fieldBad 0 47 5 = false := by decide +kernel

/-- ConfigurationStreams: a tile's MODE of idle with slot 0 enabled, and compute mode with it, as page 1 takes them; fields that boxes and operators refuse. -/
theorem witness_stream_modes :
    let y : Load := { load1 (tcmd 0 16 0x301) [1, 0] with page := 1 }
    let s := streamAt y
    loaderTurn s y { run0 with loads := [y] } = true ∧ decodeStream (tcmd 0 16 0x301).head! = .tileCommand 0 0 16 0x301 ∧ fieldBad 1 16 0x301 = false ∧
    elementTiles l0 { run0 with loads := [y] } y.head 0 0 = [tl] ∧ modeBad tl 0x301 = true ∧ modeBad tl 0x001 = false ∧ fieldBad 1 16 0x001 = false ∧
    fieldBad 1 6 0xC000 = true ∧ fieldBad 1 5 6 = true ∧ fieldBad 1 8 1 = true ∧ fieldBad 1 7 0x5000 = true := by decide +kernel

/-- A load whose END is due: PC given, the plane cleared by a tile command. -/
def loadEnd : Load := { load1 [streamWord 63 0] [62, 64, 8, 9, 10, 11, 1, 0] with pcw := [(0, 0x1000), (1, 0), (2, 0), (3, 0)], cleared := true, nins := 1, head := { st := .loading, pc := 0x1000 } }

/-- The launch at its loader, with an FADD in slot 0 of plane 1. -/
def endState : State := updTile (streamAt loadEnd) tl fun x => { x with cfg := aput 0 (putFields x.cfg 128 0x2030031100000000) (128 + 64 + 16) 1 }

/-- ConfigurationStreams: END. -/
theorem witness_stream_end :
    loaderTurn endState loadEnd { run0 with loads := [loadEnd] } = true ∧ decodeStream (streamWord 63 0) = .endStream ∧ 62 ∈ loadEnd.seen ∧ 1 ∈ loadEnd.seen ∧
    loadEnd.pcw.length = 4 ∧ loadEnd.words.tail = [] ∧ loadEnd.cleared = true ∧ run0.lr.rows ≠ 31 ∧ loadEnd.pc.toNat % 64 = 0 ∧
    loadEnd.pc = word ((List.range 4).foldl (fun n k => n + (aget 0 loadEnd.pcw k).toNat * 2 ^ (16 * k)) 0) := by decide +kernel

theorem witness_stream_end_checks :
    (∀ e ∈ copyTiles l0 run0 1 1, tileCause e.1 (getTile endState e.1) 1 (loutsAt loadEnd.head e.2.1 e.2.2) = none) ∧
    loopBad endState ((copyTiles l0 run0 1 1).map (·.1)) 1 = none ∧ countIns endState l0 { run0 with loads := [loadEnd] } loadEnd.head 1 = 1 := by decide +kernel

/-! ## The start of a load, and modules -/

/-- A load not yet started; an image header of one instruction and 8 words at 0x10_0000; a core whose range 0 covers it for context 5. -/
def load0 : Load := { pc := 0x100000, plane := 1, cfgld := true }
def image0 : Assoc Byte := [(0x200002, 1), (0x200004, 0x4B), (0x200005, 0x42), (0x200006, 0x4D), (0x200007, 0x4F), (0x200008, 8)]
def loadStart (y : Load) (m : Assoc Byte) : State :=
  { setCl (launchState (.loader l0 1) { run0 with loads := [y] }) c0 { run := .running, ctx := 5, ranges := [(0, { entry0 with pa := 0x0000_0500_0020_0000 })] } with mem := m }

def lineGot (r : State × Line) : Option Payload := match r.2 with | .got p _ => some p | _ => none
def linesGot (r : State × Lines) : Option (List Payload) := match r.2 with | .got p _ => some p | _ => none

/-- ConfigurationStreams: a misaligned image, and one whose header and stream are fetched. -/
theorem witness_load_start :
    (let y : Load := { load0 with pc := 0x100001 }
     let s := loadStart y []
     s.here = .loader l0 1 ∧ findLaunch s l0 = some { run0 with loads := [y] } ∧ nextLoad s.clock { run0 with loads := [y] } 1 = some y ∧ y.cfgld = true ∧ run0.st ≠ .switching 1 ∧ run0.issuer = some c0 ∧ y.req = none ∧ y.pc.toNat % 64 ≠ 0) ∧
    (let s := loadStart load0 image0
     let x : Launch := { run0 with loads := [load0] }
     s.here = .loader l0 1 ∧ findLaunch s l0 = some x ∧ nextLoad s.clock x 1 = some load0 ∧ load0.req = none ∧ x.issuer = some c0 ∧ x.st ≠ .switching 1 ∧ load0.pc.toNat % 64 = 0 ∧
     outsideModule s l0 x load0.pc = false) := by decide +kernel

theorem witness_load_fetch :
    let s := loadStart load0 image0
    let t := loadTable s { run0 with loads := [load0] } load0
    let r := cfgLine s c0 true t 5 load0.pc
    (lineGot r).isSome = true ∧ (((lineGot r).bind (parseHeader load0.pc)).map fun h => (h.1.fh, h.1.fw, h.2.1, h.2.2)) = some (1, 1, 1, 8) ∧
    holds { run0 with loads := [load0] } 1 1 = true ∧ (linesGot (cfgLines c0 true t 5 ((4 * 8 + 63) / 64) (load0.pc + 64) r.1)).isSome = true := by decide +kernel

/-- ConfigurationStreams: modules: loaded; unloading with a launch of it and with none. -/
theorem witness_modules :
    let s (st : Nat) := { setDie State.reset 0 { modules := [(7, { st := st, gen := 3 })] } with here := .item 0 7 }
    (s modLoaded).here = .item 0 7 ∧ afind (getDie (s modLoaded) 0).modules 7 = some { st := modLoaded, gen := 3 } ∧ modLoaded ≠ modUnloading ∧
    afind (getDie (s modUnloading) 0).modules 7 = some { st := modUnloading, gen := 3 } ∧ (∀ e ∈ launchesOf (s modUnloading) 0, e.2.mod ≠ some 7) ∧
    (∃ e ∈ launchesOf (setLaunch (s modUnloading) l0 { run0 with mod := some 7 }) 0, e.2.mod = some 7) := by decide +kernel

end Sys2Proof.Tests
end

