-- ==== Sys2Proof/Tests/WitnessFabric.lean ====
section
/-! SUPPORT. States and operands that meet the hypotheses of the statements about router operators, links, queues and gates. -/
set_option Elab.async false
namespace Sys2Proof.Tests
open Sys2Proof Sys2Proof.Machine

/-! ## Router operators -/

/-- Operator 0 of the tile with a word and a state, at its turn. -/
def opAt (w : BitVec 32) (y : Op) : State :=
  updTile (launchState (.router tl 0) run0) tl fun x => { x with g0 := y, cfg := aput 0 (aput 0 x.cfg 70 (w.extractLsb' 0 16)) 71 (w.extractLsb' 16 16) }

/-- A queue with one token. -/
def qOf (t : Tok) : Queue := { items := [{ tok := t }] }
def dataQ : Queue := qOf (.vec (vt 5))
def headerQ (kind : BitVec 4) (key : BitVec 16) : Queue := qOf (.vec { plainTok 0 with kind := kind, key := key })

/-- The operator's word decodes to the instruction, nothing waits at its outputs and it has not stepped in the cycle. -/
def opTurn (w : BitVec 32) (y : Op) (i : Instr) : Bool :=
  let s := opAt w y
  let x := getTile s tl
  s.here = .router tl 0 && opInstr x 0 = some i && (getOp x 0).outT = none && (getOp x 0).outF = none && afind x.used (opUsed 0) ≠ some s.clock &&
    tileHalted s tl x = false && getOp x 0 = y

def steer0 : Instr := .steer (.link .w) .o3 (.link .e) (.link .s)
def carry0 : Instr := .carry .o0 (.link .n) .o3 (.link .e)
def inv0 : Instr := .inv .o0 .o3 (.link .e)
def merge0 : Instr := .merge .o0 .o1 .o3 (.link .e)

/-- RouterOperatorsStep: a token waiting at an output; STEER without a token, with data and each value of CIN and none, with a header token. -/
theorem witness_steer :
    opInstr (getTile (opAt 0x16214000 { outT := some (vt 5) }) tl) 0 = some steer0 ∧ (some (vt 5) : Option VTok) ≠ none ∧
    ([{}, { ina := dataQ, cin := qOf (.ctl true) }, { ina := dataQ, cin := qOf (.ctl false) }, { ina := dataQ }, { ina := headerQ kGap 3 }].all fun y =>
      opTurn 0x16214000 y steer0) = true ∧ headV {} = none ∧ headV dataQ = some (vt 5) ∧ countsAsData (vt 5) = true ∧ headC {} = none ∧
    headC (qOf (.ctl true)) = some true ∧ headC (qOf (.ctl false)) = some false ∧ (headV (headerQ kGap 3)).map countsAsData = some false := by decide +kernel

/-- RouterOperatorsStep: CARRY in both states, with what B and CIN may hold. -/
theorem witness_carry :
    ([{}, { ina := dataQ }, { loop := true, inb := headerQ kGap 3 }, { loop := true, inb := dataQ, cin := qOf (.ctl true) },
      { loop := true, inb := dataQ, cin := qOf (.ctl false) }, { loop := true, cin := qOf (.ctl false) }, { loop := true, cin := qOf (.ctl true) }].all fun y =>
        opTurn (wordG 2 (rinCode .o0) (rinCode (.link .n)) .o3 (routCode (.link .e)) 0) y carry0) = true := by decide +kernel

/-- RouterOperatorsStep: INV without a held value, with one, and each value of CIN. -/
theorem witness_inv :
    ([{}, { ina := dataQ }, { held := some (vt 5), cin := qOf (.ctl true) }, { held := some (vt 5), cin := qOf (.ctl false) }, { held := some (vt 5) }].all fun y =>
      opTurn (wordG 3 (rinCode .o0) 0 .o3 (routCode (.link .e)) 0) y inv0) = true := by decide +kernel

/-- RouterOperatorsStep: MERGE of paired header tokens; without a pair, each value of CIN with an owed count, with data, with a gap marker, with another
header token and with nothing. -/
theorem witness_merge :
    (([{ ina := headerQ kBarrier 3, inb := headerQ kBarrier 3 }, {}, { cin := qOf (.ctl true), owedA := 1 }, { cin := qOf (.ctl true), ina := dataQ },
      { cin := qOf (.ctl true), ina := headerQ kGap 3 }, { cin := qOf (.ctl true) }, { cin := qOf (.ctl false), owedB := 1 }, { cin := qOf (.ctl false), inb := dataQ },
      { cin := qOf (.ctl false), inb := headerQ kGap 3 }, { cin := qOf (.ctl false) }, { cin := qOf (.ctl true), ina := headerQ kBarrier 3 },
      { cin := qOf (.ctl false), inb := headerQ kBarrier 3 }] : List Op).all fun y => opTurn (wordG 4 (rinCode .o0) (rinCode .o1) .o3 (routCode (.link .e)) 0) y merge0) = true ∧
    (headV (headerQ kBarrier 3)).map countsAsData = some false ∧ (headV (headerQ kGap 3)).map (·.kind) = some kGap ∧ kBarrier ≠ kGap := by decide +kernel

/-! ## Links and local sources -/

/-- The tile with tokens on its N link; a vector token from N goes to queue 0 and on to S, a scalar or control token nowhere. -/
def linkAt (b : Parity) (toks : List (Tok × Nat)) (field : BitVec 16) (open_ : Bool) (clock : Nat) : State :=
  { updTile (updTile (launchState (.link tl .vector .n b) run0) tl fun x => { x with links := [(linkKey .vector .n, toks)], cfg := aput 0 x.cfg 64 field })
      ⟨0, 1, 1⟩ (fun x => { x with owner := if open_ then some 1 else none }) with clock := clock }

theorem unheard_of_lone_core (s : State) (h : s.clusters = []) (c : ClusterId) : (getCl s c).traces = [] ∧ (getCl s c).bps = [] := by
  rw [getCl, h]; exact ⟨rfl, rfl⟩

/-- NetworkAndQueueMoves: tokens that have not arrived; that have, for an open link and a queue, with a reserved KIND, for a guarded link, with a parity error. -/
theorem witness_forward :
    let t : Tok := .vec (vt 5)
    let r : Tok := .vec { plainTok 0 with kind := 15 }
    let s := linkAt .ok [(t, 0)] 33 true 1
    s.here = .link tl .vector .n .ok ∧ aget [] (getTile s tl).links (linkKey .vector .n) = [(t, 0)] ∧ markDue s tl .vector .n = false ∧ (getTile s tl).cut = none ∧
    (linkAt .ok [(t, 0)] 33 true 0).clock ≤ 0 ∧ 0 < s.clock ∧ reservedKind t = false ∧ s.clusters = [] ∧
    linkDests (getTile s tl) .vector .n = ⟨[.s], some 0, []⟩ ∧ guardOf s tl .vector .s = none ∧ portAtLink s tl .s = none ∧
    reservedKind r = true ∧ markDue (linkAt .ok [(r, 0)] 33 true 1) tl .vector .n = false ∧
    (let g := linkAt .ok [(t, 0)] 32 false 1
     linkDests (getTile g tl) .vector .n = ⟨[.s], none, []⟩ ∧ guardOf g tl .vector .s = some 1 ∧ aget 0 (getTile g tl).drops (linkKey .vector .s) < 65534) ∧
    (linkAt .payload [(t, 0)] 33 true 1).here = .link tl .vector .n .payload := by decide +kernel

/-- NetworkAndQueueMoves: a marker on a vector link, good and failing its check, in a tile that has recorded, that has not, and that is in no cut. -/
theorem witness_forward_mark :
    let m : Tok := markTok 7
    let s (b : Parity) (c : Option CutTile) : State := updTile (linkAt b [(m, 0)] 33 true 1) tl fun x => { x with cut := c }
    ([none, some { num := 7 }, some { num := 7, recorded := true }].all fun c =>
      aget [] (getTile (s .ok c) tl).links (linkKey .vector .n) = [(m, 0)] && markDue (s .ok c) tl .vector .n && decide ((getTile (s .ok c) tl).cut = c)) = true ∧
    markGood .vector .ok = true ∧ markGood .vector .payload = false ∧ (s .payload none).here = .link tl .vector .n .payload := by decide +kernel

/-- Result buffers of the PE's ports 0 and 1 hold a token, both bound for S. -/
def sourceAt (src : LocalSrc) : State :=
  updTile (updTile (launchState (.source tl src) run0) tl fun x =>
    { x with outs := [(0, [.vec (vt 5)]), (1, [.vec (vt 6)])], cfg := aput 0 (aput 0 (aput 0 x.cfg 64 0) 65 0) 66 0, g0 := { outT := some (vt 7) } })
    ⟨0, 1, 1⟩ (fun x => { x with owner := some 1 })

/-- Its switch box sends O0 and O1 to S. -/
def sourceBoxed (src : LocalSrc) : State :=
  updTile (sourceAt src) tl fun x => { x with cfg := aput 0 (aput 0 x.cfg 65 (BitVec.ofNat 16 (32 * 2 ^ 12))) 66 (BitVec.ofNat 16 (32 * 2 ^ 28 / 2 ^ 32 + 32 * 2 ^ 3)) }

/-- NetworkAndQueueMoves: a source that sends, of the PE and of an operator, and one that waits for a link, or whose buffer has sent in the cycle. -/
theorem witness_local_send :
    (let s := sourceBoxed (.pe 0)
     s.here = .source tl (.pe 0) ∧ localTok (getTile s tl) (.pe 0) = some (.vec (vt 5)) ∧ reservedKind (.vec (vt 5)) = false ∧ ableSend s (getTile s tl) (.pe 0) = true ∧
     winsLinks s (getTile s tl) (.pe 0) = true ∧ localNet (.pe 0) = .vector ∧ s.clusters = [] ∧ (localDests (getTile s tl) (.pe 0)) = ⟨[.s], none, []⟩ ∧
     guardOf s tl .vector .s = none ∧ portAtLink s tl .s = none) ∧
    (let s := sourceBoxed (.pe 1)
     localTok (getTile s tl) (.pe 1) = some (.vec (vt 6)) ∧ winsLinks s (getTile s tl) (.pe 1) = false) ∧
    (let s := updTile (sourceBoxed (.pe 0)) tl fun x => { x with used := [(srcUsed 0, 0)] }
     ableSend s (getTile s tl) (.pe 0) = false) ∧
    (let s := sourceAt (.op 0 true)
     localTok (getTile s tl) (.op 0 true) = some (.vec (vt 7)) ∧ ableSend s (getTile s tl) (.op 0 true) = true ∧ winsLinks s (getTile s tl) (.op 0 true) = true ∧
     (localDests (getTile s tl) (.op 0 true)).links = []) := by decide +kernel

/-! ## Queues -/

/-- Queue 0 of the tile with a descriptor and shed parameters. -/
def queueState (desc f14 : BitVec 16) (q : Queue) (clock : Nat) : State :=
  { updTile (launchState (.queue ⟨tl, 0⟩) run0) tl fun x => setQ { x with cfg := aput 0 (aput 0 x.cfg 74 desc) 78 f14 } 0 q with clock := clock }

/-- The hypotheses that the arrivals share. -/
def queueTurn (s : State) : Bool :=
  let x := getTile s tl
  s.here = .queue ⟨tl, 0⟩ && x.active = some 0 && issuer s tl = none && hdrDue s.clock (getQ x 0) = false && liveOut s tl 0 = none && capW s tl x 0 0 = 0 &&
    (getQ x 0).pend.count = 0 && (getQ x 0).head.count = 0

/-- A queue of depth 4 with n data tokens, and one arriving. -/
def arriving (n : Nat) (t : Tok) : Queue := { items := List.replicate n { tok := .vec (vt 5) }, arr := [t] }
def arrAt (desc f14 : BitVec 16) (n : Nat) (t : Tok) : State := queueState desc f14 (arriving n t) 0

/-- NetworkAndQueueMoves: a record that finds a place; a token that is no record, into the slack and beyond it; records of each policy without a place: GATE between
high-water mark and depth and at the depth, DROPNEW, DROPOLD, SAMPLE (each outcome of its register), MERGE and NARROW. -/
theorem witness_arrivals :
    ([arrAt 0 0 3 (.vec (vt 5)), arrAt 0 0 7 (.sca ⟨1, 0⟩), arrAt 0 0 8 (.sca ⟨1, 0⟩), arrAt 1 0 2 (.vec (vt 5)), arrAt 0 0 4 (.vec (vt 5)), arrAt 32 0 4 (.vec (vt 5)),
      arrAt 64 0 4 (.vec (vt 5)), arrAt 96 0 4 (.vec (vt 5)), arrAt 128 0 4 (.vec (vt 5)), arrAt 160 0 4 (.vec (vt 5))].all queueTurn) = true ∧
    isRecord (.vec (vt 5)) = true ∧ isRecord (.sca ⟨1, 0⟩) = false ∧
    (let c (d : BitVec 16) := queueCfg (arrAt d 0 4 (.vec (vt 5))) tl (getTile (arrAt d 0 4 (.vec (vt 5))) tl) 0 0
     ((c 0).policy, (c 0).depth, (c 0).hw) = (0, 4, 4) ∧ (c 1).hw = 2 ∧ (c 32).policy = 1 ∧ (c 64).policy = 2 ∧ (c 96).policy = 3 ∧ (c 128).policy = 4 ∧ (c 160).policy = 5) := by
  decide +kernel

/-- A MERGE queue whose youngest entry is no vector token. -/
def arrTail : State := queueState 128 0 { items := List.replicate 4 { tok := .sca ⟨1, 0⟩ }, arr := [.vec (vt 5)] } 0

/-- NetworkAndQueueMoves: what DROPOLD, SAMPLE, MERGE and NARROW decide by. -/
theorem witness_policies :
    (let s := queueState 64 0 { items := [{ tok := .vec { plainTok 0 with kind := kGap } }], arr := [.vec (vt 5)] } 0
     queueTurn s = true ∧ (getQ (getTile s tl) 0).items.length = 1 ∧ countsAsData { plainTok 0 with kind := kGap } = false) ∧
    (let s := queueState 64 0 (arriving 5 (.vec (vt 5))) 0
     queueTurn s = true ∧ (queueCfg s tl (getTile s tl) 0 0).depth = 4 ∧ (getQ (getTile s tl) 0).items.tail.length = 4 ∧
     (arriving 4 (.vec (vt 5))).items.tail.length = 3) ∧
    (let s := queueState 65 0 { items := List.replicate 2 { tok := .vec { plainTok 0 with kind := kGap } }, arr := [.vec (vt 5)] } 0
     queueTurn s = true ∧ ¬ (2 < (queueCfg s tl (getTile s tl) 0 0).hw)) ∧
    (lfsrStep 0).toNat % 2 ^ 1 = 0 ∧ (lfsrStep 0x8000).toNat % 2 ^ 1 ≠ 0 ∧ countsAsData (vt 5) = true ∧
    mergeable { tok := .vec { vt 5 with fmt := 6 } } { vt 5 with fmt := 6 } = true ∧ mergeable { tok := .vec (vt 5) } (vt 5) = false ∧
    (let s := arrTail
     queueTurn s = true ∧ (queueCfg s tl (getTile s tl) 0 0).policy = 4 ∧ (getQ (getTile s tl) 0).items.getLast? = some { tok := .sca ⟨1, 0⟩ }) ∧
    narrowTok false (vt 5) = none ∧ (narrowTok false { vt 5 with fmt := 6 }).isSome = true := by decide +kernel

/-- NetworkAndQueueMoves: a pending gap that is due; a packet header at the head. -/
theorem witness_gap_and_header :
    (let s := queueState 0 0 { pend := ⟨1, 0, false, false, 0⟩ } 1
     s.here = .queue ⟨tl, 0⟩ ∧ (getTile s tl).active = some 0 ∧ capW s tl (getTile s tl) 0 0 = 0 ∧ gapDue s.clock (getQ (getTile s tl) 0) = true) ∧
    (let v := { plainTok 0 with kind := kPkthdr }
     let s := queueState 0 0 { items := [{ tok := .vec v }] } 1
     headOf (getQ (getTile s tl) 0) = some (.vec v) ∧ v.kind = kPkthdr ∧ (getQ (getTile s tl) 0).headAt < s.clock ∧ tileHalted s tl (getTile s tl) = false ∧
     (let h := setLaunch s l0 { run0 with halted := true }
      tileHalted h tl (getTile h tl) = true ∧ capW h tl (getTile h tl) 0 0 = 0 ∧ (getTile h tl).active = some 0)) := by decide +kernel

/-! ## Slots and gates -/

/-- A gap marker at the head of the queue of an FADD's first operand, with and without GP. -/
def gapAt (gp : Bool) : State :=
  slotState (nodeInstr .fadd { nullN with ty := .f32, sa := .queue 0, sb := .queue 1, out := 1, gp := gp }) 0 [(0, .vec { plainTok 0 with kind := kGap, key := 3 })]

/-- NetworkAndQueueMoves: a lone gap marker that is forwarded and one that is not; a slot whose oldest results have a place, wait for one, and are not there yet. -/
theorem witness_lone_and_results :
    ([true, false].all fun gp =>
      let s := gapAt gp
      let x := getTile s tl
      (want s tl x 0 = .lone 0 0) && ((slotInstr x 0).map fun i => decide (useOf (view i) 0 (seenHead x 0) = (if gp then .forward else .stray))) = some true &&
        issuer s tl = some 0 && capW s tl x 0 0 = 0) = true ∧
    (let s (f : Firing) (n : Nat) : State := updTile (gapAt false) tl fun x => setSlot { x with outs := [(0, List.replicate n (.vec (vt 5)))] } 0 { pipe := [f] }
     let f : Firing := results [(0, .vec (vt 5))]
     pipeOf (s f 3) s0 = [f] ∧ f.ready = true ∧ fits (getTile (s f 3) tl) f.ems = true ∧ fits (getTile (s f 4) tl) f.ems = false ∧
     passedBy (s f 3) (getTile (s f 3) tl) 0 = false ∧ tileHalted (s f 3) tl (getTile (s f 3) tl) = false ∧
     pipeOf (s { f with ready := false } 0) s0 = [{ f with ready := false }]) := by decide +kernel

/-- NetworkAndQueueMoves: a gate that is to close, one that is to open; a quiet launch with its record due and written, and one that is not quiet. -/
theorem witness_gates_and_quiet :
    let w : Launch := { run0 with stop := true, gateDue := some 0 }
    let g : Launch := { run0 with gate := true, gateDue := some 0 }
    let q (n : Nat) (d : Bool) : Launch := { run0 with quiet := n, qwcDone := d }
    let s (x : Launch) := launchState (.launch l0) x
    (s w).here = .launch l0 ∧ findLaunch (s w) l0 = some w ∧ w.issuer = some c0 ∧ gateWanted (s w) l0 w = true ∧ w.gate = false ∧ 0 ≤ (s w).clock ∧
    (let v : Launch := { w with gateDue := some 1 }; findLaunch (s v) l0 = some v ∧ gateWanted (s v) l0 v = true ∧ v.gate = false ∧ (s v).clock < 1) ∧
    (let v : Launch := { g with gateDue := some 1 }; findLaunch (s v) l0 = some v ∧ gateWanted (s v) l0 v = false ∧ v.gate = true ∧ (s v).clock < 1) ∧
    findLaunch (s g) l0 = some g ∧ gateWanted (s g) l0 g = false ∧ g.gate = true ∧
    findLaunch (s (q 1 false)) l0 = some (q 1 false) ∧ 2 ^ (q 1 false).lr.qwin ≤ (q 1 false).quiet ∧ closers (s (q 1 false)) l0 (q 1 false) = [] ∧
    (q 0 false).quiet < 2 ^ (q 0 false).lr.qwin ∧ (q 1 true).qwcDone = true ∧ findLaunch (s (q 1 true)) l0 = some (q 1 true) := by decide +kernel

end Sys2Proof.Tests
end

