-- ==== Sys2Proof/Tests/WitnessLaunches.lean ====
section
/-! SUPPORT. States and operands that meet the hypotheses of the statements about threads, phases, planes and bound streams. -/
set_option Elab.async false
namespace Sys2Proof.Tests
open Sys2Proof Sys2Proof.Machine

/-! ## Threads -/

/-- A thread in flight in the block at 0x1000, and a launch with it and a block without live-outs. -/
def thread0 (e : Option Exit) (joins : Nat) : Thread := { pc := 0x1000, t := [1, 2, 3, 4], entered := [1, 2, 3, 4], st := .flight, exit := e, joins := joins }
def runT (y : Thread) : Launch := { run0 with planes := [(0, { st := .resident, pc := 0x1000, crec := true })], threads := [(0, y)] }
def threadAt (y : Thread) : State := launchState (.thread l0 0) (runT y)

/-- ThreadsPhasesAndStreams: a thread that may not retire; threads that end, with and without joins, hold, join another block and stay in their own. -/
theorem witness_retire :
    (let y := { thread0 none 0 with st := .waiting }
     findLaunch (threadAt y) l0 = some (runT y) ∧ findThread (runT y) 0 = some y ∧ mayRetire (threadAt y) l0 (runT y) 0 y = false) ∧
    ([thread0 none 0, thread0 (some .stop) 2, thread0 (some (.go 0x2000 true)) 0, thread0 (some (.go 0x2000 true)) 1, thread0 (some (.go 0x2000 false)) 0,
      thread0 (some (.go 0x1000 false)) 0].all fun y =>
      let s := threadAt y
      decide (s.here = .thread l0 0 ∧ findLaunch s l0 = some (runT y) ∧ findThread (runT y) 0 = some y ∧ (runT y).active = some 0 ∧ (runT y).issuer = some c0 ∧ y.fatal = false ∧
        0 ∉ (runT y).stopThr) && mayRetire s l0 (runT y) 0 y) = true ∧
    (getPlane (runT (thread0 none 0)) 0).pc = 0x1000 ∧ (runT (thread0 none 0)).table = [] ∧ (runT (thread0 none 0)).overflow = [] := by decide +kernel

/-- ThreadsPhasesAndStreams: the one thread that a STOP drain names, its region drained; and one that nothing makes due. -/
theorem witness_stop_due :
    let y := thread0 none 0
    let x : Launch := { runT y with stop := true, gate := true, stopThr := [0] }
    let s := launchState (.thread l0 0) x
    s.here = .thread l0 0 ∧ findLaunch s l0 = some x ∧ findThread x 0 = some y ∧ x.active = some 0 ∧ x.issuer = some c0 ∧ stopDue s l0 x 0 y = true ∧ x.stopThr = [0] ∧
    (∀ e ∈ x.threads, e.1 < 256) ∧ stopDue (threadAt { y with st := .waiting }) l0 (runT { y with st := .waiting }) 0 { y with st := .waiting } = false := by decide +kernel

/-! ## Launches, phases, planes -/

/-- Context 5 is RUNNING, in partition 0, which is two tiles by two. -/
def live5 (s : State) : State := { setDie s 0 { die1 with prect := [(0, 0x8000000000000041)] } with mem := [(0x40147, 0x10)] }

/-- Its SLICE DEBT is 50 us (R334). -/
def inDebt (s : State) : State := { s with mem := [(0x40147, 0x10), (0x40148, BitVec.ofNat 8 (50 * Config.cyclesPerUs)), (0x40149, BitVec.ofNat 8 (50 * Config.cyclesPerUs / 256)),
  (0x4014A, BitVec.ofNat 8 (50 * Config.cyclesPerUs / 65536))] }

/-- A launch that waits for one tile of a die with none taken. -/
def waiting1 : Launch := { run0 with lr := { run0.lr with quant := 50 }, st := .waiting, corner := none, active := none, threads := [], planes := [] }

/-- ThreadsPhasesAndStreams: a launch whose rectangle is free; one that does not wait; one for which there is no rectangle. -/
theorem witness_place :
    (let s := live5 (setLaunch { State.reset with here := .launch l0 } l0 waiting1)
     s.here = .launch l0 ∧ findLaunch s l0 = some waiting1 ∧ waiting1.issuer = some c0 ∧ waiting1.st = .waiting ∧ ctxState s 0 5 = 1 ∧ servedBefore s 0 (launchTurn waiting1) = false ∧
     cornerNow s l0 waiting1 = some (0, 0) ∧ ctxDebt s 0 5 < 50 * Config.cyclesPerUs ∧ waiting1.gateOk = false ∧
     (let x : Launch := { waiting1 with gateOk := true }
      let s := setLaunch s l0 x
      findLaunch s l0 = some x ∧ ctxState s 0 5 = 1 ∧ servedBefore s 0 (launchTurn x) = false ∧ cornerNow s l0 x = some (0, 0)) ∧
     50 * Config.cyclesPerUs ≤ ctxDebt (inDebt s) 0 5 ∧ ctxState (inDebt s) 0 5 = 1 ∧ servedBefore (inDebt s) 0 (launchTurn waiting1) = false ∧
     cornerNow (inDebt s) l0 waiting1 = some (0, 0)) ∧
    run0.st ≠ .waiting ∧ cornerNow (setLaunch State.reset l0 waiting1) l0 waiting1 = none := by decide +kernel

/-- A launch at a boundary whose chosen block is at 0x3000. -/
def bound0 : Launch := { run0 with st := .boundary, choice := some 0x3000, planes := [(0, { st := .resident, pc := 0x1000 })] }

/-- Its planes that are not active are all being loaded. -/
def busyPlanes : Assoc Plane := [(0, { st := .resident, pc := 0x1000 }), (1, { st := .loading }), (2, { st := .loading }), (3, { st := .loading })]

/-- ThreadsPhasesAndStreams: a chosen block that needs a plane, with one to take and with none. -/
theorem witness_scheduler_load :
    bound0.st = .boundary ∧ bound0.choice = some 0x3000 ∧ haveBlock bound0 0x3000 = false ∧ takePlane bound0 false = some 1 ∧
    haveBlock { bound0 with planes := busyPlanes } 0x3000 = false ∧ takePlane { bound0 with planes := busyPlanes } false = none := by decide +kernel

/-- A running launch whose threads have all retired, and one with a thread waiting at 0x3000, which plane 1 holds or does not. -/
def ended1 : Launch := { run0 with threads := [] }
def waits1 (resident : Bool) : Launch :=
  { run0 with threads := [(0, { pc := 0x3000, t := [] })], table := [⟨0x3000, [0], 0⟩], planes := [(0, { st := .resident, pc := 0x1000 }), (1, { st := if resident then .resident else .invalid, pc := 0x3000 })] }

/-- ThreadsPhasesAndStreams: a phase that is not over; one that ends its launch; one that ends with a block to choose, resident or not, and with none. -/
theorem witness_phase_end :
    let s (x : Launch) := live5 (launchState (.launch l0) x)
    phaseOver (s run0) l0 run0 = false ∧ run0.st = .running ∧
    ([ended1, waits1 true, waits1 false, { ended1 with threads := [(0, { pc := 0, t := [], st := .holding })] }].all fun x =>
      decide (findLaunch (s x) l0 = some x ∧ x.st = .running ∧ phaseOver (s x) l0 x = true ∧ (∀ u ∈ regionTiles l0 x, (getTile (s x) u).drops = []) ∧
        (getCl (s x) c0).ivbase.getLsbD 0 = false ∧ x.drainAt = none ∧ x.stopThr = [] ∧ x.drained = [] ∧ ctxState (s x) 0 5 = 1 ∧ (getDie (s x) 0).armed = [] ∧ x.dsel = none)) = true ∧
    liveThreads ended1 = 0 ∧ outsDone ended1 = true ∧ liveThreads (waits1 true) ≠ 0 ∧ chooseRow (waits1 true) = some ⟨0x3000, [0], 0⟩ ∧ planeOf (waits1 true) 0x3000 = some 1 ∧
    planeOf (waits1 false) 0x3000 = none ∧ liveThreads { ended1 with threads := [(0, { pc := 0, t := [], st := .holding })] } ≠ 0 ∧
    chooseRow { ended1 with threads := [(0, { pc := 0, t := [], st := .holding })] } = none := by decide +kernel

/-- ThreadsPhasesAndStreams: a launch at a boundary that waited for a thread, with a thread to choose, with a decision for a plane; a running one with a decision. -/
theorem witness_boundary :
    let s (x : Launch) := live5 (launchState (.launch l0) x)
    let b : Launch := { waits1 true with st := .boundary }
    ([b, { b with dsel := some (.plane 1) }].all fun x =>
      decide (findLaunch (s x) l0 = some x ∧ x.st = .boundary ∧ liveThreads x ≠ 0 ∧ ctxState (s x) 0 5 = 1) && phaseEndDue (s x) l0 x) = true ∧
    (getPlane b 1).st ≠ .invalid ∧ phaseEndDue (s { b with halted := true }) l0 { b with halted := true } = false ∧
    (let x : Launch := { waits1 true with dsel := some (.plane 1) }
     findLaunch (s x) l0 = some x ∧ phaseOver (s x) l0 x = true ∧ liveThreads x ≠ 0 ∧ x.stopThr = [] ∧ x.drained = [] ∧ (getPlane x 1).st ≠ .invalid) := by decide +kernel

/-- A launch that switches to plane 1, with a waiting thread. -/
def switching1 : Launch := { waits1 true with st := .switching 1, choice := some 0x3000 }

/-- ThreadsPhasesAndStreams: a switch with the context running and not, and one that waits for an out-stream. -/
theorem witness_plane_switch :
    let s := live5 (launchState (.launch l0) switching1)
    findLaunch s l0 = some switching1 ∧ switchTo switching1 = .take 1 ∧ outsWritten switching1 = true ∧ ctxState s 0 5 = 1 ∧
    ctxState (launchState (.launch l0) switching1) 0 5 ≠ 1 ∧ outsWritten { switching1 with streams := [(8, { queue := [.vec (vt 5)] })] } = false ∧
    switching1.cut = none ∧ switching1.halted = false ∧ (getCl s c0).ivbase.getLsbD 0 = false ∧ ({ switching1 with halted := true } : Launch).halted = true ∧
    (let x : Launch := { switching1 with dsel := some (.plane 2) }; switchTo x = .lost 2) ∧
    (let t := setCl s c0 { ivbase := 0x100001, ivcfg := 0x5005, ranges := [(0, { entry0 with pa := 0x0000_0000_0020_0000 })] }
     findLaunch t l0 = some switching1 ∧ ctxState t 0 5 = 1 ∧ switching1.active = some 0 ∧ (getCl t c0).ivbase.getLsbD 0 = true ∧ (getCl t c0).ivcfg.toNat % 4096 = 5 ∧
     parkedAll t = [] ∧ translate t 0 (coreTable (getCl t c0)) 0 0x100000 .w = .ok 0x200000 0 none) ∧
    switchTo run0 = .wait ∧ switchTo { switching1 with choice := some 0x4000 } = .again ∧
    (getPlane switching1 1).pc = 0x3000 ∧ findThread switching1 0 = some { pc := 0x3000, t := [] } := by decide +kernel

/-- ThreadsPhasesAndStreams: a pending RSW on quiet links and on a link with a token. -/
theorem witness_rsw_apply :
    let r : RswReq := { hot := false, plane := 0, cmds := [(tileKey tl, 2, 0x311)] }
    let x : Launch := { run0 with rsws := [r] }
    let s := launchState (.launch l0) x
    s.here = .launch l0 ∧ findLaunch s l0 = some x ∧ r.hot = false ∧ (∀ u ∈ regionTiles l0 x, ∀ e ∈ (getTile s u).links, e.2 = []) ∧
    (r.cmds.map fun e => (({ tileOfKey e.1 with die := l0.die } : TileId), e.2.1)).Nodup ∧ (∀ e ∈ r.cmds, e.2.1 < 64) ∧ regionTiles l0 x = [tl] ∧
    (let t := updTile s tl fun y => { y with links := [(0, [(.vec (vt 5), 0)])] }
     findLaunch t l0 = some x ∧ (getTile t tl).links = [(0, [(.vec (vt 5), 0)])]) := by decide +kernel

/-- ThreadsPhasesAndStreams: a pending hot RSW at its tile, whose switch box is idle, and whose switch box has a token to forward. -/
theorem witness_rsw_hot :
    let r : RswReq := { hot := true, plane := 0, cmds := [(tileKey tl, 2, 0x311)] }
    let x : Launch := { run0 with rsws := [r] }
    let s := launchState (.tile tl) x
    s.here = .tile tl ∧ ownerOf s tl = some l0 ∧ findLaunch s l0 = some x ∧ x.rsws = [r] ∧ boxIdle s (getTile s tl) (rswNet 2) = true ∧
    (let t : State := { updTile s tl fun y => { y with links := [(linkKey .vector .w, [(.vec (vt 5), 0)])] } with clock := 1 }
     ownerOf t tl = some l0 ∧ findLaunch t l0 = some x ∧ boxIdle t (getTile t tl) (rswNet 2) = false) := by decide +kernel

/-! ## Bound streams -/

/-- A launch with a stream at a port whose range it holds, and the listing of the block's edge ports. -/
def streamed (p : Fin 16) (y : Stream) : Launch := { run0 with streams := [(p.val, y)], portSet := [⟨{ entry0 with pa := 0x0000_0500_0020_0000 }, 0⟩] }
def edgeState (p : Fin 16) (y : Stream) (f : Launch → Launch) : State :=
  { launchState (.edge l0 p) (f (streamed p y)) with edges := [(edgeKey 5 0 p.val, (0, 0, .w))] }

/-- The statement's first hypotheses. -/
def edgeTurn (p : Fin 16) (y : Stream) : Bool :=
  let s := edgeState p y id
  s.here = .edge l0 p && findLaunch s l0 = some (streamed p y) && getStream (streamed p y) p.val = y && y.words ≠ [] && y.req = none

/-- ThreadsPhasesAndStreams: an in-port that injects; that waits for the gate, and that has spent its stream. -/
theorem witness_inject :
    (let y : Stream := { words := desc0 }
     let s := edgeState 7 y id
     edgeTurn 7 y = true ∧ streamSpent y = false ∧ run0.st = .running ∧ gateShut s l0 (streamed 7 y) = false ∧ run0.halted = false ∧ edgeOf s l0 (streamed 7 y) 7 = some (tl, .w) ∧ strHdr y = false ∧
     aget [] (getTile s tl).links (linkKey .vector .w) = [] ∧ translate s 0 (portTable (streamed 7 y).portSet) 5 (strAddr y y.next) .r = .ok 0x200000 0 none ∧
     isPoison s 0x200000 = false) ∧
    (let s := edgeState 7 { words := desc0 } fun x => { x with gate := true }
     (findLaunch s l0).any (fun x => gateShut s l0 x && decide ((getStream x 7).words ≠ []) && (getStream x 7).req.isNone) = true) ∧ edgeTurn 7 { words := desc0, next := 1 } = true ∧ streamSpent { words := desc0, next := 1 } = true := by
  decide +kernel

/-- ThreadsPhasesAndStreams: an out-port with a record to write, with a header token, with a gap marker, and with a record past its COUNT. -/
theorem witness_outport :
    let y (t : VTok) (n : Nat) : Stream := { words := desc0, queue := [.vec t], next := n }
    ([y (vt 5) 0, y (vt 5) 1, y { plainTok 0 with kind := kBarrier } 0, y { plainTok 0 with kind := kGap, key := 1 } 0].all fun z => edgeTurn 8 z) = true ∧
    isRecord (.vec (vt 5)) = true ∧ isRecord (.vec { plainTok 0 with kind := kBarrier }) = false ∧ strHdr (y (vt 5) 0) = false ∧ (y (vt 5) 0).next < strCount (y (vt 5) 0) ∧
    strCount (y (vt 5) 1) ≤ (y (vt 5) 1).next ∧
    translate (edgeState 8 (y (vt 5) 0) id) 0 (portTable (streamed 8 (y (vt 5) 0)).portSet) 5 (strAddr (y (vt 5) 0) 0) .w = .ok 0x200000 0 none := by decide +kernel

/-- ThreadsPhasesAndStreams: a stream that completes at its COUNT and one at its close, with an event and with a counter. -/
theorem witness_stream_complete :
    let y : Stream := { words := desc0, next := 1 }
    let c : Stream := { words := desc0, closed := true }
    let n : Stream := { words := [0x100000, 1, 0, 0, 0x100040, 0, 0, 0], next := 1 }
    edgeTurn 15 y = true ∧ y.complete = false ∧ strCount y ≤ y.next ∧ strCnt y = 0 ∧ (streamed 15 y).issuer = some c0 ∧ edgeTurn 8 c = true ∧ c.queue = [] ∧ c.closed = true ∧
    edgeTurn 8 n = true ∧ strCnt n ≠ 0 ∧ translate (edgeState 8 n id) 0 (portTable (streamed 8 n).portSet) 5 (strCnt n) .w = .ok 0x200040 0 none ∧
    parkedAll (edgeState 8 n id) = [] := by decide +kernel

end Sys2Proof.Tests
end

