-- ==== Sys2Proof/Tests/WitnessEngines.lean ====
section
/-! SUPPORT. States and operands that meet the hypotheses of the statements about engines and links. -/
set_option Elab.async false
namespace Sys2Proof.Tests
open Sys2Proof Sys2Proof.Machine

/-! ## The copy engine -/

/-- A transfer of context 0 by the cluster's core, and the copy engine with it at its head. -/
def job (ws : List Word) : Transfer := { num := 7, words := ws, core := c0, ctx := 0, started := true }
def copyAt (p : Place) (t : Transfer) (e : RangeEntry) (d : Die) : State :=
  setDie { coreState (fun x => { x with ranges := [(0, e)], copy := { queue := [t], next := 8 } }) with here := p } 0 d

def eC : EngineId := .copy c0
def copyCnt : List Word := [0x100000, 0x100040, 64, 0x20000, 0x100080, 0, 0, 0]

/-- EnginesAndLinks: a copy that starts; a granule that is written; one without the permission to read; one of a copy that has not started, is written, or has a full
fix-up list. -/
theorem witness_copy :
    (let t := { job copy0 with started := false }
     let s := copyAt (.engine eC) t entry0 {}
     (getCl s c0).copy.queue = [t] ∧ t.core = c0 ∧ s.here = .engine eC ∧ clocked s c0 = true ∧ clocked (updCl s c0 fun x => { x with pstate := 1 }) c0 = false) ∧
    (let t := job copy0
     let s := copyAt (.granule eC 0) t entry0 {}
     s.here = .granule eC 0 ∧ t.started = true ∧ granOpen eC t 0 = true ∧ t.fix.length < 64 ∧ behindReplay t (segOf eC t 0) (copyReplays (getCl s c0) c0 t) = false ∧ cpSpace t = 0 ∧ copyRing t = none ∧
     translate s 0 (coreTable (getCl s c0)) 0 (cpSrc t 0) .r = .ok 0x200000 0 none ∧ translate s 0 (coreTable (getCl s c0)) 0 (cpDst t 0) .w = .ok 0x200040 0 none ∧
     parkedAll s = [] ∧ t.permed = false ∧
     translate s 0 (coreTable (getCl (copyAt (.granule eC 0) t { entry0 with base := 0x10003D } {}) c0)) 0 (cpSrc t 0) .r = .perm 0) ∧
    granOpen eC { job copy0 with written := [0] } 0 = false ∧ 64 ≤ (List.replicate 64 (⟨0, 0, 0, 0⟩ : Fixup)).length := by decide +kernel

/-- EnginesAndLinks: a granule of a copy of two segments that waits while the segment of a fix-up is written. -/
theorem witness_copy_behind :
    let t := { job [0x100000, 0x120000, 0x20000, 0x20000, 0, 0, 0, 0] with cur := some 0 }
    let s := copyAt (.granule eC 1024) t entry0 {}
    s.here = .granule eC 1024 ∧ behindReplay t (segOf eC t 1024) (copyReplays (getCl s c0) c0 t) = true := by decide +kernel

/-- EnginesAndLinks: a copy not done, done, done with a counter; a segment to replay whose request stands, is answered, has failed. -/
theorem witness_copy_done :
    (let s := copyAt (.engine eC) (job copy0) entry0 {}
     s.here = .engine eC ∧ jobDone eC (job copy0) = false) ∧
    (let t := { job copy0 with written := [0] }
     jobDone eC t = true ∧ t.started = true ∧ t.step = 0 ∧ t.words.getD 4 0 = 0) ∧
    (let t := { job copyCnt with written := [0] }
     let s := copyAt (.engine eC) t entry0 {}
     jobDone eC t = true ∧ t.words.getD 4 0 ≠ 0 ∧ t.bump = none ∧ t.failed = [] ∧ parkedAll s = [] ∧
     translate s 0 (coreTable (getCl s c0)) 0 (t.words.getD 4 0) .w = .ok 0x200080 0 none) ∧
    (let t := { job copy0 with fix := [⟨0, 0x100000, 0, 3⟩] }
     let req : PageReq := { serial := 3, ctx := 0, page := 0x10, gen := 0, cause := 1, party := .engine eC, handle := 0, va := 0x100000, src := 3, entry := 0xFF }
     let s (d : Die) := copyAt (.engine eC) t entry0 d
     (∀ k, k < jobLen eC t → granOpen eC t k = false) ∧ reqStands (s { reqs := [(0, req)] }) 0 (0, 3) = true ∧ reqStands (s {}) 0 (0, 3) = false ∧
     reqFailed (s {}) 0 3 = false ∧ reqFailed (s { failed := [(3, (0xFF, 0))] }) 0 3 = true ∧ reqStands (s { failed := [(3, (0xFF, 0))] }) 0 (0, 3) = false ∧ t.started = true ∧ t.fataled = false ∧ copyRing t = none) := by decide +kernel

/-- EnginesAndLinks: a granule of a copy to WBUF; a full fix-up list, and one segment that is replayed while another is unfinished. -/
theorem witness_copy_buffer :
    (let t := job [0x100000, 0, 64, 0x21000, 0, 0, 0, 0]
     let s := copyAt (.granule eC 0) t entry0 {}
     s.here = .granule eC 0 ∧ granOpen eC t 0 = true ∧ t.fix.length < 64 ∧ behindReplay t (segOf eC t 0) (copyReplays (getCl s c0) c0 t) = false ∧ cpSpace t = 1 ∧ copyRing t = none ∧
     claimed (getCl s c0) 1 0 = false ∧ parkedAll s = [] ∧ translate s 0 (coreTable (getCl s c0)) 0 (cpSrc t 0) .r = .ok 0x200000 0 none) ∧
    (let t := { job [0x100000, 0x120000, 0x20000, 0x20000, 0, 0, 0, 0] with cur := some 0, fix := [⟨1024, 0x110000, 0, 3⟩] }
     copyReplays (getCl (copyAt (.engine eC) t entry0 {}) c0) c0 t = true) ∧
    64 ≤ ({ job copy0 with fix := List.replicate 64 ⟨0, 0x100000, 0, 3⟩ } : Transfer).fix.length := by decide +kernel

/-- EnginesAndLinks: a copy through a ring of two tiles of one granule each, whose first granule's segment is skipped: every other open granule lies beyond the ring. -/
theorem witness_ring_stuck :
    let t := { job [0x10FFC0, 0, 0xC0, 0x210A0, 0, 0, 0, 0] with fix := [⟨0, 0x10FFC0, 0, 3⟩] }
    let s := setCl (copyAt (.engine eC) t entry0 {}) c0 { (getCl (copyAt (.engine eC) t entry0 {}) c0) with rings := [(0, { size := 1, tsz := 1 })] }
    copyRing t = some 0 ∧ granOpen eC t 0 = false ∧ granOpen eC t 1 = true ∧ ringStuck s c0 t = true := by decide +kernel

/-! ## The collective engine -/

def eK : EngineId := .collective 0
def collEngine (p : Place) (t : Transfer) (d : Die) (m : Assoc Byte) : State :=
  { setDie { coreState (fun x => { x with ranges := [(0, entry0)] }) with here := p } 0 { d with collective := { queue := [t] } } with mem := m }

/-- EnginesAndLinks: a collective that has started, one that starts without its members and with them, and one that ends with a status. -/
theorem witness_collective :
    (let t := { job coll0 with started := false }
     let s (d : Die) (m : Assoc Byte) := collEngine (.engine eK) t d m
     (getDie (s {} []) 0).collective.queue = [t] ∧ (s {} []).here = .engine eK ∧ t.started = false ∧ colMembers (s {} []) 0 0 (colRanks t) = none ∧
     colMembers (s die2 otherRanks) 0 0 (colRanks t) = some [(0, 1), (0, 1)]) ∧
    (job coll0).started = true ∧ ({ job coll0 with status := 5 } : Transfer).status ≠ 0 ∧ (job coll0).words.getD 5 0 = 0 := by decide +kernel

/-- EnginesAndLinks: a granule of the result, whose sources have all come. -/
theorem witness_collective_granule :
    let t := job coll0
    let d : Die := { die2 with chunks := [⟨0, 0, 0, 0, List.replicate 64 1, false⟩, ⟨0, 0, 1, 0, List.replicate 64 2, false⟩], joins := [⟨0, 0, 1, colShape t⟩] }
    let s := collEngine (.granule eK 2) t d otherRanks
    s.here = .granule eK 2 ∧ t.started = true ∧ t.status = 0 ∧ granOpen eK t 2 = true ∧ t.fix.length < 64 ∧ ctxKey s 0 0 = 0 ∧ behindReplay t (segOf eK t 2) (colReplays (getDie s 0) 0 0 t) = false ∧ colMismatch (getDie s 0) 0 t = false ∧
    colSrcLen t ≤ 2 ∧ colSources (getDie s 0) 0 t 0 = some d.chunks ∧ (∀ x ∈ d.chunks, x.bytes ≠ []) ∧
    translate s 0 (coreTable (getCl s c0)) 0 (t.words.getD 1 0 + word (64 * (2 - colSrcLen t))) .w = .ok 0x200040 0 none ∧ parkedAll s = [] := by decide +kernel

/-- EnginesAndLinks: a granule of the source that is read; a collective that is done, all members heard, and one whose member has posted another TAG. -/
theorem witness_collective_ends :
    (let t := job coll0
     let s := collEngine (.granule eK 0) t die2 otherRanks
     s.here = .granule eK 0 ∧ granOpen eK t 0 = true ∧ behindReplay t (segOf eK t 0) (colReplays (getDie s 0) 0 0 t) = false ∧ colMismatch (getDie s 0) 0 t = false ∧
     0 < colSrcLen t ∧ translate s 0 (coreTable (getCl s c0)) 0 (t.words.getD 0 0 + word (64 * 0)) .r = .ok 0x200000 0 none) ∧
    (let t := { job coll0 with written := [3, 2, 1, 0] }
     let d : Die := { die2 with peersDone := [(0, 0, 1)] }
     let s := collEngine (.engine eK) t d otherRanks
     s.here = .engine eK ∧ jobDone eK t = true ∧ colStatus s 0 t = 0 ∧ (∀ r ∈ colOthers t, (0, colTag t, r) ∈ (getDie s 0).peersDone) ∧ t.words.getD 5 0 = 0) ∧
    (let t := job coll0
     let s := collEngine (.engine eK) t { die2 with joins := [⟨0, 9, 1, colShape t⟩] } otherRanks
     colStatus s 0 t = 6 ∧ colStatus (collEngine (.engine eK) t die2 otherRanks) 0 t = 0 ∧ jobDone eK t = false) := by decide +kernel

/-! ## Links -/

/-- A port with a flit arriving. -/
def flitAt (y : YlPort) (f : Flit) : State := { setDie State.reset 0 { yl := [(3, y)], pktab := [(0, 0x8005_0000_0000_0008)] } with here := .flit 0 3 f }

/-- EnginesAndLinks: a port that is not up; a bad flit within its retries and beyond; an acknowledgement; a replay; a flit out of order, one whose key does not pass,
and one whose key does. -/
theorem witness_flits :
    let y : YlPort := { st := 2, expect := 5 }
    let f : Flit := { dev := 0, die := 0, seq := 5, pkey := 5, crcOk := true, body := .chunk 0 0 0 [] false }
    let s (y : YlPort) (f : Flit) := flitAt y f
    (s y f).here = .flit 0 3 f ∧ (getYl (s {} f) 0 3).st ≠ 2 ∧ (getYl (s y f) 0 3).st = 2 ∧ ({ f with crcOk := false } : Flit).crcOk = false ∧ y.fails + 1 ≤ 16 ∧
    16 < ({ y with fails := 16 } : YlPort).fails + 1 ∧ (∀ q, q ≠ 3 → (getYl (s { y with fails := 16 } f) 0 q).st ≠ 2) ∧ ({ f with body := .ack 3 } : Flit).body = .ack 3 ∧ ({ f with body := .replay 3 } : Flit).body = .replay 3 ∧
    f.seq = (getYl (s y f) 0 3).expect ∧ ({ f with seq := 4 } : Flit).seq ≠ (getYl (s y f) 0 3).expect ∧ keyPasses (getDie (s y f) 0) 6 3 = false ∧
    keyPasses (getDie (s y f) 0) f.pkey.toNat 3 = true ∧ f.die = 0 := by decide +kernel

/-- EnginesAndLinks: no number or replay of the link's own stands in a member's granule; a flit for this device. -/
theorem witness_flit_here (f : Flit) (h : f.body = .chunk 0 0 0 [] false) : (∀ n, f.body ≠ .ack n ∧ f.body ≠ .replay n) ∧
    ({ f with dev := Config.deviceNumber.toNat } : Flit).dev = Config.deviceNumber.toNat := by
  refine ⟨fun n => ?_, rfl⟩
  rw [h]
  exact ⟨by simp, by simp⟩

/-- EnginesAndLinks: a flit that moves to port 4, which is up, when port 3 retrains. Whether port 4 leads to its device is a free value; the hypothesis names it. -/
theorem witness_flit_moves (hl : Config.linkReaches 0 4 9 = true) :
    let g : Flit := { dev := 9, die := 0, seq := 2, pkey := 0, crcOk := true, body := .readRequest 0 0 0 0 }
    let y : YlPort := { st := 2, expect := 5, fails := 16, sent := [g] }
    let f : Flit := { dev := 0, die := 0, seq := 5, pkey := 5, crcOk := false, body := .ack 0 }
    let s : State := { setDie State.reset 0 { yl := [(3, y), (4, { st := 2 })] } with here := .flit 0 3 f }
    (getYl s 0 3).sent = [g] ∧ (getYl s 0 3).waiting = [] ∧ (getYl s 0 4).sent.length < 512 ∧
    otherWay (updYl s 0 3 fun _ => { y with st := 1, fails := 0, crcerr := min 65535 (y.crcerr + 1) }) 0 g = some 4 := by
  intro g y f s
  refine ⟨rfl, rfl, by decide +kernel, ?_⟩
  have h : ylUp (getDie (updYl s 0 3 fun _ => { y with st := 1, fails := 0, crcerr := min 65535 (y.crcerr + 1) }) 0) = [4] := by decide +kernel
  have hl' : Config.linkReaches ((0 : Fin 4) : Nat) ((4 : Fin 16) : Nat) g.dev = true := hl
  simp only [otherWay, waysTo, h, List.filter, hl']
  decide +kernel

/-- EnginesAndLinks: an acknowledgement with a flit waiting, a replay of a number kept and of one that has moved; a member's post, one to be skipped; a request of
a peer for this device. -/
theorem witness_flit_bodies :
    let g : Flit := { dev := 9, die := 0, seq := 2, pkey := 0, crcOk := true, body := .readRequest 0 0 0 0 }
    let y : YlPort := { st := 2, expect := 5, sent := [g], waiting := [g], nextSeq := 3 }
    let f (b : FlitBody) : Flit := { dev := Config.deviceNumber.toNat, die := 0, seq := 5, pkey := 5, crcOk := true, body := b }
    (flitAt y (f (.ack 3))).here = .flit 0 3 (f (.ack 3)) ∧ y.waiting = [g] ∧ (y.sent.filter fun h => decide (3 ≤ h.seq)).length < 512 ∧
    (∃ h ∈ y.sent, h.seq = 2) ∧ (1 < y.nextSeq ∧ ∀ h ∈ y.sent, h.seq ≠ 1) ∧
    (f (.join 0 1 [0])).body = .join 0 1 [0] ∧ (5, 1) ∈ ({ skipJoins := [(5, 1)] } : Die).skipJoins ∧
    (f (.readRequest 7 9 0 0x40)).body = .readRequest 7 9 0 0x40 ∧ (f (.readRequest 7 9 0 0x40)).dev = Config.deviceNumber.toNat ∧
    (f (.writeRequest 7 9 0 0x40 (List.replicate 64 1) true)).body = .writeRequest 7 9 0 0x40 (List.replicate 64 1) true ∧ (List.replicate 64 (1 : Byte)).length = 64 ∧
    parkedAll (flitAt y (f (.ack 3))) = [] ∧ keyPasses (getDie (flitAt y (f (.ack 3))) 0) (f (.ack 3)).pkey.toNat 3 = true ∧ y.sent.length < 512 := by
  refine ⟨rfl, rfl, by decide +kernel, by decide +kernel, by decide +kernel, rfl, by decide +kernel, rfl, rfl, rfl, by decide +kernel, by decide +kernel, rfl, by decide +kernel⟩

/-- EnginesAndLinks: a port that trains, the last of the link's, and one that is up. -/
theorem witness_training :
    let s (y : YlPort) : State := { setDie State.reset 0 { yl := [(15, y)] } with here := .port 0 15 false }
    (s {}).here = .port 0 15 false ∧ (15 : Fin 18).val < 16 ∧ (getYl (s {}) 0 (Fin.ofNat 16 15)).st ≠ 2 ∧ (getYl (s { st := 2 }) 0 (Fin.ofNat 16 15)).st = 2 := by decide +kernel

end Sys2Proof.Tests
end

