-- ==== Sys2Proof/Tests/WitnessMemory.lean ====
section
/-! SUPPORT. States and operands that meet the hypotheses of the statements about memory nodes, their accesses and their moves. -/
set_option Elab.async false
namespace Sys2Proof.Tests
open Sys2Proof Sys2Proof.Machine

/-! ## Memory nodes at their turn -/

/-- A legal word of each memory node (R210, R244). -/
def memWordOf (op : MemOp) : MWord :=
  let w : MWord := { nullM with sa := .queue 6, cls := .random, ty := .b32, out := 1 }
  match op with
  | .agen => { w with ty := .i64x8, cls := .stream, sb := .queue 7 }
  | .ld | .ldf => w
  | .st | .stf => { w with sb := .queue 1, out := 0, cpl := true, cplPort := 2 }
  | .clre | .pref => { w with out := 0 }
  | .atom => { w with ty := .i32, sb := .queue 1, cls := .ordered }
  | .mcast => { w with sb := .queue 7, out := 0, space := .wbuf, scope := .cluster }
  | .cjoin => { w with sa := .queue 0, imm := 1 }
  | .bkgive => { w with out := 0, space := .wbuf, scope := .cluster, imm := 15 }

/-- Its queues' heads: addresses at I6, a pass of four at I7, data at I0 and I1. -/
def memHeads : List (Nat × Tok) :=
  [(0, .vec (vt 3)), (1, .vec (vt 5)), (6, .sca ⟨0x100000, 0⟩), (7, .sca ⟨0x4_0000_0001, 0⟩)]

def memState (op : MemOp) (w : MWord) (hs : List (Nat × Tok)) : State := slotState (memInstr op w) 2 hs
def memTurn (op : MemOp) (w : MWord) (hs : List (Nat × Tok)) : Bool :=
  decide (memCheck op w = none) && canFire (memState op w hs) s0 (memInstr op w) && decide ((memState op w hs).here = .slot s0)

def memOps : List MemOp := [.agen, .ld, .st, .ldf, .stf, .clre, .atom, .mcast, .pref, .cjoin, .bkgive]

/-- EverySlotIssues, MemoryNodesIssue: each memory node has a turn, with no gap marker at its head. -/
theorem witness_every_memory_node_issues :
    memOps.all (fun op => memTurn op (memWordOf op) memHeads && !gapFiring (getTile (memState op (memWordOf op) memHeads) tl) op (memWordOf op)) = true := by
  decide +kernel

/-- A slice window of slot 0, with what it holds. -/
def withWindow (w : Window) (s : State) : State := updSlice s (sliceOf tl) fun x => { x with wins := [(0, w)] }

/-- MemoryNodesIssue: a STREAM load without a window, and one with a window whose next fill is for another address. -/
theorem witness_stream_load_issues :
    let w := { memWordOf .ld with cls := .stream }
    let s := memState .ld w memHeads
    let t := withWindow { usize := 1, held := [{ pa := 0, va := 0x900000, data := 0, valid := 0, store := false }] } s
    memTurn .ld w memHeads = true ∧ (windowOf s tl 0).usize = 0 ∧ canFire t s0 (.ld w) = true ∧
    fillReady (windowOf t tl 0) (effAddr (fireOf t s0 (.mem .ld w)).a w.imm) = false := by decide +kernel

/-- MemoryNodesIssue: a gap marker of count 2 at B of ST, STF and ATOM. -/
theorem witness_gap_firings : ([.st, .stf, .atom] : List MemOp).all (fun op =>
    let hs : List (Nat × Tok) := [(1, .vec { vt 0 with kind := kGap, key := 2 }), (6, .sca ⟨0x100000, 0⟩)]
    let s := memState op (memWordOf op) hs
    memTurn op (memWordOf op) hs && gapFiring (getTile s tl) op (memWordOf op) && decide ((memWordOf op).sc = .zero) &&
    decide ((seenHead (getTile s tl) 1).kind = kGap) && decide (0 < (seenHead (getTile s tl) 1).key.toNat)) = true := by decide +kernel

/-- StreamNodesUseTheirWindow: an LD whose window holds the fill of its address; an ST with room in its window. -/
theorem witness_stream_windows :
    (let w := { memWordOf .ld with cls := .stream }
     let g : WinGran := { pa := 0x200000, va := 0x100000, data := 7, valid := 0xFFFF, store := false }
     let s := withWindow { usize := 1, held := [g] } (memState .ld w memHeads)
     canFire s s0 (.ld w) = true ∧ (windowOf s tl 0).usize ≠ 0 ∧ (windowOf s tl 0).held = [g] ∧ g.stale = false ∧ g.store = false ∧
     g.va = effAddr (fireOf s s0 (.mem .ld w)).a w.imm &&& ~~~63) ∧
    (let w := { memWordOf .st with cls := .stream }
     let s := withWindow { usize := 1 } (memState .st w memHeads)
     canFire s s0 (.st w) = true ∧ (windowOf s tl 0).usize ≠ 0 ∧ gapFiring (getTile s tl) .st w = false) := by decide +kernel

/-- AddressAndJoinNodes: AGEN with its count in A and in B; CJOIN before its last firing and at it. -/
theorem witness_address_and_join :
    (let w := { memWordOf .agen with sb := .zero }
     let hs : List (Nat × Tok) := [(6, .sca ⟨0x3_0000_0010_0000, 0⟩)]
     memTurn .agen w hs = true ∧ (lowPair (fireOf (memState .agen w hs) s0 (.mem .agen w)).a.pay).toNat / 2 ^ 48 = 3) ∧
    (lowPair (fireOf (memState .agen (memWordOf .agen) memHeads) s0 (.mem .agen (memWordOf .agen))).b.pay).toNat / 2 ^ 32 = 4 ∧
    (let w := { memWordOf .agen with sb := .zero }
     let hs : List (Nat × Tok) := [(6, .sca ⟨0x100000, 0⟩)]
     memTurn .agen w hs = true ∧ (lowPair (fireOf (memState .agen w hs) s0 (.mem .agen w)).a.pay).toNat / 2 ^ 48 = 0) ∧
    slotNode (memState .cjoin (memWordOf .cjoin) memHeads) s0 = .idle ∧
    (let s := updTile (memState .cjoin { memWordOf .cjoin with imm := 3 } memHeads) tl fun x => updSlot x 0 fun y => { y with node := .cjoin 2 }
     canFire s s0 (.cjoin { memWordOf .cjoin with imm := 3 }) = true ∧ slotNode s s0 = .cjoin 2) := by decide +kernel

/-! ## Accesses at their turn -/

/-- A range entry of context 5, on pages 0x10 to 0x1F of its addresses, at page 0x20 of DRAM. `flags` are the low bits of RNGBASE (R305). -/
def entry5 (flags : Word) : RangeEntry := { base := 0x100000 + flags, lim := 0x1F0000, pa := 0x0000_0500_0020_0000, vo := 0 }

/-- A port of the test's tile that has entries and a queue. -/
def portState (es : List RangeEntry) (q : List Access) : State :=
  updTile (launchState (.access tl ((q.head?.map (·.id)).getD 0)) run1) tl fun x =>
    { x with port := { start := true, entries := es.map fun e => ⟨e, 0⟩, queue := q } }

/-- An access of a memory node with data 5 in every lane. -/
def access (op : MemOp) (w : MWord) (ea : Word) : Access :=
  { id := 1, slot := 0, op := op, w := w, thr := 0, ea := ea, data := vt 5, cmp := vt 0, seq := 0 }

/-- The conditions of Performs, as one Bool. -/
def performs (s : State) (a : Access) : Bool :=
  decide (s.here = .access tl a.id) && decide (findAccess (getTile s tl) a.id = some a) && decide (a.op ≠ .mcast) && decide (a.op ≠ .bkgive) &&
  a.parked.isNone && !inWindow s tl a && portReady s tl (getTile s tl) a && decide (answerOf s tl.die a.fault = .again) && decide (parkedAll s = [])

theorem performs_spec (s : State) (a : Access) (h : performs s a = true) : Performs s tl a := by
  simp [performs] at h
  obtain ⟨⟨⟨⟨⟨⟨⟨⟨h1, h2⟩, h3⟩, h4⟩, h5⟩, h6⟩, h7⟩, h8⟩, h9⟩ := h
  exact ⟨h1, h2, h3, h4, h5, h6, h7, h8, h9⟩

/-- AccessesPerform: the first and the last granule of a pinned range, for each operation on global memory; LDF on a full granule. -/
theorem witness_global_accesses : ([.ld, .st, .ldf, .stf, .clre, .atom, .pref] : List MemOp).all (fun op =>
    [(0x100000 : Word), 0x1FFFC0].all fun ea =>
      let a := access op (memWordOf op) ea
      let s := portState [entry5 0x3F] [a]
      performs s a && decide (a.w.space = .global) && decide (tileCtx s tl = 5) &&
      decide (translate s 0 (portTable (getTile s tl).port.entries) 5 a.ea (needOf op) = .ok (ea.toNat + 0x100000) 0 none) &&
      isFull s (ea.toNat + 0x100000)) = true := by decide +kernel

/-- AccessesPerform: the first and the last granule of each buffer, for each operation that it takes, with its LDF's granule full; the last granule of the last slice
window. -/
theorem witness_buffer_and_window_accesses :
    ([(Space.wbuf, (0x1FFFC0 : Word)), (.abuf, 0x1FFFC0), (.cbuf, 0xFFFC0), (.wbuf, 0), (.abuf, 0), (.cbuf, 0)].all fun (sp, ea) =>
      ([.ld, .ldf, .st, .stf, .clre] : List MemOp).all fun op =>
        let a := access op { memWordOf op with space := sp } ea
        let s := updCl (portState [] [a]) c0 fun x => bufSetFull x (spaceNum sp) (ea.toNat / 64) true
        decide (sp = .cbuf ∧ storesOp op = true) || performs s a && decide (clusterOf s tl = c0) && decide (64 * (a.ea.toNat / 64) < bufSize (spaceNum sp)) &&
          !claimed (getCl s c0) (spaceNum sp) (a.ea.toNat / 64) && bufIsFull (getCl s c0) (spaceNum sp) (a.ea.toNat / 64)) = true ∧
    ([.ld, .st] : List MemOp).all (fun op =>
      let a := access op { memWordOf op with space := .window } 0x70FFC0
      let s := updSlice (portState [] [a]) (sliceOf tl) fun x => { x with wins := [(7, { usize := 1 })] }
      performs s a && decide (a.ea.toNat / 2 ^ 23 = 0) && decide (a.ea.toNat / 2 ^ 20 % 8 = 7) && decide (a.ea.toNat / 64 % 2 ^ 14 = 1023) &&
      decide ((aget ({} : Window) (getSlice s (sliceOf tl)).wins 7).usize = 1)) = true := by decide +kernel

/-- RefusedAndFaultingAccesses: a store where only reads are allowed; an access past the end of each buffer, and one that it does not take; accesses to a slice
window of one that it does not take, past its end and past the last window; an address that no entry covers. -/
theorem witness_refused_accesses :
    (let a := access .st (memWordOf .st) 0x100000
     let s := portState [entry5 0x33] [a]
     performs s a = true ∧ translate s 0 (portTable (getTile s tl).port.entries) (tileCtx s tl) a.ea .w = .perm 0) ∧
    ([(Space.wbuf, (0x200000 : Word)), (.abuf, 0x200000), (.cbuf, 0x100000)].all fun (sp, ea) =>
      let a := access .ld { memWordOf .ld with space := sp } ea
      performs (portState [] [a]) a && decide (bufSize (spaceNum sp) ≤ ea.toNat / 64 * 64)) = true ∧
    ([(Space.wbuf, MemOp.atom), (.cbuf, .st), (.cbuf, .stf), (.cbuf, .clre)].all fun (sp, op) =>
      let a := access op { memWordOf op with space := sp } 0
      performs (portState [] [a]) a && !bufAllowed (spaceNum sp) op) = true ∧
    ([(MemOp.ldf, (0 : Word)), (.ld, 0x10000), (.st, 0x800000)].all fun (op, ea) =>
      let a := access op { memWordOf op with space := .window } ea
      let s := updSlice (portState [] [a]) (sliceOf tl) fun x => { x with wins := [(0, { usize := 1 })] }
      performs s a && decide (op ≠ .ld ∧ op ≠ .st ∨ ea.toNat / 2 ^ 23 ≠ 0 ∨
        1024 * (aget ({} : Window) (getSlice s (sliceOf tl)).wins (ea.toNat / 2 ^ 20 % 8)).usize ≤ ea.toNat / 64 % 2 ^ 14)) = true ∧
    (let a := access .ld (memWordOf .ld) 0x300000
     let s := portState [entry5 0x3F] [a]
     performs s a = true ∧ translate s 0 (portTable (getTile s tl).port.entries) (tileCtx s tl) a.ea .r = .miss ∧
     sameReq (getDie s 0) (tileCtx s tl) (a.ea.toNat / 65536) (fun p => match p with | .node u _ => u = tl | _ => false) = none ∧
     freeReq (getDie s 0) = some 0) := by decide +kernel

/-- AtomElements: a lane of B that is valid, of each integer and bit type it names. -/
theorem witness_atom_elements : ([(0, .i32), (0, .n32), (2, .i32), (2, .n32), (3, .i32), (3, .n32), (4, .b32), (5, .b32), (6, .b32), (7, .f32), (8, .b32)] :
    List (BitVec 4 × Ty)).all (fun (aop, ty) =>
      decide (memCheck .atom { memWordOf .atom with aop := aop, ty := ty, sc := if aop = 8 then .queue 2 else .zero } = none) &&
      (vt 5).valid.getLsbD 15 && decide (tyWidth ty = 32 ∧ ty ≠ .i64x8)) = true ∧ (0 : BitVec 16).getLsbD 15 = false := by decide +kernel

/-! ## Moves of memory nodes -/

/-- PassEmitsItsAddresses: a pass with more addresses to come and at its last, without a bank gate, with one whose token is there, and with one
that the pass holds. -/
theorem witness_pass_emits :
    let w : MWord := memWordOf .agen
    let g : MWord := { w with space := .wbuf, fe := true }
    let at_ (w : MWord) (n i : Nat) (base : Word) (banks : List Nat) : State :=
      let s := memState .agen w []
      let s := updTile s tl fun x => updSlot x 0 fun y => { y with node := .agen n i base 1 0 banks }
      updCl s c0 fun x => { x with bktok := 0x8001 }
    let ok (s : State) (w : MWord) : Bool :=
      decide (s.here = .slot s0) && decide (slotInstr (getTile s tl) 0 = some (.agen w)) && !gateClosed s tl &&
      (heldOn (getTile s tl) (.mem .agen w)).isNone && !tileHalted s tl (getTile s tl) && decide (afind (getTile s tl).used (slotEmit 0) ≠ some s.clock)
    w.out ≠ 0 ∧ ok (at_ w 4 0 0x100000 []) w = true ∧ ok (at_ w 4 3 0x100000 []) w = true ∧ agenBank w 0x100000 = none ∧
    ok (at_ g 4 0 0 []) g = true ∧ agenBank g 0 = some 0 ∧ agenBank g 0x1FFFC0 = some 15 ∧ (0x8001 : BitVec 32).getLsbD 15 = true ∧
    ok (at_ g 4 0 0 [0]) g = true ∧ ([0] : List Nat).contains 0 = true ∧ clusterOf (at_ g 4 0 0 []) tl = c0 := by decide +kernel

/-- WindowsFillAndWriteBack: a fill into an empty window and into one with one place left; the write back of a store. -/
theorem witness_windows_move :
    (let w := { memWordOf .ld with cls := .stream }
     let g : WinGran := { pa := 0, va := 0, data := 0, valid := 0, store := false }
     let s := withWindow { usize := 1 } (updTile { memState .ld w memHeads with here := .window (sliceOf tl) 0 } tl fun x =>
       { x with port := { start := true, entries := [⟨entry5 0x3F, 0⟩] } })
     s.here = .window (sliceOf tl) 0 ∧ tileOfSlice (sliceOf tl) = tl ∧ slotInstr (getTile s tl) 0 = some (.ld w) ∧ (windowOf s tl 0).usize ≠ 0 ∧
     (getTile s tl).port.start = true ∧ gateClosed s tl = false ∧ (windowOf s tl 0).held.length < 1024 * 1 ∧
     (List.replicate 1023 g).length < 1024 * 1 ∧
     scalarAt (getQ (getTile s tl) 6) 0 = some 0x100000 ∧
     translate s 0 (portTable (getTile s tl).port.entries) (tileCtx s tl) (0x100000 + w.imm.signExtend 64 * 64) .r = .ok 0x200000 0 none ∧
     (getTile s tl).port.queue = []) ∧
    (let a := access .st { memWordOf .st with cls := .stream } 0x100040
     let g : WinGran := { pa := 0, va := 0x100040, data := 5, valid := 0xFFFF, store := true, id := 1 }
     let s := withWindow { usize := 1, held := [g] } { portState [entry5 0x3F] [a] with here := .window (sliceOf tl) 0 }
     (windowOf s tl 0).held = [g] ∧ findAccess (getTile s tl) g.id = some a ∧ a.w.space = .global ∧ portReady s tl (getTile s tl) a = true ∧
     answerOf s 0 a.fault = .again ∧
     translate s 0 (portTable (getTile s tl).port.entries) (tileCtx s tl) a.ea .w = .ok 0x200040 0 none) := by decide +kernel

/-- GivesAndLateRequests: a give of the last bank of WBUF, its bit clear and set, of a launch that has not written the record yet; an access whose fault waits for a free request. -/
theorem witness_gives :
    (let a := access .bkgive (memWordOf .bkgive) (15 * 131072)
     let s := portState [] [a]
     s.here = .access tl a.id ∧ findAccess (getTile s tl) a.id = some a ∧ (getTile s tl).port.start = true ∧ a.w.space = .wbuf ∧
     a.ea.toNat / 2 ^ 17 % 16 = 15 ∧
     storesDone s tl a.thr a.seq (fun e => decide (spaceNum e.w.space = 1) && decide (fld e.ea 63 17 = 15)) = true ∧
     (getCl s c0).bktok.getLsbD 15 = false ∧ (getCl (updCl s c0 fun x => { x with bktok := 0x8000 }) c0).bktok.getLsbD 15 = true ∧
     ownerOf s tl = some l0 ∧ findLaunch s l0 = some run1 ∧ run1.first.contains 0x11 = false) ∧
    (let a := { access .ld (memWordOf .ld) 0x300000 with fault := .waits 1 }
     let s := portState [entry5 0x3F] [a]
     s.here = .access tl a.id ∧ findAccess (getTile s tl) a.id = some a ∧
     translate s 0 (portTable (getTile s tl).port.entries) (tileCtx s tl) a.ea .r = .miss ∧
     sameReq (getDie s 0) (tileCtx s tl) (a.ea.toNat / 65536) (fun p => match p with | .node u _ => u = tl | _ => false) = none ∧
     freeReq (getDie s 0) = some 0) := by decide +kernel

/-- An MCAST request of this cluster alone: MASK bit 0, LEN, no ring, DOFF 0. -/
def mcastOf (bval : Word) (mc : Mcast) : Access := { access .mcast (memWordOf .mcast) 0x100000 with bval := bval, mc := mc }

/-- MulticastRequests: a request for each field that does not fit, and one that fits, of one piece and of the greatest length. -/
theorem witness_multicast_requests :
    ([0x0002_0001_0000_0000, 0x0001_0000_0000_0000, 0x0001_8001_0000_0000, 0x0001_0001_1000_0000, 0x0001_0001_0001_0000,
      0x0001_0001_8000_0000] : List Word).all (fun b =>
      let a := mcastOf b {}
      let s := portState [entry5 0x3F] [a]
      let mask := a.bval.extractLsb' 48 16
      let len := (a.bval.extractLsb' 32 16).toNat
      decide (s.here = .access tl a.id) && decide (findAccess (getTile s tl) a.id = some a) && portReady s tl (getTile s tl) a &&
      !a.mc.accepted && decide (a.mc.asked = 0) && decide (clusterOf s tl = c0) && decide (ownerOf s tl = some l0 ∧ findLaunch s l0 = some run1) &&
      decide (mask.getLsbD 0 = false ∨ len = 0 ∨ 32768 < len ∨ a.bval.extractLsb' 28 3 ≠ 0 ∨ a.bval.extractLsb' 16 8 ≠ 0 ∨
        a.bval.getLsbD 31 = true ∧ len ≠ (getRing (getCl s c0) (a.bval.extractLsb' 24 4).toNat).tsz)) = true ∧
    ([(0x0001_0001_0000_0000, 1), (0x0001_2000_0000_0000, 32)] : List (Word × Nat)).all (fun (b, n) =>
      let a := mcastOf b {}
      let s := portState [entry5 0x3F] [a]
      decide (mcPieces a.ea (mcLen a) = n) && mcOk (getCl s (clusterOf s tl)) (clusterOf s tl) a && decide (answerOf s 0 a.fault = .again) &&
      portReady s tl (getTile s tl) a &&
      (List.range n).all fun p => decide
        (translate s 0 (portTable (getTile s tl).port.entries) (tileCtx s tl) (mcAddr a p) .r = .ok (0x200000 + 16384 * p) 0 none)) = true := by
  decide +kernel

/-- MulticastSendsAndLands: an entry whose members have all joined, one whose 32 cycles are over; a line of the main pass to two members; a line of the
catch-up pass that one of them missed, the last and one before it, and an entry with none to send. -/
theorem witness_multicast_sends :
    let m : Member := ⟨c0, tl, 1, 0, 0⟩
    let m2 : Member := ⟨c0, tl, 2, 0, 2⟩
    let x : McastEntry := { id := 3, pa := 0x200000, lines := 2, group := 0, mask := 1, ctx := 5, opened := 0, sending := false, next := 0,
                            catchup := 0, members := [m, m2] }
    let h := homeSlice 0x200000
    let at_ (x : McastEntry) (clock : Nat) : State :=
      updSlice { portState [entry5 0x3F] [mcastOf 0x0001_0002_0000_0000 { asked := 1, accepted := true }] with here := .merged h x.id, clock := clock } h
        fun y => { y with mcast := [x] }
    let has (x : McastEntry) (clock : Nat) : Bool :=
      decide ((at_ x clock).here = .merged h 3) && decide ((getSlice (at_ x clock) h).mcast.find? (fun y => y.id = 3) = some x)
    let y := { x with mask := 3 }
    let z := { x with sending := true }
    let late (k : Nat) := { z with next := 2, catchup := k }
    has x 0 = true ∧ ((List.range 16).all fun i => !x.mask.testBit i || x.members.any fun m => m.cl.lcl.val % 16 = i) = true ∧
    has y 32 = true ∧ y.opened + 32 ≤ (at_ y 32).clock ∧ has z 0 = true ∧ z.next + 1 < z.lines ∧
    has (late 0) 9 = true ∧ m2 ∈ (late 0).members ∧ (late 0).catchup + 1 < m2.missed ∧
    has (late 1) 9 = true ∧ (late 1).catchup < m2.missed ∧ ((late 1).members.all fun m => m.missed ≤ 2) = true ∧
    has (late 2) 9 = true ∧ ((late 2).members.all fun m => m.missed ≤ 2) = true := by decide +kernel

/-- MulticastSendsAndLands: the second of two lines that have arrived lands, as the last to land and as one that is not, in its place of the buffer and in a ring. -/
theorem witness_multicast_lands : ([(1, 0x0001_0002_0000_0000), (0, 0x0001_0002_0000_0000), (1, 0x0001_0002_8000_0000)] : List (Nat × Word)).all
    (fun (landed, b) =>
      let a := mcastOf b { asked := 1, accepted := true, arrived := [(0, 8, false), (1, 9, true)], landed := landed }
      let s := { portState [entry5 0x3F] [a] with here := .landing tl 1 1 }
      decide (s.here = .landing tl a.id 1) && decide (findAccess (getTile s tl) a.id = some a) && decide (a.mc.arrived[1]? = some (1, 9, true)) &&
      decide (parkedAll s = []) && !claimed (getCl s c0) (spaceNum a.w.space) (a.mc.base + 1) &&
      decide (mcRing a = if b = 0x0001_0002_8000_0000 then some 0 else none) &&
      decide ((a.mc.landed + 1 = mcLen a) = (landed = 1))) = true := by decide +kernel

end Sys2Proof.Tests
end

