-- ==== Sys2Proof/Tests/WitnessTenants.lean ====
section
/-! SUPPORT. States and operands that meet the hypotheses of the statements about the network engine and about contexts. -/
set_option Elab.async false
namespace Sys2Proof.Tests
open Sys2Proof Sys2Proof.Machine

/-! ## The network engine -/

/-- A started work request of context 0, on a die with endpoint 0. -/
def request (ws : List Word) : WorkReq := { num := 7, words := ws, core := c0, ctx := 0, started := true }
def netAt (p : Place) (w : WorkReq) (f : Die → Die) : State :=
  { setDie { coreState (fun x => { x with ranges := [(0, entry0)] }) with here := p } 0 (f { die2 with wreqs := [w] }) with mem := otherRanks }

/-- NetworkEngineMoves: requests that have all started, and one that has not. -/
theorem witness_request_start :
    (netAt (.die 0) (request send0) id).here = .die 0 ∧ (∀ w ∈ (getDie (netAt (.die 0) (request send0) id) 0).wreqs, w.started = true) ∧
    (let w := { request send0 with started := false }
     let s := netAt (.die 0) w id
     (getDie s 0).wreqs.find? (fun w => !w.started) = some w ∧ findWr s 0 w.num = some w) := by decide +kernel

/-- NetworkEngineMoves: a request that sends nothing, a page that the scout passes, and a packet that is sent, sent again, sent again after its time, given up, and one whose time
has not come. -/
theorem witness_packets :
    let w := request send0
    let pk (p : PktSt) : WorkReq := { w with pkts := [(0, p)] }
    let s (w : WorkReq) := netAt (.packetOf 0 7 0) w id
    (s w).here = .packetOf 0 7 0 ∧ findWr (s w) 0 7 = some w ∧ w.num = 7 ∧ wrSends { w with status := some 2 } = false ∧ wrSends w = true ∧ w.scout = 0 ∧
    0 < (wrLaddr w + word (wrLen w - 64)).toNat / 2 ^ 16 - (wrLaddr w).toNat / 2 ^ 16 + 1 ∧ knownReq w.reqs 0x10 = none ∧
    translate (s w) 0 (coreTable (getCl (s w) c0)) 0 (word (((wrLaddr w).toNat / 2 ^ 16 + 0) * 65536)) (wrNeed w) = .ok 0x200000 0 none ∧
    0 < wrPkts w ∧ wrPos w = 0 ∧ sendsBefore (getDie (s w) 0) 7 = false ∧ wrRod w = false ∧ (getDie (s w) 0).neinj.getLsbD 63 = false ∧ keyPasses (getDie (s w) 0) (ctxKey (s w) 0 (epCtx (s w) 0 (wrEp w))) 16 = true ∧
    wrSends (pk { sent := true, lost := true }) = true ∧ findWr (s (pk { sent := true, lost := true })) 0 7 = some (pk { sent := true, lost := true }) ∧
    aget ({} : PktSt) (pk { sent := true, tries := 7 }).pkts 0 = { sent := true, tries := 7 } ∧ (0 : Nat) ≤ (s w).clock ∧
    aget ({} : PktSt) (pk { sent := true, tries := 8 }).pkts 0 = { sent := true, tries := 8 } ∧ (s w).clock < ({ sent := true, due := 1 } : PktSt).due := by decide +kernel

/-- NetworkEngineMoves: a packet that waits for an older request's. -/
theorem witness_packet_waits :
    let w := request send0
    let s := netAt (.packetOf 0 7 0) w fun x => { x with wreqs := [{ w with num := 6 }, w] }
    findWr s 0 7 = some w ∧ (aget ({} : PktSt) w.pkts 0).sent = false ∧ wrSends w = true ∧ sendsBefore (getDie s 0) 7 = true := by decide +kernel

theorem witness_packet_span : ∃ s1 rs pas, neSpan 0 c0 0 .r (pktLen 64 0 / 64) 0x100000 [] (netAt (.packetOf 0 7 0) (request send0) id) = (s1, rs, .ok pas) := ⟨_, _, _, rfl⟩

/-- A WRITE's packet of 64 bytes for endpoint 0. -/
def packet0 (key : BitVec 12) (trimmed : Bool) (b : PacketBody) : Packet := { pid := 0, src := 0, dst := 0, sec := none, job := 0, pkey := key, plsn := 0, trimmed := trimmed, body := b }
def write0 : PacketBody := .write 7 0x100000 64 false 0 (List.replicate 64 9) []

/-- NetworkEngineMoves: packets trimmed, without a key that passes, for no endpoint, and placed. -/
theorem witness_packet_receive :
    let s (p : Packet) := netAt (.packet 0 0 p) (request send0) id
    let p := packet0 0 false write0
    (s p).here = .packet 0 0 p ∧ (packet0 0 true write0).trimmed = true ∧ p.trimmed = false ∧ keyPasses (getDie (s p) 0) 6 16 = false ∧
    keyPasses (getDie (s p) 0) p.pkey.toNat 16 = true ∧ epAccepts (s p) 0 { p with pid := 1 } = false ∧ epAccepts (s p) 0 p = true ∧ (getEp (s p) 0 0).refused = [] ∧
    (7, 0) ∉ (getEp (s p) 0 0).taken ∧ knownReq (getEp (s p) 0 0).reqs 0x10 = none ∧ ((getEp (s p) 0 0).got + 1) % 4 ≠ 0 ∧
    translate (s p) 0 (coreTable (getCl (s p) (epCore (s p) 0 0))) (epCtx (s p) 0 0) 0x100000 .w = .ok 0x200000 0 none ∧ parkedAll (s p) = [] := by decide +kernel

/-- NetworkEngineMoves: the packet of a WRITE again while it is being placed, and after; of a SEND with a RECV and without; of a READ, and its return. -/
theorem witness_packet_bodies :
    let l0 : Landing := { core := c0, seq := 0, msg := 7, off := 0, ctx := 0, left := [(0, 0x200000)], bytes := List.replicate 64 9, bad := [] }
    let at_ (b : PacketBody) (w : WorkReq) (e : Endpoint) := netAt (.packet 0 0 (packet0 0 false b)) w fun x => { x with eps := [(0, e)] }
    let send : PacketBody := .send 7 0 64 false 0 (List.replicate 64 9) []
    let recv : WorkReq := { request [0x100000, 0, 64, 0x0001_0000_0000_3000, 0, 0, 0, 0] with num := 5 }
    let read : WorkReq := request [0x100000, 0x100000, 64, 0x0001_0000_0000_2000, 0, 0, 0, 0]
    epAccepts (at_ write0 (request send0) { landing := [l0] }) 0 (packet0 0 false write0) = true ∧
    (let s := at_ write0 (request send0) { landing := [l0] }
     l0 ∈ (getEp s 0 0).landing ∧ (7, 0) ∉ (getEp s 0 0).taken ∧ (getEp s 0 0).refused = []) ∧
    (let s := at_ write0 (request send0) { taken := [(7, 0)] }
     (7, 0) ∈ (getEp s 0 0).taken ∧ ((getEp s 0 0).got + 1) % 4 ≠ 0) ∧
    (let s := at_ send (request send0) {}
     matchRecv s 0 0 7 0 64 = none ∧ keyPasses (getDie s 0) (ctxKey s 0 (epCtx s 0 0)) 16 = true ∧ (epPort s 0 0).val = 0) ∧
    (let s := at_ send recv {}
     matchRecv s 0 0 7 0 64 = some recv ∧ findWr s 0 5 = some recv ∧ translate s 0 (coreTable (getCl s (epCore s 0 0))) (epCtx s 0 0) (wrLaddr recv + word 0) .w = .ok 0x200000 0 none) ∧
    pktLen 64 0 = 64 ∧ translate (at_ send recv {}) 0 (coreTable (getCl (at_ send recv {}) c0)) 0 0x100000 .r = .ok 0x200000 0 none ∧
    (let s := at_ (.readReturn 7 0 (List.replicate 64 9) []) read {}
     findWr s 0 7 = some read ∧ wrSends read = true ∧ wrOp read = 2 ∧ wrEp read = 0 ∧ 0 / 4096 < wrPkts read ∧ (aget ({} : PktSt) read.pkts 0).acked = false ∧
     knownReq read.reqs 0x10 = none ∧ translate s 0 (coreTable (getCl s c0)) 0 (wrLaddr read + word 0) .w = .ok 0x200000 0 none) := by decide +kernel

/-- NetworkEngineMoves: granules of a packet being placed: not the last, the last of a WRITE, of a SEND, the last of a fourth packet, and of a READ's return. -/
theorem witness_landing :
    let l : Landing := { core := c0, seq := 0, msg := 7, off := 0, ctx := 0, left := [(0, 0x200000)], bytes := List.replicate 64 9, bad := [] }
    let s (l : Landing) (got : Nat) : State := netAt (.granule (.network 0) 0) (request send0) fun x => { x with eps := [(0, { landing := [l], got := got })] }
    ([l, { l with left := [(0, 0x200000), (1, 0x200040)], bytes := List.replicate 128 9 }, { l with recv := some 7 }, { l with back := true }].all fun l =>
      decide ((netGrans (getDie (s l 0) 0))[0]? = some (0, 0, 0, 0x200000) ∧ (getEp (s l 0) 0 0).landing[0]? = some l ∧ ((l.bytes.drop (64 * 0)).take 64).length = 64 ∧ parkedAll (s l 0) = [])) = true ∧
    (∀ g ∈ l.left, g.1 = 0) ∧ l.back = false ∧ l.rod = false ∧ findWr (s l 0) 0 7 = some (request send0) ∧ ((getEp (s l 3) 0 0).got + 1) % 4 = 0 ∧
    ((getEp (s l 0) 0 0).got + 1) % 4 ≠ 0 ∧ ¬ (∀ g ∈ [((0 : Nat), (0x200000 : Nat)), (1, 0x200040)], g.1 = 0) := by decide +kernel

/-- NetworkEngineMoves: an acknowledgement and a refusal for a request; acknowledgements owed, before their time and after; none owed. -/
theorem witness_acks :
    (let p := packet0 0 false (.ack [(7, 0)])
     let s := netAt (.packet 0 0 p) (request send0) id
     p.body = .ack [(7, 0)] ∧ p.trimmed = false ∧ keyPasses (getDie s 0) p.pkey.toNat 16 = true ∧ epAccepts s 0 p = true ∧ (request send0).num = 7 ∧ findWr s 0 7 = some (request send0) ∧ wrEp (request send0) = p.pid ∧ wrOp (request send0) < 2) ∧
    (let p := packet0 0 false (.refuse 7 3)
     let s := netAt (.packet 0 0 p) (request send0) id
     p.body = .refuse 7 3 ∧ epAccepts s 0 p = true ∧ wrSends (request send0) = true) ∧
    (let s (e : Endpoint) (n : Nat) : State := { netAt (.endpoint 0 0) (request send0) (fun x => { x with eps := [(0, e)] }) with clock := n }
     let e : Endpoint := { unacked := [(7, 0)] }
     (s {} 0).here = .endpoint 0 0 ∧ (getEp (s {} 0) 0 0).unacked = [] ∧ (s e 3999).clock < (getEp (s e 3999) 0 0).lastAt + 2 * Config.cyclesPerUs ∧
     (getEp (s e 4000) 0 0).lastAt + 2 * Config.cyclesPerUs ≤ (s e 4000).clock ∧ (getEp (s e 4000) 0 0).unacked = [(7, 0)] ∧
     keyPasses (getDie (s e 4000) 0) (ctxKey (s e 4000) 0 (epCtx (s e 4000) 0 0)) 16 = true) := by decide +kernel

/-- NetworkEngineMoves: a request that is not done; done, with a counter and without. -/
theorem witness_request_complete :
    let w := request send0
    let v : WorkReq := { w with pkts := [(0, { sent := true, acked := true })] }
    let c : WorkReq := { v with words := [0x100000, 0, 64, 0x0001_0000_0000_0000, 0x100040, 0, 0, 0] }
    let s (w : WorkReq) := netAt (.item 0 7) w id
    ([w, v, c].all fun w => decide ((s w).here = .item 0 7 ∧ findWr (s w) 0 7 = some w ∧ w.num = 7 ∧ (getDie (s w) 0).wreqs.head? = some w)) = true ∧
    wrDone w = false ∧ wrLands (s v) 0 v = false ∧ wrLands (s c) 0 c = false ∧
    wrLands (netAt (.item 0 7) w fun x => { x with eps := [(0, { landing := [{ core := c0, seq := 0, msg := 7, off := 0, ctx := 0, left := [], bytes := [], bad := [], back := true }] })] }) 0 w = true ∧
    wrDone v = true ∧ wrCnt v = 0 ∧ wrDone c = true ∧ wrCnt c ≠ 0 ∧ c.bump = none ∧
    translate (s c) 0 (coreTable (getCl (s c) c0)) 0 (wrCnt c) .w = .ok 0x200040 0 none ∧ parkedAll (s c) = [] := by decide +kernel

/-! ## Contexts -/

/-- The launch of context 5, whose state is `st`, on its tile; the context table has a save area of `pages` pages of 4,096 bytes at 0x30_0000. -/
def tenantAt (p : Place) (st pages : Byte) (x : Launch) (z : CtxRun) (d : Die → Die) : State :=
  { setDie (launchState p x) 0 (d { die1 with prect := [(0, 0x8000000000000041)], ctxs := [(5, z)] }) with mem := [(0x40147, st * 16), (0x40152, 0x30), (0x40158, pages)] }

/-- A launch with a slice of 1,000 cycles. -/
def sliced (len : Nat) (f : Launch → Launch) : Launch := f { run0 with lr := { run0.lr with quant := 1 }, sliceLen := len }

/-- A state at the end of a slice of context 5: its working set recorded, the end noted. -/
def sliceEnds (s : State) : State := updCtx (recordWs s 0 5) 0 5 fun z => { z with sliceEnd := s.clock }

/-- ContextMoves: a launch with no slice, one whose slice goes on, one whose slice is over, with none waiting; one that owes a yield. -/
theorem witness_slices :
    let s (x : Launch) (n : Nat) (d : Die → Die) : State := { tenantAt (.launch l0) 1 0 x {} d with clock := n }
    let x := sliced 1000 id
    (s x 0 id).here = .launch l0 ∧ findLaunch (s x 0 id) l0 = some x ∧ (sliced 0 id).sliceLen = 0 ∧ (s x 999 id).clock < x.sliceAt + x.sliceLen ∧ x.corner ≠ none ∧
    x.sliceAt + x.sliceLen ≤ (s x 1000 id).clock ∧ ctxState (s x 1000 id) 0 5 = 1 ∧ owesYield (sliceEnds (s x 1000 id)) 0 5 = false := by decide +kernel

/-- ContextMoves: a slice that ends while its context yields; one that had ended before. -/
theorem witness_slice_in_yield :
    let s (x : Launch) : State := { tenantAt (.launch l0) 2 0 x {} id with clock := 1000 }
    let x := sliced 1000 id
    let y := sliced 1000 fun x => { x with expired := some 900 }
    findLaunch (s x) l0 = some x ∧ findLaunch (s y) l0 = some y ∧ ctxState (s x) 0 5 = 2 ∧ ctxState (s y) 0 5 = 2 ∧ x.corner ≠ none ∧ x.sliceLen ≠ 0 ∧
    x.sliceAt + x.sliceLen ≤ (s x).clock ∧ x.st = .running ∧ x.expired = none ∧ y.expired ≠ none := by decide +kernel

/-- Another launch of context 5's partition waits for a tile, of higher priority. -/
theorem witness_slice_yields :
    let y : Launch := { waiting1 with lr := { run0.lr with ctx := 6, prio := 3, quant := 50 }, order := 1, place := 0x80000001 }
    let s : State := { setLaunch (tenantAt (.launch l0) 1 0 (sliced 1000 id) {} id) ⟨0, 2⟩ y with clock := 1000, mem := [(0x40147, 0x10), (0x40187, 0x10)] }
    findLaunch s l0 = some (sliced 1000 id) ∧ (sliced 1000 id).sliceAt + (sliced 1000 id).sliceLen ≤ s.clock ∧ ctxState s 0 5 = 1 ∧ owesYield (sliceEnds s) 0 5 = true := by
  decide +kernel

/-- ContextMoves: a region that is late to a boundary, one that is not; a drain that ends empty, at its time, and one that goes on. -/
theorem witness_watchdog :
    let x := sliced 1000 id
    let s (st : Byte) (x : Launch) (n : Nat) : State := { tenantAt (.launch l0) st 0 x {} id with clock := n }
    findLaunch (s 2 x 8000) l0 = some x ∧ ctxState (s 2 x 8000) 0 5 = 2 ∧ x.st = .running ∧ x.drainAt = none ∧ x.sliceLen ≠ 0 ∧
    x.sliceAt + 4 * x.lr.quant * Config.cyclesPerUs ≤ 8000 ∧ phaseOver (s 2 x 8000) l0 x = false ∧ ¬ (x.sliceAt + 4 * x.lr.quant * Config.cyclesPerUs ≤ 7999) ∧
    (let y := sliced 1000 fun x => { x with drainAt := some 0 }
     y.issuer = some c0 ∧ findLaunch (s 2 y 1) l0 = some y ∧ (∀ u ∈ regionTiles l0 y, tileEmpty (lessParked (getTile (s 2 y 1) u)) = true) ∧
     (let t : State := updTile (s 2 y 1) tl fun z => { z with outs := [(0, [.vec (vt 5)])] }
      findLaunch t l0 = some y ∧ regionTiles l0 y = [tl] ∧ tileEmpty (lessParked (getTile t tl)) = false ∧ t.clock < 0 + 1000 * Config.cyclesPerUs) ∧
     0 + 1000 * Config.cyclesPerUs ≤ 2000000) := by decide +kernel

/-- ContextMoves: each state of a context at its commands, busy and not; a yield with room for its image and without; a context with nothing placed. -/
theorem witness_contexts :
    let s (st pages : Byte) (x : Launch) (z : CtxRun) (d : Die → Die) := tenantAt (.context 0 5) st pages x z d
    let b := { run0 with st := .boundary }
    (s 1 0 run0 {} id).here = .context 0 5 ∧ (getDie (s 1 0 run0 {} fun x => { x with busy := true }) 0).busy = true ∧ (getDie (s 1 0 run0 {} id) 0).busy = false ∧
    ([0, 1, 2, 3, 4, 5, 6, 7].all fun n : Nat => decide (ctxState (s (BitVec.ofNat 8 n) 0 run0 {} id) 0 5 = n)) = true ∧
    (ctxLaunches (s 2 1 b {} id) 0 5).map (·.1) = [l0] ∧ (ctxLaunches (s 2 1 { b with corner := none } {} id) 0 5).filter (fun e => e.2.corner.isSome) = [] ∧
    atStop b = true ∧ ctxLaunches (s 2 0 b {} id) 0 5 = [(l0, b)] ∧
    (ctxLaunches (s 2 0 run0 {} id) 0 5).filter (fun e => e.2.corner.isSome) = [(l0, run0)] ∧ atStop run0 = false ∧
    regionQuiescent (s 2 0 run0 {} id) l0 run0 = false ∧
    (let z : CtxRun := { body := List.replicate 100 7, image := 0x300000, len := 164, written := 64 }
     ctxState (s 3 1 b z id) 0 5 = 3 ∧ getCtx (s 3 1 b z id) 0 5 = z ∧ z.body ≠ []) ∧
    (let z : CtxRun := { image := 0x300000, len := 164, written := 164 }
     ctxState (s 3 1 b z id) 0 5 = 3 ∧ (getCtx (s 3 1 b z id) 0 5).body = [] ∧ ctxAddr (s 3 1 b z id) 0 5 + 8 ≤ z.image) := by decide +kernel

/-- A launch of context 5 at a boundary, on a cluster whose ABUF is split between other partitions; YIELDING. -/
def yieldAt (pages : Byte) : State := setCl (tenantAt (.context 0 5) 2 pages { run0 with st := .boundary } {} id) c0 { split := true }

/-- ContextMoves: a yield with room for its image and without. -/
theorem witness_preempt :
    ([0, 1].all fun pages : Byte =>
      let s := yieldAt pages
      decide (s.here = .context 0 5 ∧ ctxState s 0 5 = 2 ∧ ((ctxLaunches s 0 5).filter fun e => e.2.corner.isSome) = [(l0, { run0 with st := .boundary })])) = true ∧
    atStop { run0 with st := .boundary } = true ∧ (getCl (yieldAt 1) (homeOf (yieldAt 1) l0 { run0 with st := .boundary })).ivbase.getLsbD 0 = false ∧
    (let s1 (pages : Byte) := recordWs (addOverrun (yieldAt pages) l0) 0 5
     let len (pages : Byte) := 64 + (imageBody (s1 pages) 0 5).length
     len 0 = 1032 ∧ len 1 = 1032 ∧ 4096 * ((memWord (s1 0) (ctxAddr (yieldAt 0) 0 5 + 0x18)).toNat % 2 ^ 32) = 0 ∧
     4096 * ((memWord (s1 1) (ctxAddr (yieldAt 1) 0 5 + 0x18)).toNat % 2 ^ 32) = 4096) := by decide +kernel

/-- A saved context, its region's launch with a quantum, and the memory at its image. -/
def savedCtx : CtxRun := { saved := [{ handle := 1, corner := (0, 0), quiescent := false, tiles := [] }], image := 0x300000, len := 64, gateOk := true }
def restoreAt (quant : Nat) (z : CtxRun) (m : Assoc Byte) : State :=
  let s := tenantAt (.context 0 5) 4 1 { run0 with st := .saved, corner := none, lr := { run0.lr with quant := quant } } z id
  { s with mem := s.mem ++ m }

/-- ContextMoves: a saved context that may be restored; that has a debt; that is suspended, and served after another. -/
theorem witness_restore :
    (let s := restoreAt 1 savedCtx []
     s.here = .context 0 5 ∧ ctxState s 0 5 = 4 ∧ savedFree s 0 5 = true ∧ getCtx s 0 5 = savedCtx ∧ servedBefore s 0 (savedTurn s 0 5) = false ∧
     ctxDebt s 0 5 < savedQuant s 0 5 ∧ savedCtx.gateOk = true ∧
     findLaunch s ⟨0, 1⟩ = some { run0 with st := .saved, corner := none, lr := { run0.lr with quant := 1 } }) ∧
    (let s := restoreAt 0 savedCtx []
     s.here = .context 0 5 ∧ ctxState s 0 5 = 4 ∧ savedFree s 0 5 = true ∧ servedBefore s 0 (savedTurn s 0 5) = false ∧ savedQuant s 0 5 ≤ ctxDebt s 0 5) ∧
    (let s := restoreAt 1 { savedCtx with suspended := true } []
     s.here = .context 0 5 ∧ savedFree s 0 5 = false) ∧
    (let z : CtxRun := { savedCtx with waitAt := 3 }
     let s0 := restoreAt 1 z []
     let s : State := { setDie s0 0 { getDie s0 0 with ctxs := [(5, z), (6, savedCtx)] } with mem := s0.mem ++ [(0x40187, 0x40)] }
     s.here = .context 0 5 ∧ servedBefore s 0 (savedTurn s 0 5) = true) := by decide +kernel

/-- ContextMoves: a saved context whose residency gate is not met. -/
theorem witness_restore_gate :
    let z : CtxRun := { savedCtx with gateOk := false }
    let x : Launch := { run0 with st := .saved, corner := none, lr := { run0.lr with quant := 1, resmin := 256 } }
    let s0 := tenantAt (.context 0 5) 4 1 x z fun d => { d with tierbase := die3.tierbase }
    let s : State := { s0 with mem := s0.mem ++ [(0x80142, 0x0A), (0x80148, 4), (0x80157, 0x40), (0x8015C, 1), (0xA0000, 2)] }
    s.here = .context 0 5 ∧ ctxState s 0 5 = 4 ∧ savedFree s 0 5 = true ∧ servedBefore s 0 (savedTurn s 0 5) = false ∧ ctxDebt s 0 5 < savedQuant s 0 5 ∧
    (getCtx s 0 5).gateOk = false ∧ gateFree s 0 5 (savedResmin s 0 5) = false := by decide +kernel

/-- The header that a save wrote, as memory. -/
def headerMem : Assoc Byte := (List.range 64).map fun i => (0x300000 + i, Config.imageByte ((1 : Nat), (5 : BitVec 12), (0 : BitVec 8), (64 : Nat)) 0 i)

/-- ContextMoves: an image as saved, and one whose first byte has changed. -/
theorem witness_image : memRead (restoreAt 1 savedCtx headerMem) 0x300000 64 = imageHeader 1 5 0 64 ∧ ctxGen (restoreAt 1 savedCtx headerMem) 0 5 = 0 := by
  refine ⟨?_, by decide +kernel⟩
  rfl

theorem witness_image_lost :
    let b : Byte := Config.imageByte ((1 : Nat), (5 : BitVec 12), (0 : BitVec 8), (64 : Nat)) 0 0
    memRead (restoreAt 1 savedCtx [(0x300000, b + 1)]) 0x300000 64 ≠ imageHeader 1 5 0 64 := by
  intro b h
  have h0 : some (b + 1) = some b := congrArg List.head? h
  simp at h0

/-- ContextMoves: a context being restored whose regions stood at boundaries. -/
theorem witness_restored :
    let s := tenantAt (.context 0 5) 5 1 run0 savedCtx id
    ctxState s 0 5 = 5 ∧ getCtx s 0 5 = savedCtx ∧ (∀ r ∈ savedCtx.saved, r.quiescent = false) ∧ parkedAll s = [] ∧ findLaunch s ⟨0, 1⟩ = some run0 := by decide +kernel

/-- ContextMoves: a context being restored whose region stood at a fault-quiescent point, with an access that is issued again. -/
theorem witness_restored_quiescent :
    let y : Tile := { port := { queue := [access .ld (memWordOf .ld) 0x100000] } }
    let z : CtxRun := { savedCtx with saved := [{ handle := 1, corner := (0, 0), quiescent := true, tiles := [(tileKey tl, y)] }] }
    let s := tenantAt (.context 0 5) 5 1 run0 z id
    ctxState s 0 5 = 5 ∧ getCtx s 0 5 = z ∧ (∀ r ∈ z.saved, r.quiescent = true ∧ ∀ e ∈ r.tiles, ∀ a ∈ e.2.port.queue, a.parked = none) ∧ parkedAll s = [] ∧
    findLaunch s ⟨0, 1⟩ = some run0 := by decide +kernel

/-- ContextMoves: guards that follow PRECT and guards that need not; drops at a port, to report, too early, and none. -/
theorem witness_guards_and_drops :
    (let s (b : Bool) : State := { setDie State.reset 0 { guardDue := b } with here := .die 0 }
     (s true).here = .die 0 ∧ (getDie (s true) 0).guardDue = true ∧ (getDie (s false) 0).guardDue = false) ∧
    (let s (y : PortDrop) (n : Nat) : State := { setDie State.reset 0 { portDrops := [(34, [y])] } with here := .port 0 17 false, clock := n }
     let y : PortDrop := { count := 2, core := some c0 }
     (s y 0).here = .port 0 17 false ∧ aget [] (getDie (s y 0) 0).portDrops (2 * 17) = [y] ∧ aget [] (getDie (s y 0) 0).portDrops (2 * 17 + 1) = [] ∧ y.core = some c0 ∧
     (s y 0).clock < aget 0 (getDie (s y 0) 0).portAt 34 + 1000 * Config.cyclesPerUs ∧
     aget 0 (getDie (s y 2000000) 0).portAt 34 + 1000 * Config.cyclesPerUs ≤ (s y 2000000).clock) := by decide +kernel

end Sys2Proof.Tests
end

