-- ==== Sys2Proof/Tests/WitnessLodge.lean ====
section
/-! SUPPORT. States and operands that meet the hypotheses of the statements about the Parterre, Lodge, the host and power. -/
set_option Elab.async false
namespace Sys2Proof.Tests
open Sys2Proof Sys2Proof.Machine

/-! ## The Parterre -/

/-- A die whose partition 0 is its first two clusters, with the Parterre on for it; the second cluster talks to the first. -/
def dieP (f : Die → Die) : Die := f { prect := [(0, 0x80000000000001CF)], ptctl := 0x8000000000000001, traf := [(1 * 64 + 0, 100), (0 * 64 + 63, 0)] }

/-- A launch that may move, held at a boundary in cluster 0 with one thread waiting. -/
def heldRun (n : Nat) : Launch :=
  { run0 with lr := { run0.lr with pmove := true }, st := .boundary, hold := some n, threads := [(0, { pc := 0, t := [] })] }
def parterreAt (p : Place) (clock : Nat) (f : Die → Die) (x : Launch) : State := { setDie (launchState p x) 0 (dieP f) with clock := clock }

/-- ParterreMoves: evaluation off, early, and due; a map change that is due, that waits, and none. -/
theorem witness_evaluation :
    (parterreAt (.die 0) 0 id run0).here = .die 0 ∧ (getDie (parterreAt (.die 0) 0 (fun x => { x with ptctl := 0 }) run0) 0).ptctl.getLsbD 63 = false ∧
    (let s := parterreAt (.die 0) 20000000 id run0
     (getDie s 0).ptctl.getLsbD 63 = true ∧ (getDie s 0).evalAt + 10000 * Config.cyclesPerUs ≤ s.clock ∧ (∀ e ∈ launchesOf s 0, e.2.hold = none) ∧
     (19999999 : Nat) < 0 + 10000 * Config.cyclesPerUs) ∧
    (let s (k : Nat) := parterreAt (.die 0) 5 (fun x => { x with mapUntil := some k }) run0
     (getDie (s 5) 0).mapUntil = some 5 ∧ 5 ≤ (s 5).clock ∧ (s 6).clock < 6 ∧ (getDie (parterreAt (.die 0) 0 id run0) 0).mapUntil = none) := by decide +kernel

/-- ParterreMoves: a pair that gains: the long-resident launch of cluster 0 and the empty cluster 1, with which it talks. -/
theorem witness_gaining :
    let y := { run0 with lr := { run0.lr with pmove := true } }
    let s : State := { parterreAt (.die 0) 200000000 (fun x => { x with ctxbase := 0x8000_0000_0004_0000, traf := [(0 * 64 + 1, 100)] }) y with mem := [(0x40147, 0x10)] }
    gaining s 0 = [{ a := 0, b := 1, dist := 100, dist' := 0 }] := by decide +kernel

def pair0 : Pair := { a := 0, b := 1, dist := 100, dist' := 0 }

/-- ParterreMoves: a pair that is ready, one that is not, and one held too long. -/
theorem witness_exchange :
    let s := parterreAt (.item 0 0) 5 (fun x => { x with armed := [pair0] }) (heldRun 0)
    s.here = .item 0 0 ∧ (getDie s 0).armed[0]? = some pair0 ∧ (getDie s 0).ptctl.getLsbD 63 = true ∧ (∀ i : Fin 64, (getCl s ⟨0, i⟩).shoots = []) ∧
    movable s 0 0 = true ∧ movable s 0 1 = true ∧ stillPhys s 0 0 = true ∧ stillPhys s 0 1 = true ∧ pair0.a ≠ pair0.b ∧
    pclOfLcl s (lclOfPcl s 0 pair0.a) = pair0.a ∧ pclOfLcl s (lclOfPcl s 0 pair0.b) = pair0.b ∧
    (onPhys s 0 0 ++ onPhys s 0 1).map (·.1) = [l0] ∧ findLaunch s l0 = some (heldRun 0) ∧ liveThreads (heldRun 0) ≠ 0 ∧
    (let t := parterreAt (.item 0 0) 5 (fun x => { x with armed := [pair0] }) run0
     movable t 0 0 = false) ∧
    launchesOf s 0 = [(l0, heldRun 0)] ∧ cornerPhys (heldRun 0) = some 0 ∧ ¬ (0 + 100 * Config.cyclesPerUs ≤ s.clock) ∧
    (let t := parterreAt (.item 0 0) 200000 (fun x => { x with armed := [pair0] }) (heldRun 0)
     (getDie t 0).armed[0]? = some pair0 ∧ (heldRun 0).hold = some 0 ∧ 0 + 100 * Config.cyclesPerUs ≤ t.clock) := by decide +kernel

/-- ParterreMoves: a held launch whose active plane has a busy window. -/
theorem witness_exchange_window :
    let s := updTile (parterreAt (.item 0 0) 5 (fun x => { x with armed := [pair0] }) (heldRun 0)) tl (putWord 3 (wordM .ld { memWordOf .ld with cls := .stream }) 0)
    (pclOf tl).val = 0 ∧ busyWindows (getTile s tl) = [3] ∧ (onPhys s 0 0).map (·.1) = [l0] ∧ stillPhys s 0 0 = true := by decide +kernel

/-! ## Lodge -/

/-- A command: tag 9, its operation, the argument, and word 3; a body. -/
def command (op : Nat) (arg : Word) (w3 : Word) (body : List Word) : LodgeCmd :=
  { src := 0x77, die := 0, bytes := ([9, word (op * 2 ^ 56 + body.length * 8 * 2 ^ 32), arg, w3, 0, 0, 0, 0] ++ body).flatMap fun w => bytesOf 8 w.toNat }

/-- A package with its journal at 0x50_0000, of 1,024 entries. -/
def lodgeAt (c : LodgeCmd) (j : List (List Byte)) (f : Cluster → Cluster) : State :=
  { setDie (coreState f) 0 die1 with ljbase := 0x800000000050000A, journal := j, here := .command c, mem := [(0x40147, 0x10)] }

/-- LodgeHostAndPower: sends too short and too long; a journal that is off, for a command of every operation; a command seen before; a bad header. -/
theorem witness_commands_refused :
    (let c : LodgeCmd := { src := 0, die := 0, bytes := [1] }
     (lodgeAt c [] id).here = .command c ∧ c.bytes.length < 64) ∧
    (let c : LodgeCmd := { src := 0, die := 0, bytes := List.replicate 1025 0 }
     (lodgeAt c [] id).here = .command c ∧ 1024 < c.bytes.length) ∧
    ([0, 1, 2, 3, 4, 5, 6].all fun op =>
      let c := command op 0 0 []
      let s : State := { lodgeAt c [] id with ljbase := 0 }
      decide (s.here = .command c ∧ 64 ≤ c.bytes.length ∧ c.bytes.length ≤ 1024 ∧ cmdOp c = op ∧ s.ljbase.getLsbD 63 = false)) = true ∧
    (let c := command 3 0 0 []
     let e := lodgeEntry (lodgeAt c [] id) c 0 0
     let s := lodgeAt c [e] id
     s.here = .command c ∧ 64 ≤ c.bytes.length ∧ c.bytes.length ≤ 1024 ∧ cmdOp c = 3 ∧ s.ljbase.getLsbD 63 = true ∧ lodgeSeen s c = some e) ∧
    (let c := command 3 0 0x200000 []
     let s := lodgeAt c [] id
     s.here = .command c ∧ 64 ≤ c.bytes.length ∧ c.bytes.length ≤ 1024 ∧ cmdOp c = 3 ∧ s.ljbase.getLsbD 63 = true ∧ lodgeSeen s c = none ∧ headerOk c = false) := by
  decide +kernel

/-- A command at its turn, at a core in a state. -/
def turnAt (op : Nat) (arg w3 : Word) (body : List Word) (f : Cluster → Cluster) : State := lodgeAt (command op arg w3 body) [] f

/-- A core that has stopped: coreState starts the core that it is given. -/
def stoppedAt (op : Nat) (arg w3 : Word) (f : Cluster → Cluster) : State :=
  updCl (turnAt op arg w3 [] id) c0 fun x => f { x with run := .stopped }

/-! LodgeHostAndPower, a witness for each clause about an operation. -/

theorem witness_unassigned_op : ∀ op ∈ [0, 6], LodgeTurn (turnAt op 0 0 [] id) (command op 0 0 []) ∧ (cmdOp (command op 0 0 []) = 0 ∨ 5 < cmdOp (command op 0 0 [])) := by
  unfold LodgeTurn; decide +kernel

theorem witness_cstart : let c := command 2 0x100 0 []
    let s := stoppedAt 2 0x100 0 id
    LodgeTurn s c ∧ cmdOp c = 2 ∧ (getCl s (cmdCore c)).run = .stopped ∧ (getCl s (cmdCore c)).corestop = false ∧ (getCl s (cmdCore c)).pstate = 0 := by
  unfold LodgeTurn; decide +kernel

/-- A core that runs; one that a trap in system mode stopped (R269); one whose voltage is off. -/
theorem witness_cstart_refused : let c := command 2 0x100 0 []
    (LodgeTurn (turnAt 2 0x100 0 [] id) c ∧ cmdOp c = 2 ∧ (getCl (turnAt 2 0x100 0 [] id) (cmdCore c)).run ≠ .stopped) ∧
    (let s := stoppedAt 2 0x100 0 fun x => { x with corestop := true }
     LodgeTurn s c ∧ (getCl s (cmdCore c)).corestop = true) ∧
    (let s := stoppedAt 2 0x100 0 fun x => { x with pstate := 1 }
     LodgeTurn s c ∧ (getCl s (cmdCore c)).pstate ≠ 0) := by unfold LodgeTurn; decide +kernel

theorem witness_cstop : let c := command 3 0 0 []
    LodgeTurn (turnAt 3 0 0 [] id) c ∧ cmdOp c = 3 := by unfold LodgeTurn; decide +kernel

/-- REGWR and REGRD of a register that is not assigned; while the core's stores have not drained; of TVECS. -/
theorem witness_register_commands : ∀ op ∈ [4, 5],
    (let c := command op 8 0xFFFF []
     LodgeTurn (turnAt op 8 0xFFFF [] id) c ∧ cmdOp c = op ∧ regAssigned (cmdReg c) = false) ∧
    (let c := command op 0x100 8 []
     let s := turnAt op 0x100 8 [] fun x => { x with sb := [⟨0, [1], 0, 0⟩] }
     LodgeTurn s c ∧ cmdOp c = op ∧ regAssigned (cmdReg c) = true ∧ (getCl s (cmdCore c)).sb ≠ []) ∧
    (let c := command op 0x100 8 []
     let s := turnAt op 0x100 8 [] id
     LodgeTurn s c ∧ cmdOp c = op ∧ regAssigned (cmdReg c) = true ∧ cmdReg c = 8 ∧ (cmdArg c).toNat % 8 = 0 ∧
     (getCl s (cmdCore c)).sb = [] ∧ (getCl s (cmdCore c)).loads = []) := by unfold LodgeTurn; decide +kernel

/-- The words of a LAUNCH's record. -/
def cmdRecord (c : LodgeCmd) : List Word := (List.range 32).map fun i => cmdWord c (8 + i)

/-- A LAUNCH of more than 16 ports, and of a body of another length. -/
theorem witness_lodge_launch_lengths :
    (let c := command 1 0 0x110000 record5
     LodgeTurn (lodgeAt c [] id) c ∧ cmdOp c = 1 ∧ 16 < cmdPorts c) ∧
    (let c := command 1 0 0x10000 record5
     LodgeTurn (lodgeAt c [] id) c ∧ cmdOp c = 1 ∧ cmdBody c ≠ 256 + 32 * cmdPorts c) := by unfold LodgeTurn; decide +kernel

/-- What the LAUNCHes below share. -/
def lodgeLaunchTurn (c : LodgeCmd) : Prop :=
  LodgeTurn (lodgeAt c [] id) c ∧ cmdOp c = 1 ∧ cmdPorts c ≤ 16 ∧ cmdBody c = 256 + 32 * cmdPorts c

/-- A record that is no record; a port entry with a reserved bit set. -/
theorem witness_lodge_launch_bad :
    (let c := command 1 0 0 (List.replicate 32 1)
     lodgeLaunchTurn c ∧ parseRecord (cmdRecord c) = none) ∧
    (let c := command 1 0 0x10000 (record5 ++ [0, 1, 0, 0])
     lodgeLaunchTurn c ∧ cmdSet c = none) := by unfold lodgeLaunchTurn LodgeTurn; decide +kernel

/-- A record that binds a descriptor which no entry of the port set covers. -/
theorem witness_lodge_launch_unbound : let c := command 1 0 0 (recordBinds 0x100000)
    lodgeLaunchTurn c ∧ (parseRecord (cmdRecord c)).isSome = true ∧ cmdSet c = some [] ∧
    cmdDescs (lodgeAt c [] id) (cmdCore c).die [] 5 (cmdRecord c) = none := by unfold lodgeLaunchTurn LodgeTurn; decide +kernel

/-- What a LAUNCH of the record of context 5, with no ports, asks for at a placement. -/
def lodgeAsk (place : Word) : Ask := { issuer := none, near := c0, sys := true, ctx := 5, ws := record5, place := place, ports := [], descs := [] }

/-- A LAUNCH whose placement is not well formed. -/
theorem witness_lodge_launch_refused : let c := command 1 1 0 record5
    lodgeLaunchTurn c ∧ cmdRecord c = record5 ∧ parseRecord record5 = some a5 ∧ cmdSet c = some [] ∧ cmdCore c = c0 ∧ a5.ctx = 5 ∧
    cmdDescs (lodgeAt c [] id) 0 [] 5 record5 = some [] ∧ acceptLaunch (lodgeAt c [] id) (lodgeAsk (cmdArg c)) = .error 1 := by
  unfold lodgeLaunchTurn LodgeTurn; decide +kernel

theorem witness_lodge_launch : let c := command 1 0 0 record5
    (lodgeLaunchTurn c ∧ cmdRecord c = record5 ∧ parseRecord record5 = some a5 ∧ cmdSet c = some [] ∧ cmdCore c = c0 ∧ a5.ctx = 5 ∧
      cmdDescs (lodgeAt c [] id) 0 [] 5 record5 = some []) ∧ LaunchFits (lodgeAt c [] id) (lodgeAsk (cmdArg c)) a5 :=
  ⟨by unfold lodgeLaunchTurn LodgeTurn; decide +kernel, fits_of (by decide +kernel)⟩

/-! ## The host, power, heat -/

/-- LodgeHostAndPower: a host's write and read up to the last byte of memory and beyond; of a poisoned byte and of another. -/
theorem witness_host :
    let s (p : Place) : State := { State.reset with here := p }
    (s (.hostWrite (2 ^ 39 - 1) [7])).here = .hostWrite (2 ^ 39 - 1) [7] ∧ 2 ^ 39 - 1 + [(7 : Byte)].length ≤ 2 ^ 39 ∧ 2 ^ 39 < 2 ^ 39 + [(7 : Byte)].length ∧
    (s (.hostRead (2 ^ 39 - 1) 1)).here = .hostRead (2 ^ 39 - 1) 1 ∧ 2 ^ 39 - 1 + 1 ≤ 2 ^ 39 ∧ 2 ^ 39 < 2 ^ 39 + 1 ∧ (0 : Nat) < 1 ∧
    isPoison (s (.hostRead (2 ^ 39 - 1) 1)) (2 ^ 39 - 1 + 0) = false := by decide +kernel

/-- LodgeHostAndPower: power applied to a package that is on, off, and on with its journal not set. -/
theorem witness_power :
    let v : Word := 0x800000000050000A
    let s (p : Bool) (j : Word) : State := { State.reset with here := .power v, powered := p, ljbase := j }
    (s true v).here = .power v ∧ (s true v).ljbase.getLsbD 63 = true ∧ (s false 0).powered = false ∧ (s true 0).powered = true ∧ (s true 0).ljbase.getLsbD 63 = false ∧
    10 ≤ v.toNat % 32 ∧ v.toNat % 32 ≤ 20 ∧ v.toNat / 2 ^ 5 % 2 ^ 11 = 0 ∧ v.toNat / 2 ^ 39 % 2 ^ 24 = 0 := by decide +kernel

/-- LodgeHostAndPower: a cluster whose voltage is trimmed down, at the first cycle in which it is; one whose trim is off, is at its end, or has too new a step or replay. -/
theorem witness_trim_down :
    let s (e : Bool) (k : Nat) (r : Option Nat) (n : Nat) : State := { coreState (fun x => { x with trimEn := e, trimStep := k, trimRep := r }) with clock := n }
    let x (e : Bool) (k : Nat) (r : Option Nat) (n : Nat) := getCl (s e k r n) c0
    (s true 23 (some 5) 20000005).here = .core c0 ∧
    ((x true 23 (some 5) 20000005).trimEn = true ∧ (x true 23 (some 5) 20000005).trimStep < 24 ∧
      (x true 23 (some 5) 20000005).trimAt + 10000 * Config.cyclesPerUs ≤ (s true 23 (some 5) 20000005).clock ∧
      (x true 23 (some 5) 20000005).trimRep.getD 0 + 10000 * Config.cyclesPerUs ≤ (s true 23 (some 5) 20000005).clock) ∧
    (x false 0 none 0).trimEn = false ∧ 24 ≤ (x true 24 none 0).trimStep ∧
    (s true 0 none 19999999).clock < (x true 0 none 19999999).trimAt + 10000 * Config.cyclesPerUs ∧
    (s true 23 (some 5) 20000004).clock < (x true 23 (some 5) 20000004).trimRep.getD 0 + 10000 * Config.cyclesPerUs := by decide +kernel

/-- LodgeHostAndPower: a cluster whose voltage goes up again after a replay, at the first cycle in which it does; one without a replay and one too early. -/
theorem witness_trim_up :
    let s (r : Option Nat) (n : Nat) : State := { coreState (fun x => { x with trimEn := true, trimStep := 3, trimRep := r }) with clock := n }
    let x (r : Option Nat) (n : Nat) := getCl (s r n) c0
    ((s (some 5) 1000000).here = .core c0 ∧ (x (some 5) 1000000).trimEn = true ∧ (x (some 5) 1000000).trimRep ≠ none ∧
      (x (some 5) 1000000).trimAt + 1000000 ≤ (s (some 5) 1000000).clock) ∧
    (x none 1000000).trimRep = none ∧ (s (some 5) 999999).clock < (x (some 5) 999999).trimAt + 1000000 := by decide +kernel

/-- LodgeHostAndPower: temperatures at and beside the two limits. -/
theorem witness_heat :
    ([105, 106, 114, 115].all fun n => decide (({ State.reset with here := .heat n } : State).here = .heat n)) = true ∧ (105 : Nat) ≤ 105 ∧ (105 : Nat) < 106 ∧
    (114 : Nat) < 115 ∧ (115 : Nat) ≤ 115 := by decide +kernel

end Sys2Proof.Tests
end

