-- ==== Sys2Proof/Tests/WitnessMatrix.lean ====
section
/-! SUPPORT. States and operands that meet the hypotheses of the statements about the matrix array and its nodes. -/
set_option Elab.async false
namespace Sys2Proof.Tests
open Sys2Proof Sys2Proof.Machine

/-- Legal control tokens of the five operations (R41, R42): a 1 by 1 product over 16 bytes, on rings 8 and 0. -/
def matWord (op : MatOp) : XWord :=
  match op with
  | .mmul | .mmult => { nullX with tyab := 4, ringa := 8, ringb := 0 }
  | .mzero => nullX
  | .mldc => { nullX with ringa := 8 }
  | .mstc => { nullX with tyc := 6, ringa := 8, ofmt := 1 }

/-- A cluster whose rings 0 and 8 hold two tiles of four granules each, with headers of 8-bit integers, one granule a row (R207). -/
def ringCluster : Cluster :=
  let r : Ring := { tsz := 4, size := 16, base := 0, head := 0, tail := 2 }
  let hd : List Byte := [0, 0, 1, 0, 4, 0, 0, 0]
  let x : Cluster := { ownu := 0, rings := [(0, r), (8, r)] }
  [(1, 0), (1, 256), (2, 0), (2, 256)].foldl (fun x (sp, off) => bufWrite x sp off hd) x

/-- An operation of a queue. -/
def mop (op : MatOp) (started ran : Bool) (cause : Nat) : MOp :=
  { id := 9, tok := wordX op (matWord op), tile := tl, slot := 0, thr := 0, part := some 0, seq := 0, started := started, ran := ran, cause := cause }

/-- The array of the test's cluster at its turn, with a queue of operations. -/
def arrayState (ops : List MOp) : State := setCl { State.reset with here := .array c0 0 } c0 (setMq ringCluster 0 ops)

def matOps : List MatOp := [.mmul, .mmult, .mzero, .mstc, .mldc]

/-- ArrayOperationsRun: each operation started and not run, behind none and behind one that has run; the headers of its tiles are valid. -/
theorem witness_array_runs : matOps.all (fun op => [([] : List MOp), [mop .mmul true true 0]].all fun pre =>
    let o := mop op true false 0
    let s := arrayState (pre ++ [o])
    let x := afterOps (getCl s c0) pre
    let w := matWord op
    decide (s.here = .array c0 0) && decide (getMq (getCl s c0) 0 = pre ++ o :: []) && pre.all (·.ran) && !o.ran && decide (o.cause = 0) &&
    o.started && decide (decodeMatrix o.tok = some (matInstr op w)) &&
    (op = .mzero || op = .mstc || (tileHeader x 8 o.ta).isSome) &&
    (op = .mzero || op = .mstc || (tileHeader x 0 o.tb).isSome)) = true := by decide +kernel

/-- ArrayOperationsRun: the tile that MSTC writes has a header granule and one row. -/
theorem witness_mstc_tile : ((mstcTile (matWord .mstc) ringCluster)[1]?).isSome = true := by decide +kernel

/-- ArrayOperationsRun: a granule to write, of CBUF and of a buffer whose tile no other operation claims. -/
theorem witness_array_writes : ([granKey 3 5, granKey 1 40] : List Nat).all (fun k =>
    let o : MOp := { mop .mstc true true 0 with todo := [(k, 7)] }
    let pre : List MOp := [mop .mzero true true 0]
    let s := { arrayState (pre ++ [o]) with here := .arrayGran c0 0 k }
    let x := getCl s c0
    decide (s.here = .arrayGran c0 0 k) && decide (parkedAll s = []) && decide (getMq x 0 = pre ++ o :: []) && pre.all (fun e => e.todo.isEmpty) &&
    decide (o.todo.find? (fun e => e.1 = k) = some (k, 7)) &&
    (decide (k / 2 ^ 16 = 3) || !claimedBy x (pre ++ (x.mqs.filter fun e => e.1 ≠ 0).flatMap (·.2)) (k / 2 ^ 16) (k % 2 ^ 16))) = true := by decide +kernel

/-- ArrayOperationsStartAndRetire: operations to start, with tiles and without, of an owner and not; run and refused ones to retire, with their firing. -/
theorem witness_array_starts_and_retires :
    matOps.all (fun op =>
      let o := mop op false false 0
      let x := getCl (arrayState [o]) c0
      decide (getMq x 0 = [] ++ o :: []) && !o.started && decide (decodeMatrix o.tok = some (matInstr op (matWord op))) &&
      halfLegal x 0 (matInstr op (matWord op)) o.part && tilesReady x [] (matInstr op (matWord op)) &&
      !halfLegal x 0 (matInstr op (matWord op)) (some 1)) = true ∧
    ({ arrayState [mop .mmul false false 0] with here := .rowError c0 0 } : State).here = .rowError c0 0 ∧
    tilesReady ({ ringCluster with rings := [] }) [] (.mmul (matWord .mmul)) = false ∧
    ([(true, 0), (false, 2)] : List (Bool × Nat)).all (fun (ran, cause) =>
      let o := mop .mmul true ran cause
      let w : NWord := { nullN with ty := .b32, sa := .queue 6, out := 4 }
      let s := updTile (arrayState [o]) tl fun x =>
        setSlot (putWord 0 (wordN .mxn w) 0 x) 0 { pipe := [awaiting 9] }
      decide (getMq (getCl s c0) 0 = o :: []) && o.started && (o.ran || decide (o.cause ≠ 0)) &&
      decide (pipeOf s ⟨o.tile, o.slot⟩ = [awaiting o.id]) && decide (slotInstr (getTile s tl) 0 = some (.mxn w))) = true := by decide +kernel

/-! ## The matrix nodes -/

/-- MatrixNodes: MXN with a legal token and with another; MSEQ of one token and of none, and a run to emit; RADV of both ends, at once and parked; RSTAT. -/
theorem witness_matrix_nodes :
    (let w : NWord := { nullN with ty := .b32, sa := .queue 6, out := 4 }
     let at_ (v : Word) := slotState (.mxn w) 0 [(6, .sca ⟨v, 0⟩)]
     let good := at_ (wordX .mmul (matWord .mmul))
     let bad := at_ 7
     canFire good s0 (.mxn w) = true ∧ (decodeMatrix (lowPair (fireOf good s0 (.node .mxn w)).a.pay)).isSome = true ∧
     canFire bad s0 (.mxn w) = true ∧ decodeMatrix (lowPair (fireOf bad s0 (.node .mxn w)).a.pay) = none ∧ w.out = 4) ∧
    (let w : NWord := { nullN with ty := .b32, sa := .queue 0, sb := .const 0, sc := .queue 6, out := 4, aux := 1 }
     let at_ (n : Nat) := slotState (.mseq w) 0 [(0, .vec (vt 0)), (6, .sca ⟨word n, 0⟩)]
     let run := updTile (at_ 3) tl fun x => updSlot x 0 fun y => { y with node := .mseq 3 2 7 2 0 }
     canFire (at_ 3) s0 (.mseq w) = true ∧ (fireOf (at_ 3) s0 (.node .mseq w)).c.pay.toNat % 65536 = 3 ∧
     canFire (at_ 0) s0 (.mseq w) = true ∧ (fireOf (at_ 0) s0 (.node .mseq w)).c.pay.toNat % 65536 = 0 ∧
     run.here = .slot s0 ∧ slotNode run s0 = .mseq 3 2 7 2 0 ∧ (aget [] (getTile run tl).outs 2).length + promised (getTile run tl) 2 < 4 ∧
     tileHalted run tl (getTile run tl) = false ∧ afind (getTile run tl).used (slotEmit 0) ≠ some run.clock) ∧
    ([24, 8] : List (BitVec 5)).all (fun aux =>
      let w : NWord := { nullN with ty := .b32, sa := .queue 0, out := 1, aux := aux, imm := 1 }
      let s := updCl (slotState (.radv w) 0 [(0, .vec (vt 0))]) c0 fun _ => ringCluster
      canFire s s0 (.radv w) && ringMine (getCl s c0) 8 (partOf s tl) && decide (clusterOf s tl = c0) && decide (w.aux.toNat % 16 = 8)) = true ∧
    (let w : NWord := { nullN with ty := .b32, sa := .queue 0, out := 1, aux := 8, imm := 1 }
     let s := updTile (updCl (slotState (.radv w) 0 []) c0 fun _ => ringCluster) tl fun x => updSlot x 0 fun y => { y with node := .radv [(2, 2, 0)] }
     s.here = .slot s0 ∧ slotInstr (getTile s tl) 0 = some (.radv w) ∧ slotNode s s0 = .radv [(2, 2, 0)] ∧
     storesDone s tl 0 2 (fun e => decide (spaceNum e.w.space = ringSpace 8)) = true) ∧
    (let w : NWord := { nullN with ty := .b32, sa := .queue 0, out := 1, aux := 8 }
     let s := updCl (slotState (.rstat w) 0 [(0, .vec (vt 0))]) c0 fun _ => ringCluster
     canFire s s0 (.rstat w) = true ∧ (getRing (getCl s c0) 8).size = 16 ∧ (getRing (getCl s c0) 8).tsz = 4) := by decide +kernel

end Sys2Proof.Tests
end

