-- ==== Sys2Proof/Tests/WitnessSlots.lean ====
section
/-! SUPPORT. States and operands that meet the hypotheses of the statements about steps and about nodes of PE slots. -/
set_option Elab.async false
namespace Sys2Proof.Tests
open Sys2Proof Sys2Proof.Machine

/-! ## Steps and encodings -/

/-- StepRunsDecoded: a slot's word at its turn. -/
theorem witness_step_runs_decoded :
    let s := State.reset.withFetchWord 64 0x2030031100000000
    s.agenda = [.word (.slot ⟨homeTile, 0⟩)] ∧ s.powered = true ∧
    fetchAt (dropAct s) (.slot ⟨homeTile, 0⟩) = some (.fadd { nullN with ty := .f32, sa := .queue 0, sb := .queue 1, out := 1 }) := by
  decide +kernel

/-- CoreFetchesAtPc: the last word of local memory that has one after it, and the first address beyond. -/
theorem witness_core_fetches : (getCl (coreState fun x => { x with pc := 0x3FFF0 }) c0).pc.toNat + 16 ≤ 0x40000 ∧
    0x40000 ≤ (getCl (coreState fun x => { x with pc := 0x40000 }) c0).pc.toNat := by decide +kernel

/-- DecodeEncodeSlot, DecodeEncodeRest: well-formed words of each format, long and short. -/
theorem witness_decode_encode :
    nodeCheck .dot4 { nullN with ty := .i8x4, sa := .queue 0, sb := .const 0, sc := .queue 1, out := 1, aux := 1 } = none ∧
    memCheck .ld { nullM with ty := .f32, sa := .queue 6, out := 1 } = none ∧
    coreOk .add { nullC with xd := 31, xa := 1, imm := BitVec.allOnes 64 } = true ∧
    coreOk .add { nullC with long := true, xd := 3, imm := 0x1_0000_0000 } = true ∧
    matrixOk .mzero nullX = true ∧
    isStreamCommand (.tileCommand 31 30 63 0xFFFF) = true ∧ wf (.tileCommand 31 30 63 0xFFFF) = true := by decide +kernel

/-- StepKeepsCanonical: the state after reset, and a step of it. -/
theorem witness_step_keeps_canonical : Canonical State.reset ∧ ∃ t, step State.reset = .next t := ⟨⟨rfl, rfl, rfl⟩, _, rfl⟩

/-! ## Node words -/

/-- A source for an operand column. -/
def srcFor (a : Arg) (i : Fin 8) : Src := match a with | .no => .zero | .any => .queue i | .ctl => .queue 6

/-- A legal word of each node operation: its first type, queues 0, 1 and 2 (or 6) as operands. -/
def nodeWord (op : NodeOp) : NWord :=
  let r := nodeRule op
  let imm : BitVec 16 := match op with | .cvtup | .cvtif => 6 | .cvtdn => 9 | .win | .radv => 1 | _ => 0
  { nullN with ty := r.tys.headD .b32, sa := srcFor r.a 0, sb := srcFor r.b 1, sc := srcFor r.c 2, imm := imm,
               out := if r.out = 15 then 1 else r.out }

/-- Heads for all of its queues; SEQ's done queue is empty at a start. -/
def nodeHeads (op : NodeOp) : List (Nat × Tok) :=
  [(0, .vec (vt 3)), (2, .vec (vt 1)), (6, .sca ⟨1, 0⟩)] ++ (if op = .seq then [] else [(1, .vec (vt 5))])

/-- The state of its turn. -/
def nodeState (op : NodeOp) : State := slotState (nodeInstr op (nodeWord op)) 0 (nodeHeads op)

/-- Whether it is at its turn there. -/
def nodeTurn (op : NodeOp) : Bool := canFire (nodeState op) s0 (nodeInstr op (nodeWord op)) && decide ((nodeState op).here = .slot s0)

/-- The node operations that calculate, by family (R53). -/
def intOps : List NodeOp :=
  [.mov, .ldi, .add, .sub, .adds, .subs, .mul, .mulh, .mad, .dot4, .min, .max, .abs, .neg, .and, .or, .xor, .andn, .not, .shl, .shr, .sar,
   .rol, .clz, .ctz, .popc, .brev, .bfx, .bfxs, .bfi, .cmp, .sel]
def floatOps : List NodeOp :=
  [.fadd, .fsub, .fmul, .fma, .fms, .fnma, .fmin, .fmax, .fabs, .fneg, .fcps, .fcmp, .fcls, .fdota, .frcp, .frsq, .fsqrt, .fexp2, .flog2,
   .ftanh, .fsigm, .cvtup, .cvtdn, .cvtif, .cvtfi, .rndi, .pack, .unpk, .scl, .cmpr, .clen]
def laneOps : List NodeOp := [.shuf, .bcst, .lrot, .rsum, .rmax, .rmin, .scan, .vset, .vget, .cmpct]
def headerOps : List NodeOp := [.wget, .wset, .wmul, .gapt, .keyg, .hdrg, .hdrs, .rstat]
def otherOps : List NodeOp := [.win, .join, .agg, .bx, .bxc, .tspawn, .tjoin, .thalt, .dsel, .seq, .btok, .barn, .evpost, .mxn, .mseq, .radv]

/-- EverySlotIssues: each node operation has a state at its turn. -/
theorem witness_every_node_issues : (intOps ++ floatOps ++ laneOps ++ headerOps ++ otherOps).all nodeTurn = true := by decide +kernel

/-- CalculatingNodesFire, NodeArithmetic, BitsAndCounts, FloatArithmetic, LanesMove, HeaderNodes: each calculating operation has one, with a legal type, outputs
to send and no secondary output. -/
theorem witness_calculating_nodes : (intOps ++ floatOps ++ laneOps ++ headerOps).all (fun op =>
    calculates op && nodeTurn op && (fireOf (nodeState op) s0 (.node op (nodeWord op))).pktOk && decide ((nodeWord op).out ≠ 0) && !(nodeWord op).so) = true := by
  decide +kernel

/-- FloatSignsComparesAndClasses: the types are float types, and F32 for FCMP and FCLS. -/
theorem witness_float_types : ([.fabs, .fneg, .fcps, .fcmp, .fcls] : List NodeOp).all (fun op =>
    nodeTurn op && decide ((fireOf (nodeState op) s0 (.node op (nodeWord op))).ty = .f32) && tyFloat .f32) = true := by decide +kernel

/-- IntegerSumAcross: RSUM of an integer type. -/
theorem witness_integer_sum : nodeTurn .rsum = true ∧ tyFloat (fireOf (nodeState .rsum) s0 (.node .rsum (nodeWord .rsum))).ty = false ∧
    (nodeWord .rsum).aux = 0 := by decide +kernel

/-- HeaderNodes: HDRS with AUX 2. -/
theorem witness_hdrs : let w := { nodeWord .hdrs with aux := 2 }; canFire (slotState (.hdrs w) 0 (nodeHeads .hdrs)) s0 (.hdrs w) = true := by
  decide +kernel

/-- CalculatingNodesFire: a PKT firing without a legal type. -/
theorem witness_pkt_without_type :
    let w := { nodeWord .mov with ty := .pkt }
    let s := slotState (.mov w) 0 (nodeHeads .mov)
    canFire s s0 (.mov w) = true ∧ (fireOf s s0 (.node .mov w)).pktOk = false := by decide +kernel

/-! ## Windows, blocks and threads -/

/-- A slot's state with what slot 0 keeps. -/
def keeping (n : NodeSt) (s : State) : State := updTile s tl fun x => updSlot x 0 fun y => { y with node := n }

/-- WindowNodes: WIN and AGG on a record, AGG on a WEND; JOIN on a head of either side, and with records still to emit. -/
theorem witness_window_nodes :
    (fireOf (nodeState .win) s0 (.node .win (nodeWord .win))).a.kind = kData ∧ (nodeWord .win).out ≠ 0 ∧
    (fireOf (nodeState .agg) s0 (.node .agg (nodeWord .agg))).a.kind = kData ∧ (nodeWord .agg).out ≠ 0 ∧
    (let s := slotState (.agg (nodeWord .agg)) 0 [(0, .vec { vt 0 with kind := kWend })]
     canFire s s0 (.agg (nodeWord .agg)) = true ∧ (fireOf s s0 (.node .agg (nodeWord .agg))).a.kind = kWend) ∧
    (let w := nodeWord .join
     let s := slotState (.join w) 0 [(0, .vec (vt 3))]
     let t := slotState (.join w) 0 [(1, .vec (vt 3))]
     let u := keeping (.join {} {} [(0, 0, .vec (vt 7))] 0) s
     canFire s s0 (.join w) = true ∧ joinStep (getTile s tl) (getSlot (getTile s tl) 0) w = .side false ∧ w.sa = .queue 0 ∧
     (seenHead (getTile s tl) 0).kind = kData ∧ (joinSides (slotNode s s0)).1.rows.length < 32 ∧
     canFire t s0 (.join w) = true ∧ joinStep (getTile t tl) (getSlot (getTile t tl) 0) w = .side true ∧ w.sb = .queue 1 ∧
     (seenHead (getTile t tl) 1).kind = kData ∧ (joinSides (slotNode t s0)).2.rows.length < 32 ∧
     canFire u s0 (.join w) = true ∧ slotNode u s0 = .join {} {} [(0, 0, .vec (vt 7))] 0 ∧ (vt 7).kind ≠ kWend) := by decide +kernel

/-- ExitsDecideThePass: the tile has an owner, whose thread 0 is in flight with no exit taken. -/
theorem witness_exits : ([.bx, .bxc, .thalt, .tjoin] : List NodeOp).all (fun op =>
    let s := nodeState op
    nodeTurn op && decide (ownerOf s tl = some l0) && decide (findLaunch s l0 = some run1) &&
    decide (((findThread run1 (fireOf s s0 (.node op (nodeWord op))).thr).map fun y => (y.st, y.exit)) = some (.flight, none))) = true := by
  decide +kernel

/-- SpawnMakesChild: with a free number, and with none. -/
theorem witness_spawn :
    let w := nodeWord .tspawn
    let s := nodeState .tspawn
    let full : Launch := { run1 with threads := (List.range 256).map fun k => (k, { pc := 0, t := [], st := .flight }) }
    let t := setLaunch s l0 full
    nodeTurn .tspawn = true ∧ ownerOf s tl = some l0 ∧ findLaunch s l0 = some run1 ∧ w.out = 4 ∧
    (findThread run1 (fireOf s s0 (.node .tspawn w)).thr).isSome = true ∧
    (List.range 256).find? (fun k => (afind run1.threads k).isNone) = some 1 ∧
    canFire t s0 (.tspawn w) = true ∧ ownerOf t tl = some l0 ∧ findLaunch t l0 = some full ∧
    (findThread full (fireOf t s0 (.node .tspawn w)).thr).isSome = true ∧
    (List.range 256).find? (fun k => (afind full.threads k).isNone) = none := by decide +kernel

/-- SynchronisationNodes: DSEL of a resident plane that is not the active one; SEQ starting runs of none and of five, going on, ending, and taking a done
token; BTOK with one port; EVPOST; BARN at a configured barrier of its context, its first episode full; the release that sends its output. -/
theorem witness_synchronisation :
    (let s := slotState (.dsel (nodeWord .dsel)) 0 [(0, .vec (vt 1))]
     let p : Fin 4 := Fin.ofNat 4 ((lane (fireOf s s0 (.node .dsel (nodeWord .dsel))).a.pay 0).toNat % 4)
     canFire s s0 (.dsel (nodeWord .dsel)) = true ∧ ownerOf s tl = some l0 ∧ findLaunch s l0 = some run1 ∧ run1.active ≠ some p ∧
     (getPlane run1 p.val).st ≠ .invalid ∧ run1.decided = false) ∧
    (let w := { nodeWord .seq with out := 9 }
     let at_ (n : Nat) := slotState (.seq w) 0 [(0, .vec (vt 1)), (2, .vec (vt n))]
     canFire (at_ 0) s0 (.seq w) = true ∧ canFire (at_ 5) s0 (.seq w) = true ∧ slotNode (at_ 5) s0 = .idle ∧
     (lane (fireOf (at_ 0) s0 (.node .seq w)).c.pay 0).toNat = 0 ∧ (lane (fireOf (at_ 5) s0 (.node .seq w)).c.pay 0).toNat = 5 ∧
     (let run (i taken : Nat) (hs : List (Nat × Tok)) := keeping (.seq 5 i taken 0 true) (slotState (.seq w) 0 hs)
      let step (s : State) := seqStep (getTile s tl) (getSlot (getTile s tl) 0) w
      let stop := run 5 5 []
      let go := run 4 4 []
      let done := run 5 4 [(1, .vec (vt 0))]
      canFire go s0 (.seq w) = true ∧ step go = .emit ∧ canFire stop s0 (.seq w) = true ∧ step stop = .emit ∧
      canFire done s0 (.seq w) = true ∧ step done = .done)) ∧
    (let w := { nodeWord .btok with out := 1 }
     canFire (slotState (.btok w) 0 (nodeHeads .btok)) s0 (.btok w) = true) ∧
    nodeTurn .evpost = true ∧ findLaunch (nodeState .evpost) l0 = some run1 ∧
    (let s := setBar (nodeState .barn) c0 0 { cfg := 0x2, ctx := 5 }
     canFire s s0 (.barn (nodeWord .barn)) = true ∧ clusterOf s tl = c0 ∧ barExpect (getBar (getCl s c0) 0) ≠ 0 ∧
     (getBar (getCl s c0) 0).ctx = run1.lr.ctx) ∧
    (let w := { nodeWord .barn with out := 1 }
     let s := { updTile (setBar (slotState (.barn w) 0 []) c0 0 { cfg := 0x2, ctx := 5, arrived := 2 }) tl
       (fun x => updSlot x 0 fun y => { y with barns := [(0, 0, 0)] }) with here := .barrier c0 0 }
     pclOfLcl s c0 = pclOf tl ∧ barExpect (getBar (getCl s c0) 0) = 2 ∧ (getBar (getCl s c0) 0).arrived = 2 ∧ barSpan (getBar (getCl s c0) 0) = false ∧
     slotInstr (getTile s tl) 0 = some (.barn w) ∧ (getSlot (getTile s tl) 0).barns = [(0, 0, (getBar (getCl s c0) 0).gen)]) := by decide +kernel

end Sys2Proof.Tests
end

section
/-! PROOFS. Register writes by system mode (R5, R209, R212, R322, R323, R330) and the power states of a cluster (R427). -/
namespace Sys2Proof.Machine

/-! ## Steps that change one cluster alone -/

theorem OnlyCore.refl (s : State) (c : ClusterId) : OnlyCore s s c :=
  ⟨SameMem.refl s, rfl, rfl, rfl, rfl, SameCoresBut.refl s _, SamePackage.refl s⟩

theorem OnlyCore.trans {a b d : State} {c : ClusterId} (h : OnlyCore a b c) (k : OnlyCore b d c) : OnlyCore a d c := by
  obtain ⟨hmem, htiles, hlaunches, hslices, hdies, hcores, hpkg⟩ := h
  obtain ⟨kmem, ktiles, klaunches, kslices, kdies, kcores, kpkg⟩ := k
  exact ⟨hmem.trans kmem, ktiles.trans htiles, klaunches.trans hlaunches, kslices.trans hslices, kdies.trans hdies,
    hcores.trans kcores, hpkg.trans kpkg⟩

theorem setCl_onlyCore (s : State) (c : ClusterId) (x : Cluster) : OnlyCore s (setCl s c x) c :=
  ⟨SameMem.of_eq rfl rfl rfl rfl rfl, rfl, rfl, rfl, rfl, fun _ he => by rw [getCl_setCl_other s x he], SamePackage.refl s⟩

theorem updCl_onlyCore (s : State) (c : ClusterId) (f : Cluster → Cluster) : OnlyCore s (updCl s c f) c := setCl_onlyCore ..

/-! ## A write through a core, as system mode makes it (R5, R422) -/

/-- The state with a core in system mode, in which `regWriteSys` writes. -/
def asSystem (s : State) (c : ClusterId) : State := updCl s c fun x => { x with mode := true }

/-- The state with a core put back in the mode it had. -/
def backToMode (s t : State) (c : ClusterId) : State := updCl t c fun x => { x with mode := (getCl s c).mode }

/-- Only a write of PWRCTL can leave the core in another mode. -/
theorem regWriteSys_of_ne_pwr (s : State) (c : ClusterId) {n : Nat} (v : Word) (h : n ≠ 0xE00) :
    regWriteSys s c n v = backToMode s (regWrite (asSystem s c) c n v) c := by
  simp [regWriteSys, backToMode, asSystem, h]

/-- A write that changes the core alone, and does so by `f`: the core's mode is as before. -/
theorem backToMode_updCl (s : State) (c : ClusterId) (f : Cluster → Cluster) :
    OnlyCore s (backToMode s (updCl (asSystem s c) c f) c) c ∧
    getCl (backToMode s (updCl (asSystem s c) c f) c) c = { f { getCl s c with mode := true } with mode := (getCl s c).mode } :=
  ⟨((updCl_onlyCore ..).trans (updCl_onlyCore ..)).trans (updCl_onlyCore ..), by simp [backToMode, asSystem]⟩

/-- A write that leaves the cores as they were does so with the mode put back. -/
theorem backToMode_sameCores {s m : State} {c : ClusterId} (h : SameCores (asSystem s c) m) : SameCores s (backToMode s m c) := by
  intro e _
  have he := h e id
  by_cases hc : e = c
  · subst hc
    have hv := congrArg (fun y : Cluster => { y with mode := (getCl s e).mode }) he
    simpa [backToMode, asSystem, coreView] using hv
  · rw [backToMode, getCl_updCl_other _ _ hc, he, asSystem, getCl_updCl_other _ _ hc]

/-- The move of a register's write, at that register. -/
theorem atRegister_writes {s : State} {c : ClusterId} {reg : BitVec 16} {v : Word} {ok : Nat → Word → Bool} (h : s.here = .register c reg v)
    (ha : regAssigned reg.toNat = true) (hok : ok reg.toNat v = true) : atRegister ok s = .next (regWriteSys s c reg.toNat v) := by
  simp [atRegister, h, ha, hok]

/-! ## The registers of a partition (R322, R323) -/

/-- What a write of a partition's register leaves alone, taken or refused. -/
def PartFrame (s t : State) : Prop := SameMem s t ∧ t.tiles = s.tiles ∧ SameCores s t ∧ t.launches = s.launches

/-- The three registers of a partition of a die. -/
def PartIs (s : State) (d : Fin 4) (p : Nat) (rect ctl rank : Word) : Prop :=
  aget 0 (getDie s d).prect p = rect ∧ aget 0 (getDie s d).pctl p = ctl ∧ aget 0 (getDie s d).rkbase p = rank

theorem recHv_partFrame (s : State) (d : Fin 4) (r : Rec) : PartFrame s (recHv s d r) ∧ (recHv s d r).dies = s.dies := by
  unfold recHv
  dsimp only
  split
  · obtain ⟨hmem, hcores, hdies, -, -⟩ := raiseRec_frame s ⟨d, fin64 (fld (getDie s d).hveq 5 0)⟩ r ⟨0, 0, 0⟩
    exact ⟨⟨hmem, rfl, hcores, rfl⟩, hdies⟩
  · exact ⟨⟨SameMem.refl s, rfl, SameCores.refl s, rfl⟩, rfl⟩

theorem updDie_partFrame (s : State) (d : Fin 4) (f : Die → Die) : PartFrame s (updDie s d f) :=
  ⟨SameMem.of_eq rfl rfl rfl rfl rfl, rfl, SameCores.of_eq rfl, rfl⟩

/-- The registers of partition `(n - 0x500) / 4` as a write of register `n` would leave them (R323). -/
def rectAfter (y : Die) (n : Nat) (v : Word) : Word := if n % 4 = 0 then v else aget 0 y.prect ((n - 0x500) / 4)
def ctlAfter (y : Die) (n : Nat) (v : Word) : Word := if n % 4 = 1 then v else aget 0 y.pctl ((n - 0x500) / 4)
def rankAfter (y : Die) (n : Nat) (v : Word) : Word := if n % 4 = 2 then v else aget 0 y.rkbase ((n - 0x500) / 4)

/-- Whether a write of a partition's register is taken (R323). -/
def partTaken (s : State) (d : Fin 4) (n : Nat) (v : Word) : Bool :=
  partOk s d ((n - 0x500) / 4) (rectAfter (getDie s d) n v) (ctlAfter (getDie s d) n v) (rankAfter (getDie s d) n v)

/-- A taken write's effect on the die: a new rectangle also brings the guards up to date (R325). -/
def withPartReg (n : Nat) (v : Word) (y : Die) : Die :=
  if n % 4 = 0 then { y with prect := aset y.prect ((n - 0x500) / 4) v, guardDue := true }
  else if n % 4 = 1 then { y with pctl := aset y.pctl ((n - 0x500) / 4) v }
  else { y with rkbase := aset y.rkbase ((n - 0x500) / 4) v }

theorem partWrite_eq (s : State) (c : ClusterId) (n : Nat) (v : Word) :
    partWrite s c n v = if partTaken s c.die n v then updDie s c.die (withPartReg n v) else refusePart s c n := rfl

theorem partWrite_frame (s : State) (c : ClusterId) (n : Nat) (v : Word) : PartFrame s (partWrite s c n v) := by
  rw [partWrite_eq]
  split
  · exact updDie_partFrame ..
  · exact (recHv_partFrame ..).1

theorem partWrite_taken (s : State) (c : ClusterId) {n : Nat} (v : Word) (hn : n % 4 ≠ 3) (h : partTaken s c.die n v = true) :
    PartIs (partWrite s c n v) c.die ((n - 0x500) / 4) (rectAfter (getDie s c.die) n v) (ctlAfter (getDie s c.die) n v)
      (rankAfter (getDie s c.die) n v) := by
  have hk : n % 4 = 0 ∨ n % 4 = 1 ∨ n % 4 = 2 := by omega
  rw [partWrite_eq, if_pos h]
  simp only [PartIs, updDie, getDie_setDie]
  rcases hk with hk | hk | hk <;> simp [withPartReg, rectAfter, ctlAfter, rankAfter, hk]

theorem partWrite_refused (s : State) (c : ClusterId) (n : Nat) (v : Word) (h : partTaken s c.die n v = false) :
    (partWrite s c n v).dies = s.dies := by
  rw [partWrite_eq, h]
  exact (recHv_partFrame ..).2

theorem regWrite_part (s : State) (c : ClusterId) {n : Nat} (v : Word) (h1 : 0x500 ≤ n) (h2 : n ≤ 0x53F) :
    regWrite s c n v = partWrite s c n v := by
  have hlow : ¬ n < 0x100 := by omega
  have hbk : n ≠ 0x220 := by omega
  have hmid (lo hi : Nat) (h : hi < 0x500 ∨ 0x53F < lo) : within n lo hi = false := by simp [within]; omega
  have hin : within n 0x500 0x53F = true := by simp [within, h1, h2]
  simp [regWrite, dieWrite, hlow, hbk, hmid, hin]

theorem regAssigned_part {n : Nat} (h1 : 0x500 ≤ n) (h2 : n ≤ 0x53F) (h3 : n % 4 ≠ 3) : regAssigned n = true := by
  have hin : within n 0x500 0x53F = true := by simp [within, h1, h2]
  simp [regAssigned, regSys, hin, h3]

/-- PRECT_WRITE, PCTL_WRITE and RKBASE_WRITE, each for its register `k` of a partition, which the write would leave as `rect`, `ctl`, `rank`. -/
theorem partMove_completes {i : Instr} {k : Nat} (hi : ∀ s, exec i s = atRegister (fun n _ => within n 0x500 0x53F && n % 4 = k) s) (hk : k ≠ 3)
    {s : State} {c : ClusterId} {reg : BitVec 16} {v : Word} (h : s.here = .register c reg v) (h1 : 0x500 ≤ reg.toNat) (h2 : reg.toNat ≤ 0x53F)
    (h3 : reg.toNat % 4 = k) {rect ctl rank : Word} (hrect : rectAfter (getDie s c.die) reg.toNat v = rect)
    (hctl : ctlAfter (getDie s c.die) reg.toNat v = ctl) (hrank : rankAfter (getDie s c.die) reg.toNat v = rank) :
    Completes i s fun t => SameMem s t ∧ t.tiles = s.tiles ∧ SameCores s t ∧ t.launches = s.launches ∧
      if partOk s c.die ((reg.toNat - 0x500) / 4) rect ctl rank then PartIs t c.die ((reg.toNat - 0x500) / 4) rect ctl rank
      else t.dies = s.dies := by
  subst hrect hctl hrank
  have h3' : reg.toNat % 4 ≠ 3 := h3 ▸ hk
  have hok : (within reg.toNat 0x500 0x53F && decide (reg.toNat % 4 = k)) = true := by simp [within, h1, h2, h3]
  refine ⟨_, (hi s).trans (atRegister_writes h (regAssigned_part h1 h2 h3') hok), ?_⟩
  rw [regWriteSys_of_ne_pwr s c v (by omega), regWrite_part _ c v h1 h2]
  obtain ⟨hmem, htiles, hcores, hlaunches⟩ := partWrite_frame (asSystem s c) c reg.toNat v
  refine ⟨hmem, htiles, backToMode_sameCores hcores, hlaunches, ?_⟩
  split
  next ht => exact partWrite_taken (asSystem s c) c v h3' ht
  next ht => exact partWrite_refused (asSystem s c) c _ v (Bool.eq_false_iff.mpr ht)

/-! ## MXMODE and BKTOK (R209, R212, R330) -/

@[simp] theorem settleMode_ownu (x : Cluster) : (settleMode x).ownu = x.ownu := by unfold settleMode; split <;> [split; skip] <;> rfl
@[simp] theorem settleMode_ownl (x : Cluster) : (settleMode x).ownl = x.ownl := by unfold settleMode; split <;> [split; skip] <;> rfl

/-- A pending mode is taken when every queue of the array is empty (R212). -/
theorem settleMode_split_of_pending {x : Cluster} {w : Word} (h : x.mxPend = some w) :
    (settleMode x).split = if x.mqs.all (fun e => e.2.isEmpty) then wbit w 13 else x.split := by
  simp only [settleMode, h]
  split <;> rfl

/-- The owners and the pending mode of an MXMODE write, before R212 lets the mode be taken. -/
def withMode (v : Word) (x : Cluster) : Cluster := { x with ownu := v.extractLsb' 8 5, ownl := v.extractLsb' 0 5, mxPend := some v }

theorem fld_eq_div_mod (w : Word) (hi lo : Nat) : fld w hi lo = w.toNat / 2 ^ lo % 2 ^ (hi + 1 - lo) := by
  rw [fld, Nat.shiftRight_eq_div_pow]

/-- A value that MXMODE takes (R330). -/
def ModeOk (v : Word) : Prop :=
  v.toNat / 2 ^ 14 = 0 ∧ v.toNat / 32 % 8 = 0 ∧ v.toNat / 256 % 32 ≤ 16 ∧ v.toNat % 32 ≤ 16 ∧ (v.getLsbD 13 = false → v.toNat % 32 = 16)

theorem regWrite_mxmode (s : State) (c : ClusterId) {v : Word} (h : ModeOk v) :
    regWrite s c 0x583 v = updCl s c fun x => settleMode (withMode v x) := by
  obtain ⟨hrsv, hgap, hu, hl, hone⟩ := h
  have e : regWrite s c 0x583 v = mxmodeWrite s c v := rfl
  have hok : ¬ (fld v 63 14 ≠ 0 ∨ fld v 7 5 ≠ 0 ∨ 0x10 < fld v 12 8 ∨ 0x10 < fld v 4 0 ∨ (!wbit v 13 ∧ fld v 4 0 ≠ 0x10)) := by
    simp only [fld_eq_div_mod, wbit, Bool.not_eq_true', Nat.reduceAdd, Nat.reduceSub, Nat.reducePow, Nat.div_one] at *
    rintro (h | h | h | h | ⟨hb, h⟩)
    · omega
    · omega
    · omega
    · omega
    · exact h (hone hb)
  rw [e, mxmodeWrite, if_neg hok]
  rfl

theorem mxmodeWrite_completes {s : State} {c : ClusterId} {reg : BitVec 16} {v : Word} (h : s.here = .register c reg v) (hn : reg.toNat = 0x583)
    (hv : ModeOk v) :
    Completes .mxmodeWrite s fun t => OnlyCore s t c ∧ (getCl t c).ownu = v.extractLsb' 8 5 ∧ (getCl t c).ownl = v.extractLsb' 0 5 ∧
      (getCl t c).split = if (getCl s c).mqs.all (fun e => e.2.isEmpty) then v.getLsbD 13 else (getCl s c).split := by
  have hr : exec .mxmodeWrite s = .next (regWriteSys s c reg.toNat v) :=
    atRegister_writes (ok := fun n _ => n = 0x583) h (by rw [hn]; decide) (by simp [hn])
  refine ⟨_, hr, ?_⟩
  rw [regWriteSys_of_ne_pwr s c v (by omega), hn, regWrite_mxmode _ c hv]
  obtain ⟨hframe, hcl⟩ := backToMode_updCl s c fun x => settleMode (withMode v x)
  rw [hcl]
  refine ⟨hframe, settleMode_ownu _, settleMode_ownl _, ?_⟩
  exact settleMode_split_of_pending (x := withMode v { getCl s c with mode := true }) rfl

theorem regWrite_bktok (s : State) (c : ClusterId) (v : Word) : regWrite s c 0x220 v = updCl s c fun x => { x with bktok := v.setWidth 32 } := rfl

theorem registerWrite_bktok_completes {s : State} {c : ClusterId} {reg : BitVec 16} {v : Word} (h : s.here = .register c reg v)
    (hn : reg.toNat = 0x220) :
    Completes .registerWrite s fun t => OnlyCore s t c ∧ getCl t c = { getCl s c with bktok := v.setWidth 32 } := by
  have hr : exec .registerWrite s = .next (regWriteSys s c reg.toNat v) := atRegister_writes (ok := fun _ _ => true) h (by rw [hn]; decide) rfl
  refine ⟨_, hr, ?_⟩
  rw [regWriteSys_of_ne_pwr s c v (by omega), hn, regWrite_bktok]
  exact backToMode_updCl s c fun x => { x with bktok := v.setWidth 32 }

/-! ## Power states (R427) -/

/-- A cluster turned ON: CYCLE goes on from where an IDLE time stopped it, and counts anew from the return from OFF (log 53). -/
def poweredOn (now : Nat) (x : Cluster) : Cluster :=
  { x with pstate := 0, resetAt := if x.pstate = 2 then now else if x.pstate = 1 then x.resetAt + (now - x.idleAt) else x.resetAt }

/-- A cluster turned IDLE: CYCLE stands still from now on, or goes on standing still (log 53). -/
def poweredIdle (now : Nat) (x : Cluster) : Cluster :=
  { x with pstate := 1, resetAt := if x.pstate = 2 then now else x.resetAt, idleAt := if x.pstate = 1 then x.idleAt else now }

/-- A cluster turned OFF: its own registers, its tiles and its slices as at reset. -/
def turnedOff (s : State) (c : ClusterId) : State :=
  (List.range 32).foldl (fun s k => setSlice s (sliceOfCore s c k) {})
    (updTiles (setCl s c (offCluster s)) (rectTiles c.die ((pclOfLcl s c).val / 8 * 8) ((pclOfLcl s c).val % 8 * 8) 8 8) fun _ => {})

theorem pwrWrite_on (s : State) (c : ClusterId) : pwrWrite s c 0 = updCl s c (poweredOn s.clock) := rfl

/-- Neither IDLE nor OFF is taken while a region is allotted on the cluster or its core runs. -/
theorem pwrWrite_busy {s : State} {c : ClusterId} {v : Word} (hv : ¬ v = 0) (h : clusterAllotted s c = true ∨ (getCl s c).run ≠ .stopped) :
    pwrWrite s c v = s := by
  simp only [pwrWrite, if_neg hv, if_pos h, ite_self]

/-- Clusters, memory, launches, dies and the package are as before: what an update of tiles and slices leaves. -/
def OnlyTilesSlices (s t : State) : Prop :=
  t.clusters = s.clusters ∧ SameMem s t ∧ t.launches = s.launches ∧ t.dies = s.dies ∧ SamePackage s t

theorem OnlyTilesSlices.refl (s : State) : OnlyTilesSlices s s := ⟨rfl, SameMem.refl s, rfl, rfl, SamePackage.refl s⟩

theorem OnlyTilesSlices.trans {a b c : State} (h : OnlyTilesSlices a b) (k : OnlyTilesSlices b c) : OnlyTilesSlices a c := by
  obtain ⟨hcl, hmem, hla, hdi, hpk⟩ := h
  obtain ⟨kcl, kmem, kla, kdi, kpk⟩ := k
  exact ⟨kcl.trans hcl, hmem.trans kmem, kla.trans hla, kdi.trans hdi, hpk.trans kpk⟩

theorem OnlyTilesSlices.foldl {β : Type} {f : State → β → State} (h : ∀ s x, OnlyTilesSlices s (f s x)) (l : List β) (s : State) :
    OnlyTilesSlices s (l.foldl f s) :=
  l.foldlRecOn f (motive := OnlyTilesSlices s) (OnlyTilesSlices.refl s) fun t ht x _ => ht.trans (h t x)

theorem updTiles_onlyTilesSlices (s : State) (ts : List TileId) (f : Tile → Tile) : OnlyTilesSlices s (updTiles s ts f) :=
  OnlyTilesSlices.foldl (f := fun s t => updTile s t f) (fun s _ => ⟨rfl, SameMem.of_eq rfl rfl rfl rfl rfl, rfl, rfl, SamePackage.refl s⟩) ts s

theorem setSlice_onlyTilesSlices (s : State) (i : SliceId) (x : Slice) : OnlyTilesSlices s (setSlice s i x) :=
  ⟨rfl, SameMem.of_eq rfl rfl rfl rfl rfl, rfl, rfl, SamePackage.refl s⟩

theorem turnedOff_onlyTilesSlices (s : State) (c : ClusterId) : OnlyTilesSlices (setCl s c (offCluster s)) (turnedOff s c) :=
  (updTiles_onlyTilesSlices ..).trans
    (OnlyTilesSlices.foldl (f := fun s k => setSlice s (sliceOfCore s c k) {}) (fun s k => setSlice_onlyTilesSlices s (sliceOfCore s c k) {}) _ _)

/-- IDLE and OFF are taken where no region is allotted on the cluster and its core has stopped. -/
theorem pwrWrite_free {s : State} {c : ClusterId} {v : Word} (hres : ¬ (fld v 63 2 ≠ 0 ∨ v = 3)) (hv : ¬ v = 0)
    (ha : clusterAllotted s c = false) (hr : (getCl s c).run = .stopped) :
    pwrWrite s c v = if v = 1 then updCl s c (poweredIdle s.clock) else turnedOff s c := by
  have hfree : ¬ (clusterAllotted s c = true ∨ (getCl s c).run ≠ .stopped) := by simp [ha, hr]
  unfold pwrWrite
  simp only [if_neg hres, if_neg hv, if_neg hfree]
  rfl

theorem exec_pstateOn {s : State} {c : ClusterId} (h : s.here = .core c) : exec .pstateOn s = .next (pwrWrite s c 0) := by
  change execPstateOn s = _
  simp [execPstateOn, h]

theorem exec_pstateIdle {s : State} {c : ClusterId} (h : s.here = .core c) : exec .pstateIdle s = .next (pwrWrite s c 1) := by
  change execPstateIdle s = _
  simp [execPstateIdle, h]

theorem exec_pstateOff {s : State} {c : ClusterId} (h : s.here = .core c) : exec .pstateOff s = .next (pwrWrite s c 2) := by
  change execPstateOff s = _
  simp [execPstateOff, h]

theorem pstateOn_completes {s : State} {c : ClusterId} (h : s.here = .core c) :
    Completes .pstateOn s fun t => OnlyCore s t c ∧ getCl t c = poweredOn s.clock (getCl s c) := by
  refine ⟨_, exec_pstateOn h, ?_⟩
  rw [pwrWrite_on]
  exact ⟨updCl_onlyCore .., getCl_updCl ..⟩

theorem pstateIdle_completes {s : State} {c : ClusterId} (h : s.here = .core c) (ha : clusterAllotted s c = false)
    (hr : (getCl s c).run = .stopped) :
    Completes .pstateIdle s fun t => OnlyCore s t c ∧ getCl t c = poweredIdle s.clock (getCl s c) := by
  refine ⟨_, exec_pstateIdle h, ?_⟩
  rw [pwrWrite_free (by decide) (by decide) ha hr, if_pos rfl]
  exact ⟨updCl_onlyCore .., getCl_updCl ..⟩

theorem pstateOff_completes {s : State} {c : ClusterId} (h : s.here = .core c) (ha : clusterAllotted s c = false)
    (hr : (getCl s c).run = .stopped) :
    Completes .pstateOff s fun t => SameMem s t ∧ SameCoresBut s t (· = c) ∧ t.launches = s.launches ∧ t.dies = s.dies ∧ SamePackage s t ∧
      getCl t c = offCluster s := by
  refine ⟨_, exec_pstateOff h, ?_⟩
  rw [pwrWrite_free (by decide) (by decide) ha hr, if_neg (by decide)]
  obtain ⟨hcl, hmem, hla, hdi, hpk⟩ := turnedOff_onlyTilesSlices s c
  obtain ⟨kmem, -, kla, -, kdi, kcores, kpk⟩ := setCl_onlyCore s c (offCluster s)
  have hget (e : ClusterId) : getCl (turnedOff s c) e = getCl (setCl s c (offCluster s)) e := by simp only [getCl, hcl]
  refine ⟨kmem.trans hmem, fun e he => ?_, hla.trans kla, hdi.trans kdi, kpk.trans hpk, ?_⟩
  · rw [hget]; exact kcores e he
  · rw [hget, getCl_setCl]

/-- Settles O46: a write of a die's or a cluster's register is `regWrite` in system mode with the core's mode put back; a write of PWRCTL
is taken as R427 says. -/
theorem dieRegistersAndPower : Obligations.DieRegistersAndPower := by
  unfold Obligations.DieRegistersAndPower
  refine ⟨fun c reg v s h => ⟨fun h1 h2 => ⟨fun hk => ?_, fun hk => ?_, fun hk => ?_⟩, fun hn a b d e f => ?_, fun hn => ?_⟩,
    fun c s h => ⟨pstateOn_completes h, fun ha hr => ⟨pstateIdle_completes h ha hr, ?_⟩, fun hb => ⟨?_, ?_⟩⟩⟩
  · exact partMove_completes (i := .prectWrite) (k := 0) (fun _ => rfl) (by decide) h h1 h2 hk (if_pos hk) (if_neg (by omega)) (if_neg (by omega))
  · exact partMove_completes (i := .pctlWrite) (k := 1) (fun _ => rfl) (by decide) h h1 h2 hk (if_neg (by omega)) (if_pos hk) (if_neg (by omega))
  · exact partMove_completes (i := .rkbaseWrite) (k := 2) (fun _ => rfl) (by decide) h h1 h2 hk (if_neg (by omega)) (if_neg (by omega)) (if_pos hk)
  · exact mxmodeWrite_completes h hn ⟨a, b, d, e, f⟩
  · exact registerWrite_bktok_completes h hn
  · obtain ⟨t, ht, hmem, hcores, hla, hdi, hpk, hoff⟩ := pstateOff_completes h ha hr
    exact ⟨t, ht, hmem, hcores, hla, hdi, hpk, by simp [hoff, offCluster]⟩
  · rw [Waits, exec_pstateIdle h, pwrWrite_busy (by decide) hb]
  · rw [Waits, exec_pstateOff h, pwrWrite_busy (by decide) hb]

end Sys2Proof.Machine
end

section
/-! PROOFS. Every step answers a next state: the word that a place holds is one of the place's own kind, and no move of the machine faults. -/
namespace Sys2Proof.Machine
open Sys2Proof

/-- An outcome with a next state. -/
def Answers (o : Host.Outcome State Fault Refusal) : Prop := ∃ t, o = .next t

theorem answers_next (s : State) : Answers (.next s) := ⟨s, rfl⟩

theorem Answers.leave {o : Host.Outcome State Fault Refusal} (h : Answers o) : Answers (leave o) := by
  obtain ⟨t, rfl⟩ := h
  exact answers_next _

/-! ## The words of a place -/

/-- The instructions whose words a place holds: those of its format (R34). -/
inductive Held : Place → Instr → Prop
  | node (sl : SlotId) (op : NodeOp) (w : NWord) : Held (.slot sl) (nodeInstr op w)
  | mem (sl : SlotId) (op : MemOp) (w : MWord) : Held (.slot sl) (memInstr op w)
  | array (c : ClusterId) (q : Fin 2) (op : MatOp) (w : XWord) : Held (.array c q) (matInstr op w)
  | core (c : ClusterId) (op : CoreOp) (w : CWord) : Held (.core c) (coreInstr op w)
  | illegal (c : ClusterId) (w : Word) : Held (.core c) (.illegal w)
  | extTarget (c : ClusterId) (w : Word) : Held (.core c) (.extTarget w)
  | fetch (c : ClusterId) (a : Word) : Held (.core c) (.fetch a)
  | steer (t : TileId) (g : Fin 2) (a : RIn) (c : RCtl) (o p : ROut) : Held (.router t g) (.steer a c o p)
  | carry (t : TileId) (g : Fin 2) (a b : RIn) (c : RCtl) (o : ROut) : Held (.router t g) (.carry a b c o)
  | inv (t : TileId) (g : Fin 2) (a : RIn) (c : RCtl) (o : ROut) : Held (.router t g) (.inv a c o)
  | merge (t : TileId) (g : Fin 2) (a b : RIn) (c : RCtl) (o : ROut) : Held (.router t g) (.merge a b c o)
  | beginStream (l : LaunchId) (p : Fin 4) (part : Bool) : Held (.loader l p) (.beginStream part)
  | plane (l : LaunchId) (p : Fin 4) (v : BitVec 16) : Held (.loader l p) (.plane v)
  | page (l : LaunchId) (p : Fin 4) (v : BitVec 16) : Held (.loader l p) (.page v)
  | origin (l : LaunchId) (p : Fin 4) (r c : BitVec 5) : Held (.loader l p) (.origin r c)
  | copies (l : LaunchId) (p : Fin 4) (v : BitVec 16) : Held (.loader l p) (.copies v)
  | pc (l : LaunchId) (p : Fin 4) (n : Fin 4) (v : BitVec 16) : Held (.loader l p) (.pc n v)
  | check (l : LaunchId) (p : Fin 4) (v : BitVec 16) : Held (.loader l p) (.check v)
  | endStream (l : LaunchId) (p : Fin 4) : Held (.loader l p) .endStream
  | tileCommand (l : LaunchId) (p : Fin 4) (row col : BitVec 5) (fn : BitVec 6) (v : BitVec 16) : Held (.loader l p) (.tileCommand row col fn v)
  | reserved (l : LaunchId) (p : Fin 4) (w : BitVec 32) : Held (.loader l p) (.reservedStreamCommand w)

theorem decodeSlot_held {w : Word} {i : Instr} (sl : SlotId) (h : decodeSlot w = .ok (some i)) : Held (.slot sl) i := by
  unfold decodeSlot at h
  grind [Held.node, Held.mem]

theorem slotInstr_held {x : Tile} {sl : SlotId} {i : Instr} (h : slotInstr x sl.slot.val = some i) : Held (.slot sl) i := by
  unfold slotInstr at h
  split at h
  · cases h
  next p _ =>
    split at h
    · split at h
      next r hr => exact decodeSlot_held sl (h ▸ hr)
      · cases h
    · cases h

theorem decodeMatrix_held {w : Word} {i : Instr} (c : ClusterId) (q : Fin 2) (h : decodeMatrix w = some i) : Held (.array c q) i := by
  unfold decodeMatrix at h
  grind [Held.array]

theorem fetchArray_held {x : Cluster} {c : ClusterId} {q : Fin 2} {i : Instr} (h : fetchArray x q = some i) : Held (.array c q) i := by
  unfold fetchArray at h
  split at h
  · split at h
    · exact decodeMatrix_held c q h
    · cases h
  · cases h

theorem decodeCore_held (c : ClusterId) (w e : Word) : Held (.core c) (decodeCore w e) := by
  unfold decodeCore
  grind [Held.core, Held.illegal, Held.extTarget]

theorem fetchCore_held (c : ClusterId) (x : Cluster) : Held (.core c) (fetchCore x) := by
  unfold fetchCore
  dsimp only
  split
  · exact .fetch ..
  · split
    · exact decodeCore_held ..
    · split
      · exact .fetch ..
      · exact decodeCore_held ..

theorem decodeRouter_held {w : BitVec 32} {i : Instr} (t : TileId) (g : Fin 2) (h : decodeRouter w = .ok (some i)) : Held (.router t g) i := by
  unfold decodeRouter at h
  grind [Held.steer, Held.carry, Held.inv, Held.merge]

theorem opInstr_held {x : Tile} {t : TileId} {g : Fin 2} {i : Instr} (h : opInstr x g = some i) : Held (.router t g) i := by
  unfold opInstr at h
  split at h
  · cases h
  · split at h
    next r hr => exact decodeRouter_held t g (h ▸ hr)
    · cases h

theorem decodeStream_held (l : LaunchId) (p : Fin 4) (w : BitVec 32) : Held (.loader l p) (decodeStream w) := by
  fun_cases decodeStream w <;> constructor

theorem fetchLoader_held {s : State} {l : LaunchId} {p : Fin 4} {i : Instr} (h : fetchLoader s l p = some i) : Held (.loader l p) i := by
  unfold fetchLoader at h
  split at h
  · cases h
  next y _ =>
    obtain ⟨w, -, rfl⟩ := Option.map_eq_some_iff.mp h
    exact decodeStream_held l p w

/-- What a place's next turn runs is an instruction of the place's kind. -/
theorem fetchAt_held {s : State} {p : Place} {i : Instr} (h : fetchAt s p = some i) : Held p i := by
  cases p with
  | core c => exact Option.some.inj h ▸ fetchCore_held c _
  | slot sl => exact slotInstr_held h
  | router t g => exact opInstr_held h
  | loader l p => exact fetchLoader_held h
  | array c q => exact fetchArray_held h
  | _ => cases h

/-! ## An instruction at its place -/

theorem atSlot_answers {s : State} {sl : SlotId} (h : s.here = .slot sl) (i : Instr) (go : SlotId → State → State) : Answers (atSlot i s go) := by
  simp only [atSlot, h]
  split <;> exact answers_next _

theorem atArray_answers {s : State} {c : ClusterId} {q : Fin 2} (h : s.here = .array c q) (i : Instr) (go : Cluster → MOp → List (Nat × Payload)) :
    Answers (atArray i s go) := by
  simp only [atArray, h]
  split
  · split <;> exact answers_next _
  · exact answers_next _

theorem atRouter_answers {s : State} {t : TileId} {g : Fin 2} (h : s.here = .router t g) (i : Instr) : Answers (atRouter i s) := by
  simp only [atRouter, h]
  split
  · split <;> exact answers_next _
  · exact answers_next _

theorem atLoader_answers {s : State} {l : LaunchId} {p : Fin 4} (h : s.here = .loader l p) (i : Instr)
    (go : State → LaunchId → Launch → Load → BitVec 32 → State × LoadRes) : Answers (atLoader i s go) := by
  simp only [atLoader, h]
  repeat' split
  all_goals exact answers_next _

theorem atCore_answers {s : State} {c : ClusterId} (h : s.here = .core c) (w : CWord) (go : ClusterId → Cluster → State → CoreRes) :
    Answers (atCore w s go) := by
  simp only [atCore, h]
  repeat' split
  all_goals exact answers_next _

theorem fireCalc_answers {s : State} {sl : SlotId} (h : s.here = .slot sl) (op : NodeOp) (value : CalcIn → Calc) (w : NWord) :
    Answers (fireCalc op value w s) := atSlot_answers h ..

theorem actNode_answers {s : State} {sl : SlotId} (h : s.here = .slot sl) (op : NodeOp) (w : NWord) (go : SlotId → Fire → State → State) :
    Answers (actNode op w s go) := atSlot_answers h ..

theorem coreVal_answers {s : State} {c : ClusterId} (h : s.here = .core c) (w : CWord) (f : Nat → Nat → Nat → Nat) : Answers (coreVal w s f) :=
  atCore_answers h ..

theorem coreLoad_answers {s : State} {c : ClusterId} (h : s.here = .core c) (w : CWord) (n : Nat) : Answers (coreLoad w n s) := atCore_answers h ..

theorem coreStoreOp_answers {s : State} {c : ClusterId} (h : s.here = .core c) (w : CWord) (n : Nat) : Answers (coreStoreOp w n s) :=
  atCore_answers h ..

theorem withDesc_answers {s : State} {c : ClusterId} (h : s.here = .core c) (w : CWord) (n : Nat)
    (go : ClusterId → Cluster → List Word → State → CoreRes) : Answers (withDesc w s n go) := atCore_answers h ..

theorem badWord_answers {s : State} {c : ClusterId} (h : s.here = .core c) (code : Nat) (tval : Cluster → Word) : Answers (badWord s code tval) := by
  simp only [badWord, h]
  split
  · exact answers_next _
  · split <;> exact answers_next _

theorem execFetch_answers {s : State} {c : ClusterId} (h : s.here = .core c) (a : Word) : Answers (execFetch a s) := by
  simp only [execFetch, h]
  split <;> exact answers_next _

theorem nodeInstr_answers (op : NodeOp) (w : NWord) {s : State} {sl : SlotId} (h : s.here = .slot sl) : Answers (exec (nodeInstr op w) s) := by
  cases op with
  | scl | cmpr | wset | wmul | hdrs | win | join | agg | seq | rstat => dsimp only [nodeInstr, exec]; exact atSlot_answers h ..
  | bx | bxc | tspawn | tjoin | thalt | dsel | btok | barn | evpost | mxn | mseq | radv => dsimp only [nodeInstr, exec]; exact actNode_answers h ..
  | _ => dsimp only [nodeInstr, exec]; exact fireCalc_answers h ..

theorem memInstr_answers (op : MemOp) (w : MWord) {s : State} {sl : SlotId} (h : s.here = .slot sl) : Answers (exec (memInstr op w) s) := by
  cases op <;> (dsimp only [memInstr, exec]; exact atSlot_answers h ..)

theorem matInstr_answers (op : MatOp) (w : XWord) {s : State} {c : ClusterId} {q : Fin 2} (h : s.here = .array c q) :
    Answers (exec (matInstr op w) s) := by
  cases op <;> (dsimp only [matInstr, exec]; exact atArray_answers h ..)

theorem coreInstr_answers (op : CoreOp) (w : CWord) {s : State} {c : ClusterId} (h : s.here = .core c) : Answers (exec (coreInstr op w) s) := by
  cases op with
  | mov | ldi | add | sub | adds | subs | mul | mulh | mad | min | max | abs | neg | and | or | xor | andn | not | shl | shr | sar | rol | clz | ctz
  | popc | brev | bfx | bfxs | bfi | cmp | sel | div | divu | rem | remu => dsimp only [coreInstr, exec]; exact coreVal_answers h ..
  | ld8 | ld16 | ld32 | ld64 => dsimp only [coreInstr, exec]; exact coreLoad_answers h ..
  | st8 | st16 | st32 | st64 => dsimp only [coreInstr, exec]; exact coreStoreOp_answers h ..
  | launch | sbind | modld | cpypost | colpost => dsimp only [coreInstr, exec]; exact withDesc_answers h ..
  | nepost =>
    dsimp only [coreInstr, exec, execNepost]
    split
    · exact atCore_answers h ..
    · exact withDesc_answers h ..
  | _ => dsimp only [coreInstr, exec]; exact atCore_answers h ..

/-- An instruction at a place of its kind answers: each waits or acts by its place's common step. -/
theorem Held.answers {p : Place} {i : Instr} (h : Held p i) {s : State} (hp : s.here = p) : Answers (exec i s) := by
  cases h with
  | node _ op w => exact nodeInstr_answers op w hp
  | mem _ op w => exact memInstr_answers op w hp
  | array _ _ op w => exact matInstr_answers op w hp
  | core _ op w => exact coreInstr_answers op w hp
  | illegal | extTarget => dsimp only [exec]; exact badWord_answers hp ..
  | fetch => exact execFetch_answers hp _
  | steer | carry | inv | merge => dsimp only [exec]; exact atRouter_answers hp _
  | reserved | beginStream | plane | page | origin | copies | pc | check | endStream
  | tileCommand => dsimp only [exec]; exact atLoader_answers hp ..

/-! ## The moves -/

theorem view_of_encode_none {i : Instr} (h : encode i = .none) : view i = .other := by
  unfold encode at h
  split at h
  · cases h
  · cases h
  · cases h
  · split at h <;> cases h
  · assumption

theorem isMove_view {i : Instr} (h : isMove i = true) : view i = .other := by
  unfold isMove at h
  split at h
  · cases h
  · exact view_of_encode_none (of_decide_eq_true h)

theorem atRegister_answers (ok : Nat → Word → Bool) (s : State) : Answers (atRegister ok s) := by
  unfold atRegister
  split <;> exact answers_next _

theorem lodgeStep_answers (mine : Nat → Bool) (go : LodgeCmd → State → Option Executed) (s : State) : Answers (lodgeStep mine go s) := by
  unfold lodgeStep
  repeat' split
  all_goals exact answers_next _

/-- A move of the machine answers wherever it happens: every branch of its meaning ends in a next state. -/
theorem isMove_answers {i : Instr} (h : isMove i = true) (s : State) : Answers (exec i s) := by
  have hv := isMove_view h
  cases i with
  | forward | localSend | arrive | gapPlace | edgeGateClose | edgeGateOpen | pkthdrTake | loneToken | resultComplete | qwc | threadRetire | phaseEnd
  | planeSwitch | cfgLoadStart | schedulerLoad | rswApply | launchPlace | residencyGateMet | inStreamInject | outStreamWrite | streamComplete |
  perform | pageRequestOpen | fill | writeBack | copyStart | engineWrite | engineDone | fixupReplay | drain | coreRead | record | eqlost | register
  | barrierReport | release | threadDelivery | eventWake | waitTimeout | matrixOpStart | matrixRetire | mcastRequest | mcastSendStart |
  mcastLineSend | mcastLand | agenEmit | mseqEmit | bkgiveSet | radvPublish | moduleUnload | sliceExpiry | preempt | saveComplete | restore |
  restoreComplete | watchdog | watchdogDrainEnd | resetComplete | suspend | resume | reset | guardRewrite | portGuardReport | leaseRequest |
  leaseRelease | cutRecord | cutDone | promotion | demotion | evaluation | exchange | pairAbandon | mapChange | flitReceive | collectiveStart |
  workRequestStart | scoutPass | packetSend | packetReceive | ackTimer | ackReceive | retransmitTimeout | workRequestComplete | hostWrite | hostRead
  | pstateOn | pstateIdle | pstateOff | trimStepDown | trimStepUp | thermalLimit | thermalShutdown | powerOn | shootdownComplete | linkTrainingDone =>
    simp only [exec, execForward, execLocalSend, execArrive, execGapPlace, execEdgeGateClose, execEdgeGateOpen, execPkthdrTake, execLoneToken,
      execResultComplete, execQwc, execThreadRetire, execPhaseEnd, execPlaneSwitch, execCfgLoadStart, execSchedulerLoad, execRswApply,
      execLaunchPlace, execResidencyGateMet, execInStreamInject, execOutStreamWrite, execStreamComplete, execPerform, execPageRequestOpen, execFill,
      execWriteBack, execCopyStart, execEngineWrite, execEngineDone, execFixupReplay, execDrain, execCoreRead, execRecord, execEqlost, execRegister,
      execBarrierReport, execRelease, execThreadDelivery, execEventWake, execWaitTimeout, execMatrixOpStart, execMatrixRetire, execMcastRequest,
      execMcastSendStart, execMcastLineSend, execMcastLand, execAgenEmit, execMseqEmit, execBkgiveSet, execRadvPublish, execModuleUnload,
      execSliceExpiry, execPreempt, execSaveComplete, execRestore, execRestoreComplete, execWatchdog, execWatchdogDrainEnd, execResetComplete,
      execSuspend, execResume, execReset, execGuardRewrite, execPortGuardReport, execLeaseRequest, execLeaseRelease, execCutRecord, execCutDone,
      execPromotion, execDemotion, execEvaluation, execExchange, execPairAbandon, execMapChange, execFlitReceive, execCollectiveStart,
      execWorkRequestStart, execScoutPass, execPacketSend, execPacketReceive, execAckTimer, execAckReceive, execRetransmitTimeout,
      execWorkRequestComplete, execHostWrite, execHostRead, execPstateOn, execPstateIdle, execPstateOff, execTrimStepDown, execTrimStepUp,
      execThermalLimit, execThermalShutdown, execPowerOn, execShootdownComplete, execLinkTrainingDone]
    repeat' split
    all_goals exact answers_next _
  | pctlWrite | prectWrite | rkbaseWrite | mxmodeWrite | rgeomWrite | rptrClear | slareaWrite | swinWrite | barcfgWrite | rangeEntryWrite
  | registerWrite => dsimp only [exec]; exact atRegister_answers ..
  | lodgeLaunch | cstart | cstop | regwr | regrd => dsimp only [exec]; exact lodgeStep_answers ..
  | unassignedOp =>
    dsimp only [exec, execUnassignedOp]
    repeat' split
    any_goals exact answers_next _
    exact lodgeStep_answers ..
  | beginStream | plane | page | origin | copies | pc | check | endStream | tileCommand | steer | carry | inv | merge | illegal | extTarget | fetch
  | reservedStreamCommand => cases h
  | _ => cases hv

/-! ## A step -/

/-- What a turn runs answers: it is the word that the place holds, or a move. -/
theorem turnOf_answers {s t : State} {a : Act} {i : Instr} (h : turnOf s a = .run i t) : Answers (exec i t) := by
  cases a with
  | tick => simp only [turnOf] at h; split at h <;> cases h
  | word p =>
    simp only [turnOf] at h
    split at h
    · split at h
      next j hf =>
        cases h
        exact (fetchAt_held hf).answers rfl
      · cases h
    · cases h
  | move j p =>
    simp only [turnOf] at h
    split at h
    next hj =>
      cases h
      exact isMove_answers hj.1 _
    · cases h
  | listing => cases h

theorem nextTurn_answers {s t : State} {i : Instr} (h : nextTurn s = .run i t) : Answers (exec i t) := by
  unfold nextTurn at h
  split at h <;> exact turnOf_answers h

/-- Settles O6: an act runs nothing, a move, or the word that its place holds. -/
theorem stepAlwaysAnswers : Obligations.StepAlwaysAnswers := by
  unfold Obligations.StepAlwaysAnswers
  intro s
  change Answers (step s)
  unfold step
  split
  · exact answers_next _
  next h => exact (nextTurn_answers h).leave

end Sys2Proof.Machine
end

section
/-! PROOFS. Calculating nodes (R13, R14, R38, R88, R89): each is one firing, with a calculation and a change of the result's header. -/
namespace Sys2Proof.Machine
open Sys2Proof

/-- What a calculating node may change of the common result header: nothing of its THR and its valid lanes, of the lanes' values only CMPR (R133), and
of the rest only HDRS, WSET, WMUL and CMPR (R133, R165, R166). -/
structure HeaderFix (op : NodeOp) (fix : Fire → Calc → VTok → VTok) : Prop where
  thr : ∀ f r t, (fix f r t).thr = t.thr
  valid : ∀ f r t, (fix f r t).valid = t.valid
  pay : op ≠ .cmpr → ∀ f r t, (fix f r t).pay = t.pay
  plain : ¬ [NodeOp.hdrs, .wset, .wmul, .cmpr].contains op → ∀ f r t, fix f r t = t

theorem HeaderFix.none (op : NodeOp) : HeaderFix op fun _ _ t => t :=
  ⟨fun _ _ _ => rfl, fun _ _ _ => rfl, fun _ _ _ _ => rfl, fun _ _ _ _ => rfl⟩

theorem HeaderFix.reweigh {op : NodeOp} (h : [NodeOp.hdrs, .wset, .wmul, .cmpr].contains op) (k : Fire → Weight → Weight) :
    HeaderFix op fun f _ t => reweigh f (k f) t :=
  ⟨fun _ _ _ => rfl, fun _ _ _ => rfl, fun _ _ _ _ => rfl, fun n => absurd h n⟩

theorem HeaderFix.hdrs (w : NWord) : HeaderFix .hdrs fun f _ t => hdrsTok w f t where
  thr _ _ _ := by unfold hdrsTok; dsimp only; split <;> rfl
  valid _ _ _ := by unfold hdrsTok; dsimp only; split <;> rfl
  pay _ _ _ _ := by unfold hdrsTok; dsimp only; split <;> rfl
  plain n := absurd rfl n

theorem HeaderFix.cmpr (w : NWord) : HeaderFix .cmpr fun f r t =>
    { t with kind := kCf8, key := BitVec.ofNat 16 (cf8Block ⟨f.ty, w, f.a, f.b, f.c⟩).1, fmt := 0, pay := r.pay } :=
  ⟨fun _ _ _ => rfl, fun _ _ _ => rfl, fun n => absurd rfl n, fun n => absurd rfl n⟩

theorem fireCalc_turn {op : NodeOp} {w : NWord} {sl : SlotId} {s : State} (h : AtTurn s sl (nodeInstr op w)) (value : CalcIn → Calc) :
    fireCalc op value w s =
      .next (fireState (.node op w) w (fun f => value ⟨f.ty, w, f.a, f.b, f.c⟩) (fun _ _ t => t) sl s) := atSlot_turn h _

/-- A node's instruction makes one firing of a calculating node: a calculation, and a change of the header that the node may make. -/
def Fires (op : NodeOp) (w : NWord) (sl : SlotId) (s : State) : Prop :=
  ∃ g fix, HeaderFix op fix ∧ exec (nodeInstr op w) s = .next (fireState (.node op w) w g fix sl s)

theorem Fires.of {op : NodeOp} {w : NWord} {sl : SlotId} {s : State} {fix : Fire → Calc → VTok → VTok} (hf : HeaderFix op fix) {g : Fire → Calc}
    (h : exec (nodeInstr op w) s = .next (fireState (.node op w) w g fix sl s)) : Fires op w sl s := ⟨g, fix, hf, h⟩

/-- A calculating node at its turn fires. -/
theorem fires_of_calculates {op : NodeOp} (hc : calculates op = true) {w : NWord} {sl : SlotId} {s : State} (h : AtTurn s sl (nodeInstr op w)) :
    Fires op w sl s := by
  cases op with
  | win | join | agg | bx | bxc | tspawn | tjoin | thalt | dsel | seq | btok | barn | evpost | mxn | mseq | radv => cases hc
  | wset => apply Fires.of (.reweigh (by decide) fun _ b => b); dsimp only [nodeInstr, exec]; exact atSlot_turn h _
  | wmul => apply Fires.of (.reweigh (by decide) fun f => wmul f.a.wt); dsimp only [nodeInstr, exec]; exact atSlot_turn h _
  | hdrs => apply Fires.of (.hdrs w); dsimp only [nodeInstr, exec]; exact atSlot_turn h _
  | cmpr => apply Fires.of (.cmpr w); dsimp only [nodeInstr, exec]; exact atSlot_turn h _
  | scl => apply Fires.of (.none _); dsimp only [nodeInstr, exec]; exact atSlot_turn h _
  | rstat => apply Fires.of (.none _); dsimp only [nodeInstr, exec, execRstat]; exact atSlot_turn h _
  | _ => apply Fires.of (.none _); dsimp only [nodeInstr, exec]; exact fireCalc_turn h _

/-! ## The latch and the pipeline after a firing -/

theorem lane_zeroInvalid {v : BitVec 16} {l : Nat} (hl : l < 16) (hv : v.getLsbD l = false) (p : Payload) : lane (zeroInvalid v p) l = 0 := by
  apply BitVec.eq_of_getLsbD_eq
  intro i hi
  have e : (32 * l + i) / 32 = l := by omega
  simp only [lane, BitVec.getLsbD_extractLsb', getLsbD_zeroInvalid v p _ (show 32 * l + i < 512 by omega), e, hv]
  simp

/-- A firing's latch has the THR of the firing; an invalid lane of it holds zero unless the node sets the payload itself; and its key, weight
and kind are the common ones unless the node sets them (R88, R89). -/
structure CalcLatch (op : NodeOp) (w : NWord) (f : Fire) (r : VTok) : Prop where
  thr : r.thr = f.thr
  header : w.wp = false → ¬ [NodeOp.hdrs, .wset, .wmul, .cmpr].contains op → r.key = 0 ∧ r.wt = wOne ∧ r.kind = kData
  zero : op ≠ .cmpr → ∀ l, l < 16 → r.valid.getLsbD l = false → lane r.pay l = 0
  bad : f.pktOk = false → r.valid = 0

theorem calcLatch_resultTok {op : NodeOp} {fix : Fire → Calc → VTok → VTok} (hf : HeaderFix op fix) (w : NWord) {f : Fire} (hk : f.pktOk = true)
    (r : Calc) : CalcLatch op w f (fix f r (resultTok f w r)) where
  thr := hf.thr ..
  header hw hn := by rw [hf.plain hn]; simp [resultTok, hw]
  zero hop l hl hv := by
    rw [hf.pay hop]
    rw [hf.valid] at hv
    exact lane_zeroInvalid hl hv _
  bad h := by rw [hk] at h; cases h

/-- Without a legal type (R38). -/
theorem calcLatch_noLanes (op : NodeOp) (w : NWord) (f : Fire) (fmt : BitVec 4) :
    CalcLatch op w f { valid := 0, wt := if w.wp then wread f.a.wt else wOne, key := if w.wp then f.a.key else 0, kind := kData, fmt := fmt,
                       thr := f.thr, pay := 0 } where
  thr := rfl
  header hw _ := by simp [hw]
  zero _ l _ _ := by simp [lane]
  bad _ := rfl

theorem emsOf_ne_nil {out : BitVec 4} (h : out ≠ 0) (t : VTok) : emsOf out t ≠ [] := by
  intro e
  simp only [emsOf, List.append_eq_nil_iff, ite_eq_right_iff, reduceCtorEq, imp_false] at e
  obtain ⟨⟨⟨e0, e1⟩, e2⟩, e3⟩ := e
  apply h
  apply BitVec.eq_of_getLsbD_eq
  intro i hi
  interval_cases i <;> simp_all

theorem secEms_of_so_false {w : NWord} (h : w.so = false) (f : Fire) (r : Calc) : secEms f w r = [] := by simp [secEms, h]

/-- What a calculating node's firing leaves in its slot: the issue made, its result in the latch, and that result on the ports of OUT. -/
theorem slotAt_fires {op : NodeOp} {fix : Fire → Calc → VTok → VTok} (hf : HeaderFix op fix) (w : NWord) (g : Fire → Calc) (sl : SlotId) (s : State) :
    ∃ r es k, CalcLatch op w (fireOf s sl (.node op w)) r ∧ (w.out ≠ 0 → w.so = false → es = emsOf w.out r) ∧
      slotAt (fireState (.node op w) w g fix sl s) sl =
        { slotAt s sl with since := none, fired := true, latch := r,
                           pipe := (slotAt s sl).pipe ++ (if es = [] then [] else [{ results es with arith := k }]) } := by
  cases hk : (fireOf s sl (.node op w)).pktOk with
  | true =>
    obtain ⟨k, h⟩ := slotAt_fireState (.node op w) w g fix sl s hk
    exact ⟨_, _, k, calcLatch_resultTok hf w hk _, fun _ hs => by rw [secEms_of_so_false hs, List.append_nil], h⟩
  | false =>
    have h := slotAt_fireState_bad (.node op w) w g fix sl s hk
    exact ⟨_, _, 0, calcLatch_noLanes op w _ _, fun _ hs => by rw [secEms_of_so_false hs, List.append_nil], h⟩

theorem issued_fires (v : View) (w : NWord) (g : Fire → Calc) (fix : Fire → Calc → VTok → VTok) (sl : SlotId) (s : State)
    {y : Slot} (h : slotAt (fireState v w g fix sl s) sl = y) (hy : y.since = none ∧ y.fired = true) : Issued s (fireState v w g fix sl s) sl := by
  subst h
  exact ⟨issued_fireState v w g fix sl s, hy⟩

/-- Settles O10: a calculating node is one firing (`fires_of_calculates`), whose slot is as `slotAt_fires` says. -/
theorem calculatingNodesFire : Obligations.CalculatingNodesFire := by
  unfold Obligations.CalculatingNodesFire
  intro op w sl s hc ht
  obtain ⟨g, fix, hf, he⟩ := fires_of_calculates hc ht
  obtain ⟨r, es, k, hl, hes, hs⟩ := slotAt_fires hf w g sl s
  have hr : latchOf (fireState (.node op w) w g fix sl s) sl = r := congrArg Slot.latch hs
  have hp := congrArg Slot.pipe hs
  refine ⟨_, he, ?_⟩
  dsimp only
  rw [hr]
  refine ⟨issued_fires _ _ _ _ _ _ hs ⟨rfl, rfl⟩, hl.thr, hl.header, hl.zero, hl.bad, fun ho hso => ⟨k, ?_⟩, fireState_frame ..⟩
  obtain rfl := hes ho hso
  rw [if_neg (emsOf_ne_nil ho r)] at hp
  exact hp

end Sys2Proof.Machine
end


section
/-! PROOFS. Every instruction of a PE slot whose turn it is issues (R13, R14, R86): what its firing changes is its tile, its launch, its slice's windows
and, for BARN, MXN and RADV, its cluster. -/
namespace Sys2Proof.Machine
open Sys2Proof

/-! ## What a slot's step leaves -/

/-- What a slot's step leaves of a state: memory, the dies, the other tiles, the clusters outside some, the package. -/
structure Leaves (p : ClusterId → Prop) (sl : SlotId) (s t : State) : Prop where
  mem : SameMem s t
  dies : t.dies = s.dies
  tiles : SameTilesBut s t (· = sl.tile)
  cores : SameCoresBut s t p
  package : SamePackage s t

theorem Leaves.trans {p : ClusterId → Prop} {sl : SlotId} {a b c : State} (h : Leaves p sl a b) (k : Leaves p sl b c) : Leaves p sl a c :=
  ⟨h.mem.trans k.mem, k.dies.trans h.dies, h.tiles.trans k.tiles, h.cores.trans k.cores, h.package.trans k.package⟩

theorem Leaves.of_frame {sl : SlotId} {s t : State} (h : TileFrame s t sl.tile) (p : ClusterId → Prop) : Leaves p sl s t :=
  ⟨h.1, h.2.2.1, h.2.2.2.1, fun c _ => h.2.1 c id, h.2.2.2.2⟩

theorem Leaves.frame {sl : SlotId} {s t : State} (h : Leaves (fun _ => False) sl s t) : TileFrame s t sl.tile :=
  ⟨h.mem, h.cores, h.dies, h.tiles, h.package⟩

/-- A step after a slot's issue: it keeps the issue, and the end of the slot's readiness. -/
structure Keeps (p : ClusterId → Prop) (sl : SlotId) (s t : State) : Prop extends Leaves p sl s t where
  issued : (getTile t sl.tile).issued = (getTile s sl.tile).issued
  since : (slotAt t sl).since = (slotAt s sl).since
  fired : (slotAt t sl).fired = (slotAt s sl).fired

/-- A slot's issue has been made, and its step has changed no more than `Leaves` says. -/
structure Begun (p : ClusterId → Prop) (sl : SlotId) (s t : State) : Prop extends Leaves p sl s t where
  issue : Issued s t sl

section
variable {p : ClusterId → Prop} {sl : SlotId} {a b c : State}

theorem Keeps.trans (h : Keeps p sl a b) (k : Keeps p sl b c) : Keeps p sl a c :=
  ⟨h.toLeaves.trans k.toLeaves, k.issued.trans h.issued, k.since.trans h.since, k.fired.trans h.fired⟩

/-- After the issue, a step that keeps it. -/
theorem Begun.then (h : Begun p sl a b) (k : Keeps p sl b c) : Begun p sl a c := by
  obtain ⟨h1, h2, h3⟩ := h.issue
  exact ⟨h.toLeaves.trans k.toLeaves, k.issued.trans h1, k.since.trans h2, k.fired.trans h3⟩

theorem Begun.ite {q : Prop} [Decidable q] (h : Begun p sl a b) (k : Begun p sl a c) : Begun p sl a (if q then b else c) := by
  split
  · exact h
  · exact k

theorem Keeps.of_slots (h : TileFrame a b sl.tile) (k : SameSlots a b sl.tile) : Keeps p sl a b :=
  ⟨.of_frame h p, k.2.1, by rw [k.slotAt], by rw [k.slotAt]⟩

/-- An update of the slot itself that keeps its issue. -/
theorem Keeps.of_slot {y : Slot} (h : TileFrame a b sl.tile) (hi : (getTile b sl.tile).issued = (getTile a sl.tile).issued)
    (hy : slotAt b sl = y) (hs : y.since = (slotAt a sl).since) (hf : y.fired = (slotAt a sl).fired) : Keeps p sl a b := by
  subst hy
  exact ⟨.of_frame h p, hi, hs, hf⟩

end

section
variable (p : ClusterId → Prop) (sl : SlotId) (s : State)

theorem Keeps.refl : Keeps p sl s s := .of_slots (.refl ..) (.refl ..)

theorem Keeps.foldl {β : Type} (f : State → β → State) (h : ∀ s x, Keeps p sl s (f s x)) (l : List β) : Keeps p sl s (l.foldl f s) := by
  induction l generalizing s with
  | nil => exact .refl ..
  | cons x l ih => exact (h s x).trans (ih _)

/-! ## The operations that a firing is made of -/

theorem begun_beginFire (qs : List Nat) : Begun p sl s (beginFire s sl qs) :=
  ⟨.of_frame (beginFire_frame ..) p, issued_beginFire .., congrArg Slot.since (slotAt_beginFire s sl qs),
    congrArg Slot.fired (slotAt_beginFire s sl qs)⟩

theorem begun_markIssue : Begun p sl s (markIssue s sl) :=
  ⟨.of_frame (markIssue_frame ..) p, by simp [markIssue, updSlot, setSlot], by simp [markIssue], by simp [markIssue]⟩

theorem keeps_setLatch (t : VTok) : Keeps p sl s (setLatch s sl t) := .of_slot (setLatch_frame ..) (issued_setLatch ..) (slotAt_setLatch ..) rfl rfl
theorem keeps_setNode (n : NodeSt) : Keeps p sl s (setNode s sl n) := .of_slot (setNode_frame ..) (issued_setNode ..) (slotAt_setNode ..) rfl rfl
theorem keeps_pushPipe (f : Firing) : Keeps p sl s (pushPipe s sl f) := .of_slot (pushPipe_frame ..) (issued_pushPipe ..) (slotAt_pushPipe ..) rfl rfl
theorem keeps_pushEms (es : List (Fin 4 × Tok)) : Keeps p sl s (pushEms s sl es) := .of_slot (pushEms_frame ..) (issued_pushEms ..) (slotAt_pushEms ..) rfl rfl
theorem keeps_pushArith (thr : BitVec 8) (mask : Nat) (tok : Nat × Nat) (es : List (Fin 4 × Tok)) :
    Keeps p sl s (pushArith s sl thr mask tok es) :=
  (slotAt_pushArith s sl thr mask tok es).elim fun _ h => .of_slot (pushArith_frame ..) (issued_pushArith ..) h rfl rfl
theorem keeps_updSlot {f : Slot → Slot} (hs : ∀ y, (f y).since = y.since) (hf : ∀ y, (f y).fired = y.fired) :
    Keeps p sl s (updTile s sl.tile fun x => updSlot x sl.slot.val f) :=
  .of_slot (updTile_frame ..) (by simp [updSlot, setSlot]) (by simp [slotAt]) (hs _) (hf _)
theorem keeps_updTile {f : Tile → Tile} (hs : ∀ x, (f x).slots = x.slots) (hi : ∀ x, (f x).issued = x.issued) :
    Keeps p sl s (updTile s sl.tile f) :=
  .of_slots (updTile_frame ..) (setTile_slots (hs _) (hi _))
theorem keeps_counts (g : Tile → Assoc Nat) : Keeps p sl s (updTile s sl.tile fun x => { x with counts := g x }) :=
  keeps_updTile p sl s (fun _ => rfl) fun _ => rfl
theorem keeps_fillFiring (id : Nat) (es : List (Fin 4 × Tok)) : Keeps p sl s (fillFiring s sl id es) :=
  keeps_updSlot p sl s (fun _ => rfl) fun _ => rfl
theorem keeps_fresh : Keeps p sl s (fresh s).2 := .of_slots (fresh_frame ..) (fresh_slots ..)
theorem keeps_recT (t : TileId) (r : Rec) : Keeps p sl s (recT s t r) := .of_slots (recT_frame ..) (recT_slots ..)
theorem keeps_recL (l : LaunchId) (r : Rec) : Keeps p sl s (recL s l r) := .of_slots (recL_frame ..) (recL_slots ..)
theorem keeps_setLaunch (l : LaunchId) (x : Launch) : Keeps p sl s (setLaunch s l x) := .of_slots (setLaunch_frame ..) (setLaunch_slots ..)
theorem keeps_updLaunch (l : LaunchId) (f : Launch → Launch) : Keeps p sl s (updLaunch s l f) := .of_slots (updLaunch_frame ..) (updLaunch_slots ..)
theorem keeps_countL (l : LaunchId) (n : Nat) : Keeps p sl s (countL s l n) := keeps_updLaunch ..
theorem keeps_recFirstL (l : LaunchId) (r : Rec) : Keeps p sl s (recFirstL s l r) := by
  unfold recFirstL
  split
  · exact .refl ..
  · split
    · exact .refl ..
    · exact (keeps_setLaunch ..).trans (keeps_recL ..)
theorem keeps_countEv (t : TileId) (ev q n : Nat) : Keeps p sl s (countEv s t ev q n) := .of_slots (countEv_frame ..) (countEv_slots ..)
theorem keeps_countCl (c : ClusterId) (n : Nat) : Keeps p sl s (countCl s c n) := .of_slots (countCl_frame ..) ⟨rfl, rfl, rfl⟩
theorem keeps_inexact (t : TileId) (thr : BitVec 8) : Keeps p sl s (inexact s t thr) := .of_slots (inexact_frame ..) (inexact_slots ..)
theorem keeps_updSlice (i : SliceId) (f : Slice → Slice) : Keeps p sl s (updSlice s i f) := .of_slots (updSlice_frame ..) ⟨rfl, rfl, rfl⟩

/-- A cluster among those that may change. -/
theorem keeps_setCl {c : ClusterId} (h : p c) (x : Cluster) : Keeps p sl s (setCl s c x) :=
  { mem := .of_eq rfl rfl rfl rfl rfl, dies := rfl, tiles := fun _ _ => rfl, package := .refl s, issued := rfl, since := rfl, fired := rfl,
    cores := fun e he => by rw [getCl_setCl_other s x fun (ec : e = c) => he (ec ▸ h)] }

theorem keeps_emitAll (out : BitVec 4) (ts : List VTok) : Keeps p sl s (emitAll s sl out ts) :=
  .foldl p sl s _ (fun s _ => (keeps_setLatch p sl s _).trans (keeps_pushEms ..)) ts

/-! ## Threads and planes -/

theorem keeps_exitFire (thr : BitVec 8) (e : Launch → Exit) (also : Launch → Thread → Launch) : Keeps p sl s (exitFire s sl.tile thr e also) := by
  unfold exitFire
  split
  · exact .refl ..
  split
  · exact .refl ..
  split
  · exact .refl ..
  split
  · exact .refl ..
  split
  · exact keeps_setLaunch ..
  · exact (keeps_countL ..).trans (keeps_recFirstL ..)

theorem keeps_decidePlane (l : LaunchId) (k : Fin 4) : Keeps p sl s (decidePlane s l k) := by
  unfold decidePlane
  split
  · exact .refl ..
  split
  · exact .refl ..
  split
  · exact keeps_countL ..
  split
  · exact (keeps_countL ..).trans (keeps_recL ..)
  · exact keeps_setLaunch ..

theorem keeps_spawnResult (w : NWord) (f : Fire) (r : Word) : Keeps p sl s (spawnResult w sl f r s) :=
  (keeps_setLatch p sl s _).trans (keeps_pushEms ..)

/-! ## Accesses -/

theorem keeps_staleFills (a : Access) : Keeps p sl s (staleFills s sl.tile a) := by
  unfold staleFills
  split
  · split
    · exact keeps_updSlice ..
    · exact .refl ..
  · exact .refl ..

theorem keeps_enterPort (a : Access) : Keeps p sl s (enterPort s sl a) := by
  have h := (keeps_staleFills p sl s a).trans (keeps_updTile p sl _ (f := fun x =>
    { x with port := { x.port with queue := x.port.queue ++ [a], nextId := x.port.nextId + 1 } }) (fun _ => rfl) fun _ => rfl)
  unfold enterPort
  split
  · exact h.trans (keeps_pushEms ..)
  split
  · exact h.trans (keeps_pushPipe ..)
  · exact h

theorem keeps_tainted (a : Access) (bad : Bool) : Keeps p sl s (tainted s sl.tile a bad) := by
  unfold tainted
  split
  · exact keeps_inexact ..
  · exact .refl ..

theorem keeps_seq (n : Nat) : Keeps p sl s { s with seq := n } :=
  .of_slots ⟨.of_eq rfl rfl rfl rfl rfl, .of_eq rfl, rfl, fun _ _ => rfl, .refl s⟩ ⟨rfl, rfl, rfl⟩

theorem keeps_popWindow (k : Nat) : Keeps p sl s (popWindow s sl.tile k) := keeps_updSlice ..
theorem keeps_pushWindow (k : Nat) (g : WinGran) : Keeps p sl s (pushWindow s sl.tile k g) := keeps_updSlice ..

theorem begun_gapFire (op : MemOp) (w : MWord) (f : Fire) : Begun p sl s (gapFire op w sl f s) := by
  unfold gapFire
  dsimp only
  split
  · exact begun_beginFire ..
  · refine ((begun_beginFire p sl s _).then (keeps_updSlot p sl _ ?_ ?_)).then (keeps_pushEms ..) <;> exact fun _ => rfl

theorem begun_issueMem (op : MemOp) (w : MWord) : Begun p sl s (issueMem op w sl s) := by
  have h := (begun_beginFire p sl s (namedOnce (.mem op w))).then (keeps_seq p sl _ (s.seq + 1))
  unfold issueMem
  dsimp only
  split
  · exact begun_gapFire ..
  split
  · split
    · have k := h.then (keeps_popWindow p sl _ sl.slot.val)
      split
      · exact k.then (keeps_enterPort ..)
      · exact ((k.then (keeps_tainted ..)).then (keeps_setLatch ..)).then (keeps_pushEms ..)
    · exact h.then (keeps_enterPort ..)
  split
  · exact (h.then (keeps_pushWindow ..)).then (keeps_enterPort ..)
  · exact h.then (keeps_enterPort ..)

end

/-! ## SEQ and JOIN: what readiness says of the slot's next issue -/

theorem canFire_instr {s : State} {sl : SlotId} {i : Instr} (h : canFire s sl i = true) : slotInstr (getTile s sl.tile) sl.slot.val = some i := by
  simp only [canFire, Bool.and_eq_true, decide_eq_true_eq] at h
  exact h.1.1

theorem canFire_want {s : State} {sl : SlotId} {i : Instr} (h : canFire s sl i = true) :
    want s sl.tile (getTile s sl.tile) sl.slot.val = .fire := by
  simp only [canFire, Bool.and_eq_true, decide_eq_true_eq] at h
  exact h.1.2

theorem view_seq (w : NWord) : view (.seq w) = .node .seq w := rfl
theorem view_join (w : NWord) : view (.join w) = .node .join w := rfl

theorem seqStep_of_want {s : State} {t : TileId} {x : Tile} {k : Nat} {w : NWord} (hi : slotInstr x k = some (.seq w))
    (h : want s t x k = .fire) : seqStep x (getSlot x k) w ≠ .none := by
  unfold want at h
  rw [hi] at h
  dsimp only at h
  rw [view_seq] at h
  split at h
  · cases h
  split at h
  · cases h
  · simpa using h

theorem joinStep_of_want {s : State} {t : TileId} {x : Tile} {k : Nat} {w : NWord} (hi : slotInstr x k = some (.join w))
    (h : want s t x k = .fire) : joinStep x (getSlot x k) w ≠ .none := by
  unfold want at h
  rw [hi] at h
  dsimp only at h
  rw [view_join] at h
  split at h
  · cases h
  split at h
  · cases h
  · simpa using h

/-- An emission or a done token comes from a run of SEQ. -/
theorem seqStep_running {x : Tile} {y : Slot} {w : NWord} (h : seqStep x y w ≠ .start) (h' : seqStep x y w ≠ .none) :
    ∃ n i taken thr, y.node = .seq n i taken thr true := by
  unfold seqStep at h h'
  dsimp only at h h'
  split at h
  next n i taken thr hy => exact ⟨n, i, taken, thr, hy⟩
  next hy =>
    split at h'
    next n i taken thr hy' => exact ⟨n, i, taken, thr, hy'⟩
    split at h' <;> simp_all

/-- JOIN emits the records that it has formed. -/
theorem joinStep_emit {x : Tile} {y : Slot} {w : NWord} (h : joinStep x y w = .emit) : ∃ a b e l n, y.node = .join a b (e :: l) n := by
  unfold joinStep at h
  split at h
  next a b e l n hy => exact ⟨a, b, e, l, n, hy⟩
  · dsimp only at h
    split at h <;> cases h

/-- JOIN takes the head of a side that names a queue. -/
theorem joinStep_side {x : Tile} {y : Slot} {w : NWord} {b : Bool} (h : joinStep x y w = .side b) : ∃ q, (if b then w.sb else w.sa) = .queue q := by
  unfold joinStep at h
  split at h
  · cases h
  dsimp only at h
  cases b with
  | false =>
    cases hs : w.sa with
    | queue q => exact ⟨q, rfl⟩
    | _ =>
      simp only [hs, ite_self] at h
      split at h <;> simp_all
  | true =>
    cases hs : w.sb with
    | queue q => exact ⟨q, rfl⟩
    | _ =>
      simp only [hs, ite_self] at h
      split at h <;> simp_all

/-! ## Issues of SEQ and JOIN -/

/-- An outcome is an issue of a slot that changes no more than `Leaves` says. -/
def Issues (p : ClusterId → Prop) (sl : SlotId) (s : State) (o : Host.Outcome State Fault Refusal) : Prop := ∃ t, o = .next t ∧ Begun p sl s t

section
variable (p : ClusterId → Prop) {sl : SlotId} {s : State}

theorem begun_seqIssue {w : NWord} (h : AtTurn s sl (.seq w)) : Begun p sl s (seqIssue w sl s) := by
  have hn := seqStep_of_want (canFire_instr h.2) (canFire_want h.2)
  have emit : ∀ {z : State} (t : VTok) (es : List (Fin 4 × Tok)), Begun p sl s z → Begun p sl s (pushEms (setLatch z sl t) sl es) :=
    fun _ _ hz => (hz.then (keeps_setLatch ..)).then (keeps_pushEms ..)
  unfold seqIssue
  dsimp only
  cases hs : seqStep (getTile s sl.tile) (getSlot (getTile s sl.tile) sl.slot.val) w with
  | none => exact absurd hs hn
  | start =>
    dsimp only
    split
    · exact (begun_beginFire ..).then (keeps_pushEms ..)
    · exact emit _ _ ((begun_beginFire ..).then (keeps_setNode ..))
  | emit =>
    obtain ⟨n, i, taken, thr, hy⟩ := seqStep_running (by rw [hs]; nofun) hn
    rw [hy]
    dsimp only
    split
    · exact emit _ _ ((begun_markIssue ..).then (keeps_setNode ..))
    · exact ((begun_markIssue ..).then (keeps_setNode ..)).then (keeps_pushEms ..)
  | done =>
    obtain ⟨n, i, taken, thr, hy⟩ := seqStep_running (by rw [hs]; nofun) hn
    rw [hy]
    exact (begun_beginFire ..).then (keeps_setNode ..)

theorem begun_joinEmit {w : NWord} (h : joinStep (getTile s sl.tile) (getSlot (getTile s sl.tile) sl.slot.val) w = .emit) :
    Begun p sl s (joinEmit sl s) := by
  obtain ⟨a, b, ⟨m, q, t⟩, l, n, hy⟩ := joinStep_emit h
  unfold joinEmit
  rw [hy]
  exact (((begun_markIssue ..).then (keeps_setLatch ..)).then (keeps_pushArith ..)).then (keeps_setNode ..)

theorem begun_joinSide {w : NWord} {b : Bool} (h : joinStep (getTile s sl.tile) (getSlot (getTile s sl.tile) sl.slot.val) w = .side b) :
    Begun p sl s (joinSide w b sl s) := by
  obtain ⟨q, hq⟩ := joinStep_side h
  have hf : ∀ (c : Bool) (thr : BitVec 8), Begun p sl s (if c then inexact (beginFire s sl [q.val]) sl.tile thr else beginFire s sl [q.val]) :=
    fun _ _ => .ite ((begun_beginFire ..).then (keeps_inexact ..)) (begun_beginFire ..)
  unfold joinSide
  rw [hq]
  dsimp only
  split
  all_goals
    split
    · refine Begun.then ?_ (keeps_setNode ..)
      exact .ite (hf _ _) ((hf _ _).then (keeps_counts ..))
    · exact (hf _ _).then (keeps_setNode ..)

theorem join_issues {w : NWord} (h : AtTurn s sl (.join w)) : Issues p sl s (execJoin w s) := by
  have hn := joinStep_of_want (canFire_instr h.2) (canFire_want h.2)
  refine ⟨_, atSlot_turn h _, ?_⟩
  dsimp only
  split
  next hs => exact begun_joinEmit p hs
  next hs => exact begun_joinSide p hs
  next hs => exact absurd hs hn

theorem seq_issues {w : NWord} (h : AtTurn s sl (.seq w)) : Issues p sl s (execSeq w s) := ⟨_, atSlot_turn h _, begun_seqIssue p h⟩

/-! ## The other nodes -/

theorem fires_issue {op : NodeOp} {w : NWord} (h : Fires op w sl s) : Issues p sl s (exec (nodeInstr op w) s) := by
  obtain ⟨g, fix, hf, he⟩ := h
  obtain ⟨r, es, k, -, -, hs⟩ := slotAt_fires hf w g sl s
  exact ⟨_, he, .of_frame (fireState_frame ..) p, issued_fires _ _ _ _ _ _ hs ⟨rfl, rfl⟩⟩

theorem win_issues {w : NWord} (h : AtTurn s sl (.win w)) : Issues p sl s (execWin w s) := by
  refine ⟨_, atSlot_turn h _, ?_⟩
  exact ((begun_beginFire ..).then (keeps_setNode ..)).then (keeps_emitAll ..)

theorem agg_issues {w : NWord} (h : AtTurn s sl (.agg w)) : Issues p sl s (execAgg w s) := by
  refine ⟨_, atSlot_turn h _, ?_⟩
  dsimp only
  split
  · exact begun_beginFire ..
  split
  · exact (((begun_beginFire ..).then (keeps_setNode ..)).then (keeps_pushArith ..)).then (keeps_emitAll ..)
  · exact (begun_beginFire ..).then (keeps_setNode ..)

/-- A node that only acts issues when what it does after taking its heads keeps the issue. -/
theorem actNode_issues {op : NodeOp} {w : NWord} (h : AtTurn s sl (nodeInstr op w)) {go : SlotId → Fire → State → State}
    (hk : ∀ f z, Begun p sl s z → Begun p sl s (go sl f z)) : Issues p sl s (actNode op w s go) :=
  ⟨_, atSlot_turn h _, hk _ _ (begun_beginFire ..)⟩

theorem bx_issues {w : NWord} (h : AtTurn s sl (.bx w)) : Issues p sl s (execBx w s) := actNode_issues p h fun _ _ hz => hz.then (keeps_exitFire ..)
theorem bxc_issues {w : NWord} (h : AtTurn s sl (.bxc w)) : Issues p sl s (execBxc w s) := actNode_issues p h fun _ _ hz => hz.then (keeps_exitFire ..)
theorem thalt_issues {w : NWord} (h : AtTurn s sl (.thalt w)) : Issues p sl s (execThalt w s) :=
  actNode_issues p h fun _ _ hz => hz.then (keeps_exitFire ..)
theorem tjoin_issues {w : NWord} (h : AtTurn s sl (.tjoin w)) : Issues p sl s (execTjoin w s) :=
  actNode_issues p h fun _ _ hz => hz.then (keeps_exitFire ..)
theorem btok_issues {w : NWord} (h : AtTurn s sl (.btok w)) : Issues p sl s (execBtok w s) :=
  actNode_issues p h fun _ _ hz => (hz.then (keeps_setLatch ..)).then (keeps_pushEms ..)
theorem evpost_issues {w : NWord} (h : AtTurn s sl (.evpost w)) : Issues p sl s (execEvpost w s) :=
  actNode_issues p h fun _ _ hz => hz.then (keeps_recT ..)

theorem tspawn_issues {w : NWord} (h : AtTurn s sl (.tspawn w)) : Issues p sl s (execTspawn w s) := by
  refine actNode_issues p h fun f z hz => ?_
  dsimp only
  split
  · exact hz
  split
  · exact hz
  split
  · exact (hz.then (keeps_setLaunch ..)).then (keeps_spawnResult ..)
  · exact ((hz.then (keeps_countL ..)).then (keeps_recFirstL ..)).then (keeps_spawnResult ..)

theorem dsel_issues {w : NWord} (h : AtTurn s sl (.dsel w)) : Issues p sl s (execDsel w s) := by
  refine actNode_issues p h fun f z hz => ?_
  split
  · exact hz
  · exact hz.then (keeps_decidePlane ..)

theorem mseq_issues {w : NWord} (h : AtTurn s sl (.mseq w)) : Issues p sl s (execMseq w s) := by
  refine actNode_issues p h fun f z hz => ?_
  exact .ite hz (hz.then (keeps_setNode ..))

/-! ### Nodes that change their cluster -/

theorem clusterOf_of_dies {s t : State} (h : t.dies = s.dies) (u : TileId) : clusterOf t u = clusterOf s u := by
  unfold clusterOf lclOfPcl pclOfLcl getDie; rw [h]

theorem Begun.setCl {z : State} (h : Begun (· = clusterOf s sl.tile) sl s z) (x : Cluster) :
    Begun (· = clusterOf s sl.tile) sl s (setCl z (clusterOf z sl.tile) x) :=
  h.then (keeps_setCl (· = clusterOf s sl.tile) sl z (clusterOf_of_dies h.dies sl.tile) x)

theorem barn_issues {w : NWord} (h : AtTurn s sl (.barn w)) : Issues (· = clusterOf s sl.tile) sl s (execBarn w s) := by
  refine actNode_issues _ h fun f z hz => ?_
  dsimp only
  split
  · exact (hz.then (keeps_countCl ..)).then (keeps_recT ..)
  · exact (hz.setCl _).then (keeps_updSlot _ sl _ (fun _ => rfl) fun _ => rfl)

theorem mxn_issues {w : NWord} (h : AtTurn s sl (.mxn w)) : Issues (· = clusterOf s sl.tile) sl s (execMxn w s) := by
  refine actNode_issues _ h fun f z hz => ?_
  dsimp only
  split
  · exact ((hz.then (keeps_recT ..)).then (keeps_countEv ..)).then (keeps_pushEms ..)
  · exact ((hz.then (keeps_fresh ..)).setCl _).then (keeps_pushPipe ..)

theorem begun_radvApply {z : State} (hz : Begun (· = clusterOf s sl.tile) sl s z) (w : NWord) (id : Nat) (thr : BitVec 8) :
    Begun (· = clusterOf s sl.tile) sl s (radvApply w sl id thr z) := by
  unfold radvApply
  dsimp only
  refine (Begun.then ?_ (keeps_setLatch ..)).then (keeps_fillFiring ..)
  exact .ite (hz.setCl _) ((hz.setCl _).then (keeps_recT ..))

theorem radv_issues {w : NWord} (h : AtTurn s sl (.radv w)) : Issues (· = clusterOf s sl.tile) sl s (execRadv w s) := by
  refine actNode_issues _ h fun f z hz => ?_
  have k := (hz.then (keeps_fresh ..)).then (keeps_pushPipe _ sl _ (awaiting (fresh z).1))
  exact .ite (begun_radvApply k ..) (k.then (keeps_setNode ..))

/-! ## Memory nodes -/

theorem issueMem_issues {op : MemOp} {w : MWord} (h : AtTurn s sl (memInstr op w)) : Issues p sl s (atSlot (memInstr op w) s (issueMem op w)) :=
  ⟨_, atSlot_turn h _, begun_issueMem ..⟩

theorem bkgive_issues {w : MWord} (h : AtTurn s sl (.bkgive w)) : Issues p sl s (execBkgive w s) :=
  ⟨_, atSlot_turn h _, ((begun_beginFire ..).then (keeps_seq ..)).then (keeps_enterPort ..)⟩

theorem agen_issues {w : MWord} (h : AtTurn s sl (.agen w)) : Issues p sl s (execAgen w s) :=
  ⟨_, atSlot_turn h _, .ite (begun_beginFire ..) ((begun_beginFire ..).then (keeps_setNode ..))⟩

theorem cjoin_issues {w : MWord} (h : AtTurn s sl (.cjoin w)) : Issues p sl s (execCjoin w s) :=
  ⟨_, atSlot_turn h _, .ite ((((begun_beginFire ..).then (keeps_setNode ..)).then (keeps_setLatch ..)).then (keeps_pushEms ..))
    ((begun_beginFire ..).then (keeps_setNode ..))⟩

end

/-! ## Every instruction of a slot -/

theorem nodeInstr_issues (op : NodeOp) {w : NWord} {sl : SlotId} {s : State} (h : AtTurn s sl (nodeInstr op w)) :
    Issues (· = clusterOf s sl.tile) sl s (exec (nodeInstr op w) s) := by
  cases op with
  | win => dsimp only [nodeInstr, exec]; exact win_issues _ h
  | join => dsimp only [nodeInstr, exec]; exact join_issues _ h
  | agg => dsimp only [nodeInstr, exec]; exact agg_issues _ h
  | bx => dsimp only [nodeInstr, exec]; exact bx_issues _ h
  | bxc => dsimp only [nodeInstr, exec]; exact bxc_issues _ h
  | tspawn => dsimp only [nodeInstr, exec]; exact tspawn_issues _ h
  | tjoin => dsimp only [nodeInstr, exec]; exact tjoin_issues _ h
  | thalt => dsimp only [nodeInstr, exec]; exact thalt_issues _ h
  | dsel => dsimp only [nodeInstr, exec]; exact dsel_issues _ h
  | seq => dsimp only [nodeInstr, exec]; exact seq_issues _ h
  | btok => dsimp only [nodeInstr, exec]; exact btok_issues _ h
  | barn => dsimp only [nodeInstr, exec]; exact barn_issues h
  | evpost => dsimp only [nodeInstr, exec]; exact evpost_issues _ h
  | mxn => dsimp only [nodeInstr, exec]; exact mxn_issues h
  | mseq => dsimp only [nodeInstr, exec]; exact mseq_issues _ h
  | radv => dsimp only [nodeInstr, exec]; exact radv_issues h
  | _ => exact fires_issue _ (fires_of_calculates rfl h)

theorem memInstr_issues (op : MemOp) {w : MWord} {sl : SlotId} {s : State} (h : AtTurn s sl (memInstr op w)) :
    Issues (fun _ => False) sl s (exec (memInstr op w) s) := by
  cases op with
  | bkgive => dsimp only [memInstr, exec]; exact bkgive_issues _ h
  | agen => dsimp only [memInstr, exec]; exact agen_issues _ h
  | cjoin => dsimp only [memInstr, exec]; exact cjoin_issues _ h
  | _ => dsimp only [memInstr, exec]; exact issueMem_issues _ h

/-- Settles O9: each meaning is `beginFire`, or the issue alone, and then operations that keep the issue. -/
theorem everySlotIssues : Obligations.EverySlotIssues := by
  unfold Obligations.EverySlotIssues
  refine ⟨fun op w sl s h => ?_, fun op w sl s h => ?_⟩
  · obtain ⟨t, he, ht⟩ := nodeInstr_issues op h
    exact ⟨t, he, ht.issue, ht.mem, ht.dies, ht.tiles, ht.cores, ht.package⟩
  · obtain ⟨t, he, ht⟩ := memInstr_issues op h
    exact ⟨t, he, ht.issue, ht.toLeaves.frame⟩

end Sys2Proof.Machine
end

section
/-! PROOFS. LAUNCH (R25 to R28, R171, R198, R199, R269, R296): what its core does with the record, the bound descriptors and the handle. -/
namespace Sys2Proof.Machine
open Sys2Proof

/-! ## A word at a core whose turn it is -/

/-- What a word of a core comes to: nothing, the trap, or its effect with the next pc. -/
def coreNext (w : CWord) (s : State) (c : ClusterId) : CoreRes → State
  | .wait => s
  | .trap code tval t => takeTrap t c code tval false (if code = trSw then (getCl s c).pc + coreSize w.long else (getCl s c).pc)
  | .done t => setPc t c ((getCl s c).pc + coreSize w.long)
  | .jump pc t => setPc t c pc

theorem atCore_turn {w : CWord} {s : State} {c : ClusterId} (h : CoreTurn s c w) (go : ClusterId → Cluster → State → CoreRes) :
    atCore w s go = .next (coreNext w s c (go c (getCl s c) s)) := by
  obtain ⟨hc, hr, hf, hb⟩ := h
  simp only [atCore, hc, hr, hf, hb, ne_eq, not_true_eq_false, if_false, Bool.false_eq_true]
  cases go c (getCl s c) s <;> rfl

/-- A trap is taken as R269 says. -/
theorem takeTrap_tookTrap (s : State) (c : ClusterId) (code : Nat) (tval : Word) (async : Bool) (epc : Word) :
    TookTrap s (takeTrap s c code tval async epc) c code tval async epc := by
  have hcause : word (flag async 63 + code) = if async then word (2 ^ 63 + code) else word code := by cases async <;> simp [flag]
  have hten : (!(getCl s c).mode && wbit (getCl s c).tdeleg code && !(getCl s c).thu && decide ((getCl s c).tvecu ≠ 0)) = true ↔
      (getCl s c).mode = false ∧ (getCl s c).tdeleg.getLsbD code = true ∧ (getCl s c).thu = false ∧ (getCl s c).tvecu ≠ 0 := by
    simp [wbit, and_assoc]
  unfold takeTrap TookTrap
  dsimp only
  rw [hcause]
  by_cases h : (getCl s c).mode = false ∧ (getCl s c).tdeleg.getLsbD code = true ∧ (getCl s c).thu = false ∧ (getCl s c).tvecu ≠ 0
  · rw [if_pos (hten.mpr h), if_pos h]
    exact ⟨setCl_onlyCore .., getCl_setCl ..⟩
  · rw [if_neg (mt hten.mp h), if_neg h]
    split
    · exact ⟨(setCl_onlyCore ..).trans (updCl_onlyCore ..), by simp [raiseRec]⟩
    · exact ⟨setCl_onlyCore .., getCl_setCl ..⟩

/-! ## A result in a register, and the next pc -/

theorem getX_setX_same (x : Cluster) {r : Fin 32} (hr : r ≠ 0) (v : Word) : getX (setX x r v) r = v := by
  have h : r.val ≠ 0 := fun e => hr (Fin.ext e)
  simp [getX, setX, h]

theorem getX_setX_other (x : Cluster) {r q : Fin 32} (h : q ≠ r) (v : Word) : getX (setX x r v) q = getX x q := by
  have hv : q.val ≠ r.val := fun e => h (Fin.ext e)
  unfold getX setX
  split
  · rfl
  split
  · rfl
  · exact aget_aset_other _ _ _ hv

theorem specialView_setX (x : Cluster) (r : Fin 32) (v : Word) : specialView (setX x r v) = specialView x := by
  unfold setX; split <;> rfl

theorem setX_loc (x : Cluster) (r : Fin 32) (v : Word) : (setX x r v).loc = x.loc := by unfold setX; split <;> rfl
theorem setX_sb (x : Cluster) (r : Fin 32) (v : Word) : (setX x r v).sb = x.sb := by unfold setX; split <;> rfl

/-- A core's register written and its pc moved. -/
def giveX (s : State) (c : ClusterId) (r : Fin 32) (v pc : Word) : State := setPc (putX s c r v) c pc

section
variable (s : State) (c : ClusterId) (r : Fin 32) (v pc : Word)

theorem getCl_giveX : getCl (giveX s c r v pc) c = { setX (getCl s c) r v with pc := pc } := by simp [giveX, setPc, putX]
theorem giveX_onlyCore : OnlyCore s (giveX s c r v pc) c := (updCl_onlyCore ..).trans (updCl_onlyCore ..)
theorem giveX_pc : (getCl (giveX s c r v pc) c).pc = pc := by rw [getCl_giveX]
theorem giveX_regs : SameRegsBut s (giveX s c r v pc) c r := fun q hq => by
  rw [getCl_giveX]
  exact getX_setX_other _ hq v
theorem giveX_getX (hr : r ≠ 0) : getX (getCl (giveX s c r v pc) c) r = v := by
  rw [getCl_giveX]
  exact getX_setX_same _ hr v

theorem giveX_coreFrame : CoreFrame s (giveX s c r v pc) c r := by
  obtain ⟨hmem, htiles, hlaunches, hslices, hdies, hcores, hpkg⟩ := giveX_onlyCore s c r v pc
  refine ⟨hmem, htiles, hlaunches, hslices, hdies, hcores, ?_, giveX_regs s c r v pc, hpkg⟩
  rw [getCl_giveX]
  exact specialView_setX (getCl s c) r v

end

theorem status_eq (n : Nat) : status n = -(word n) := by
  rw [status, BitVec.ofInt_neg, BitVec.ofInt_natCast, word]

/-! ## A word that reads a descriptor (R198, R199) -/

theorem fld_low6 (a : Word) : fld a 5 0 = a.toNat % 64 := by rw [fld_eq_div_mod]; simp

section
variable {w : CWord} {s : State} {c : ClusterId} (h : CoreTurn s c w) (n : Nat) (go : ClusterId → Cluster → List Word → State → CoreRes)
include h

theorem withDesc_misaligned (ha : (getX (getCl s c) w.xa).toNat % 64 ≠ 0) :
    withDesc w s n go = .next (coreNext w s c (.done (putX s c w.xd (status 1)))) := by
  rw [withDesc, atCore_turn h]
  simp only [fld_low6, ne_eq, ha, not_false_eq_true, if_true]

theorem withDesc_wait (ha : (getX (getCl s c) w.xa).toNat % 64 = 0) (hd : readDesc c n (getX (getCl s c) w.xa) s = .wait) :
    withDesc w s n go = .next s := by
  rw [withDesc, atCore_turn h]
  simp only [fld_low6, ne_eq, ha, not_true_eq_false, if_false, hd, coreNext]

theorem withDesc_trap (ha : (getX (getCl s c) w.xa).toNat % 64 = 0) {k : Nat} {va : Word} {s1 : State}
    (hd : readDesc c n (getX (getCl s c) w.xa) s = .trap k va s1) : withDesc w s n go = .next (coreNext w s c (.trap k va s1)) := by
  rw [withDesc, atCore_turn h]
  simp only [fld_low6, ne_eq, ha, not_true_eq_false, if_false, hd]

theorem withDesc_words (ha : (getX (getCl s c) w.xa).toNat % 64 = 0) {ws : List Word} {s1 : State}
    (hd : readDesc c n (getX (getCl s c) w.xa) s = .words ws s1) : withDesc w s n go = .next (coreNext w s c (go c (getCl s c) ws s1)) := by
  rw [withDesc, atCore_turn h]
  simp only [fld_low6, ne_eq, ha, not_true_eq_false, if_false, hd]

end

/-! ## LAUNCH -/

theorem LaunchMade.of_launches {s t t' : State} {a : Ask} {r : LaunchRec} (h : LaunchMade s t a r) (e : t'.launches = t.launches) : LaunchMade s t' a r := by
  have hf : ∀ l, findLaunch t' l = findLaunch t l := fun l => by rw [findLaunch, e]; rfl
  obtain ⟨hother, y, hy, hrest⟩ := h
  exact ⟨fun k hk => (hf k).trans (hother k hk), y, (hf _).trans hy, hrest⟩

theorem OnlyCore.memByte {s t : State} {c : ClusterId} (h : OnlyCore s t c) (a : Nat) : memByte t a = memByte s a := h.1.1 a id

/-- A launch taken by a core: its handle in the register, the launch made, and of memory nothing but the context's state changed. -/
structure LaunchTaken (s t : State) (c : ClusterId) (rd : Fin 32) (pc : Word) (a : Ask) (r : LaunchRec) : Prop where
  cores : SameCoresBut s t (· = c)
  pc : (getCl t c).pc = pc
  regs : SameRegsBut s t c rd
  handle : rd ≠ 0 → getX (getCl t c) rd = word (nextLaunch s a.near.die).handle
  made : LaunchMade s t a r
  tiles : t.tiles = s.tiles
  bytes : ∀ b, ¬ (ctxAddr s a.near.die r.ctx ≤ b ∧ b < ctxAddr s a.near.die r.ctx + 8) → memByte t b = memByte s b

/-- An accepted launch, after a step of the core alone that leaves its registers, and with the handle in one of them. -/
theorem launchTaken_of_accept {s t z : State} {a : Ask} {r : LaunchRec} {c : ClusterId} (hm : LaunchMade s t a r) (hc : t.clusters = s.clusters)
    (ht : t.tiles = s.tiles) (hb : ∀ b, ¬ (ctxAddr s a.near.die r.ctx ≤ b ∧ b < ctxAddr s a.near.die r.ctx + 8) → memByte t b = memByte s b)
    (hz : OnlyCore t z c) (hr : (getCl z c).regs = (getCl t c).regs) (rd : Fin 32) (pc : Word) :
    LaunchTaken s (giveX z c rd (word (nextLaunch s a.near.die).handle) pc) c rd pc a r := by
  have hg := hz.trans (giveX_onlyCore z c rd (word (nextLaunch s a.near.die).handle) pc)
  have hcl : ∀ e, getCl t e = getCl s e := fun e => by rw [getCl, hc]; rfl
  have hX : ∀ q, getX (getCl z c) q = getX (getCl s c) q := fun q => by rw [getX, hr, hcl]; rfl
  obtain ⟨-, htiles, hlaunches, -, -, hcores, -⟩ := id hg
  exact
    { cores := fun e he => (hcores e he).trans (by rw [hcl])
      pc := giveX_pc ..
      regs := fun q hq => (giveX_regs z c rd _ pc q hq).trans (hX q)
      handle := giveX_getX z c rd _ pc
      made := hm.of_launches hlaunches
      tiles := htiles.trans ht
      bytes := fun b h => (hg.memByte b).trans (hb b h) }

/-! ### The handle's store -/

theorem withStore_loc {c : ClusterId} {x : Cluster} {a : Word} (s : State) (go : Where → CoreRes) (ha : a.toNat < 0x40000)
    (hl : locTrap x a 8 = none) : withStore c x a s go = go .loc := by
  simp [withStore, coreWhere, localEnd, ha, hl]

theorem withStore_glob {c : ClusterId} {x : Cluster} {a : Word} {s : State} (go : Where → CoreRes) {pa k : Nat} (ha : 0x40000 ≤ a.toNat)
    (ht : translate s c.die (coreTable x) x.ctx a .w = .ok pa k none) (hr : x.sb.length < 16) : withStore c x a s go = go (.glob pa none) := by
  simp [withStore, coreWhere, localEnd, Nat.not_lt.mpr ha, ht, sbRoom, hr]

theorem coreStore_onlyCore_loc (s : State) (c : ClusterId) (a : Word) (bs : List Byte) : OnlyCore s (coreStore s c a .loc bs) c := updCl_onlyCore ..

/-- A store of a global address whose page has no residency byte enters the buffer. -/
theorem coreStore_glob (s : State) (c : ClusterId) (a : Word) (pa : Nat) (bs : List Byte) :
    coreStore s c a (.glob pa none) bs = setCl (fresh s).2 c { getCl s c with sb := (getCl s c).sb ++ [⟨pa, bs, (getCl s c).ctx, s.seq⟩] } := rfl

theorem coreStore_onlyCore_glob (s : State) (c : ClusterId) (a : Word) (pa : Nat) (bs : List Byte) :
    OnlyCore s (coreStore s c a (.glob pa none) bs) c := by
  have h : OnlyCore s (fresh s).2 c := ⟨.of_eq rfl rfl rfl rfl rfl, rfl, rfl, rfl, rfl, fun _ _ => rfl, .refl s⟩
  rw [coreStore_glob]
  exact h.trans (setCl_onlyCore ..)

/-- The word that a record's handle is written to follows the record's start, for a record is 64-byte aligned. -/
theorem handleWord_toNat {a : Word} (ha : a.toNat % 64 = 0) : (a + 0x38).toNat = a.toNat + 0x38 := by
  have := a.isLt
  rw [BitVec.toNat_add, show (0x38 : Word).toNat = 0x38 from rfl]
  omega

theorem locWord_of_loc {x y : Cluster} {a : Nat} (h : x.loc = y.loc) : locWord x a = locWord y a := by rw [locWord, h]; rfl

theorem locWord_writeBytes (x : Cluster) (a n : Nat) : locWord { x with loc := writeBytes x.loc a (bytesOf 8 n) } a = word n := by
  have h := readBytes_writeBytes_same x.loc a (bytesOf 8 n)
  rw [bytesOf_length] at h
  rw [locWord, h, ofBytes_bytesOf]
  apply BitVec.eq_of_toNat_eq
  simp [word]

/-! ### The cases of LAUNCH -/

section
variable {w : CWord} {s s1 s2 : State} {c : ClusterId} {ws : List Word} {r : LaunchRec} {ds : List (Nat × List Word)}

/-- What LAUNCH asks for, with the descriptors that its record binds. -/
def askOf (w : CWord) (s : State) (c : ClusterId) (ws : List Word) (ds : List (Nat × List Word)) (s2 : State) : Ask :=
  { issuer := some c, near := c, sys := (getCl s c).mode, ctx := (getCl s c).ctx, ws := ws, place := opB (getCl s c) w,
    ports := portSetOf s2 c.die (getCl s c), descs := ds }

/-- The bound descriptors of a record with their ports. -/
def bindsOf (r : LaunchRec) : List (Nat × Word) := r.binds.zipIdx.map fun (a, p) => (p, a)

variable (h : CoreTurn s c w)
include h

theorem launch_misaligned (ha : (getX (getCl s c) w.xa).toNat % 64 ≠ 0) :
    execLaunch w s = .next (giveX s c w.xd (status 1) ((getCl s c).pc + coreSize w.long)) := withDesc_misaligned h 4 _ ha

variable (ha : (getX (getCl s c) w.xa).toNat % 64 = 0)
include ha

theorem launch_waits (hd : readDesc c 4 (getX (getCl s c) w.xa) s = .wait) : execLaunch w s = .next s := withDesc_wait h 4 _ ha hd

theorem launch_traps {k : Nat} {va : Word} (hd : readDesc c 4 (getX (getCl s c) w.xa) s = .trap k va s1) :
    execLaunch w s = .next (coreNext w s c (.trap k va s1)) := withDesc_trap h 4 _ ha hd

theorem launch_badRecord (hd : readDesc c 4 (getX (getCl s c) w.xa) s = .words ws s1) (hp : parseRecord ws = none) :
    execLaunch w s = .next (giveX s1 c w.xd (status 1) ((getCl s c).pc + coreSize w.long)) := by
  rw [execLaunch, withDesc_words h 4 _ ha hd]
  simp only [hp]
  rfl

theorem launch_badBinds (hd : readDesc c 4 (getX (getCl s c) w.xa) s = .words ws s1) (hp : parseRecord ws = some r)
    (hb : readBinds c (bindsOf r) s1 = .bad) : execLaunch w s = .next (giveX s1 c w.xd (status 1) ((getCl s c).pc + coreSize w.long)) := by
  rw [bindsOf] at hb
  rw [execLaunch, withDesc_words h 4 _ ha hd]
  simp only [hp, hb]
  rfl

theorem launch_refused (hd : readDesc c 4 (getX (getCl s c) w.xa) s = .words ws s1) (hp : parseRecord ws = some r)
    (hb : readBinds c (bindsOf r) s1 = .got ds s2) {n : Nat} (hr : acceptLaunch s2 (askOf w s c ws ds s2) = .error n) :
    execLaunch w s = .next (giveX s2 c w.xd (status n) ((getCl s c).pc + coreSize w.long)) := by
  rw [bindsOf] at hb
  rw [askOf] at hr
  rw [execLaunch, withDesc_words h 4 _ ha hd]
  simp only [hp, hb, hr]
  rfl

/-- An accepted launch writes its handle into the record and gives it. -/
theorem launch_accepted (hd : readDesc c 4 (getX (getCl s c) w.xa) s = .words ws s1) (hp : parseRecord ws = some r)
    (hb : readBinds c (bindsOf r) s1 = .got ds s2) {n : Nat} {t : State} (hr : acceptLaunch s2 (askOf w s c ws ds s2) = .ok (n, t)) {wh : Where}
    (hw : ∀ go, withStore c (getCl s c) (getX (getCl s c) w.xa + 0x38) s2 go = go wh) :
    execLaunch w s = .next (giveX (coreStore t c (getX (getCl s c) w.xa + 0x38) wh (bytesOf 8 n)) c w.xd (word n) ((getCl s c).pc + coreSize w.long)) := by
  rw [bindsOf] at hb
  rw [askOf] at hr
  rw [execLaunch, withDesc_words h 4 _ ha hd]
  simp only [hp, hb, hr, hw]
  rfl

end

/-- A status given by LAUNCH, and nothing else. -/
theorem completes_status {w : CWord} {s t : State} {c : ClusterId} {n : Nat}
    (e : execLaunch w s = .next (giveX t c w.xd (status n) ((getCl s c).pc + coreSize w.long))) :
    Completes (.launch w) s fun u => CoreFrame t u c w.xd ∧ (getCl u c).pc = (getCl s c).pc + (if w.long then 16 else 8) ∧
      (w.xd ≠ 0 → getX (getCl u c) w.xd = -(word n)) :=
  ⟨_, e, giveX_coreFrame .., giveX_pc .., fun hx => (giveX_getX _ _ _ _ _ hx).trans (status_eq n)⟩

/-- Settles O47, by the cases of LAUNCH: `withDesc_*` for the record's read, `launch_*` for what follows it. -/
theorem launchesAreAccepted : Obligations.LaunchesAreAccepted := by
  unfold Obligations.LaunchesAreAccepted
  intro w c s s1 s2 ws r ds h x a after binds ask refused taken
  refine ⟨fun ha => ?_, fun ha hd => ?_, fun k va ha hd hk => ?_, fun ha hd => ⟨fun hp => ?_, fun hp hb => ?_, fun hp hb =>
    ⟨fun n hr => ?_, ?_, ?_⟩⟩⟩
  · exact completes_status (launch_misaligned h ha)
  · exact launch_waits h ha hd
  · refine ⟨_, launch_traps h ha hd, ?_⟩
    rw [coreNext, if_neg hk]
    exact takeTrap_tookTrap ..
  · exact completes_status (launch_badRecord h ha hd hp)
  · exact completes_status (launch_badBinds h ha hd hp hb)
  · exact completes_status (launch_refused h ha hd hp hb hr)
  · intro hf hlo hl
    obtain ⟨t, he, hm, hcl, ht, hby, -⟩ := acceptLaunch_fits hf
    have k := launchTaken_of_accept hm hcl ht hby (coreStore_onlyCore_loc t c (a + 0x38) (bytesOf 8 (nextLaunch s2 c.die).handle))
      (by simp [coreStore]) w.xd after
    refine ⟨_, launch_accepted h ha hd hp hb he (withStore_loc s2 · hlo hl), ⟨k.cores, k.pc, k.regs, k.handle, k.made, k.tiles, k.bytes⟩, ?_⟩
    rw [← handleWord_toNat ha, getCl_giveX, coreStore, getCl_updCl]
    exact (locWord_of_loc (setX_loc ..)).trans (locWord_writeBytes ..)
  · intro hf pa k hhi htr hsb
    obtain ⟨t, he, hm, hcl, ht, hby, -⟩ := acceptLaunch_fits hf
    have hc : getCl t c = getCl s2 c := by rw [getCl, hcl]; rfl
    have k := launchTaken_of_accept hm hcl ht hby (coreStore_onlyCore_glob t c (a + 0x38) pa (bytesOf 8 (nextLaunch s2 c.die).handle))
      (by simp [coreStore_glob]) w.xd after
    refine ⟨_, launch_accepted h ha hd hp hb he (withStore_glob · hhi htr hsb), ⟨k.cores, k.pc, k.regs, k.handle, k.made, k.tiles, k.bytes⟩, ?_,
      ⟨pa, bytesOf 8 (nextLaunch s2 c.die).handle, (getCl t c).ctx, t.seq⟩, ?_, rfl, rfl⟩
    · rw [getCl_giveX, coreStore_glob, getCl_setCl, ← hc]
      exact setX_loc ..
    · rw [getCl_giveX, coreStore_glob, getCl_setCl, ← hc]
      exact setX_sb ..

end Sys2Proof.Machine
end

section
/-! PROOFS. Steps of a launch: what they leave, and the records that they raise in the launch's home. -/
namespace Sys2Proof.Machine
open Sys2Proof

/-- What a launch's step leaves: memory, the dies, the other launches, and the clusters but for records and counters; `recs` are the records that it
raises in a cluster. -/
structure LaunchStep (l : LaunchId) (home : ClusterId) (recs : List Rec) (s t : State) : Prop where
  mem : SameMem s t
  dies : t.dies = s.dies
  cores : SameCores s t
  others : SameLaunchesBut s t l
  pend : (getCl t home).pend = (getCl s home).pend ++ recs

section
variable {l : LaunchId} {home : ClusterId} {s t u : State} {x : Launch}

theorem SameLaunchesBut.trans (h : SameLaunchesBut s t l) (k : SameLaunchesBut t u l) : SameLaunchesBut s u l := fun i hi => (k i hi).trans (h i hi)

theorem LaunchStep.trans {rs qs : List Rec} (h : LaunchStep l home rs s t) (k : LaunchStep l home qs t u) : LaunchStep l home (rs ++ qs) s u :=
  ⟨h.mem.trans k.mem, k.dies.trans h.dies, h.cores.trans k.cores, h.others.trans k.others, by rw [k.pend, h.pend, List.append_assoc]⟩

/-- A step that raises nothing, after another. -/
theorem LaunchStep.then {rs : List Rec} (h : LaunchStep l home rs s t) (k : LaunchStep l home [] t u) : LaunchStep l home rs s u := by
  simpa using h.trans k

theorem LaunchStep.refl (l : LaunchId) (home : ClusterId) (s : State) : LaunchStep l home [] s s :=
  ⟨.refl s, rfl, .refl s, fun _ _ => rfl, by simp⟩

/-- A step that changes tables of tiles, slices and launches alone. -/
theorem LaunchStep.of_tables (hm : SameMem s t) (hd : t.dies = s.dies) (hc : t.clusters = s.clusters) (ho : SameLaunchesBut s t l) :
    LaunchStep l home [] s t := by
  have e : getCl t home = getCl s home := by rw [getCl, hc]; rfl
  exact ⟨hm, hd, .of_eq hc, ho, by simp [e]⟩

theorem setLaunch_step (s : State) (l : LaunchId) (home : ClusterId) (x : Launch) : LaunchStep l home [] s (setLaunch s l x) :=
  .of_tables (.of_eq rfl rfl rfl rfl rfl) rfl rfl fun _ hk => findLaunch_setLaunch_other s x hk

theorem setTile_step (s : State) (u : TileId) (y : Tile) (l : LaunchId) (home : ClusterId) : LaunchStep l home [] s (setTile s u y) :=
  .of_tables (.of_eq rfl rfl rfl rfl rfl) rfl rfl fun _ _ => rfl

theorem updTile_step (s : State) (u : TileId) (f : Tile → Tile) (l : LaunchId) (home : ClusterId) : LaunchStep l home [] s (updTile s u f) :=
  setTile_step ..

theorem LaunchStep.foldl {β : Type} (f : State → β → State) (h : ∀ s b, LaunchStep l home [] s (f s b)) (bs : List β) (s : State) :
    LaunchStep l home [] s (bs.foldl f s) := by
  induction bs generalizing s with
  | nil => exact .refl l home s
  | cons b bs ih => exact (h s b).then (ih _)

theorem updLaunch_of_find (h : findLaunch s l = some x) (f : Launch → Launch) : updLaunch s l f = setLaunch s l (f x) := by
  simp [updLaunch, h]

theorem homeOf_of_issuer (s : State) (l : LaunchId) (h : x.issuer = some home) : homeOf s l x = home := by simp [homeOf, h]

theorem recL_of_find (h : findLaunch s l = some x) (hi : x.issuer = some home) (r : Rec) :
    recL s l r = raiseRec s home { r with ctx := x.lr.ctx, handle := l.handle } := by
  simp [recL, h, homeOf_of_issuer s l hi]

/-- A record of a launch stands in its home, under its context and handle. -/
theorem recL_step (h : findLaunch s l = some x) (hi : x.issuer = some home) (r : Rec) :
    LaunchStep l home [{ r with ctx := x.lr.ctx, handle := l.handle }] s (recL s l r) := by
  rw [recL_of_find h hi]
  refine ⟨.of_eq rfl rfl rfl rfl rfl, rfl, ?_, fun _ _ => rfl, by simp [raiseRec]⟩
  exact (raiseRec_frame s home _ ⟨0, 0, 0⟩).2.1

theorem findLaunch_recL (s : State) (l k : LaunchId) (r : Rec) : findLaunch (recL s l r) k = findLaunch s k := by
  unfold recL
  split <;> rfl

theorem recL_tiles (s : State) (l : LaunchId) (r : Rec) : (recL s l r).tiles = s.tiles := by
  unfold recL
  split <;> rfl

end

/-! ## Threads of a launch -/

section
variable (x : Launch) {thr : BitVec 8} (y : Thread)

@[simp] theorem findThread_setThread : findThread (setThread x thr y) thr = some y := afind_aset_same ..

theorem findThread_setThread_other {k : BitVec 8} (h : k ≠ thr) : findThread (setThread x thr y) k = findThread x k :=
  afind_aset_other _ _ fun e => h (BitVec.eq_of_toNat_eq e)

theorem seat_threads (pc : Word) (thr : BitVec 8) : (seat x pc thr).threads = x.threads := by
  unfold seat
  split
  · rfl
  split <;> rfl

theorem findThread_seat (pc : Word) (thr k : BitVec 8) : findThread (seat x pc thr) k = findThread x k := by rw [findThread, seat_threads]; rfl

/-- A thread that is seated waits in its block's row, or in the overflow list. -/
theorem seat_mem (pc : Word) (thr : BitVec 8) :
    (∃ r ∈ (seat x pc thr).table, r.pc = pc ∧ thr ∈ r.thrs) ∨ (pc, thr) ∈ (seat x pc thr).overflow := by
  unfold seat
  split
  next h =>
    obtain ⟨r, hr, hp⟩ := List.any_eq_true.mp h
    refine .inl ⟨{ r with thrs := r.thrs ++ [thr] }, ?_, of_decide_eq_true hp, by simp⟩
    exact List.mem_map.mpr ⟨r, hr, by rw [if_pos (of_decide_eq_true hp)]⟩
  · split
    · exact .inl ⟨⟨pc, [thr], 0⟩, by simp, rfl, by simp⟩
    · exact .inr (by simp)

end

/-- A thread that has joined the entry queue of a block. -/
def JoinedEntry (thr : BitVec 8) (next : Word) (v : List Word) (z : Launch) : Prop :=
  (∃ w, findThread z thr = some w ∧ w.st = .waiting ∧ w.pc = next ∧ w.t = v ∧ w.exit = none ∧ w.outs = []) ∧
    ((∃ r ∈ z.table, r.pc = next ∧ thr ∈ r.thrs) ∨ (next, thr) ∈ z.overflow)

theorem joinEntry_joined {x : Launch} {thr : BitVec 8} {y : Thread} (h : findThread x thr = some y) (pc : Word) :
    JoinedEntry thr pc y.t (joinEntry x thr pc) := by
  simp only [joinEntry, h]
  exact ⟨⟨{ y with pc := pc, st := .waiting, exit := none, outs := [] }, (findThread_seat ..).trans (findThread_setThread ..), rfl, rfl, rfl, rfl, rfl⟩,
    seat_mem ..⟩

/-! ## THREAD_RETIRE (R114, R184 to R186) -/

/-- The T words of a thread as its block leaves them: each live-out, or the word that it entered with (R186). -/
def retireOut (y : Thread) : List Word := (List.range 4).map fun n => match y.outs.find? fun o => o.1 = n with | some o => o.2 | none => y.t.getD n 0

/-- Whether the active block asks for a CREC record of each thread. -/
def crecWanted (x : Launch) : Bool := match x.active with | some p => (getPlane x p.val).crec | none => false

/-- The state in which a thread retires, with the CREC record of its block if the block asks for one. -/
def creced (s : State) (l : LaunchId) (x : Launch) (thr : BitVec 8) (y : Thread) : State :=
  if crecWanted x then
    recL s l { kind := 0x20, thr := thr, p0 := activePc x, p1 := word (flag (!y.inexact) 0) } else s

section
variable {s : State} {l : LaunchId} {thr : BitVec 8} {x : Launch} {y : Thread} (hh : s.here = .thread l thr) (hx : findLaunch s l = some x)
  (hy : findThread x thr = some y)
include hh hx hy

theorem threadRetire_waits (hm : mayRetire s l x thr y = false) (hs : stopDue s l x thr y = false) : execThreadRetire s = .next s := by
  simp [execThreadRetire, hh, hx, hy, hm, hs]

variable (hm : mayRetire s l x thr y = true) (hs : stopDue s l x thr y = false) (hf : y.fatal = false) (ht : thr ∉ x.stopThr)
include hm hs hf ht

theorem threadRetire_ends (he : ∀ n b, y.exit ≠ some (.go n b)) : execThreadRetire s = .next (endThread
    (updLaunch (creced s l x thr y) l fun x' => setThread x' thr { y with pc := activePc x, exit := none, outs := [], t := retireOut y }) l thr) := by
  have hc : x.stopThr.contains thr = false := by simpa using ht
  cases hexit : y.exit with
  | none =>
    simp only [execThreadRetire, hh, hx, hy, hm, hs, hf, hc, hexit, Bool.not_true, Bool.false_eq_true, if_false]
    rfl
  | some e =>
    cases e with
    | go n b => exact absurd hexit (he n b)
    | stop =>
      simp only [execThreadRetire, hh, hx, hy, hm, hs, hf, hc, hexit, Bool.not_true, Bool.false_eq_true, if_false]
      rfl

theorem threadRetire_holds {next : Word} (he : y.exit = some (.go next true)) : execThreadRetire s = .next
    (updLaunch (creced s l x thr y) l fun x' =>
      unhold (setThread x' thr { y with pc := next, exit := none, outs := [], t := retireOut y, st := .holding }) thr) := by
  have hc : x.stopThr.contains thr = false := by simpa using ht
  simp only [execThreadRetire, hh, hx, hy, hm, hs, hf, hc, he, Bool.not_true, Bool.false_eq_true, if_false, if_true]
  rfl

theorem threadRetire_joins {next : Word} (he : y.exit = some (.go next false))
    (hn : ¬ (next = activePc x ∧ x.table.all (fun r => decide (r.pc = activePc x)) = true ∧ x.overflow.all (fun e => decide (e.1 = activePc x)) = true)) :
    execThreadRetire s = .next (updLaunch (creced s l x thr y) l fun x' =>
      joinEntry (setThread x' thr { y with pc := next, exit := none, outs := [], t := retireOut y }) thr next) := by
  have hc : x.stopThr.contains thr = false := by simpa using ht
  simp only [execThreadRetire, hh, hx, hy, hm, hs, hf, hc, he, hn, Bool.not_true, Bool.false_eq_true, if_false]
  rfl

theorem threadRetire_stays {next : Word} (he : y.exit = some (.go next false))
    (hn : next = activePc x ∧ x.table.all (fun r => decide (r.pc = activePc x)) = true ∧ x.overflow.all (fun e => decide (e.1 = activePc x)) = true) :
    execThreadRetire s = .next (enterThreads (updLaunch (creced s l x thr y) l fun x' =>
      setThread x' thr { y with pc := activePc x, exit := none, outs := [], t := retireOut y }) l [thr]) := by
  have hc : x.stopThr.contains thr = false := by simpa using ht
  simp only [execThreadRetire, hh, hx, hy, hm, hs, hf, hc, he, hn, Bool.not_true, Bool.false_eq_true, if_false, and_self, if_true]
  rfl

end

/-! ### What retiring leaves -/

section
variable {s : State} {l : LaunchId} {thr : BitVec 8} {x : Launch} {y : Thread} {p : Fin 4} {home : ClusterId}

theorem activePc_of_active (h : x.active = some p) : activePc x = (getPlane x p.val).pc := by simp [activePc, h]

theorem findLaunch_creced (s : State) (l k : LaunchId) (x : Launch) (thr : BitVec 8) (y : Thread) :
    findLaunch (creced s l x thr y) k = findLaunch s k := by
  unfold creced
  split
  · exact findLaunch_recL ..
  · rfl

/-- The records that a thread raises when it leaves its block: the CREC of its plane. -/
def crecOf (l : LaunchId) (x : Launch) (p : Fin 4) (thr : BitVec 8) (y : Thread) : List Rec :=
  if (getPlane x p.val).crec then
    [{ kind := 0x20, ctx := x.lr.ctx, handle := l.handle, thr := thr, p0 := (getPlane x p.val).pc, p1 := if y.inexact then 0 else 1 }]
  else []

theorem exactWord (b : Bool) : word (flag (!b) 0) = if b then 0 else 1 := by cases b <;> rfl

theorem creced_step (hx : findLaunch s l = some x) (ha : x.active = some p) (hi : x.issuer = some home) (thr : BitVec 8) (y : Thread) :
    LaunchStep l home (crecOf l x p thr y) s (creced s l x thr y) := by
  have hw : crecWanted x = (getPlane x p.val).crec := by simp only [crecWanted, ha]
  rw [creced, crecOf, hw]
  split
  · simpa [activePc_of_active ha, exactWord] using recL_step hx hi { kind := 0x20, thr := thr, p0 := activePc x, p1 := word (flag (!y.inexact) 0) }
  · exact .refl ..

/-- The launch changed after the CREC record. -/
theorem creced_updLaunch (hx : findLaunch s l = some x) (ha : x.active = some p) (hi : x.issuer = some home) (thr : BitVec 8) (y : Thread)
    (f : Launch → Launch) : LaunchStep l home (crecOf l x p thr y) s (updLaunch (creced s l x thr y) l f) ∧
      findLaunch (updLaunch (creced s l x thr y) l f) l = some (f x) := by
  have hc : findLaunch (creced s l x thr y) l = some x := (findLaunch_creced ..).trans hx
  rw [updLaunch_of_find hc]
  exact ⟨(creced_step hx ha hi thr y).then (setLaunch_step ..), findLaunch_setLaunch ..⟩

end

/-- A thread that has ended gives up its number, or keeps it while a child of it runs. -/
theorem freeThread_ended {x : Launch} {thr : BitVec 8} {y : Thread} (hy : findThread x thr = some y) (hs : y.st = .ended) :
    if y.joins = 0 then findThread (freeThread x thr) thr = none else findThread (freeThread x thr) thr = some y := by
  unfold freeThread
  rw [hy]
  dsimp only
  by_cases h : y.joins = 0
  · rw [if_pos h, if_pos ⟨hs, h⟩]
    exact afind_adel_same ..
  · rw [if_neg h, if_neg fun k => h k.2, hy]

theorem freeThread_exact (x : Launch) (thr : BitVec 8) : (freeThread x thr).exact = x.exact := by
  unfold freeThread
  split
  · split <;> rfl
  · rfl

/-- A thread ends outside a watchdog's drain (R186). -/
theorem endThread_step {s : State} {l : LaunchId} {home : ClusterId} {x : Launch} {thr : BitVec 8} {y : Thread} (hx : findLaunch s l = some x)
    (hy : findThread x thr = some y) (hi : x.issuer = some home) (hd : x.drainAt = none) :
    LaunchStep l home [{ kind := 0x21, ctx := x.lr.ctx, handle := l.handle, thr := thr, p0 := y.pc, p1 := if y.inexact then 0 else 1 }] s (endThread s l thr) ∧
      ∃ z, findLaunch (endThread s l thr) l = some z ∧ z.exact = (x.exact && !y.inexact) ∧
        if y.joins = 0 then findThread z thr = none else findThread z thr = some { y with st := .ended } := by
  let z := freeThread (setThread { x with exact := x.exact && !y.inexact } thr { y with st := .ended }) thr
  have hz : z.lr = x.lr ∧ z.issuer = x.issuer := by
    simp only [z, freeThread]
    split
    · split <;> exact ⟨rfl, rfl⟩
    · exact ⟨rfl, rfl⟩
  have he : endThread s l thr = recL (setLaunch s l z) l { kind := 0x21, thr := thr, p0 := y.pc, p1 := word (flag (!y.inexact) 0) } := by
    simp [endThread, hx, hy, hd, z]
  have hf : findLaunch (setLaunch s l z) l = some z := findLaunch_setLaunch ..
  rw [he]
  have hj := freeThread_ended (x := setThread { x with exact := x.exact && !y.inexact } thr { y with st := .ended }) (findThread_setThread ..) rfl
  refine ⟨?_, z, (findLaunch_recL ..).trans hf, freeThread_exact .., hj⟩
  have hr := recL_step hf (hz.2.trans hi) { kind := 0x21, thr := thr, p0 := y.pc, p1 := word (flag (!y.inexact) 0) }
  rw [hz.1] at hr
  rw [← exactWord]
  exact (setLaunch_step s l home z).trans hr

/-- A thread held by WAIT goes on at once when no child of it runs. -/
theorem unhold_holding {x : Launch} {thr : BitVec 8} {y : Thread} (hy : findThread x thr = some y) (hs : y.st = .holding) :
    if y.joins = 0 then JoinedEntry thr y.pc (y.t.take 3 ++ [y.sum]) (unhold x thr) else findThread (unhold x thr) thr = some y := by
  unfold unhold
  rw [hy]
  dsimp only
  by_cases h : y.joins = 0
  · rw [if_pos h, if_pos ⟨hs, h⟩]
    exact joinEntry_joined (findThread_setThread ..) _
  · rw [if_neg h, if_neg fun k => h k.2, hy]

/-! ### Threads enter a block -/

theorem injectEntries_step (n : Nat) (l : LaunchId) (home : ClusterId) (s : State) : LaunchStep l home [] s (injectEntries n l s) := by
  induction n generalizing s with
  | zero => exact .refl ..
  | succ n ih =>
    unfold injectEntries
    split
    · exact .refl ..
    split
    · exact .refl ..
    dsimp only
    split
    · exact .refl ..
    · exact ((LaunchStep.foldl _ (fun s b => updTile_step ..) _ s).then (setLaunch_step ..)).then (ih _)

/-- Injecting entry tokens changes of a launch the list of those still to enter. -/
theorem findLaunch_injectEntries (n : Nat) {l : LaunchId} {s : State} {x : Launch} (h : findLaunch s l = some x) :
    ∃ es, findLaunch (injectEntries n l s) l = some { x with entering := es } := by
  induction n generalizing s x with
  | zero => exact ⟨x.entering, h⟩
  | succ n ih =>
    unfold injectEntries
    rw [h]
    dsimp only
    split
    · exact ⟨x.entering, h⟩
    split
    · exact ⟨x.entering, h⟩
    · obtain ⟨es, he⟩ := ih (findLaunch_setLaunch _ l _)
      exact ⟨es, he⟩

/-- The threads of a list put in flight in the active block. -/
def enterAll (x : Launch) (thrs : List (BitVec 8)) : Launch := thrs.foldl (fun (x : Launch) thr => match findThread x thr with
  | some z => setThread x thr { z with st := .flight, pc := activePc x, entered := z.t, exit := none, outs := [] }
  | none => x) x

theorem enterAll_singleton {x : Launch} {thr : BitVec 8} {z : Thread} (h : findThread x thr = some z) :
    enterAll x [thr] = setThread x thr { z with st := .flight, pc := activePc x, entered := z.t, exit := none, outs := [] } := by
  simp [enterAll, h]

theorem enterThreads_step (s : State) (l : LaunchId) (home : ClusterId) (thrs : List (BitVec 8)) : LaunchStep l home [] s (enterThreads s l thrs) := by
  unfold enterThreads
  split
  · exact .refl ..
  · exact (setLaunch_step ..).then (injectEntries_step ..)

theorem enterThreads_of_find {s : State} {l : LaunchId} {x : Launch} (h : findLaunch s l = some x) (thrs : List (BitVec 8)) : enterThreads s l thrs =
    injectEntries (x.entering.length + thrs.length) l (setLaunch s l { enterAll x thrs with entering := (enterAll x thrs).entering ++ thrs }) := by
  unfold enterThreads
  rw [h]
  rfl

theorem findLaunch_enterThreads {s : State} {l : LaunchId} {x : Launch} (h : findLaunch s l = some x) (thrs : List (BitVec 8)) :
    ∃ es, findLaunch (enterThreads s l thrs) l = some { enterAll x thrs with entering := es } := by
  rw [enterThreads_of_find h]
  obtain ⟨es, he⟩ := findLaunch_injectEntries (x.entering.length + thrs.length) (findLaunch_setLaunch s l
    { enterAll x thrs with entering := (enterAll x thrs).entering ++ thrs })
  exact ⟨es, he⟩

/-! ### The drain of a STOP (R114) -/

/-- The threads that a STOP drain delivers. -/
def drainedThrs (x : Launch) : List (BitVec 8) :=
  x.stopThr.filter fun thr => match findThread x thr with | some y => y.st = .delivered | none => false

theorem deliverDrained_of_find {s : State} {l : LaunchId} {x : Launch} (h : findLaunch s l = some x) : deliverDrained s l =
    (drainedThrs x).foldl (fun s thr => deliverThread s l thr 10) (setLaunch s l
      { x with stopThr := [], drained := x.drained ++ drainedThrs x, stop := x.stop && (!(drainedThrs x).isEmpty || !x.drained.isEmpty) }) := by
  unfold deliverDrained
  rw [h]
  rfl

theorem deliverThread_of_find {s : State} {l : LaunchId} {x : Launch} {thr : BitVec 8} {y : Thread} {home : ClusterId} (hx : findLaunch s l = some x)
    (hy : findThread x thr = some y) (hi : x.issuer = some home) (cause : Nat) : deliverThread s l thr cause =
      updCl (setLaunch s l (setThread x thr { y with st := .delivered })) home fun z => { z with deliveries := z.deliveries ++ [⟨l, thr, cause⟩], ef := true } := by
  simp [deliverThread, hx, hy, homeOf_of_issuer s l hi]

/-- The last thread that a STOP drain names is delivered with the region drained. -/
theorem threadRetire_stops {s : State} {l : LaunchId} {thr : BitVec 8} {x : Launch} {y : Thread} {home : ClusterId} (hh : s.here = .thread l thr)
    (hx : findLaunch s l = some x) (hy : findThread x thr = some y) (hi : x.issuer = some home) (hs : stopDue s l x thr y = true)
    (ho : x.stopThr = [thr]) (hk : ∀ e ∈ x.threads, e.1 < 256) :
    ∃ t z, execThreadRetire s = .next t ∧ SameMem s t ∧ t.tiles = s.tiles ∧ SameCoresBut s t (· = home) ∧ SameLaunchesBut s t l ∧
      (getCl t home).deliveries = (getCl s home).deliveries ++ [⟨l, thr, 10⟩] ∧ findLaunch t l = some z ∧ z.stopThr = [] ∧
      z.drained = x.drained ++ [thr] ∧ findThread z thr = some { y with st := .delivered } := by
  have hone : (x.threads.any fun (k, z) => z.st = .flight && decide (k ≠ thr.toNat) && x.stopThr.contains (BitVec.ofNat 8 k)) = false := by
    rw [List.any_eq_false]
    intro e he
    have hlt := hk e he
    by_cases h : BitVec.ofNat 8 e.1 = thr
    · have : e.1 = thr.toNat := by rw [← h, BitVec.toNat_ofNat, Nat.mod_eq_of_lt hlt]
      simp [this]
    · simp [ho, h]
  let x1 := { x with threads := aset x.threads thr.toNat { y with st := ThreadSt.delivered } }
  have h1 : findThread x1 thr = some { y with st := .delivered } := afind_aset_same ..
  have hu : updThread s l thr (fun y => { y with st := .delivered }) = setLaunch s l x1 := by
    have hy' : afind x.threads thr.toNat = some y := hy
    rw [updThread, updLaunch_of_find hx]
    simp only [hy']
    rfl
  have hf : drainedThrs x1 = [thr] := by
    have hst : x1.stopThr = [thr] := ho
    rw [drainedThrs, hst]
    simp [h1]
  have hd := deliverDrained_of_find (findLaunch_setLaunch s l x1)
  rw [hf] at hd
  let x2 := { x1 with stopThr := [], drained := x1.drained ++ [thr], stop := x1.stop && (!List.isEmpty [thr] || !x1.drained.isEmpty) }
  have h2 : findThread x2 thr = some { y with st := .delivered } := h1
  have hd' := hd.trans (deliverThread_of_find (findLaunch_setLaunch _ l x2) h2 hi 10)
  have hm := ((setLaunch_step s l home x1).then (setLaunch_step _ l home x2)).then (setLaunch_step _ l home (setThread x2 thr { y with st := .delivered }))
  have he : execThreadRetire s = .next (deliverDrained (setLaunch s l x1) l) := by
    simp only [execThreadRetire, hh, hx, hy, hs, hone, hu, if_true, Bool.false_eq_true, if_false]
  refine ⟨_, setThread x2 thr { y with st := .delivered }, he.trans (congrArg _ hd'), hm.mem, rfl, fun e he => ?_, hm.others, ?_,
    findLaunch_setLaunch .., rfl, rfl, findThread_setThread ..⟩
  · rw [getCl_updCl_other _ _ he]
    rfl
  · rw [getCl_updCl]
    rfl

/-! ### A thread that may retire -/

/-- A thread has left its block: nothing but its launch, the tiles and the home's records has changed. -/
def Retired (s : State) (l : LaunchId) (home : ClusterId) (crec recs : List Rec) (q : Launch → Prop) : Prop :=
  Completes .threadRetire s fun t => SameMem s t ∧ t.dies = s.dies ∧ SameCores s t ∧ SameLaunchesBut s t l ∧
    (getCl t home).pend = (getCl s home).pend ++ crec ++ recs ∧ ∃ z, findLaunch t l = some z ∧ q z

theorem Retired.of_step {s t : State} {l : LaunchId} {home : ClusterId} {crec recs : List Rec} {q : Launch → Prop} (he : execThreadRetire s = .next t)
    (h : LaunchStep l home (crec ++ recs) s t) (hz : ∃ z, findLaunch t l = some z ∧ q z) : Retired s l home crec recs q :=
  ⟨t, he, h.mem, h.dies, h.cores, h.others, by rw [h.pend, List.append_assoc], hz⟩

theorem drainAt_of_mayRetire {s : State} {l : LaunchId} {x : Launch} {thr : BitVec 8} {y : Thread} (h : mayRetire s l x thr y = true) :
    x.drainAt = none := by
  simp only [mayRetire, Bool.and_eq_true, Option.isNone_iff_eq_none] at h
  obtain ⟨⟨⟨⟨⟨⟨-, hd⟩, -⟩, -⟩, -⟩, -⟩, -⟩ := h
  exact hd

theorem stopDue_of_not_mem {s : State} {l : LaunchId} {x : Launch} {thr : BitVec 8} {y : Thread} (h : thr ∉ x.stopThr) : stopDue s l x thr y = false := by
  simp [stopDue, h]

section
variable {s : State} {l : LaunchId} {thr : BitVec 8} {x : Launch} {y : Thread} {p : Fin 4} {home : ClusterId} (hh : s.here = .thread l thr)
  (hx : findLaunch s l = some x) (hy : findThread x thr = some y) (ha : x.active = some p) (hi : x.issuer = some home)
  (hm : mayRetire s l x thr y = true) (hf : y.fatal = false) (ht : thr ∉ x.stopThr)
include hh hx hy ha hi hm hf ht

theorem retired_ends (he : ∀ n b, y.exit ≠ some (.go n b)) : Retired s l home (crecOf l x p thr y)
    [{ kind := 0x21, ctx := x.lr.ctx, handle := l.handle, thr := thr, p0 := (getPlane x p.val).pc, p1 := if y.inexact then 0 else 1 }] fun z =>
      z.exact = (x.exact && !y.inexact) ∧
        if y.joins = 0 then findThread z thr = none else ∃ w, findThread z thr = some w ∧ w.st = .ended ∧ w.t = retireOut y := by
  rw [← activePc_of_active ha]
  obtain ⟨h1, h2⟩ := creced_updLaunch hx ha hi thr y fun x' => setThread x' thr { y with pc := activePc x, exit := none, outs := [], t := retireOut y }
  obtain ⟨h3, z, hz, hze, hzt⟩ := endThread_step h2 (findThread_setThread ..) hi (drainAt_of_mayRetire hm)
  refine .of_step (threadRetire_ends hh hx hy hm (stopDue_of_not_mem ht) hf ht he) (h1.trans h3) ⟨z, hz, hze, ?_⟩
  split at hzt
  next hj => rwa [if_pos hj]
  next hj => rw [if_neg hj]; exact ⟨_, hzt, rfl, rfl⟩

theorem retired_holds {next : Word} (he : y.exit = some (.go next true)) : Retired s l home (crecOf l x p thr y) [] fun z =>
    if y.joins = 0 then JoinedEntry thr next ((retireOut y).take 3 ++ [y.sum]) z
    else ∃ w, findThread z thr = some w ∧ w.st = .holding ∧ w.pc = next ∧ w.t = retireOut y := by
  obtain ⟨h1, h2⟩ := creced_updLaunch hx ha hi thr y fun x' =>
    unhold (setThread x' thr { y with pc := next, exit := none, outs := [], t := retireOut y, st := .holding }) thr
  refine .of_step (threadRetire_holds hh hx hy hm (stopDue_of_not_mem ht) hf ht he) (by simpa using h1) ⟨_, h2, ?_⟩
  have hu := unhold_holding (x := setThread x thr { y with pc := next, exit := none, outs := [], t := retireOut y, st := .holding })
    (findThread_setThread ..) rfl
  dsimp only at hu
  split at hu
  next hj => rwa [if_pos hj]
  next hj => rw [if_neg hj]; exact ⟨_, hu, rfl, rfl, rfl⟩

theorem retired_joins {next : Word} (he : y.exit = some (.go next false))
    (hn : ¬ (next = (getPlane x p.val).pc ∧ (∀ r ∈ x.table, r.pc = (getPlane x p.val).pc) ∧ ∀ e ∈ x.overflow, e.1 = (getPlane x p.val).pc)) :
    Retired s l home (crecOf l x p thr y) [] (JoinedEntry thr next (retireOut y)) := by
  obtain ⟨h1, h2⟩ := creced_updLaunch hx ha hi thr y fun x' =>
    joinEntry (setThread x' thr { y with pc := next, exit := none, outs := [], t := retireOut y }) thr next
  refine .of_step (threadRetire_joins hh hx hy hm (stopDue_of_not_mem ht) hf ht he ?_) (by simpa using h1) ⟨_, h2, ?_⟩
  · simpa [activePc_of_active ha] using hn
  · exact joinEntry_joined (y := { y with pc := next, exit := none, outs := [], t := retireOut y }) (findThread_setThread ..) next

theorem retired_stays {next : Word} (he : y.exit = some (.go next false)) (hn : next = (getPlane x p.val).pc)
    (htab : ∀ r ∈ x.table, r.pc = (getPlane x p.val).pc) (hov : ∀ e ∈ x.overflow, e.1 = (getPlane x p.val).pc) :
    Retired s l home (crecOf l x p thr y) [] fun z => ∃ w, findThread z thr = some w ∧ w.st = .flight ∧ w.pc = (getPlane x p.val).pc ∧
      w.t = retireOut y ∧ w.entered = retireOut y ∧ w.exit = none := by
  obtain ⟨h1, h2⟩ := creced_updLaunch hx ha hi thr y fun x' => setThread x' thr { y with pc := activePc x, exit := none, outs := [], t := retireOut y }
  obtain ⟨es, h3⟩ := findLaunch_enterThreads h2 [thr]
  refine .of_step (threadRetire_stays hh hx hy hm (stopDue_of_not_mem ht) hf ht he ?_)
    (by simpa using h1.then (enterThreads_step _ l home [thr])) ⟨_, h3, ?_⟩
  · simpa [activePc_of_active ha] using ⟨hn, htab, fun pc k h => hov (pc, k) h⟩
  · rw [enterAll_singleton (findThread_setThread ..), ← activePc_of_active ha]
    exact ⟨_, findThread_setThread .., rfl, rfl, rfl, rfl, rfl⟩

end

end Sys2Proof.Machine
end

section
/-! PROOFS. A launch's moves at a phase boundary (R24, R171, R178, R187 to R189, R334): its rectangle, the scheduler's requests, the decision. -/
namespace Sys2Proof.Machine
open Sys2Proof

/-! ## Memory that reads as before -/

section
variable {s t : State}

theorem SameMem.memRead (h : SameMem s t) (a n : Nat) : memRead t a n = memRead s a n := readBytes_congr fun i _ _ => h.1 i id
theorem SameMem.memWord (h : SameMem s t) (a : Nat) : memWord t a = memWord s a := by rw [Machine.memWord, h.memRead]; rfl

theorem ctxAddr_congr (h : t.dies = s.dies) (d : Fin 4) (ctx : BitVec 12) : ctxAddr t d ctx = ctxAddr s d ctx := by
  simp only [ctxAddr, getDie, h]

theorem ctxDebt_congr (h : SameMem s t) (hd : t.dies = s.dies) (d : Fin 4) (ctx : BitVec 12) : ctxDebt t d ctx = ctxDebt s d ctx := by
  rw [ctxDebt, ctxAddr_congr hd, h.memWord]; rfl

theorem SameMemBut.mono {p q p' q' : Nat → Prop} (h : SameMemBut s t p q) (hp : ∀ a, p a → p' a) (hq : ∀ a, q a → q' a) : SameMemBut s t p' q' :=
  ⟨fun a ha => h.1 a (mt (hp a) ha), fun a ha => h.2.1 a (mt (hq _) ha), h.2.2⟩

theorem SameMemBut.trans {u : State} {p q : Nat → Prop} (h : SameMemBut s t p q) (k : SameMemBut t u p q) : SameMemBut s u p q :=
  ⟨fun a ha => (k.1 a ha).trans (h.1 a ha), fun a ha => ⟨(k.2.1 a ha).1.trans (h.2.1 a ha).1, (k.2.1 a ha).2.trans (h.2.1 a ha).2⟩,
    k.2.2.1.trans h.2.2.1, k.2.2.2.trans h.2.2.2⟩

theorem SameMem.but (h : SameMem s t) (p q : Nat → Prop) : SameMemBut s t p q := SameMemBut.mono h (fun _ => False.elim) fun _ => False.elim

theorem memWrite_sameMemBut (s : State) (a : Nat) (bs : List Byte) :
    SameMemBut s (memWrite s a bs) (fun b => a ≤ b ∧ b < a + bs.length) (fun _ => False) :=
  ⟨fun _ h => aget_writeBytes_other _ _ _ h, fun _ _ => ⟨rfl, rfl⟩, rfl, rfl⟩

theorem memSetWord_sameMemBut (s : State) (a : Nat) (w : Word) : SameMemBut s (memSetWord s a w) (fun b => a ≤ b ∧ b < a + 8) (fun _ => False) := by
  have h := memWrite_sameMemBut s a (bytesOf 8 w.toNat)
  simp only [bytesOf_length] at h
  exact h

end

/-! ## Tiles of a region -/

theorem OnlyTilesSlices.step {s t : State} (h : OnlyTilesSlices s t) (l : LaunchId) (home : ClusterId) : LaunchStep l home [] s t := by
  obtain ⟨hc, hm, hl, hd, -⟩ := h
  exact .of_tables hm hd hc fun k _ => by rw [findLaunch, hl]; rfl

theorem OnlyTilesSlices.find {s t : State} (h : OnlyTilesSlices s t) (l : LaunchId) : findLaunch t l = findLaunch s l := by
  rw [findLaunch, h.2.2.1]; rfl

theorem updTile_onlyTilesSlices (s : State) (u : TileId) (f : Tile → Tile) : OnlyTilesSlices s (updTile s u f) :=
  ⟨rfl, .of_eq rfl rfl rfl rfl rfl, rfl, rfl, .refl s⟩

theorem updTiles_cons (s : State) (t : TileId) (ts : List TileId) (f : Tile → Tile) : updTiles s (t :: ts) f = updTiles (updTile s t f) ts f := rfl

/-- A tile after an update of a list of tiles that changes nothing when made twice. -/
theorem getTile_updTiles {f : Tile → Tile} (hf : ∀ x, f (f x) = f x) (s : State) (ts : List TileId) (u : TileId) :
    getTile (updTiles s ts f) u = if u ∈ ts then f (getTile s u) else getTile s u := by
  induction ts generalizing s with
  | nil => simp [updTiles]
  | cons t ts ih =>
    rw [updTiles_cons, ih]
    by_cases h : u = t
    · subst h
      simp [hf]
    · rw [getTile_updTile_other _ _ h]
      simp [h]

theorem blankTile_blankTile (x : Tile) (o : Option Nat) : blankTile (blankTile x o) o = blankTile x o := rfl

/-! ## The block that is decided (R187, R188) -/

/-- A launch after a decision: the row chosen, the others a phase older, and the plane that holds the block, if one does. -/
def decidedBlock (x : Launch) : Launch :=
  match chooseRow x with
  | none => { x with st := .boundary, choice := none }
  | some r =>
    let x1 := { x with table := x.table.map fun q : EntryRow => if q.pc = r.pc then q else { q with age := q.age + 1 }, choice := some r.pc }
    match planeOf x r.pc with
    | some p => { x1 with st := .switching p }
    | none => { x1 with st := .boundary }

theorem decideBlock_of_find {s : State} {l : LaunchId} {x : Launch} (h : findLaunch s l = some x) : decideBlock s l = setLaunch s l (decidedBlock x) := by
  unfold decideBlock decidedBlock
  rw [h]
  dsimp only
  cases chooseRow x with
  | none => rfl
  | some r =>
    dsimp only
    cases planeOf x r.pc <;> rfl

theorem decidedBlock_keeps (x : Launch) : (decidedBlock x).corner = x.corner ∧ (decidedBlock x).since = x.since ∧
    (decidedBlock x).sliceAt = x.sliceAt ∧ (decidedBlock x).sliceLen = x.sliceLen := by
  unfold decidedBlock
  split
  · exact ⟨rfl, rfl, rfl, rfl⟩
  · dsimp only
    split <;> exact ⟨rfl, rfl, rfl, rfl⟩

/-- The state of a launch after a decision. -/
def ChosenState (x z : Launch) : Prop :=
  match chooseRow x with
  | none => z.st = .boundary ∧ z.choice = none
  | some r => z.choice = some r.pc ∧ match planeOf x r.pc with | some p => z.st = .switching p | none => z.st = .boundary

/-- The same, with the rows that were not chosen a phase older. -/
def ChosenRows (x z : Launch) : Prop :=
  match chooseRow x with
  | none => z.st = .boundary ∧ z.choice = none
  | some r => z.choice = some r.pc ∧ (∀ e ∈ x.table, e.pc ≠ r.pc → { e with age := e.age + 1 } ∈ z.table) ∧
      match planeOf x r.pc with | some p => z.st = .switching p | none => z.st = .boundary

theorem decidedBlock_rows (x : Launch) : ChosenRows x (decidedBlock x) := by
  unfold ChosenRows decidedBlock
  cases chooseRow x with
  | none => exact ⟨rfl, rfl⟩
  | some r =>
    have hm : ∀ e ∈ x.table, e.pc ≠ r.pc → { e with age := e.age + 1 } ∈ x.table.map fun q => if q.pc = r.pc then q else { q with age := q.age + 1 } :=
      fun e he hne => List.mem_map.mpr ⟨e, he, by rw [if_neg hne]⟩
    dsimp only
    cases planeOf x r.pc <;> exact ⟨rfl, hm, rfl⟩

theorem ChosenRows.state {x z : Launch} (h : ChosenRows x z) : ChosenState x z := by
  unfold ChosenRows at h
  unfold ChosenState
  split at h
  · exact h
  · exact ⟨h.1, h.2.2⟩

/-! The decision depends on the priority, the rows and the planes alone. -/

section
variable {x y : Launch} (hlr : y.lr = x.lr) (hp : y.planes = x.planes)
include hp

theorem planeOf_congr : planeOf y = planeOf x := by
  funext pc
  unfold planeOf getPlane
  rw [hp]

include hlr

theorem rowBefore_congr (old : Bool) (a b : EntryRow) : rowBefore y old a b = rowBefore x old a b := by
  unfold rowBefore rowScore
  rw [planeOf_congr hp, hlr]

theorem bestRow_congr (old : Bool) (l : List EntryRow) : bestRow y old l = bestRow x old l := by
  induction l with
  | nil => rfl
  | cons r rs ih => simp only [bestRow, ih, rowBefore_congr hlr hp]

theorem chooseRow_congr (ht : y.table = x.table) : chooseRow y = chooseRow x := by
  simp only [chooseRow, bestRow_congr hlr hp, ht]

theorem ChosenState.congr (ht : y.table = x.table) {z : Launch} (h : ChosenState y z) : ChosenState x z := by
  simpa only [ChosenState, chooseRow_congr hlr hp ht, planeOf_congr hp] using h

theorem ChosenRows.congr (ht : y.table = x.table) {z : Launch} (h : ChosenRows y z) : ChosenRows x z := by
  simpa only [ChosenRows, chooseRow_congr hlr hp ht, planeOf_congr hp, ht] using h

end

/-! ## LAUNCH_PLACE (R24, R171, R334, R337, R374) -/

section
variable {l : LaunchId} {s : State} {x : Launch} (hh : s.here = .launch l) (hx : findLaunch s l = some x)
include hh hx

theorem launchPlace_waits (h : x.st ≠ .waiting ∨ cornerNow s l x = none) : execLaunchPlace s = .next s := by
  simp only [execLaunchPlace, hh, hx]
  split
  · rfl
  next hn =>
    obtain ⟨hw, -⟩ := not_or.mp hn
    have hc := h.resolve_left hw
    rw [hc]

variable {r c : Nat} (hw : x.st = .waiting) (hc : ctxState s l.die x.lr.ctx = 1) (hb : servedBefore s l.die (launchTurn x) = false)
  (hr : cornerNow s l x = some (r, c))
include hw hc hb hr

theorem launchPlace_gateWaits (hd : ctxDebt s l.die x.lr.ctx < x.lr.quant * Config.cyclesPerUs) (hg : x.gateOk = false) : execLaunchPlace s = .next s := by
  simp [execLaunchPlace, hh, hx, hw, hc, hb, hr, Nat.not_le.mpr hd, hg]

theorem launchPlace_places (hd : ctxDebt s l.die x.lr.ctx < x.lr.quant * Config.cyclesPerUs) (hg : x.gateOk = true) :
    execLaunchPlace s = .next (decideBlock (beginSlice (updLaunch (allot s l r c) l fun y => { y with st := .boundary }) l) l) := by
  simp [execLaunchPlace, hh, hx, hw, hc, hb, hr, Nat.not_le.mpr hd, hg]

theorem launchPlace_passes (hd : x.lr.quant * Config.cyclesPerUs ≤ ctxDebt s l.die x.lr.ctx) : execLaunchPlace s = .next (setLaunch
    (fresh (setDebt s l.die x.lr.ctx (ctxDebt s l.die x.lr.ctx - x.lr.quant * Config.cyclesPerUs))).2 l { x with order := s.seq, waitAt := s.clock }) := by
  simp only [execLaunchPlace, hh, hx, hw, hc, hb, hr, hd, ne_eq, not_true_eq_false, Bool.false_eq_true, or_self, if_false, if_true]
  rfl

end

/-- A region's tiles and its launch, allotted. -/
theorem allot_of_find {s : State} {l : LaunchId} {x : Launch} (h : findLaunch s l = some x) (r c : Nat) : allot s l r c =
    setLaunch (updTiles s (rectTiles l.die r c (x.lr.rows + 1) (x.lr.cols + 1)) fun t => blankTile t (some l.handle)) l
      { x with corner := some (r, c), since := s.clock } := by
  simp [allot, h]

theorem beginSlice_of_find {s : State} {l : LaunchId} {x : Launch} (h : findLaunch s l = some x) : beginSlice s l =
    setDebt (setLaunch s l { x with sliceAt := s.clock, sliceLen := max 1 (x.lr.quant * Config.cyclesPerUs - ctxDebt s l.die x.lr.ctx), expired := none })
      l.die x.lr.ctx (ctxDebt s l.die x.lr.ctx - x.lr.quant * Config.cyclesPerUs) := by
  simp [beginSlice, h]

theorem setDebt_eq (s : State) (d : Fin 4) (ctx : BitVec 12) (n : Nat) : setDebt s d ctx n = memSetWord s (ctxAddr s d ctx + 8) (word (min n (2 ^ 48 - 1))) := rfl

/-- A launch that gets its region at a corner. -/
def placed (s : State) (l : LaunchId) (x : Launch) (r c : Nat) : Launch :=
  { x with corner := some (r, c), since := s.clock, st := .boundary, sliceAt := s.clock,
           sliceLen := max 1 (x.lr.quant * Config.cyclesPerUs - ctxDebt s l.die x.lr.ctx), expired := none }

/-- The tiles of a region allotted to its launch. -/
def allotTiles (s : State) (l : LaunchId) (x : Launch) (r c : Nat) : State :=
  updTiles s (rectTiles l.die r c (x.lr.rows + 1) (x.lr.cols + 1)) fun t => blankTile t (some l.handle)

theorem getTile_of_tiles {s t : State} (h : t.tiles = s.tiles) (u : TileId) : getTile t u = getTile s u := by rw [getTile, h]; rfl

theorem getTile_allotTiles (s : State) (l : LaunchId) (x : Launch) (r c : Nat) (v : TileId) : getTile (allotTiles s l x r c) v =
    if v ∈ rectTiles l.die r c (x.lr.rows + 1) (x.lr.cols + 1) then blankTile (getTile s v) (some l.handle) else getTile s v :=
  getTile_updTiles (fun y => blankTile_blankTile y _) ..

/-- The state that LAUNCH_PLACE makes: the tiles allotted, the slice begun with its debt paid, the first block decided. -/
theorem launchPlace_state {l : LaunchId} {s : State} {x : Launch} (hx : findLaunch s l = some x) (r c : Nat) :
    ∃ u, LaunchStep l ⟨0, 0⟩ [] (allotTiles s l x r c) u ∧ u.tiles = (allotTiles s l x r c).tiles ∧
      decideBlock (beginSlice (updLaunch (allot s l r c) l fun y => { y with st := .boundary }) l) l =
        setLaunch (setDebt u l.die x.lr.ctx (ctxDebt s l.die x.lr.ctx - x.lr.quant * Config.cyclesPerUs)) l (decidedBlock (placed s l x r c)) := by
  have ho : OnlyTilesSlices s (allotTiles s l x r c) := updTiles_onlyTilesSlices ..
  have hd : ∀ u, LaunchStep l ⟨0, 0⟩ [] (allotTiles s l x r c) u → ctxDebt u l.die x.lr.ctx = ctxDebt s l.die x.lr.ctx := fun u hu =>
    ctxDebt_congr (ho.2.1.trans hu.mem) (hu.dies.trans ho.2.2.2.1) _ _
  have hk : (allotTiles s l x r c).clock = s.clock := ho.2.2.2.2.1
  have hs1 := setLaunch_step (allotTiles s l x r c) l ⟨0, 0⟩ { x with corner := some (r, c), since := s.clock }
  have hs2 := hs1.then (setLaunch_step _ l ⟨0, 0⟩ { x with corner := some (r, c), since := s.clock, st := .boundary })
  refine ⟨_, hs2.then (setLaunch_step _ l ⟨0, 0⟩ (placed s l x r c)), rfl, ?_⟩
  rw [allot_of_find hx, updLaunch_of_find (findLaunch_setLaunch ..), beginSlice_of_find (findLaunch_setLaunch ..)]
  dsimp only
  rw [← allotTiles, hd _ hs2, decideBlock_of_find (x := placed s l x r c)]
  · simp only [setLaunch_clock, hk]
    rfl
  · simp only [setLaunch_clock, hk]
    exact findLaunch_setLaunch ..

section
variable {l : LaunchId} {s : State} {x : Launch} {r c : Nat} (hh : s.here = .launch l) (hx : findLaunch s l = some x) (hw : x.st = .waiting)
  (hc : ctxState s l.die x.lr.ctx = 1) (hb : servedBefore s l.die (launchTurn x) = false) (hr : cornerNow s l x = some (r, c))
include hh hx hw hc hb hr

theorem launchPlace_allots (hd : ctxDebt s l.die x.lr.ctx < x.lr.quant * Config.cyclesPerUs) (hg : x.gateOk = true) :
    Completes .launchPlace s fun t =>
      let a := ctxAddr s l.die x.lr.ctx + 8
      SameMemBut s t (fun b => a ≤ b ∧ b < a + 8) (fun _ => False) ∧ memWord t a = 0 ∧ SameLaunchesBut s t l ∧ SameCores s t ∧
      (∃ z, findLaunch t l = some z ∧ z.corner = some (r, c) ∧ z.since = s.clock ∧ z.sliceAt = s.clock ∧
        z.sliceLen = x.lr.quant * Config.cyclesPerUs - ctxDebt s l.die x.lr.ctx ∧ ChosenState x z) ∧
      (∀ u ∈ rectTiles l.die r c (x.lr.rows + 1) (x.lr.cols + 1), getTile t u = { owner := some l.handle, counts := (getTile s u).counts }) ∧
      SameTilesBut s t (· ∈ rectTiles l.die r c (x.lr.rows + 1) (x.lr.cols + 1)) := by
  obtain ⟨u, hu, hut, he⟩ := launchPlace_state hx r c
  have ho : OnlyTilesSlices s (allotTiles s l x r c) := updTiles_onlyTilesSlices ..
  have hs := (ho.step l ⟨0, 0⟩).then hu
  have htile : ∀ v, getTile u v = if v ∈ rectTiles l.die r c (x.lr.rows + 1) (x.lr.cols + 1) then blankTile (getTile s v) (some l.handle) else getTile s v :=
    fun v => (getTile_of_tiles hut v).trans (getTile_allotTiles ..)
  rw [Nat.sub_eq_zero_of_le hd.le, setDebt_eq, ctxAddr_congr hs.dies] at he
  refine ⟨_, (launchPlace_places hh hx hw hc hb hr hd hg).trans (congrArg _ he), ?_, ?_, ?_, hs.cores, ⟨_, findLaunch_setLaunch .., ?_⟩, ?_, ?_⟩
  · exact ((hs.mem.but _ _).trans (memSetWord_sameMemBut ..)).trans ((setLaunch_step _ l ⟨0, 0⟩ _).mem.but _ _)
  · rw [(setLaunch_step _ l ⟨0, 0⟩ _).mem.memWord, memWord_memSetWord, Nat.zero_min]
    rfl
  · exact fun k hk => (findLaunch_setLaunch_other _ _ hk).trans (hs.others k hk)
  · obtain ⟨h1, h2, h3, h4⟩ := decidedBlock_keeps (placed s l x r c)
    refine ⟨h1, h2, h3, h4.trans ?_, ChosenState.congr (x := x) (y := placed s l x r c) rfl rfl rfl (decidedBlock_rows _).state⟩
    exact Nat.max_eq_right (Nat.sub_pos_of_lt hd)
  · exact fun v hv => (htile v).trans (if_pos hv)
  · exact fun v hv => (htile v).trans (if_neg hv)

theorem launchPlace_waitsOnce (hd : x.lr.quant * Config.cyclesPerUs ≤ ctxDebt s l.die x.lr.ctx) :
    Completes .launchPlace s fun t => t.tiles = s.tiles ∧ SameCores s t ∧ SameLaunchesBut s t l ∧
      ∃ n, findLaunch t l = some { x with order := n, waitAt := s.clock } :=
  ⟨_, launchPlace_passes hh hx hw hc hb hr hd, rfl, .of_eq rfl, fun _ hk => findLaunch_setLaunch_other _ _ hk, _, findLaunch_setLaunch ..⟩

end

/-! ## SCHEDULER_LOAD (R178, R180, R188) -/

section
variable {l : LaunchId} {s : State} {x : Launch} {pc : Word} (hh : s.here = .launch l) (hx : findLaunch s l = some x) (hb : x.st = .boundary)
  (hc : x.choice = some pc) (hn : haveBlock x pc = false)
include hh hx hb hc hn

theorem schedulerLoad_asks {p : Fin 4} (hp : takePlane x false = some p) : execSchedulerLoad s = .next (setLaunch s l (askLoad x pc p)) := by
  simp [execSchedulerLoad, hh, hx, hb, hc, hn, hp]

theorem schedulerLoad_waits (hp : takePlane x false = none) : execSchedulerLoad s = .next s := by
  simp [execSchedulerLoad, hh, hx, hb, hc, hn, hp]

end

end Sys2Proof.Machine
end

section
/-! PROOFS. PHASE_END (R19, R186 to R189, R332): a phase that is over ends the launch, or the next block is decided. -/
namespace Sys2Proof.Machine
open Sys2Proof

/-! ## What a quiet region brings to its boundary -/

theorem mem_of_afind {α : Type} {m : Assoc α} {i : Nat} {v : α} (h : afind m i = some v) : (i, v) ∈ m := by
  induction m with
  | nil => cases h
  | cons p m ih =>
    obtain ⟨k, w⟩ := p
    simp only [afind] at h
    split at h
    next e => cases h; exact e ▸ List.mem_cons_self
    · exact List.mem_cons_of_mem _ (ih h)

theorem guardRecords_quiet {s : State} {ts : List TileId} (h : ∀ u ∈ ts, (getTile s u).drops = []) : guardRecords s ts = s := by
  induction ts with
  | nil => rfl
  | cons t ts ih =>
    have e : guardRecords s (t :: ts) = guardRecords s ts := by simp [guardRecords, h t (by simp)]
    rw [e]
    exact ih fun u hu => h u (List.mem_cons_of_mem _ hu)

theorem ended_of_liveThreads {x : Launch} (h : liveThreads x = 0) {thr : BitVec 8} {y : Thread} (hy : findThread x thr = some y) : y.st = .ended := by
  have hm := mem_of_afind hy
  rw [liveThreads, List.length_eq_zero_iff, List.filter_eq_nil_iff] at h
  simpa using h _ hm

/-- A launch at a boundary with no thread of a STOP drain left to deliver. -/
def undrained (x : Launch) : Launch := { x with stopThr := [], drained := x.drained, stop := x.stop && !x.drained.isEmpty }

theorem deliverDrained_none {s : State} {l : LaunchId} {x : Launch} (hx : findLaunch s l = some x) (h : drainedThrs x = []) :
    deliverDrained s l = setLaunch s l (undrained x) := by
  rw [deliverDrained_of_find hx, h]
  simp [undrained]

theorem drainedThrs_of_liveThreads {x : Launch} (h : liveThreads x = 0) : drainedThrs x = [] := by
  rw [drainedThrs, List.filter_eq_nil_iff]
  intro thr _
  cases hy : findThread x thr with
  | none => simp
  | some y => simp [ended_of_liveThreads h hy]

theorem drainedThrs_of_stopThr {x : Launch} (h : x.stopThr = []) : drainedThrs x = [] := by simp [drainedThrs, h]

/-! ## The boundary (R188, R189) -/

section
variable {l : LaunchId} {s : State} {x : Launch} (hx : findLaunch s l = some x)
include hx

theorem atBoundary_ends (hl : liveThreads x = 0) (held : Bool) : atBoundary s l held = launchEnd s l := by simp [atBoundary, hx, hl]

variable (hl : liveThreads x ≠ 0) (hc : ctxState s l.die x.lr.ctx = 1) {held : Bool} (hh : held = true ∨ pairHolds s l x = false)
include hl hc hh

theorem atBoundary_decides (hd : x.dsel = none) : atBoundary s l held = setLaunch s l (decidedBlock x) := by
  have hp : (!held && pairHolds s l x) = false := by rcases hh with h | h <;> simp [h]
  simp [atBoundary, hx, hl, hc, hp, hd, decideBlock_of_find hx]

theorem atBoundary_switches {p : Fin 4} (hd : x.dsel = some (.plane p)) (hv : (getPlane x p.val).st ≠ .invalid) :
    atBoundary s l held = setLaunch s l { x with st := .switching p } := by
  have hp : (!held && pairHolds s l x) = false := by rcases hh with h | h <;> simp [h]
  simp [atBoundary, hx, hl, hc, hp, hd, hv]

end

theorem pairHolds_unarmed {s : State} {l : LaunchId} (x : Launch) (h : (getDie s l.die).armed = []) : pairHolds s l x = false := by
  unfold pairHolds
  split
  · rfl
  · simp [h]

/-! ## The end of a launch (R186, R332) -/

theorem markWindows_onlyTilesSlices (s : State) (t : TileId) (busy : Bool) : OnlyTilesSlices s (markWindows s t busy) ∧ (markWindows s t busy).tiles = s.tiles := by
  unfold markWindows
  dsimp only
  split
  · exact ⟨.refl s, rfl⟩
  · exact ⟨setSlice_onlyTilesSlices .., rfl⟩

theorem markAll_onlyTilesSlices (busy : Bool) (ts : List TileId) (s : State) :
    OnlyTilesSlices s (ts.foldl (fun s t => markWindows s t busy) s) ∧ (ts.foldl (fun s t => markWindows s t busy) s).tiles = s.tiles := by
  induction ts generalizing s with
  | nil => exact ⟨.refl s, rfl⟩
  | cons t ts ih =>
    obtain ⟨h1, h2⟩ := markWindows_onlyTilesSlices s t busy
    obtain ⟨k1, k2⟩ := ih (markWindows s t busy)
    exact ⟨h1.trans k1, k2.trans h2⟩

theorem freeTiles_onlyTilesSlices (s : State) (l : LaunchId) (x : Launch) : OnlyTilesSlices s (freeTiles s l x) :=
  (markAll_onlyTilesSlices ..).1.trans (updTiles_onlyTilesSlices ..)

theorem getTile_freeTiles (s : State) (l : LaunchId) (x : Launch) (u : TileId) :
    getTile (freeTiles s l x) u = if u ∈ regionTiles l x then blankTile (getTile s u) none else getTile s u := by
  rw [freeTiles, getTile_updTiles (fun y => blankTile_blankTile y _), getTile_of_tiles (markAll_onlyTilesSlices ..).2]

/-- The tables of tiles, launches and clusters are as before. -/
def SameTables (s t : State) : Prop := t.tiles = s.tiles ∧ t.launches = s.launches ∧ t.clusters = s.clusters

theorem SameTables.refl (s : State) : SameTables s s := ⟨rfl, rfl, rfl⟩
theorem SameTables.trans {a b c : State} (h : SameTables a b) (k : SameTables b c) : SameTables a c :=
  ⟨k.1.trans h.1, k.2.1.trans h.2.1, k.2.2.trans h.2.2⟩

theorem recordWs_sameTables (s : State) (d : Fin 4) (ctx : BitVec 12) : SameTables s (recordWs s d ctx) := by
  have h : ∀ (f : State → Nat → State) (_ : ∀ s i, SameTables s (f s i)) (is : List Nat) (s : State), SameTables s (is.foldl f s) :=
    fun f hf is s => is.foldlRecOn f (motive := SameTables s) (.refl s) fun t ht i _ => ht.trans (hf t i)
  unfold recordWs
  refine (h _ ?_ (mapRange s d ctx) s).trans ⟨rfl, rfl, rfl⟩
  exact fun s i => ⟨rfl, rfl, rfl⟩

/-- No interval record is written where none is asked for (R351). -/
theorem intervalRec_off {s : State} {l : LaunchId} {x : Launch} {home : ClusterId} (hi : x.issuer = some home)
    (h : (x.active.isSome && (getCl s home).ivbase.getLsbD 0 && decide (fld (getCl s home).ivcfg 11 0 = x.lr.ctx.toNat)) = false) :
    intervalRec s l x = s := by
  unfold intervalRec
  rw [homeOf_of_issuer s l hi]
  exact if_neg (by rw [wbit, h]; exact Bool.false_ne_true)

/-- What the end of a launch does after its record: its tiles are freed, and it is no launch any more; then the context may become idle. -/
theorem launchEnd_state {s : State} {l : LaunchId} {x : Launch} {home : ClusterId} (hx : findLaunch s l = some x) (hi : x.issuer = some home)
    (hv : (getCl s home).ivbase.getLsbD 0 = false) :
    SameTables (delLaunch (freeTiles (recL s l { kind := 0x22, p0 := word (flag x.exact 0) }) l x) l) (launchEnd s l) := by
  have hiv : intervalRec s l x = s := intervalRec_off hi (by rw [hv, Bool.and_false, Bool.false_and])
  unfold launchEnd
  rw [hx]
  dsimp only
  rw [hiv]
  split
  · exact .refl _
  · have h := recordWs_sameTables (delLaunch (freeTiles (recL s l { kind := 0x22, p0 := word (flag x.exact 0) }) l x) l) l.die x.lr.ctx
    split
    · exact h.trans ⟨rfl, rfl, rfl⟩
    · exact h.trans ⟨rfl, rfl, rfl⟩

theorem findLaunch_delLaunch_other (s : State) {l k : LaunchId} (h : k ≠ l) : findLaunch (delLaunch s l) k = findLaunch s k :=
  afind_adel_other _ fun e => h (launchKey_inj e)

theorem launchEnd_ends {s : State} {l : LaunchId} {x : Launch} {home : ClusterId} (hx : findLaunch s l = some x) (hi : x.issuer = some home)
    (hv : (getCl s home).ivbase.getLsbD 0 = false) :
    findLaunch (launchEnd s l) l = none ∧ SameLaunchesBut s (launchEnd s l) l ∧
    (∀ u ∈ regionTiles l x, (getTile (launchEnd s l) u).owner = none) ∧ SameTilesBut s (launchEnd s l) (· ∈ regionTiles l x) ∧
    { kind := 0x22, ctx := x.lr.ctx, handle := l.handle, p0 := if x.exact then 1 else 0 } ∈ (getCl (launchEnd s l) home).pend := by
  obtain ⟨ht, hl, hc⟩ := launchEnd_state hx hi hv
  have hf : ∀ k, findLaunch (launchEnd s l) k = findLaunch (delLaunch (freeTiles (recL s l { kind := 0x22, p0 := word (flag x.exact 0) }) l x) l) k :=
    fun k => by rw [findLaunch, hl]; rfl
  have hg : ∀ u, getTile (launchEnd s l) u = if u ∈ regionTiles l x then blankTile (getTile s u) none else getTile s u := fun u => by
    rw [getTile_of_tiles ht, getTile_delLaunch', getTile_freeTiles, getTile_of_tiles (recL_tiles ..)]
  have hr := recL_step hx hi { kind := 0x22, p0 := word (flag x.exact 0) }
  refine ⟨(hf l).trans (findLaunch_delLaunch ..), fun k hk => ?_, fun u hu => ?_, fun u hu => (hg u).trans (if_neg hu), ?_⟩
  · rw [hf, findLaunch_delLaunch_other _ hk, (freeTiles_onlyTilesSlices ..).find, findLaunch_recL]
  · rw [hg, if_pos hu]
    rfl
  · have e : getCl (launchEnd s l) home = getCl (recL s l { kind := 0x22, p0 := word (flag x.exact 0) }) home := by
      rw [getCl, hc, delLaunch_clusters, (freeTiles_onlyTilesSlices ..).1]
      rfl
    rw [e, hr.pend]
    cases x.exact <;> simp [flag, word]

/-! ## PHASE_END -/

section
variable {l : LaunchId} {s : State} {x : Launch} (hh : s.here = .launch l) (hx : findLaunch s l = some x)
include hh hx

theorem phaseEnd_waits (hd : phaseEndDue s l x = false) : execPhaseEnd s = .next s := by simp [execPhaseEnd, hh, hx, hd]

theorem phaseEnd_atBoundary (hb : x.st = .boundary) (hd : phaseEndDue s l x = true) : execPhaseEnd s = .next (atBoundary s l true) := by
  simp [execPhaseEnd, hh, hx, hb, hd]

theorem phaseEnd_running (hb : x.st = .running) (hd : phaseEndDue s l x = true) (hq : ∀ u ∈ regionTiles l x, (getTile s u).drops = [])
    (ht : drainedThrs x = []) : execPhaseEnd s = .next (atBoundary (setLaunch s l (undrained x)) l false) := by
  simp [execPhaseEnd, hh, hx, hb, hd, guardRecords_quiet hq, deliverDrained_none hx ht]

end

theorem phaseEndDue_running {s : State} {l : LaunchId} {x : Launch} (hb : x.st = .running) (ho : phaseOver s l x = true) (hd : x.drainAt = none)
    (hl : liveThreads x ≠ 0 ∨ outsDone x = true) : phaseEndDue s l x = true := by
  simp only [phaseEndDue, hb, ho, hd, Option.isNone_none, Bool.and_self, Bool.and_true, Bool.or_eq_true, decide_eq_true_eq]
  exact hl

theorem phaseEndDue_notOver {s : State} {l : LaunchId} {x : Launch} (hb : x.st = .running) (ho : phaseOver s l x = false) : phaseEndDue s l x = false := by
  simp [phaseEndDue, hb, ho]

end Sys2Proof.Machine
end

section
/-! PROOFS. PLANE_SWITCH (R15, R19, R184, R188, R189, R291, R351): a plane that is taken, the threads that enter, the interval record. -/
namespace Sys2Proof.Machine
open Sys2Proof

/-! ## The threads of the taken block enter -/

/-- Entering changes of a launch its threads alone. -/
theorem enterAll_eq (x : Launch) (thrs : List (BitVec 8)) : ∃ m, enterAll x thrs = { x with threads := m } := by
  induction thrs generalizing x with
  | nil => exact ⟨x.threads, rfl⟩
  | cons thr thrs ih =>
    have e : enterAll x (thr :: thrs) = enterAll (enterAll x [thr]) thrs := rfl
    cases hy : findThread x thr with
    | none =>
      have h1 : enterAll x [thr] = x := by simp [enterAll, hy]
      rw [e, h1]
      exact ih x
    | some z =>
      rw [e, enterAll_singleton hy]
      exact ih _

theorem findThread_enterAll_singleton {x : Launch} {k thr : BitVec 8} {w : Thread} (h : findThread x thr = some w) :
    ∃ v, findThread (enterAll x [k]) thr = some v ∧ v.t = w.t ∧ (thr = k ∨ w.st = .flight ∧ w.entered = w.t → v.st = .flight ∧ v.entered = w.t) := by
  by_cases hk : thr = k
  · subst hk
    rw [enterAll_singleton h]
    exact ⟨_, findThread_setThread .., rfl, fun _ => ⟨rfl, rfl⟩⟩
  · refine ⟨w, ?_, rfl, fun hw => hw.resolve_left hk⟩
    cases hy : findThread x k with
    | none =>
      have h1 : enterAll x [k] = x := by simp [enterAll, hy]
      rw [h1, h]
    | some z => rw [enterAll_singleton hy, findThread_setThread_other _ _ hk, h]

/-- A thread of the list is in flight, with the words that it waited with. -/
theorem findThread_enterAll {x : Launch} {thr : BitVec 8} {w : Thread} (h : findThread x thr = some w) (thrs : List (BitVec 8)) :
    ∃ v, findThread (enterAll x thrs) thr = some v ∧ v.t = w.t ∧ (thr ∈ thrs ∨ w.st = .flight ∧ w.entered = w.t → v.st = .flight ∧ v.entered = w.t) := by
  induction thrs generalizing x w with
  | nil => exact ⟨w, h, rfl, fun hw => hw.resolve_left (List.not_mem_nil)⟩
  | cons k thrs ih =>
    obtain ⟨u, hu, hut, hus⟩ := findThread_enterAll_singleton (k := k) h
    obtain ⟨v, hv, hvt, hvs⟩ := ih hu
    refine ⟨v, hv, hvt.trans hut, fun hw => ?_⟩
    rw [hut] at hvs
    apply hvs
    rcases hw with hm | hf
    · rcases List.mem_cons.mp hm with rfl | hm
      · exact .inr (hus (.inl rfl))
      · exact .inl hm
    · exact .inr (hus (.inr hf))

theorem reseat_threads (x : Launch) : (reseat x).threads = x.threads := by
  unfold reseat
  refine List.foldlRecOn x.overflow _ (motive := fun y : Launch => y.threads = x.threads) rfl ?_
  intro y hy e _
  exact (seat_threads ..).trans hy

theorem takeWaiting_thrs (x : Launch) (pc : Word) : (takeWaiting x pc).1 =
    (x.table.filter fun r => r.pc = pc).flatMap (·.thrs) ++ (x.overflow.filter fun e => e.1 = pc).map (·.2) := rfl

theorem mem_takeWaiting {x : Launch} {pc : Word} {r : EntryRow} (hr : r ∈ x.table) (hp : r.pc = pc) {thr : BitVec 8} (ht : thr ∈ r.thrs) :
    thr ∈ (takeWaiting x pc).1 := by
  rw [takeWaiting_thrs]
  exact List.mem_append_left _ (List.mem_flatMap.mpr ⟨r, List.mem_filter.mpr ⟨hr, decide_eq_true hp⟩, ht⟩)

theorem takeWaiting_threads (x : Launch) (pc : Word) : (takeWaiting x pc).2.threads = x.threads := reseat_threads _

/-! ## Tiles that differ in their queues alone -/

/-- Every tile is as before but for its queues. -/
def SameButQueues (s t : State) : Prop := ∀ u, { getTile t u with queues := [] } = { getTile s u with queues := [] }

theorem SameButQueues.refl (s : State) : SameButQueues s s := fun _ => rfl
theorem SameButQueues.trans {a b c : State} (h : SameButQueues a b) (k : SameButQueues b c) : SameButQueues a c := fun u => (k u).trans (h u)

theorem setQ_sameButQueues (s : State) (t : TileId) (g : Tile → Nat × Queue) : SameButQueues s (updTile s t fun y => setQ y (g y).1 (g y).2) := by
  intro u
  by_cases h : u = t
  · subst h
    rw [getTile_updTile]
    rfl
  · rw [getTile_updTile_other _ _ h]

theorem injectEntries_sameButQueues (n : Nat) (l : LaunchId) (s : State) : SameButQueues s (injectEntries n l s) := by
  induction n generalizing s with
  | zero => exact .refl s
  | succ n ih =>
    unfold injectEntries
    split
    · exact .refl s
    next x _ =>
      split
      · exact .refl s
      next thr rest _ =>
        dsimp only
        split
        · exact .refl s
        · have h : SameButQueues s ((entryToks l x thr).foldl (fun s (t, q, tok) => updTile s t fun y =>
              let z := getQ y q; setQ y q { z with arr := z.arr ++ [tok] }) s) :=
            (entryToks l x thr).foldlRecOn _ (motive := SameButQueues s) (.refl s) fun a ha e _ => ha.trans (setQ_sameButQueues a e.1 fun y =>
              (e.2.1, { getQ y e.2.1 with arr := (getQ y e.2.1).arr ++ [e.2.2] }))
          exact h.trans (ih _)

theorem enterThreads_sameButQueues (s : State) (l : LaunchId) (thrs : List (BitVec 8)) : SameButQueues s (enterThreads s l thrs) := by
  cases hf : findLaunch s l with
  | none =>
    simp only [enterThreads, hf]
    exact .refl s
  | some x =>
    rw [enterThreads_of_find hf]
    exact injectEntries_sameButQueues _ l (setLaunch s l _)

/-! ## The plane that is taken (R188, R189) -/

theorem activateTile_activateTile (x : Tile) (p : Fin 4) (ports : List RangeCopy) :
    activateTile (activateTile x p ports) p ports = activateTile x p ports := rfl

/-- The tiles of a region with a plane activated, and the windows of their ports freed and taken again. -/
def activated (s : State) (l : LaunchId) (x : Launch) (p : Fin 4) : State :=
  (regionTiles l x).foldl (fun s t => markWindows s t true)
    (updTiles ((regionTiles l x).foldl (fun s t => markWindows s t false) s) (regionTiles l x) fun t => activateTile t p x.portSet)

theorem activated_onlyTilesSlices (s : State) (l : LaunchId) (x : Launch) (p : Fin 4) : OnlyTilesSlices s (activated s l x p) :=
  ((markAll_onlyTilesSlices ..).1.trans (updTiles_onlyTilesSlices ..)).trans (markAll_onlyTilesSlices ..).1

theorem getTile_activated (s : State) (l : LaunchId) (x : Launch) (p : Fin 4) (u : TileId) :
    getTile (activated s l x p) u = if u ∈ regionTiles l x then activateTile (getTile s u) p x.portSet else getTile s u := by
  rw [activated, getTile_of_tiles (markAll_onlyTilesSlices ..).2, getTile_updTiles (fun y => activateTile_activateTile y p _),
    getTile_of_tiles (markAll_onlyTilesSlices ..).2]

/-- The block of a plane. -/
def planePc (x : Launch) (p : Fin 4) : Word := (getPlane x p.val).pc

/-- A launch at the begin of a phase, before the waiting threads of its block enter. -/
def switched (now : Nat) (x : Launch) (p : Fin 4) : Launch :=
  { (takeWaiting x (planePc x p)).2 with
      planes := match x.active with | some q => aset x.planes q.val { getPlane x q.val with last := x.phases } | none => x.planes
      active := some p, phases := x.phases + 1, phaseAt := now, cycs := 0, classes := [], quiet := 0, qwcDone := false
      decided := false, dsel := none, choice := none, first := [], st := .running, hold := none, loads := x.loads }

theorem switchPlane_eq (s : State) (l : LaunchId) (x : Launch) (p : Fin 4) : switchPlane s l x p =
    enterThreads (setLaunch (activated s l x p) l (switched s.clock x p)) l (takeWaiting x (planePc x p)).1 := rfl

section
variable {l : LaunchId} {x : Launch} (s : State) (p : Fin 4)

theorem switchPlane_step (home : ClusterId) : LaunchStep l home [] s (switchPlane s l x p) := by
  rw [switchPlane_eq]
  exact (((activated_onlyTilesSlices s l x p).step l home).then (setLaunch_step ..)).then (enterThreads_step ..)

theorem switchPlane_tiles (u : TileId) : { getTile (switchPlane s l x p) u with queues := [] } =
    { (if u ∈ regionTiles l x then activateTile (getTile s u) p x.portSet else getTile s u) with queues := [] } := by
  rw [switchPlane_eq, ← getTile_activated]
  exact enterThreads_sameButQueues _ l _ u

theorem findLaunch_switchPlane : ∃ es, findLaunch (switchPlane s l x p) l =
    some { enterAll (switched s.clock x p) (takeWaiting x (planePc x p)).1 with entering := es } := by
  rw [switchPlane_eq, enterThreads_of_find (findLaunch_setLaunch ..)]
  obtain ⟨es, he⟩ := findLaunch_injectEntries ((switched s.clock x p).entering.length + (takeWaiting x (planePc x p)).1.length)
    (findLaunch_setLaunch (setLaunch (activated s l x p) l (switched s.clock x p)) l
      { enterAll (switched s.clock x p) (takeWaiting x (planePc x p)).1 with
          entering := (enterAll (switched s.clock x p) (takeWaiting x (planePc x p)).1).entering ++ (takeWaiting x (planePc x p)).1 })
  exact ⟨es, he⟩

/-- The launch runs its new plane in a new phase, with no decision made, and with its waiting threads in flight. -/
theorem switchPlane_launch : ∃ z, findLaunch (switchPlane s l x p) l = some z ∧
    (z.active = some p ∧ z.st = .running ∧ z.phases = x.phases + 1 ∧ z.phaseAt = s.clock ∧ z.decided = false ∧ z.dsel = none ∧ z.choice = none) ∧
    (z.cycs = 0 ∧ z.classes = []) ∧
    ∀ r ∈ x.table, r.pc = (getPlane x p.val).pc → ∀ thr ∈ r.thrs, ∀ w, findThread x thr = some w →
      ∃ v, findThread z thr = some v ∧ v.st = .flight ∧ v.entered = w.t := by
  obtain ⟨es, he⟩ := findLaunch_switchPlane s (l := l) (x := x) p
  refine ⟨_, he, ?_, ?_, fun r hr hp thr ht w hw => ?_⟩
  · obtain ⟨m, hm⟩ := enterAll_eq (switched s.clock x p) (takeWaiting x (planePc x p)).1
    rw [hm]
    exact ⟨rfl, rfl, rfl, rfl, rfl, rfl, rfl⟩
  · obtain ⟨m, hm⟩ := enterAll_eq (switched s.clock x p) (takeWaiting x (planePc x p)).1
    rw [hm]
    exact ⟨rfl, rfl⟩
  · have hf : findThread (switched s.clock x p) thr = some w := by
      have e : (switched s.clock x p).threads = x.threads := takeWaiting_threads ..
      rw [findThread, e]
      exact hw
    obtain ⟨v, hv, -, hs⟩ := findThread_enterAll hf (takeWaiting x (planePc x p)).1
    exact ⟨v, hv, hs (.inl (mem_takeWaiting hr hp ht))⟩

end

/-! ## What a boundary does about a switch -/

section
variable {l : LaunchId} {s : State} {x : Launch} (hh : s.here = .launch l) (hx : findLaunch s l = some x)
include hh hx

theorem planeSwitch_waits (h : switchTo x = .wait) : execPlaneSwitch s = .next s := by simp [execPlaneSwitch, hh, hx, h]

theorem planeSwitch_again (h : switchTo x = .again) : execPlaneSwitch s = .next (setLaunch s l { x with st := .boundary }) := by
  simp [execPlaneSwitch, hh, hx, h]

theorem planeSwitch_lost {p : Fin 4} (h : switchTo x = .lost p) : execPlaneSwitch s = .next (loseDsel s l p) := by simp [execPlaneSwitch, hh, hx, h]

variable {p : Fin 4} (h : switchTo x = .take p)
include h

theorem planeSwitch_held (hw : outsWritten x = false ∨ ctxState s l.die x.lr.ctx ≠ 1 ∨ x.cut ≠ none ∨ x.halted = true) :
    execPlaneSwitch s = .next s := by
  have hc : ¬ (outsWritten x && decide (ctxState s l.die x.lr.ctx = 1) && x.cut.isNone && !x.halted) = true := by
    rcases hw with hw | hw | hw | hw <;> simp [hw]
  simp only [execPlaneSwitch, hh, hx, h, hc]
  rfl

theorem planeSwitch_takes (ho : outsWritten x = true) (hc : ctxState s l.die x.lr.ctx = 1) (hu : x.cut = none) (ha : x.halted = false) :
    execPlaneSwitch s = .next (switchPlane (intervalRec s l x) l x p) := by
  simp [execPlaneSwitch, hh, hx, h, ho, hc, hu, ha]

end

/-- A decision for a plane is given up, with a record of the plane (R189). -/
theorem loseDsel_step {s : State} {l : LaunchId} {x : Launch} {home : ClusterId} (hx : findLaunch s l = some x) (hi : x.issuer = some home) (p : Fin 4) :
    LaunchStep l home [{ kind := 0x0D, ctx := x.lr.ctx, handle := l.handle, p0 := word p.val }] s (loseDsel s l p) ∧
    (loseDsel s l p).tiles = s.tiles ∧ ∃ z, findLaunch (loseDsel s l p) l = some z ∧ z.st = .boundary ∧ z.dsel = none := by
  have hz := findLaunch_setLaunch (setLaunch s l { x with st := .boundary, dsel := none }) l
    { x with st := .boundary, dsel := none, counts := aupd 0 x.counts cntDselbad (· + 1) }
  have e : loseDsel s l p = recL (setLaunch (setLaunch s l { x with st := .boundary, dsel := none }) l
      { x with st := .boundary, dsel := none, counts := aupd 0 x.counts cntDselbad (· + 1) }) l { kind := 0x0D, p0 := word p.val } := by
    rw [loseDsel, countL, updLaunch_of_find hx, updLaunch_of_find (findLaunch_setLaunch ..)]
  rw [e]
  have hr := recL_step hz hi { kind := 0x0D, p0 := word p.val }
  exact ⟨((setLaunch_step s l home _).then (setLaunch_step _ l home _)).trans hr, recL_tiles .., _, (findLaunch_recL ..).trans hz, rfl, rfl⟩

end Sys2Proof.Machine
end

section
/-! PROOFS. The interval record of a phase that ends (R239, R351, log 84): where it is written and what it holds. -/
namespace Sys2Proof.Machine
open Sys2Proof

/-! ## A write that sets its granule full (R239) -/

theorem touch_sameTables (s : State) (src : Option (Fin 4 × Fin 64)) (pa : Nat) (ctx : BitVec 12) (w : Bool) : SameTables s (touch s src pa ctx w) := by
  unfold touch
  dsimp only
  split
  · split <;> exact ⟨rfl, rfl, rfl⟩
  · exact ⟨rfl, rfl, rfl⟩

theorem touch_sameMem (s : State) (src : Option (Fin 4 × Fin 64)) (pa : Nat) (ctx : BitVec 12) (w : Bool) : SameMem s (touch s src pa ctx w) := by
  unfold touch
  dsimp only
  split
  · split <;> exact .of_eq rfl rfl rfl rfl rfl
  · exact .of_eq rfl rfl rfl rfl rfl

theorem parkedAll_congr {s t : State} (h : t.tiles = s.tiles) : parkedAll t = parkedAll s := by simp only [parkedAll, h]

theorem settle_of_noneParked {s : State} (h : parkedAll s = []) : settle s = s := by simp [settle, h]

/-- Bytes written at their home slice, their granule then full. -/
def fillGran (s : State) (src : Option (Fin 4 × Fin 64)) (ctx : BitVec 12) (pa : Nat) (bs : List Byte) : State :=
  setFull (memWrite (touch s src pa ctx true) pa bs) pa true

section
variable (s : State) (src : Option (Fin 4 × Fin 64)) (ctx : BitVec 12) (pa : Nat) (bs : List Byte)

theorem fillGran_sameTables : SameTables s (fillGran s src ctx pa bs) := (touch_sameTables s src pa ctx true).trans ⟨rfl, rfl, rfl⟩

theorem setFull_sameMemBut (b : Bool) : SameMemBut s (setFull s pa b) (fun _ => False) (fun g => g = pa / 64) :=
  ⟨fun _ _ => rfl, fun _ h => ⟨(isFull_setFull ..).trans (if_neg h), rfl⟩, rfl, rfl⟩

theorem fillGran_sameMemBut : SameMemBut s (fillGran s src ctx pa bs) (fun a => pa ≤ a ∧ a < pa + bs.length) (fun g => g = pa / 64) := by
  have h1 := (touch_sameMem s src pa ctx true).but (fun a => pa ≤ a ∧ a < pa + bs.length) (fun g => g = pa / 64)
  have h2 := (memWrite_sameMemBut (touch s src pa ctx true) pa bs).mono (fun _ h => h) (q' := fun g => g = pa / 64) fun _ => False.elim
  have h3 := (setFull_sameMemBut (memWrite (touch s src pa ctx true) pa bs) pa true).mono (fun _ => False.elim)
    (p' := fun a => pa ≤ a ∧ a < pa + bs.length) fun _ h => h
  exact (h1.trans h2).trans h3

theorem isFull_fillGran : isFull (fillGran s src ctx pa bs) pa = true := (isFull_setFull ..).trans (if_pos rfl)

theorem settle_fillGran (h : parkedAll s = []) : settle (fillGran s src ctx pa bs) = fillGran s src ctx pa bs :=
  settle_of_noneParked ((parkedAll_congr (fillGran_sameTables ..).1).trans h)

end

/-! ## Parts of a write -/

theorem readBytes_add (m : Assoc Byte) (a n k : Nat) : readBytes m a (n + k) = readBytes m a n ++ readBytes m (a + n) k := by
  induction n generalizing a with
  | zero => simp [readBytes]
  | succ n ih =>
    rw [Nat.add_right_comm, readBytes, ih, readBytes, List.cons_append, Nat.add_assoc a 1 n, Nat.add_comm 1 n]

/-- Bytes in the middle of a write read back. -/
theorem readBytes_writeBytes_mid (m : Assoc Byte) (a : Nat) (pre mid post : List Byte) :
    readBytes (writeBytes m a (pre ++ mid ++ post)) (a + pre.length) mid.length = mid := by
  have h := readBytes_writeBytes_same m a (pre ++ mid ++ post)
  rw [List.length_append, List.length_append, readBytes_add, readBytes_add] at h
  have h1 := (List.append_inj h (by simp)).1
  exact (List.append_inj h1 (by simp)).2

theorem memRead_fillGran_mid (s : State) (src : Option (Fin 4 × Fin 64)) (ctx : BitVec 12) (pa : Nat) {bs : List Byte} (pre mid post : List Byte)
    (h : bs = pre ++ mid ++ post) : memRead (fillGran s src ctx pa bs) (pa + pre.length) mid.length = mid := by
  subst h
  exact readBytes_writeBytes_mid ..

theorem memWord_of_memRead {s : State} {a n : Nat} (h : memRead s a 8 = bytesOf 8 n) : memWord s a = word n := by
  rw [memWord, h, ofBytes_bytesOf]
  apply BitVec.eq_of_toNat_eq
  simp [word]

/-! ## The interval record (R351) -/

theorem foldl_add_eq_sum {α : Type} (f : α → Nat) (l : List α) (n : Nat) : l.foldl (fun n a => n + f a) n = n + (l.map f).sum := by
  induction l generalizing n with
  | nil => rfl
  | cons a l ih => rw [List.foldl_cons, ih, List.map_cons, List.sum_cons, Nat.add_assoc]

/-- The tiles of a region and the operators that are active in them. -/
def elements (s : State) (l : LaunchId) (x : Launch) : Nat :=
  (regionTiles l x).length + ((regionTiles l x).map fun u => (activeOps (getTile s u)).length).sum

/-- The two words of an interval record, and its twelve classes of cycles. -/
def intervalHead (l : LaunchId) (x : Launch) (q : Fin 4) : List Byte :=
  bytesOf 8 (x.lr.ctx.toNat + q.val * 2 ^ 14 + x.phases % 2 ^ 16 * 2 ^ 16 + l.handle * 2 ^ 32)
def intervalSize (s : State) (l : LaunchId) (x : Launch) : List Byte := bytesOf 8 (elements s l x + min x.cycs (2 ^ 32 - 1) * 2 ^ 32)
def intervalClass (x : Launch) (k : Nat) : List Byte := bytesOf 4 (min (aget 0 x.classes k) (2 ^ 32 - 1))
def intervalClasses (x : Launch) : List Byte := (List.range 12).flatMap (intervalClass x)

theorem length_flatMap_intervalClass (x : Launch) (ks : List Nat) : (ks.flatMap (intervalClass x)).length = 4 * ks.length := by
  induction ks with
  | nil => rfl
  | cons k ks ih => rw [List.flatMap_cons, List.length_append, ih, intervalClass, bytesOf_length, List.length_cons]; omega

theorem intervalClasses_split (x : Launch) {c : Nat} (hc : c < 12) : ∃ post, intervalClasses x =
    (List.range c).flatMap (intervalClass x) ++ intervalClass x c ++ post := by
  obtain ⟨k, hk⟩ : ∃ k, 12 = c + 1 + k := ⟨11 - c, by omega⟩
  refine ⟨((List.range k).map (c + 1 + ·)).flatMap (intervalClass x), ?_⟩
  rw [intervalClasses, hk, List.range_add, List.range_succ, List.flatMap_append, List.flatMap_append, List.flatMap_singleton]

/-- Where a cluster writes its next interval record: its ring of 64-byte entries. -/
def intervalVa (y : Cluster) : Word := word (y.ivbase.toNat / 2 ^ 12 * 4096 + 64 * (y.ivWritten % 2 ^ (y.ivcfg.toNat / 2 ^ 12 % 16)))

theorem intervalVa_eq (y : Cluster) : word (fld y.ivbase 63 12 * 4096 + 64 * (y.ivWritten % 2 ^ fld y.ivcfg 15 12)) = intervalVa y := by
  have h : y.ivbase.toNat / 2 ^ 12 < 2 ^ (63 + 1 - 12) := by have := y.ivbase.isLt; omega
  rw [intervalVa, fld_eq_div_mod, fld_eq_div_mod, Nat.mod_eq_of_lt h]
  rfl

/-- Whether a home asks for interval records of a context. -/
def intervalOn (y : Cluster) (x : Launch) : Bool := x.active.isSome && y.ivbase.getLsbD 0 && decide (y.ivcfg.toNat % 4096 = x.lr.ctx.toNat)

theorem intervalOn_eq (y : Cluster) (x : Launch) :
    (x.active.isSome && y.ivbase.getLsbD 0 && decide (fld y.ivcfg 11 0 = x.lr.ctx.toNat)) = intervalOn y x := by
  rw [intervalOn, fld_eq_div_mod, Nat.pow_zero, Nat.div_one]
  rfl

section
variable {s : State} {l : LaunchId} {x : Launch} {home : ClusterId} (hi : x.issuer = some home)
include hi

theorem intervalRec_none (h : intervalOn (getCl s home) x = false) : intervalRec s l x = s :=
  intervalRec_off hi ((intervalOn_eq ..).trans h)

/-- The record is written at its place of the ring, and counted. -/
theorem intervalRec_on (h : intervalOn (getCl s home) x = true) {q : Fin 4} (hq : x.active = some q) (hp : parkedAll s = []) {pa : Nat} {k : Nat}
    (ht : translate s home.die (coreTable (getCl s home)) 0 (intervalVa (getCl s home)) .w = .ok pa k none) : intervalRec s l x =
      updCl (fillGran s (some (home.die, pclOfLcl s home)) 0 pa (intervalHead l x q ++ intervalSize s l x ++ intervalClasses x)) home
        fun z => { z with ivWritten := (getCl s home).ivWritten + 1 } := by
  have hd : devWriteFull s home 0 (intervalVa (getCl s home)) (intervalHead l x q ++ intervalSize s l x ++ intervalClasses x) =
      some (fillGran s (some (home.die, pclOfLcl s home)) 0 pa (intervalHead l x q ++ intervalSize s l x ++ intervalClasses x)) := by
    unfold devWriteFull
    rw [ht]
    exact congrArg some (settle_fillGran _ _ _ _ _ hp)
  unfold intervalRec
  dsimp only
  rw [homeOf_of_issuer s l hi, wbit, intervalOn_eq, if_pos h, foldl_add_eq_sum, Nat.zero_add, intervalVa_eq, hq]
  have he := congrArg (fun o => match o with
    | some s1 => updCl s1 home fun z => { z with ivWritten := (getCl s home).ivWritten + 1 }
    | none => updCl s home fun z => { z with ivDropped := (getCl s home).ivDropped + 1 }) hd
  exact he

end

/-- What an interval record holds, at its address. -/
def IntervalAt (s t : State) (l : LaunchId) (x : Launch) (q : Fin 4) (pa : Nat) : Prop :=
  isFull t pa = true ∧
  memWord t pa = word (x.lr.ctx.toNat + q.val * 2 ^ 14 + x.phases % 2 ^ 16 * 2 ^ 16 + l.handle * 2 ^ 32) ∧
  memWord t (pa + 8) = word (elements s l x + min x.cycs (2 ^ 32 - 1) * 2 ^ 32) ∧
  ∀ c, c < 12 → memRead t (pa + 16 + 4 * c) 4 = bytesOf 4 (min (aget 0 x.classes c) (2 ^ 32 - 1))

theorem fillGran_interval (s : State) (src : Option (Fin 4 × Fin 64)) (ctx : BitVec 12) (l : LaunchId) (x : Launch) (q : Fin 4) (pa : Nat) :
    IntervalAt s (fillGran s src ctx pa (intervalHead l x q ++ intervalSize s l x ++ intervalClasses x)) l x q pa := by
  have h8 : (intervalHead l x q).length = 8 ∧ (intervalSize s l x).length = 8 := ⟨bytesOf_length .., bytesOf_length ..⟩
  refine ⟨isFull_fillGran .., memWord_of_memRead ?_, memWord_of_memRead ?_, fun c hc => ?_⟩
  · have h := memRead_fillGran_mid s src ctx pa [] (intervalHead l x q) (intervalSize s l x ++ intervalClasses x) (List.append_assoc ..)
    rw [h8.1] at h
    exact h
  · have h := memRead_fillGran_mid s src ctx pa (intervalHead l x q) (intervalSize s l x) (intervalClasses x) rfl
    rw [h8.1, h8.2] at h
    exact h
  · obtain ⟨post, hs⟩ := intervalClasses_split x hc
    have h := memRead_fillGran_mid s src ctx pa (intervalHead l x q ++ intervalSize s l x ++ (List.range c).flatMap (intervalClass x)) (intervalClass x c) post
      (bs := intervalHead l x q ++ intervalSize s l x ++ intervalClasses x) (by simp only [hs, List.append_assoc])
    rw [List.length_append, List.length_append, h8.1, h8.2, length_flatMap_intervalClass, List.length_range, ← Nat.add_assoc, intervalClass,
      bytesOf_length] at h
    exact h

theorem IntervalAt.congr {s t u : State} {l : LaunchId} {x : Launch} {q : Fin 4} {pa : Nat} (h : IntervalAt s t l x q pa) (k : SameMem t u) :
    IntervalAt s u l x q pa := by
  obtain ⟨h1, h2, h3, h4⟩ := h
  exact ⟨(k.2.1 pa id).1.trans h1, (k.memWord _).trans h2, (k.memWord _).trans h3, fun c hc => (k.memRead ..).trans (h4 c hc)⟩

/-- The home after an interval record. -/
theorem intervalRec_writes {s : State} {l : LaunchId} {x : Launch} {home : ClusterId} (hi : x.issuer = some home)
    (h : intervalOn (getCl s home) x = true) {q : Fin 4} (hq : x.active = some q) (hp : parkedAll s = []) {pa : Nat} {k : Nat}
    (ht : translate s home.die (coreTable (getCl s home)) 0 (intervalVa (getCl s home)) .w = .ok pa k none) :
    SameLaunchesBut s (intervalRec s l x) l ∧ SameCoresBut s (intervalRec s l x) (· = home) ∧
    (getCl (intervalRec s l x) home).ivWritten = (getCl s home).ivWritten + 1 ∧
    SameMemBut s (intervalRec s l x) (fun a => pa ≤ a ∧ a < pa + 64) (fun g => g = pa / 64) ∧ IntervalAt s (intervalRec s l x) l x q pa := by
  have hl : (intervalHead l x q ++ intervalSize s l x ++ intervalClasses x).length = 64 := by
    rw [List.length_append, List.length_append, intervalHead, intervalSize, bytesOf_length, bytesOf_length, intervalClasses,
      length_flatMap_intervalClass, List.length_range]
  rw [intervalRec_on hi h hq hp ht]
  obtain ⟨ht, hla, hc⟩ := fillGran_sameTables s (some (home.die, pclOfLcl s home)) 0 pa (intervalHead l x q ++ intervalSize s l x ++ intervalClasses x)
  have hm := fillGran_sameMemBut s (some (home.die, pclOfLcl s home)) 0 pa (intervalHead l x q ++ intervalSize s l x ++ intervalClasses x)
  have hv := fillGran_interval s (some (home.die, pclOfLcl s home)) 0 l x q pa
  rw [hl] at hm
  have hs : SameMem (fillGran s (some (home.die, pclOfLcl s home)) 0 pa (intervalHead l x q ++ intervalSize s l x ++ intervalClasses x))
      (updCl (fillGran s (some (home.die, pclOfLcl s home)) 0 pa (intervalHead l x q ++ intervalSize s l x ++ intervalClasses x)) home
        fun z => { z with ivWritten := (getCl s home).ivWritten + 1 }) := .of_eq rfl rfl rfl rfl rfl
  refine ⟨fun k _ => ?_, fun c hne => ?_, ?_, hm.trans (hs.but _ _), hv.congr hs⟩
  · exact congrArg (fun la => afind la _) hla
  · rw [getCl_updCl_other _ _ hne, getCl, hc]
    rfl
  · rw [getCl_updCl]

/-! ## PLANE_SWITCH takes a plane -/

section
variable {l : LaunchId} {s : State} {x : Launch} {home : ClusterId} (hh : s.here = .launch l) (hx : findLaunch s l = some x) (hi : x.issuer = some home)
  {p : Fin 4} (h : switchTo x = .take p) (ho : outsWritten x = true) (hc : ctxState s l.die x.lr.ctx = 1) (hu : x.cut = none) (ha : x.halted = false)
include hh hx hi h ho hc hu ha

/-- The switch where the ended phase's interval record is asked for. -/
theorem planeSwitch_records {q : Fin 4} {pa k : Nat} (hn : intervalOn (getCl s home) x = true) (hq : x.active = some q) (hp : parkedAll s = [])
    (ht : translate s home.die (coreTable (getCl s home)) 0 (intervalVa (getCl s home)) .w = .ok pa k none) :
    Completes .planeSwitch s fun t => SameLaunchesBut s t l ∧ SameCoresBut s t (· = home) ∧ (getCl t home).ivWritten = (getCl s home).ivWritten + 1 ∧
      SameMemBut s t (fun a => pa ≤ a ∧ a < pa + 64) (fun g => g = pa / 64) ∧ IntervalAt s t l x q pa ∧
      ∃ z, findLaunch t l = some z ∧ z.active = some p ∧ z.st = .running ∧ z.cycs = 0 ∧ z.classes = [] := by
  obtain ⟨hla, hco, hiv, hme, hin⟩ := intervalRec_writes (l := l) hi hn hq hp ht
  have hs : LaunchStep l home [] (intervalRec s l x) (switchPlane (intervalRec s l x) l x p) := switchPlane_step ..
  obtain ⟨z, hz, ⟨hz1, hz2, -⟩, ⟨hz3, hz4⟩, -⟩ := switchPlane_launch (intervalRec s l x) (l := l) (x := x) p
  refine ⟨_, planeSwitch_takes hh hx h ho hc hu ha, hla.trans hs.others, fun c hne => (hs.cores c id).trans (hco c hne), ?_, hme.trans (hs.mem.but _ _),
    hin.congr hs.mem, z, hz, hz1, hz2, hz3, hz4⟩
  exact (congrArg Cluster.ivWritten (hs.cores home id)).trans hiv

/-- The switch without an interval record. -/
theorem planeSwitch_quiet (hn : intervalOn (getCl s home) x = false) : Completes .planeSwitch s fun t => SameLaunchesBut s t l ∧ SameCores s t ∧
    (∃ z, findLaunch t l = some z ∧ z.active = some p ∧ z.st = .running ∧ z.phases = x.phases + 1 ∧ z.phaseAt = s.clock ∧ z.decided = false ∧
      z.dsel = none ∧ z.choice = none ∧ ∀ r ∈ x.table, r.pc = (getPlane x p.val).pc → ∀ thr ∈ r.thrs, ∀ w, findThread x thr = some w →
        ∃ v, findThread z thr = some v ∧ v.st = .flight ∧ v.entered = w.t) ∧
    (∀ u ∈ regionTiles l x, (getTile t u).active = some p ∧ (getTile t u).cfg = (getTile s u).cfg ∧ (getTile t u).slots = [] ∧ (getTile t u).links = [] ∧
      (getTile t u).outs = [] ∧ (getTile t u).port.queue = [] ∧ (getTile t u).port.entries = if tileMode (getTile s u) p.val = 2 then x.portSet else []) ∧
    ∀ u, u ∉ regionTiles l x → { getTile t u with queues := [] } = { getTile s u with queues := [] } := by
  have hs : LaunchStep l home [] s (switchPlane s l x p) := switchPlane_step ..
  obtain ⟨z, hz, ⟨hz1, hz2, hz3, hz4, hz5, hz6, hz7⟩, -, hth⟩ := switchPlane_launch s (l := l) (x := x) p
  have he := planeSwitch_takes hh hx h ho hc hu ha
  rw [intervalRec_none hi hn] at he
  refine ⟨_, he, hs.others, hs.cores, ⟨z, hz, hz1, hz2, hz3, hz4, hz5, hz6, hz7, hth⟩, fun u hm => ?_, fun u hm => ?_⟩
  · have e := switchPlane_tiles s (l := l) (x := x) p u
    rw [if_pos hm] at e
    injection e with _ hact hcfg hslots _ houts hlinks _ _ _ _ _ hport
    exact ⟨hact, hcfg, hslots, hlinks, houts, congrArg Port.queue hport, congrArg Port.entries hport⟩
  · rw [switchPlane_tiles, if_neg hm]

end

end Sys2Proof.Machine
end

section
/-! PROOFS. RSW_APPLY (R190): a pending request is written at the tiles that it names, when no token stands in its way. -/
namespace Sys2Proof.Machine
open Sys2Proof

theorem cfgF_setField (x : Tile) (p fn f : Nat) (v : BitVec 16) : cfgF (setField x p 1 fn v) p 1 f = if f = fn then v else cfgF x p 1 f := by
  have h : p * 128 + 1 * 64 + f = p * 128 + 1 * 64 + fn ↔ f = fn := by omega
  simp only [cfgF, setField, aget_aput, h]

/-- The tile that a command of a request names. -/
def rswTile (d : Fin 4) (k : Nat) : TileId := { tileOfKey k with die := d }

section
variable (d p : Fin 4)

theorem rswWrite_cons (s : State) (e : Nat × Nat × BitVec 16) (cmds : List (Nat × Nat × BitVec 16)) : rswWrite s d p (e :: cmds) =
    rswWrite (updTile s (rswTile d e.1) fun x => setField x p.val 1 e.2.1 e.2.2) d p cmds := rfl

theorem rswWrite_onlyTilesSlices (s : State) (cmds : List (Nat × Nat × BitVec 16)) : OnlyTilesSlices s (rswWrite s d p cmds) := by
  induction cmds generalizing s with
  | nil => exact .refl s
  | cons e cmds ih => exact (updTile_onlyTilesSlices ..).trans (ih _)

theorem cfgF_rswWrite_other (s : State) {cmds : List (Nat × Nat × BitVec 16)} {u : TileId} {f : Nat}
    (h : (u, f) ∉ cmds.map fun e => (rswTile d e.1, e.2.1)) :
    cfgF (getTile (rswWrite s d p cmds) u) p.val 1 f = cfgF (getTile s u) p.val 1 f := by
  induction cmds generalizing s with
  | nil => rfl
  | cons e cmds ih =>
    obtain ⟨hne, hm⟩ := not_or.mp (mt List.mem_cons.mpr h)
    rw [rswWrite_cons, ih _ hm]
    by_cases hu : u = rswTile d e.1
    · subst hu
      rw [getTile_updTile, cfgF_setField, if_neg fun hf => hne (by rw [hf])]
    · rw [getTile_updTile_other _ _ hu]

/-- Where no two commands name one field, each field holds what its command says. -/
theorem cfgF_rswWrite (s : State) {cmds : List (Nat × Nat × BitVec 16)} (h : (cmds.map fun e => (rswTile d e.1, e.2.1)).Nodup) :
    ∀ e ∈ cmds, cfgF (getTile (rswWrite s d p cmds) (rswTile d e.1)) p.val 1 e.2.1 = e.2.2 := by
  induction cmds generalizing s with
  | nil => exact fun _ he => absurd he List.not_mem_nil
  | cons c cmds ih =>
    obtain ⟨hn, hd⟩ := List.nodup_cons.mp h
    intro e he
    rw [rswWrite_cons]
    rcases List.mem_cons.mp he with rfl | hm
    · rw [cfgF_rswWrite_other d p _ hn, getTile_updTile, cfgF_setField, if_pos rfl]
    · exact ih _ hd e hm

theorem rswWrite_sameTilesBut (s : State) (u : TileId) (fn : Nat) (v : BitVec 16) (h : rswTile d (tileKey u) = u) :
    SameTilesBut s (rswWrite s d p [(tileKey u, fn, v)]) (· = u) := by
  intro k hk
  rw [rswWrite_cons, h]
  exact getTile_updTile_other s (fun y => setField y p.val 1 fn v) hk

end

/-! ## In normal mode -/

section
variable {l : LaunchId} {s : State} {x : Launch} {r : RswReq} {rest : List RswReq} (hh : s.here = .launch l) (hx : findLaunch s l = some x)
  (hr : x.rsws = r :: rest)
include hh hx hr

theorem rswApply_waits {u : TileId} {e : Nat × List (Tok × Nat)} (hu : u ∈ regionTiles l x) (he : e ∈ (getTile s u).links) (hne : e.2 ≠ []) :
    Waits .rswApply s := by
  have hl : linksEmpty s l x = false := by
    rw [linksEmpty, List.all_eq_false]
    refine ⟨u, hu, fun ha => hne ?_⟩
    exact List.isEmpty_iff.mp (List.all_eq_true.mp ha e he)
  show execRswApply s = .next s
  simp [execRswApply, hh, hx, hr, hl]

theorem rswApply_writes (hn : r.hot = false) (he : ∀ u ∈ regionTiles l x, ∀ e ∈ (getTile s u).links, e.2 = [])
    (hd : (r.cmds.map fun e => (rswTile l.die e.1, e.2.1)).Nodup) : Completes .rswApply s fun t =>
      (SameMem s t ∧ SameLaunchesBut s t l ∧ ∃ z, findLaunch t l = some z ∧ z = { x with rsws := rest }) ∧ SameCores s t ∧
        ∀ e ∈ r.cmds, cfgF (getTile t (rswTile l.die e.1)) r.plane.val 1 e.2.1 = e.2.2 := by
  have hl : linksEmpty s l x = true :=
    List.all_eq_true.mpr fun u hu => List.all_eq_true.mpr fun e hm => List.isEmpty_iff.mpr (he u hu e hm)
  have hs := ((rswWrite_onlyTilesSlices l.die r.plane s r.cmds).step l ⟨0, 0⟩).then (setLaunch_step _ l ⟨0, 0⟩ { x with rsws := rest })
  refine ⟨setLaunch (rswWrite s l.die r.plane r.cmds) l { x with rsws := rest }, ?_, ⟨hs.mem, hs.others, _, findLaunch_setLaunch .., rfl⟩, hs.cores,
    cfgF_rswWrite l.die r.plane s hd⟩
  show execRswApply s = _
  simp [execRswApply, hh, hx, hr, hl, hn]

end

/-! ## In hot mode -/

theorem rswTile_tileKey (u : TileId) : rswTile u.die (tileKey u) = u := by
  obtain ⟨d, r, c⟩ := u
  have hr : fin64 ((d.val * 4096 + r.val * 64 + c.val) / 64) = r := by
    apply Fin.ext
    simp only [fin64, Fin.ofNat]
    omega
  have hc : fin64 (d.val * 4096 + r.val * 64 + c.val) = c := by
    apply Fin.ext
    simp only [fin64, Fin.ofNat]
    omega
  simp only [rswTile, tileOfKey, tileKey, hr, hc]

theorem ownerOf_die {s : State} {u : TileId} {l : LaunchId} (h : ownerOf s u = some l) : l.die = u.die := by
  obtain ⟨n, -, rfl⟩ := Option.map_eq_some_iff.mp h
  rfl

section
variable {u : TileId} {l : LaunchId} {s : State} {x : Launch} {r : RswReq} {rest : List RswReq} {fn : Nat} {v : BitVec 16} (hh : s.here = .tile u)
  (ho : ownerOf s u = some l) (hx : findLaunch s l = some x) (hr : x.rsws = r :: rest) (hn : r.hot = true) (hc : r.cmds = [(tileKey u, fn, v)])
include hh ho hx hr hn hc

theorem rswApplyHot_waits (hb : boxIdle s (getTile s u) (rswNet fn) = false) : Waits .rswApply s := by
  show execRswApply s = .next s
  simp [execRswApply, hh, ho, hx, hr, hn, hc, rswPart, rswIdle, hb]

theorem rswApplyHot_writes (hb : boxIdle s (getTile s u) (rswNet fn) = true) : Completes .rswApply s fun t => SameMem s t ∧ SameCores s t ∧
    SameTilesBut s t (· = u) ∧ SameLaunchesBut s t l ∧ findLaunch t l = some { x with rsws := rest } ∧ cfgF (getTile t u) r.plane.val 1 fn = v := by
  have hk : rswTile l.die (tileKey u) = u := by rw [ownerOf_die ho, rswTile_tileKey]
  let s1 := updTile s u fun y => { y with used := aset y.used (rswUsed (rswNet fn)) s.clock }
  have hs1 := updTile_onlyTilesSlices s u fun y => { y with used := aset y.used (rswUsed (rswNet fn)) s.clock }
  have hs := ((hs1.trans (rswWrite_onlyTilesSlices l.die r.plane s1 [(tileKey u, fn, v)])).step l ⟨0, 0⟩).then
    (setLaunch_step _ l ⟨0, 0⟩ { x with rsws := rest })
  have hf := cfgF_rswWrite l.die r.plane s1 (cmds := [(tileKey u, fn, v)]) (List.nodup_singleton _) _ (List.mem_singleton_self _)
  rw [hk] at hf
  refine ⟨setLaunch (rswWrite s1 l.die r.plane [(tileKey u, fn, v)]) l { x with rsws := rest }, ?_, hs.mem, hs.cores, fun k hne => ?_, hs.others,
    findLaunch_setLaunch .., hf⟩
  · show execRswApply s = _
    simp [execRswApply, hh, ho, hx, hr, hn, hc, rswPart, rswIdle, hb, s1]
  · exact (rswWrite_sameTilesBut l.die r.plane s1 u fn v hk k hne).trans (getTile_updTile_other _ _ hne)

end

end Sys2Proof.Machine
end

section
/-! PROOFS. Streams (R257 to R259, R403): an in-port injects its next token, an out-port writes its oldest, a stream completes. -/
namespace Sys2Proof.Machine
open Sys2Proof

/-- What a step of a stream leaves beside its tokens: memory, the tiles, the clusters but for records, the other launches, the clock. -/
structure StreamStep (l : LaunchId) (s t : State) : Prop where
  mem : SameMem s t
  tiles : t.tiles = s.tiles
  cores : SameCores s t
  others : SameLaunchesBut s t l
  clock : t.clock = s.clock

section
variable {l : LaunchId} {s t u : State}

theorem StreamStep.refl (l : LaunchId) (s : State) : StreamStep l s s := ⟨.refl s, rfl, .refl s, fun _ _ => rfl, rfl⟩

theorem StreamStep.trans (h : StreamStep l s t) (k : StreamStep l t u) : StreamStep l s u :=
  ⟨h.mem.trans k.mem, k.tiles.trans h.tiles, h.cores.trans k.cores, h.others.trans k.others, k.clock.trans h.clock⟩

theorem setLaunch_streamStep (s : State) (l : LaunchId) (x : Launch) : StreamStep l s (setLaunch s l x) :=
  ⟨.of_eq rfl rfl rfl rfl rfl, rfl, .of_eq rfl, fun _ hk => findLaunch_setLaunch_other s x hk, rfl⟩

theorem touch_streamStep (s : State) (l : LaunchId) (src : Option (Fin 4 × Fin 64)) (pa : Nat) (ctx : BitVec 12) (w : Bool) :
    StreamStep l s (touch s src pa ctx w) := by
  obtain ⟨ht, hl, hc⟩ := touch_sameTables s src pa ctx w
  refine ⟨touch_sameMem .., ht, .of_eq hc, fun k _ => congrArg (fun la => afind la _) hl, ?_⟩
  unfold touch
  dsimp only
  split
  · split <;> rfl
  · rfl

theorem recL_streamStep (s : State) (l : LaunchId) (r : Rec) : StreamStep l s (recL s l r) := by
  obtain ⟨hm, hc, -, -, hp⟩ := recL_frame s l r ⟨0, 0, 0⟩
  exact ⟨hm, recL_tiles .., hc, fun k _ => findLaunch_recL .., hp.1⟩

end

/-! ## The stream of a port -/

/-- The stream that stands at a port of a launch. -/
def streamAt (l : LaunchId) (p : Nat) (t : State) : Stream := match findLaunch t l with | some w => getStream w p | none => {}

/-- A launch with the stream of a port changed. -/
def onStream (x : Launch) (p : Nat) (f : Stream → Stream) : Launch := { x with streams := aupd {} x.streams p f }

@[simp] theorem getStream_onStream (x : Launch) (p : Nat) (f : Stream → Stream) : getStream (onStream x p f) p = f (getStream x p) := aget_aset_same ..

theorem streamAt_of_find {l : LaunchId} {t : State} {w : Launch} (h : findLaunch t l = some w) (p : Nat) : streamAt l p t = getStream w p := by
  simp [streamAt, h]

theorem streamAt_congr {l : LaunchId} {s t : State} (h : findLaunch t l = findLaunch s l) (p : Nat) : streamAt l p t = streamAt l p s := by
  simp only [streamAt, h]

section
variable {l : LaunchId} {s : State} {x : Launch} (hx : findLaunch s l = some x) (p : Nat) (f : Stream → Stream)
include hx

theorem updStream_of_find : updStream s l p f = setLaunch s l (onStream x p f) := updLaunch_of_find hx _

theorem updStream_streamStep : StreamStep l s (updStream s l p f) := by
  rw [updStream_of_find hx]
  exact setLaunch_streamStep ..

theorem findLaunch_updStream : findLaunch (updStream s l p f) l = some (onStream x p f) := by
  rw [updStream_of_find hx]
  exact findLaunch_setLaunch ..

theorem streamAt_updStream : streamAt l p (updStream s l p f) = f (getStream x p) :=
  (streamAt_of_find (findLaunch_updStream hx p f) p).trans (getStream_onStream ..)

end

/-- A stream whose access has gone through has no request. -/
def unasked (y : Stream) : Stream := { y with req := none }

theorem unasked_of_req {y : Stream} (h : y.req = none) : unasked y = y := by
  unfold unasked
  rw [← h]

section
variable {s : State} {l : LaunchId} {x : Launch} {p : Fin 16} {va : Word} {need : Need} {pa k : Nat} (hr : (getStream x p.val).req = none)
include hr

theorem strAccess_at (ht : translate s l.die (portTable x.portSet) x.lr.ctx va need = .ok pa k none) (thr : BitVec 8) :
    strAccess s l x p va need thr = (updStream s l p.val unasked, .at_ pa) := by
  simp only [strAccess, hr, Bool.false_eq_true, if_false, ht]
  rfl

theorem strBoth_at (hd : strHdr (getStream x p.val) = false)
    (ht : translate s l.die (portTable x.portSet) x.lr.ctx (strAddr (getStream x p.val) (getStream x p.val).next) need = .ok pa k none)
    (thr : BitVec 8) : strBoth s l x p need thr = (updStream s l p.val unasked, .at_ pa, .at_ pa) := by
  simp only [strBoth, strAccess_at hr ht, hd, Bool.false_eq_true, if_false]

end

/-! ## IN_STREAM_INJECT (R258) -/

/-- The token of a port without headers: a granule's payload. -/
def granuleTok (s : State) (y : Stream) (pa : Nat) : VTok :=
  { valid := 0xFFFF, wt := wOne, key := 0, kind := kData, fmt := strFmt y, thr := strThr y, pay := payloadOf (memRead s (pa / 64 * 64) 64) }

theorem strTok_headerless {s : State} {y : Stream} (hd : strHdr y = false) {a : Nat} (hp : isPoison s a = false) (h : Nat) : strTok s y a h = granuleTok s y a := by
  simp only [strTok, hd, hp, Bool.false_eq_true, if_false]
  rfl

section
variable {l : LaunchId} {p : Fin 16} {s : State} {x : Launch} (hh : s.here = .edge l p) (hx : findLaunch s l = some x)
include hh hx

theorem inStreamInject_waits (h : gateShut s l x = true ∨ streamSpent (getStream x p.val) = true) : Waits .inStreamInject s := by
  have hn : inReady s l x p = none := by rcases h with h | h <;> simp [inReady, h]
  show execInStreamInject s = .next s
  simp [execInStreamInject, hh, hx, hn]

theorem inStreamInject_goes {u : TileId} {d : Dir} (hp : p.val < 8) (hw : (getStream x p.val).words ≠ []) (hs : streamSpent (getStream x p.val) = false)
    (hr : x.st = .running) (hg : gateShut s l x = false) (ha : x.halted = false) (he : edgeOf s l x p.val = some (u, d))
    (hi : ∀ e ∈ aget [] (getTile s u).links (linkKey .vector d), e.2 ≠ s.clock) : execInStreamInject s = .next (inject s l x p u d) := by
  have hn : inReady s l x p = some (u, d) := by simp [inReady, Nat.not_le.mpr hp, hw, hs, hr, hg, ha, he]
  have hj : injectedNow s u d = false := List.any_eq_false.mpr fun e hm hd => hi e hm (of_decide_eq_true hd)
  simp [execInStreamInject, hh, hx, hn, hj]

end

/-- The next token of an in-port without headers: its granule's, and the stream one place further. -/
theorem inject_plain {s : State} {l : LaunchId} {x : Launch} {p : Fin 16} {u : TileId} {pa k : Nat} (hx : findLaunch s l = some x)
    (hr : (getStream x p.val).req = none) (hd : strHdr (getStream x p.val) = false)
    (ht : translate s l.die (portTable x.portSet) x.lr.ctx (strAddr (getStream x p.val) (getStream x p.val).next) .r = .ok pa k none)
    (hp : isPoison s pa = false) (d : Dir) : ∃ t, StreamStep l s t ∧
      streamAt l p.val t = { getStream x p.val with next := (getStream x p.val).next + 1 } ∧
      inject s l x p u d = pushLink t u .vector d (.vec (granuleTok s (getStream x p.val) pa)) := by
  let s1 := updStream s l p.val unasked
  let s2 := touch (touch s1 (srcOf u) pa x.lr.ctx false) (srcOf u) pa x.lr.ctx false
  have h1 : StreamStep l s s1 := updStream_streamStep hx ..
  have h12 : StreamStep l s1 s2 := (touch_streamStep ..).trans (touch_streamStep ..)
  have hf1 : findLaunch s1 l = some (onStream x p.val unasked) := findLaunch_updStream hx ..
  have hf2 : findLaunch s2 l = some (onStream x p.val unasked) := by
    rw [← hf1]
    exact congrArg (fun la => afind la _) ((touch_sameTables ..).trans (touch_sameTables ..)).2.1
  have h2 := h1.trans h12
  have hp2 : isPoison s2 pa = false := (h2.mem.2.1 pa id).2.trans hp
  have hk : strTok s2 (getStream x p.val) pa pa = granuleTok s (getStream x p.val) pa := by
    rw [strTok_headerless hd hp2, granuleTok, h2.mem.memRead]
    rfl
  refine ⟨updStream s2 l p.val fun y => { y with next := y.next + 1 }, h2.trans (updStream_streamStep hf2 ..), ?_, ?_⟩
  · rw [streamAt_updStream hf2, getStream_onStream, unasked_of_req hr]
  · rw [inject, strBoth_at hr hd ht]
    dsimp only
    rw [hk, hp2]
    rfl

theorem inStreamInject_injects {l : LaunchId} {p : Fin 16} {s : State} {x : Launch} (hh : s.here = .edge l p) (hx : findLaunch s l = some x)
    (hw : (getStream x p.val).words ≠ []) (hq : (getStream x p.val).req = none) {u : TileId} {d : Dir} {pa k : Nat} (h8 : p.val < 8)
    (hs : streamSpent (getStream x p.val) = false) (hr : x.st = .running) (hg : gateShut s l x = false) (ha : x.halted = false)
    (he : edgeOf s l x p.val = some (u, d)) (hd : strHdr (getStream x p.val) = false)
    (hi : ∀ e ∈ aget [] (getTile s u).links (linkKey .vector d), e.2 ≠ s.clock)
    (ht : translate s l.die (portTable x.portSet) x.lr.ctx (strAddr (getStream x p.val) (getStream x p.val).next) .r = .ok pa k none)
    (hp : isPoison s pa = false) : Completes .inStreamInject s fun t => SameMem s t ∧ SameCores s t ∧ SameLaunchesBut s t l ∧ SameTilesBut s t (· = u) ∧
      streamAt l p.val t = { getStream x p.val with next := (getStream x p.val).next + 1 } ∧
      aget [] (getTile t u).links (linkKey .vector d) = aget [] (getTile s u).links (linkKey .vector d) ++
        [(.vec (granuleTok s (getStream x p.val) pa), s.clock)] := by
  obtain ⟨t, ⟨hm, hti, hc, ho, hk⟩, hst, e⟩ := inject_plain (u := u) hx hq hd ht hp d
  have hl := updTile_step t u (fun y => { y with links := aupd [] y.links (linkKey .vector d) (· ++ [(.vec (granuleTok s (getStream x p.val) pa), t.clock + 0)]) })
    l ⟨0, 0⟩
  refine ⟨pushLink t u .vector d (.vec (granuleTok s (getStream x p.val) pa)), ?_, hm.trans hl.mem, hc.trans hl.cores, ho.trans hl.others, fun v hv => ?_,
    hst, ?_⟩
  · exact (inStreamInject_goes hh hx h8 hw hs hr hg ha he hi).trans (congrArg _ e)
  · exact (getTile_updTile_other _ _ hv).trans (getTile_of_tiles hti v)
  · rw [pushLink, getTile_updTile, aupd, aget_aset_same, getTile_of_tiles hti, hk]
    rfl

/-! ## OUT_STREAM_WRITE (R259) -/

/-- A stream whose oldest token has left, the stream `n` places further. -/
def popped (n : Nat) (y : Stream) : Stream :=
  { y with queue := y.queue.tail, next := y.next + n, close := y.close && decide (28 < outOcc { y with queue := y.queue.tail, next := y.next + n }) }

theorem outPop_eq (s : State) (l : LaunchId) (p n : Nat) : outPop s l p n = updStream s l p (popped n) := rfl

theorem getD_bytesOf {n i : Nat} (x : Nat) (h : i < n) : (bytesOf n x).getD i 0 = BitVec.ofNat 8 (x / 2 ^ (8 * i)) := by
  induction n generalizing x i with
  | zero => omega
  | succ n ih =>
    cases i with
    | zero => simp [bytesOf]
    | succ i =>
      have e : 2 ^ (8 * (i + 1)) = 256 * 2 ^ (8 * i) := by rw [Nat.mul_add, Nat.pow_add, Nat.mul_comm]
      rw [bytesOf, List.getD_cons_succ, ih _ (Nat.lt_of_succ_lt_succ h), Nat.div_div_eq_div_mul, e]

section
variable (s : State) (x : Launch) (t : Option TileId) (pa : Nat) (bs : List Byte)

theorem strPut_sameTables : SameTables s (strPut s x t pa bs) := (touch_sameTables ..).trans ⟨rfl, rfl, rfl⟩

theorem isPoison_setPoison (a b : Nat) (v : Bool) : isPoison (setPoison s a v) b = if b / 64 = a / 64 then v else isPoison s b := by
  simp only [isPoison, setPoison, aget_aput]

theorem strPut_sameMemBut : SameMemBut s (strPut s x t pa bs) (fun a => pa / 64 * 64 ≤ a ∧ a < pa / 64 * 64 + bs.length) (fun g => g = pa / 64) := by
  have h := touch_sameMem s (t.bind srcOf) pa x.lr.ctx true
  refine ⟨fun a ha => (aget_writeBytes_other _ _ _ ha).trans (h.1 a id), fun a ha => ⟨(h.2.1 a id).1, ?_⟩, h.2.2.1, h.2.2.2⟩
  exact ((isPoison_setPoison ..).trans (if_neg ha)).trans (h.2.1 a id).2

theorem isPoison_strPut : isPoison (strPut s x t pa bs) pa = false := (isPoison_setPoison ..).trans (if_pos rfl)

theorem isFull_strPut : isFull (strPut s x t pa bs) pa = isFull s pa := ((touch_sameMem s (t.bind srcOf) pa x.lr.ctx true).2.1 pa id).1

theorem memByte_strPut {i : Nat} (h : i < bs.length) : memByte (strPut s x t pa bs) (pa / 64 * 64 + i) = bs.getD i 0 := by
  refine (aget_writeBytes ..).trans ?_
  rw [if_pos ⟨by omega, by omega⟩, Nat.add_sub_cancel_left]

end

/-- A token past the COUNT adds to the stream's excess; the first of them raises a record. -/
theorem overCount_step {s : State} {l : LaunchId} {x : Launch} (hx : findLaunch s l = some x) (p : Nat) : StreamStep l s (overCount s l p) ∧
    streamAt l p (overCount s l p) = { getStream x p with excess := (getStream x p).excess + 1, overRec := true } := by
  let s1 := updStream s l p fun y => { y with excess := y.excess + 1, overRec := true }
  have e : overCount s l p = if (getStream x p).overRec then s1 else recL s1 l { kind := 0x17, p0 := word p } := by
    simp only [overCount, hx, s1, updStream_of_find hx]
    rfl
  have h1 : StreamStep l s s1 := updStream_streamStep hx ..
  have hz : streamAt l p s1 = { getStream x p with excess := (getStream x p).excess + 1, overRec := true } := streamAt_updStream hx ..
  rw [e]
  split
  · exact ⟨h1, hz⟩
  · exact ⟨h1.trans (recL_streamStep ..), (streamAt_congr (findLaunch_recL ..) p).trans hz⟩

section
variable {l : LaunchId} {p : Fin 16} {s : State} {x : Launch} (hh : s.here = .edge l p) (hx : findLaunch s l = some x)
  (hw : (getStream x p.val).words ≠ []) (h8 : 8 ≤ p.val) {tok : Tok} {rest : List Tok} (hq : (getStream x p.val).queue = tok :: rest)
include hh hx hw h8 hq

theorem outStreamWrite_head : execOutStreamWrite s = .next (outHead s l x p tok) := by
  simp [execOutStreamWrite, hh, hx, hq, hw, Nat.not_lt.mpr h8]

variable {v : VTok} (hv : tok = .vec v)
include hv

/-- A record has a place, and is written there. -/
theorem outStreamWrite_places {pa k : Nat} (hr : isRecord tok = true) (hd : strHdr (getStream x p.val) = false)
    (hn : (getStream x p.val).next < strCount (getStream x p.val)) (hreq : (getStream x p.val).req = none)
    (ht : translate s l.die (portTable x.portSet) x.lr.ctx (strAddr (getStream x p.val) (getStream x p.val).next) .w = .ok pa k none) :
    Completes .outStreamWrite s fun t => SameMemBut s t (fun a => a / 64 = pa / 64) (fun g => g = pa / 64) ∧ t.tiles = s.tiles ∧ SameCores s t ∧
      SameLaunchesBut s t l ∧ (∀ i, i < 64 → memByte t (pa / 64 * 64 + i) = BitVec.ofNat 8 (v.pay.toNat / 2 ^ (8 * i))) ∧ isFull t pa = isFull s pa ∧
      isPoison t pa = false ∧ (streamAt l p.val t).next = (getStream x p.val).next + 1 ∧ (streamAt l p.val t).queue = rest := by
  subst hv
  let s1 := updStream s l p.val unasked
  let s2 := strPut s1 x ((edgeOf s l x p.val).map (·.1)) pa (payloadBytes v.pay)
  have h1 : StreamStep l s s1 := updStream_streamStep hx ..
  obtain ⟨hti, hla, hcl⟩ : SameTables s1 s2 := strPut_sameTables ..
  have hf2 : findLaunch s2 l = some (onStream x p.val unasked) := (congrArg (fun la => afind la _) hla).trans (findLaunch_updStream hx ..)
  have h3 : StreamStep l s2 (outPop s2 l p.val 1) := updStream_streamStep hf2 ..
  have hl : (payloadBytes v.pay).length = 64 := bytesOf_length ..
  have hm : SameMemBut s1 s2 (fun a => a / 64 = pa / 64) (fun g => g = pa / 64) :=
    (strPut_sameMemBut ..).mono (fun a ha => by rw [hl] at ha; omega) fun _ h => h
  have he : outHead s l x p (.vec v) = outPop s2 l p.val 1 := by
    simp only [outHead, hr, Bool.or_true, if_true, decide_eq_false (Nat.not_le.mpr hn), Bool.false_eq_true, if_false, outPlace, strBoth_at hreq hd ht, hd]
    rfl
  have hz : streamAt l p.val (outPop s2 l p.val 1) = popped 1 (getStream x p.val) := by
    rw [outPop_eq, streamAt_updStream hf2, getStream_onStream, unasked_of_req hreq]
  refine ⟨_, (outStreamWrite_head hh hx hw h8 hq).trans (congrArg _ he), ((h1.mem.but _ _).trans hm).trans (h3.mem.but _ _),
    h3.tiles.trans (hti.trans h1.tiles), (h1.cores.trans (.of_eq hcl)).trans h3.cores, fun j hj => ?_, fun i hi => ?_, ?_, ?_, by rw [hz]; rfl,
    by rw [hz, popped, hq]; rfl⟩
  · exact ((h3.others j hj).trans (congrArg (fun la => afind la _) hla)).trans (h1.others j hj)
  · refine (h3.mem.1 _ id).trans ((memByte_strPut _ _ _ _ _ (by rw [hl]; exact hi)).trans ?_)
    exact getD_bytesOf _ hi
  · exact ((h3.mem.2.1 pa id).1.trans (isFull_strPut ..)).trans (h1.mem.2.1 pa id).1
  · exact (h3.mem.2.1 pa id).2.trans (isPoison_strPut ..)

/-- A token that is no record leaves; a gap skips the places that its losses would have taken. -/
theorem outStreamWrite_skips (hr : isRecord tok = false) (hd : strHdr (getStream x p.val) = false) :
    Completes .outStreamWrite s fun t => SameMem s t ∧ t.tiles = s.tiles ∧ SameCores s t ∧ SameLaunchesBut s t l ∧ (streamAt l p.val t).queue = rest ∧
      (streamAt l p.val t).next = (getStream x p.val).next +
        if v.kind = kGap ∧ (getStream x p.val).next < strCount (getStream x p.val) then v.key.toNat else 0 := by
  subst hv
  have he : outHead s l x p (.vec v) = outPop s l p.val
      (if v.kind = kGap ∧ (getStream x p.val).next < strCount (getStream x p.val) then v.key.toNat else 0) := by
    simp only [outHead, hr, hd, Bool.or_false, Bool.false_eq_true, if_false, Bool.and_eq_true, Bool.not_eq_true', decide_eq_true_eq, decide_eq_false_iff_not,
      Nat.not_le]
    split <;> rfl
  obtain ⟨hm, ht, hc, ho, -⟩ := updStream_streamStep hx p.val
    (popped (if v.kind = kGap ∧ (getStream x p.val).next < strCount (getStream x p.val) then v.key.toNat else 0))
  refine ⟨_, (outStreamWrite_head hh hx hw h8 hq).trans (congrArg _ he), hm, ht, hc, ho, ?_, ?_⟩
  · rw [outPop_eq, streamAt_updStream hx, popped, hq]
    rfl
  · rw [outPop_eq, streamAt_updStream hx]
    rfl

/-- A record past the COUNT is counted. -/
theorem outStreamWrite_exceeds (hr : isRecord tok = true) (hn : strCount (getStream x p.val) ≤ (getStream x p.val).next) :
    Completes .outStreamWrite s fun t => SameMem s t ∧ t.tiles = s.tiles ∧ SameCores s t ∧ SameLaunchesBut s t l ∧ (streamAt l p.val t).queue = rest ∧
      (streamAt l p.val t).next = (getStream x p.val).next ∧ (streamAt l p.val t).excess = (getStream x p.val).excess + 1 := by
  subst hv
  have he : outHead s l x p (.vec v) = overCount (outPop s l p.val 0) l p.val := by
    simp only [outHead, hr, Bool.or_true, if_true, decide_eq_true hn]
  obtain ⟨hs, hz⟩ := overCount_step (s := outPop s l p.val 0) (findLaunch_updStream hx p.val (popped 0)) p.val
  obtain ⟨hm, ht, hc, ho, -⟩ := (updStream_streamStep hx p.val (popped 0)).trans hs
  rw [getStream_onStream] at hz
  refine ⟨_, (outStreamWrite_head hh hx hw h8 hq).trans (congrArg _ he), hm, ht, hc, ho, ?_, ?_, ?_⟩
  · rw [hz, popped, hq]
    rfl
  · rw [hz]
    rfl
  · rw [hz]
    rfl

end

end Sys2Proof.Machine
end

section
/-! PROOFS. STREAM_COMPLETE (R259, R403, R432): a stream is over, its completion counter counts, its event is raised. -/
namespace Sys2Proof.Machine
open Sys2Proof

/-- A stream that is over. -/
def completed (y : Stream) : Stream := { y with complete := true, req := none }

/-- A stream's completion, with the record that its descriptor may ask for. -/
def finishStream (s : State) (l : LaunchId) (p : Nat) (y : Stream) : State :=
  if strEvr y then recL (updStream s l p completed) l { kind := 0x25, p0 := word p } else updStream s l p completed

section
variable {l : LaunchId} {s : State} {x : Launch} (hx : findLaunch s l = some x) (p : Nat) (y : Stream)
include hx

theorem finishStream_step : StreamStep l s (finishStream s l p y) ∧ streamAt l p (finishStream s l p y) = completed (getStream x p) := by
  have h : StreamStep l s (updStream s l p completed) := updStream_streamStep hx ..
  have hz : streamAt l p (updStream s l p completed) = completed (getStream x p) := streamAt_updStream hx ..
  unfold finishStream
  split
  · exact ⟨h.trans (recL_streamStep ..), (streamAt_congr (findLaunch_recL ..) p).trans hz⟩
  · exact ⟨h, hz⟩

theorem finishStream_pend {home : ClusterId} (hi : x.issuer = some home) : (getCl (finishStream s l p y) home).pend = (getCl s home).pend ++
    if strEvr y then [{ kind := 0x25, ctx := x.lr.ctx, handle := l.handle, p0 := word p }] else [] := by
  have hc : getCl (updStream s l p completed) home = getCl s home := by
    rw [updStream_of_find hx]
    rfl
  unfold finishStream
  split
  · rw [(recL_step (findLaunch_updStream hx p completed) hi _).pend, hc]
    rfl
  · rw [hc, List.append_nil]

end

/-- The conditions of a completion hold together. -/
theorem streamMayComplete {p : Nat} {y : Stream} (hw : y.words ≠ []) (h8 : 8 ≤ p) (hn : y.complete = false)
    (hd : strCount y ≤ y.next ∨ y.closed = true ∧ y.queue = []) : ¬ (p < 8 ∨ y.words.isEmpty ∨ y.complete ∨
      !(decide (strCount y ≤ y.next) || (y.closed && y.queue.isEmpty))) := by
  rcases hd with hd | ⟨h1, h2⟩
  · simp [Nat.not_lt.mpr h8, hw, hn, hd]
  · simp [Nat.not_lt.mpr h8, hw, hn, h1, h2]

section
variable {l : LaunchId} {p : Fin 16} {s : State} {x : Launch} (hh : s.here = .edge l p) (hx : findLaunch s l = some x)
  (hw : (getStream x p.val).words ≠ []) (h8 : 8 ≤ p.val) (hn : (getStream x p.val).complete = false)
  (hd : strCount (getStream x p.val) ≤ (getStream x p.val).next ∨ (getStream x p.val).closed = true ∧ (getStream x p.val).queue = [])
include hh hx hw h8 hn hd

theorem streamComplete_silent (hc : strCnt (getStream x p.val) = 0) :
    execStreamComplete s = .next (finishStream s l p.val (getStream x p.val)) := by
  unfold execStreamComplete
  rw [hh]
  dsimp only
  rw [hx]
  dsimp only
  rw [if_neg (streamMayComplete hw h8 hn hd), if_pos hc]
  rfl

theorem streamComplete_ends (hc : strCnt (getStream x p.val) = 0) {home : ClusterId} (hi : x.issuer = some home) : Completes .streamComplete s fun t =>
    SameMem s t ∧ t.tiles = s.tiles ∧ SameLaunchesBut s t l ∧ streamAt l p.val t = completed (getStream x p.val) ∧
      (getCl t home).pend = (getCl s home).pend ++
        if strEvr (getStream x p.val) then [{ kind := 0x25, ctx := x.lr.ctx, handle := l.handle, p0 := word p.val }] else [] := by
  obtain ⟨⟨hm, ht, -, ho, -⟩, hz⟩ := finishStream_step hx p.val (getStream x p.val)
  exact ⟨_, streamComplete_silent hh hx hw h8 hn hd hc, hm, ht, ho, hz, finishStream_pend hx p.val _ hi⟩

theorem streamComplete_counting {pa k : Nat} (hc : strCnt (getStream x p.val) ≠ 0) (hreq : (getStream x p.val).req = none)
    (ht : translate s l.die (portTable x.portSet) x.lr.ctx (strCnt (getStream x p.val)) .w = .ok pa k none) : execStreamComplete s =
      .next (finishStream (bumpAt (updStream s l p.val unasked) ((edgeOf s l x p.val).bind fun e => srcOf e.1) x.lr.ctx pa) l p.val (getStream x p.val)) := by
  unfold execStreamComplete
  rw [hh]
  dsimp only
  rw [hx]
  dsimp only
  rw [if_neg (streamMayComplete hw h8 hn hd), if_neg hc, strAccess_at hreq ht]
  rfl

/-- The completion counter counts at its granule, which is then full (R403). -/
theorem streamComplete_counts {pa k : Nat} (hc : strCnt (getStream x p.val) ≠ 0) (hreq : (getStream x p.val).req = none)
    (ht : translate s l.die (portTable x.portSet) x.lr.ctx (strCnt (getStream x p.val)) .w = .ok pa k none) (hp : parkedAll s = []) :
    Completes .streamComplete s fun t => SameMemBut s t (fun a => pa ≤ a ∧ a < pa + 8) (fun g => g = pa / 64) ∧ memWord t pa = memWord s pa + 1 ∧
      isFull t pa = true ∧ t.tiles = s.tiles ∧ streamAt l p.val t = completed (getStream x p.val) := by
  let s1 := updStream s l p.val unasked
  let src := (edgeOf s l x p.val).bind fun e => srcOf e.1
  let s2 := fillGran s1 src x.lr.ctx pa (bytesOf 8 (memWord s1 pa + 1).toNat)
  have h1 : StreamStep l s s1 := updStream_streamStep hx ..
  have hb : bumpAt s1 src x.lr.ctx pa = s2 := by
    have hm : memWord (touch s1 src pa x.lr.ctx true) pa = memWord s1 pa := (touch_sameMem ..).memWord _
    exact settle_fillGran _ _ _ _ _ ((parkedAll_congr h1.tiles).trans hp)
  obtain ⟨hti, hla, -⟩ : SameTables s1 s2 := fillGran_sameTables ..
  have hf2 : findLaunch s2 l = some (onStream x p.val unasked) := (congrArg (fun la => afind la _) hla).trans (findLaunch_updStream hx ..)
  obtain ⟨⟨h3, h3t, -⟩, hz⟩ := finishStream_step hf2 p.val (getStream x p.val)
  have hm : SameMemBut s1 s2 (fun a => pa ≤ a ∧ a < pa + 8) (fun g => g = pa / 64) := by
    have h := fillGran_sameMemBut s1 src x.lr.ctx pa (bytesOf 8 (memWord s1 pa + 1).toNat)
    rwa [bytesOf_length] at h
  have hr : memRead s2 pa 8 = bytesOf 8 (memWord s1 pa + 1).toNat := by
    have h := memRead_fillGran_mid s1 src x.lr.ctx pa [] (bytesOf 8 (memWord s1 pa + 1).toNat) [] (List.append_nil _).symm
    rwa [bytesOf_length] at h
  refine ⟨finishStream s2 l p.val (getStream x p.val), ?_, ((h1.mem.but _ _).trans hm).trans (h3.but _ _), ?_, ?_, h3t.trans (hti.trans h1.tiles), ?_⟩
  · exact (streamComplete_counting hh hx hw h8 hn hd hc hreq ht).trans (by rw [← hb])
  · rw [h3.memWord, memWord_of_memRead hr, h1.mem.memWord]
    exact BitVec.ofNat_toNat ..
  · exact (h3.2.1 pa id).1.trans (isFull_fillGran ..)
  · rw [hz, getStream_onStream]
    rfl

end
end Sys2Proof.Machine
end

section
/-! PROOFS. Threads, phases, planes and streams: each move's lemmas, in the order of the obligation. -/
namespace Sys2Proof.Machine
open Sys2Proof

/-- A launch's step that leaves memory and the other launches, and of its own launch says `q`. -/
def LaunchOnly (s t : State) (l : LaunchId) (q : Launch → Prop) : Prop := SameMem s t ∧ SameLaunchesBut s t l ∧ ∃ z, findLaunch t l = some z ∧ q z

theorem setLaunch_only (s : State) (l : LaunchId) {z : Launch} {q : Launch → Prop} (h : q z) : LaunchOnly s (setLaunch s l z) l q :=
  ⟨(setLaunch_streamStep s l z).mem, (setLaunch_streamStep s l z).others, z, findLaunch_setLaunch .., h⟩

theorem LaunchOnly.after {s t u : State} {l : LaunchId} {q r : Launch → Prop} (h : StreamStep l s t) (k : LaunchOnly t u l q) (hq : ∀ z, q z → r z) :
    LaunchOnly s u l r := by
  obtain ⟨hm, ho, z, hz, hqz⟩ := k
  exact ⟨h.mem.trans hm, h.others.trans ho, z, hz, hq z hqz⟩

/-! ## The end of a phase (R186 to R189) -/

section
variable {l : LaunchId} {s : State} {x : Launch} (hx : findLaunch s l = some x) (hl : liveThreads x ≠ 0) (hc : ctxState s l.die x.lr.ctx = 1)
  {held : Bool} (hh : held = true ∨ pairHolds s l x = false)
include hx hl hc hh

theorem atBoundary_chosen (hd : x.dsel = none) : (atBoundary s l held).tiles = s.tiles ∧ LaunchOnly s (atBoundary s l held) l (ChosenRows x) := by
  rw [atBoundary_decides hx hl hc hh hd]
  exact ⟨rfl, setLaunch_only s l (decidedBlock_rows x)⟩

theorem atBoundary_switching {p : Fin 4} (hd : x.dsel = some (.plane p)) (hv : (getPlane x p.val).st ≠ .invalid) :
    (atBoundary s l held).tiles = s.tiles ∧ LaunchOnly s (atBoundary s l held) l fun z => z = { x with st := .switching p } := by
  rw [atBoundary_switches hx hl hc hh hd hv]
  exact ⟨rfl, setLaunch_only s l rfl⟩

end

section
variable {l : LaunchId} {s : State} {x : Launch} {home : ClusterId} (hh : s.here = .launch l) (hx : findLaunch s l = some x)
  (hb : x.st = .running) (ho : phaseOver s l x = true) (hq : ∀ u ∈ regionTiles l x, (getTile s u).drops = []) (hd : x.drainAt = none)
include hh hx hb ho hq hd

/-- A launch whose last thread has ended, and whose out-streams are done, ends. -/
theorem phaseEnd_ends (hi : x.issuer = some home) (hv : (getCl s home).ivbase.getLsbD 0 = false) (hl : liveThreads x = 0) (hs : outsDone x = true) :
    Completes .phaseEnd s fun t => findLaunch t l = none ∧ SameLaunchesBut s t l ∧ (∀ u ∈ regionTiles l x, (getTile t u).owner = none) ∧
      SameTilesBut s t (· ∈ regionTiles l x) ∧
      { kind := 0x22, ctx := x.lr.ctx, handle := l.handle, p0 := if x.exact then 1 else 0 } ∈ (getCl t home).pend := by
  have he := phaseEnd_running hh hx hb (phaseEndDue_running hb ho hd (.inr hs)) hq (drainedThrs_of_liveThreads hl)
  have hf : findLaunch (setLaunch s l (undrained x)) l = some (undrained x) := findLaunch_setLaunch ..
  rw [atBoundary_ends hf hl] at he
  obtain ⟨h1, h2, h3, h4, h5⟩ := launchEnd_ends hf hi hv
  exact ⟨_, he, h1, (setLaunch_streamStep s l (undrained x)).others.trans h2, h3, h4, h5⟩

variable (hl : liveThreads x ≠ 0) (hst : x.stopThr = []) (hc : ctxState s l.die x.lr.ctx = 1) (hr : (getDie s l.die).armed = [])
include hl hst hc hr

theorem phaseEnd_decides (hn : x.dsel = none) : Completes .phaseEnd s fun t => t.tiles = s.tiles ∧ LaunchOnly s t l (ChosenRows x) := by
  have he := phaseEnd_running hh hx hb (phaseEndDue_running hb ho hd (.inl hl)) hq (drainedThrs_of_stopThr hst)
  obtain ⟨ht, hz⟩ := atBoundary_chosen (held := false) (findLaunch_setLaunch s l (undrained x)) hl hc (.inr (pairHolds_unarmed _ hr)) hn
  exact ⟨_, he, ht, hz.after (setLaunch_streamStep s l (undrained x)) fun _ => ChosenRows.congr (x := x) (y := undrained x) rfl rfl rfl⟩

theorem phaseEnd_switches {p : Fin 4} (hn : x.dsel = some (.plane p)) (hv : (getPlane x p.val).st ≠ .invalid) :
    Completes .phaseEnd s fun t => t.tiles = s.tiles ∧ LaunchOnly s t l fun z => z.st = .switching p ∧ z.dsel = x.dsel := by
  have he := phaseEnd_running hh hx hb (phaseEndDue_running hb ho hd (.inl hl)) hq (drainedThrs_of_stopThr hst)
  obtain ⟨ht, hz⟩ := atBoundary_switching (held := false) (findLaunch_setLaunch s l (undrained x)) hl hc (.inr (pairHolds_unarmed _ hr)) hn hv
  exact ⟨_, he, ht, hz.after (setLaunch_streamStep s l (undrained x)) fun z e => ⟨by rw [e], by rw [e]; rfl⟩⟩

end

/-- Settles O55: each move by its own lemmas — what it does to its launch's entry, and a frame of steps that compose. -/
theorem threadsPhasesAndStreams : Obligations.ThreadsPhasesAndStreams := by
  unfold Obligations.ThreadsPhasesAndStreams
  refine ⟨fun l thr s x y p home hh hx hy ha hi => ⟨?_, ?_, ?_⟩, fun l s x home hh hx hi => ?_,
    fun u l s x r rest fn v hh ho hx hr hn hc _ => ⟨rswApplyHot_waits hh ho hx hr hn hc, rswApplyHot_writes hh ho hx hr hn hc⟩,
    fun l p s x hh hx hw hreq => ⟨?_, ?_, ?_, ?_⟩⟩
  -- a thread retires
  · exact fun hm hs => threadRetire_waits hh hx hy hm hs
  · intro hs ho hk
    obtain ⟨t, z, he, hm, ht, hc, hl, hd, hz, hzs⟩ := threadRetire_stops hh hx hy hi hs ho hk
    exact ⟨t, he, hm, ht, hc, hl, hd, z, hz, hzs⟩
  · intro hm hf ht
    exact ⟨retired_ends hh hx hy ha hi hm hf ht, fun next he => retired_holds hh hx hy ha hi hm hf ht he,
      fun next he hn => retired_joins hh hx hy ha hi hm hf ht he hn, fun next he hn h1 h2 => retired_stays hh hx hy ha hi hm hf ht he hn h1 h2⟩
  -- a launch: its rectangle, the scheduler, the phase's end, the plane switch, a request in normal mode
  · refine ⟨fun r c hw hc hb hr => ⟨fun hd hg => launchPlace_gateWaits hh hx hw hc hb hr hd hg, fun hd hg => launchPlace_allots hh hx hw hc hb hr hd hg,
        fun hd => launchPlace_waitsOnce hh hx hw hc hb hr hd⟩, fun h => launchPlace_waits hh hx h,
      fun pc hb hc hn => ⟨fun p hp => ⟨_, schedulerLoad_asks hh hx hb hc hn hp, setLaunch_only s l rfl, rfl, rfl⟩, schedulerLoad_waits hh hx hb hc hn⟩,
      ⟨phaseEnd_waits hh hx, fun hb hd hl hc => ⟨fun hn => ?_, fun p hn hv => ?_⟩, fun hb => ⟨?_, ?_, ?_⟩⟩,
      planeSwitch_waits hh hx, fun p h => ?_, fun h => ?_, fun p h => ⟨planeSwitch_held hh hx h, ?_, ?_⟩, ?_, ?_⟩
    · exact ⟨_, phaseEnd_atBoundary hh hx hb hd, atBoundary_chosen hx hl hc (.inl rfl) hn⟩
    · exact ⟨_, phaseEnd_atBoundary hh hx hb hd, atBoundary_switching hx hl hc (.inl rfl) hn hv⟩
    · exact fun ho => phaseEnd_waits hh hx (phaseEndDue_notOver hb ho)
    · exact fun ho hq hl hs => phaseEnd_ends hh hx hb ho hq.1 hq.2.2 hi hq.2.1 hl hs
    · exact fun ho hq hl hst _ hc hr => ⟨phaseEnd_decides hh hx hb ho hq.1 hq.2.2 hl hst hc hr,
        fun p hn hv => phaseEnd_switches hh hx hb ho hq.1 hq.2.2 hl hst hc hr hn hv⟩
    · obtain ⟨hs, ht, hz⟩ := loseDsel_step hx hi p
      exact ⟨_, planeSwitch_lost hh hx h, ⟨hs.mem, hs.others, hz⟩, ht, hs.cores, hs.pend⟩
    · exact ⟨_, planeSwitch_again hh hx h, setLaunch_only s l rfl, rfl, (setLaunch_streamStep s l _).cores⟩
    · intro q pa k ho hc hu ha hn hq hp _ _ ht
      obtain ⟨t, he, hl, hco, hiv, hm, ⟨hf, h0, h8, hcl⟩, hz⟩ := planeSwitch_records hh hx hi h ho hc hu ha hn hq hp ht
      exact ⟨t, he, hl, hco, hiv, hm, hf, h0, h8, hcl, hz⟩
    · exact fun ho hc hu ha hn => planeSwitch_quiet hh hx hi h ho hc hu ha hn
    · exact fun r rest hr hn he hd _ => rswApply_writes hh hx hr hn he hd
    · exact fun r rest u e hr _ hu he hne => rswApply_waits hh hx hr hu he hne
  -- a stream
  · exact fun u d pa k h8 hs hr hg ha he hd hi ht hp => inStreamInject_injects hh hx hw hreq h8 hs hr hg ha he hd hi ht hp
  · exact fun _ h => inStreamInject_waits hh hx h
  · exact fun tok rest h8 hq => ⟨fun v pa k hv hr hd hn ht => outStreamWrite_places hh hx hw h8 hq hv hr hd hn hreq ht,
      fun v hv hr hd => outStreamWrite_skips hh hx hw h8 hq hv hr hd, fun v hv hr hn => outStreamWrite_exceeds hh hx hw h8 hq hv hr hn⟩
  · exact fun h8 hn hd => ⟨fun home hc hi => streamComplete_ends hh hx hw h8 hn hd hc hi,
      fun pa k hc ht hp => streamComplete_counts hh hx hw h8 hn hd hc hreq ht hp⟩

end Sys2Proof.Machine
end

section
/-! PROOFS. The encodings (R34 to R47): each field code reads back as its field, each word is cut into the fields that it was put together from, and so
each format's decoder answers the instruction that was encoded. -/
namespace Sys2Proof.Machine
open Sys2Proof

/-! ## Field codes (R35 to R43) -/

@[simp] theorem tyOfCode_tyCode (t : Ty) : tyOfCode (tyCode t) = some t := by cases t <;> rfl
@[simp] theorem rmOfCode_rmCode (r : Rm) : rmOfCode (rmCode r) = r := by cases r <;> rfl
@[simp] theorem ovOfCode_ovCode (o : Ov) : ovOfCode (ovCode o) = o := by cases o <;> rfl
@[simp] theorem vmOfCode_vmCode (v : Vm) : vmOfCode (vmCode v) = some v := by cases v <;> rfl
@[simp] theorem clsOfCode_clsCode (c : Cls) : clsOfCode (clsCode c) = some c := by cases c <;> rfl
@[simp] theorem spaceOfCode_spaceCode (p : Space) : spaceOfCode (spaceCode p) = some p := by cases p <;> rfl
@[simp] theorem scopeOfCode_scopeCode (p : Scope) : scopeOfCode (scopeCode p) = some p := by cases p <;> rfl
@[simp] theorem halfOfCode_halfCode (h : Half) : halfOfCode (halfCode h) = some h := by cases h <;> rfl

@[simp] theorem srcOfCode_srcCode (s : Src) : srcOfCode (srcCode s) = some s := by
  cases s with
  | queue i => revert i; decide
  | const k => revert k; decide
  | _ => rfl

@[simp] theorem rinOfCode_rinCode (a : RIn) : rinOfCode (rinCode a) = a := by
  cases a with
  | link d => cases d <;> rfl
  | _ => rfl

@[simp] theorem rctlOfCode_rctlCode (c : RCtl) : rctlOfCode (rctlCode c) = some c := by
  cases c with
  | link d => cases d <;> rfl
  | o3 => rfl

@[simp] theorem routOfCode_routCode (t : ROut) : routOfCode (routCode t) = some t := by
  cases t with
  | link d => cases d <;> rfl
  | _ => rfl

/-! ## Opcodes (R53) -/

@[simp] theorem nodeOpOfCode_nodeOpCode (op : NodeOp) : nodeOpOfCode (nodeOpCode op) = some op := by cases op <;> rfl
@[simp] theorem memOpOfCode_memOpCode (op : MemOp) : memOpOfCode (memOpCode op) = some op := by cases op <;> rfl
@[simp] theorem matOpOfCode_matOpCode (op : MatOp) : matOpOfCode (matOpCode op) = some op := by cases op <;> rfl
@[simp] theorem coreOpOfCode_coreOpCode (op : CoreOp) : coreOpOfCode (coreOpCode op) = some op := by cases op <;> rfl

/-- The opcodes of memory nodes are none of format N. -/
@[simp] theorem nodeOpOfCode_memOpCode (op : MemOp) : nodeOpOfCode (memOpCode op) = none := by cases op <;> rfl

theorem nodeOpCode_range (op : NodeOp) : 0 < nodeOpCode op ∧ nodeOpCode op < 512 := by cases op <;> decide
theorem memOpCode_range (op : MemOp) : 0 < memOpCode op ∧ memOpCode op < 512 := by cases op <;> decide
theorem matOpCode_lt (op : MatOp) : matOpCode op < 512 := by cases op <;> decide
/-- OPC 0x1FF is that of a format E word (R45). -/
theorem coreOpCode_lt (op : CoreOp) : coreOpCode op < 511 := by cases op <;> decide

@[simp] theorem view_nodeInstr (op : NodeOp) (w : NWord) : view (nodeInstr op w) = .node op w := by cases op <;> rfl
@[simp] theorem view_memInstr (op : MemOp) (w : MWord) : view (memInstr op w) = .mem op w := by cases op <;> rfl
@[simp] theorem view_matInstr (op : MatOp) (w : XWord) : view (matInstr op w) = .matrix op w := by cases op <;> rfl
@[simp] theorem view_coreInstr (op : CoreOp) (w : CWord) : view (coreInstr op w) = .core op w := by cases op <;> rfl

theorem toNat_ofNat9 {n : Nat} (h : n < 512) : (BitVec.ofNat 9 n).toNat = n := by simp [Nat.mod_eq_of_lt h]

/-! ## One bit of a word that is put together from fields -/

theorem bit_append_low {n m i : Nat} (a : BitVec n) (b : BitVec m) (h : i < m) : bit (a ++ b) i = bit b i := by
  simp [bit, BitVec.getLsbD_append, h]

theorem bit_append_high {n m i : Nat} (a : BitVec n) (b : BitVec m) (h : m ≤ i) : bit (a ++ b) i = bit a (i - m) := by
  simp [bit, BitVec.getLsbD_append, Nat.not_lt.mpr h]

@[simp] theorem bit_zero {n : Nat} (i : Nat) : bit (0#n) i = false := by simp [bit]
@[simp] theorem bit_ofBool (b : Bool) : bit (BitVec.ofBool b) 0 = b := by cases b <;> rfl

/-! ## Formats N and M (R35, R40) -/

theorem opcode_wordN (op : NodeOp) (w : NWord) : ((wordN op w).extractLsb' 55 9).toNat = nodeOpCode op := by
  have h : (wordN op w).extractLsb' 55 9 = BitVec.ofNat 9 (nodeOpCode op) := by
    simp (disch := decide) only [wordN, BitVec.extractLsb'_append_eq_of_le, Nat.reduceSub, BitVec.extractLsb'_eq_self]
  rw [h, toNat_ofNat9 (nodeOpCode_range op).2]

theorem fieldsN_wordN (op : NodeOp) (w : NWord) : fieldsN (wordN op w) = .ok w := by
  simp (disch := decide) only [fieldsN, wordN, bit_append_low, bit_append_high, BitVec.extractLsb'_append_eq_of_le,
    BitVec.extractLsb'_append_eq_of_add_le, BitVec.extractLsb'_eq_self, Nat.reduceSub]
  simp

theorem opcode_wordM (op : MemOp) (w : MWord) : ((wordM op w).extractLsb' 55 9).toNat = memOpCode op := by
  have h : (wordM op w).extractLsb' 55 9 = BitVec.ofNat 9 (memOpCode op) := by
    simp (disch := decide) only [wordM, BitVec.extractLsb'_append_eq_of_le, Nat.reduceSub, BitVec.extractLsb'_eq_self]
  rw [h, toNat_ofNat9 (memOpCode_range op).2]

theorem fieldsM_wordM (op : MemOp) (w : MWord) : fieldsM (wordM op w) = .ok w := by
  simp (disch := decide) only [fieldsM, wordM, bit_append_low, bit_append_high, BitVec.extractLsb'_append_eq_of_le,
    BitVec.extractLsb'_append_eq_of_add_le, BitVec.extractLsb'_eq_self, Nat.reduceSub]
  simp

/-- A slot that holds a node word that the loader's check passes holds its instruction (R52). -/
theorem decodeSlot_wordN {op : NodeOp} {w : NWord} (h : nodeCheck op w = none) : decodeSlot (wordN op w) = .ok (some (nodeInstr op w)) := by
  have h0 : nodeOpCode op ≠ 0 := (nodeOpCode_range op).1.ne'
  simp only [decodeSlot, opcode_wordN, h0, if_false, nodeOpOfCode_nodeOpCode, fieldsN_wordN, h]

theorem decodeSlot_wordM {op : MemOp} {w : MWord} (h : memCheck op w = none) : decodeSlot (wordM op w) = .ok (some (memInstr op w)) := by
  have h0 : memOpCode op ≠ 0 := (memOpCode_range op).1.ne'
  simp only [decodeSlot, opcode_wordM, h0, if_false, nodeOpOfCode_memOpCode, memOpOfCode_memOpCode, fieldsM_wordM, h]

theorem encode_nodeInstr (op : NodeOp) (w : NWord) : encode (nodeInstr op w) = .word (wordN op w) := by
  unfold encode
  rw [view_nodeInstr]

theorem encode_memInstr (op : MemOp) (w : MWord) : encode (memInstr op w) = .word (wordM op w) := by
  unfold encode
  rw [view_memInstr]

/-- Settles O4: a word is cut into the fields that it was put together from, and each field's code reads back. -/
theorem decodeEncodeSlot : Obligations.DecodeEncodeSlot :=
  ⟨fun op w h => ⟨encode_nodeInstr op w, decodeSlot_wordN h⟩, fun op w h => ⟨encode_memInstr op w, decodeSlot_wordM h⟩⟩

/-! ## Format X (R41) -/

theorem opcode_wordX (op : MatOp) (w : XWord) : ((wordX op w).extractLsb' 55 9).toNat = matOpCode op := by
  have h : (wordX op w).extractLsb' 55 9 = BitVec.ofNat 9 (matOpCode op) := by
    simp (disch := decide) only [wordX, BitVec.extractLsb'_append_eq_of_le, Nat.reduceSub, BitVec.extractLsb'_eq_self]
  rw [h, toNat_ofNat9 (matOpCode_lt op)]

theorem decodeMatrix_wordX {op : MatOp} {w : XWord} (h : matrixOk op w = true) : decodeMatrix (wordX op w) = some (matInstr op w) := by
  rw [decodeMatrix, opcode_wordX]
  simp (disch := decide) only [wordX, bit_append_low, bit_append_high, BitVec.extractLsb'_append_eq_of_le,
    BitVec.extractLsb'_append_eq_of_add_le, BitVec.extractLsb'_eq_self, Nat.reduceSub]
  simp [h]

theorem encode_matInstr (op : MatOp) (w : XWord) : encode (matInstr op w) = .word (wordX op w) := by
  unfold encode
  rw [view_matInstr]

/-! ## Formats C and E (R44, R45) -/

theorem opcode_wordC (op : CoreOp) (w : CWord) : ((wordC op w).extractLsb' 55 9).toNat = coreOpCode op := by
  have h : (wordC op w).extractLsb' 55 9 = BitVec.ofNat 9 (coreOpCode op) := by
    simp (disch := decide) only [wordC, BitVec.extractLsb'_append_eq_of_le, Nat.reduceSub, BitVec.extractLsb'_eq_self]
  rw [h, toNat_ofNat9 (Nat.lt_of_lt_of_le (coreOpCode_lt op) (by decide))]

theorem long_wordC (op : CoreOp) (w : CWord) : bit (wordC op w) 54 = w.long := by
  simp (disch := decide) only [wordC, bit_append_low, bit_append_high, Nat.reduceSub, bit_ofBool]

theorem imm_wordC (op : CoreOp) (w : CWord) : (wordC op w).extractLsb' 0 32 = w.imm.extractLsb' 0 32 := by
  simp (disch := decide) only [wordC, BitVec.extractLsb'_append_eq_of_add_le, BitVec.extractLsb'_eq_self]

/-- A core word whose immediate, widened as R44 and R45 say, is the instruction's, and whose format E word is one where L is 1. -/
theorem decodeCore_wordC {op : CoreOp} {w : CWord} {e : Word} (hok : coreOk op w = true)
    (himm : (if w.long = true then e.extractLsb' 0 32 ++ w.imm.extractLsb' 0 32 else (w.imm.extractLsb' 0 32).signExtend 64) = w.imm)
    (he : w.long = false ∨ (e.extractLsb' 55 9 = 0x1FF ∧ e.extractLsb' 32 23 = 0)) : decodeCore (wordC op w) e = coreInstr op w := by
  have hext : coreOpCode op ≠ 0x1FF := (coreOpCode_lt op).ne
  simp only [decodeCore, opcode_wordC, hext, if_false, coreOpOfCode_coreOpCode, long_wordC, imm_wordC, himm]
  simp (disch := decide) only [wordC, BitVec.extractLsb'_append_eq_of_le, BitVec.extractLsb'_append_eq_of_add_le, BitVec.extractLsb'_eq_self, Nat.reduceSub,
    BitVec.toNat_ofNat, Nat.reducePow, Nat.mod_eq_of_lt w.xd.2, Nat.mod_eq_of_lt w.xa.2, Nat.mod_eq_of_lt w.xb.2, Fin.ofNat_val_eq_self]
  rw [if_pos ⟨hok, he⟩]

/-- The immediate of a word with L = 0 is the sign-extended IMM32 (R44). -/
theorem immShort_of_coreOk {op : CoreOp} {w : CWord} (hok : coreOk op w = true) (hl : w.long = false) : immShort w.imm = true := by
  simp only [coreOk, Bool.and_eq_true] at hok
  obtain ⟨⟨_, himm⟩, _⟩ := hok
  revert himm
  split
  · simp +contextual [immShort]
  · simp [hl]
  · simp
  · simp +contextual

/-- L = 1 stands on instructions that read IMM32 alone (R45). -/
theorem wide_of_coreOk {op : CoreOp} {w : CWord} (hok : coreOk op w = true) (hl : w.long = true) : (coreRule op).imm = .wide := by
  simp only [coreOk, Bool.and_eq_true] at hok
  obtain ⟨⟨_, himm⟩, _⟩ := hok
  revert himm
  split
  case h_2 h => exact fun _ => h
  all_goals simp [hl]

theorem decodeCore_short {op : CoreOp} {w : CWord} (hok : coreOk op w = true) (hl : w.long = false) (e : Word) :
    decodeCore (wordC op w) e = coreInstr op w := by
  have himm : (w.imm.setWidth 32).signExtend 64 = w.imm := of_decide_eq_true (immShort_of_coreOk hok hl)
  refine decodeCore_wordC hok ?_ (.inl hl)
  rw [if_neg (by simp [hl]), ← BitVec.setWidth_eq_extractLsb' (by decide), himm]

theorem wantsExtension_wordC {op : CoreOp} {w : CWord} (hok : coreOk op w = true) (hl : w.long = true) : wantsExtension (wordC op w) = true := by
  simp only [wantsExtension, long_wordC, opcode_wordC, hl, coreOpOfCode_coreOpCode, wide_of_coreOk hok hl, decide_true, Bool.and_self]

theorem decodeCore_long {op : CoreOp} {w : CWord} (hok : coreOk op w = true) (hl : w.long = true) :
    decodeCore (wordC op w) (wordE w) = coreInstr op w := by
  have hlow : (wordE w).extractLsb' 0 32 = w.imm.extractLsb' 32 32 := by
    rw [wordE, if_pos hl, BitVec.extractLsb'_append_eq_of_add_le (by decide), BitVec.extractLsb'_eq_self]
  have hopc : (wordE w).extractLsb' 55 9 = 0x1FF := by
    simp (disch := decide) only [wordE, hl, if_true, BitVec.extractLsb'_append_eq_of_le, BitVec.extractLsb'_eq_self, Nat.reduceSub]
    rfl
  have hmid : (wordE w).extractLsb' 32 23 = 0 := by
    simp (disch := decide) only [wordE, hl, if_true, BitVec.extractLsb'_append_eq_of_le, BitVec.extractLsb'_append_eq_of_add_le,
      BitVec.extractLsb'_eq_self, Nat.reduceSub]
    rfl
  refine decodeCore_wordC hok ?_ (.inr ⟨hopc, hmid⟩)
  rw [if_pos hl, hlow]
  exact BitVec.extractLsb'_append_extractLsb'_eq_extractLsb' (by decide) |>.trans BitVec.extractLsb'_eq_self

theorem encode_coreInstr (op : CoreOp) (w : CWord) :
    encode (coreInstr op w) = if w.long then .pair (wordC op w) (wordE w) else .word (wordC op w) := by
  unfold encode
  rw [view_coreInstr]

/-! ## Format G (R43) -/

theorem wordG_fields (gop : Nat) (a b : BitVec 3) (c : RCtl) (t f : BitVec 3) :
    let w := wordG gop a b c t f
    w.extractLsb' 28 4 = BitVec.ofNat 4 gop ∧ w.extractLsb' 25 3 = a ∧ w.extractLsb' 22 3 = b ∧ w.extractLsb' 19 3 = rctlCode c ∧
      w.extractLsb' 16 3 = t ∧ w.extractLsb' 13 3 = f ∧ w.extractLsb' 0 13 = 0 := by
  simp (disch := decide) only [wordG, BitVec.extractLsb'_append_eq_of_le, BitVec.extractLsb'_append_eq_of_add_le,
    BitVec.extractLsb'_eq_self, Nat.reduceSub]
  trivial

theorem decodeRouter_steer (a : RIn) (c : RCtl) (t f : ROut) :
    decodeRouter (wordG 1 (rinCode a) 0 c (routCode t) (routCode f)) = .ok (some (.steer a c t f)) := by
  obtain ⟨hg, ha, hb, hc, ht, hf, hz⟩ := wordG_fields 1 (rinCode a) 0 c (routCode t) (routCode f)
  simp only [decodeRouter, hg, ha, hb, hc, ht, hf, hz]
  simp

theorem decodeRouter_carry (a b : RIn) (c : RCtl) (t : ROut) :
    decodeRouter (wordG 2 (rinCode a) (rinCode b) c (routCode t) 0) = .ok (some (.carry a b c t)) := by
  obtain ⟨hg, ha, hb, hc, ht, hf, hz⟩ := wordG_fields 2 (rinCode a) (rinCode b) c (routCode t) 0
  simp only [decodeRouter, hg, ha, hb, hc, ht, hf, hz]
  simp

theorem decodeRouter_inv (a : RIn) (c : RCtl) (t : ROut) :
    decodeRouter (wordG 3 (rinCode a) 0 c (routCode t) 0) = .ok (some (.inv a c t)) := by
  obtain ⟨hg, ha, hb, hc, ht, hf, hz⟩ := wordG_fields 3 (rinCode a) 0 c (routCode t) 0
  simp only [decodeRouter, hg, ha, hb, hc, ht, hf, hz]
  simp

theorem decodeRouter_merge (a b : RIn) (c : RCtl) (t : ROut) :
    decodeRouter (wordG 4 (rinCode a) (rinCode b) c (routCode t) 0) = .ok (some (.merge a b c t)) := by
  obtain ⟨hg, ha, hb, hc, ht, hf, hz⟩ := wordG_fields 4 (rinCode a) (rinCode b) c (routCode t) 0
  simp only [decodeRouter, hg, ha, hb, hc, ht, hf, hz]
  simp

/-! ## Format W (R46, R47) -/

section
variable (fn : Nat) (v : BitVec 16)

theorem streamWord_element : (streamWord fn v).extractLsb' 22 10 = 0x3FF := by
  simp (disch := decide) only [streamWord, BitVec.extractLsb'_append_eq_of_le, BitVec.extractLsb'_eq_self, Nat.reduceSub]
  rfl

theorem streamWord_fn : (streamWord fn v).extractLsb' 16 6 = BitVec.ofNat 6 fn := by
  simp (disch := decide) only [streamWord, BitVec.extractLsb'_append_eq_of_le, BitVec.extractLsb'_append_eq_of_add_le, BitVec.extractLsb'_eq_self,
    Nat.reduceSub]

theorem streamWord_value : (streamWord fn v).extractLsb' 0 16 = v := by
  simp (disch := decide) only [streamWord, BitVec.extractLsb'_append_eq_of_add_le, BitVec.extractLsb'_eq_self]

end

theorem tileWord_fields (r c : BitVec 5) (fn : BitVec 6) (v : BitVec 16) :
    let w := r ++ c ++ fn ++ v
    w.extractLsb' 22 10 = r ++ c ∧ w.extractLsb' 27 5 = r ∧ w.extractLsb' 22 5 = c ∧ w.extractLsb' 16 6 = fn ∧ w.extractLsb' 0 16 = v := by
  simp (disch := decide) only [BitVec.extractLsb'_append_eq_of_le, BitVec.extractLsb'_append_eq_of_add_le,
    BitVec.extractLsb'_eq_self, Nat.reduceSub, and_self]

/-- A tile command never names element 0x3FF (R23). -/
theorem element_ne {r c : BitVec 5} {f : BitVec 6} {v : BitVec 16} (h : wf (.tileCommand r c f v) = true) : (r ++ c : BitVec 10) ≠ 0x3FF := by
  intro e
  have hr : r = 31 := by
    have h5 := congrArg (BitVec.extractLsb' 5 5) e
    rwa [BitVec.extractLsb'_append_eq_of_le (by decide), BitVec.extractLsb'_eq_self] at h5
  have hc : c = 31 := by
    have h0 := congrArg (BitVec.extractLsb' 0 5) e
    rwa [BitVec.extractLsb'_append_eq_of_add_le (by decide), BitVec.extractLsb'_eq_self] at h0
  subst hr hc
  cases h

/-- A configuration command's word decodes to it; the word of element 0x3FF would be a stream command's (R23, R47). -/
theorem encode_streamCommand {i : Instr} (hs : isStreamCommand i = true) (hw : wf i = true) : ∃ w, encode i = .half w ∧ decodeStream w = i := by
  cases i with
  | beginStream p =>
    refine ⟨_, rfl, ?_⟩
    simp only [decodeStream, streamWord_element, streamWord_fn, streamWord_value, if_true]
    cases p <;> rfl
  | plane v | page v | copies v | check v | endStream =>
    refine ⟨_, rfl, ?_⟩
    simp only [decodeStream, streamWord_element, streamWord_fn, streamWord_value, if_true]
    rfl
  | origin r c =>
    refine ⟨_, rfl, ?_⟩
    simp (disch := decide) only [decodeStream, streamWord_element, streamWord_fn, streamWord_value, if_true, BitVec.extractLsb'_append_eq_of_le,
      BitVec.extractLsb'_append_eq_of_add_le, BitVec.extractLsb'_eq_self, Nat.reduceSub]
    rfl
  | pc n v =>
    refine ⟨_, rfl, ?_⟩
    simp only [decodeStream, streamWord_element, streamWord_fn, streamWord_value, if_true]
    fin_cases n <;> rfl
  | tileCommand r c f v =>
    obtain ⟨he, hr, hc, hf, hv⟩ := tileWord_fields r c f v
    refine ⟨_, rfl, ?_⟩
    rw [decodeStream, he, if_neg (element_ne hw), hr, hc, hf, hv]
  | _ => cases hs

/-- Settles O5: as O4, and the immediate of a core word is read back from IMM32, or from IMM32 and its format E word. -/
theorem decodeEncodeRest : Obligations.DecodeEncodeRest := by
  refine ⟨fun op w hok => ⟨fun hl => ⟨by rw [encode_coreInstr, hl]; rfl, decodeCore_short hok hl⟩,
      fun hl => ⟨by rw [encode_coreInstr, hl]; rfl, wantsExtension_wordC hok hl, decodeCore_long hok hl⟩⟩,
    fun op w hok => ⟨encode_matInstr op w, decodeMatrix_wordX hok⟩, fun i => encode_streamCommand,
    fun a b c t f => ⟨decodeRouter_steer a c t f, decodeRouter_carry a b c t, decodeRouter_inv a c t, decodeRouter_merge a b c t⟩⟩

end Sys2Proof.Machine
end

section
/-! PROOFS. Steps and words: a step runs the word of its place (R13, R35, R43, R45, R47), a core's fetch (R45, R263, R264, R268), words that the spec works
out. -/
namespace Sys2Proof.Machine
open Sys2Proof

/-- Settles O1: the turn of a place is the word that it fetches, run with State.here at the place. -/
theorem stepRunsDecoded : Obligations.StepRunsDecoded := by
  intro s p rest i hagenda hpower hfetch
  have hturn : nextTurn s = .run i (atPlace (dropAct s) p) := by
    have hpower' : (dropAct s).powered = true := hpower
    simp only [nextTurn, hagenda, turnOf, hpower', hfetch, if_true]
  rw [step, hturn]

/-! ## A core's fetch -/

theorem fetchCore_beyond {x : Cluster} (h : localEnd ≤ x.pc.toNat) : fetchCore x = .fetch x.pc := by rw [fetchCore, if_pos h]

/-- Both words lie in local memory: the second counts only where the first asks for it. -/
theorem fetchCore_local {x : Cluster} (h : x.pc.toNat + 16 ≤ localEnd) :
    fetchCore x = if wantsExtension (locWord x x.pc.toNat) then decodeCore (locWord x x.pc.toNat) (locWord x (x.pc.toNat + 8))
      else decodeCore (locWord x x.pc.toNat) 0 := by
  unfold localEnd at h
  have hnext : (x.pc + 8).toNat = x.pc.toNat + 8 := by bv_omega
  have h1 : ¬ localEnd ≤ x.pc.toNat := by unfold localEnd; omega
  have h2 : ¬ localEnd ≤ x.pc.toNat + 8 := by unfold localEnd; omega
  simp only [fetchCore, h1, hnext, h2, if_false]
  cases wantsExtension (locWord x x.pc.toNat) <;> rfl

/-- Settles O2: below 0x4_0000 the word, and where it asks for one its extension word, are read; from there on it is FETCH. -/
theorem coreFetchesAtPc : Obligations.CoreFetchesAtPc :=
  fun _ _ => ⟨fun h => congrArg some (fetchCore_local h), fun h => congrArg some (fetchCore_beyond h)⟩

/-- Settles O3: each word is a closed term, which the decoder is run on. -/
theorem decodeSamples : Obligations.DecodeSamples := by
  unfold Obligations.DecodeSamples
  decide

end Sys2Proof.Machine
end

section
/-! PROOFS. The traps of a core (R56, R264, R268, R269) and ERET. -/
namespace Sys2Proof.Machine
open Sys2Proof

/-- A word of a running core that is no instruction is trapped, once it has been fetched without a trap. -/
theorem badWord_traps {s : State} {c : ClusterId} (hc : s.here = .core c) (hr : (getCl s c).run = .running) (hf : fetchTrap (getCl s c) false = none)
    (code : Nat) (tval : Cluster → Word) : badWord s code tval = .next (takeTrap s c code (tval (getCl s c)) false (getCl s c).pc) := by
  simp only [badWord, hc, hr, hf, ne_eq, not_true_eq_false, if_false]

theorem execFetch_traps {s : State} {c : ClusterId} (hc : s.here = .core c) (hr : (getCl s c).run = .running) (a : Word) :
    execFetch a s = .next (takeTrap s c trFetch a false (getCl s c).pc) := by
  simp only [execFetch, hc, hr, ne_eq, not_true_eq_false, if_false]

theorem returnTrap_system {x : Cluster} (h : x.mode = true) :
    returnTrap x = some { x with pc := x.epcs &&& ~~~7, mode := x.estats.getLsbD 0, aie := x.estats.getLsbD 1, thu := x.estats.getLsbD 2,
                                 ths := x.estats.getLsbD 3, paie := x.estats.getLsbD 5 } := by rw [returnTrap, if_pos h]; rfl

theorem returnTrap_tenant {x : Cluster} (hm : x.mode = false) (ht : x.thu = true) :
    returnTrap x = some { x with pc := x.epcu &&& ~~~7, thu := false, aie := x.paie } := by simp [returnTrap, hm, ht]

theorem returnTrap_none {x : Cluster} (hm : x.mode = false) (ht : x.thu = false) : returnTrap x = none := by simp [returnTrap, hm, ht]

section
variable {w : CWord} {s : State} {c : ClusterId} (h : CoreTurn s c w)
include h

/-- ERET with a saved state gives the core that state and no other part of the machine anything. -/
theorem execEret_returns {y : Cluster} (hy : returnTrap (getCl s c) = some y) : ∃ t, execEret w s = .next t ∧ OnlyCore s t c ∧ getCl t c = y := by
  refine ⟨setPc (setCl s c y) c y.pc, ?_, (setCl_onlyCore ..).trans (updCl_onlyCore ..), by simp [setPc]⟩
  rw [execEret, atCore_turn h]
  simp only [hy, coreNext]

theorem execEret_traps (hn : returnTrap (getCl s c) = none) :
    execEret w s = .next (takeTrap s c trIllegal (wordC .eret w) false (getCl s c).pc) := by
  rw [execEret, atCore_turn h]
  simp only [hn, illegalOf, coreNext]
  rfl

theorem execTrap_traps : execTrap w s = .next (takeTrap s c trSw (opB (getCl s c) w) false ((getCl s c).pc + coreSize w.long)) := by
  rw [execTrap, atCore_turn h]
  rfl

end

/-- Settles O38: each trap is taken as R269 says; ERET gives the core the state that was saved, or is ILLEGAL where there is none. -/
theorem coreTrapsAndReturns : Obligations.CoreTrapsAndReturns := by
  intro w c s h
  obtain ⟨hc, hr, hf, _⟩ := id h
  refine ⟨?_, fun v hl => ?_, fun v hl => ?_, fun a => ?_, fun hm => ?_, fun hm ht => ?_, fun hm ht => ?_⟩
  · exact ⟨_, execTrap_traps h, takeTrap_tookTrap ..⟩
  · exact ⟨_, badWord_traps hc hr (hl ▸ hf) trIllegal fun _ => v, takeTrap_tookTrap ..⟩
  · exact ⟨_, badWord_traps hc hr (hl ▸ hf) trExt fun x => x.pc, takeTrap_tookTrap ..⟩
  · exact ⟨_, execFetch_traps hc hr a, takeTrap_tookTrap ..⟩
  · exact execEret_returns h (returnTrap_system hm)
  · exact execEret_returns h (returnTrap_tenant hm ht)
  · exact ⟨_, execEret_traps h (returnTrap_none hm ht), takeTrap_tookTrap ..⟩

end Sys2Proof.Machine
end

section
/-! PROOFS. The matrix nodes (R42, R218 to R221): a firing leaves its tile's launch and its cluster's rings and queues as they were, and each node
then acts on them. -/
namespace Sys2Proof.Machine
open Sys2Proof

/-! ## The partition of a tile's launch -/

/-- A tile's owner, and the record that each launch was made with, are as before. -/
structure SameOwner (u : TileId) (s t : State) : Prop where
  owner : (getTile t u).owner = (getTile s u).owner
  record : ∀ l, (findLaunch t l).map (·.lr) = (findLaunch s l).map (·.lr)

theorem SameOwner.refl (u : TileId) (s : State) : SameOwner u s s := ⟨rfl, fun _ => rfl⟩
theorem SameOwner.trans {u : TileId} {a b c : State} (h : SameOwner u a b) (k : SameOwner u b c) : SameOwner u a c :=
  ⟨k.owner.trans h.owner, fun l => (k.record l).trans (h.record l)⟩

theorem SameOwner.foldl {β : Type} {u : TileId} {f : State → β → State} (h : ∀ s x, SameOwner u s (f s x)) (l : List β) (s : State) :
    SameOwner u s (l.foldl f s) := by
  induction l generalizing s with
  | nil => exact .refl u s
  | cons x l ih => exact (h s x).trans (ih _)

section
variable (u : TileId) (s : State)

theorem setTile_sameOwner {x : Tile} (h : x.owner = (getTile s u).owner) : SameOwner u s (setTile s u x) := ⟨by simpa using h, fun _ => rfl⟩
theorem updTile_sameOwner (f : Tile → Tile) (h : ∀ x, (f x).owner = x.owner) : SameOwner u s (updTile s u f) := setTile_sameOwner u s (h _)
theorem setCl_sameOwner (c : ClusterId) (x : Cluster) : SameOwner u s (setCl s c x) := ⟨rfl, fun _ => rfl⟩
theorem updSlice_sameOwner (i : SliceId) (f : Slice → Slice) : SameOwner u s (updSlice s i f) := ⟨rfl, fun _ => rfl⟩

theorem updLaunch_sameOwner (l : LaunchId) {f : Launch → Launch} (h : ∀ x, (f x).lr = x.lr) : SameOwner u s (updLaunch s l f) := by
  unfold updLaunch
  split
  · exact .refl u s
  next x hx =>
    refine ⟨rfl, fun k => ?_⟩
    by_cases hk : k = l
    · subst hk; simp [hx, h]
    · rw [findLaunch_setLaunch_other _ _ hk]

theorem recL_sameOwner (l : LaunchId) (r : Rec) : SameOwner u s (recL s l r) := by
  unfold recL
  split
  · exact .refl u s
  · exact setCl_sameOwner ..

theorem recT_sameOwner (t : TileId) (r : Rec) : SameOwner u s (recT s t r) := by
  unfold recT
  dsimp only
  split
  · exact recL_sameOwner ..
  · exact setCl_sameOwner ..

theorem recFirst_sameOwner (r : Rec) : SameOwner u s (recFirst s u r) := by
  unfold recFirst
  split
  · exact .refl u s
  · refine SameOwner.trans ?_ (recT_sameOwner ..)
    exact updTile_sameOwner u s _ fun _ => rfl

theorem countEv_sameOwner (t : TileId) (ev q n : Nat) : SameOwner u s (countEv s t ev q n) := by
  unfold countEv
  dsimp only
  split
  · exact .refl u s
  · exact setCl_sameOwner ..

theorem countTile_sameOwner (ev q : Nat) : SameOwner u s (countTile s u ev q) := by
  refine SameOwner.trans ?_ (countEv_sameOwner ..)
  exact updTile_sameOwner u s _ fun _ => rfl

theorem inexact_sameOwner (t : TileId) (thr : BitVec 8) : SameOwner u s (inexact s t thr) := by
  unfold inexact
  split
  · exact .refl u s
  · exact updLaunch_sameOwner u s _ fun x => by split <;> rfl

theorem scratch_sameOwner (t : TileId) (before after : List QEntry) (d c n : Nat) : SameOwner u s (scratch s t before after d c n) := by
  unfold scratch
  split
  · exact .refl u s
  · exact updSlice_sameOwner ..

theorem putQ_sameOwner (q : Nat) (v : Queue) (n : Nat) : SameOwner u s (putQ s u q v n) := by
  unfold putQ
  exact (setTile_sameOwner u s (x := setQ (getTile s u) q v) rfl).trans (scratch_sameOwner ..)

theorem takeHead_sameOwner (q : Nat) : SameOwner u s (takeHead s u q) := by
  have h : SameOwner u s (takeQ s u q) := putQ_sameOwner ..
  unfold takeHead
  dsimp only
  split
  · exact .refl u s
  split
  next v _ =>
    have k : SameOwner u s (if v.kind = kGap then inexact (takeQ s u q) u v.thr else takeQ s u q) := by
      split
      · exact h.trans (inexact_sameOwner ..)
      · exact h
    split
    · exact (k.trans (countTile_sameOwner ..)).trans (recFirst_sameOwner ..)
    · exact k
  · exact h

end

theorem thrMix_sameOwner (s : State) (sl : SlotId) (x : Tile) (qs : List Nat) : SameOwner sl.tile s (thrMix s sl x qs) := by
  unfold thrMix
  split
  · exact .refl ..
  split
  · exact .refl ..
  · exact (countTile_sameOwner ..).trans (recFirst_sameOwner ..)

theorem beginFire_sameOwner (s : State) (sl : SlotId) (qs : List Nat) : SameOwner sl.tile s (beginFire s sl qs) := by
  refine ((thrMix_sameOwner s sl (getTile s sl.tile) qs).trans (.foldl (fun s q => takeHead_sameOwner sl.tile s q) qs _)).trans ?_
  exact setTile_sameOwner _ _ rfl

theorem fresh_sameOwner (u : TileId) (s : State) : SameOwner u s (fresh s).2 := ⟨rfl, fun _ => rfl⟩

theorem pushPipe_sameOwner (s : State) (sl : SlotId) (f : Firing) : SameOwner sl.tile s (pushPipe s sl f) := setTile_sameOwner _ _ rfl
theorem setNode_sameOwner (s : State) (sl : SlotId) (n : NodeSt) : SameOwner sl.tile s (setNode s sl n) := setTile_sameOwner _ _ rfl

/-- A tile's partition depends on its owner, that launch's record and the contexts in memory. -/
theorem SameOwner.partOf {u : TileId} {s t : State} (h : SameOwner u s t) (hm : SameMem s t) (hd : t.dies = s.dies) :
    Machine.partOf t u = Machine.partOf s u := by
  have ho : ownerOf t u = ownerOf s u := by rw [ownerOf, ownerOf, h.owner]
  have hp : ∀ d ctx, ctxPart t d ctx = ctxPart s d ctx := fun d ctx => by rw [ctxPart, ctxAddr, getDie, hd, hm.memWord]; rfl
  unfold Machine.partOf
  rw [ho]
  cases ownerOf s u with
  | none => rfl
  | some l =>
    have hr := h.record l
    dsimp only
    cases hs : findLaunch s l <;> cases ht : findLaunch t l <;> simp_all

/-! ## After the firing's heads have been taken -/

/-- An issue whose outcome is known. -/
theorem Issues.begun {p : ClusterId → Prop} {sl : SlotId} {s t : State} {o : Host.Outcome State Fault Refusal} (h : Issues p sl s o)
    (e : o = .next t) : Begun p sl s t := by
  obtain ⟨u, hu, hb⟩ := h
  cases hu.symm.trans e
  exact hb

theorem actNode_turn {op : NodeOp} {w : NWord} {sl : SlotId} {s : State} (h : AtTurn s sl (nodeInstr op w)) (go : SlotId → Fire → State → State) :
    actNode op w s go = .next (go sl (fireOf s sl (.node op w)) (beginFire s sl (namedOnce (.node op w)))) := atSlot_turn h _

section
variable {x y : Cluster} (h : coreView x = coreView y)
include h

theorem mqs_of_coreView : x.mqs = y.mqs := (congrArg Cluster.mqs h :)
theorem split_of_coreView : x.split = y.split := (congrArg Cluster.split h :)
theorem rings_of_coreView : x.rings = y.rings := (congrArg Cluster.rings h :)

theorem getMq_of_coreView (q : Nat) : getMq x q = getMq y q := by rw [getMq, mqs_of_coreView h]; rfl
theorem getRing_of_coreView (n : Nat) : getRing x n = getRing y n := by rw [getRing, rings_of_coreView h]; rfl
theorem ringMine_of_coreView (n : Nat) (part : Option (Fin 16)) : ringMine x n part = ringMine y n part := by
  have hu : x.ownu = y.ownu := (congrArg Cluster.ownu h :)
  have hl : x.ownl = y.ownl := (congrArg Cluster.ownl h :)
  simp only [ringMine, halfOwner, split_of_coreView h, hu, hl]
  cases part <;> rfl

end

section
variable (s : State) (sl : SlotId) (qs : List Nat)

theorem beginFire_clusterOf : clusterOf (beginFire s sl qs) sl.tile = clusterOf s sl.tile := clusterOf_of_dies (beginFire_frame s sl qs).2.2.1 _

theorem beginFire_coreView (c : ClusterId) : coreView (getCl (beginFire s sl qs) c) = coreView (getCl s c) := (beginFire_frame s sl qs).2.1 c id

theorem beginFire_partOf : partOf (beginFire s sl qs) sl.tile = partOf s sl.tile :=
  (beginFire_sameOwner s sl qs).partOf (beginFire_frame s sl qs).1 (beginFire_frame s sl qs).2.2.1

theorem beginFire_pipe : pipeOf (beginFire s sl qs) sl = pipeOf s sl := (congrArg Slot.pipe (slotAt_beginFire s sl qs) :)
theorem beginFire_node : slotNode (beginFire s sl qs) sl = slotNode s sl := (congrArg Slot.node (slotAt_beginFire s sl qs) :)

end

theorem pipeOf_eq (s : State) (sl : SlotId) : pipeOf s sl = (slotAt s sl).pipe := rfl
theorem slotNode_eq (s : State) (sl : SlotId) : slotNode s sl = (slotAt s sl).node := rfl
theorem latchOf_eq (s : State) (sl : SlotId) : latchOf s sl = (slotAt s sl).latch := rfl

@[simp] theorem slotAt_setCl (s : State) (c : ClusterId) (x : Cluster) (sl : SlotId) : slotAt (setCl s c x) sl = slotAt s sl := rfl
@[simp] theorem slotAt_fresh (s : State) (sl : SlotId) : slotAt (fresh s).2 sl = slotAt s sl := rfl

/-! ## MXN (R42, R218) -/

/-- A refusal's value: OPC and H of the token, ERR and cause 1 (R215). -/
theorem retireValue_refused (v : Word) : retireValue v 1 = word (v.toNat / 2 ^ 53 * 2 ^ 53 + 257) := by
  have hv := v.isLt
  have hn : v.toNat / 2 ^ 55 % 2 ^ 9 * 2 ^ 55 + v.toNat / 2 ^ 53 % 2 ^ 2 * 2 ^ 53 + 256 + 1 = v.toNat / 2 ^ 53 * 2 ^ 53 + 257 := by omega
  rw [retireValue, fld_eq_div_mod, fld_eq_div_mod, if_neg one_ne_zero, hn]

@[simp] theorem getMq_setMq (x : Cluster) (q : Nat) (ops : List MOp) : getMq (setMq x q ops) q = ops := by simp [getMq, setMq]


/-- The queue that an MXN's AUX names in a cluster (R212). -/
def mxnQueue (x : Cluster) (w : NWord) : Nat := if x.split = true ∧ w.aux.toNat % 4 = 2 then 1 else 0

/-- The operation that a firing of MXN sends, its heads taken in a state. -/
def sentOp (w : NWord) (sl : SlotId) (f : Fire) (z : State) : MOp :=
  { id := (fresh z).1, tok := lowPair f.a.pay, tile := sl.tile, slot := sl.slot, thr := f.thr, part := partOf (fresh z).2 sl.tile, seq := (fresh z).1,
    cause := if mxnLegal (getCl (fresh z).2 (clusterOf (fresh z).2 sl.tile)) (w.aux.toNat % 4) then 0 else 4 }

section
variable {w : NWord} {sl : SlotId} {s : State} (h : AtTurn s sl (.mxn w))
include h

/-- A legal token is put at the end of its queue, and its firing waits for the retirement token. -/
theorem execMxn_sends (hd : (decodeMatrix (lowPair (fireOf s sl (.node .mxn w)).a.pay)).isSome = true) :
    let z := beginFire s sl (namedOnce (.node .mxn w))
    let o := sentOp w sl (fireOf s sl (.node .mxn w)) z
    let q := mxnQueue (getCl s (clusterOf s sl.tile)) w
    execMxn w s = .next (pushPipe (updCl (fresh z).2 (clusterOf s sl.tile) fun x => setMq x q (getMq x q ++ [o])) sl (awaiting o.id)) := by
  intro z o q
  obtain ⟨i, hi⟩ := Option.isSome_iff_exists.mp hd
  have hc : clusterOf (fresh z).2 sl.tile = clusterOf s sl.tile := beginFire_clusterOf ..
  have hs : (getCl (fresh z).2 (clusterOf s sl.tile)).split = (getCl s (clusterOf s sl.tile)).split := split_of_coreView (beginFire_coreView ..)
  have hq : (if ((getCl (fresh z).2 (clusterOf (fresh z).2 sl.tile)).split && decide (w.aux.toNat % 4 = 2)) = true then 1 else 0) = q := by
    rw [hc, hs]
    simp only [Bool.and_eq_true, decide_eq_true_eq]
    rfl
  rw [execMxn, actNode_turn h]
  simp only [hi]
  rw [← hq, ← hc]
  rfl

theorem mxn_sends (hd : (decodeMatrix (lowPair (fireOf s sl (.node .mxn w)).a.pay)).isSome = true) :
    let c := clusterOf s sl.tile
    let q := mxnQueue (getCl s c) w
    let o := sentOp w sl (fireOf s sl (.node .mxn w)) (beginFire s sl (namedOnce (.node .mxn w)))
    Completes (.mxn w) s fun t => Issued s t sl ∧ SameMem s t ∧ SameTilesBut s t (· = sl.tile) ∧ SameCoresBut s t (· = c) ∧
      getMq (getCl t c) q = getMq (getCl s c) q ++ [o] ∧ pipeOf t sl = pipeOf s sl ++ [awaiting o.id] := by
  intro c q o
  have he := execMxn_sends h hd
  have hb := (mxn_issues h).begun he
  refine ⟨_, he, hb.issue, hb.mem, hb.tiles, hb.cores, ?_, ?_⟩
  · have hm := getMq_of_coreView (beginFire_coreView s sl (namedOnce (.node .mxn w)) c) q
    change getMq (getCl (updCl (fresh _).2 c fun x => setMq x q (getMq x q ++ [o])) c) q = _
    rw [getCl_updCl, getMq_setMq]
    exact congrArg (· ++ [o]) hm
  · have hp := beginFire_pipe s sl (namedOnce (.node .mxn w))
    rw [pipeOf_eq, slotAt_pushPipe]
    exact congrArg (· ++ [awaiting o.id]) hp

/-- A token that is none is refused on the spot, with cause 1. -/
theorem mxn_refuses (hd : decodeMatrix (lowPair (fireOf s sl (.node .mxn w)).a.pay) = none) (ho : w.out = 4) :
    Completes (.mxn w) s fun t => Issued s t sl ∧ TileFrame s t sl.tile ∧ pipeOf t sl = pipeOf s sl ++
      [results [(2, .sca ⟨retireValue (lowPair (fireOf s sl (.node .mxn w)).a.pay) 1, (fireOf s sl (.node .mxn w)).thr⟩)]] := by
  have hems : ∀ v thr, valueEms w.out v false thr = [(2, .sca ⟨v, thr⟩)] := by rw [ho]; exact fun _ _ => rfl
  have e : execMxn w s = .next _ := actNode_turn h _
  simp only [hd, hems] at e
  have hb := (mxn_issues h).begun e
  refine ⟨_, e, hb.issue, ?_, ?_⟩
  · exact (((beginFire_frame ..).trans (recT_frame ..)).trans (countEv_frame ..)).trans (pushEms_frame ..)
  · rw [pipeOf_eq, slotAt_pushEms, (countEv_slots ..).slotAt, (recT_slots ..).slotAt, ← beginFire_pipe s sl (namedOnce (.node .mxn w))]
    rfl

end

/-! ## MSEQ (R219) -/

section
variable {w : NWord} {sl : SlotId} {s : State} (h : AtTurn s sl (.mseq w))
include h

/-- The tokens of a run: one, or as many as C says. -/
theorem mseq_begins :
    let f := fireOf s sl (.node .mseq w)
    let k := if w.aux.toNat % 4 = 0 then 1 else f.c.pay.toNat % 65536
    Completes (.mseq w) s fun t => Issued s t sl ∧ TileFrame s t sl.tile ∧
      (0 < k → ∃ thr, slotNode t sl = .mseq k 0 (lane f.b.pay 0 ++ lane f.a.pay 0) (w.aux.toNat % 4) thr) ∧
        (k = 0 → slotNode t sl = slotNode s sl) := by
  intro f k
  have hk : (if w.aux.toNat % 4 = 0 then 1 else ((fireOf s sl (.node .mseq w)).c.pay.extractLsb' 0 16).toNat) = k := by
    simp only [BitVec.extractLsb'_toNat, Nat.shiftRight_zero]
    rfl
  have e : execMseq w s = .next _ := actNode_turn h _
  simp only [hk] at e
  have hb := (mseq_issues (fun _ => False) h).begun e
  refine ⟨_, e, hb.issue, hb.toLeaves.frame, fun h0 => ?_, fun h0 => ?_⟩
  · rw [if_neg h0.ne', slotNode_eq, slotAt_setNode]
    exact ⟨_, rfl⟩
  · rw [if_pos h0]
    exact beginFire_node ..

end

/-- CTILE alone in a word. -/
theorem ctile_word : ∀ n : Fin 64, word (n * 1024) &&& ~~~0xFC00 = 0 ∧ (word (n * 1024)).extractLsb' 10 6 = BitVec.ofNat 6 n := by decide

/-- The fields of the i-th token of a run (R219): mode 1 sets ACC from the second on, mode 2 counts CTILE up. -/
theorem mseqTok_modes (mode : Nat) (tok : Word) (i : Nat) :
    (mode = 0 → mseqTok mode tok i = tok) ∧ (mode = 1 → mseqTok mode tok i = if i = 0 then tok else tok ||| 0x10000) ∧
    (mode = 2 → (mseqTok mode tok i).extractLsb' 10 6 = tok.extractLsb' 10 6 + BitVec.ofNat 6 i ∧
      mseqTok mode tok i &&& ~~~0xFC00 = tok &&& ~~~0xFC00) := by
  refine ⟨?_, ?_, ?_⟩
  · rintro rfl; rfl
  · rintro rfl; rfl
  · rintro rfl
    have hlt : (fld tok 15 10 + i) % 64 < 64 := Nat.mod_lt _ (by decide)
    obtain ⟨hz, hc⟩ := ctile_word ⟨_, hlt⟩
    have hclear : (tok &&& ~~~0xFC00).extractLsb' 10 6 = 0 := by
      rw [BitVec.extractLsb'_and]
      exact BitVec.and_zero
    have hsum : BitVec.ofNat 6 ((fld tok 15 10 + i) % 64) = tok.extractLsb' 10 6 + BitVec.ofNat 6 i := by
      apply BitVec.eq_of_toNat_eq
      simp [fld]
    refine ⟨?_, ?_⟩
    · rw [mseqTok, BitVec.extractLsb'_or, hclear, hc, ← hsum]
      exact BitVec.zero_or
    · rw [mseqTok, BitVec.and_or_distrib_right, hz, BitVec.and_assoc, BitVec.and_self]
      exact BitVec.or_zero

theorem mseqEmit_sends {sl : SlotId} {s : State} {k i : Nat} {tok : Word} {mode : Nat} {thr : BitVec 8} (hh : s.here = .slot sl)
    (hn : slotNode s sl = .mseq k i tok mode thr) (ho : (aget [] (getTile s sl.tile).outs 2).length + promised (getTile s sl.tile) 2 < 4)
    (ht : tileHalted s sl.tile (getTile s sl.tile) = false) (hu : afind (getTile s sl.tile).used (slotEmit sl.slot.val) ≠ some s.clock) :
    Completes .mseqEmit s fun t => TileFrame s t sl.tile ∧ slotNode t sl = (if i + 1 < k then .mseq k (i + 1) tok mode thr else .idle) ∧
      pipeOf t sl = pipeOf s sl ++ [results [(2, .sca ⟨mseqTok mode tok i, thr⟩)]] := by
  have hn' : (getSlot (getTile s sl.tile) sl.slot.val).node = .mseq k i tok mode thr := hn
  have e : execMseqEmit s = .next (pushEms (setNode (setLatch (noteEmit s sl) sl (valueTok (mseqTok mode tok i) thr)) sl
      (if i + 1 < k then .mseq k (i + 1) tok mode thr else .idle)) sl [(2, .sca ⟨mseqTok mode tok i, thr⟩)]) := by
    simp only [execMseqEmit, hh, hn', Nat.not_le.mpr ho, ht, hu, Bool.false_eq_true, or_self, if_false]
  have hs : slotAt (noteEmit s sl) sl = slotAt s sl := by simp [noteEmit, slotAt, getSlot]
  refine ⟨_, e, (((updTile_frame ..).trans (setLatch_frame ..)).trans (setNode_frame ..)).trans (pushEms_frame ..), ?_, ?_⟩
  · rw [slotNode_eq, slotAt_pushEms, slotAt_setNode]
  · rw [pipeOf_eq, slotAt_pushEms, slotAt_setNode, slotAt_setLatch, hs]
    rfl

/-! ## Rings (R205, R208, R220) -/

theorem emptyTile_rings (x : Cluster) (n : Nat) (t : BitVec 16) : (emptyTile x n t).rings = x.rings := by
  have hf : ∀ (l : List Nat) (y : Cluster), (l.foldl (fun y i =>
      if claimed y (ringSpace n) (ringGran (getRing x n) t + i) then
        { y with empt := granKey (ringSpace n) (ringGran (getRing x n) t + i) :: y.empt }
      else bufSetFull y (ringSpace n) (ringGran (getRing x n) t + i) false) y).rings = y.rings := by
    intro l
    induction l with
    | nil => exact fun _ => rfl
    | cons i l ih =>
      intro y
      rw [List.foldl_cons, ih]
      split <;> rfl
  unfold emptyTile
  dsimp only
  split
  · exact hf _ _
  · rfl

theorem getRing_setRing (x : Cluster) (n : Nat) (r : Ring) : getRing (setRing x n r) n = r := by simp [getRing, setRing]

theorem getRing_popRing (x : Cluster) (n k : Nat) : getRing (popRing x n k) n = { getRing x n with head := (getRing x n).head + BitVec.ofNat 16 k } := by
  have hf : ∀ (l : List Nat) (y : Cluster), (l.foldl (fun y i => emptyTile y n ((getRing x n).head + BitVec.ofNat 16 i)) y).rings = y.rings := by
    intro l
    induction l with
    | nil => exact fun _ => rfl
    | cons i l ih => exact fun y => (ih _).trans (emptyTile_rings ..)
  unfold popRing
  dsimp only
  rw [getRing, hf]
  exact getRing_setRing ..

theorem getRing_pubRing (x : Cluster) (n k : Nat) : getRing (pubRing x n k) n = { getRing x n with tail := (getRing x n).tail + BitVec.ofNat 16 k } :=
  getRing_setRing ..

section
variable (x : Cluster) (n k : Nat)

/-- An advance of HEAD, by a partition that may use the ring: by no more tiles than there are. -/
theorem getRing_radvDo_head : getRing (radvDo x n k true true).1 n =
    if k ≤ ringOcc (getRing x n) then { getRing x n with head := (getRing x n).head + BitVec.ofNat 16 k } else getRing x n := by
  simp only [radvDo, Bool.not_true, Bool.false_eq_true, if_false, if_true]
  split
  · exact getRing_popRing ..
  · rfl

/-- An advance of TAIL: by no more tiles than the ring has room for. -/
theorem getRing_radvDo_tail : getRing (radvDo x n k false true).1 n =
    if ringOcc (getRing x n) + k ≤ ringNt (getRing x n) then { getRing x n with tail := (getRing x n).tail + BitVec.ofNat 16 k } else getRing x n := by
  simp only [radvDo, Bool.not_true, Bool.false_eq_true, if_false]
  split
  · exact getRing_pubRing ..
  · rfl

end

/-! ## RADV, RADV_PUBLISH (R220) -/

section
variable (w : NWord) (sl : SlotId) (k : Nat) (thr : BitVec 8) (s : State)

theorem keeps_radvApply : Keeps (· = clusterOf s sl.tile) sl s (radvApply w sl k thr s) := by
  have h := keeps_setCl (· = clusterOf s sl.tile) sl s (c := clusterOf s sl.tile) rfl
  unfold radvApply
  dsimp only
  refine (Keeps.trans ?_ (keeps_setLatch ..)).trans (keeps_fillFiring ..)
  split
  · exact h _
  · exact (h _).trans (keeps_recT ..)

/-- An advance changes its cluster as `radvDo` says, but for records. -/
theorem radvApply_coreView : coreView (getCl (radvApply w sl k thr s) (clusterOf s sl.tile)) =
    coreView (radvDo (getCl s (clusterOf s sl.tile)) (w.aux.toNat % 16) w.imm.toNat (w.aux.getLsbD 4)
      (ringMine (getCl s (clusterOf s sl.tile)) (w.aux.toNat % 16) (partOf s sl.tile))).1 := by
  unfold radvApply
  dsimp only
  split
  · exact congrArg coreView (getCl_setCl ..)
  · exact ((recT_frame _ _ _ sl.tile).2.1 _ id).trans (congrArg coreView (getCl_setCl ..))

theorem slotAt_fillFiring (es : List (Fin 4 × Tok)) : slotAt (fillFiring s sl k es) sl =
    { slotAt s sl with pipe := (slotAt s sl).pipe.map fun f => if f.id = k && !f.ready then { f with ready := true, ems := es } else f } := by
  simp [slotAt, fillFiring]

theorem radvApply_node : slotNode (radvApply w sl k thr s) sl = slotNode s sl := by
  unfold radvApply
  dsimp only
  rw [slotNode_eq, slotAt_fillFiring, slotAt_setLatch]
  split
  · rfl
  · rw [(recT_slots ..).slotAt]
    rfl

end

theorem getRing_radvApply (w : NWord) (sl : SlotId) (k : Nat) (thr : BitVec 8) (s : State) (n : Nat) :
    getRing (getCl (radvApply w sl k thr s) (clusterOf s sl.tile)) n =
      getRing (radvDo (getCl s (clusterOf s sl.tile)) (w.aux.toNat % 16) w.imm.toNat (w.aux.getLsbD 4)
        (ringMine (getCl s (clusterOf s sl.tile)) (w.aux.toNat % 16) (partOf s sl.tile))).1 n :=
  getRing_of_coreView (radvApply_coreView w sl k thr s) n

/-- The state in which a firing of RADV acts: its heads taken, its result promised. -/
def radvFired (w : NWord) (sl : SlotId) (s : State) : State :=
  let z := beginFire s sl (namedOnce (.node .radv w))
  pushPipe (fresh z).2 sl (awaiting (fresh z).1)

section
variable (w : NWord) (sl : SlotId) (s : State)

theorem radvFired_begun (p : ClusterId → Prop) : Begun p sl s (radvFired w sl s) :=
  ((begun_beginFire ..).then (keeps_fresh ..)).then (keeps_pushPipe ..)

theorem radvFired_clusterOf : clusterOf (radvFired w sl s) sl.tile = clusterOf s sl.tile :=
  clusterOf_of_dies (radvFired_begun w sl s fun _ => False).dies _

theorem radvFired_coreView (c : ClusterId) : coreView (getCl (radvFired w sl s) c) = coreView (getCl s c) :=
  (radvFired_begun w sl s fun _ => False).cores c not_false

theorem radvFired_partOf : partOf (radvFired w sl s) sl.tile = partOf s sl.tile := by
  have hb := radvFired_begun w sl s fun _ => False
  exact (((beginFire_sameOwner ..).trans (fresh_sameOwner ..)).trans (pushPipe_sameOwner ..)).partOf hb.mem hb.dies

theorem radvFired_slot : slotNode (radvFired w sl s) sl = slotNode s sl ∧
    pipeOf (radvFired w sl s) sl = pipeOf s sl ++ [awaiting (beginFire s sl (namedOnce (.node .radv w))).seq] := by
  refine ⟨?_, ?_⟩
  · rw [radvFired, slotNode_eq, slotAt_pushPipe]
    exact beginFire_node ..
  · rw [radvFired, pipeOf_eq, slotAt_pushPipe, ← beginFire_pipe s sl (namedOnce (.node .radv w))]
    rfl

end

section
variable {w : NWord} {sl : SlotId} {s : State} (h : AtTurn s sl (.radv w))
include h

theorem radv_head (hm : ringMine (getCl s (clusterOf s sl.tile)) (w.aux.toNat % 16) (partOf s sl.tile) = true) (hd : w.aux.getLsbD 4 = true) :
    let c := clusterOf s sl.tile
    let r := getRing (getCl s c) (w.aux.toNat % 16)
    Completes (.radv w) s fun t => Issued s t sl ∧ SameMem s t ∧ SameTilesBut s t (· = sl.tile) ∧ SameCoresBut s t (· = c) ∧
      (getRing (getCl t c) (w.aux.toNat % 16)).tail = r.tail ∧
      (getRing (getCl t c) (w.aux.toNat % 16)).head = if w.imm.toNat ≤ (r.tail - r.head).toNat then r.head + w.imm else r.head := by
  intro c r
  have e : execRadv w s = .next (radvApply w sl (beginFire s sl (namedOnce (.node .radv w))).seq (fireOf s sl (.node .radv w)).thr (radvFired w sl s)) :=
    (actNode_turn h _).trans (congrArg Host.Outcome.next (if_pos hd))
  have hb := (radv_issues h).begun e
  refine ⟨_, e, hb.issue, hb.mem, hb.tiles, hb.cores, ?_⟩
  have hv := radvFired_coreView w sl s c
  have hg := getRing_radvApply w sl (beginFire s sl (namedOnce (.node .radv w))).seq (fireOf s sl (.node .radv w)).thr (radvFired w sl s) (w.aux.toNat % 16)
  rw [radvFired_clusterOf, radvFired_partOf, ringMine_of_coreView hv, hm, hd, getRing_radvDo_head, getRing_of_coreView hv, BitVec.ofNat_toNat,
    BitVec.setWidth_eq, ringOcc] at hg
  rw [hg]
  split <;> exact ⟨rfl, rfl⟩

theorem radv_tail (hd : w.aux.getLsbD 4 = false) :
    Completes (.radv w) s fun t => Issued s t sl ∧ TileFrame s t sl.tile ∧
      ∃ k l, slotNode t sl = .radv (l ++ [(k, k, (fireOf s sl (.node .radv w)).thr)]) ∧ pipeOf t sl = pipeOf s sl ++ [awaiting k] := by
  have hd' : ¬ w.aux.getLsbD 4 = true := by rw [hd]; nofun
  let k := (beginFire s sl (namedOnce (.node .radv w))).seq
  obtain ⟨l, e⟩ : ∃ l, execRadv w s = .next (setNode (radvFired w sl s) sl (.radv (l ++ [(k, k, (fireOf s sl (.node .radv w)).thr)]))) :=
    ⟨_, (actNode_turn h _).trans (congrArg Host.Outcome.next (if_neg hd'))⟩
  have hb := fun n => (radvFired_begun w sl s fun _ => False).then (keeps_setNode _ sl _ n)
  refine ⟨_, e, (hb _).issue, (hb _).toLeaves.frame, k, l, ?_, ?_⟩
  · rw [slotNode_eq, slotAt_setNode]
  · rw [pipeOf_eq, slotAt_setNode]
    exact (radvFired_slot w sl s).2

end

/-- The oldest parked advance, once the stores before it have performed. -/
theorem radvPublish_acts {w : NWord} {sl : SlotId} {s : State} {k before : Nat} {thr : BitVec 8} {rest : List (Nat × Nat × BitVec 8)}
    (hh : s.here = .slot sl) (hi : slotInstr (getTile s sl.tile) sl.slot.val = some (.radv w)) (hn : slotNode s sl = .radv ((k, before, thr) :: rest))
    (hd : w.aux.getLsbD 4 = false)
    (hs : storesDone s sl.tile thr before (fun e => decide (spaceNum e.w.space = ringSpace (w.aux.toNat % 16))) = true)
    (hm : ringMine (getCl s (clusterOf s sl.tile)) (w.aux.toNat % 16) (partOf s sl.tile) = true) :
    let c := clusterOf s sl.tile
    let r := getRing (getCl s c) (w.aux.toNat % 16)
    Completes .radvPublish s fun t => SameMem s t ∧ SameTilesBut s t (· = sl.tile) ∧ SameCoresBut s t (· = c) ∧ slotNode t sl = .radv rest ∧
      (getRing (getCl t c) (w.aux.toNat % 16)).head = r.head ∧
      (getRing (getCl t c) (w.aux.toNat % 16)).tail = if (r.tail - r.head).toNat + w.imm.toNat ≤ ringNt r then r.tail + w.imm else r.tail := by
  intro c r
  have hn' : (getSlot (getTile s sl.tile) sl.slot.val).node = .radv ((k, before, thr) :: rest) := hn
  have e : execRadvPublish s = .next (radvApply w sl k thr (setNode s sl (.radv rest))) := by simp only [execRadvPublish, hh, hi, hn', hs, if_true]
  have hk := (keeps_setNode (· = c) sl s (.radv rest)).trans (keeps_radvApply w sl k thr (setNode s sl (.radv rest)))
  have hp : partOf (setNode s sl (.radv rest)) sl.tile = partOf s sl.tile :=
    (setNode_sameOwner s sl _).partOf (setNode_frame s sl _).1 (setNode_frame s sl _).2.2.1
  refine ⟨_, e, hk.mem, hk.tiles, hk.cores, ?_, ?_⟩
  · rw [radvApply_node, slotNode_eq, slotAt_setNode]
  · have hg : getRing (getCl (radvApply w sl k thr (setNode s sl (.radv rest))) c) (w.aux.toNat % 16) =
        getRing (radvDo (getCl s c) (w.aux.toNat % 16) w.imm.toNat (w.aux.getLsbD 4)
          (ringMine (getCl s c) (w.aux.toNat % 16) (partOf (setNode s sl (.radv rest)) sl.tile))).1 (w.aux.toNat % 16) :=
      getRing_radvApply ..
    rw [hp, hm, hd, getRing_radvDo_tail, BitVec.ofNat_toNat, BitVec.setWidth_eq, ringOcc] at hg
    rw [hg]
    split <;> exact ⟨rfl, rfl⟩

/-! ## RSTAT (R221) -/

/-- A node word that a slot holds has passed the loader's check (R52). -/
theorem nodeCheck_of_decodeSlot {v : Word} {op : NodeOp} {w : NWord} (h : decodeSlot v = .ok (some (nodeInstr op w))) : nodeCheck op w = none := by
  simp only [decodeSlot] at h
  split at h
  · split at h <;> cases h
  split at h
  · split at h
    · cases h
    split at h
    · cases h
    next op' _ _ f _ _ hc =>
      have hv : view (nodeInstr op' f) = view (nodeInstr op w) := congrArg view (Option.some.inj (Except.ok.inj h))
      rw [view_nodeInstr, view_nodeInstr] at hv
      cases hv
      exact hc
  · split at h
    · cases h
    split at h
    · cases h
    next op' _ _ _ f _ _ hc =>
      have hv : view (memInstr op' f) = view (nodeInstr op w) := congrArg view (Option.some.inj (Except.ok.inj h))
      rw [view_nodeInstr, view_memInstr] at hv
      cases hv
  · cases h

theorem decodeSlot_of_slotInstr {x : Tile} {k : Nat} {i : Instr} (h : slotInstr x k = some i) : ∃ v, decodeSlot v = .ok (some i) := by
  unfold slotInstr at h
  split at h
  · cases h
  split at h
  · split at h
    next r hr => exact ⟨_, h ▸ hr⟩
    · cases h
  · cases h

theorem nodeCheck_of_turn {op : NodeOp} {w : NWord} {sl : SlotId} {s : State} (h : AtTurn s sl (nodeInstr op w)) : nodeCheck op w = none := by
  obtain ⟨v, hv⟩ := decodeSlot_of_slotInstr (canFire_instr h.2)
  exact nodeCheck_of_decodeSlot hv

theorem nodeCheck_ty {op : NodeOp} {w : NWord} (h : nodeCheck op w = none) : (nodeRule op).tys.contains w.ty = true := by
  by_contra hn
  have e : nodeCheck op w = some .type := by
    unfold nodeCheck
    exact if_pos hn
  rw [e] at h
  cases h

/-- What RSTAT makes of a ring. -/
def rstatCalc (r : Ring) : Calc where
  pay := packElems 32 [r.head.toNat, r.tail.toNat, ringOcc r, ringNt r, r.base, r.size, r.tsz, flag r.few 0]
  fmt := 1
  valid := some 0x00FF

/-- A lane of packed 32-bit values that is valid. -/
theorem lane_packElems (v : BitVec 16) (l : List Nat) {i : Nat} (hi : i < 16) (hv : v.getLsbD i = true) :
    lane (zeroInvalid v (packElems 32 l)) i = BitVec.ofNat 32 (l.getD i 0) := by
  have hl : laneOf 32 i = i := by simp [laneOf]
  have he := elem_zeroInvalid (w := 32) (by decide) v (packElems 32 l) i (by omega)
  rw [hl, if_pos hv, elem_packElems (by decide) l i (by omega)] at he
  apply BitVec.eq_of_toNat_eq
  rw [BitVec.toNat_ofNat]
  exact he

theorem rstat_reads {w : NWord} {sl : SlotId} {s : State} (h : AtTurn s sl (.rstat w)) :
    let r := getRing (getCl s (clusterOf s sl.tile)) (w.aux.toNat % 16)
    Completes (.rstat w) s fun t => Issued s t sl ∧ TileFrame s t sl.tile ∧
      (latchOf t sl).valid = 0x00FF ∧ (latchOf t sl).fmt = 1 ∧
      ∀ i, i < 8 → lane (latchOf t sl).pay i =
        BitVec.ofNat 32 ([r.head.toNat, r.tail.toNat, ringOcc r, ringNt r, r.base, r.size, r.tsz, flag r.few 0].getD i 0) := by
  intro r
  have hty : w.ty = .b32 := List.eq_of_mem_singleton (List.contains_iff_mem.mp (nodeCheck_ty (nodeCheck_of_turn (op := .rstat) h)))
  have hok : (fireOf s sl (.node .rstat w)).pktOk = true := by simp [fireOf, hty]
  have e : execRstat w s = .next (fireState (.node .rstat w) w (fun _ => rstatCalc r) (fun _ _ t => t) sl s) := atSlot_turn h _
  obtain ⟨k, hs⟩ := slotAt_fireState (.node .rstat w) w (fun _ => rstatCalc r) (fun _ _ t => t) sl s hok
  refine ⟨_, e, issued_fires _ _ _ _ _ _ hs ⟨rfl, rfl⟩, fireState_frame .., ?_⟩
  rw [latchOf_eq, hs]
  refine ⟨rfl, rfl, fun i hi => lane_packElems 0x00FF _ (by omega) ?_⟩
  interval_cases i <;> rfl

/-- Settles O33: each node's firing takes its heads, which leaves the rings and queues, and does what its own lemmas say. -/
theorem matrixNodes : Obligations.MatrixNodes := by
  intro w sl s c n r
  refine ⟨fun h => ⟨fun hd => ?_, fun hd ho => ?_⟩, fun h => mseq_begins h, fun k i tok mode thr hh hn ho ht hu => ?_,
    fun h hm => ⟨fun hd => radv_head h hm hd, fun hd => ?_⟩, fun k before thr rest hh hi hn hd hs hm => radvPublish_acts hh hi hn hd hs hm, fun h => ?_⟩
  · obtain ⟨t, he, h1, h2, h3, h4, hq, hp⟩ := mxn_sends h hd
    exact ⟨t, he, h1, h2, h3, h4, _, hq, rfl, rfl, rfl, rfl, rfl, hp⟩
  · obtain ⟨t, he, h1, h2, hp⟩ := mxn_refuses h hd ho
    rw [retireValue_refused] at hp
    exact ⟨t, he, h1, h2, hp⟩
  · obtain ⟨t, he, h1, h2, hp⟩ := mseqEmit_sends hh hn ho ht hu
    exact ⟨t, he, h1, h2, _, hp, mseqTok_modes mode tok i⟩
  · obtain ⟨t, he, h1, h2, k, l, hn, hp⟩ := radv_tail h hd
    exact ⟨t, he, h1, h2, k, l, hn, hp⟩
  · obtain ⟨t, he, h1, h2, hv, hf, hl⟩ := rstat_reads h
    refine ⟨t, he, h1, h2, hv, hf, ?_, ?_, ?_, fun _ _ _ => ⟨?_, ?_, ?_, ?_, ?_⟩⟩
    · exact (hl 0 (by decide)).trans (BitVec.ofNat_toNat ..)
    · exact (hl 1 (by decide)).trans (BitVec.ofNat_toNat ..)
    · exact (hl 2 (by decide)).trans (BitVec.ofNat_toNat ..)
    · exact hl 3 (by decide)
    · exact hl 4 (by decide)
    · exact hl 5 (by decide)
    · exact hl 6 (by decide)
    · refine (hl 7 (by decide)).trans ?_
      change BitVec.ofNat 32 (flag r.few 0) = _
      cases r.few <;> rfl

end Sys2Proof.Machine
end

section
/-! PROOFS. The configuration stream: END at a plane for which the launch holds two loads. -/
namespace Sys2Proof.Machine
open Sys2Proof

/-! ## END with a second load queued for its plane (R179, R180) -/

/-- A load of plane 1 that has taken BEGIN, PLANE, the four PC commands and CHECK of a PART image at address 0: its END is left. -/
def loadAtEnd : Load :=
  { pc := 0, plane := 1, cfgld := true, started := true, words := [0xFFFF0000], seen := [62, 11, 10, 9, 8, 1, 0],
    pcw := [(0, 0), (1, 0), (2, 0), (3, 0)], part := true }

/-- A second load of the same plane, asked for while the first runs and not begun. -/
def loadBehind : Load := { pc := 0x1000, plane := 1, cfgld := true }

/-- The launch of handle 1 on die 0, and cluster 0 of that die, which issued it. -/
abbrev launchOne : LaunchId := ⟨0, 1⟩
abbrev clusterZero : ClusterId := ⟨0, 0⟩

/-- A running launch of one tile with both loads, in the order of their issue. -/
def launchTwoLoads : Launch :=
  { lr := blankRec, issuer := some clusterZero, near := clusterZero, place := 0, order := 0, corner := some (0, 1), st := .running, active := some 0,
    planes := [(0, { st := .resident }), (1, { st := .loading })], loads := [loadAtEnd, loadBehind] }

/-- The turn of the loader of the launch's plane 1. -/
def atEndState : State := setLaunch { State.reset with here := .loader launchOne 1 } launchOne launchTwoLoads

/-- What END leaves of the first load: the model writes it over the load behind it. -/
def loadEnded : Load := { loadAtEnd with words := [], seen := 63 :: loadAtEnd.seen, sum := 0xFFFF }

/-- The loads of the launch after a step. -/
def loadsAfter : Host.Outcome State Fault Refusal → Option (List Load)
  | .next t => (findLaunch t launchOne).map (·.loads)
  | _ => none

theorem loadsAfter_endStream : loadsAfter (exec .endStream atEndState) = some [loadEnded] := by
  decide +kernel

/-- Refutes O52: with two loads queued for a plane, END takes the first one out (`endLoad`) and the loader then writes that load back over the
second (`setLoad`), so that the launch holds the ended load in place of the one behind it. -/
theorem not_configurationStreams : ¬ Obligations.ConfigurationStreams := by
  intro h
  obtain ⟨-, -, -, -, -, -, -, -, -, -, -, -, hEnd⟩ :=
    h.1 launchOne atEndState launchTwoLoads loadAtEnd 0xFFFF0000 [] clusterZero 1 rfl (by decide +kernel) (by decide +kernel) rfl rfl
  obtain ⟨t, hx, -, -, -, -, z, hz, -, hloads⟩ := hEnd (by decide +kernel) (by decide) (by decide) rfl rfl (.inl rfl) (.inl rfl)
    (by decide +kernel) (by decide +kernel) (by decide +kernel) (by decide +kernel) (by decide +kernel)
  have hleft : z.loads = [loadEnded] := by
    have hstep := loadsAfter_endStream
    rw [hx] at hstep
    simpa [loadsAfter, hz] using hstep
  have hclaim : z.loads = [loadBehind] := hloads
  exact absurd (hleft.symm.trans hclaim) (by decide)

end Sys2Proof.Machine
end

section
/-! PROOFS. The operations of the matrix array (R85, R208, R222 to R226, R289): what each works out to write, what the buffers hold once it is written, and
ENGINE_WRITE of one granule. -/
namespace Sys2Proof.Machine
open Sys2Proof

/-! ## Bytes, elements and payloads (R59) -/

theorem ofBytes_append (l r : List Byte) : ofBytes (l ++ r) = ofBytes l + 256 ^ l.length * ofBytes r := by
  induction l with
  | nil => simp [ofBytes]
  | cons b l ih => simp only [List.cons_append, ofBytes, ih, List.length_cons, Nat.pow_succ]; ring

theorem ofBytes_lt (l : List Byte) : ofBytes l < 256 ^ l.length := by
  induction l with
  | nil => simp [ofBytes]
  | cons b l ih =>
    have hb : b.toNat < 256 := b.isLt
    simp only [ofBytes, List.length_cons, Nat.pow_succ]
    omega

theorem ofBytes_readBytes_lt (m : Assoc Byte) (a n : Nat) : ofBytes (readBytes m a n) < 256 ^ n := by
  simpa using ofBytes_lt (readBytes m a n)

/-- Bytes in the middle of a read. -/
theorem ofBytes_readBytes_mid (m : Assoc Byte) (a pre n post : Nat) :
    ofBytes (readBytes m a (pre + n + post)) / 256 ^ pre % 256 ^ n = ofBytes (readBytes m (a + pre) n) := by
  have hpre := ofBytes_readBytes_lt m a pre
  have hmid := ofBytes_readBytes_lt m (a + pre) n
  rw [Nat.add_assoc, readBytes_add, ofBytes_append, readBytes_length, Nat.add_mul_div_left _ _ (by positivity), Nat.div_eq_of_lt hpre, Nat.zero_add,
    readBytes_add, ofBytes_append, readBytes_length, Nat.add_mul_mod_self_left, Nat.mod_eq_of_lt hmid]

/-- Bytes put together as a bit vector of their width keep their value. -/
theorem toNat_ofNat_ofBytes (bs : List Byte) : (BitVec.ofNat (8 * bs.length) (ofBytes bs)).toNat = ofBytes bs := by
  rw [BitVec.toNat_ofNat, Nat.pow_mul]
  exact Nat.mod_eq_of_lt (ofBytes_lt bs)

theorem ofBytes_bytesOf_toNat (n : Nat) (p : BitVec (8 * n)) : ofBytes (bytesOf n p.toNat) = p.toNat := by
  have hp := p.isLt
  rw [Nat.pow_mul] at hp
  rw [ofBytes_bytesOf]
  exact Nat.mod_eq_of_lt hp

theorem toNat_payloadOf {bs : List Byte} (h : bs.length = 64) : (payloadOf bs).toNat = ofBytes bs := by
  have e := toNat_ofNat_ofBytes bs
  rwa [h] at e

theorem payloadOf_payloadBytes (p : Payload) : payloadOf (payloadBytes p) = p := by
  apply BitVec.eq_of_toNat_eq
  exact (toNat_payloadOf (bytesOf_length ..)).trans (ofBytes_bytesOf_toNat 64 p)

/-- A 32-bit element of a granule's payload is the value of its four bytes. -/
theorem elem_payloadOf_readBytes (m : Assoc Byte) (a : Nat) {i : Nat} (h : i < 16) :
    elem 32 (payloadOf (readBytes m a 64)) i = ofBytes (readBytes m (a + 4 * i) 4) := by
  have hmid := ofBytes_readBytes_mid m a (4 * i) 4 (60 - 4 * i)
  rw [show 4 * i + 4 + (60 - 4 * i) = 64 by omega, Nat.pow_mul] at hmid
  rw [elem, BitVec.extractLsb'_toNat, toNat_payloadOf (readBytes_length ..), Nat.shiftRight_eq_div_pow, Nat.pow_mul]
  exact hmid

/-! ## Granules of buffers (R201, R203) -/

theorem granKey_div_mod (k : Nat) : granKey (k / 2 ^ 16) (k % 2 ^ 16) = k := Nat.div_add_mod' ..

/-- The bytes of a granule stand at its key. -/
theorem bufKey_eq_granKey (space g : Nat) : bufKey space (64 * g) = 64 * granKey space g := by
  simp only [bufKey, granKey]
  omega

theorem granRead_granPut (x : Cluster) (space g : Nat) (p : Payload) (space' g' : Nat) :
    granRead (granPut x space g p) space' g' = if granKey space' g' = granKey space g then p else granRead x space' g' := by
  have hlen : (payloadBytes p).length = 64 := bytesOf_length ..
  have e : granRead (granPut x space g p) space' g' =
      payloadOf (readBytes (writeBytes x.buf (64 * granKey space g) (payloadBytes p)) (64 * granKey space' g') 64) := by
    rw [← bufKey_eq_granKey, ← bufKey_eq_granKey]
    rfl
  rw [e]
  split
  next h =>
    have hsame := readBytes_writeBytes_same x.buf (64 * granKey space g) (payloadBytes p)
    rw [hlen] at hsame
    rw [h, hsame, payloadOf_payloadBytes]
  next h =>
    rw [readBytes_writeBytes_other _ _ (by omega), ← bufKey_eq_granKey]
    rfl

theorem bufIsFull_granPut (x : Cluster) (space g : Nat) (p : Payload) (space' g' : Nat) :
    bufIsFull (granPut x space g p) space' g' = if granKey space' g' = granKey space g then true else bufIsFull x space' g' := by
  rw [granPut, bufIsFull, bufSetFull, aget_aput]
  rfl

/-- Granules written one after another, each set full: what ENGINE_WRITE leaves of an operation's buffers at the end. -/
def putGrans (x : Cluster) (l : List (Nat × Payload)) : Cluster := l.foldl (fun x (k, p) => granPut x (k / 2 ^ 16) (k % 2 ^ 16) p) x

theorem afterOps_snoc (x : Cluster) (pre : List MOp) (o : MOp) : afterOps x (pre ++ [o]) = putGrans (afterOps x pre) o.todo := by
  simp only [afterOps, putGrans, List.foldl_append, List.foldl_cons, List.foldl_nil]

/-- A granule that a list of writes gives one payload, or does not name and that holds it already. -/
theorem granRead_putGrans {x : Cluster} {l : List (Nat × Payload)} {space g : Nat} {p : Payload}
    (hall : ∀ e ∈ l, e.1 = granKey space g → e.2 = p) (h : (∃ e ∈ l, e.1 = granKey space g) ∨ granRead x space g = p) :
    granRead (putGrans x l) space g = p := by
  induction l generalizing x with
  | nil => simpa [putGrans] using h
  | cons e l ih =>
    refine ih (fun f hf => hall f (List.mem_cons_of_mem _ hf)) ?_
    rw [granRead_granPut, granKey_div_mod]
    split
    next hk => exact .inr (hall e List.mem_cons_self hk.symm)
    next hk => simpa [Ne.symm hk] using h

theorem bufIsFull_putGrans {x : Cluster} {l : List (Nat × Payload)} {space g : Nat}
    (h : (∃ e ∈ l, e.1 = granKey space g) ∨ bufIsFull x space g = true) : bufIsFull (putGrans x l) space g = true := by
  induction l generalizing x with
  | nil => simpa [putGrans] using h
  | cons e l ih =>
    refine ih ?_
    rw [bufIsFull_granPut, granKey_div_mod]
    split
    next => exact .inr rfl
    next hk => simpa [Ne.symm hk] using h

/-! ## Elements of CTILE (R201, R222) -/

/-- The granule of CBUF that holds an element. -/
theorem cAddr_gran (tile m n : Nat) : cAddr tile m n / 64 = tile * 256 + 4 * m + n / 16 := by
  rw [cAddr]
  omega

theorem cRead_eq_elem (x : Cluster) (tile m n : Nat) : cRead x tile m n = elem 32 (granRead x 3 (cAddr tile m n / 64)) (n % 16) := by
  have e : bufKey 3 (cAddr tile m n) = bufKey 3 (64 * (cAddr tile m n / 64)) + 4 * (n % 16) := by
    simp only [bufKey, cAddr]
    omega
  rw [granRead, bufRead, elem_payloadOf_readBytes _ _ (Nat.mod_lt n (by norm_num)), ← e]
  rfl

theorem cRead_lt (x : Cluster) (tile m n : Nat) : cRead x tile m n < 2 ^ 32 := ofBytes_readBytes_lt ..

theorem tileElem_four_lt (x : Cluster) (n : Nat) (t : BitVec 16) (tpr r k : Nat) : tileElem x n t tpr 4 r k < 2 ^ 32 := ofBytes_readBytes_lt ..

/-- An element of a granule that an operation writes: its cell, or beyond its columns the value that is there. -/
def cellOr (x : Cluster) (w : XWord) (cell : Nat → Nat → Nat) (m n : Nat) : Nat := if n < colsOf w then cell m n else cRead x w.ctile.toNat m n

/-- The granule of CTILE with elements 16 j to 16 j + 15 of a row. -/
def cGran (x : Cluster) (w : XWord) (cell : Nat → Nat → Nat) (m j : Nat) : Nat × Payload :=
  (granKey 3 (w.ctile.toNat * 256 + 4 * m + j), packElems 32 ((List.range 16).map fun i => cellOr x w cell m (16 * j + i)))

theorem mem_cGrans {x : Cluster} {w : XWord} {cell : Nat → Nat → Nat} {e : Nat × Payload} :
    e ∈ cGrans x w cell ↔ ∃ m j, m < rowsOf w ∧ 16 * j < colsOf w ∧ e = cGran x w cell m j := by
  have hgran (m j : Nat) : cAddr w.ctile.toNat m (16 * j) / 64 = w.ctile.toNat * 256 + 4 * m + j := by
    rw [cAddr_gran, Nat.mul_div_cancel_left _ (by norm_num)]
  have hcol (j : Nat) : j < (colsOf w + 15) / 16 ↔ 16 * j < colsOf w := by omega
  simp only [cGrans, List.mem_flatMap, List.mem_map, List.mem_range, hgran, hcol]
  constructor
  · rintro ⟨m, hm, j, hj, rfl⟩
    exact ⟨m, j, hm, hj, rfl⟩
  · rintro ⟨m, j, hm, hj, rfl⟩
    exact ⟨m, hm, j, hj, rfl⟩

/-- Two granules of a tile with one key are at one row and one group of columns. -/
theorem cGran_key_inj {x : Cluster} {w : XWord} {cell : Nat → Nat → Nat} {m j n : Nat} (hj : 16 * j < colsOf w) (hn : n < 64) {m' : Nat}
    (h : (cGran x w cell m j).1 = granKey 3 (cAddr w.ctile.toNat m' n / 64)) : m = m' ∧ j = n / 16 := by
  have hcols : colsOf w ≤ 64 := w.n1.isLt
  rw [cAddr_gran] at h
  simp only [cGran, granKey] at h
  omega

/-- After the granules are written an element of the operation is its cell, another of the tile as before. -/
theorem cRead_putGrans_cGrans (x : Cluster) (w : XWord) {cell : Nat → Nat → Nat} (hcell : ∀ m n, cell m n < 2 ^ 32) {m n : Nat} (hn : n < 64) :
    cRead (putGrans x (cGrans x w cell)) w.ctile.toNat m n = if m < rowsOf w ∧ n < colsOf w then cell m n else cRead x w.ctile.toNat m n := by
  rw [cRead_eq_elem]
  by_cases hin : m < rowsOf w ∧ 16 * (n / 16) < colsOf w
  · have hread : granRead (putGrans x (cGrans x w cell)) 3 (cAddr w.ctile.toNat m n / 64) = (cGran x w cell m (n / 16)).2 := by
      refine granRead_putGrans (fun e he hk => ?_) (.inl ⟨_, mem_cGrans.mpr ⟨m, n / 16, hin.1, hin.2, rfl⟩, ?_⟩)
      · obtain ⟨m', j, -, hj, rfl⟩ := mem_cGrans.mp he
        obtain ⟨rfl, rfl⟩ := cGran_key_inj hj hn hk
        rfl
      · rw [cAddr_gran]
        rfl
    have hlt : cellOr x w cell m n < 2 ^ 32 := by
      unfold cellOr
      split
      · exact hcell m n
      · exact cRead_lt ..
    have hmod : n % 16 < 16 := Nat.mod_lt n (by norm_num)
    rw [hread, cGran, elem_packElems_map (by norm_num) _ _ hmod (by omega), Nat.div_add_mod, Nat.mod_eq_of_lt hlt]
    simp only [cellOr, hin.1, true_and]
  · have hread : granRead (putGrans x (cGrans x w cell)) 3 (cAddr w.ctile.toNat m n / 64) = granRead x 3 (cAddr w.ctile.toNat m n / 64) := by
      refine granRead_putGrans (fun e he hk => ?_) (.inr rfl)
      obtain ⟨m', j, hm, hj, rfl⟩ := mem_cGrans.mp he
      obtain ⟨rfl, rfl⟩ := cGran_key_inj hj hn hk
      exact absurd ⟨hm, hj⟩ hin
    rw [hread, ← cRead_eq_elem, if_neg (by omega)]

/-! ## Products (R85, R223) -/

/-- Rounding to F32 with infinity on overflow gives 32 bits. -/
theorem roundTo_f32_lt (v : FVal) : (roundTo fmtF32 v .rne .inf).bits < 2 ^ 32 := by
  have henc (neg : Bool) {mag : Nat} (h : mag ≤ fmtF32.inf) : fEnc fmtF32 neg mag < 2 ^ 32 := by
    have hinf : fmtF32.inf = 0x7F800000 := rfl
    rw [fEnc, show fmtF32.w - 1 = 31 from rfl]
    cases neg <;> simp only [flag, if_true, Bool.false_eq_true, if_false] <;> omega
  cases v with
  | nan => simp only [roundTo]; decide
  | inf neg => exact henc neg le_rfl
  | fin neg m e =>
    simp only [roundTo, roundFin]
    split
    · exact henc neg (Nat.zero_le _)
    · split
      · exact henc neg le_rfl
      next hover => exact henc neg ((Nat.le_of_not_lt hover).trans (by decide))

theorem wrapTo_lt (n : Int) : wrapTo 32 n < 2 ^ 32 := by
  simp only [wrapTo]
  omega

/-- Adding terms modulo 2^32 one by one is adding their sum. -/
theorem foldl_wrapTo_add (f : Nat → Int) (l : List Nat) {c0 : Nat} (h : c0 < 2 ^ 32) :
    l.foldl (fun acc k => wrapTo 32 ((acc : Int) + f k)) c0 = (((c0 : Int) + (l.map f).sum) % 2 ^ 32).toNat := by
  induction l generalizing c0 with
  | nil => simp only [List.foldl_nil, List.map_nil, List.sum_nil]; omega
  | cons k l ih =>
    rw [List.foldl_cons, ih (wrapTo_lt _), List.map_cons, List.sum_cons]
    simp only [wrapTo]
    omega

/-- Groups of 16 taken in their order are the range. -/
theorem flatMap_groups (n : Nat) : ((List.range n).flatMap fun g => (List.range 16).map fun j => 16 * g + j) = List.range (n * 16) := by
  induction n with
  | zero => rfl
  | succ n ih =>
    rw [List.range_succ (n := n), List.flatMap_append, ih, List.flatMap_singleton, Nat.succ_mul n 16, List.range_add, Nat.mul_comm 16 n]

/-- On integers an element is the sum of its products, modulo 2^32. -/
theorem mmElem_int {tyab : BitVec 4} (h : tyab = 4 ∨ tyab = 5) (groups : Nat) (a b : Nat → Nat) (σ : Nat → Int) {c0 : Nat} (hc : c0 < 2 ^ 32) :
    mmElem tyab groups a b σ c0 =
      (((c0 : Int) + ((List.range (groups * 16)).map fun k => ival 8 (tyab = 4) (a k) * ival 8 (tyab = 4) (b k)).sum) % 2 ^ 32).toNat := by
  rw [← flatMap_groups, ← foldl_wrapTo_add _ _ hc, List.foldl_flatMap, mmElem, if_pos h]

theorem foldl_lt {α : Type} {b : Nat} (f : Nat → α → Nat) (h : ∀ n a, f n a < b) (l : List α) {n : Nat} (hn : n < b) : l.foldl f n < b := by
  induction l generalizing n with
  | nil => exact hn
  | cons a l ih => exact ih (h n a)

theorem mmElem_lt (tyab : BitVec 4) (groups : Nat) (a b : Nat → Nat) (σ : Nat → Int) {c0 : Nat} (hc : c0 < 2 ^ 32) :
    mmElem tyab groups a b σ c0 < 2 ^ 32 := by
  by_cases h : tyab = 4 ∨ tyab = 5
  · rw [mmElem_int h groups a b σ hc]
    omega
  · rw [mmElem, if_neg h]
    exact foldl_lt _ (fun _ _ => roundTo_f32_lt _) _ hc

/-! ## The turn of an operation (R213, R222, R289) -/

/-- An operation is the first of its queue for which a test holds, when no earlier one meets it. -/
theorem splitFirst_append {p : MOp → Bool} {pre post : List MOp} {o : MOp} (hpre : ∀ e ∈ pre, p e = false) (ho : p o = true) :
    splitFirst p (pre ++ o :: post) = some (pre, o, post) := by
  induction pre with
  | nil => simp [splitFirst, ho]
  | cons e pre ih =>
    rw [List.cons_append, splitFirst, hpre e List.mem_cons_self, ih fun f hf => hpre f (List.mem_cons_of_mem _ hf)]
    rfl

/-- An operation of the array at its turn: started and not run, every earlier one run or refused. -/
structure ArrayTurn (s : State) (c : ClusterId) (q : Fin 2) (pre post : List MOp) (o : MOp) (i : Instr) : Prop where
  here : s.here = .array c q
  queue : getMq (getCl s c) q.val = pre ++ o :: post
  earlier : ∀ e ∈ pre, e.ran = true ∨ e.cause ≠ 0
  waits : o.ran = false
  accepted : o.cause = 0
  started : o.started = true
  decodes : decodeMatrix o.tok = some i

/-- At its turn an operation takes note of the granules that it writes, and changes nothing else. -/
theorem atArray_turn {s : State} {c : ClusterId} {q : Fin 2} {pre post : List MOp} {o : MOp} {i : Instr} (h : ArrayTurn s c q pre post o i)
    (go : Cluster → MOp → List (Nat × Payload)) :
    atArray i s go = .next (setCl s c (setMq (getCl s c) q.val
      (pre ++ { o with ran := true, todo := go (afterOps (getCl s c) pre) o } :: post))) := by
  have hsplit : splitFirst (fun o => !o.ran && o.cause = 0) (getMq (getCl s c) q.val) = some (pre, o, post) := by
    rw [h.queue]
    refine splitFirst_append (fun e he => ?_) (by simp [h.waits, h.accepted])
    obtain hr | hc := h.earlier e he
    · simp [hr]
    · simp [hc]
  simp only [atArray, h.here, hsplit, h.started, h.decodes, and_self, if_true]

/-- At its turn an operation takes note of what it writes and changes nothing else; once that is written, the buffers meet a condition. -/
def ArrayRuns (s : State) (c : ClusterId) (q : Fin 2) (pre post : List MOp) (o : MOp) (i : Instr) (p : Cluster → Prop) : Prop :=
  Completes i s fun u => ∃ l, let o' := { o with ran := true, todo := l }
    SameMem s u ∧ u.tiles = s.tiles ∧ SameCoresBut s u (· = c) ∧ SamePackage s u ∧
    getCl u c = setMq (getCl s c) q.val (pre ++ o' :: post) ∧ p (afterOps (getCl s c) (pre ++ [o']))

section
variable {s : State} {c : ClusterId} {q : Fin 2} {pre post : List MOp} {o : MOp} {w : XWord}

theorem arrayRuns_of_turn {i : Instr} (h : ArrayTurn s c q pre post o i) {go : Cluster → MOp → List (Nat × Payload)} (hexec : exec i s = atArray i s go)
    {p : Cluster → Prop} (hp : p (putGrans (afterOps (getCl s c) pre) (go (afterOps (getCl s c) pre) o))) : ArrayRuns s c q pre post o i p := by
  refine ⟨_, hexec.trans (atArray_turn h go), go (afterOps (getCl s c) pre) o, ?_⟩
  obtain ⟨hmem, htiles, -, -, -, hcores, hpkg⟩ := setCl_onlyCore s c
    (setMq (getCl s c) q.val (pre ++ { o with ran := true, todo := go (afterOps (getCl s c) pre) o } :: post))
  refine ⟨hmem, htiles, hcores, hpkg, getCl_setCl .., ?_⟩
  rw [afterOps_snoc]
  exact hp

/-- The elements of CTILE are an operation's cells where it has them, else those of some buffers. -/
def CellsAre (w : XWord) (x : Cluster) (cell : Nat → Nat → Nat) (y : Cluster) : Prop := ∀ m n, m < 64 → n < 64 →
  cRead y w.ctile.toNat m n = if m < rowsOf w ∧ n < colsOf w then cell m n else cRead x w.ctile.toNat m n

/-- An operation that writes granules of CTILE. -/
theorem arrayRuns_cells {i : Instr} (h : ArrayTurn s c q pre post o i) {go : Cluster → MOp → List (Nat × Payload)} (hexec : exec i s = atArray i s go)
    {cell : Nat → Nat → Nat} (hgo : go (afterOps (getCl s c) pre) o = cGrans (afterOps (getCl s c) pre) w cell) (hcell : ∀ m n, cell m n < 2 ^ 32) :
    ArrayRuns s c q pre post o i (CellsAre w (afterOps (getCl s c) pre) cell) := by
  refine arrayRuns_of_turn h hexec ?_
  rw [hgo]
  exact fun _ _ _ hn => cRead_putGrans_cGrans _ w hcell hn

/-- MZERO (R224). -/
theorem mzero_clears (h : ArrayTurn s c q pre post o (.mzero w)) :
    ArrayRuns s c q pre post o (.mzero w) (CellsAre w (afterOps (getCl s c) pre) fun _ _ => 0) :=
  arrayRuns_cells h (go := fun x _ => cGrans x w fun _ _ => 0) rfl rfl fun _ _ => by norm_num

/-- MLDC (R226). -/
theorem mldc_copies (h : ArrayTurn s c q pre post o (.mldc w)) :
    ArrayRuns s c q pre post o (.mldc w) (CellsAre w (afterOps (getCl s c) pre) fun m n =>
      tileElem (afterOps (getCl s c) pre) w.ringa.toNat o.ta ((colsOf w * 4 + 63) / 64) 4 m n) :=
  arrayRuns_cells h (go := fun x o => cGrans x w fun m n => tileElem x w.ringa.toNat o.ta ((colsOf w * 4 + 63) / 64) 4 m n) rfl rfl
    fun _ _ => tileElem_four_lt ..

/-! ### Products (R85, R223) -/

/-- Element `k` of a row of A, and of the column of B that it meets, rows of B being K when `t` says so. -/
def elemA (x : Cluster) (w : XWord) (o : MOp) (da : PktDec) (m k : Nat) : Nat := tileElem x w.ringa.toNat o.ta da.tpr (ebOf w.tyab) m k
def elemB (t : Bool) (x : Cluster) (w : XWord) (o : MOp) (db : PktDec) (n k : Nat) : Nat :=
  if t then tileElem x w.ringb.toNat o.tb db.tpr (ebOf w.tyab) k n else tileElem x w.ringb.toNat o.tb db.tpr (ebOf w.tyab) n k

/-- What an element's products are added to: the element's value under ACC, else 0 (R85). -/
def cellBefore (x : Cluster) (w : XWord) (m n : Nat) : Nat := if w.acc then cRead x w.ctile.toNat m n else 0

theorem cellBefore_lt (x : Cluster) (w : XWord) (m n : Nat) : cellBefore x w m n < 2 ^ 32 := by
  unfold cellBefore
  split
  · exact cRead_lt ..
  · norm_num

/-- One element of a product of two tiles whose headers are known. -/
def productCell (t : Bool) (x : Cluster) (w : XWord) (o : MOp) (da db : PktDec) (m n : Nat) : Nat :=
  mmElem w.tyab (depthK w / 16) (elemA x w o da m) (elemB t x w o db n)
    (fun g => tileScale da (ebOf w.tyab) m (16 * g) +
      (if t then tileScale db (ebOf w.tyab) (16 * g) n else tileScale db (ebOf w.tyab) n (16 * g))) (cellBefore x w m n)

theorem productCell_lt (t : Bool) (x : Cluster) (w : XWord) (o : MOp) (da db : PktDec) (m n : Nat) : productCell t x w o da db m n < 2 ^ 32 :=
  mmElem_lt _ _ _ _ _ (cellBefore_lt ..)

/-- On integers of one byte a product's element is the sum of its products, modulo 2^32. -/
theorem productCell_int {w : XWord} (h : w.tyab = 4 ∨ w.tyab = 5) (t : Bool) (x : Cluster) (o : MOp) (da db : PktDec) (m n : Nat) :
    productCell t x w o da db m n = (((cellBefore x w m n : Int) + ((List.range (depthK w)).map fun k =>
      ival 8 (w.tyab = 4) (elemA x w o da m k) * ival 8 (w.tyab = 4) (elemB t x w o db n k)).sum) % 2 ^ 32).toNat := by
  have hk : depthK w / 16 * 16 = depthK w := Nat.div_mul_cancel ⟨_, Nat.mul_comm ..⟩
  rw [productCell, mmElem_int h _ _ _ _ (cellBefore_lt ..), hk]

theorem ebOf_int {tyab : BitVec 4} (h : tyab = 4 ∨ tyab = 5) : ebOf tyab = 1 := by
  obtain rfl | rfl := h <;> rfl

theorem mmDo_of_headers {t : Bool} {x : Cluster} {da db : PktDec × Bool} (ha : tileHeader x w.ringa.toNat o.ta = some da)
    (hb : tileHeader x w.ringb.toNat o.tb = some db) : mmDo t w x o = cGrans x w (productCell t x w o da.1 db.1) := by
  simp only [mmDo, ha, hb]
  rfl

/-- MMUL and MMULT (R223), by what the instruction does at its turn. -/
theorem product_adds {t : Bool} {i : Instr} (hexec : exec i s = atArray i s (mmDo t w)) (h : ArrayTurn s c q pre post o i) {da db : PktDec × Bool}
    (ha : tileHeader (afterOps (getCl s c) pre) w.ringa.toNat o.ta = some da)
    (hb : tileHeader (afterOps (getCl s c) pre) w.ringb.toNat o.tb = some db) :
    ArrayRuns s c q pre post o i (CellsAre w (afterOps (getCl s c) pre) (productCell t (afterOps (getCl s c) pre) w o da.1 db.1)) :=
  arrayRuns_cells h hexec (mmDo_of_headers ha hb) fun _ _ => productCell_lt ..

/-! ### MSTC (R225) -/

/-- The granules of the tile that an MSTC writes, at its place in the ring's buffer. -/
def mstcGranules (w : XWord) (x : Cluster) (o : MOp) : List (Nat × Payload) :=
  (mstcTile w x).zipIdx.map fun (p, i) => (granKey (ringSpace w.ringa.toNat) (ringGran (getRing x w.ringa.toNat) o.td + i), p)

theorem mem_mstcGranules {x : Cluster} {e : Nat × Payload} : e ∈ mstcGranules w x o ↔ ∃ i p, (mstcTile w x)[i]? = some p ∧
    e = (granKey (ringSpace w.ringa.toNat) (ringGran (getRing x w.ringa.toNat) o.td + i), p) := by
  simp only [mstcGranules, List.mem_map, Prod.exists, List.mk_mem_zipIdx_iff_getElem?]
  constructor
  · rintro ⟨p, i, hp, rfl⟩
    exact ⟨i, p, hp, rfl⟩
  · rintro ⟨i, p, hp, rfl⟩
    exact ⟨p, i, hp, rfl⟩

/-- MSTC (R225): the tile's granules have distinct keys, so that each reads back. -/
theorem mstc_writes (h : ArrayTurn s c q pre post o (.mstc w)) :
    ArrayRuns s c q pre post o (.mstc w) fun y =>
      let x := afterOps (getCl s c) pre
      let g := ringGran (getRing x w.ringa.toNat) o.td
      ∀ i p, (mstcTile w x)[i]? = some p →
        granRead y (ringSpace w.ringa.toNat) (g + i) = p ∧ bufIsFull y (ringSpace w.ringa.toNat) (g + i) = true := by
  refine arrayRuns_of_turn h (go := mstcGranules w) rfl fun i p hp => ?_
  have hmem := (mem_mstcGranules (o := o)).mpr ⟨i, p, hp, rfl⟩
  refine ⟨granRead_putGrans (fun e he hk => ?_) (.inl ⟨_, hmem, rfl⟩), bufIsFull_putGrans (.inl ⟨_, hmem, rfl⟩)⟩
  obtain ⟨j, p', hj, rfl⟩ := mem_mstcGranules.mp he
  have hij : j = i := by
    simp only [granKey] at hk
    omega
  rw [hij, hp] at hj
  exact (Option.some.inj hj).symm

/-! ## ENGINE_WRITE of the array (R208, R289) -/

/-- The cluster after a granule of the array has been written. -/
def wroteGran (x : Cluster) (q : Fin 2) (k : Nat) (p : Payload) (ops : List MOp) : Cluster :=
  setMq { granPut x (k / 2 ^ 16) (k % 2 ^ 16) p with bufPoison := aput false (granPut x (k / 2 ^ 16) (k % 2 ^ 16) p).bufPoison k false } q.val ops

/-! The queues and the poison marks are no part of what is read. -/

theorem granRead_wroteGran (x : Cluster) (q : Fin 2) (k : Nat) (p : Payload) (ops : List MOp) (space g : Nat) :
    granRead (wroteGran x q k p ops) space g = if granKey space g = k then p else granRead x space g := by
  have h := granRead_granPut x (k / 2 ^ 16) (k % 2 ^ 16) p space g
  rwa [granKey_div_mod] at h

theorem bufIsFull_wroteGran (x : Cluster) (q : Fin 2) (k : Nat) (p : Payload) (ops : List MOp) (space g : Nat) :
    bufIsFull (wroteGran x q k p ops) space g = if granKey space g = k then true else bufIsFull x space g := by
  have h := bufIsFull_granPut x (k / 2 ^ 16) (k % 2 ^ 16) p space g
  rwa [granKey_div_mod] at h

variable {k : Nat} {p : Payload} (hq : getMq (getCl s c) q.val = pre ++ o :: post) (hpre : ∀ e ∈ pre, ∀ f ∈ e.todo, f.1 ≠ k)
  (ho : o.todo.find? (fun e => e.1 = k) = some (k, p))
  (hclaim : k / 2 ^ 16 = 3 ∨
    claimedBy (getCl s c) (pre ++ ((getCl s c).mqs.filter fun e => e.1 ≠ q.val).flatMap (·.2)) (k / 2 ^ 16) (k % 2 ^ 16) = false)
include hq hpre ho hclaim

theorem arrayWrite_writes (hparked : parkedAll s = []) : arrayWrite s c q k =
    setCl s c (wroteGran (getCl s c) q k p (pre ++ { o with todo := o.todo.eraseP fun e => e.1 = k } :: post)) := by
  have hsplit : splitFirst (fun o => o.todo.any fun e => e.1 = k) (getMq (getCl s c) q.val) = some (pre, o, post) := by
    rw [hq]
    refine splitFirst_append (fun e he => by simpa using hpre e he) (List.any_eq_true.mpr ⟨(k, p), List.mem_of_find?_eq_some ho, by simp⟩)
  have hfree : ((k / 2 ^ 16 ≠ 3 : Bool) && claimedBy (getCl s c) (pre ++ ((getCl s c).mqs.filter fun e => e.1 ≠ q.val).flatMap (·.2))
      (k / 2 ^ 16) (k % 2 ^ 16)) = false := by
    obtain h3 | hc := hclaim
    · rw [h3]
      rfl
    · rw [hc, Bool.and_false]
  simp only [arrayWrite, hsplit, hfree, ho, Bool.false_eq_true, if_false]
  exact settle_of_noneParked ((parkedAll_congr rfl).trans hparked)

theorem engineWrite_array (hh : s.here = .arrayGran c q k) (hparked : parkedAll s = []) : Completes .engineWrite s fun u =>
    SameMem s u ∧ u.tiles = s.tiles ∧ SameCoresBut s u (· = c) ∧ SamePackage s u ∧
    getMq (getCl u c) q.val = pre ++ { o with todo := o.todo.eraseP fun e => e.1 = k } :: post ∧
    granRead (getCl u c) (k / 2 ^ 16) (k % 2 ^ 16) = p ∧ bufIsFull (getCl u c) (k / 2 ^ 16) (k % 2 ^ 16) = true ∧
    ∀ sp g, granKey sp g ≠ k → granRead (getCl u c) sp g = granRead (getCl s c) sp g ∧ bufIsFull (getCl u c) sp g = bufIsFull (getCl s c) sp g := by
  let ops := pre ++ { o with todo := o.todo.eraseP fun e => e.1 = k } :: post
  have hexec : exec .engineWrite s = .next (setCl s c (wroteGran (getCl s c) q k p ops)) := by
    change execEngineWrite s = _
    simp only [execEngineWrite, hh, arrayWrite_writes hq hpre ho hclaim hparked, ops]
  obtain ⟨hmem, htiles, -, -, -, hcores, hpkg⟩ := setCl_onlyCore s c (wroteGran (getCl s c) q k p ops)
  refine ⟨_, hexec, hmem, htiles, hcores, hpkg, ?_⟩
  rw [getCl_setCl, granRead_wroteGran, bufIsFull_wroteGran, if_pos (granKey_div_mod k), if_pos (granKey_div_mod k)]
  refine ⟨getMq_setMq .., rfl, rfl, fun sp g hne => ⟨?_, ?_⟩⟩
  · rw [granRead_wroteGran, if_neg hne]
  · rw [bufIsFull_wroteGran, if_neg hne]

end

/-- Settles O34: each operation's turn gives the granules of its cells, or of its tile, which read back once they are written; on integers the sum of
the products is taken modulo 2^32 at its end and after each product alike. -/
theorem arrayOperationsRun : Obligations.ArrayOperationsRun := by
  intro w s c q pre post o x0 x tile a b ta tb runs cells sum c0 float product
  have hproduct (t : Bool) (i : Instr) (hexec : exec i s = atArray i s (mmDo t w)) : product t i := by
    intro ha hb hh hq hpre hr hc hs hd
    obtain ⟨da, hda⟩ := Option.isSome_iff_exists.mp ha
    obtain ⟨db, hdb⟩ := Option.isSome_iff_exists.mp hb
    have hcell (m n : Nat) : productCell t x w o da.1 db.1 m n =
        if w.tyab = 4 ∨ w.tyab = 5 then (((c0 m n : Int) + sum t m n) % 2 ^ 32).toNat else float t m n := by
      simp only [sum, float, hda, hdb]
      split
      next hint =>
        rw [productCell_int hint]
        simp only [elemA, elemB, ebOf_int hint]
        rfl
      next => rfl
    have h := product_adds hexec ⟨hh, hq, hpre, hr, hc, hs, hd⟩ hda hdb
    rwa [funext₂ hcell] at h
  exact ⟨hproduct false _ rfl, hproduct true _ rfl,
    fun hh hq hpre hr hc hs hd => mzero_clears ⟨hh, hq, hpre, hr, hc, hs, hd⟩,
    fun hh hq hpre hr hc hs hd => mldc_copies ⟨hh, hq, hpre, hr, hc, hs, hd⟩,
    fun hh hq hpre hr hc hs hd => mstc_writes ⟨hh, hq, hpre, hr, hc, hs, hd⟩,
    fun k p hh hparked hq hpre ho hclaim => engineWrite_array hq hpre ho hclaim hh hparked⟩

end Sys2Proof.Machine
end

section
/-! PROOFS. What calculating nodes and register instructions of a core come to, over one function of numbers (R88, R89, R92, R93). -/
namespace Sys2Proof.Machine
open Sys2Proof

/-! ## A firing whose latch is the common result -/

/-- A node whose meaning is a calculation in the common firing, at its turn with a legal type: its slot has issued, its latch holds the common
result of the calculation, and that goes to the ports of OUT. -/
theorem fireCalc_completes {op : NodeOp} {value : CalcIn → Calc} (hexec : ∀ w s, exec (nodeInstr op w) s = fireCalc op value w s) {w : NWord}
    {sl : SlotId} {s : State} (ht : AtTurn s sl (nodeInstr op w)) (hk : (fireOf s sl (.node op w)).pktOk = true) :
    let x := fireOf s sl (.node op w)
    Completes (nodeInstr op w) s fun t => Issued s t sl ∧ latchOf t sl = resultTok x w (value ⟨x.ty, w, x.a, x.b, x.c⟩) ∧
      (w.out ≠ 0 → w.so = false → ∃ k, pipeOf t sl = pipeOf s sl ++ [{ results (emsOf w.out (latchOf t sl)) with arith := k }]) ∧
      TileFrame s t sl.tile := by
  intro x
  obtain ⟨k, hs⟩ := slotAt_fireState (.node op w) w (fun f => value ⟨f.ty, w, f.a, f.b, f.c⟩) (fun _ _ t => t) sl s hk
  have hlatch := congrArg Slot.latch hs
  have hpipe := congrArg Slot.pipe hs
  refine ⟨_, (hexec w s).trans (fireCalc_turn ht value), issued_fires _ _ _ _ _ _ hs ⟨rfl, rfl⟩, hlatch, fun ho hso => ⟨k, ?_⟩, fireState_frame ..⟩
  rw [secEms_of_so_false hso, List.append_nil, if_neg (emsOf_ne_nil ho _)] at hpipe
  rw [latchOf_eq, hlatch]
  exact hpipe

theorem tyWidth_eq (ty : Ty) : tyWidth ty = 8 ∨ tyWidth ty = 16 ∨ tyWidth ty = 32 ∨ (tyWidth ty = 64 ∧ ty = .i64x8) := by
  cases ty <;> simp [tyWidth]

theorem tyWidth_pos (ty : Ty) : 0 < tyWidth ty := by cases ty <;> decide

theorem tyWidth_mul_le {ty : Ty} {i : Nat} (h : i < 512 / tyWidth ty) : tyWidth ty * i + tyWidth ty ≤ 512 := by
  rcases tyWidth_eq ty with e | e | e | ⟨e, -⟩ <;> rw [e] at h ⊢ <;> omega

theorem elem_lt (w : Nat) (p : Payload) (i : Nat) : elem w p i < 2 ^ w := BitVec.isLt _

/-- The lanes of a pair are valid together, with VALID by the word's VM. -/
theorem vmValid_pair (vm : Vm) (k7 : Lane) (a b c : VTok) {i : Nat} (h : i < 8) :
    (vmValid vm .i64x8 k7 a b c).getLsbD (2 * i + 1) = (vmValid vm .i64x8 k7 a b c).getLsbD (2 * i) := pairValid_pair _ i h

/-- An element of a type stands in a result where its lanes are valid, and is zero elsewhere (R58, R89). -/
theorem elem_zeroInvalid_type {ty : Ty} {v : BitVec 16} (hv : ty = .i64x8 → ∀ i, i < 8 → v.getLsbD (2 * i + 1) = v.getLsbD (2 * i)) (p : Payload) {i : Nat}
    (hi : i < 512 / tyWidth ty) :
    elem (tyWidth ty) (zeroInvalid v p) i = if elemValid (tyWidth ty) v i then elem (tyWidth ty) p i else 0 := by
  have hle := tyWidth_mul_le hi
  have small (hd : tyWidth ty ∣ 32) (hn : tyWidth ty ≠ 64) :
      elem (tyWidth ty) (zeroInvalid v p) i = if elemValid (tyWidth ty) v i then elem (tyWidth ty) p i else 0 := by
    rw [elem_zeroInvalid hd v p i hle, elemValid, if_neg hn]
  rcases tyWidth_eq ty with e | e | e | ⟨e, hty⟩
  · exact small (by rw [e]; decide) (by rw [e]; decide)
  · exact small (by rw [e]; decide) (by rw [e]; decide)
  · exact small (by rw [e]) (by rw [e]; decide)
  · rw [e] at hi hle ⊢
    have hp := hv hty i (by omega)
    rw [elem_zeroInvalid_pair v p i hle hp, elemValid, if_pos rfl, hp, Bool.and_self]

/-- A node gives, in each element, what its calculation has there, where it gives the type's FMT and VALID by VM. -/
theorem nodeGives_of_elems {op : NodeOp} {value : CalcIn → Calc} (hexec : ∀ w s, exec (nodeInstr op w) s = fireCalc op value w s)
    {f : Nat → Bool → Nat → Nat → Nat → Nat} (hvalid : ∀ x, (value x).valid = none) (hfmt : ∀ x, (value x).fmt = tyCode x.ty)
    (helem : ∀ x i, i < 512 / tyWidth x.ty → elem (tyWidth x.ty) (value x).pay i =
      f (tyWidth x.ty) (tySigned x.ty) (elem (tyWidth x.ty) x.a.pay i) (elem (tyWidth x.ty) x.b.pay i) (elem (tyWidth x.ty) x.c.pay i)) :
    NodeGives op f := by
  intro w sl s ht x n hk _
  obtain ⟨t, he, hi, hl, hp, hf⟩ := fireCalc_completes hexec ht hk
  have hv : (latchOf t sl).valid = vmValid w.vm x.ty x.k7 x.a x.b x.c := by rw [hl, resultTok, hvalid]
  refine ⟨t, he, hi, by rw [hl]; rfl, by rw [hl]; exact hfmt _, by rw [hl]; rfl, hv, fun i hin => ?_, hp, hf⟩
  have hpay : (latchOf t sl).pay = zeroInvalid (latchOf t sl).valid (value ⟨x.ty, w, x.a, x.b, x.c⟩).pay := by rw [hl]; rfl
  rw [hpay, elem_zeroInvalid_type (fun hty i h8 => by rw [hv, hty]; exact vmValid_pair _ _ _ _ _ h8) _ hin, helem ⟨x.ty, w, x.a, x.b, x.c⟩ i hin]

/-- A node of the integer family gives its function of the elements. -/
theorem nodeGives_of_mapInt {op : NodeOp} {g f : Nat → Bool → Nat → Nat → Nat → Nat}
    (hexec : ∀ w s, exec (nodeInstr op w) s = fireCalc op (fun x => mapInt x g) w s)
    (hg : ∀ w sg a b c, 0 < w → a < 2 ^ w → b < 2 ^ w → c < 2 ^ w → g w sg a b c % 2 ^ w = f w sg a b c) : NodeGives op f := by
  refine nodeGives_of_elems hexec (fun _ => rfl) (fun _ => rfl) fun x i hi => ?_
  rw [mapInt, mkCalc, elem_packElems_map (tyWidth_pos x.ty) _ i hi (tyWidth_mul_le hi)]
  exact hg _ _ _ _ _ (tyWidth_pos x.ty) (elem_lt ..) (elem_lt ..) (elem_lt ..)

/-- A register instruction of a core, over one function of the values of its registers. -/
theorem coreGives_of_coreVal {op : CoreOp} {f : CWord → Word → Word → Word → Word} (g : CWord → Nat → Nat → Nat → Nat)
    (hexec : ∀ w s, exec (coreInstr op w) s = coreVal w s (g w)) (hg : ∀ w (a b d : Word), word (g w a.toNat b.toNat d.toNat) = f w a b d) :
    CoreGives op f := by
  intro w c s ht x
  refine ⟨giveX s c w.xd (f w (getX x w.xa) (getX x w.xb + w.imm) (getX x w.xd)) (x.pc + coreSize w.long), ?_, ?_, giveX_pc .., giveX_coreFrame ..⟩
  · rw [hexec, coreVal, atCore_turn ht, hg]
    rfl
  · split
    next h => rw [h]; rfl
    next h => exact giveX_getX _ _ _ _ _ h

end Sys2Proof.Machine
end

section
/-! PROOFS. The integer family on numbers (R57, R92, R96 to R99): what each function of the model comes to, in the words of the statements; and integer
arithmetic in a slot. -/
namespace Sys2Proof.Machine
open Sys2Proof

/-! ## Readings and wraps (R57, R96) -/

theorem wrapTo_eq (w : Nat) (x : Int) : wrapTo w x = (x % 2 ^ w).toNat := by rw [wrapTo]; push_cast; rfl

theorem wrapTo_natCast (w n : Nat) : wrapTo w (n : Int) = n % 2 ^ w := by rw [wrapTo]; omega

theorem wrapTo_lt_two_pow (w : Nat) (x : Int) : wrapTo w x < 2 ^ w := by
  have hpos : (0 : Int) < ((2 ^ w : Nat) : Int) := by positivity
  have := Int.emod_lt_of_pos x hpos
  rw [wrapTo]
  omega

theorem wrapTo_mod (w : Nat) (x : Int) : wrapTo w x % 2 ^ w = wrapTo w x := Nat.mod_eq_of_lt (wrapTo_lt_two_pow w x)

theorem two_pow_eq_double {w : Nat} (hw : 0 < w) : 2 ^ w = 2 * 2 ^ (w - 1) := by
  rw [← Nat.pow_succ', Nat.succ_eq_add_one, Nat.sub_add_cancel hw]

theorem sint_of_lt {w a : Nat} (h : a < 2 ^ (w - 1)) : sint w a = a := if_pos h
theorem sint_of_ge {w a : Nat} (h : 2 ^ (w - 1) ≤ a) : sint w a = (a : Int) - (2 ^ w : Nat) := if_neg (by omega)

theorem clampTo_eq {lo hi : Int} (h : lo ≤ hi) (x : Int) : clampTo lo hi x = Max.max lo (Min.min hi x) := by
  unfold clampTo
  split
  · omega
  · split <;> omega

/-! ## Arithmetic (R96) -/

section
variable {w a b : Nat}

theorem isub_eq (sg : Bool) (hb : b < 2 ^ w) : isub w sg a b = (a + 2 ^ w - b) % 2 ^ w := by
  have e : ((a + 2 ^ w - b : Nat) : Int) = (a : Int) - b + (2 ^ w : Nat) := by omega
  rw [← wrapTo_natCast, e, isub, wrapTo, wrapTo, Int.add_emod_right]

theorem ineg_eq (sg : Bool) (ha : a < 2 ^ w) : ineg w sg a = (2 ^ w - a) % 2 ^ w := by
  have h := isub_eq (a := 0) sg ha
  rw [isub, Nat.zero_add] at h
  rw [← h, ineg]
  simp

theorem clamp_signed_eq (w : Nat) (x : Int) :
    wrapTo w (clampTo (loOf w true) (hiOf w true) x) = (Max.max (-2 ^ (w - 1)) (Min.min (2 ^ (w - 1) - 1) x) % 2 ^ w).toNat := by
  have hpos : 0 < 2 ^ (w - 1) := by positivity
  have hle : loOf w true ≤ hiOf w true := by simp only [loOf, hiOf, if_true]; omega
  rw [clampTo_eq hle, wrapTo_eq]
  simp [loOf, hiOf]

/-- An unsigned result held between its limits. -/
theorem clamp_unsigned_eq (w : Nat) (x : Int) : wrapTo w (clampTo (loOf w false) (hiOf w false) x) = Min.min x.toNat (2 ^ w - 1) := by
  have hpos : 0 < 2 ^ w := by positivity
  have e : clampTo (loOf w false) (hiOf w false) x = (Min.min x.toNat (2 ^ w - 1) : Nat) := by
    simp only [clampTo, loOf, hiOf, Bool.false_eq_true, if_false]
    split
    · omega
    · split <;> omega
  rw [e, wrapTo_natCast]
  exact Nat.mod_eq_of_lt (by omega)

theorem iadds_eq (sg : Bool) (a b : Nat) : iadds w sg a b =
    if sg then (Max.max (-2 ^ (w - 1)) (Min.min (2 ^ (w - 1) - 1) (sint w a + sint w b)) % 2 ^ w).toNat else Min.min (a + b) (2 ^ w - 1) := by
  cases sg with
  | true => exact clamp_signed_eq ..
  | false => exact clamp_unsigned_eq w (a + b)

theorem isubs_eq (sg : Bool) (ha : a < 2 ^ w) : isubs w sg a b =
    if sg then (Max.max (-2 ^ (w - 1)) (Min.min (2 ^ (w - 1) - 1) (sint w a - sint w b)) % 2 ^ w).toNat else a - b := by
  cases sg with
  | true => exact clamp_signed_eq ..
  | false =>
    refine (clamp_unsigned_eq w (a - b)).trans ?_
    simp only [Int.toNat_sub, Bool.false_eq_true, if_false]
    omega

theorem imulh_eq (sg : Bool) (ha : a < 2 ^ w) (hb : b < 2 ^ w) :
    imulh w sg a b = if sg then ((sint w a * sint w b) / 2 ^ w % 2 ^ w).toNat else a * b / 2 ^ w := by
  cases sg with
  | true =>
    rw [imulh, wrapTo_eq]
    simp [ival]
  | false =>
    have hlt : a * b / 2 ^ w < 2 ^ w := Nat.div_lt_of_lt_mul (Nat.mul_lt_mul'' ha hb)
    have h := wrapTo_natCast w (a * b / 2 ^ w)
    rw [Nat.mod_eq_of_lt hlt] at h
    push_cast at h
    simpa [imulh, ival] using h

theorem imin_eq (sg : Bool) (a b : Nat) : imin w sg a b = if sg then (if sint w a < sint w b then a else b) else Min.min a b := by
  cases sg with
  | true => rfl
  | false => simp only [imin, ival, Bool.false_eq_true, if_false]; split <;> omega

theorem imax_eq (sg : Bool) (a b : Nat) : imax w sg a b = if sg then (if sint w a > sint w b then a else b) else Max.max a b := by
  cases sg with
  | true => rfl
  | false => simp only [imax, ival, Bool.false_eq_true, if_false]; split <;> omega

theorem imin_lt (sg : Bool) (ha : a < 2 ^ w) (hb : b < 2 ^ w) : imin w sg a b < 2 ^ w := by rw [imin]; split <;> assumption
theorem imax_lt (sg : Bool) (ha : a < 2 ^ w) (hb : b < 2 ^ w) : imax w sg a b < 2 ^ w := by rw [imax]; split <;> assumption

theorem iabs_eq (sg : Bool) (ha : a < 2 ^ w) : iabs w sg a = if a < 2 ^ (w - 1) then a else (2 ^ w - a) % 2 ^ w := by
  rw [iabs]
  split
  next h => rw [sint_of_lt h, Int.natAbs_natCast, Nat.mod_eq_of_lt ha]
  next h =>
    rw [sint_of_ge (by omega)]
    congr 1
    omega

/-! ## Bits, shifts, counts (R98, R99) -/

theorem inot_lt (w a : Nat) : inot w a < 2 ^ w := by
  have hpos : 0 < 2 ^ w := by positivity
  rw [inot]
  omega

theorem ishl_mod (w a b : Nat) : ishl w a b % 2 ^ w = if b < w then a * 2 ^ b % 2 ^ w else 0 := by
  rw [ishl, Nat.shiftLeft_eq, apply_ite (· % 2 ^ w)]
  simp only [Nat.mod_mod, Nat.zero_mod]

theorem ishr_mod (b : Nat) (ha : a < 2 ^ w) : ishr w a b % 2 ^ w = if b < w then a / 2 ^ b else 0 := by
  rw [ishr, Nat.shiftRight_eq_div_pow, apply_ite (· % 2 ^ w)]
  simp only [Nat.mod_eq_of_lt (lt_of_le_of_lt (Nat.div_le_self a (2 ^ b)) ha), Nat.zero_mod]

theorem isar_eq (hw : 0 < w) (ha : a < 2 ^ w) :
    isar w a b = if b < w then (sint w a / 2 ^ b % 2 ^ w).toNat else if 2 ^ (w - 1) ≤ a then 2 ^ w - 1 else 0 := by
  rw [isar]
  split
  next h =>
    rw [Nat.min_eq_left (by omega), wrapTo_eq]
    push_cast
    rfl
  next h =>
    have hd := two_pow_eq_double hw
    have hpos : 0 < 2 ^ (w - 1) := by positivity
    rw [Nat.min_eq_right (by omega)]
    split
    next hs =>
      have e : sint w a / ((2 ^ (w - 1) : Nat) : Int) = -1 := by
        rw [sint_of_ge hs, Int.ediv_eq_iff_of_pos (by omega)]
        omega
      have hone : wrapTo w (-1) = (2 ^ w - 1) % 2 ^ w := by
        have h1 := ineg_eq (w := w) (a := 1) true (by omega)
        exact h1
      rw [e, hone]
      exact Nat.mod_eq_of_lt (by omega)
    next hs =>
      have e : sint w a / ((2 ^ (w - 1) : Nat) : Int) = 0 := by
        rw [sint_of_lt (by omega), Int.ediv_eq_iff_of_pos (by omega)]
        omega
      rw [e]
      simp [wrapTo]

theorem irol_eq (hw : 0 < w) (ha : a < 2 ^ w) : irol w a b = a * 2 ^ (b % w) % 2 ^ w + a / 2 ^ (w - b % w) := by
  have hn : b % w < w := Nat.mod_lt b hw
  rw [irol]
  generalize b % w = n at hn
  have hpow : 2 ^ w = 2 ^ (w - n) * 2 ^ n := by rw [← Nat.pow_add, Nat.sub_add_cancel hn.le]
  have hhigh : a / 2 ^ (w - n) < 2 ^ n := Nat.div_lt_of_lt_mul (by rwa [← hpow])
  have hlow : a * 2 ^ n % 2 ^ w = (a % 2 ^ (w - n)) <<< n := by rw [hpow, Nat.mul_mod_mul_right, Nat.shiftLeft_eq]
  have hle : 2 ^ n ≤ 2 ^ w := Nat.pow_le_pow_right (by norm_num) hn.le
  rw [Nat.or_mod_two_pow, Nat.shiftLeft_eq, Nat.shiftRight_eq_div_pow, hlow, Nat.mod_eq_of_lt (hhigh.trans_le hle), Nat.shiftLeft_add_eq_or_of_lt hhigh]

theorem iclz_lt (w a : Nat) : iclz w a < 2 ^ w := by
  have : w < 2 ^ w := Nat.lt_two_pow_self
  rw [iclz]
  split <;> omega

theorem foldl_count (p : Nat → Bool) (l : List Nat) (n : Nat) : l.foldl (fun n i => n + if p i then 1 else 0) n = n + (l.filter p).length := by
  induction l generalizing n with
  | nil => rfl
  | cons i l ih => rw [List.foldl_cons, ih, List.filter_cons]; cases p i <;> simp [Nat.add_assoc, Nat.add_comm 1]

theorem ipopc_eq (w a : Nat) : ipopc w a = ((List.range w).filter a.testBit).length := by rw [ipopc, foldl_count, Nat.zero_add]

theorem ipopc_lt (w a : Nat) : ipopc w a < 2 ^ w := by
  rw [ipopc_eq]
  exact lt_of_le_of_lt ((List.length_filter_le ..).trans_eq List.length_range) Nat.lt_two_pow_self

theorem find_range'_eq_takeWhile (p : Nat → Bool) (k n : Nat) :
    ((List.range' k n).find? p).getD (k + n) = k + ((List.range' k n).takeWhile fun j => !p j).length := by
  induction n generalizing k with
  | zero => simp
  | succ n ih =>
    rw [List.range'_succ, List.find?_cons, List.takeWhile_cons]
    cases p k with
    | true => simp
    | false => simpa [Nat.add_assoc, Nat.add_comm 1] using ih (k + 1)

theorem ictz_eq (w a : Nat) : ictz w a = ((List.range w).takeWhile fun j => !a.testBit j).length := by
  have h := find_range'_eq_takeWhile a.testBit 0 w
  rwa [Nat.zero_add, Nat.zero_add, ← List.range_eq_range'] at h

theorem ictz_lt (w a : Nat) : ictz w a < 2 ^ w := by
  rw [ictz_eq]
  exact lt_of_le_of_lt ((List.takeWhile_sublist _).length_le.trans_eq List.length_range) Nat.lt_two_pow_self

/-- The first `n` bits, the lowest first. -/
theorem ibrev_succ (n a : Nat) : ibrev (n + 1) a = 2 * ibrev n a + if a.testBit n then 1 else 0 := by
  simp [ibrev, List.range_succ]

theorem testBit_ibrev (n a k : Nat) : (ibrev n a).testBit k = (decide (k < n) && a.testBit (n - 1 - k)) := by
  induction n generalizing k with
  | zero => simp [ibrev]
  | succ n ih =>
    have hdiv : ibrev (n + 1) a / 2 = ibrev n a := by rw [ibrev_succ]; split <;> omega
    cases k with
    | zero =>
      rw [Nat.testBit_zero, ibrev_succ]
      cases h : a.testBit n <;> simp [h]
    | succ k =>
      rw [Nat.testBit_succ, hdiv, ih, show n + 1 - 1 - (k + 1) = n - 1 - k by omega]
      simp

theorem ibrev_eq (w a : Nat) : ibrev w a = ((List.range w).map fun j => if a.testBit j then 2 ^ (w - 1 - j) else 0).sum := by
  induction w with
  | zero => rfl
  | succ n ih =>
    have hterm : ∀ j ∈ List.range n, (if a.testBit j then 2 ^ (n + 1 - 1 - j) else 0) = 2 * (if a.testBit j then 2 ^ (n - 1 - j) else 0) := by
      intro j hj
      rw [List.mem_range] at hj
      rw [show n + 1 - 1 - j = n - 1 - j + 1 by omega, Nat.pow_succ']
      split <;> rfl
    rw [ibrev_succ, ih, List.range_succ, List.map_append, List.sum_append, List.map_congr_left hterm, List.sum_map_mul_left]
    simp

theorem ibrev_lt (w a : Nat) : ibrev w a < 2 ^ w := by
  refine Nat.lt_pow_two_of_testBit _ fun k hk => ?_
  rw [testBit_ibrev, decide_eq_false (by omega), Bool.false_and]

end

/-- Settles O11: each instruction is its function of the elements (`nodeGives_of_mapInt`), which the lemmas on numbers give in the statement's words. -/
theorem nodeArithmetic : Obligations.NodeArithmetic := by
  unfold Obligations.NodeArithmetic
  refine ⟨?add, ?sub, ?mul, ?mad, ?mulh, ?adds, ?subs, ?min, ?max, ?abs, ?neg⟩ <;> refine nodeGives_of_mapInt (fun _ _ => rfl) fun w sg a b c hw ha hb hc => ?_
  case add | mul | mad => exact Nat.mod_mod _ _
  case sub => exact (wrapTo_mod ..).trans (isub_eq sg hb)
  case neg => exact (wrapTo_mod ..).trans (ineg_eq sg ha)
  case mulh => exact (wrapTo_mod ..).trans (imulh_eq sg ha hb)
  case adds => exact (wrapTo_mod ..).trans (iadds_eq sg a b)
  case subs => exact (wrapTo_mod ..).trans (isubs_eq sg ha)
  case min => exact (Nat.mod_eq_of_lt (imin_lt sg ha hb)).trans (imin_eq sg a b)
  case max => exact (Nat.mod_eq_of_lt (imax_lt sg ha hb)).trans (imax_eq sg a b)
  case abs => exact (Nat.mod_mod ..).trans (iabs_eq sg ha)

end Sys2Proof.Machine
end

section
/-! PROOFS. The integer family on 64-bit registers (R93, R96 to R104): bitwise operations, shifts, counts and SEL in slots and on the core; the core's
arithmetic, bit fields, compare and division. -/
namespace Sys2Proof.Machine
open Sys2Proof

theorem word_toNat (a : Word) : word a.toNat = a := BitVec.ofNat_toNat ..

theorem sint_toNat (a : Word) : sint 64 a.toNat = a.toInt := by
  rw [sint, BitVec.toInt_eq_toNat_cond]
  split <;> split <;> first | rfl | omega

theorem word_wrapTo (x : Int) : word (wrapTo 64 x) = BitVec.ofInt 64 x := by
  apply BitVec.eq_of_toNat_eq
  rw [word, BitVec.toNat_ofNat, wrapTo_mod, BitVec.toNat_ofInt, wrapTo]

/-- A number below 2^64 is the register value with that value. -/
theorem word_eq_of_toNat {n : Nat} {v : Word} (h : n = v.toNat) : word n = v := by rw [h, word_toNat]

theorem word_inot (a : Word) : word (inot 64 a.toNat) = ~~~a := word_eq_of_toNat BitVec.toNat_not.symm

theorem word_iandn (a b : Word) : word (iandn 64 a.toNat b.toNat) = a &&& ~~~b := by
  rw [iandn, word, BitVec.ofNat_and, ← word, ← word, word_toNat, word_inot]

theorem word_ishl (a b : Word) : word (ishl 64 a.toNat b.toNat) = if b.toNat < 64 then a <<< b.toNat else 0 := by
  rw [ishl]
  split
  · exact word_eq_of_toNat (BitVec.toNat_shiftLeft ..).symm
  · rfl

theorem word_ishr (a b : Word) : word (ishr 64 a.toNat b.toNat) = if b.toNat < 64 then a >>> b.toNat else 0 := by
  rw [ishr]
  split
  · exact word_eq_of_toNat (BitVec.toNat_ushiftRight ..).symm
  · rfl

theorem word_isar (a b : Word) : word (isar 64 a.toNat b.toNat) = a.sshiftRight (Min.min b.toNat 64) := by
  rw [isar, word_wrapTo, sint_toNat, ← BitVec.ofInt_toInt (x := a.sshiftRight _), BitVec.toInt_sshiftRight, Int.shiftRight_eq_div_pow]
  congr 1
  have hlo := BitVec.le_toInt a
  have hhi := BitVec.toInt_lt (x := a)
  rcases Nat.lt_or_ge b.toNat 64 with h | h
  · rw [Nat.min_eq_left (by omega), Nat.min_eq_left (by omega)]
  · rw [Nat.min_eq_right (by omega), Nat.min_eq_right h]
    omega

theorem word_irol (a b : Word) : word (irol 64 a.toNat b.toNat) = a.rotateLeft (b.toNat % 64) := by
  apply word_eq_of_toNat
  have ha : a.toNat >>> (64 - b.toNat % 64) < 2 ^ 64 := lt_of_le_of_lt (Nat.shiftRight_le ..) a.isLt
  rw [irol, Nat.or_mod_two_pow, Nat.mod_eq_of_lt ha, BitVec.toNat_rotateLeft, Nat.mod_mod]

theorem word_iclz (a : Word) : word (iclz 64 a.toNat) = word (if a = 0 then 64 else 63 - Nat.log2 a.toNat) := by
  simp only [iclz, BitVec.toNat_eq]
  rfl

theorem word_ibrev (a : Word) : word (ibrev 64 a.toNat) = a.reverse := by
  apply BitVec.eq_of_getLsbD_eq
  intro i hi
  rw [word, BitVec.getLsbD_ofNat, testBit_ibrev, BitVec.getLsbD_reverse, BitVec.getMsbD]
  simp [hi, BitVec.testBit_toNat]

/-- Settles O12: in a slot each instruction is its function of the elements, on the core its function of the registers. -/
theorem bitsAndCounts : Obligations.BitsAndCounts := by
  unfold Obligations.BitsAndCounts
  refine ⟨?nand, ?nor, ?nxor, ?nandn, ?nnot, ?nshl, ?nshr, ?nsar, ?nrol, ?nclz, ?npopc, ?nctz, ?nbrev, ?nsel, ?nmov,
    ?cand, ?cor, ?cxor, ?candn, ?cnot, ?cshl, ?cshr, ?csar, ?crol, ?cclz, ?cctz, ?cpopc, ?cbrev, ?csel, ?cmov⟩
  case nmov => exact nodeGives_of_elems (value := vMov) (fun _ _ => rfl) (fun _ => rfl) (fun _ => rfl) fun _ _ _ => rfl
  case' nand | nor | nxor | nandn | nnot | nshl | nshr | nsar | nrol | nclz | npopc | nctz | nbrev | nsel =>
    refine nodeGives_of_mapInt (fun _ _ => rfl) fun w _ a b c hw ha hb hc => ?_
  case nand => exact Nat.mod_eq_of_lt (Nat.and_lt_two_pow a hb)
  case nor => exact Nat.mod_eq_of_lt (Nat.or_lt_two_pow ha hb)
  case nxor => exact Nat.mod_eq_of_lt (Nat.xor_lt_two_pow ha hb)
  case nandn => exact Nat.mod_eq_of_lt (lt_of_le_of_lt Nat.and_le_left ha)
  case nnot => exact Nat.mod_eq_of_lt (inot_lt w a)
  case nshl => exact ishl_mod w a b
  case nshr => exact ishr_mod b ha
  case nsar => exact (wrapTo_mod ..).trans (isar_eq hw ha)
  case nrol => exact (Nat.mod_mod ..).trans (irol_eq hw ha)
  case nclz => exact Nat.mod_eq_of_lt (iclz_lt w a)
  case npopc => exact (Nat.mod_eq_of_lt (ipopc_lt w a)).trans (ipopc_eq w a)
  case nctz => exact (Nat.mod_eq_of_lt (ictz_lt w a)).trans (ictz_eq w a)
  case nbrev => exact (Nat.mod_eq_of_lt (ibrev_lt w a)).trans (ibrev_eq w a)
  case nsel => exact Nat.mod_eq_of_lt (by split <;> assumption)
  case cand => exact coreGives_of_coreVal (fun _ a b _ => iand 64 a b) (fun _ _ => rfl) fun _ a b _ => word_eq_of_toNat (BitVec.toNat_and ..).symm
  case cxor => exact coreGives_of_coreVal (fun _ a b _ => ixor 64 a b) (fun _ _ => rfl) fun _ a b _ => word_eq_of_toNat (BitVec.toNat_xor ..).symm
  case cor => exact coreGives_of_coreVal (fun _ a b _ => ior 64 a b) (fun _ _ => rfl) fun _ a b _ => word_eq_of_toNat (BitVec.toNat_or ..).symm
  case candn => exact coreGives_of_coreVal (fun _ a b _ => iandn 64 a b) (fun _ _ => rfl) fun _ a b _ => word_iandn a b
  case cnot => exact coreGives_of_coreVal (fun _ a _ _ => inot 64 a) (fun _ _ => rfl) fun _ a _ _ => word_inot a
  case cshl => exact coreGives_of_coreVal (fun _ a b _ => ishl 64 a b) (fun _ _ => rfl) fun _ a b _ => word_ishl a b
  case cshr => exact coreGives_of_coreVal (fun _ a b _ => ishr 64 a b) (fun _ _ => rfl) fun _ a b _ => word_ishr a b
  case csar => exact coreGives_of_coreVal (fun _ a b _ => isar 64 a b) (fun _ _ => rfl) fun _ a b _ => word_isar a b
  case crol => exact coreGives_of_coreVal (fun _ a b _ => irol 64 a b) (fun _ _ => rfl) fun _ a b _ => word_irol a b
  case cclz => exact coreGives_of_coreVal (fun _ a _ _ => iclz 64 a) (fun _ _ => rfl) fun _ a _ _ => word_iclz a
  case cctz => exact coreGives_of_coreVal (fun _ a _ _ => ictz 64 a) (fun _ _ => rfl) fun _ a _ _ => congrArg word (ictz_eq 64 a.toNat)
  case cpopc => exact coreGives_of_coreVal (fun _ a _ _ => ipopc 64 a) (fun _ _ => rfl) fun _ a _ _ => congrArg word (ipopc_eq 64 a.toNat)
  case cbrev => exact coreGives_of_coreVal (fun _ a _ _ => ibrev 64 a) (fun _ _ => rfl) fun _ a _ _ => word_ibrev a
  case csel =>
    refine coreGives_of_coreVal (fun _ a b d => if d ≠ 0 then a else b) (fun _ _ => rfl) fun _ a b d => ?_
    have hd : d.toNat ≠ 0 ↔ d ≠ 0 := not_congr (BitVec.toNat_eq (y := 0)).symm
    simp only [hd, apply_ite word, word_toNat]
  case cmov => exact coreGives_of_coreVal (fun _ a _ _ => a) (fun _ _ => rfl) fun _ a _ _ => word_toNat a

theorem word_mod (n : Nat) : word (n % 2 ^ 64) = word n := word_eq_of_toNat rfl

theorem word_iadd (sg : Bool) (a b : Word) : word (iadd 64 sg a.toNat b.toNat) = a + b := by
  rw [iadd, word_mod, word, BitVec.ofNat_add, ← word, ← word, word_toNat, word_toNat]

theorem word_imul (sg : Bool) (a b : Word) : word (imul 64 sg a.toNat b.toNat) = a * b := by
  rw [imul, word_mod, word, BitVec.ofNat_mul, ← word, ← word, word_toNat, word_toNat]

theorem word_imad (sg : Bool) (a b d : Word) : word (imad 64 sg a.toNat b.toNat d.toNat) = a * b + d := by
  rw [imad, word_mod, word, BitVec.ofNat_add, BitVec.ofNat_mul, ← word, ← word, ← word, word_toNat, word_toNat, word_toNat]

theorem word_isub (sg : Bool) (a b : Word) : word (isub 64 sg a.toNat b.toNat) = a - b := by
  apply word_eq_of_toNat
  rw [isub_eq sg b.isLt, BitVec.toNat_sub]
  congr 1
  omega

theorem word_ineg (sg : Bool) (a : Word) : word (ineg 64 sg a.toNat) = -a :=
  word_eq_of_toNat ((ineg_eq sg a.isLt).trans (BitVec.toNat_neg a).symm)

theorem clamp_core (x : Int) : word (wrapTo 64 (clampTo (loOf 64 true) (hiOf 64 true) x)) =
    BitVec.ofInt 64 (Max.max (-2 ^ 63) (Min.min (2 ^ 63 - 1) x)) := by
  rw [word_wrapTo, clampTo_eq (by decide)]
  rfl

theorem word_iadds (a b : Word) : word (iadds 64 true a.toNat b.toNat) =
    BitVec.ofInt 64 (Max.max (-2 ^ 63) (Min.min (2 ^ 63 - 1) (a.toInt + b.toInt))) := by
  rw [← sint_toNat, ← sint_toNat]
  exact clamp_core _

theorem word_isubs (a b : Word) : word (isubs 64 true a.toNat b.toNat) =
    BitVec.ofInt 64 (Max.max (-2 ^ 63) (Min.min (2 ^ 63 - 1) (a.toInt - b.toInt))) := by
  rw [← sint_toNat, ← sint_toNat]
  exact clamp_core _

theorem word_imulh (a b : Word) : word (imulh 64 true a.toNat b.toNat) = BitVec.ofInt 64 (a.toInt * b.toInt / 2 ^ 64) := by
  rw [← sint_toNat, ← sint_toNat]
  exact word_wrapTo _

theorem word_imin (a b : Word) : word (imin 64 true a.toNat b.toNat) = if a.toInt < b.toInt then a else b := by
  simp only [imin, ival, if_true, sint_toNat, apply_ite word, word_toNat]

theorem word_imax (a b : Word) : word (imax 64 true a.toNat b.toNat) = if a.toInt > b.toInt then a else b := by
  simp only [imax, ival, if_true, sint_toNat, apply_ite word, word_toNat]

theorem word_iabs (sg : Bool) (a : Word) : word (iabs 64 sg a.toNat) = if a.toInt < 0 then -a else a := by
  have hneg : a.toInt < 0 ↔ ¬ a.toNat < 2 ^ 63 := by rw [BitVec.toInt_eq_toNat_cond]; split <;> omega
  have h : word ((2 ^ 64 - a.toNat) % 2 ^ 64) = -a := word_eq_of_toNat (BitVec.toNat_neg a).symm
  rw [iabs_eq sg a.isLt, apply_ite word, word_toNat, h]
  simp only [hneg, ite_not]

/-! ## Bit fields (R100) -/

/-- The control value is the low 16 bits of B: its offset and its width are the low two bytes of B. -/
theorem mod_65536_fields (n : Nat) : n % 65536 % 256 = n % 256 ∧ n % 65536 / 256 % 256 = n / 256 % 256 := by omega

theorem word_ibfx (a b : Word) :
    word (ibfx 64 false a.toNat (b.toNat % 65536)) = word (a.toNat / 2 ^ (b.toNat % 256) % 2 ^ (b.toNat / 256 % 256)) := by
  obtain ⟨hoff, hwd⟩ := mod_65536_fields b.toNat
  simp only [ibfx, hoff, hwd]
  split
  next h => rw [h, Nat.pow_zero, Nat.mod_one]
  next h =>
    have e : ((a.toNat : Int) / ((2 ^ (b.toNat % 256) : Nat) : Int)) % ((2 ^ (b.toNat / 256 % 256) : Nat) : Int) =
        ((a.toNat / 2 ^ (b.toNat % 256) % 2 ^ (b.toNat / 256 % 256) : Nat) : Int) := by norm_cast
    simp only [Bool.false_eq_true, if_false, e, Int.toNat_natCast]
    rw [wrapTo_natCast, word_mod]

theorem word_ibfxs (a b : Word) : word (ibfx 64 true a.toNat (b.toNat % 65536)) =
    let wd := b.toNat / 256 % 256
    let f := a.toInt / 2 ^ (b.toNat % 256) % 2 ^ wd
    if wd = 0 then 0 else BitVec.ofInt 64 (if f < 2 ^ (wd - 1) then f else f - 2 ^ wd) := by
  obtain ⟨hoff, hwd⟩ := mod_65536_fields b.toNat
  simp only [ibfx, hoff, hwd, if_true, sint_toNat]
  generalize b.toNat / 256 % 256 = wd
  rw [apply_ite word, word_wrapTo]
  congr 2
  push_cast
  have hf : 0 ≤ a.toInt / 2 ^ (b.toNat % 256) % 2 ^ wd := Int.emod_nonneg _ (by positivity)
  generalize a.toInt / 2 ^ (b.toNat % 256) % 2 ^ wd = f at hf
  obtain ⟨n, rfl⟩ := Int.eq_ofNat_of_zero_le hf
  rw [sint]
  norm_cast

theorem word_shiftLeft (a : Word) (n : Nat) : word (a.toNat <<< n) = a <<< n := by
  apply BitVec.eq_of_toNat_eq
  rw [word, BitVec.toNat_ofNat, BitVec.toNat_shiftLeft]

theorem word_ibfi (a b d : Word) : word (ibfi 64 a.toNat (b.toNat % 65536) d.toNat) =
    let off := b.toNat % 256
    let wd := b.toNat / 256 % 256
    if wd = 0 ∨ 64 ≤ off then a
    else
      let m : Word := word ((2 ^ Min.min wd (64 - off) - 1) * 2 ^ off)
      (a &&& ~~~m) ||| ((d <<< off) &&& m) := by
  obtain ⟨hoff, hwd⟩ := mod_65536_fields b.toNat
  simp only [ibfi, hoff, hwd]
  generalize b.toNat % 256 = off
  generalize b.toNat / 256 % 256 = wd
  split
  · exact word_toNat a
  next h =>
    have hm : (2 ^ Min.min wd (64 - off) - 1) <<< off < 2 ^ 64 := by
      have h1 : 2 ^ Min.min wd (64 - off) ≤ 2 ^ (64 - off) := Nat.pow_le_pow_right (by norm_num) (Nat.min_le_right ..)
      have hpos : 0 < 2 ^ Min.min wd (64 - off) := by positivity
      have h2 : 2 ^ (64 - off) * 2 ^ off = 2 ^ 64 := by rw [← Nat.pow_add, Nat.sub_add_cancel (by omega)]
      rw [Nat.shiftLeft_eq, ← h2]
      exact Nat.mul_lt_mul_of_pos_right (by omega) (by positivity)
    have hnot : word (inot 64 ((2 ^ Min.min wd (64 - off) - 1) <<< off)) = ~~~ word ((2 ^ Min.min wd (64 - off) - 1) <<< off) := by
      rw [← word_inot, show (word _).toNat = _ % 2 ^ 64 from BitVec.toNat_ofNat .., Nat.mod_eq_of_lt hm]
    rw [word, BitVec.ofNat_or, BitVec.ofNat_and, BitVec.ofNat_and, ← word, ← word, ← word, ← word, hnot, word_toNat, word_shiftLeft, Nat.shiftLeft_eq]

/-! ## Compare and division (R101, R104) -/

/-- All ones where the condition of a code holds of two registers. -/
theorem word_icond (c : BitVec 3) (a b : Word) : word (if icond 64 (condOfCode c) a.toNat b.toNat then 2 ^ 64 - 1 else 0) =
    if (match c.toNat with
      | 0 => decide (a = b) | 1 => decide (a ≠ b) | 2 => decide (a.toInt < b.toInt) | 3 => decide (a.toInt ≤ b.toInt)
      | 4 => decide (a.toNat < b.toNat) | 5 => decide (a.toNat ≤ b.toNat) | 6 => decide (b.toInt < a.toInt) | _ => decide (b.toInt ≤ a.toInt)) then
      BitVec.allOnes 64 else 0 := by
  rw [apply_ite word, show word (2 ^ 64 - 1) = BitVec.allOnes 64 from rfl, show word 0 = 0 from rfl, condOfCode]
  congr 2
  generalize c.toNat = k
  split <;> simp only [icond, sint_toNat, BitVec.toNat_eq, ne_eq, gt_iff_lt, ge_iff_le]

/-! ## Division (R104) -/

theorem toNat_eq_zero_iff (b : Word) : b.toNat = 0 ↔ b = 0 := (BitVec.toNat_eq (y := 0)).symm

theorem word_idiv (a b : Word) : word (idiv a.toNat b.toNat) = if b = 0 then BitVec.allOnes 64 else BitVec.ofInt 64 (a.toInt.tdiv b.toInt) := by
  simp only [idiv, apply_ite word, word_wrapTo, sint_toNat, toNat_eq_zero_iff]
  rfl

theorem word_idivu (a b : Word) : word (idivu a.toNat b.toNat) = if b = 0 then BitVec.allOnes 64 else a / b := by
  have h : word (a.toNat / b.toNat) = a / b := word_eq_of_toNat (BitVec.toNat_udiv ..).symm
  simp only [idivu, apply_ite word, h, toNat_eq_zero_iff]
  rfl

theorem word_irem (a b : Word) : word (irem a.toNat b.toNat) = if b = 0 then a else BitVec.ofInt 64 (a.toInt.tmod b.toInt) := by
  simp only [irem, apply_ite word, word_wrapTo, word_toNat, sint_toNat, toNat_eq_zero_iff]

theorem word_iremu (a b : Word) : word (iremu a.toNat b.toNat) = if b = 0 then a else a % b := by
  have h : word (a.toNat % b.toNat) = a % b := word_eq_of_toNat (BitVec.toNat_umod ..).symm
  simp only [iremu, apply_ite word, h, word_toNat, toNat_eq_zero_iff]

theorem nop_gives : CoreGives .nop fun _ _ _ d => d := by
  intro w c s ht x
  have hgo : getCl (setPc s c (x.pc + coreSize w.long)) c = { x with pc := x.pc + coreSize w.long } := by simp [setPc, x]
  obtain ⟨hmem, htiles, hlaunches, hslices, hdies, hcores, hpkg⟩ := updCl_onlyCore s c fun x => { x with pc := x.pc + coreSize w.long }
  refine ⟨setPc s c (x.pc + coreSize w.long), atCore_turn ht fun _ _ s => .done s, ?_, by rw [hgo]; rfl,
    hmem, htiles, hlaunches, hslices, hdies, hcores, by rw [hgo]; rfl, fun r _ => by rw [hgo]; rfl, hpkg⟩
  rw [hgo]
  split
  next h => rw [h]; rfl
  next => rfl

/-- Settles O36: each instruction of the core is its function of the registers, which the lemmas above give in the statement's words. -/
theorem coreCalculates : Obligations.CoreCalculates := by
  unfold Obligations.CoreCalculates
  intro all top clamp
  refine ⟨nop_gives, ?ldi, ?add, ?sub, ?adds, ?subs, ?mul, ?mulh, ?mad, ?min, ?max, ?abs, ?neg, ?bfx, ?bfxs, ?bfi, ?cmp, ?div, ?divu, ?rem, ?remu⟩
  case ldi => exact coreGives_of_coreVal (fun _ _ b _ => b) (fun _ _ => rfl) fun _ _ b _ => word_toNat b
  case add => exact coreGives_of_coreVal (fun _ a b _ => iadd 64 true a b) (fun _ _ => rfl) fun _ a b _ => word_iadd true a b
  case sub => exact coreGives_of_coreVal (fun _ a b _ => isub 64 true a b) (fun _ _ => rfl) fun _ a b _ => word_isub true a b
  case adds => exact coreGives_of_coreVal (fun _ a b _ => iadds 64 true a b) (fun _ _ => rfl) fun _ a b _ => word_iadds a b
  case subs => exact coreGives_of_coreVal (fun _ a b _ => isubs 64 true a b) (fun _ _ => rfl) fun _ a b _ => word_isubs a b
  case mul => exact coreGives_of_coreVal (fun _ a b _ => imul 64 true a b) (fun _ _ => rfl) fun _ a b _ => word_imul true a b
  case mulh => exact coreGives_of_coreVal (fun _ a b _ => imulh 64 true a b) (fun _ _ => rfl) fun _ a b _ => word_imulh a b
  case mad => exact coreGives_of_coreVal (fun _ a b d => imad 64 true a b d) (fun _ _ => rfl) fun _ a b d => word_imad true a b d
  case min => exact coreGives_of_coreVal (fun _ a b _ => imin 64 true a b) (fun _ _ => rfl) fun _ a b _ => word_imin a b
  case max => exact coreGives_of_coreVal (fun _ a b _ => imax 64 true a b) (fun _ _ => rfl) fun _ a b _ => word_imax a b
  case abs => exact coreGives_of_coreVal (fun _ a _ _ => iabs 64 true a) (fun _ _ => rfl) fun _ a _ _ => word_iabs true a
  case neg => exact coreGives_of_coreVal (fun _ a _ _ => ineg 64 true a) (fun _ _ => rfl) fun _ a _ _ => word_ineg true a
  case bfx => exact coreGives_of_coreVal (fun _ a b _ => ibfx 64 false a (b % 65536)) (fun _ _ => rfl) fun _ a b _ => word_ibfx a b
  case bfxs => exact coreGives_of_coreVal (fun _ a b _ => ibfx 64 true a (b % 65536)) (fun _ _ => rfl) fun _ a b _ => word_ibfxs a b
  case bfi => exact coreGives_of_coreVal (fun _ a b d => ibfi 64 a (b % 65536) d) (fun _ _ => rfl) fun _ a b d => word_ibfi a b d
  case cmp =>
    exact coreGives_of_coreVal (fun w a b _ => if icond 64 (condOfCode w.aux) a b then 2 ^ 64 - 1 else 0) (fun _ _ => rfl)
      fun w a b _ => word_icond w.aux a b
  case div => exact coreGives_of_coreVal (fun _ a b _ => idiv a b) (fun _ _ => rfl) fun _ a b _ => word_idiv a b
  case divu => exact coreGives_of_coreVal (fun _ a b _ => idivu a b) (fun _ _ => rfl) fun _ a b _ => word_idivu a b
  case rem => exact coreGives_of_coreVal (fun _ a b _ => irem a b) (fun _ _ => rfl) fun _ a b _ => word_irem a b
  case remu => exact coreGives_of_coreVal (fun _ a b _ => iremu a b) (fun _ _ => rfl) fun _ a b _ => word_iremu a b

end Sys2Proof.Machine
end

section
/-! PROOFS. The lane family (R105 to R110): lanes that move alone or in pairs, and the sum across the valid elements. -/
namespace Sys2Proof.Machine
open Sys2Proof

/-! ## Valid bits and lanes of units: a lane, or a pair of lanes (R58, R105) -/

theorem getLsbD_validBits (f : Nat → Bool) {l : Nat} (hl : l < 16) : (validBits f).getLsbD l = f l := by
  have hone (k : Nat) : (BitVec.ofNat 16 (1 <<< k)).getLsbD l = decide (k = l) := by
    rw [BitVec.getLsbD_ofNat, decide_eq_true hl, Bool.true_and, Nat.one_shiftLeft, Nat.testBit_two_pow]
  have h (ls : List Nat) : ((ls.foldr (fun l acc => if f l then acc ||| BitVec.ofNat 16 (1 <<< l) else acc) 0#16)).getLsbD l =
      (decide (l ∈ ls) && f l) := by
    induction ls with
    | nil => simp
    | cons k ls ih =>
      rw [List.foldr_cons]
      by_cases hkl : k = l
      · subst hkl
        cases hf : f k <;> simp [hone, ih, hf]
      · have hlk : ¬ l = k := fun e => hkl e.symm
        cases hf : f k <;> simp [hone, ih, hkl, hlk]
  exact (h (List.range 16)).trans (by simp [hl])

theorem unitLanes_eq (ty : Ty) : unitLanes ty = 1 ∨ unitLanes ty = 2 := by rw [unitLanes]; split <;> simp

theorem unitW_eq (ty : Ty) : unitW ty = 32 * unitLanes ty := by rw [unitW, unitLanes]; split <;> rfl

theorem units_eq (ty : Ty) : 512 / unitW ty = 16 / unitLanes ty := by rw [unitW, unitLanes]; split <;> rfl

section
variable {u : Nat} (hu : u = 1 ∨ u = 2)
include hu

theorem getLsbD_unitBits (f : Nat → Bool) {l : Nat} (hl : l < 16) : (unitBits (32 * u) f).getLsbD l = f (l / u) := by
  rw [unitBits, getLsbD_validBits _ hl]
  rcases hu with rfl | rfl <;> simp

/-- The lanes of a unit are valid together. -/
theorem unit_valid (v : BitVec 16) (j : Nat) :
    (if u = 2 then v.getLsbD (j / 2 * 2) && v.getLsbD (j / 2 * 2 + 1) else v.getLsbD j) = elemValid (32 * u) v (j / u) := by
  rcases hu with rfl | rfl
  · simp [elemValid, laneOf]
  · simp [elemValid, Nat.mul_comm]

/-- Lanes of equal units are equal. -/
theorem lane_of_unit {p q : Payload} {l j : Nat} (h : elem (32 * u) p (l / u) = elem (32 * u) q j) : lane p l = lane q (u * j + l % u) := by
  apply BitVec.eq_of_getLsbD_eq
  intro k hk
  have hbit := congrArg (fun n => n.testBit (32 * (l % u) + k)) h
  have hp : 32 * u * (l / u) + (32 * (l % u) + k) = 32 * l + k := by rcases hu with rfl | rfl <;> omega
  have hq : 32 * u * j + (32 * (l % u) + k) = 32 * (u * j + l % u) + k := by rcases hu with rfl | rfl <;> omega
  have hin : 32 * (l % u) + k < 32 * u := by rcases hu with rfl | rfl <;> omega
  simpa only [testBit_elem, hp, hq, hin, decide_true, Bool.true_and, lane, BitVec.getLsbD_extractLsb', hk] using hbit

end

/-- A valid lane of a result is the lane that was calculated (R89). -/
theorem lane_zeroInvalid_valid {v : BitVec 16} {l : Nat} (hl : l < 16) (hv : v.getLsbD l = true) (p : Payload) : lane (zeroInvalid v p) l = lane p l := by
  apply BitVec.eq_of_getLsbD_eq
  intro k hk
  have e : (32 * l + k) / 32 = l := by omega
  simp only [lane, BitVec.getLsbD_extractLsb', getLsbD_zeroInvalid v p _ (show 32 * l + k < 512 by omega), e, hv, Bool.and_true]

/-- A calculation moves units of `u` lanes: unit `i` of its result is the unit of A that `from'` names, valid where that one is and the flag of its
lane is set, or not valid where it names none. -/
structure MovesUnits (u : Nat) (from' : Nat → Option Nat) (ok : Nat → Bool) (x : CalcIn) (r : Calc) : Prop where
  fmt : r.fmt = tyCode x.ty
  valid : ∃ v, r.valid = some v ∧ ∀ l, l < 16 → v.getLsbD l = ((from' (l / u)).any (elemValid (32 * u) x.a.valid) && ok l)
  pay : ∀ i j, i < 16 / u → from' i = some j → elem (32 * u) r.pay i = elem (32 * u) x.a.pay j

/-- A node whose calculation moves units moves their lanes. -/
theorem lanesFrom_of_movesUnits {op : NodeOp} {value : CalcIn → Calc} (hexec : ∀ w s, exec (nodeInstr op w) s = fireCalc op value w s) {u : Ty → Nat}
    (hu : ∀ ty, u ty = 1 ∨ u ty = 2) {src : NWord → Ty → VTok → Nat → Option (Nat × Bool)} {from' : CalcIn → Nat → Option Nat} {ok : CalcIn → Nat → Bool}
    (hmoves : ∀ x, MovesUnits (u x.ty) (from' x) (ok x) x (value x))
    (hsrc : ∀ x l, l < 16 → src x.w x.ty x.b l = (from' x (l / u x.ty)).map fun j => (u x.ty * j + l % u x.ty, ok x l)) : LanesFrom op u src := by
  intro w sl s ht x hk
  let y : CalcIn := ⟨x.ty, w, x.a, x.b, x.c⟩
  have hux := hu x.ty
  obtain ⟨hfmt, ⟨v, hv, hbits⟩, hpay⟩ := hmoves y
  obtain ⟨t, he, hi, hl, -, hf⟩ := fireCalc_completes hexec ht hk
  have hvalid : (latchOf t sl).valid = v := by rw [hl, resultTok, hv]
  have hlatch : (latchOf t sl).pay = zeroInvalid v (value y).pay := by rw [← hvalid, hl]; rfl
  refine ⟨t, he, hi, by rw [hl]; rfl, by rw [hl]; exact hfmt, by rw [hl]; rfl, fun l h16 => ?_, hf⟩
  have hb := hbits l h16
  rw [hsrc y l h16, hvalid, hlatch]
  cases hfrom : from' y (l / u x.ty) with
  | none =>
    rw [hfrom, Option.any_none, Bool.false_and] at hb
    exact ⟨hb, lane_zeroInvalid h16 hb _⟩
  | some j =>
    have hunit : (u x.ty * j + l % u x.ty) / u x.ty = j := by rcases hux with e | e <;> rw [e] <;> omega
    rw [hfrom, Option.any_some] at hb
    simp only [Option.map_some]
    have hva := unit_valid hux x.a.valid (u x.ty * j + l % u x.ty)
    rw [hunit] at hva
    simp only [y, hva]
    refine ⟨hb, ?_⟩
    split
    next hva =>
      have hin : l / u x.ty < 16 / u x.ty := by rcases hux with e | e <;> rw [e] <;> omega
      rw [lane_zeroInvalid_valid h16 (hb.trans hva)]
      exact lane_of_unit hux (hpay _ j hin hfrom)
    next hva => exact lane_zeroInvalid h16 (hb.trans (Bool.not_eq_true _ ▸ hva)) _

/-! ## SHUF (R106) -/

/-- The lane that SHUF moves to a lane: B's, or that of a fixed pattern. -/
def shufFrom (x : CalcIn) (l : Nat) : Option Nat :=
  match x.w.aux.toNat % 8 with
  | 0 => if (lane x.b.pay l).toNat / 16 % 2 = 1 then none else some ((lane x.b.pay l).toNat % 16)
  | 1 => some (15 - l)
  | 2 => some (l ^^^ 1)
  | 3 => some (l ^^^ 2)
  | 4 => some (l ^^^ 4)
  | _ => some (l ^^^ 8)

/-- Under a fixed pattern a lane is valid whatever B is. -/
def shufOk (x : CalcIn) (l : Nat) : Bool := x.w.aux.toNat % 8 ≠ 0 || x.b.valid.getLsbD l

theorem shufFrom_eq (x : CalcIn) (l : Nat) :
    (match x.w.aux.toNat % 8 with
      | 0 => if (lane x.b.pay l).toNat.testBit 4 then none else some ((lane x.b.pay l).toNat % 16, x.b.valid.getLsbD l)
      | 1 => some (15 - l, true) | 2 => some (l ^^^ 1, true) | 3 => some (l ^^^ 2, true) | 4 => some (l ^^^ 4, true) | _ => some (l ^^^ 8, true)) =
    (shufFrom x l).map fun j => (j, shufOk x l) := by
  unfold shufFrom shufOk
  generalize x.w.aux.toNat % 8 = m
  have hbit : (lane x.b.pay l).toNat.testBit 4 = decide ((lane x.b.pay l).toNat / 16 % 2 = 1) := Nat.testBit_eq_decide_div_mod_eq
  match m with
  | 0 =>
    simp only [hbit, decide_eq_true_eq]
    split <;> simp
  | 1 | 2 | 3 | 4 => rfl
  | n + 5 => rfl

theorem vShuf_moves (x : CalcIn) : MovesUnits 1 (shufFrom x) (shufOk x) x (vShuf x) where
  fmt := rfl
  valid := by
    refine ⟨validBits fun l => match shufFrom x l with
      | some j => x.a.valid.getLsbD j && shufOk x l
      | none => false, rfl, fun l hl => ?_⟩
    rw [getLsbD_validBits _ hl, Nat.div_one]
    cases shufFrom x l <;> simp [elemValid, laneOf]
  pay i j hi hfrom := by
    have e : (vShuf x).pay = packLanes fun l => match shufFrom x l with | some j => (lane x.a.pay j).toNat | none => 0 := rfl
    rw [e, packLanes, elem_packElems_map (by decide) _ i (by omega) (by omega), hfrom]
    exact Nat.mod_eq_of_lt (elem_lt ..)

/-! ## BCST, VGET, LROT (R107, R108) -/

theorem idxOf_eq (x : CalcIn) : idxOf x = x.w.imm.toNat % 16 % (16 / unitLanes x.ty) := by
  rw [idxOf, units_eq, BitVec.extractLsb'_toNat, Nat.shiftRight_zero]

theorem idxOf_lt (x : CalcIn) : idxOf x < 16 / unitLanes x.ty := by
  rw [idxOf_eq]
  exact Nat.mod_lt _ (by rcases unitLanes_eq x.ty with e | e <;> rw [e] <;> decide)

section
variable (x : CalcIn)

/-- A unit of packed units. -/
theorem elem_packUnits (f : Nat → Nat) {i : Nat} (hi : i < 16 / unitLanes x.ty) (hf : f i < 2 ^ unitW x.ty) :
    elem (unitW x.ty) (packElems (unitW x.ty) ((List.range (512 / unitW x.ty)).map f)) i = f i := by
  have hle : unitW x.ty * i + unitW x.ty ≤ 512 := by rw [unitW_eq]; rcases unitLanes_eq x.ty with e | e <;> rw [e] at hi ⊢ <;> omega
  have hpos : 0 < unitW x.ty := by rw [unitW]; split <;> decide
  rw [elem_packElems_map hpos f i (by rwa [units_eq]) hle, Nat.mod_eq_of_lt hf]

/-- BCST moves one unit to every one. -/
theorem vBcst_moves : MovesUnits (unitLanes x.ty) (fun _ => some (idxOf x)) (fun _ => true) x (vBcst x) where
  fmt := rfl
  valid := by
    refine ⟨_, rfl, fun l hl => ?_⟩
    rw [unitW_eq, Option.any_some, Bool.and_true]
    cases elemValid (32 * unitLanes x.ty) x.a.valid (idxOf x)
    · simp
    · interval_cases l <;> rfl
  pay i j hi hfrom := by
    have hmap : List.replicate (512 / unitW x.ty) (elem (unitW x.ty) x.a.pay (idxOf x)) =
        (List.range (512 / unitW x.ty)).map fun _ => elem (unitW x.ty) x.a.pay (idxOf x) := by rw [List.map_const', List.length_range]
    obtain rfl := Option.some.inj hfrom
    rw [← unitW_eq, show (vBcst x).pay = splat (unitW x.ty) (elem (unitW x.ty) x.a.pay (idxOf x)) from rfl, splat, hmap,
      elem_packUnits x (fun _ => elem (unitW x.ty) x.a.pay (idxOf x)) hi (elem_lt ..)]

/-- VGET moves one unit to unit 0. -/
theorem vVget_moves : MovesUnits (unitLanes x.ty) (fun i => if i = 0 then some (idxOf x) else none) (fun _ => true) x (vVget x) where
  fmt := rfl
  valid := by
    refine ⟨_, rfl, fun l hl => ?_⟩
    rw [unitW_eq, getLsbD_unitBits (unitLanes_eq x.ty) _ hl]
    by_cases h : l / unitLanes x.ty = 0 <;> simp [h]
  pay i j hi hfrom := by
    have hle : unitW x.ty * 0 + unitW x.ty ≤ 512 := by rw [unitW]; split <;> decide
    have hpos : 0 < unitW x.ty := by rw [unitW]; split <;> decide
    obtain ⟨rfl, hj⟩ := Option.ite_none_right_eq_some.mp hfrom
    obtain rfl := Option.some.inj hj
    rw [← unitW_eq, show (vVget x).pay = packElems (unitW x.ty) [elem (unitW x.ty) x.a.pay (idxOf x)] from rfl, elem_packElems hpos _ _ hle]
    exact Nat.mod_eq_of_lt (elem_lt ..)

/-- By how many units LROT moves. -/
def lrotBy : Nat :=
  if x.w.sb = .zero then (x.w.imm.extractLsb' 0 4).toNat else if x.b.valid.getLsbD 0 then (lane x.b.pay 0).toNat % 16 else 0

/-- The unit that LROT moves to a unit: round the token, or none at its low end. -/
def lrotFrom (i : Nat) : Option Nat :=
  let n := 512 / unitW x.ty
  if bit x.w.aux 0 then (if lrotBy x % n ≤ i then some (i - lrotBy x % n) else none) else some ((i + n - lrotBy x % n) % n)

theorem vLrot_moves : MovesUnits (unitLanes x.ty) (lrotFrom x) (fun _ => true) x (vLrot x) where
  fmt := rfl
  valid := by
    refine ⟨unitBits (unitW x.ty) fun i => match lrotFrom x i with | some j => elemValid (unitW x.ty) x.a.valid j | none => false, rfl, fun l hl => ?_⟩
    rw [unitW_eq, getLsbD_unitBits (unitLanes_eq x.ty) _ hl]
    cases lrotFrom x (l / unitLanes x.ty) <;> simp
  pay i j hi hfrom := by
    have e : (vLrot x).pay = packElems (unitW x.ty) ((List.range (512 / unitW x.ty)).map fun i =>
      match lrotFrom x i with | some j => elem (unitW x.ty) x.a.pay j | none => 0) := rfl
    rw [← unitW_eq, e, elem_packUnits x _ hi, hfrom]
    rw [hfrom]
    exact elem_lt ..

theorem lrotFrom_eq (i : Nat) : lrotFrom x i =
    let u := unitLanes x.ty
    let n := 16 / u
    let amt := if x.w.sb = .zero then x.w.imm.toNat % 16 else if x.b.valid.getLsbD 0 then (lane x.b.pay 0).toNat % 16 else 0
    if x.w.aux.getLsbD 0 then (if amt % n ≤ i then some (i - amt % n) else none) else some ((i + n - amt % n) % n) := by
  have himm : (x.w.imm.extractLsb' 0 4).toNat = x.w.imm.toNat % 16 := by rw [BitVec.extractLsb'_toNat, Nat.shiftRight_zero]
  rw [lrotFrom, units_eq, lrotBy, himm]
  rfl

end

/-- Settles O15: each of the four moves units of lanes, from where its rule says. -/
theorem lanesMove : Obligations.LanesMove := by
  unfold Obligations.LanesMove
  refine ⟨?shuf, ?bcst, ?vget, ?lrot⟩
  case shuf =>
    refine lanesFrom_of_movesUnits (fun _ _ => rfl) (fun _ => .inl rfl) vShuf_moves fun x l hl => ?_
    simp only [Nat.div_one, Nat.mod_one, Nat.one_mul, Nat.add_zero]
    exact shufFrom_eq x l
  case bcst =>
    refine lanesFrom_of_movesUnits (fun _ _ => rfl) unitLanes_eq vBcst_moves fun x l hl => ?_
    rw [idxOf_eq]
    rfl
  case vget =>
    refine lanesFrom_of_movesUnits (fun _ _ => rfl) unitLanes_eq vVget_moves fun x l hl => ?_
    have hu : 0 < unitLanes x.ty := by rcases unitLanes_eq x.ty with e | e <;> omega
    simp only [← Nat.div_eq_zero_iff_lt hu, idxOf_eq]
    split
    next h => rw [Nat.mod_eq_of_lt ((Nat.div_eq_zero_iff_lt hu).mp h)]; rfl
    next => rfl
  case lrot =>
    refine lanesFrom_of_movesUnits (fun _ _ => rfl) unitLanes_eq vLrot_moves fun x l hl => ?_
    rw [lrotFrom_eq]
    dsimp only
    rw [apply_ite (Option.map _), apply_ite (Option.map _)]
    rfl


/-! ## RSUM of an integer type (R109, R110) -/

/-- A tree of an associative operation with the absent element as its unit is its fold. -/
theorem foldr_foldPairs {f : FoldElem → FoldElem → FoldElem} (hassoc : ∀ a b c, f (f a b) c = f a (f b c)) :
    ∀ l : List FoldElem, (foldPairs f l).foldr f none = l.foldr f none
  | [] => rfl
  | [_] => rfl
  | a :: b :: l => by rw [foldPairs, List.foldr_cons, foldr_foldPairs hassoc l, hassoc]; rfl

theorem length_foldPairs (f : FoldElem → FoldElem → FoldElem) : ∀ l : List FoldElem, (foldPairs f l).length = (l.length + 1) / 2
  | [] => rfl
  | [_] => by simp [foldPairs]
  | a :: b :: l => by
    simp only [foldPairs, List.length_cons, length_foldPairs f l]
    omega

theorem foldTree_eq_foldr {f : FoldElem → FoldElem → FoldElem} (hassoc : ∀ a b c, f (f a b) c = f a (f b c)) (hunit : ∀ a, f a none = a) {n : Nat}
    {l : List FoldElem} (hl : l.length ≤ 2 ^ n) : foldTree f n l = l.foldr f none := by
  induction n generalizing l with
  | zero =>
    match l with
    | [] => rfl
    | [a] => exact (hunit a).symm
    | _ :: _ :: _ => simp at hl
  | succ n ih =>
    match l with
    | [] => rfl
    | [a] => exact (hunit a).symm
    | a :: b :: l =>
      rw [foldTree, ih, foldr_foldPairs hassoc]
      · rw [length_foldPairs, Nat.pow_succ] at *
        omega
      · simp
      · simp

section
variable {ty : Ty} (hty : tyFloat ty = false) (rm : Rm) (ov : Ov)
include hty

theorem foldStep_some (a b : Rounded) : foldStep ty 0 rm ov (some a) (some b) = some ⟨(a.bits + b.bits) % 2 ^ tyWidth ty, false⟩ := by
  simp [foldStep, hty, iadd]

omit hty in
theorem foldStep_none_left (b : FoldElem) : foldStep ty 0 rm ov none b = b := rfl

omit hty in
theorem foldStep_none_right (a : FoldElem) : foldStep ty 0 rm ov a none = a := by cases a <;> rfl

theorem foldStep_assoc (a b c : FoldElem) :
    foldStep ty 0 rm ov (foldStep ty 0 rm ov a b) c = foldStep ty 0 rm ov a (foldStep ty 0 rm ov b c) := by
  match a, b, c with
  | none, _, _ => rfl
  | some a, none, c => rw [foldStep_none_right, foldStep_none_left]
  | some a, some b, none => rw [foldStep_none_right, foldStep_none_right]
  | some a, some b, some c =>
    simp only [foldStep_some hty, Nat.mod_add_mod, Nat.add_mod_mod, Nat.add_assoc]

/-- The fold of the elements at some places: absent where none of them is valid, and else the sum of the valid ones modulo 2^W. -/
theorem foldr_foldStep (v : BitVec 16) (p : Payload) (l : List Nat) :
    (l.map fun i => if elemValid (tyWidth ty) v i then (some ⟨elem (tyWidth ty) p i, false⟩ : FoldElem) else none).foldr (foldStep ty 0 rm ov) none =
      if l.filter (elemValid (tyWidth ty) v) = [] then none
      else some ⟨((l.filter (elemValid (tyWidth ty) v)).map (elem (tyWidth ty) p)).sum % 2 ^ tyWidth ty, false⟩ := by
  induction l with
  | nil => rfl
  | cons i l ih =>
    rw [List.map_cons, List.foldr_cons, ih, List.filter_cons]
    cases elemValid (tyWidth ty) v i with
    | false => rfl
    | true =>
      simp only [if_true, reduceCtorEq, if_false, List.map_cons, List.sum_cons]
      split
      next h => rw [h, foldStep_none_right, List.map_nil, List.sum_nil, Nat.add_zero, Nat.mod_eq_of_lt (elem_lt ..)]
      next h => rw [foldStep_some hty, Nat.add_mod_mod]

/-- The elements whose sum RSUM gives. -/
theorem vRsum_eq {x : CalcIn} (hx : x.ty = ty) (haux : x.w.aux = 0) :
    let valid := (List.range (512 / tyWidth ty)).filter (elemValid (tyWidth ty) x.a.valid)
    vRsum x = foldOut ty (x.w.ov = .trap) (if valid = [] then none else some ⟨(valid.map (elem (tyWidth ty) x.a.pay)).sum % 2 ^ tyWidth ty, false⟩) := by
  have hlen : (foldIn ty x.a).length ≤ 2 ^ 7 := by
    rw [foldIn, List.length_map, List.length_range]
    rcases tyWidth_eq ty with e | e | e | ⟨e, -⟩ <;> rw [e] <;> decide
  have hnarrow : bit x.w.aux 0 = false := by rw [haux]; rfl
  subst hx
  simp only [vRsum, hnarrow, Bool.false_eq_true, if_false]
  rw [foldTree_eq_foldr (foldStep_assoc hty _ _) (foldStep_none_right _ _) hlen, foldIn, foldr_foldStep hty]

end

/-- The lanes of element 0 alone. -/
def firstLanes (ty : Ty) : BitVec 16 := if ty = .i64x8 then 3 else 1

theorem firstLanes_valid (ty : Ty) {j : Nat} (h : j < tyWidth ty) : (firstLanes ty).getLsbD (j / 32) = true := by
  rw [firstLanes]
  split
  next hty =>
    rw [hty] at h
    have hj : j / 32 < 2 := by rw [Nat.div_lt_iff_lt_mul (by decide)]; exact h
    interval_cases j / 32 <;> rfl
  next hty =>
    rcases tyWidth_eq ty with e | e | e | ⟨-, e⟩
    · rw [show j / 32 = 0 by omega]; rfl
    · rw [show j / 32 = 0 by omega]; rfl
    · rw [show j / 32 = 0 by omega]; rfl
    · exact absurd e hty

/-- Element 0 alone in a token is its payload. -/
theorem toNat_firstElem (ty : Ty) {n : Nat} (hn : n < 2 ^ tyWidth ty) : (zeroInvalid (firstLanes ty) (packElems (tyWidth ty) [n])).toNat = n := by
  have hle : tyWidth ty ≤ 512 := by cases ty <;> decide
  have hpos := tyWidth_pos ty
  apply Nat.eq_of_testBit_eq
  intro j
  rw [BitVec.testBit_toNat]
  rcases Nat.lt_or_ge j (tyWidth ty) with hj | hj
  · rw [getLsbD_zeroInvalid _ _ _ (by omega), getLsbD_packElems hpos _ _ (by omega), firstLanes_valid ty hj, Nat.div_eq_of_lt hj, Nat.mod_eq_of_lt hj]
    simp
  · rw [Nat.testBit_lt_two_pow (hn.trans_le (Nat.pow_le_pow_right (by decide) hj))]
    rcases Nat.lt_or_ge j 512 with h512 | h512
    · have hd : 1 ≤ j / tyWidth ty := (Nat.one_le_div_iff hpos).mpr hj
      rw [getLsbD_zeroInvalid _ _ _ h512, getLsbD_packElems hpos _ _ h512, List.getD_eq_default _ _ hd, Nat.zero_testBit, Bool.false_and]
    · exact BitVec.getLsbD_of_ge _ _ h512

theorem zeroInvalid_zero (v : BitVec 16) : zeroInvalid v 0 = 0 := BitVec.zero_and

theorem firstLanes_eq (ty : Ty) : firstLanes ty = if tyWidth ty = 64 then 3 else 1 := by cases ty <;> rfl

/-- Settles O16: the tree of R109 is a fold (`foldTree_eq_foldr`), which on an integer type is the sum of the valid elements. -/
theorem integerSumAcross : Obligations.IntegerSumAcross := by
  unfold Obligations.IntegerSumAcross
  intro w sl s ht x n hk hty haux
  obtain ⟨t, he, hi, hl, -, hf⟩ := fireCalc_completes (op := .rsum) (fun _ _ => rfl) ht hk
  rw [vRsum_eq hty rfl haux] at hl
  have hmod (m : Nat) : m % 2 ^ n < 2 ^ n := Nat.mod_lt m (by positivity)
  refine ⟨t, he, ?valid, ?sum, hi, hf⟩
  case valid =>
    rw [hl]
    by_cases h : (List.range (512 / n)).filter (elemValid n x.a.valid) = []
    · rw [if_pos h, if_pos h]
      rfl
    · rw [if_neg h, if_neg h]
      exact firstLanes_eq x.ty
  case sum =>
    rw [hl]
    by_cases h : (List.range (512 / n)).filter (elemValid n x.a.valid) = []
    · rw [if_pos h, h, List.map_nil, List.sum_nil, Nat.zero_mod]
      exact (congrArg BitVec.toNat (zeroInvalid_zero 0)).trans BitVec.toNat_zero
    · rw [if_neg h]
      exact toNat_firstElem x.ty (hmod _)

end Sys2Proof.Machine
end

section
/-! PROOFS. Tokens sent (R43, R138 to R142, R325, R326): what a tile's destinations are, and what sending a token to all of them leaves on links and
in queues where no guard, out-port, trace unit or breakpoint takes part. -/
namespace Sys2Proof.Machine
open Sys2Proof

theorem aget_aupd {α : Type} (d : α) (m : Assoc α) (i j : Nat) (f : α → α) : aget d (aupd d m i f) j = if j = i then f (aget d m i) else aget d m j :=
  aget_aset ..

/-! ## Steps that change tiles alone -/

/-- Nothing but tiles has changed. -/
def OnlyTiles (s t : State) : Prop := ∃ ts, t = { s with tiles := ts }

section
variable {s t u : State}

theorem OnlyTiles.refl (s : State) : OnlyTiles s s := ⟨s.tiles, rfl⟩

theorem OnlyTiles.trans (h : OnlyTiles s t) (k : OnlyTiles t u) : OnlyTiles s u := by
  obtain ⟨ts, rfl⟩ := h
  obtain ⟨us, rfl⟩ := k
  exact ⟨us, rfl⟩

theorem updTile_onlyTiles (s : State) (u : TileId) (f : Tile → Tile) : OnlyTiles s (updTile s u f) := ⟨_, rfl⟩

theorem OnlyTiles.sameMem (h : OnlyTiles s t) : SameMem s t := by obtain ⟨ts, rfl⟩ := h; exact .of_eq rfl rfl rfl rfl rfl
theorem OnlyTiles.clusters (h : OnlyTiles s t) : t.clusters = s.clusters := by obtain ⟨ts, rfl⟩ := h; rfl
theorem OnlyTiles.sameCores (h : OnlyTiles s t) : SameCores s t := .of_eq h.clusters
theorem OnlyTiles.clock (h : OnlyTiles s t) : t.clock = s.clock := by obtain ⟨ts, rfl⟩ := h; rfl
theorem OnlyTiles.dies (h : OnlyTiles s t) : t.dies = s.dies := by obtain ⟨ts, rfl⟩ := h; rfl
theorem OnlyTiles.edges (h : OnlyTiles s t) : t.edges = s.edges := by obtain ⟨ts, rfl⟩ := h; rfl
theorem OnlyTiles.findLaunch (h : OnlyTiles s t) (l : LaunchId) : findLaunch t l = findLaunch s l := by obtain ⟨ts, rfl⟩ := h; rfl

end

/-! ## Guards and out-ports (R259, R325) -/

/-- Of a launch, what tells the links of its edge ports. -/
def edgeView (x : Launch) : Launch := { x with cut := none, threads := [] }

/-- Guards and out-ports of every link are as before: the tiles' owners, the dies' guards, and the links of the edge ports. -/
structure SameGuards (s t : State) : Prop where
  owner : ∀ v, (getTile t v).owner = (getTile s v).owner
  dies : t.dies = s.dies
  edges : t.edges = s.edges
  launches : ∀ l, (findLaunch t l).map edgeView = (findLaunch s l).map edgeView

section
variable {s t u : State}

theorem SameGuards.trans (h : SameGuards s t) (k : SameGuards t u) : SameGuards s u :=
  ⟨fun v => (k.owner v).trans (h.owner v), k.dies.trans h.dies, k.edges.trans h.edges, fun l => (k.launches l).trans (h.launches l)⟩

theorem OnlyTiles.sameGuards (h : OnlyTiles s t) (ho : ∀ v, (getTile t v).owner = (getTile s v).owner) : SameGuards s t :=
  ⟨ho, h.dies, h.edges, fun l => by rw [h.findLaunch]⟩

theorem SameGuards.edgeOf (h : SameGuards s t) {x y : Launch} (e : edgeView y = edgeView x) (l : LaunchId) (p : Nat) : edgeOf t l y p = edgeOf s l x p := by
  have hx : Machine.edgeOf t l y p = Machine.edgeOf t l (edgeView y) p := rfl
  have hy : Machine.edgeOf s l x p = Machine.edgeOf s l (edgeView x) p := rfl
  rw [hx, hy, e, Machine.edgeOf, Machine.edgeOf, h.edges]

theorem SameGuards.portAtLink (h : SameGuards s t) (v : TileId) (d : Dir) : portAtLink t v d = portAtLink s v d := by
  have ho : ownerOf t v = ownerOf s v := by rw [ownerOf, ownerOf, h.owner]
  rw [Machine.portAtLink, Machine.portAtLink, ho]
  cases ownerOf s v with
  | none => rfl
  | some l =>
    have hl := h.launches l
    cases hs : findLaunch s l with
    | none =>
      rw [hs, Option.map_none, Option.map_eq_none_iff] at hl
      simp only [hl, hs]
    | some x =>
      rw [hs, Option.map_some, Option.map_eq_some_iff] at hl
      obtain ⟨y, hy, e⟩ := hl
      simp only [hy, hs, h.edgeOf e]

theorem SameGuards.guardOf (h : SameGuards s t) (v : TileId) (n : Net) (d : Dir) : guardOf t v n d = guardOf s v n d := by
  simp only [Machine.guardOf, getDie, h.dies, h.portAtLink, h.owner]
  rfl

end

/-- No trace unit and no breakpoint unit follows a link. -/
def Unheard (s : State) : Prop := ∀ c, (getCl s c).traces = [] ∧ (getCl s c).bps = []

/-- Every link of a token's destinations is open, and leads to no out-port; the queue is one of a PE. -/
def OpenWay (s : State) (u : TileId) (n : Net) (dst : Dests) : Prop :=
  dst.queue ≠ some 8 ∧ ∀ d ∈ dst.links, guardOf s u n d = none ∧ (n = .vector → portAtLink s u d = none)

theorem SameCores.unheard {s t : State} (h : SameCores s t) (k : Unheard s) : Unheard t := fun c =>
  ⟨(congrArg Cluster.traces (h c id)).trans (k c).1, (congrArg Cluster.bps (h c id)).trans (k c).2⟩

theorem SameGuards.openWay {s t : State} (h : SameGuards s t) {u : TileId} {n : Net} {dst : Dests} (k : OpenWay s u n dst) : OpenWay t u n dst :=
  ⟨k.1, fun d hd => by rw [h.guardOf, h.portAtLink]; exact k.2 d hd⟩

/-- A forwarded token that nobody hears is counted on its link. -/
theorem forwarded_unheard {s : State} (h : Unheard s) (u : TileId) (n : Net) (d : Dir) (tok : Tok) :
    forwarded s u n d tok = updTile s u fun x => { x with ord := aset x.ord (linkKey n d) (aget 0 (getTile s u).ord (linkKey n d) + 1) } := by
  rw [forwarded]
  apply List.foldl_fixed'
  intro k
  dsimp only
  split
  · rfl
  · have hc := h ⟨Fin.ofNat 4 (k / 64), fin64 k⟩
    simp only [getCl, updTile, setTile_clusters] at hc ⊢
    rw [hc.1, hc.2]
    rfl

/-! ## One link -/

theorem stepDir_ne {u v : TileId} {d : Dir} (h : stepDir u d = some v) : v ≠ u := by
  rintro rfl
  cases d <;> simp only [stepDir, Option.ite_none_left_eq_some, Option.some.injEq] at h <;> obtain ⟨hn, he⟩ := h
  · have := congrArg (fun t => t.row.val) he
    simp only [fin64, Fin.ofNat] at this
    omega
  · have := congrArg (fun t => t.col.val) he
    simp only [fin64, Fin.ofNat] at this
    omega
  · have := congrArg (fun t => t.row.val) he
    simp only [fin64, Fin.ofNat] at this
    omega
  · have := congrArg (fun t => t.col.val) he
    simp only [fin64, Fin.ofNat] at this
    omega

theorem linkKey_opposite_inj {n : Net} {d d' : Dir} (h : linkKey n (opposite d) = linkKey n (opposite d')) : d = d' := by
  cases d <;> cases d' <;> simp [linkKey, opposite, dirNum] at h ⊢

/-- A tile without what sending on links changes of it. -/
def linkView (x : Tile) : Tile := { x with links := [], used := [], ord := [] }

/-- The arrival on the link of a tile of a token sent from a tile (R22, R137). -/
def arrival (s : State) (u v : TileId) (tok : Tok) : Tok × Nat := (tok, s.clock + if pclOf u = pclOf v then 0 else 1)

/-- A token has been sent on links of a tile: nothing but tiles has changed, of them only links and what tells their use, of the sending tile no
arrivals; on every other tile the token arrives by each of the links that lead there. -/
structure SentOn (u : TileId) (n : Net) (tok : Tok) (ds : List Dir) (s t : State) : Prop where
  only : OnlyTiles s t
  view : ∀ v, linkView (getTile t v) = linkView (getTile s v)
  own : (getTile t u).links = (getTile s u).links
  links : ∀ v, v ≠ u → ∀ k, aget [] (getTile t v).links k = aget [] (getTile s v).links k ++
    (ds.filter fun d => decide (stepDir u d = some v ∧ linkKey n (opposite d) = k)).map fun _ => arrival s u v tok

section
variable {u : TileId} {n : Net} {tok : Tok} {s t r : State}

theorem SentOn.refl (u : TileId) (n : Net) (tok : Tok) (s : State) : SentOn u n tok [] s s :=
  ⟨.refl s, fun _ => rfl, rfl, fun _ _ _ => by simp⟩

theorem SentOn.append {ds es : List Dir} (h : SentOn u n tok ds s t) (k : SentOn u n tok es t r) : SentOn u n tok (ds ++ es) s r where
  only := h.only.trans k.only
  view v := (k.view v).trans (h.view v)
  own := k.own.trans h.own
  links v hv i := by
    have ha : arrival t u v tok = arrival s u v tok := by rw [arrival, h.only.clock]; rfl
    rw [k.links v hv i, h.links v hv i, ha, List.append_assoc, ← List.map_append, ← List.filter_append]

theorem SentOn.sameGuards {ds : List Dir} (h : SentOn u n tok ds s t) : SameGuards s t :=
  h.only.sameGuards fun v => (congrArg Tile.owner (h.view v) :)

/-- An update of what tells a link's use. -/
theorem updTile_sentOn (s : State) {f : Tile → Tile} (hv : ∀ x, linkView (f x) = linkView x) (hl : ∀ x, (f x).links = x.links) :
    SentOn u n tok [] s (updTile s u f) where
  only := updTile_onlyTiles ..
  view v := by
    by_cases h : v = u
    · rw [h, getTile_updTile, hv]
    · rw [getTile_updTile_other s f h]
  own := by rw [getTile_updTile, hl]
  links v h k := by rw [getTile_updTile_other s f h]; simp

theorem hopLink_sentOn (s : State) {v : TileId} {d : Dir} (h : stepDir u d = some v) : SentOn u n tok [d] s (hopLink s u v n d tok) where
  only := ⟨_, rfl⟩
  view w := by
    by_cases hw : w = v
    · rw [hw, hopLink, pushLink, getTile_updTile]; rfl
    · rw [hopLink, pushLink, getTile_updTile_other _ _ hw]
  own := by rw [hopLink, pushLink, getTile_updTile_other _ _ (stepDir_ne h).symm]
  links w hw k := by
    by_cases hwv : w = v
    · subst hwv
      rw [hopLink, pushLink, getTile_updTile, aget_aupd]
      by_cases hk : k = linkKey n (opposite d)
      · simp [hk, h, arrival]
      · have hk' : ¬ linkKey n (opposite d) = k := fun h => hk h.symm
        simp [hk, hk']
    · have hv : ¬ stepDir u d = some w := by rw [h]; exact fun h => hwv (Option.some.inj h).symm
      rw [hopLink, pushLink, getTile_updTile_other _ _ hwv]
      simp [hv]

/-- A token sent on an open link that leads to no out-port (R142). -/
theorem sendOut_sentOn (hun : Unheard s) {d : Dir} (hg : guardOf s u n d = none) (hp : n = .vector → portAtLink s u d = none) :
    SentOn u n tok [d] s (sendOut s u n tok d) := by
  have h1 : SentOn u n tok [] s (updTile s u fun x => { x with used := aset x.used (linkKey n d) s.clock }) :=
    updTile_sentOn s (fun _ => rfl) fun _ => rfl
  generalize hs1 : (updTile s u fun x => { x with used := aset x.used (linkKey n d) s.clock }) = s1 at h1
  have hun1 : Unheard s1 := h1.only.sameCores.unheard hun
  have h2 : SentOn u n tok [] s (forwarded s1 u n d tok) := by
    rw [forwarded_unheard hun1]
    exact h1.append (updTile_sentOn s1 (fun _ => rfl) fun _ => rfl)
  have hout : (if n = .vector then portAtLink (forwarded s1 u n d tok) u d else none) = none := by
    split
    next hn => rw [h2.sameGuards.portAtLink, hp hn]
    next => rfl
  simp only [sendOut, hs1, h1.sameGuards.guardOf, hg, hout]
  split
  next v hv => exact h2.append (hopLink_sentOn _ hv)
  next hv =>
    refine h2.append ⟨.refl _, fun _ => rfl, rfl, fun w _ k => ?_⟩
    simp [hv]

/-- A token sent on all of some links. -/
theorem sendOut_foldl_sentOn (hun : Unheard s) {ds : List Dir}
    (hopen : ∀ d ∈ ds, guardOf s u n d = none ∧ (n = .vector → portAtLink s u d = none)) :
    SentOn u n tok ds s (ds.foldl (fun s d => sendOut s u n tok d) s) := by
  induction ds generalizing s with
  | nil => exact .refl u n tok s
  | cons d ds ih =>
    obtain ⟨hg, hp⟩ := hopen d List.mem_cons_self
    have h := sendOut_sentOn (tok := tok) hun hg hp
    refine h.append (ih (h.only.sameCores.unheard hun) fun d' hd => ?_)
    rw [h.sameGuards.guardOf, h.sameGuards.portAtLink]
    exact hopen d' (List.mem_cons_of_mem _ hd)

end

/-! ## Queues (R140, R157) -/

/-- An operator, and a tile, without what a delivered token changes of them. -/
def opView (y : Op) : Op := { y with ina := {}, inb := {}, cin := {} }
def queueView (x : Tile) : Tile := { x with queues := [], g0 := opView x.g0, g1 := opView x.g1 }

theorem queueView_setQueueAt (x : Tile) (k : Nat) (q : Queue) : queueView (setQueueAt x k q) = queueView x := by unfold setQueueAt; split <;> rfl

/-- A queue by its code is a queue of an operator, or one of the PE. -/
theorem queueAt_setQueueAt (x : Tile) (k : Nat) (q : Queue) (i : Nat) : queueAt (setQueueAt x k q) i = if i = k then q else queueAt x i := by
  by_cases h : i = k
  · subst h
    rw [if_pos rfl]
    unfold setQueueAt
    split
    case h_7 =>
      unfold queueAt
      split
      case h_7 => exact aget_aset_same ..
      all_goals trivial
    all_goals rfl
  · rw [if_neg h]
    unfold setQueueAt
    split
    case h_7 =>
      unfold queueAt
      split
      case h_7 => exact aget_aset_other _ _ _ h
      all_goals rfl
    all_goals
      unfold queueAt
      split <;> trivial

theorem queueAt_of_lt (x : Tile) {q : Nat} (h : q < 8) : queueAt x q = getQ x q := by
  unfold queueAt
  split
  case h_7 => rfl
  all_goals omega

/-- A token as an input queue holds it: a control token as a scalar one (R140). -/
def queuedTok (tok : Tok) : Tok := match tok with | .ctl b => .sca ⟨if b then 1 else 0, 0⟩ | tok => tok

/-- A token arrives at a queue. -/
def deliverTo (s : State) (u : TileId) (k : Nat) (tok : Tok) : State :=
  updTile s u fun x => setQueueAt x k { queueAt x k with arr := (queueAt x k).arr ++ [tok] }

theorem deliver_eq (s : State) (u : TileId) (dst : Dests) (tok : Tok) : deliver s u dst tok =
    dst.ops.foldl (fun s k => deliverTo s u k tok) (match dst.queue with | some k => deliverTo s u k (queuedTok tok) | none => s) := by
  unfold deliver queuedTok deliverTo
  cases tok with
  | ctl b => cases b <;> rfl
  | _ => rfl

/-- Tokens have arrived at queues of a tile: nothing else has changed of it, and nothing outside it; `got k` are those that arrived at a queue. -/
structure Delivered (u : TileId) (got : Nat → List Tok) (s t : State) : Prop where
  only : OnlyTiles s t
  others : SameTilesBut s t (· = u)
  view : queueView (getTile t u) = queueView (getTile s u)
  arr : ∀ k, (queueAt (getTile t u) k).arr = (queueAt (getTile s u) k).arr ++ got k

theorem deliverTo_delivered (s : State) (u : TileId) (k : Nat) (tok : Tok) :
    Delivered u (fun i => if i = k then [tok] else []) s (deliverTo s u k tok) where
  only := updTile_onlyTiles ..
  others v hv := getTile_updTile_other s _ hv
  view := by rw [deliverTo, getTile_updTile, queueView_setQueueAt]
  arr i := by
    rw [deliverTo, getTile_updTile, queueAt_setQueueAt]
    by_cases h : i = k <;> simp [h]

theorem Delivered.trans {u : TileId} {f g : Nat → List Tok} {s t r : State} (h : Delivered u f s t) (k : Delivered u g t r) :
    Delivered u (fun i => f i ++ g i) s r :=
  ⟨h.only.trans k.only, h.others.trans k.others, k.view.trans h.view, fun i => by rw [k.arr, h.arr, List.append_assoc]⟩

theorem deliverTo_foldl_delivered (s : State) (u : TileId) (ks : List Nat) (tok : Tok) :
    Delivered u (fun i => List.replicate (ks.count i) tok) s (ks.foldl (fun s k => deliverTo s u k tok) s) := by
  induction ks generalizing s with
  | nil => exact ⟨.refl s, fun _ _ => rfl, rfl, fun _ => by simp⟩
  | cons k ks ih =>
    have h := (deliverTo_delivered s u k tok).trans (ih _)
    have e : (fun i => (if i = k then [tok] else []) ++ List.replicate (ks.count i) tok) = fun i => List.replicate ((k :: ks).count i) tok := by
      funext i
      by_cases hi : i = k
      · simp [hi, List.replicate_succ]
      · have hk : ¬ k = i := fun h => hi h.symm
        simp [hi, hk]
    rwa [e] at h

theorem deliver_delivered (s : State) (u : TileId) (dst : Dests) (tok : Tok) :
    Delivered u (fun i => (if dst.queue = some i then [queuedTok tok] else []) ++ List.replicate (dst.ops.count i) tok) s (deliver s u dst tok) := by
  rw [deliver_eq]
  refine Delivered.trans ?_ (deliverTo_foldl_delivered _ u dst.ops tok)
  cases dst.queue with
  | none => exact ⟨.refl s, fun _ _ => rfl, rfl, fun _ => by simp⟩
  | some k =>
    have h := deliverTo_delivered s u k (queuedTok tok)
    have e : (fun i => if i = k then [queuedTok tok] else []) = fun i => if some k = some i then [queuedTok tok] else [] := by
      funext i
      simp only [Option.some.injEq, eq_comm]
    rwa [e] at h

/-! ## Destinations (R43, R142, R157) -/

/-- Destinations name each link and each operator's queue at most once; an operator's queue has a code from 8 to 13, a PE's queue one below 8, but for a
scalar source whose field is the reserved one. -/
structure Dests.Proper (dst : Dests) : Prop where
  links : dst.links.Nodup
  ops : dst.ops.Nodup
  codes : ∀ k ∈ dst.ops, 8 ≤ k
  queue : ∀ q, dst.queue = some q → q ≤ 8

theorem dirs_filter_nodup (p : Dir → Bool) : (dirs.filter p).Nodup := List.Nodup.filter p (by decide)

/-- The operators' data inputs have codes of 8, 9, 11 and 12, and their control inputs of 10 and 13. -/
theorem opInputs_codes (x : Tile) : ((opInputs x).map (·.1)).Nodup ∧ ∀ k ∈ (opInputs x).map (·.1), 8 ≤ k := by
  have h : ((opInputs x).map (·.1)).Sublist ([8, 9] ++ [11, 12]) := by
    rw [opInputs, List.flatMap_cons, List.flatMap_singleton, List.map_append]
    refine List.Sublist.append ?_ ?_ <;> split <;> simp
  exact ⟨List.Nodup.sublist h (by decide), fun k hk => (by decide : ∀ k ∈ [8, 9, 11, 12], 8 ≤ k) k (h.subset hk)⟩

theorem opCtls_codes (x : Tile) : ((opCtls x).map (·.1)).Nodup ∧ ∀ k ∈ (opCtls x).map (·.1), 8 ≤ k := by
  have h : ((opCtls x).map (·.1)).Sublist ([10] ++ [13]) := by
    rw [opCtls, List.flatMap_cons, List.flatMap_singleton, List.map_append]
    refine List.Sublist.append ?_ ?_ <;> split <;> simp
  exact ⟨List.Nodup.sublist h (by decide), fun k hk => (by decide : ∀ k ∈ [10, 13], 8 ≤ k) k (h.subset hk)⟩

theorem filter_codes {α : Type} {l : List (Nat × α)} (h : (l.map (·.1)).Nodup ∧ ∀ k ∈ l.map (·.1), 8 ≤ k) (p : Nat × α → Bool) :
    ((l.filter p).map (·.1)).Nodup ∧ ∀ k ∈ (l.filter p).map (·.1), 8 ≤ k := by
  have hs := (List.filter_sublist (p := p) (l := l)).map (·.1)
  exact ⟨h.1.sublist hs, fun k hk => h.2 k (hs.subset hk)⟩

theorem vDests_proper (f : Nat) {ops : List Nat} (h : ops.Nodup ∧ ∀ k ∈ ops, 8 ≤ k) : (vDests f ops).Proper where
  links := by simp only [vDests, fwdLinks]; exact dirs_filter_nodup _
  ops := h.1
  codes := h.2
  queue q hq := by
    simp only [vDests, Option.ite_none_left_eq_some, Option.some.injEq] at hq
    omega

theorem sDests_proper (f : Nat) : (sDests f).Proper where
  links := by simp only [sDests, fwdLinks]; exact dirs_filter_nodup _
  ops := List.nodup_nil
  codes _ h := absurd h List.not_mem_nil
  queue q hq := by
    simp only [sDests, Option.ite_none_left_eq_some, Option.some.injEq] at hq
    omega

theorem cDests_proper (x : Tile) (p code : Nat) {ops : List Nat} (h : ops.Nodup ∧ ∀ k ∈ ops, 8 ≤ k) : (cDests x p code ops).Proper where
  links := by simp only [cDests]; exact dirs_filter_nodup _
  ops := h.1
  codes := h.2
  queue q hq := by
    simp only [cDests, Option.ite_none_right_eq_some, Option.some.injEq] at hq
    omega

theorem noDests_proper : Dests.Proper {} :=
  ⟨List.nodup_nil, List.nodup_nil, fun _ h => absurd h List.not_mem_nil, fun _ h => by cases h⟩

theorem linkDests_proper (x : Tile) (n : Net) (d : Dir) : (linkDests x n d).Proper := by
  unfold linkDests
  split
  · exact noDests_proper
  · split
    · exact vDests_proper _ (filter_codes (opInputs_codes x) _)
    · exact sDests_proper _
    · exact cDests_proper _ _ _ (filter_codes (opCtls_codes x) _)

theorem localDests_proper (x : Tile) (src : LocalSrc) : (localDests x src).Proper := by
  unfold localDests
  split
  · exact noDests_proper
  · split
    · exact vDests_proper _ (filter_codes (opInputs_codes x) _)
    · exact vDests_proper _ (filter_codes (opInputs_codes x) _)
    · exact sDests_proper _
    · exact cDests_proper _ _ _ (filter_codes (opCtls_codes x) _)
    next g t =>
      obtain ⟨hnodup, hcodes⟩ := filter_codes (opInputs_codes x) fun e => decide (e.1 / 11 ≠ g.val) && decide (e.2 = if t then .otherT else .otherF)
      dsimp only
      split
      · exact ⟨List.nodup_singleton _, hnodup, hcodes, fun _ h => by cases h⟩
      · refine ⟨List.nodup_nil, hnodup, hcodes, fun q hq => ?_⟩
        simp only [Option.ite_none_left_eq_some, Option.some.injEq] at hq
        omega
      · exact ⟨List.nodup_nil, hnodup, hcodes, fun _ h => by cases h⟩

/-! ## All destinations (R138) -/

/-- A token has reached all destinations of a tile: the queue, the operators' queues, and the next tiles' links. -/
def Lands (s t : State) (u : TileId) (n : Net) (dst : Dests) (tok : Tok) : Prop :=
  (∀ q, dst.queue = some q → (getQ (getTile t u) q).arr = (getQ (getTile s u) q).arr ++ [queuedTok tok]) ∧
  (∀ k ∈ dst.ops, (queueAt (getTile t u) k).arr = (queueAt (getTile s u) k).arr ++ [tok]) ∧
  ∀ d v, d ∈ dst.links → stepDir u d = some v →
    aget [] (getTile t v).links (linkKey n (opposite d)) = aget [] (getTile s v).links (linkKey n (opposite d)) ++ [arrival s u v tok]

/-- A tile without what sending changes of it. -/
def sendView (x : Tile) : Tile := queueView { x with used := [], ord := [] }

theorem filter_eq_singleton {α : Type} [DecidableEq α] {l : List α} (hl : l.Nodup) {a : α} (ha : a ∈ l) {p : α → Bool} (hp : ∀ b, p b = (b == a)) :
    l.filter p = [a] := by
  rw [List.filter_congr fun b _ => hp b, List.filter_beq, List.count_eq_one_of_mem hl ha]
  rfl

/-- A token sent where no guard, out-port, trace unit or breakpoint takes part reaches all its destinations. -/
theorem sendAll_lands {s : State} {u : TileId} {n : Net} {dst : Dests} (tok : Tok) (hd : dst.Proper) (hun : Unheard s) (ho : OpenWay s u n dst) :
    OnlyTiles s (sendAll s u n dst tok) ∧ sendView (getTile (sendAll s u n dst tok) u) = sendView (getTile s u) ∧
      Lands s (sendAll s u n dst tok) u n dst tok := by
  have h1 : SentOn u n tok [] s (updTile s u fun x => { x with used := aset x.used (boxUsed n) s.clock }) :=
    updTile_sentOn s (fun _ => rfl) fun _ => rfl
  have ho1 := h1.sameGuards.openWay ho
  have h2 := h1.append (sendOut_foldl_sentOn (tok := tok) (h1.only.sameCores.unheard hun) ho1.2)
  rw [List.nil_append] at h2
  have h3 := deliver_delivered (dst.links.foldl (fun s d => sendOut s u n tok d)
    (updTile s u fun x => { x with used := aset x.used (boxUsed n) s.clock })) u dst tok
  rw [show deliver (dst.links.foldl (fun s d => sendOut s u n tok d) (updTile s u fun x => { x with used := aset x.used (boxUsed n) s.clock })) u dst tok =
    sendAll s u n dst tok from rfl] at h3
  generalize dst.links.foldl (fun s d => sendOut s u n tok d) (updTile s u fun x => { x with used := aset x.used (boxUsed n) s.clock }) = r at h2 h3
  generalize sendAll s u n dst tok = t at h3
  have hlinks : sendView (getTile r u) = sendView (getTile s u) := by
    have e (x : Tile) : sendView x = { queueView (linkView x) with links := x.links } := rfl
    rw [e, e, h2.view, h2.own]
  have hqueues (k : Nat) : queueAt (getTile r u) k = queueAt (getTile s u) k := by
    have e (x : Tile) : queueAt x k = queueAt (linkView x) k := rfl
    rw [e (getTile r u), h2.view]
    rfl
  refine ⟨h2.only.trans h3.only, ?_, ?_, ?_, ?_⟩
  · have e (x : Tile) : sendView x = { queueView x with used := [], ord := [] } := rfl
    rw [← hlinks, e, e, h3.view]
  · intro q hq
    have hq8 : q < 8 := lt_of_le_of_ne (hd.queue q hq) fun e => ho.1 (by rw [hq, e])
    have hops : dst.ops.count q = 0 := List.count_eq_zero.mpr fun h => absurd (hd.codes q h) (by omega)
    have ha := h3.arr q
    rw [hops, hqueues, queueAt_of_lt _ hq8, queueAt_of_lt _ hq8] at ha
    simpa [hq] using ha
  · intro k hk
    have hqueue : ¬ dst.queue = some k := fun h => ho.1 (by rw [h, le_antisymm (hd.queue k h) (hd.codes k hk)])
    rw [h3.arr, hqueues, List.count_eq_one_of_mem hd.ops hk, if_neg hqueue]
    rfl
  · intro d v hdl hv
    have hne := stepDir_ne hv
    rw [h3.others v hne, h2.links v hne, filter_eq_singleton hd.links hdl]
    · rfl
    · intro d'
      have hiff : stepDir u d' = some v ∧ linkKey n (opposite d') = linkKey n (opposite d) ↔ d' = d :=
        ⟨fun h => linkKey_opposite_inj h.2, fun h => by rw [h]; exact ⟨hv, rfl⟩⟩
      simp only [hiff, Bool.beq_eq_decide_eq]

end Sys2Proof.Machine
end

section
/-! PROOFS. FORWARD and LOCAL_SEND (R11, R138 to R143, R326, R355): the token on a link, and that of a local source. -/
namespace Sys2Proof.Machine
open Sys2Proof

/-! ## Before a token is sent -/

/-- A tile without what is changed of it before a token is sent. -/
def readyView (x : Tile) : Tile :=
  { x with links := [], counts := [], outs := [], used := [], grants := [], g0 := { x.g0 with outT := none, outF := none },
           g1 := { x.g1 with outT := none, outF := none } }

/-- A tile has taken up a token to be sent: what its step leaves is as before, and so are every guard, its destinations and its queues. -/
structure Readied (u : TileId) (s t : State) : Prop where
  frame : TileFrame s t u
  guards : SameGuards s t
  view : readyView (getTile t u) = readyView (getTile s u)

section
variable {u : TileId} {s t r : State}

theorem Readied.refl (u : TileId) (s : State) : Readied u s s := ⟨.refl s u, ⟨fun _ => rfl, rfl, rfl, fun _ => rfl⟩, rfl⟩
theorem Readied.trans (h : Readied u s t) (k : Readied u t r) : Readied u s r :=
  ⟨h.frame.trans k.frame, h.guards.trans k.guards, k.view.trans h.view⟩

theorem setTile_readied {y : Tile} (h : readyView y = readyView (getTile s u)) : Readied u s (setTile s u y) where
  frame := setTile_frame ..
  guards := by
    refine OnlyTiles.sameGuards ⟨_, rfl⟩ fun v => ?_
    by_cases hv : v = u
    · rw [hv, getTile_setTile]; exact (congrArg Tile.owner h :)
    · rw [getTile_setTile_other s y hv]
  view := by rw [getTile_setTile, h]

/-- A step outside the tiles that changes of launches nothing but threads and cuts. -/
theorem readied_of_tiles (hf : TileFrame s t u) (ht : t.tiles = s.tiles) (hl : ∀ l, (findLaunch t l).map edgeView = (findLaunch s l).map edgeView) :
    Readied u s t :=
  ⟨hf, ⟨fun v => by rw [getTile_of_tiles ht], hf.2.2.1, hf.2.2.2.2.2.2.2.2.2.2.2.2.2, hl⟩, by rw [getTile_of_tiles ht]⟩

theorem updLaunch_tiles (s : State) (l : LaunchId) (f : Launch → Launch) : (updLaunch s l f).tiles = s.tiles := by unfold updLaunch; split <;> rfl
theorem recT_tiles (s : State) (t : TileId) (r : Rec) : (recT s t r).tiles = s.tiles := by
  unfold recT; dsimp only; split
  · exact recL_tiles ..
  · rfl
theorem countEv_tiles (s : State) (t : TileId) (ev q n : Nat) : (countEv s t ev q n).tiles = s.tiles := by unfold countEv; dsimp only; split <;> rfl
theorem inexact_tiles (s : State) (t : TileId) (thr : BitVec 8) : (inexact s t thr).tiles = s.tiles := by
  unfold inexact; split
  · rfl
  · exact updLaunch_tiles ..
theorem channel_tiles (s : State) (t : TileId) (n : Net) (d : Dir) (tok : Tok) : (channel s t n d tok).tiles = s.tiles := by
  unfold channel; split
  · split
    · exact updLaunch_tiles ..
    · rfl
  · rfl

theorem getTile_countTile (s : State) (u : TileId) (ev q : Nat) :
    getTile (countTile s u ev q) u = { getTile s u with counts := aupd 0 (getTile s u).counts ev (· + 1) } := by
  rw [countTile, getTile_of_tiles (countEv_tiles ..), getTile_updTile]

theorem countTile_launches (s : State) (u : TileId) (ev q : Nat) : (countTile s u ev q).launches = s.launches := by
  unfold countTile countEv; dsimp only; split <;> rfl

theorem updLaunch_edgeView (s : State) (l : LaunchId) {f : Launch → Launch} (hf : ∀ x, edgeView (f x) = edgeView x) (k : LaunchId) :
    (findLaunch (updLaunch s l f) k).map edgeView = (findLaunch s k).map edgeView := by
  unfold updLaunch
  split
  · rfl
  next x hx =>
    by_cases hk : k = l
    · rw [hk, findLaunch_setLaunch, hx, Option.map_some, Option.map_some, hf]
    · rw [findLaunch_setLaunch_other _ _ hk]

theorem countEv_readied (s : State) (t : TileId) (ev q n : Nat) (u : TileId) : Readied u s (countEv s t ev q n) :=
  readied_of_tiles (countEv_frame ..) (countEv_tiles ..) fun l => by unfold countEv; dsimp only; split <;> rfl
theorem countTile_readied (s : State) (u : TileId) (ev q : Nat) : Readied u s (countTile s u ev q) :=
  (setTile_readied (y := { getTile s u with counts := aupd 0 (getTile s u).counts ev (· + 1) }) rfl).trans (countEv_readied ..)
theorem recT_readied (s : State) (t : TileId) (r : Rec) (u : TileId) : Readied u s (recT s t r) :=
  readied_of_tiles (recT_frame ..) (recT_tiles ..) fun l => by
    unfold recT; dsimp only; split
    · rw [findLaunch_recL]
    · rfl
theorem inexact_readied (s : State) (t : TileId) (thr : BitVec 8) (u : TileId) : Readied u s (inexact s t thr) :=
  readied_of_tiles (inexact_frame ..) (inexact_tiles ..) fun l => by
    unfold inexact; split
    · rfl
    · exact updLaunch_edgeView _ _ (fun x => by dsimp only; split <;> rfl) l
theorem channel_frame (s : State) (t : TileId) (n : Net) (d : Dir) (tok : Tok) (u : TileId) : TileFrame s (channel s t n d tok) u := by
  unfold channel; split
  · split
    · exact updLaunch_frame ..
    · exact .refl ..
  · exact .refl ..
theorem channel_readied (s : State) (t : TileId) (n : Net) (d : Dir) (tok : Tok) (u : TileId) : Readied u s (channel s t n d tok) :=
  readied_of_tiles (channel_frame ..) (channel_tiles ..) fun l => by
    unfold channel; split
    · split
      · exact updLaunch_edgeView s _ (f := fun y => { y with cut := y.cut.map fun k => { k with chan := k.chan ++ [(tileKey t, linkKey n d, tok)] } })
          (fun _ => rfl) l
      · rfl
    · rfl

theorem Readied.queueAt (h : Readied u s t) (k : Nat) : queueAt (getTile t u) k = queueAt (getTile s u) k := by
  have e (x : Tile) : Machine.queueAt x k = Machine.queueAt (readyView x) k := by unfold Machine.queueAt; split <;> rfl
  rw [e, h.view, ← e]
theorem Readied.linkDests (h : Readied u s t) (n : Net) (d : Dir) : linkDests (getTile t u) n d = linkDests (getTile s u) n d := by
  have e (x : Tile) : Machine.linkDests x n d = Machine.linkDests (readyView x) n d := rfl
  rw [e, h.view, ← e]

theorem Readied.lands (h : Readied u s t) {n : Net} {dst : Dests} {tok : Tok} (k : Lands t r u n dst tok) : Lands s r u n dst tok := by
  obtain ⟨hq, hops, hlinks⟩ := k
  have hclock : t.clock = s.clock := h.frame.2.2.2.2.1
  have hqueues (q : Nat) : getQ (getTile t u) q = getQ (getTile s u) q := by
    have e (x : Tile) : getQ x q = getQ (readyView x) q := rfl
    rw [e, h.view, ← e]
  refine ⟨fun q e => by rw [hq q e, hqueues], fun k e => by rw [hops k e, h.queueAt], fun d v hd hv => ?_⟩
  rw [hlinks d v hd hv, h.frame.2.2.2.1 v (stepDir_ne hv), arrival, hclock]
  rfl

/-- A tile that has taken up a token sends it to all its destinations. -/
theorem Readied.sends (h : Readied u s t) {n : Net} {dst : Dests} (tok : Tok) (hd : dst.Proper) (hun : Unheard s) (ho : OpenWay s u n dst) :
    SameMem s (sendAll t u n dst tok) ∧ SameCores s (sendAll t u n dst tok) ∧ sendView (getTile (sendAll t u n dst tok) u) = sendView (getTile t u) ∧
      Lands s (sendAll t u n dst tok) u n dst tok := by
  obtain ⟨honly, hview, hlands⟩ := sendAll_lands tok hd (h.frame.2.1.unheard hun) (h.guards.openWay ho)
  exact ⟨h.frame.1.trans honly.sameMem, h.frame.2.1.trans honly.sameCores, hview, h.lands hlands⟩

end

/-! ## FORWARD (R11, R142, R143, R326, R355) -/

/-- The oldest token of a link taken. -/
def popLink (s : State) (u : TileId) (n : Net) (d : Dir) (rest : List (Tok × Nat)) : State :=
  updTile s u fun x => { x with links := aput [] x.links (linkKey n d) rest }

section
variable {u : TileId} {n : Net} {d : Dir} {b : Parity} {s : State} {tok : Tok} {at_ : Nat} {rest : List (Tok × Nat)}

theorem popLink_readied : Readied u s (popLink s u n d rest) := setTile_readied rfl

theorem popLink_links : aget [] (getTile (popLink s u n d rest) u).links (linkKey n d) = rest := by simp [popLink]

variable (hh : s.here = .link u n d b) (hl : aget [] (getTile s u).links (linkKey n d) = (tok, at_) :: rest)
include hh hl

theorem forward_early (h : s.clock ≤ at_) : execForward s = .next s := by
  simp only [execForward, hh, hl, h, if_true]

omit hh in
theorem markDue_clock (h : markDue s u n d = true) : at_ < s.clock := by
  rw [markDue, hl] at h
  cases tok with
  | vec v => exact of_decide_eq_true (Bool.and_elim_right h)
  | sca v => cases h
  | ctl b => cases h

/-- A marker that is due and passes its check goes to the cut logic. -/
theorem forward_mark (hm : markDue s u n d = true) (hg : markGood n b = true) : execForward s =
    match (getTile s u).cut with
    | none => .next (popLink s u n d rest)
    | some c => if c.recorded then .next (takeMark (popLink s u n d rest) u n d) else .next s := by
  simp only [execForward, hh, hl, not_le.mpr (markDue_clock hl hm), hm, hg, if_false, Bool.and_true, if_true] <;> rfl

/-- A tile that has not recorded lets a marker stand. -/
theorem forward_mark_waits (hm : markDue s u n d = true) (hg : markGood n b = true) {c : CutTile} (hc : (getTile s u).cut = some c)
    (hr : c.recorded = false) : Waits .forward s := by
  have hf := forward_mark hh hl hm hg
  simp only [hc, hr, Bool.false_eq_true, if_false] at hf
  exact hf

theorem forward_mark_taken (hm : markDue s u n d = true) (hg : markGood n b = true) {c : CutTile} (hc : (getTile s u).cut = some c)
    (hr : c.recorded = true) : Completes .forward s fun t => TileFrame s t u ∧ t.launches = s.launches ∧
      aget [] (getTile t u).links (linkKey n d) = rest ∧ (getTile t u).cut = some { c with marked := linkKey n d :: c.marked } := by
  have hf := forward_mark hh hl hm hg
  simp only [hc, hr, if_true] at hf
  refine ⟨_, hf, (setTile_frame ..).trans (updTile_frame ..), rfl, ?_, ?_⟩
  · rw [takeMark, getTile_updTile, popLink_links]
  · rw [takeMark, getTile_updTile, popLink, getTile_updTile, hc]
    rfl

theorem forward_mark_dropped (hm : markDue s u n d = true) (hg : markGood n b = true) (hc : (getTile s u).cut = none) :
    Completes .forward s fun t => TileFrame s t u ∧ t.launches = s.launches ∧ aget [] (getTile t u).links (linkKey n d) = rest := by
  have hf := forward_mark hh hl hm hg
  simp only [hc] at hf
  exact ⟨_, hf, setTile_frame .., rfl, popLink_links⟩

/-- A token that the parity check leaves is sent, or discarded for its reserved KIND. -/
theorem forward_passes (ht : at_ < s.clock) (hm : (markDue s u n d && markGood n b) = false) {r : State} {tok' : Tok}
    (hp : parityTok (popLink s u n d rest) u d b tok = (r, some tok')) : execForward s = .next
      (if reservedKind tok' then countTile (channel r u n d tok') u 0x21 0
       else sendAll (channel r u n d tok') u n (linkDests (getTile (channel r u n d tok') u) n d) tok') := by
  have hp' : parityTok (updTile s u fun x => { x with links := aput [] x.links (linkKey n d) rest }) u d b tok = (r, some tok') := hp
  simp only [execForward, hh, hl, not_le.mpr ht, hm, if_false, Bool.false_eq_true, hp']
  split <;> rfl

omit hh hl in
theorem channel_of_cut_none (s : State) (u : TileId) (n : Net) (d : Dir) (tok : Tok) (h : (getTile s u).cut = none) : channel s u n d tok = s := by
  simp only [channel, h]

/-- A token that is sent reaches the tile's destinations; the tile's links and counts are those that the parity check left. -/
theorem forward_sends (ht : at_ < s.clock) (hm : (markDue s u n d && markGood n b) = false) {r : State} {tok' : Tok}
    (hp : parityTok (popLink s u n d rest) u d b tok = (r, some tok')) (hr : Readied u (popLink s u n d rest) r) (hk : reservedKind tok' = false)
    (hun : Unheard s) (ho : OpenWay s u n (linkDests (getTile s u) n d)) :
    ∃ t, execForward s = .next t ∧ SameMem s t ∧ SameCores s t ∧ sendView (getTile t u) = sendView (getTile r u) ∧
      Lands s t u n (linkDests (getTile s u) n d) tok' := by
  have hr' : Readied u s (channel r u n d tok') := popLink_readied.trans (hr.trans (channel_readied ..))
  have hsend := hr'.sends tok' (linkDests_proper (getTile s u) n d) hun ho
  rw [getTile_of_tiles (channel_tiles ..)] at hsend
  refine ⟨_, forward_passes hh hl ht hm hp, ?_⟩
  rw [hk, if_neg Bool.false_ne_true, hr'.linkDests]
  exact hsend

theorem forward_ok (ht : at_ < s.clock) (hm : (markDue s u n d && markGood n b) = false) (hb : b = .ok) (hk : reservedKind tok = false)
    (hun : Unheard s) (ho : OpenWay s u n (linkDests (getTile s u) n d)) :
    Completes .forward s fun t => SameMem s t ∧ SameCores s t ∧ aget [] (getTile t u).links (linkKey n d) = rest ∧
      Lands s t u n (linkDests (getTile s u) n d) tok := by
  subst hb
  obtain ⟨t, he, hmem, hcores, hview, hlands⟩ := forward_sends hh hl ht hm rfl (.refl ..) hk hun ho
  have hlinks : (getTile t u).links = (getTile (popLink s u n d rest) u).links := (congrArg Tile.links hview :)
  exact ⟨t, he, hmem, hcores, by rw [hlinks, popLink_links], hlands⟩

theorem forward_payload (ht : at_ < s.clock) (hm : (markDue s u n d && markGood n b) = false) (hb : b = .payload) {v : VTok} (hv : tok = .vec v)
    (hun : Unheard s) (ho : OpenWay s u n (linkDests (getTile s u) n d)) :
    Completes .forward s fun t => SameMem s t ∧ aget [] (getTile t u).links (linkKey n d) = rest ∧
      aget 0 (getTile t u).counts 0x20 = aget 0 (getTile s u).counts 0x20 + 1 ∧
      Lands s t u n (linkDests (getTile s u) n d) (.vec (gapTok ⟨1, wread v.wt, true, false, v.thr⟩)) := by
  subst hb hv
  obtain ⟨t, he, hmem, -, hview, hlands⟩ := forward_sends hh hl ht hm rfl
    ((countTile_readied ..).trans ((recT_readied ..).trans (inexact_readied ..))) rfl hun ho
  rw [getTile_of_tiles (inexact_tiles ..), getTile_of_tiles (recT_tiles ..), getTile_countTile] at hview
  have hlinks : (getTile t u).links = (getTile (popLink s u n d rest) u).links := (congrArg Tile.links hview :)
  have hcounts : (getTile t u).counts = aupd 0 (getTile (popLink s u n d rest) u).counts 0x20 (· + 1) := (congrArg Tile.counts hview :)
  refine ⟨t, he, hmem, by rw [hlinks, popLink_links], ?_, hlands⟩
  rw [hcounts, aget_aupd, if_pos rfl, popLink, getTile_updTile]

theorem forward_reserved (ht : at_ < s.clock) (hm : (markDue s u n d && markGood n b) = false) (hb : b = .ok) (hk : reservedKind tok = true)
    (hc : (getTile s u).cut = none) :
    Completes .forward s fun t => TileFrame s t u ∧ t.launches = s.launches ∧ aget [] (getTile t u).links (linkKey n d) = rest ∧
      aget 0 (getTile t u).counts 0x21 = aget 0 (getTile s u).counts 0x21 + 1 := by
  subst hb
  have hcut : (getTile (popLink s u n d rest) u).cut = none := by rw [popLink, getTile_updTile, hc]
  refine ⟨_, forward_passes hh hl ht hm rfl, ?_⟩
  rw [hk, if_pos rfl, channel_of_cut_none _ _ _ _ _ hcut]
  refine ⟨(setTile_frame ..).trans (countTile_readied ..).frame, ?_, ?_, ?_⟩
  · rw [countTile_launches]; rfl
  · rw [getTile_countTile, popLink_links]
  · rw [getTile_countTile, aget_aupd, if_pos rfl, popLink, getTile_updTile]

omit hh hl in
/-- A drop at a guard while the link's count has room (R326, R327). -/
theorem guardDrop_counts (s : State) (u : TileId) (n : Net) (d : Dir) (k : Nat) (h : aget 0 (getTile s u).drops (linkKey n d) < 65534) :
    guardDrop s u n d k = updTile (countTile s u 0x25 0) u fun x =>
      { x with drops := aset x.drops (linkKey n d) (aget 0 (getTile s u).drops (linkKey n d) + 1) } := by
  have hlt : ¬ 65535 ≤ aget 0 (getTile s u).drops (linkKey n d) + 1 := by omega
  simp only [guardDrop, if_neg hlt]

/-- What a tile forwards in this cycle noted. -/
def markUsed (s : State) (u : TileId) (k : Nat) : State := updTile s u fun x => { x with used := aset x.used k s.clock }

omit hh hl in
theorem markUsed_readied (s : State) (u : TileId) (k : Nat) : Readied u s (markUsed s u k) := setTile_readied rfl

omit hh hl in
theorem sendAll_guarded {o : Dir} {k : Nat} (hg : guardOf s u n o = some k) :
    sendAll s u n ⟨[o], none, []⟩ tok = guardDrop (markUsed (markUsed s u (boxUsed n)) u (linkKey n o)) u n o k := by
  have hg' : guardOf (markUsed (markUsed s u (boxUsed n)) u (linkKey n o)) u n o = some k :=
    (((markUsed_readied ..).trans (markUsed_readied ..)).guards.guardOf u n o).trans hg
  have hs : sendOut (markUsed s u (boxUsed n)) u n tok o = guardDrop (markUsed (markUsed s u (boxUsed n)) u (linkKey n o)) u n o k := by
    rw [markUsed] at hg'
    simp only [sendOut, hg']
    rfl
  exact hs

/-- A token for one guarded link is dropped there. -/
theorem forward_guarded (ht : at_ < s.clock) (hm : (markDue s u n d && markGood n b) = false) (hb : b = .ok) (hk : reservedKind tok = false)
    (hc : (getTile s u).cut = none) {o : Dir} {k : Nat} (hd : linkDests (getTile s u) n d = ⟨[o], none, []⟩) (hg : guardOf s u n o = some k)
    (hn : aget 0 (getTile s u).drops (linkKey n o) < 65534) :
    Completes .forward s fun t => TileFrame s t u ∧ t.launches = s.launches ∧ aget [] (getTile t u).links (linkKey n d) = rest ∧
      aget 0 (getTile t u).drops (linkKey n o) = aget 0 (getTile s u).drops (linkKey n o) + 1 := by
  subst hb
  have hcut : (getTile (popLink s u n d rest) u).cut = none := by rw [popLink, getTile_updTile, hc]
  refine ⟨_, forward_passes hh hl ht hm rfl, ?_⟩
  rw [hk, if_neg Bool.false_ne_true, channel_of_cut_none _ _ _ _ _ hcut, popLink_readied.linkDests, hd]
  rw [sendAll_guarded ((popLink_readied.guards.guardOf u n o).trans hg)]
  have hready : Readied u s (markUsed (markUsed (popLink s u n d rest) u (boxUsed n)) u (linkKey n o)) :=
    popLink_readied.trans ((markUsed_readied ..).trans (markUsed_readied ..))
  generalize hq : markUsed (markUsed (popLink s u n d rest) u (boxUsed n)) u (linkKey n o) = q at hready
  have hdrops : (getTile q u).drops = (getTile s u).drops := (congrArg Tile.drops hready.view :)
  have hlinks : (getTile q u).links = (getTile (popLink s u n d rest) u).links := by rw [← hq, markUsed, markUsed, getTile_updTile, getTile_updTile]
  have hlaunches : q.launches = s.launches := by rw [← hq]; rfl
  rw [guardDrop_counts _ _ _ _ _ (by rwa [hdrops])]
  refine ⟨(hready.trans (countTile_readied ..)).frame.trans (setTile_frame ..), (countTile_launches ..).trans hlaunches, ?_, ?_⟩
  · rw [getTile_updTile, getTile_countTile, hlinks, popLink_links]
  · rw [getTile_updTile, aget_aset_same, hdrops]

end

/-! ## LOCAL_SEND (R142) -/

/-- A local source whose token has left it. -/
def sourceLeft (s : State) (x : Tile) : LocalSrc → Tile
  | .pe p => { x with outs := aput [] x.outs p.val (aget [] x.outs p.val).tail, used := aset x.used (srcUsed p) s.clock }
  | .op g true => setOp x g { getOp x g with outT := none }
  | .op g false => setOp x g { getOp x g with outF := none }

/-- A source granted on links. -/
def granted (x : Tile) (src : LocalSrc) (ds : List Dir) : Tile := ds.foldl (fun y d => grant y src d) x

theorem granted_eq (x : Tile) (src : LocalSrc) (ds : List Dir) : ∃ g, granted x src ds = { x with grants := g } := by
  induction ds generalizing x with
  | nil => exact ⟨x.grants, rfl⟩
  | cons d ds ih =>
    obtain ⟨g, hg⟩ := ih (grant x src d)
    exact ⟨g, hg⟩

/-- A tile whose local source sends. -/
def sourceSends (s : State) (x : Tile) (src : LocalSrc) : Tile :=
  if localNet src = .vector then granted (sourceLeft s x src) src (localDests x src).links else sourceLeft s x src

theorem sourceSends_eq (s : State) (x : Tile) (src : LocalSrc) : ∃ g, sourceSends s x src = { sourceLeft s x src with grants := g } := by
  unfold sourceSends
  split
  · exact granted_eq ..
  · exact ⟨_, rfl⟩

theorem sourceLeft_readyView (s : State) (x : Tile) (src : LocalSrc) : readyView (sourceLeft s x src) = readyView x := by
  match src with
  | .pe _ => rfl
  | .op 0 true | .op 0 false | .op 1 true | .op 1 false => rfl

theorem sourceSends_readyView (s : State) (x : Tile) (src : LocalSrc) : readyView (sourceSends s x src) = readyView x := by
  obtain ⟨g, hg⟩ := sourceSends_eq s x src
  rw [hg, ← sourceLeft_readyView s x src]
  rfl

/-- The token of a local source has left it. -/
def HasLeft (x z : Tile) (src : LocalSrc) : Prop :=
  match src with
  | .pe p => aget [] z.outs p.val = (aget [] x.outs p.val).tail
  | .op g true => (getOp z g).outT = none
  | .op g false => (getOp z g).outF = none

theorem sourceSends_hasLeft {s : State} {x z : Tile} {src : LocalSrc} (h : sendView z = sendView (sourceSends s x src)) : HasLeft x z src := by
  obtain ⟨g, hg⟩ := sourceSends_eq s x src
  rw [hg] at h
  match src with
  | .pe p =>
    have houts : z.outs = aput [] x.outs p.val (aget [] x.outs p.val).tail := (congrArg Tile.outs h :)
    simp [HasLeft, houts]
  | .op 0 true => exact (congrArg (fun x => x.g0.outT) h :)
  | .op 0 false => exact (congrArg (fun x => x.g0.outF) h :)
  | .op 1 true => exact (congrArg (fun x => x.g1.outT) h :)
  | .op 1 false => exact (congrArg (fun x => x.g1.outF) h :)

section
variable {u : TileId} {src : LocalSrc} {s : State} {tok : Tok} (hh : s.here = .source u src) (hl : localTok (getTile s u) src = some tok)
include hh hl

theorem localSend_waits (h : ableSend s (getTile s u) src = false ∨ winsLinks s (getTile s u) src = false ∨ tileHalted s u (getTile s u) = true) :
    Waits .localSend s := by
  have hn : (ableSend s (getTile s u) src && winsLinks s (getTile s u) src && !tileHalted s u (getTile s u)) = false := by
    obtain h | h | h := h <;> simp [h]
  change execLocalSend s = .next s
  simp only [execLocalSend, hh, hl, hn, Bool.false_eq_true, if_false]

theorem localSend_sends (hk : reservedKind tok = false) (ha : ableSend s (getTile s u) src = true) (hw : winsLinks s (getTile s u) src = true)
    (ht : tileHalted s u (getTile s u) = false) :
    execLocalSend s = .next (sendAll (setTile s u (sourceSends s (getTile s u) src)) u (localNet src) (localDests (getTile s u) src) tok) := by
  simp only [execLocalSend, hh, hl, ha, hw, ht, hk, Bool.not_false, Bool.and_self, Bool.false_eq_true, if_false, if_true]
  cases src with
  | pe p => rfl
  | op g t => cases t <;> rfl

theorem localSend_lands (hk : reservedKind tok = false) (ha : ableSend s (getTile s u) src = true) (hw : winsLinks s (getTile s u) src = true)
    (ht : tileHalted s u (getTile s u) = false) (hun : Unheard s) (ho : OpenWay s u (localNet src) (localDests (getTile s u) src)) :
    Completes .localSend s fun t => SameMem s t ∧ SameCores s t ∧ Lands s t u (localNet src) (localDests (getTile s u) src) tok ∧
      HasLeft (getTile s u) (getTile t u) src := by
  obtain ⟨hmem, hcores, hview, hlands⟩ := (setTile_readied (sourceSends_readyView s (getTile s u) src)).sends tok
    (localDests_proper (getTile s u) src) hun ho
  rw [getTile_setTile] at hview
  exact ⟨_, localSend_sends hh hl hk ha hw ht, hmem, hcores, hlands, sourceSends_hasLeft hview⟩

end

end Sys2Proof.Machine
end

section
/-! PROOFS. Queues (R144 to R153): what arrives at a queue with no pending and no head gap, policy by policy; a pending gap placed; a packet header
taken. -/
namespace Sys2Proof.Machine
open Sys2Proof

/-! ## A tile's queue put back -/

/-- A queue of a tile is put back: of memory, cores, dies, slices, other tiles and other queues nothing has changed. -/
structure PutBack (u : TileId) (q : Nat) (v : Queue) (s t : State) : Prop where
  mem : SameMem s t
  cores : SameCores s t
  dies : t.dies = s.dies
  slices : t.slices = s.slices
  tiles : SameTilesBut s t (· = u)
  same : getQ (getTile t u) q = v
  others : ∀ k, k ≠ q → getQ (getTile t u) k = getQ (getTile s u) k

theorem recL_slices (s : State) (l : LaunchId) (r : Rec) : (recL s l r).slices = s.slices := by unfold recL; split <;> rfl
theorem recT_slices (s : State) (t : TileId) (r : Rec) : (recT s t r).slices = s.slices := by
  unfold recT; dsimp only; split
  · exact recL_slices ..
  · rfl
theorem countEv_slices (s : State) (t : TileId) (ev q n : Nat) : (countEv s t ev q n).slices = s.slices := by unfold countEv; dsimp only; split <;> rfl
theorem updLaunch_slices (s : State) (l : LaunchId) (f : Launch → Launch) : (updLaunch s l f).slices = s.slices := by unfold updLaunch; split <;> rfl
theorem inexact_slices (s : State) (t : TileId) (thr : BitVec 8) : (inexact s t thr).slices = s.slices := by
  unfold inexact; split
  · rfl
  · exact updLaunch_slices ..

/-- What a queue does outside itself changes no tile and no slice. -/
theorem qEffects_keeps (u : TileId) (q : Nat) (es : List QEff) (s : State) :
    (qEffects u q es s).tiles = s.tiles ∧ (qEffects u q es s).slices = s.slices := by
  induction es generalizing s with
  | nil => exact ⟨rfl, rfl⟩
  | cons e es ih =>
    obtain ⟨ht, hs⟩ := ih (qEffects u q [e] s)
    refine ⟨ht.trans ?_, hs.trans ?_⟩ <;> cases e
    · exact inexact_tiles ..
    · exact countEv_tiles ..
    · exact recT_tiles ..
    · rfl
    · exact inexact_slices ..
    · exact countEv_slices ..
    · exact recT_slices ..
    · rfl

section
variable {s : State} {u : TileId} {p : Fin 4} {q : Nat} (ha : (getTile s u).active = some p) (hw : capW s u (getTile s u) p.val q = 0)
include ha hw

theorem putQ_of_noWindow (v : Queue) (n : Nat) : putQ s u q v n = setTile s u (setQ (getTile s u) q v) := by
  simp only [putQ, ha, hw, scratch, if_true]

theorem runQ_putBack (r : QRun) : PutBack u q r.q s (runQ s u q r) := by
  obtain ⟨ht, hs⟩ := qEffects_keeps u q r.eff (putQ s u q r.q (r.eff.count .headLeft))
  obtain ⟨hmem, hcores, hdies, htiles, -⟩ := runQ_frame s u q r
  rw [putQ_of_noWindow ha hw] at ht hs
  have hx : getTile (runQ s u q r) u = setQ (getTile s u) q r.q := by
    rw [runQ, putQ_of_noWindow ha hw, getTile_of_tiles ht, getTile_setTile]
  refine ⟨hmem, hcores, hdies, ?_, htiles, ?_, fun k hk => ?_⟩
  · rw [runQ, putQ_of_noWindow ha hw]; exact hs
  · rw [hx]; exact aget_aset_same ..
  · rw [hx]; exact aget_aset_other _ _ _ hk

/-- What a queue makes of a token, noted as this cycle's arrival. -/
theorem noteArrival_putBack (r : QRun) : PutBack u q r.q s (runQ (noteArrival s u q) u q r) := by
  have hx : getTile (noteArrival s u q) u = { getTile s u with used := aset (getTile s u).used (arrUsed q) s.clock } := getTile_updTile ..
  have hp := runQ_putBack (s := noteArrival s u q) (u := u) (p := p) (q := q) (by rw [hx]; exact ha) (by rw [hx]; exact hw) r
  have hf : TileFrame s (noteArrival s u q) u := updTile_frame ..
  refine ⟨hf.1.trans hp.mem, hf.2.1.trans hp.cores, hp.dies.trans hf.2.2.1, hp.slices, hf.2.2.2.1.trans hp.tiles, hp.same, fun k hk => ?_⟩
  rw [hp.others k hk, hx]
  rfl

end

/-! ## Arrival at a queue without gaps (R144, R147) -/

section
variable {now depth : Nat} {r : QRun} (hp : r.q.pend.count = 0)
include hp

theorem placeGap_none : placeGap now depth r = r := by rw [placeGap, if_pos hp]

theorem placeOther_free (tok : Tok) : (placeOther now depth tok r).q = if r.q.items.length < depth + 4 then enterQ now { tok := tok } r.q else r.q := by
  have hf : flag (decide (r.q.pend.count ≠ 0)) 0 = 0 := by simp [hp, flag]
  rw [placeOther, hf, Nat.add_zero, placeGap_none hp, admitOther]
  split <;> rfl

theorem place_record {e : QEntry} (he : isRecord e.tok = true) : place now depth e r = { r with q := enterQ now e r.q } := by
  unfold place
  split
  · rw [if_neg (by tauto), if_pos he, placeGap_none hp]
  next h =>
    cases ht : e.tok with
    | vec v => exact absurd ht (h v)
    | sca v => rw [ht] at he; cases he
    | ctl v => rw [ht] at he; cases he

theorem place_other {e : QEntry} (he : isRecord e.tok = false) :
    (place now depth e r).q = if r.q.items.length < depth + 4 then enterQ now { tok := e.tok } r.q else r.q := by
  unfold place
  split
  · rw [if_neg (by tauto), he, if_neg Bool.false_ne_true, placeOther_free hp]
  · exact placeOther_free hp _

end

/-- A queue that has lost a record to its pending gap. -/
def Queue.lost (q : Queue) (t : VTok) (ovr : Bool) : Queue := { q with pend := ⟨1, wread t.wt, false, ovr, t.thr⟩ }

theorem lose_free {r : QRun} (hp : r.q.pend.count = 0) (now depth : Nat) (t : VTok) (ovr : Bool) : (lose now depth t ovr r).q = r.q.lost t ovr := by
  have hn : ¬ (r.q.pend.count ≠ 0 ∧ r.q.pend.thr ≠ t.thr) := fun h => h.1 hp
  simp only [lose, if_neg hn, if_pos hp]
  rfl

theorem enterQ_length (now : Nat) (e : QEntry) (q : Queue) : (enterQ now e q).items.length = q.items.length + 1 := by simp [enterQ]

@[simp] theorem closeUp_items (c : QCfg) (q : Queue) : (closeUp c q).items = q.items := by unfold closeUp; split <;> rfl
@[simp] theorem closeUp_pend (c : QCfg) (q : Queue) : (closeUp c q).pend = q.pend := by unfold closeUp; split <;> rfl
@[simp] theorem closeUp_head (c : QCfg) (q : Queue) : (closeUp c q).head = q.head := by unfold closeUp; split <;> rfl
@[simp] theorem closeUp_lfsr (c : QCfg) (q : Queue) : (closeUp c q).lfsr = q.lfsr := by unfold closeUp; split <;> rfl
@[simp] theorem closeUp_arr (c : QCfg) (q : Queue) : (closeUp c q).arr = q.arr := by unfold closeUp; split <;> rfl
theorem closeUp_close (c : QCfg) (q : Queue) : (closeUp c q).close = (q.close || (decide (c.policy = 0) && decide (c.hw ≤ q.items.length))) := by
  unfold closeUp
  split
  next h => simp [h]
  next h =>
    have hb : (decide (c.policy = 0) && decide (c.hw ≤ q.items.length)) = false := by
      rw [← Bool.decide_and]
      exact decide_eq_false h
    rw [hb, Bool.or_false]

section
variable {now : Nat} {c : QCfg} {q : Queue} (hp : q.pend.count = 0)
include hp

theorem arriveQ_belowMark {tok : Tok} (hr : isRecord tok = true) (hw : q.items.length < c.hw) (hd : q.items.length < c.depth) :
    (arriveQ now c tok q).q = closeUp c (enterQ now { tok := tok } q) := by
  cases tok with
  | vec v =>
    have hc : countsAsData v = true := hr
    have hpl := place_record (now := now) (depth := c.depth) (r := { q := q }) (e := { tok := .vec v }) hp hr
    simp only [arriveQ, hc, hw, hd, if_true, and_self, hpl]
  | sca v => cases hr
  | ctl b => cases hr

theorem arriveQ_other {tok : Tok} (hr : isRecord tok = false) :
    (arriveQ now c tok q).q = closeUp c (if q.items.length < c.depth + 4 then enterQ now { tok := tok } q else q) := by
  have ho := place_other (now := now) (depth := c.depth) (r := { q := q }) (e := { tok := tok }) hp hr
  cases tok with
  | vec v =>
    have hc : countsAsData v = false := hr
    simp only [arriveQ, hc, Bool.false_eq_true, if_false, ho]
  | sca v => simp only [arriveQ, ho]
  | ctl b => simp only [arriveQ, ho]

omit hp in
theorem arriveQ_aboveMark {v : VTok} (hr : isRecord (.vec v) = true) (h : ¬ (q.items.length < c.hw ∧ q.items.length < c.depth)) :
    (arriveQ now c (.vec v) q).q = closeUp c (shed now c v { q := q }).q := by
  have hc : countsAsData v = true := hr
  simp only [arriveQ, hc, if_true, if_neg h]

/-! ## The policies (R147 to R153) -/

variable {v : VTok} (hr : isRecord (.vec v) = true)

include hr in
theorem shed_gate_admits (h : c.policy = 0) (hd : q.items.length < c.depth) : (shed now c v { q := q }).q = enterQ now { tok := .vec v } q := by
  simp only [shed, h, if_pos hd]
  rw [place_record (r := { q := q }) hp hr]

theorem shed_gate_loses (h : c.policy = 0) (hd : c.depth ≤ q.items.length) : (shed now c v { q := q }).q = q.lost v true := by
  simp only [shed, h, if_neg (not_lt.mpr hd)]
  exact lose_free hp ..

theorem shed_dropt (h : c.policy = 1) : (shed now c v { q := q }).q = q.lost v false := by
  simp only [shed, h]
  exact lose_free hp ..

include hr in
theorem shed_droph_replaces (hh : q.head.count = 0) (h : c.policy = 2) {e : QEntry} {tl : List QEntry} {t : VTok} (hi : q.items = e :: tl) (ht : e.tok = .vec t)
    (hc : countsAsData t = true) (hd : tl.length < c.depth) :
    (shed now c v { q := q }).q = enterQ now { tok := .vec v } { q with items := tl, head := ⟨1, wread t.wt, false, false, t.thr⟩, headAt := now } := by
  obtain ⟨tok, a, sec, a2, nrw⟩ := e
  cases ht
  simp only [shed, h, hi, hc, hh, hd, decide_true, Bool.true_or, Bool.and_self, if_true]
  rw [place_record (by exact hp) hr]
  rfl

theorem shed_droph_full (h : c.policy = 2) {e : QEntry} {tl : List QEntry} {t : VTok} (hi : q.items = e :: tl) (ht : e.tok = .vec t)
    (hd : c.depth ≤ tl.length) : (shed now c v { q := q }).q = q.lost v false := by
  obtain ⟨tok, a, sec, a2, nrw⟩ := e
  cases ht
  simp only [shed, h, hi, decide_eq_false (not_lt.mpr hd), Bool.and_false, Bool.false_eq_true, if_false]
  exact lose_free hp ..

theorem shed_droph_noRecord (h : c.policy = 2) (hn : ∀ t e tl, q.items = e :: tl → e.tok = .vec t → countsAsData t = false) :
    (shed now c v { q := q }).q = q.lost v false := by
  have hl := lose_free (r := { q := q }) hp now c.depth v false
  simp only [shed, h]
  split
  next t a sec a2 nrw tl hi =>
    rw [hn t _ tl hi rfl]
    exact hl
  · exact hl

theorem shed_sample_unpicked (h : c.policy = 3) (hs : (lfsrStep q.lfsr).toNat % 2 ^ c.s ≠ 0) :
    (shed now c v { q := q }).q = if c.gos then { q.lost v false with lfsr := lfsrStep q.lfsr } else { q with lfsr := lfsrStep q.lfsr } := by
  have hl := lose_free (r := { q := { q with lfsr := lfsrStep q.lfsr } }) hp now c.depth v false
  simp only [shed, h, if_neg hs]
  split
  · exact hl
  · rfl

theorem shed_sample_full (h : c.policy = 3) (hs : (lfsrStep q.lfsr).toNat % 2 ^ c.s = 0) (hd : c.depth ≤ q.items.length) :
    (shed now c v { q := q }).q = { q.lost v false with lfsr := lfsrStep q.lfsr } := by
  have hl := lose_free (r := { q := { q with lfsr := lfsrStep q.lfsr } }) hp now c.depth v false
  simp only [shed, h, if_pos hs, if_neg (not_lt.mpr hd)]
  exact hl

include hr in
theorem shed_sample_picked (h : c.policy = 3) (hs : (lfsrStep q.lfsr).toNat % 2 ^ c.s = 0) (hd : q.items.length < c.depth) :
    (shed now c v { q := q }).q = enterQ now { tok := .vec { v with wt := wscale v.wt c.s } } { q with lfsr := lfsrStep q.lfsr } := by
  have hpl := place_record (now := now) (depth := c.depth) (r := { q := { q with lfsr := lfsrStep q.lfsr } })
    (e := { tok := .vec { v with wt := wscale v.wt c.s } }) hp hr
  simp only [shed, h, if_pos hs, if_pos hd, hpl]
  rfl

theorem shed_merge (h : c.policy = 4) {e : QEntry} {t : VTok} (hl : q.items.getLast? = some e) (ht : e.tok = .vec t) :
    (shed now c v { q := q }).q =
      if mergeable e v then { q with items := q.items.dropLast ++ [{ e with tok := .vec (mergeTok c.mop t v) }] } else q.lost v false := by
  have hlo := lose_free (r := { q := q }) hp now c.depth v false
  simp only [shed, h, hl, ht]
  split
  · rfl
  · exact hlo

theorem shed_merge_noRecord (h : c.policy = 4) {e : QEntry} (hl : q.items.getLast? = some e) (ht : ∀ t, e.tok ≠ .vec t) :
    (shed now c v { q := q }).q = q.lost v false := by
  have hlo := lose_free (r := { q := q }) hp now c.depth v false
  simp only [shed, h, hl]
  exact hlo

theorem shed_narrow_unfit (h : c.policy = 5) (hn : narrowTok c.ntgt v = none) : (shed now c v { q := q }).q = q.lost v false := by
  simp only [shed, h, hn]
  exact lose_free hp ..

theorem shed_narrow_second (h : c.policy = 5) {m : VTok} (hn : narrowTok c.ntgt v = some m) {e : QEntry} (hl : q.items.getLast? = some e)
    (he : e.nrw = true) (hs : e.second = none) :
    (shed now c v { q := q }).q = { q with items := q.items.dropLast ++ [{ e with second := some m, at2 := now }] } := by
  simp only [shed, h, hn, hl, he, hs, hp, Option.isNone_none, decide_true, Bool.and_self, if_true]

omit hp in
/-- A record that NARROW narrows is still one. -/
theorem narrowTok_isRecord {n : Bool} {m : VTok} (hn : narrowTok n v = some m) : isRecord (.vec m) = true := by
  have hk : m.kind = kNrw := by
    simp only [narrowTok, Option.ite_none_left_eq_some] at hn
    obtain ⟨-, hn⟩ := hn
    split at hn
    · rw [← Option.some.inj hn]
    · split at hn
      · rw [← Option.some.inj hn]
      · cases hn
  simp [isRecord, countsAsData, hk]

theorem shed_narrow_own (h : c.policy = 5) {m : VTok} (hn : narrowTok c.ntgt v = some m) {e : QEntry} (hl : q.items.getLast? = some e)
    (he : e.nrw = false ∨ e.second ≠ none) :
    (shed now c v { q := q }).q = if q.items.length < c.depth then enterQ now { tok := .vec m, nrw := true } q else q.lost v false := by
  have hlo := lose_free (r := { q := q }) hp now c.depth v false
  have hpl := place_record (now := now) (depth := c.depth) (r := { q := q }) (e := { tok := .vec m, nrw := true }) hp (narrowTok_isRecord hn)
  have hb : (e.nrw && e.second.isNone && decide (q.pend.count = 0)) = false := by
    obtain he | he := he
    · rw [he]; rfl
    · rw [Option.isNone_eq_false_iff.mpr (Option.isSome_iff_ne_none.mpr he)]; simp
  simp only [shed, h, hn, hl, hb, Bool.false_eq_true, if_false, hpl]
  split
  · rfl
  · exact hlo

end

/-! ## ARRIVE at a queue of a PE -/

/-- A queue that has taken up its arriving token. -/
def Queue.feed (y : Queue) (rest : List Tok) : Queue := { y with arr := rest }

/-- A token has arrived at a queue of a tile, of which `f` now holds. -/
def ArrivesAs (s : State) (u : TileId) (q : Nat) (rest : List Tok) (f : Queue → Prop) : Prop :=
  Completes .arrive s fun t => SameMem s t ∧ SameCores s t ∧ t.dies = s.dies ∧ t.slices = s.slices ∧ SameTilesBut s t (· = u) ∧
    (getQ (getTile t u) q).arr = rest ∧ (∀ k, k ≠ q → getQ (getTile t u) k = getQ (getTile s u) k) ∧ f (getQ (getTile t u) q)

section
variable {u : TileId} {q : Fin 8} {s : State} {p : Fin 4} {tok : Tok} {rest : List Tok} {f : Queue → Prop} {z : Queue}
  (hh : s.here = .queue ⟨u, q⟩) (ha : (getTile s u).active = some p) (hy : (getQ (getTile s u) q.val).arr = tok :: rest) (hi : issuer s u = none)
  (hd : (hdrDue s.clock (getQ (getTile s u) q.val) && !tileHalted s u (getTile s u)) = false) (hl : liveOut s u q.val = none)
  (hw : capW s u (getTile s u) p.val q.val = 0) (hp : (getQ (getTile s u) q.val).pend.count = 0)
include hh ha hy hi hd hl hw hp

/-- The queue that `arriveQ` answers is put back. -/
theorem arrive_arriveQ
    (hz : (arriveQ s.clock (queueCfg s u (getTile s u) p.val q.val) tok ((getQ (getTile s u) q.val).feed rest)).q = z) (hr : z.arr = rest) (hf : f z) :
    ArrivesAs s u q.val rest f := by
  have hg : gapDue s.clock (getQ (getTile s u) q.val) = false := by simp [gapDue, hp]
  have he : execArrive s = .next (runQ (noteArrival s u q.val) u q.val
      (arriveQ s.clock (queueCfg s u (getTile s u) p.val q.val) tok ((getQ (getTile s u) q.val).feed rest))) := by
    simp only [execArrive, hh, hy, ha, hi, hd, hg, hl, Option.isSome_none, Bool.or_self, Bool.false_eq_true, if_false]
    rfl
  have hb := noteArrival_putBack ha hw (arriveQ s.clock (queueCfg s u (getTile s u) p.val q.val) tok ((getQ (getTile s u) q.val).feed rest))
  rw [hz] at hb
  exact ⟨_, he, hb.mem, hb.cores, hb.dies, hb.slices, hb.tiles, by rw [hb.same, hr], hb.others, by rw [hb.same]; exact hf⟩

/-- A record above the marks is shed by the queue's policy. -/
theorem arrive_shed {v : VTok} (hv : tok = .vec v) (hr : isRecord tok = true)
    (hm : ¬ ((getQ (getTile s u) q.val).items.length < (queueCfg s u (getTile s u) p.val q.val).hw ∧
      (getQ (getTile s u) q.val).items.length < (queueCfg s u (getTile s u) p.val q.val).depth))
    (hz : (shed s.clock (queueCfg s u (getTile s u) p.val q.val) v { q := (getQ (getTile s u) q.val).feed rest }).q = z) (ht : z.arr = rest)
    (hf : f (closeUp (queueCfg s u (getTile s u) p.val q.val) z)) : ArrivesAs s u q.val rest f := by
  subst hv
  have hs := arriveQ_aboveMark (now := s.clock) (c := queueCfg s u (getTile s u) p.val q.val) (q := (getQ (getTile s u) q.val).feed rest) hr hm
  rw [hz] at hs
  exact arrive_arriveQ hh ha hy hi hd hl hw hp hs (by rw [closeUp_arr, ht]) hf

end

/-! ## GAP_PLACE and PKTHDR_TAKE (R86, R146) -/

/-- A gap that is due is placed on its empty queue, whatever its depth. -/
theorem gapPlaceQ_due {now : Nat} {y : Queue} (h : gapDue now y = true) (c : QCfg) :
    (gapPlaceQ now c y).q.pend = {} ∧ (gapPlaceQ now c y).q.items = [{ tok := .vec (gapTok y.pend), at_ := now }] := by
  obtain ⟨hp, hi, -, -⟩ := of_decide_eq_true h
  have hlt : ([] : List QEntry).length < c.depth + 4 := by simp
  simp only [gapPlaceQ, placeGap, if_neg hp, QRun.also, admitOther, hi, if_pos hlt, closeUp_pend, closeUp_items, enterQ, List.nil_append, and_self]

section
variable {u : TileId} {q : Fin 8} {s : State} {p : Fin 4} (hh : s.here = .queue ⟨u, q⟩)
include hh

theorem gapPlace_places (ha : (getTile s u).active = some p) (hw : capW s u (getTile s u) p.val q.val = 0)
    (hg : gapDue s.clock (getQ (getTile s u) q.val) = true) :
    Completes .gapPlace s fun t => SameMem s t ∧ SameTilesBut s t (· = u) ∧ (getQ (getTile t u) q.val).pend = {} ∧
      (getQ (getTile t u) q.val).items = [{ tok := .vec (gapTok (getQ (getTile s u) q.val).pend), at_ := s.clock }] := by
  have he : execGapPlace s = .next (runQ (noteArrival s u q.val) u q.val
      (gapPlaceQ s.clock (queueCfg s u (getTile s u) p.val q.val) (getQ (getTile s u) q.val))) := by
    simp only [execGapPlace, hh, ha, hg, if_true]
  have hb := noteArrival_putBack ha hw (gapPlaceQ s.clock (queueCfg s u (getTile s u) p.val q.val) (getQ (getTile s u) q.val))
  refine ⟨_, he, hb.mem, hb.tiles, ?_⟩
  rw [hb.same]
  exact gapPlaceQ_due hg _

theorem pkthdrTake_waits (ht : tileHalted s u (getTile s u) = true) : Waits .pkthdrTake s := by
  change execPkthdrTake s = .next s
  simp only [execPkthdrTake, hh, ht, Bool.not_true, Bool.and_false, Bool.false_eq_true, if_false]
  split <;> rfl

theorem pkthdrTake_takes (ha : (getTile s u).active = some p) (hw : capW s u (getTile s u) p.val q.val = 0) {v : VTok}
    (hv : headOf (getQ (getTile s u) q.val) = some (.vec v)) (hk : v.kind = kPkthdr) (hc : (getQ (getTile s u) q.val).headAt < s.clock)
    (ht : tileHalted s u (getTile s u) = false) :
    Completes .pkthdrTake s fun t => SameMem s t ∧ SameTilesBut s t (· = u) ∧ SameCores s t ∧ getQ (getTile t u) q.val =
      { popQ s.clock (queueCfg s u (getTile s u) p.val q.val) (getQ (getTile s u) q.val) with dec := pktOf v, j := 0 } := by
  have hd : hdrDue s.clock (getQ (getTile s u) q.val) = true := by simp [hdrDue, hv, hk, hc]
  have he : execPkthdrTake s = .next (updTile (takeQ s u q.val) u fun x => setQ x q.val { getQ x q.val with dec := pktOf v, j := 0 }) := by
    simp only [execPkthdrTake, hh, hv, hd, ht, Bool.not_false, Bool.and_self, if_true]
  have htake : takeQ s u q.val = setTile s u (setQ (getTile s u) q.val
      (popQ s.clock (queueCfg s u (getTile s u) p.val q.val) (getQ (getTile s u) q.val))) := by
    simp only [takeQ, ha, putQ_of_noWindow ha hw]
  obtain ⟨hmem, hcores, -, htiles, -⟩ := (takeQ_frame s u q.val).trans
    (updTile_frame (takeQ s u q.val) u fun x => setQ x q.val { getQ x q.val with dec := pktOf v, j := 0 })
  refine ⟨_, he, hmem, htiles, hcores, ?_⟩
  rw [getTile_updTile, htake, getTile_setTile]
  simp only [getQ, setQ, aget_aset_same]

end

end Sys2Proof.Machine
end

section
/-! PROOFS. The PE around its slots (R86, R87): a token taken alone, and results that enter the result buffers. -/
namespace Sys2Proof.Machine
open Sys2Proof

/-! ## What a tile has counted -/

/-- An event's count at a tile. -/
def countOf (s : State) (u : TileId) (ev : Nat) : Nat := aget 0 (getTile s u).counts ev

theorem countOf_of_tiles {s t : State} (h : t.tiles = s.tiles) (u : TileId) (ev : Nat) : countOf t u ev = countOf s u ev := by
  rw [countOf, getTile_of_tiles h, countOf]

theorem countOf_countTile (s : State) (u : TileId) (e q ev : Nat) :
    countOf (countTile s u e q) u ev = if ev = e then countOf s u e + 1 else countOf s u ev := by
  rw [countOf, getTile_countTile, aget_aupd]
  rfl

theorem countOf_recFirst (s : State) (u : TileId) (r : Rec) (ev : Nat) : countOf (recFirst s u r) u ev = countOf s u ev := by
  unfold recFirst
  split
  · rfl
  · rw [countOf_of_tiles (recT_tiles ..), countOf, getTile_updTile]
    rfl

theorem scratch_tiles (s : State) (t : TileId) (before after : List QEntry) (d c n : Nat) : (scratch s t before after d c n).tiles = s.tiles := by
  unfold scratch; split <;> rfl

theorem countOf_takeQ (s : State) (u : TileId) (q ev : Nat) : countOf (takeQ s u q) u ev = countOf s u ev := by
  unfold takeQ putQ
  rw [countOf_of_tiles (scratch_tiles ..), countOf, getTile_setTile]
  rfl

/-- A head taken counts no event but its own decoding error (R83). -/
theorem countOf_takeHead (s : State) (u : TileId) (q : Nat) {ev : Nat} (h : ev ≠ 0x22) : countOf (takeHead s u q) u ev = countOf s u ev := by
  have hgap (v : VTok) : countOf (if v.kind = kGap then inexact (takeQ s u q) u v.thr else takeQ s u q) u ev = countOf s u ev := by
    split
    · rw [countOf_of_tiles (inexact_tiles ..), countOf_takeQ]
    · exact countOf_takeQ ..
  unfold takeHead
  dsimp only
  split
  · rfl
  · split
    · split
      · rw [countOf_recFirst, countOf_countTile, if_neg h, hgap]
      · exact hgap _
    · exact countOf_takeQ ..

/-- A firing that takes one head mixes no threads. -/
theorem countOf_beginFire_one (s : State) (sl : SlotId) (q : Nat) {ev : Nat} (h : ev ≠ 0x22) :
    countOf (beginFire s sl [q]) sl.tile ev = countOf s sl.tile ev := by
  rw [← countOf_takeHead s sl.tile q h, countOf, beginFire, markIssue, getTile_updTile]
  rfl

/-! ## LONE_TOKEN (R35, R39, R86) -/

/-- A token taken alone by a slot: the issue of the cycle is made, and the slot's firing flag stays (R86). -/
def takeAlone (s : State) (sl : SlotId) (q : Nat) : State :=
  updTile (beginFire s sl [q]) sl.tile fun x => updSlot x sl.slot.val fun y => { y with fired := (slotAt s sl).fired }

theorem takeAlone_frame (s : State) (sl : SlotId) (q : Nat) : TileFrame s (takeAlone s sl q) sl.tile := (beginFire_frame ..).trans (updTile_frame ..)

theorem slotAt_takeAlone (s : State) (sl : SlotId) (q : Nat) : slotAt (takeAlone s sl q) sl = { slotAt s sl with since := none } := by
  have h := slotAt_beginFire s sl [q]
  rw [slotAt] at h
  rw [slotAt, takeAlone, getTile_updTile, getSlot_updSlot, h]

theorem issued_takeAlone (s : State) (sl : SlotId) (q : Nat) : (getTile (takeAlone s sl q) sl.tile).issued = some s.clock := by
  rw [takeAlone, getTile_updTile, ← issued_beginFire s sl [q]]
  rfl

theorem countOf_takeAlone (s : State) (sl : SlotId) (q : Nat) {ev : Nat} (h : ev ≠ 0x22) : countOf (takeAlone s sl q) sl.tile ev = countOf s sl.tile ev := by
  rw [← countOf_beginFire_one s sl q h, countOf, takeAlone, getTile_updTile]
  rfl

section
variable {sl : SlotId} {s : State} {q arg : Nat} {i : Instr} {op : NodeOp} {w : NWord} (hh : s.here = .slot sl)
  (hwant : want s sl.tile (getTile s sl.tile) sl.slot.val = .lone q arg) (hi : slotInstr (getTile s sl.tile) sl.slot.val = some i)
  (hv : view i = .node op w) (hiss : issuer s sl.tile = some sl.slot.val)
include hh hwant hi hiss

include hv in
theorem loneToken_forwards (hu : useOf (view i) arg (seenHead (getTile s sl.tile) q) = .forward) :
    execLoneToken s = .next (pushEms (takeAlone s sl q) sl ((if w.out.getLsbD 0 then [(0, .vec (seenHead (getTile s sl.tile) q))] else []) ++
      (if w.out.getLsbD 1 then [(1, .vec (seenHead (getTile s sl.tile) q))] else []))) := by
  rw [hv] at hu
  simp only [execLoneToken, hh, hwant, hi, hiss, hv, hu, if_true]
  rfl

theorem loneToken_strays (hu : useOf (view i) arg (seenHead (getTile s sl.tile) q) ≠ .forward) :
    ∃ r, execLoneToken s = .next (recFirst (countTile (takeAlone s sl q) sl.tile 0x23 0) sl.tile r) := by
  simp only [execLoneToken, hh, hwant, hi, hiss, if_neg hu, if_true]
  exact ⟨_, rfl⟩

include hv in
theorem loneToken_takes : Completes .loneToken s fun t => SameMem s t ∧ SameTilesBut s t (· = sl.tile) ∧ (getTile t sl.tile).issued = some s.clock ∧
    (getSlot (getTile t sl.tile) sl.slot.val).fired = (getSlot (getTile s sl.tile) sl.slot.val).fired ∧
    (useOf (view i) arg (seenHead (getTile s sl.tile) q) = .forward → w.out.getLsbD 0 = true → w.out.getLsbD 1 = false →
      pipeOf t sl = pipeOf s sl ++ [results [(0, .vec (seenHead (getTile s sl.tile) q))]]) ∧
    (useOf (view i) arg (seenHead (getTile s sl.tile) q) ≠ .forward → pipeOf t sl = pipeOf s sl ∧
      aget 0 (getTile t sl.tile).counts 0x23 = aget 0 (getTile s sl.tile).counts 0x23 + 1) := by
  obtain ⟨hmem, -, -, htiles, -⟩ := takeAlone_frame s sl q
  have hslot := slotAt_takeAlone s sl q
  by_cases hu : useOf (view i) arg (seenHead (getTile s sl.tile) q) = .forward
  · obtain ⟨kmem, -, -, ktiles, -⟩ := pushEms_frame (takeAlone s sl q) sl ((if w.out.getLsbD 0 then [(0, .vec (seenHead (getTile s sl.tile) q))] else []) ++
      (if w.out.getLsbD 1 then [(1, .vec (seenHead (getTile s sl.tile) q))] else []))
    have hpush := slotAt_pushEms (takeAlone s sl q) sl ((if w.out.getLsbD 0 then [(0, .vec (seenHead (getTile s sl.tile) q))] else []) ++
      (if w.out.getLsbD 1 then [(1, .vec (seenHead (getTile s sl.tile) q))] else []))
    rw [hslot] at hpush
    refine ⟨_, loneToken_forwards hh hwant hi hv hiss hu, hmem.trans kmem, htiles.trans ktiles, by rw [issued_pushEms, issued_takeAlone],
      (congrArg Slot.fired hpush :), fun _ h0 h1 => ?_, fun h => absurd hu h⟩
    have hpipe := congrArg Slot.pipe hpush
    rw [h0, h1] at hpipe ⊢
    exact hpipe
  · obtain ⟨r, hr⟩ := loneToken_strays hh hwant hi hiss hu
    have hs : SameSlots (takeAlone s sl q) (recFirst (countTile (takeAlone s sl q) sl.tile 0x23 0) sl.tile r) sl.tile :=
      (countTile_slots ..).trans (recFirst_slots ..)
    obtain ⟨kmem, -, -, ktiles, -⟩ := (countTile_frame (takeAlone s sl q) sl.tile 0x23 0).trans (recFirst_frame _ sl.tile r)
    have hs' := hs.slotAt (sl := sl)
    rw [hslot] at hs'
    refine ⟨_, hr, hmem.trans kmem, htiles.trans ktiles, by rw [hs.2.1, issued_takeAlone], (congrArg Slot.fired hs' :), fun h => absurd h hu,
      fun _ => ⟨(congrArg Slot.pipe hs' :), ?_⟩⟩
    have hc := countOf_recFirst (countTile (takeAlone s sl q) sl.tile 0x23 0) sl.tile r 0x23
    rw [countOf_countTile, if_pos rfl, countOf_takeAlone s sl q (by decide)] at hc
    exact hc

end

/-! ## RESULT_COMPLETE (R87) -/

/-- Results enter the result buffers of their ports, in order. -/
theorem aget_enter (l : List (Fin 4 × Tok)) (o : Assoc (List Tok)) (p : Fin 4) :
    aget [] (l.foldl (fun o e => aupd [] o e.1.val (· ++ [e.2])) o) p.val = aget [] o p.val ++ (l.filter fun e => decide (e.1 = p)).map (·.2) := by
  induction l generalizing o with
  | nil => simp
  | cons e l ih =>
    rw [List.foldl_cons, ih, aget_aupd]
    by_cases h : e.1 = p
    · simp [h]
    · have hv : ¬ p.val = e.1.val := fun k => h (Fin.ext k.symm)
      simp [h, hv]

theorem completeArith_frame (s : State) (t : TileId) (n : Nat) (u : TileId) : TileFrame s (completeArith s t n) u := by
  unfold completeArith
  split
  · exact .refl ..
  · split
    · exact .refl ..
    · split
      · exact .refl ..
      · apply setCl_frame; rfl

theorem completeArith_tiles (s : State) (t : TileId) (n : Nat) : (completeArith s t n).tiles = s.tiles := by
  unfold completeArith
  split
  · rfl
  · split
    · rfl
    · split <;> rfl

section
variable {sl : SlotId} {s : State} {f : Firing} {rest : List Firing} (hh : s.here = .slot sl) (hp : pipeOf s sl = f :: rest)
include hh hp

theorem resultComplete_waits (h : f.ready = false ∨ fits (getTile s sl.tile) f.ems = false ∨ passedBy s (getTile s sl.tile) sl.slot.val = true ∨
    tileHalted s sl.tile (getTile s sl.tile) = true) : Waits .resultComplete s := by
  have hn : (f.ready && fits (getTile s sl.tile) f.ems && !passedBy s (getTile s sl.tile) sl.slot.val && !tileHalted s sl.tile (getTile s sl.tile)) = false := by
    obtain h | h | h | h := h <;> simp [h]
  rw [pipeOf] at hp
  change execResultComplete s = .next s
  simp only [execResultComplete, hh, hp, hn, Bool.false_eq_true, if_false]

theorem resultComplete_enters (hr : f.ready = true) (hf : fits (getTile s sl.tile) f.ems = true) (hb : passedBy s (getTile s sl.tile) sl.slot.val = false)
    (ht : tileHalted s sl.tile (getTile s sl.tile) = false) :
    Completes .resultComplete s fun t => TileFrame s t sl.tile ∧ pipeOf t sl = rest ∧ ∀ p : Fin 4, aget [] (getTile t sl.tile).outs p.val =
      aget [] (getTile s sl.tile).outs p.val ++ (f.ems.filter fun e => decide (e.1 = p)).map (·.2) := by
  rw [pipeOf] at hp
  change ∃ t, execResultComplete s = .next t ∧ _
  simp only [execResultComplete, hh, hp, hr, hf, hb, ht, Bool.not_false, Bool.and_self, if_true]
  refine ⟨_, rfl, (setTile_frame ..).trans (completeArith_frame ..), ?_, fun p => ?_⟩
  · rw [pipeOf, getTile_of_tiles (completeArith_tiles ..), getTile_setTile, getSlot_setSlot]
  · rw [getTile_of_tiles (completeArith_tiles ..), getTile_setTile]
    exact aget_enter ..

end

end Sys2Proof.Machine
end

section
/-! PROOFS. The edge gate and the quiescence detector (R148, R157); and the moves of the network and of the queues together. -/
namespace Sys2Proof.Machine
open Sys2Proof

/-- Of all but clusters, only a launch has changed. -/
def LaunchBecomes (s t : State) (l : LaunchId) (y : Launch) : Prop := SameMem s t ∧ t.tiles = s.tiles ∧ SameLaunchesBut s t l ∧ findLaunch t l = some y

theorem setLaunch_becomes (s : State) (l : LaunchId) (y : Launch) : LaunchBecomes s (setLaunch s l y) l y :=
  ⟨.of_eq rfl rfl rfl rfl rfl, rfl, fun _ hk => findLaunch_setLaunch_other s y hk, findLaunch_setLaunch ..⟩

/-- The word of a quiescence record that names up to four of the queues that hold a close request (R157). -/
def closersNamed (qs : List (Nat × Nat × Nat)) : Nat :=
  (qs.eraseDups.take 4).zipIdx.foldl (fun n ((r, c, k), i) => n + (0x8000 + r * 1024 + c * 32 + k) * 2 ^ (16 * i)) 0

section
variable {l : LaunchId} {s : State} {x : Launch} (hh : s.here = .launch l) (hx : findLaunch s l = some x)

/-- A change of the edge gate arrives once it is due. -/
theorem gateArrived_iff {k : Nat} (hw : gateWanted s l x = !x.gate) (hd : x.gateDue = some k) : gateArrived s l x = decide (k ≤ s.clock) := by
  rw [gateArrived, hw, hd]
  cases x.gate <;> rfl

include hh hx

theorem edgeGateClose_moves {k : Nat} (hw : gateWanted s l x = true) (hg : x.gate = false) (hd : x.gateDue = some k) :
    (k ≤ s.clock → Completes .edgeGateClose s fun t => LaunchBecomes s t l { x with gate := true, gateDue := none } ∧ t.clusters = s.clusters) ∧
      (s.clock < k → Waits .edgeGateClose s) := by
  have ha := gateArrived_iff (s := s) (l := l) (by rw [hw, hg]; rfl) hd
  have he : exec .edgeGateClose s = execEdgeGateClose s := rfl
  rw [Completes, Waits, he]
  simp only [execEdgeGateClose, hh, hx, ha, hg, Bool.not_false, Bool.and_true, decide_eq_true_eq]
  refine ⟨fun h => ?_, fun h => if_neg (not_le.mpr h)⟩
  rw [if_pos h]
  exact ⟨_, rfl, setLaunch_becomes .., rfl⟩

theorem edgeGateOpen_moves {k : Nat} (hw : gateWanted s l x = false) (hg : x.gate = true) (hd : x.gateDue = some k) :
    (k ≤ s.clock → Completes .edgeGateOpen s fun t => LaunchBecomes s t l { x with gate := false, gateDue := none } ∧ t.clusters = s.clusters) ∧
      (s.clock < k → Waits .edgeGateOpen s) := by
  have ha := gateArrived_iff (s := s) (l := l) (by rw [hw, hg]; rfl) hd
  have he : exec .edgeGateOpen s = execEdgeGateOpen s := rfl
  rw [Completes, Waits, he]
  simp only [execEdgeGateOpen, hh, hx, ha, hg, Bool.and_true, decide_eq_true_eq]
  refine ⟨fun h => ?_, fun h => if_neg (not_le.mpr h)⟩
  rw [if_pos h]
  exact ⟨_, rfl, setLaunch_becomes .., rfl⟩

theorem qwc_records {home : ClusterId} (hi : x.issuer = some home) (hq : 2 ^ x.lr.qwin ≤ x.quiet) (hd : x.qwcDone = false) :
    Completes .qwc s fun t => LaunchBecomes s t l { x with qwcDone := true } ∧ ∃ p1, (closers s l x = [] → p1 = 0) ∧
      (getCl t home).pend = (getCl s home).pend ++
        [{ kind := 0x0B, ctx := x.lr.ctx, handle := l.handle, p0 := word (min (closers s l x).length 511), p1 := p1 }] := by
  have hdue : qwcDue x = true := by simp [qwcDue, hq, hd]
  have hset := setLaunch_becomes s l { x with qwcDone := true }
  have hrec := recL_step (s := setLaunch s l { x with qwcDone := true }) (l := l) (x := { x with qwcDone := true }) hset.2.2.2 hi
    { kind := 0x0B, p0 := word (min (closers s l x).length 511), p1 := word (closersNamed (closers s l x)) }
  have he : execQwc s = .next (recL (setLaunch s l { x with qwcDone := true }) l
      { kind := 0x0B, p0 := word (min (closers s l x).length 511), p1 := word (closersNamed (closers s l x)) }) := by
    simp only [execQwc, hh, hx, hdue, if_true]
    rfl
  obtain ⟨hmem, htiles, hothers, hfind⟩ := hset
  refine ⟨_, he, ⟨hmem.trans hrec.mem, (recL_tiles ..).trans htiles, hothers.trans hrec.others, (findLaunch_recL ..).trans hfind⟩,
    word (closersNamed (closers s l x)), fun hc => by rw [hc]; rfl, hrec.pend⟩

theorem qwc_waits (h : x.quiet < 2 ^ x.lr.qwin ∨ x.qwcDone = true) : Waits .qwc s := by
  have hdue : qwcDue x = false := by
    obtain h | h := h
    · rw [qwcDue, decide_eq_false (not_le.mpr h), Bool.false_and]
    · rw [qwcDue, h, Bool.not_true, Bool.and_false]
  change execQwc s = .next s
  simp only [execQwc, hh, hx, hdue, Bool.false_eq_true, if_false]

end

/-- Settles O54: a FORWARD or LOCAL_SEND reaches every destination because links and queues are named once each and no guard, out-port or unit of the
observation interferes; a queue with no gap handles its token as its policy says; the rest follows move by move. -/
theorem networkAndQueueMoves : Obligations.NetworkAndQueueMoves := by
  unfold Obligations.NetworkAndQueueMoves
  intro unheard lands open_
  refine ⟨fun u n d b s tok at_ rest hh hl => ⟨fun hm hg => ?_, fun hm => ?_⟩, fun u src s tok hh hl hk => ?_, ?_, ?_, ?_, ?_⟩
  · exact ⟨fun c hc hr => forward_mark_waits hh hl hm hg hc hr, fun c hc hr => forward_mark_taken hh hl hm hg hc hr, forward_mark_dropped hh hl hm hg⟩
  · exact ⟨fun h => forward_early hh hl h, fun ht hb hk hun ho => forward_ok hh hl ht hm hb hk hun ho,
      fun ht hb hk hc => forward_reserved hh hl ht hm hb hk hc,
      fun o k ht hb hk hd hg hc hn => forward_guarded hh hl ht hm hb hk hc hd hg hn,
      fun v ht hb hv hun ho => forward_payload hh hl ht hm hb hv hun ho⟩
  · refine ⟨localSend_waits hh hl, fun ha hw ht hun ho => ?_⟩
    obtain ⟨t, he, hmem, hcores, hlands, hleft⟩ := localSend_lands hh hl hk ha hw ht hun ho
    refine ⟨t, he, hmem, hcores, hlands, ?_⟩
    cases src with
    | pe p => exact hleft
    | op g b => cases b <;> exact hleft
  · intro u q s p tok rest hh ha y c occ e hy hi hd hl hw hp hhead after
    have hlow {f : Queue → Prop} {z : Queue} (hz : (arriveQ s.clock c tok (y.feed rest)).q = z) (ht : z.arr = rest) (hf : f z) : after f :=
      arrive_arriveQ hh ha hy hi hd hl hw hp hz ht hf
    have hsheds {f : Queue → Prop} {z : Queue} {v : VTok} (hv : tok = .vec v) (hr : isRecord tok = true) (hm : ¬ (occ < c.hw ∧ occ < c.depth))
        (hz : (shed s.clock c v { q := y.feed rest }).q = z) (ht : z.arr = rest) (hf : f (closeUp c z)) : after f :=
      arrive_shed hh ha hy hi hd hl hw hp hv hr hm hz ht hf
    clear_value after
    have hpend : (y.feed rest).pend.count = 0 := hp
    refine ⟨fun hr h1 h2 => ?_, fun hr h1 => ?_, fun hr h1 => ?_, fun v hv hr hm => ?_⟩
    · refine hlow (arriveQ_belowMark hpend hr h1 h2) (closeUp_arr ..) ?_
      refine ⟨closeUp_items .., closeUp_pend .., closeUp_head .., ?_⟩
      rw [closeUp_close, enterQ_length]
      rfl
    · refine hlow ((arriveQ_other hpend hr).trans (congrArg _ (if_pos h1))) (closeUp_arr ..) ?_
      exact ⟨closeUp_items .., closeUp_pend .., closeUp_head ..⟩
    · refine hlow ((arriveQ_other hpend hr).trans (congrArg _ (if_neg (not_lt.mpr h1)))) (closeUp_arr ..) ?_
      exact ⟨closeUp_items .., closeUp_pend .., closeUp_head ..⟩
    · have hshed {f : Queue → Prop} {z : Queue} := hsheds (f := f) (z := z) hv hr hm
      intro lost
      have hlost (ovr : Bool) : lost ovr (closeUp c ((y.feed rest).lost v ovr)) := ⟨closeUp_items .., closeUp_pend .., closeUp_head ..⟩
      have hrec : isRecord (.vec v) = true := hv ▸ hr
      have he : e = { tok := .vec v, at_ := s.clock } := by rw [← hv]
      rw [he]
      refine ⟨fun h hd => ?_, fun h hd => hshed (shed_gate_loses hpend h hd) rfl (hlost _), fun h => hshed (shed_dropt hpend h) rfl (hlost _),
        fun t he tl h hi ht hc hd => hshed (shed_droph_full hpend h hi ht hd) rfl (hlost _), fun t he tl h hi ht hc hd => ?_,
        fun h hn => hshed (shed_droph_noRecord hpend h hn) rfl (hlost _), fun h => ⟨fun hs hd => ?_, fun hs hd => ?_, fun hs => ?_⟩, fun he t h hl ht => ?_,
        fun he h hl ht => hshed (shed_merge_noRecord hpend h hl ht) rfl (hlost _), fun h => ⟨fun hn => hshed (shed_narrow_unfit hpend h hn) rfl (hlost _),
          fun m he hn hl => ⟨fun hn1 hn2 => ?_, fun hn1 hd => ?_, fun hn1 hd => ?_⟩⟩⟩
      · refine hshed (shed_gate_admits hpend hrec h hd) rfl ?_
        have hmark : c.hw ≤ (y.feed rest).items.length + 1 := Nat.le_succ_of_le (not_lt.mp fun hlt => hm ⟨hlt, hd⟩)
        refine ⟨closeUp_items .., closeUp_pend .., ?_⟩
        rw [closeUp_close, enterQ_length, decide_eq_true h, decide_eq_true hmark, Bool.and_self, Bool.or_true]
      · refine hshed (shed_droph_replaces hpend hrec hhead h hi ht hc hd) rfl ?_
        exact ⟨closeUp_items .., closeUp_pend .., closeUp_head ..⟩
      · refine hshed (shed_sample_picked hpend hrec h hs hd) rfl ?_
        exact ⟨closeUp_lfsr .., closeUp_items .., closeUp_pend ..⟩
      · refine hshed (shed_sample_full hpend h hs hd) rfl ?_
        exact ⟨closeUp_lfsr .., closeUp_items .., closeUp_pend .., closeUp_head ..⟩
      · refine hshed (shed_sample_unpicked hpend h hs) (by split <;> rfl) ?_
        simp only [closeUp_lfsr, closeUp_items, closeUp_pend]
        split <;> exact ⟨rfl, rfl, rfl⟩
      · refine hshed (shed_merge hpend h hl ht) (by split <;> rfl) ?_
        split
        · exact ⟨closeUp_items .., closeUp_pend ..⟩
        · exact hlost _
      · refine hshed (shed_narrow_second hpend h hn hl hn1 hn2) rfl ?_
        exact closeUp_items ..
      · refine hshed ((shed_narrow_own hpend h hn hl hn1).trans (if_pos hd)) rfl ?_
        exact closeUp_items ..
      · exact hshed ((shed_narrow_own hpend h hn hl hn1).trans (if_neg (not_lt.mpr hd))) rfl (hlost _)
  · intro u q s p hh ha hw y
    exact ⟨gapPlace_places hh ha hw, pkthdrTake_waits hh, fun v hv hk hc ht => pkthdrTake_takes hh ha hw hv hk hc ht⟩
  · exact fun sl s hh => ⟨fun q arg i op w hwant hi hv hiss _ => loneToken_takes hh hwant hi hv hiss,
      fun f rest hp hr hf hb ht => resultComplete_enters hh hp hr hf hb ht, fun f rest hp h => resultComplete_waits hh hp h⟩
  · intro l s x home hh hx hi only
    exact ⟨fun k hw hg hd => edgeGateClose_moves hh hx hw hg hd, fun k hw hg hd => edgeGateOpen_moves hh hx hw hg hd,
      qwc_records hh hx hi, qwc_waits hh hx⟩

end Sys2Proof.Machine
end

section
/-! PROOFS. The floating-point family in slots (R113, R117 to R120): the elements that its nodes give, and sign, order and class of an encoding in
numbers. -/
namespace Sys2Proof.Machine
open Sys2Proof

/-! ## Nodes over a function of the elements -/

/-- As `nodeGives_of_elems`, on the types of which `p` holds, with a FMT and a function that depend on the word and the type. -/
theorem nodeGivesBy_of_elems {op : NodeOp} {value : CalcIn → Calc} (hexec : ∀ w s, exec (nodeInstr op w) s = fireCalc op value w s) {p : Ty → Prop}
    {res : Ty → BitVec 4} {f : NWord → Ty → Nat → Nat → Nat → Nat} (hvalid : ∀ x, (value x).valid = none)
    (hfmt : ∀ x, p x.ty → (value x).fmt = res x.ty)
    (helem : ∀ x i, p x.ty → i < 512 / tyWidth x.ty → elem (tyWidth x.ty) (value x).pay i =
      f x.w x.ty (elem (tyWidth x.ty) x.a.pay i) (elem (tyWidth x.ty) x.b.pay i) (elem (tyWidth x.ty) x.c.pay i)) :
    NodeGivesBy op p res f := by
  intro w sl s ht x n hk hp
  obtain ⟨t, he, hi, hl, hpipe, hf⟩ := fireCalc_completes hexec ht hk
  have hv : (latchOf t sl).valid = vmValid w.vm x.ty x.k7 x.a x.b x.c := by rw [hl, resultTok, hvalid]
  refine ⟨t, he, hi, by rw [hl]; rfl, by rw [hl]; exact hfmt _ hp, by rw [hl]; rfl, hv, fun i hin => ?_, hpipe, hf⟩
  have hpay : (latchOf t sl).pay = zeroInvalid (latchOf t sl).valid (value ⟨x.ty, w, x.a, x.b, x.c⟩).pay := by rw [hl]; rfl
  rw [hpay, elem_zeroInvalid_type (fun hty i h8 => by rw [hv, hty]; exact vmValid_pair _ _ _ _ _ h8) _ hin, helem ⟨x.ty, w, x.a, x.b, x.c⟩ i hp hin]

/-- A node whose elements are exact values rounded once gives them so. -/
theorem nodeGivesBy_of_mapF {op : NodeOp} {g : Rm → FVal → FVal → FVal → FVal}
    (hexec : ∀ w s, exec (nodeInstr op w) s = fireCalc op (fun x => mapF x fun _ => g x.w.rm) w s) :
    NodeGivesBy op (fun _ => True) tyCode fun w ty a b c =>
      (roundTo (fmtOf ty) (g w.rm (fval (fmtOf ty) a) (fval (fmtOf ty) b) (fval (fmtOf ty) c)) w.rm w.ov).bits % 2 ^ tyWidth ty := by
  refine nodeGivesBy_of_elems hexec (fun _ => rfl) (fun _ _ => rfl) fun x i _ hi => ?_
  rw [mapF, ofRounded, List.map_map, elem_packElems_map (tyWidth_pos x.ty) _ i hi (tyWidth_mul_le hi), Function.comp_apply]

/-- A node that works on encodings gives its function of them, where that is an encoding again. -/
theorem nodeGivesBy_of_mapEnc {op : NodeOp} {out : Ty → Ty} {g : NWord → Fmt → Nat → Nat → Nat}
    (hexec : ∀ w s, exec (nodeInstr op w) s = fireCalc op (fun x => mapEnc x (out x.ty) (g x.w)) w s) {p : Ty → Prop} {res : Ty → BitVec 4}
    {f : NWord → Ty → Nat → Nat → Nat → Nat} (hres : ∀ ty, p ty → tyCode (out ty) = res ty)
    (hlt : ∀ w ty a b, p ty → a < 2 ^ tyWidth ty → b < 2 ^ tyWidth ty → g w (fmtOf ty) a b < 2 ^ tyWidth ty)
    (hg : ∀ w ty a b c, p ty → a < 2 ^ tyWidth ty → b < 2 ^ tyWidth ty → g w (fmtOf ty) a b = f w ty a b c) : NodeGivesBy op p res f := by
  refine nodeGivesBy_of_elems hexec (fun _ => rfl) (fun x hp => hres x.ty hp) fun x i hp hi => ?_
  rw [mapEnc, mkCalc, elem_packElems_map (tyWidth_pos x.ty) _ i hi (tyWidth_mul_le hi), Nat.mod_eq_of_lt (hlt _ _ _ _ hp (elem_lt ..) (elem_lt ..))]
  exact hg _ _ _ _ _ hp (elem_lt ..) (elem_lt ..)

/-- Settles O13: each node is its exact function of the values, rounded once (`nodeGivesBy_of_mapF`). -/
theorem floatArithmetic : Obligations.FloatArithmetic := by
  unfold Obligations.FloatArithmetic
  exact ⟨nodeGivesBy_of_mapF (g := fun rm a b _ => fsumX rm [a, b]) fun _ _ => rfl,
    nodeGivesBy_of_mapF (g := fun rm a b _ => fsumX rm [a, fneg' b]) fun _ _ => rfl,
    nodeGivesBy_of_mapF (g := fun _ a b _ => fmulX a b) fun _ _ => rfl,
    nodeGivesBy_of_mapF (g := fun rm a b c => fsumX rm [fmulX a b, c]) fun _ _ => rfl,
    nodeGivesBy_of_mapF (g := fun rm a b c => fsumX rm [fmulX a b, fneg' c]) fun _ _ => rfl,
    nodeGivesBy_of_mapF (g := fun rm a b c => fsumX rm [fneg' (fmulX a b), c]) fun _ _ => rfl⟩

/-! ## The sign bit of an encoding (R60, R118) -/

theorem fmtOf_w {ty : Ty} (h : tyFloat ty = true) : (fmtOf ty).w = tyWidth ty := by
  cases ty with
  | f32 | bf16x2 | f16x2 | e4m3x4 | e5m2x4 => rfl
  | _ => cases h

theorem fmtOf_nan_lt {ty : Ty} (h : tyFloat ty = true) : (fmtOf ty).nan < 2 ^ tyWidth ty := by
  cases ty with
  | f32 | bf16x2 | f16x2 | e4m3x4 | e5m2x4 => decide
  | _ => cases h

theorem div_top_eq_zero_or_one {w a : Nat} (hw : 0 < w) (ha : a < 2 ^ w) : a / 2 ^ (w - 1) = 0 ∨ a / 2 ^ (w - 1) = 1 := by
  rw [two_pow_eq_double hw] at ha
  exact Nat.le_one_iff_eq_zero_or_eq_one.mp (Nat.le_of_lt_succ (Nat.div_lt_of_lt_mul (Nat.mul_comm .. ▸ ha)))

section
variable {f : Fmt} {a : Nat}

theorem fMag_lt (f : Fmt) (a : Nat) : fMag f a < 2 ^ (f.w - 1) := Nat.mod_lt _ (by positivity)

theorem fEnc_lt (hw : 0 < f.w) (neg : Bool) : fEnc f neg (fMag f a) < 2 ^ f.w := by
  have := fMag_lt f a
  rw [fEnc, two_pow_eq_double hw]
  cases neg <;> simp only [flag, Bool.false_eq_true, if_false, if_true] <;> omega

/-- The sign bit in its place. -/
theorem flag_fSign (hw : 0 < f.w) (ha : a < 2 ^ f.w) : flag (fSign f a) (f.w - 1) = a / 2 ^ (f.w - 1) * 2 ^ (f.w - 1) := by
  rw [flag, fSign]
  rcases div_top_eq_zero_or_one hw ha with h | h <;> simp [h]

/-- Of an encoding with the other sign bit no other bit changes. -/
theorem fEnc_not_fSign (hw : 0 < f.w) (ha : a < 2 ^ f.w) : fEnc f (!fSign f a) (fMag f a) = a ^^^ 2 ^ (f.w - 1) := by
  have hdiv : (a ^^^ 2 ^ (f.w - 1)) / 2 ^ (f.w - 1) = a / 2 ^ (f.w - 1) ^^^ 1 := by rw [Nat.xor_div_two_pow, Nat.div_self (by positivity)]
  have hmod : (a ^^^ 2 ^ (f.w - 1)) % 2 ^ (f.w - 1) = fMag f a := by rw [Nat.xor_mod_two_pow, Nat.mod_self, Nat.xor_zero, fMag]
  rw [← Nat.div_add_mod (a ^^^ 2 ^ (f.w - 1)) (2 ^ (f.w - 1)), hdiv, hmod, fEnc, fSign, flag]
  rcases div_top_eq_zero_or_one hw ha with h | h <;> simp [h]

end

/-- A node that gives canonical NaN for a NaN, and otherwise an encoding. -/
theorem nodeGivesBy_of_sign {op : NodeOp} {g : Fmt → Nat → Nat → Nat}
    (hexec : ∀ w s, exec (nodeInstr op w) s = fireCalc op (fun x => mapEnc x x.ty fun f a b => if isNan f a then f.nan else g f a b) w s)
    (hlt : ∀ f a b, 0 < f.w → g f a b < 2 ^ f.w) {h : Nat → Nat → Nat → Nat} (hg : ∀ f a b, 0 < f.w → a < 2 ^ f.w → b < 2 ^ f.w → g f a b = h f.w a b) :
    NodeGivesBy op (fun ty => tyFloat ty = true) tyCode fun _ ty a b _ => if isNan (fmtOf ty) a then (fmtOf ty).nan else h (tyWidth ty) a b := by
  refine nodeGivesBy_of_mapEnc (out := id) (g := fun _ f a b => if isNan f a then f.nan else g f a b) hexec (fun _ _ => rfl)
    (fun _ ty a b hp _ _ => ?_) fun _ ty a b _ hp ha hb => ?_
  all_goals have hw : 0 < (fmtOf ty).w := (fmtOf_w hp).symm ▸ tyWidth_pos ty
  · split
    · exact fmtOf_nan_lt hp
    · exact fmtOf_w hp ▸ hlt _ a b hw
  · rw [← fmtOf_w hp] at ha hb ⊢
    rw [hg _ a b hw ha hb]

/-! ## Order and class of an F32 (R119, R120) -/

theorem isNan_f32 (a : Nat) : isNan fmtF32 a = decide (0x7F800000 < a % 2 ^ 31) := rfl

theorem fSign_f32 {a : Nat} (ha : a < 2 ^ 32) : fSign fmtF32 a = decide (2 ^ 31 ≤ a) := by
  rw [fSign, show fmtF32.w - 1 = 31 from rfl]
  exact decide_eq_decide.mpr (by omega)

theorem fkey_f32 {a : Nat} (ha : a < 2 ^ 32) : fkey fmtF32 a = if a < 2 ^ 31 then (a : Int) else -((a % 2 ^ 31 : Nat) : Int) := by
  have hm : fMag fmtF32 a = a % 2 ^ 31 := rfl
  rw [fkey, fSign_f32 ha, hm]
  rcases Nat.lt_or_ge a (2 ^ 31) with h | h
  · rw [if_pos h, decide_eq_false (Nat.not_le.mpr h), Nat.mod_eq_of_lt h]
    rfl
  · rw [if_neg (Nat.not_lt.mpr h), decide_eq_true h]
    rfl

theorem fclass_f32 {a : Nat} (ha : a < 2 ^ 32) : fclass fmtF32 a =
    if 0x7F800000 < a % 2 ^ 31 then 8
    else
      let k := if a % 2 ^ 31 = 0x7F800000 then 3 else if 0x800000 ≤ a % 2 ^ 31 then 2 else if 0 < a % 2 ^ 31 then 1 else 0
      if 2 ^ 31 ≤ a then 3 - k else 4 + k := by
  have hinf : isInf fmtF32 a = decide (a % 2 ^ 31 = 0x7F800000) := rfl
  have hm : fMag fmtF32 a = a % 2 ^ 31 := rfl
  have hexp : a % 2 ^ 31 / 2 ^ 23 = 0 ↔ ¬ 0x800000 ≤ a % 2 ^ 31 := by omega
  rw [fclass, fSign_f32 ha, isNan_f32, hinf, hm, show fmtF32.m = 23 from rfl]
  simp only [decide_eq_true_eq, hexp]
  generalize a % 2 ^ 31 = m
  by_cases hnan : 0x7F800000 < m
  · rw [if_pos hnan, if_pos hnan]
  rw [if_neg hnan, if_neg hnan]
  by_cases hi : m = 0x7F800000
  · simp only [hi, if_true]
  by_cases hz : m = 0
  · simp [hz]
  by_cases hn : 0x800000 ≤ m
  · simp only [hi, hz, hn, not_true_eq_false, if_false, if_true]
  · simp only [hi, hz, hn, Nat.pos_of_ne_zero hz, not_false_eq_true, if_false, if_true]

theorem fclass_le (f : Fmt) (a : Nat) : fclass f a ≤ 8 := by
  unfold fclass
  dsimp only
  split_ifs <;> decide

theorem fcond_condOfCode (f : Fmt) (c : BitVec 3) (a b : Nat) : fcond f (condOfCode c) a b =
    let n := isNan f a || isNan f b
    match c.toNat with
      | 0 => !n && fkey f a = fkey f b | 1 => n || fkey f a ≠ fkey f b | 2 => !n && fkey f a < fkey f b | 3 => !n && fkey f a ≤ fkey f b
      | 4 => n || fkey f a < fkey f b | 5 => n || fkey f a ≤ fkey f b | 6 => !n && fkey f b < fkey f a | _ => !n && fkey f b ≤ fkey f a := by
  rw [condOfCode]
  generalize c.toNat = k
  match k with
  | 0 | 1 | 2 | 3 | 4 | 5 | 6 => rfl
  | k + 7 => rfl

/-- Settles O14: FABS, FNEG and FCPS by what they make of the sign bit (`fEnc_not_fSign`, `flag_fSign`), FCMP and FCLS by the order and the class of an
F32 in numbers. -/
theorem floatSignsComparesAndClasses : Obligations.FloatSignsComparesAndClasses := by
  unfold Obligations.FloatSignsComparesAndClasses
  refine ⟨?fabs, ?fneg, ?fcps, ?fcmp, ?fcls⟩
  case fabs =>
    exact nodeGivesBy_of_sign (g := fun f a _ => fMag f a) (h := fun w a _ => a % 2 ^ (w - 1)) (fun _ _ => rfl)
      (fun f a _ _ => lt_of_lt_of_le (fMag_lt f a) (Nat.pow_le_pow_right two_pos (Nat.sub_le ..))) fun _ _ _ _ _ _ => rfl
  case fneg =>
    exact nodeGivesBy_of_sign (g := fun f a _ => fEnc f (!fSign f a) (fMag f a)) (h := fun w a _ => a ^^^ 2 ^ (w - 1)) (fun _ _ => rfl)
      (fun _ _ _ hw => fEnc_lt hw _) fun _ _ _ hw ha _ => fEnc_not_fSign hw ha
  case fcps =>
    refine nodeGivesBy_of_sign (g := fun f a b => fEnc f (fSign f b) (fMag f a)) (h := fun w a b => a % 2 ^ (w - 1) + b / 2 ^ (w - 1) * 2 ^ (w - 1))
      (fun _ _ => rfl) (fun _ _ _ hw => fEnc_lt hw _) fun f a b hw _ hb => ?_
    rw [fEnc, flag_fSign hw hb, Nat.add_comm, fMag]
  case fcmp =>
    refine nodeGivesBy_of_mapEnc (out := fun _ => .b32) (g := fun w f a b => if fcond f (condOfCode (w.aux.extractLsb' 0 3)) a b then 2 ^ f.w - 1 else 0)
      (fun _ _ => rfl) (fun _ _ => rfl) ?_ ?_
    · rintro w _ a b rfl - -
      split <;> decide
    · rintro w _ a b _ rfl ha hb
      dsimp only
      rw [show fmtOf .f32 = fmtF32 from rfl, fcond_condOfCode, fkey_f32 ha, fkey_f32 hb, isNan_f32, isNan_f32]
      rfl
  case fcls =>
    refine nodeGivesBy_of_mapEnc (out := fun ty => match tyWidth ty with | 32 => .n32 | 16 => .n16x2 | _ => .n8x4) (g := fun _ f a _ => fclass f a)
      (fun _ _ => rfl) ?_ ?_ ?_
    · rintro _ rfl
      rfl
    · rintro _ _ a _ rfl - -
      exact lt_of_le_of_lt (fclass_le _ a) (by decide)
    · rintro _ _ a b _ rfl ha _
      exact (fclass_f32 ha).trans (by simp only [decide_eq_true_eq])

end Sys2Proof.Machine
end

section
/-! PROOFS. Event queues and waits (R134, R271, R273 to R275, R359): a raised record's way into its queue, the report of losses, EVPOP, EVWAIT and WFE, and
what ends a wait. -/
namespace Sys2Proof.Machine
open Sys2Proof

/-! ## Records and losses (R134, R273, R359) -/

/-- A step that gives a core a state of its own, and no other part of the machine anything. -/
theorem completes_of_setCl {i : Instr} {s : State} {c : ClusterId} {y : Cluster} (h : exec i s = .next (setCl s c y)) :
    Completes i s fun t => OnlyCore s t c ∧ getCl t c = y := ⟨_, h, setCl_onlyCore .., getCl_setCl ..⟩

theorem loseRec_nil (ctx : BitVec 12) (n : Nat) (mask : Word) : loseRec [] ctx n mask = [(ctx, n, mask)] := by simp [loseRec]

/-- A cluster whose raised record `k` has entered the queue, or been lost as the first since the last report. -/
def recorded (x : Cluster) (k : Nat) (r : Rec) : Cluster :=
  let y := { x with pend := x.pend.take k ++ x.pend.drop (k + 1) }
  if x.eq.length < eqLimit r.kind then acceptRec y r else { y with losses := [(r.ctx, 1, word (2 ^ r.kind))] }

theorem execRecord_records {s : State} {c : ClusterId} {k : Nat} {r : Rec} (hh : s.here = .arrival c k) (hp : (getCl s c).pend[k]? = some r)
    (hord : ∀ q ∈ (getCl s c).pend.take k, keepOrder q r = false) (hf : r.firing = 0) (hl : (getCl s c).losses = [])
    (hheld : reportHeld s c.die r = false) : execRecord s = .next (setCl s c (recorded (getCl s c) k r)) := by
  have hany : ((getCl s c).pend.take k).any (keepOrder · r) = false := List.any_eq_false.mpr fun q hq => by simp [hord q hq]
  simp only [execRecord, hh, hp, hf, hany, hl, hheld, loseRec_nil, recorded, ne_eq, not_true_eq_false, false_and, Bool.false_eq_true, or_self, if_false]
  split <;> rfl

theorem execEqlost_reports {s : State} {c : ClusterId} {ctx : BitVec 12} {n : Nat} {m : Word} {rest : List (BitVec 12 × Nat × Word)}
    (hh : s.here = .core c) (hl : (getCl s c).losses = (ctx, n, m) :: rest) (hroom : (getCl s c).eq.length < 1024) :
    execEqlost s = .next (setCl s c (acceptRec { getCl s c with losses := rest } { kind := 0x3F, ctx := ctx, p0 := word n, p1 := m })) := by
  simp only [execEqlost, hh, hl, Nat.not_le.mpr hroom, if_false]

/-! ## EVPOP (R274) -/

/-- The record that EVPOP takes is the first that the core may see, and so the first of its value. -/
theorem popRec_eq_erase {x : Cluster} {l : List Rec} {r : Rec} (h : l.find? (seesRec x) = some r) : popRec x l = l.erase r := by
  induction l with
  | nil => cases h
  | cons q l ih =>
    by_cases hq : seesRec x q = true
    · rw [List.find?_cons_of_pos hq] at h
      cases h
      rw [popRec, if_pos hq, List.erase_cons_head]
    · rw [List.find?_cons_of_neg hq] at h
      have hne : q ≠ r := fun e => hq (e ▸ List.find?_some h)
      rw [popRec, if_neg hq, ih h, List.erase_cons_tail (by simpa using hne)]

theorem recBytes_length (r : Rec) : (recBytes r).length = 32 := by simp [recBytes]

theorem setX_eq (x : Cluster) (r : Fin 32) (v : Word) : (setX x r v).eq = x.eq := by unfold setX; split <;> rfl

/-- A core's record copied to an address of its local memory and taken out of its queue. -/
def popInto (s : State) (c : ClusterId) (a : Word) (r : Rec) : State :=
  updCl (coreStore s c a .loc (recBytes r)) c fun y => { y with eq := popRec (getCl s c) y.eq }

section
variable (s : State) (c : ClusterId) (a : Word) (r : Rec) (rd : Fin 32) (v pc : Word)

theorem popInto_onlyCore : OnlyCore s (popInto s c a r) c := (coreStore_onlyCore_loc ..).trans (updCl_onlyCore ..)

theorem getCl_popInto : getCl (popInto s c a r) c =
    { getCl s c with loc := writeBytes (getCl s c).loc a.toNat (recBytes r), eq := popRec (getCl s c) (getCl s c).eq } := by
  simp [popInto, coreStore]

theorem giveX_popInto_eq : (getCl (giveX (popInto s c a r) c rd v pc) c).eq = popRec (getCl s c) (getCl s c).eq := by
  rw [getCl_giveX, getCl_popInto]
  exact setX_eq ..

theorem giveX_popInto_regs : SameRegsBut s (giveX (popInto s c a r) c rd v pc) c rd := fun q hq => by
  rw [giveX_regs _ c rd v pc q hq, getCl_popInto]
  rfl

/-- The 32 bytes at the address are the record's, the others as before (R271, R274). -/
theorem giveX_popInto_loc (b : Nat) : aget memDefault (getCl (giveX (popInto s c a r) c rd v pc) c).loc b =
    if a.toNat ≤ b ∧ b < a.toNat + 32 then (recBytes r).getD (b - a.toNat) 0 else aget memDefault (getCl s c).loc b := by
  have hloc : (getCl (giveX (popInto s c a r) c rd v pc) c).loc = writeBytes (getCl s c).loc a.toNat (recBytes r) := by
    rw [getCl_giveX, getCl_popInto]
    exact setX_loc ..
  rw [hloc, aget_writeBytes, recBytes_length]

end

/-- A core that begins to wait; its pc stays. -/
def beginWait (s : State) (c : ClusterId) (r : CoreRun) : State := setPc (updCl s c fun x => { x with run := r }) c (getCl s c).pc

theorem beginWait_onlyCore (s : State) (c : ClusterId) (r : CoreRun) : OnlyCore s (beginWait s c r) c := (updCl_onlyCore ..).trans (updCl_onlyCore ..)

theorem getCl_beginWait (s : State) (c : ClusterId) (r : CoreRun) : getCl (beginWait s c r) c = { getCl s c with run := r } := by simp [beginWait, setPc]

section
variable {w : CWord} {s : State} {c : ClusterId} (h : CoreTurn s c w)
include h

theorem execEvpop_none (ha : (coreAddr (getCl s c) w).toNat % 32 = 0) (hn : (getCl s c).eq.find? (seesRec (getCl s c)) = none) :
    execEvpop w s = .next (giveX s c w.xd 0 ((getCl s c).pc + coreSize w.long)) := by
  rw [execEvpop, atCore_turn h]
  simp only [ha, ne_eq, not_true_eq_false, if_false, hn]
  rfl

theorem execEvpop_local {r : Rec} (ha : (coreAddr (getCl s c) w).toNat % 32 = 0) (hr : (getCl s c).eq.find? (seesRec (getCl s c)) = some r)
    (hlow : (coreAddr (getCl s c) w).toNat < 0x40000) (hl : locTrap (getCl s c) (coreAddr (getCl s c) w) 32 = none) :
    execEvpop w s = .next (giveX (popInto s c (coreAddr (getCl s c) w) r) c w.xd (word r.kind) ((getCl s c).pc + coreSize w.long)) := by
  have hw : coreWhere s c (getCl s c) (coreAddr (getCl s c) w) 32 .w = .loc := by simp only [coreWhere, localEnd, hlow, hl, if_true]
  rw [execEvpop, atCore_turn h]
  simp only [ha, ne_eq, not_true_eq_false, if_false, hr, hw, decide_false, Bool.false_and, Bool.false_eq_true]
  rfl

/-! ## EVWAIT and WFE (R274, R275) -/

theorem execEvwait_count (hn : 0 < ((getCl s c).eq.filter (seesRec (getCl s c))).length) :
    execEvwait w s = .next (giveX s c w.xd (word (Min.min 1024 ((getCl s c).eq.filter (seesRec (getCl s c))).length))
      ((getCl s c).pc + coreSize w.long)) := by
  rw [execEvwait, atCore_turn h]
  simp only [seenCount, hn.ne', ne_eq, not_false_eq_true, if_true]
  rfl

theorem execEvwait_waits (hn : (getCl s c).eq.filter (seesRec (getCl s c)) = []) :
    execEvwait w s = .next (beginWait s c (.evwait s.clock w.imm.toNat w.xd ((getCl s c).pc + coreSize w.long))) := by
  rw [execEvwait, atCore_turn h]
  simp only [seenCount, hn, List.length_nil, ne_eq, not_true_eq_false, if_false]
  rfl

theorem execWfe_event (he : (getCl s c).ef = true) :
    execWfe w s = .next (giveX (updCl s c fun x => { x with ef := false }) c w.xd 1 ((getCl s c).pc + coreSize w.long)) := by
  rw [execWfe, atCore_turn h]
  simp only [he, if_true]
  rfl

theorem execWfe_waits (he : (getCl s c).ef = false) :
    execWfe w s = .next (beginWait s c (.wfe s.clock w.imm.toNat w.xd ((getCl s c).pc + coreSize w.long))) := by
  rw [execWfe, atCore_turn h]
  simp only [he, Bool.false_eq_true, if_false]
  rfl

end

/-! ## What ends a wait (R274, R275) -/

section
variable {s : State} {c : ClusterId} (hh : s.here = .core c) {since limit : Nat} {xd : Fin 32} {dst : Word}
include hh

theorem execEventWake_wfe (hr : (getCl s c).run = .wfe since limit xd dst) (he : (getCl s c).ef = true) :
    execEventWake s = .next (setCl s c (setX { getCl s c with ef := false, run := .running, pc := dst } xd 1)) := by
  simp only [execEventWake, hh, hr, he, if_true]

theorem execEventWake_evwait (hr : (getCl s c).run = .evwait since limit xd dst) (hn : 0 < seenCount (getCl s c)) :
    execEventWake s = .next (setCl s c (setX { getCl s c with run := .running, pc := dst } xd (word (Min.min 1024 (seenCount (getCl s c)))))) := by
  simp only [execEventWake, hh, hr, hn.ne', ne_eq, not_false_eq_true, if_true]

theorem execWaitTimeout_over (ho : waitOver s (getCl s c) = some (xd, dst)) :
    execWaitTimeout s = .next (setCl s c (setX { getCl s c with run := .running, pc := dst } xd 0)) := by
  simp only [execWaitTimeout, hh, ho]

end

theorem waitOver_wfe {s : State} {x : Cluster} {since limit : Nat} {xd : Fin 32} {dst : Word} (hr : x.run = .wfe since limit xd dst) (hl : limit ≠ 0)
    (ht : since + limit ≤ s.clock) (he : x.ef = false) : waitOver s x = some (xd, dst) := by
  simp [waitOver, hr, hl, ht, he]

theorem waitOver_evwait {s : State} {x : Cluster} {since limit : Nat} {xd : Fin 32} {dst : Word} (hr : x.run = .evwait since limit xd dst)
    (hl : limit ≠ 0) (ht : since + limit ≤ s.clock) (he : x.eq.filter (seesRec x) = []) : waitOver s x = some (xd, dst) := by
  simp [waitOver, hr, hl, ht, seenCount, he]

/-- Settles O41: RECORD, EQLOST and the ends of a wait give the core a state of its own (`completes_of_setCl`); EVPOP, EVWAIT and WFE write their register
(`giveX`), after EVPOP's copy of the record (`popInto`), or let the core wait (`beginWait`). -/
theorem eventsAndWaits : Obligations.EventsAndWaits := by
  intro w c s x after
  refine ⟨fun k r hh hp hord hf hl hheld => ?record, fun ctx n m rest hh hl hroom => ?eqlost, fun h ha => ⟨fun hn => ?popNone, fun r hr hlow hl => ?popSome⟩,
    fun h => ⟨?evwait, ?wfe⟩, fun hh since limit xd dst => ⟨fun hr he => ?wakeWfe, fun hr hn => ?wakeEvwait, fun hr hl ht he => ?overWfe,
      fun hr hl ht hn => ?overEvwait⟩⟩
  case record =>
    obtain ⟨t, ht, hf, hx⟩ := completes_of_setCl (i := .record) (execRecord_records hh hp hord hf hl hheld)
    refine ⟨t, ht, hf, ?_⟩
    rw [hx]
    show if x.eq.length < eqLimit r.kind then recorded x k r = _ else recorded x k r = _
    split
    next hroom => exact if_pos hroom
    next hroom => exact if_neg hroom
  case eqlost => exact completes_of_setCl (i := .eqlost) (execEqlost_reports hh hl hroom)
  case popNone =>
    refine ⟨_, execEvpop_none h ha hn, giveX_coreFrame .., giveX_pc .., ?_⟩
    by_cases h0 : w.xd = 0
    · rw [h0]
      rfl
    · exact giveX_getX _ _ _ _ _ h0
  case popSome =>
    refine ⟨_, execEvpop_local h ha hr hlow hl, (popInto_onlyCore ..).trans (giveX_onlyCore ..), giveX_pc .., ?_, giveX_getX _ _ _ _ _,
      giveX_popInto_regs s c _ r w.xd _ _, giveX_popInto_loc s c _ r w.xd _ _⟩
    rw [giveX_popInto_eq, popRec_eq_erase hr]
  case evwait =>
    split
    next hn => exact ⟨_, execEvwait_count h hn, giveX_coreFrame .., giveX_pc .., giveX_getX _ _ _ _ _⟩
    next hn => exact ⟨_, execEvwait_waits h (List.length_eq_zero_iff.mp (Nat.eq_zero_of_not_pos hn)), beginWait_onlyCore .., getCl_beginWait ..⟩
  case wfe =>
    split
    next he =>
      refine ⟨_, execWfe_event h he, (updCl_onlyCore ..).trans (giveX_onlyCore ..), ?_⟩
      rw [getCl_giveX, getCl_updCl]
      rfl
    next he => exact ⟨_, execWfe_waits h (Bool.eq_false_iff.mpr he), beginWait_onlyCore .., getCl_beginWait ..⟩
  case wakeWfe => exact completes_of_setCl (i := .eventWake) (execEventWake_wfe hh hr he)
  case wakeEvwait => exact completes_of_setCl (i := .eventWake) (execEventWake_evwait hh hr hn)
  case overWfe => exact completes_of_setCl (i := .waitTimeout) (execWaitTimeout_over hh (waitOver_wfe hr hl ht he))
  case overEvwait => exact completes_of_setCl (i := .waitTimeout) (execWaitTimeout_over hh (waitOver_evwait hr hl ht hn))

end Sys2Proof.Machine
end

section
/-! PROOFS. The header nodes (R165, R166): WGET, WSET, WMUL, GAPT, KEYG, HDRG and HDRS are each one calculating firing of a type that its row fixes. -/
namespace Sys2Proof.Machine
open Sys2Proof

/-! ## A calculating firing at its turn -/

/-- A node whose row lists no PKT fires with its own type, which is legal (R38). -/
theorem pktOk_of_turn {op : NodeOp} {w : NWord} {sl : SlotId} {s : State} (h : AtTurn s sl (nodeInstr op w)) (hp : (nodeRule op).tys.contains .pkt = false) :
    (fireOf s sl (.node op w)).pktOk = true := by
  have hne : w.ty ≠ .pkt := fun e => by
    have hty := nodeCheck_ty (nodeCheck_of_turn h)
    rw [e, hp] at hty
    cases hty
  simp [fireOf, hne]

/-- A node whose meaning is a calculating firing, at its turn with a legal type: its slot has issued, its tile alone has changed, and its latch holds the
common result with the node's header. -/
theorem fireState_completes {op : NodeOp} {w : NWord} {sl : SlotId} {s : State} {g : Fire → Calc} {fix : Fire → Calc → VTok → VTok}
    (h : AtTurn s sl (nodeInstr op w)) (hexec : exec (nodeInstr op w) s = atSlot (nodeInstr op w) s (fireState (.node op w) w g fix))
    (hk : (fireOf s sl (.node op w)).pktOk = true) :
    let f := fireOf s sl (.node op w)
    Completes (nodeInstr op w) s fun t => latchOf t sl = fix f (g f) (resultTok f w (g f)) ∧ Issued s t sl ∧ TileFrame s t sl.tile := by
  obtain ⟨k, hs⟩ := slotAt_fireState (.node op w) w g fix sl s hk
  exact ⟨_, hexec.trans (atSlot_turn h _), congrArg Slot.latch hs, issued_fires _ _ _ _ _ _ hs ⟨rfl, rfl⟩, fireState_frame ..⟩

/-! ## Lanes of a result -/

theorem lane_zeroInvalid_eq (v : BitVec 16) (p : Payload) {l : Nat} (hl : l < 16) : lane (zeroInvalid v p) l = if v.getLsbD l then lane p l else 0 := by
  cases hv : v.getLsbD l with
  | true => exact lane_zeroInvalid_valid hl hv p
  | false => exact lane_zeroInvalid hl hv p

/-- A valid lane of a value in every lane is the value. -/
theorem lane_splat (v : BitVec 16) (n : Nat) {l : Nat} (hl : l < 16) (hv : v.getLsbD l = true) : lane (zeroInvalid v (splat 32 n)) l = BitVec.ofNat 32 n := by
  rw [splat, lane_packElems v _ hl hv, List.getD_replicate _ hl]

/-- Values in lanes 0 to 3. -/
theorem lane_packElems_four (ns : List Nat) {l : Nat} (hl : l < 4) : lane (zeroInvalid 0x000F (packElems 32 ns)) l = BitVec.ofNat 32 (ns.getD l 0) :=
  lane_packElems 0x000F ns (by omega) (by interval_cases l <;> rfl)

theorem ofNat_mod_four (x : BitVec 4) : BitVec.ofNat 32 (x.toNat % 4) = (x.extractLsb' 0 2).setWidth 32 := by
  apply BitVec.eq_of_toNat_eq
  simp

/-- A 64-bit value in lanes 0 and 1. -/
theorem lowPair_setWidth (h : Word) : lowPair (zeroInvalid 3 (h.setWidth 512)) = h := by
  apply BitVec.eq_of_getLsbD_eq
  intro i hi
  have hv : (3 : BitVec 16).getLsbD (i / 32) = true := by
    have hd : i / 32 < 2 := by omega
    interval_cases i / 32 <;> rfl
  rw [lowPair, BitVec.getLsbD_extractLsb', Nat.zero_add, getLsbD_zeroInvalid _ _ _ (by omega), hv, BitVec.getLsbD_setWidth]
  simp [hi, show i < 512 by omega]

/-! ## The header that WSET, WMUL and HDRS give -/

/-- Under another weight the result is A's record: its KEY, its FMT and its lanes where VM makes them valid (R165). -/
theorem reweigh_copies (f : Fire) (k : Weight → Weight) (w : NWord) :
    let r := reweigh f k (resultTok f w { pay := f.a.pay, fmt := f.a.fmt })
    r.key = f.a.key ∧ r.fmt = f.a.fmt ∧ r.kind = kData ∧ r.thr = f.thr ∧ r.valid = vmValid w.vm f.ty f.k7 f.a f.b f.c ∧
      ∀ l, l < 16 → lane r.pay l = if r.valid.getLsbD l then lane f.a.pay l else 0 :=
  ⟨rfl, rfl, rfl, rfl, rfl, fun _ hl => lane_zeroInvalid_eq _ _ hl⟩

/-- A node word that the loader passes has no AUX bit outside its row's, and meets its entry's own conditions (R52). -/
theorem nodeCheck_fields {op : NodeOp} {w : NWord} (h : nodeCheck op w = none) : w.aux &&& ~~~(nodeRule op).aux = 0 ∧ nodeExtra op w = true := by
  unfold nodeCheck at h
  dsimp only at h
  split at h
  · cases h
  split at h
  · cases h
  next hn =>
    simp only [Bool.and_eq_true, decide_eq_true_eq] at hn
    obtain ⟨⟨⟨⟨⟨⟨⟨⟨⟨-, haux⟩, -⟩, -⟩, -⟩, -⟩, -⟩, -⟩, -⟩, hextra⟩ := not_not.mp hn
    exact ⟨haux, hextra⟩

/-- HDRS names one of its three fields (R166). -/
theorem hdrs_aux {w : NWord} (h : nodeCheck .hdrs w = none) : w.aux = 0 ∨ w.aux = 1 ∨ w.aux = 2 := by
  obtain ⟨haux, hextra⟩ := nodeCheck_fields h
  have hne : w.aux ≠ 3 := by
    simp only [nodeExtra, Bool.and_eq_true, decide_eq_true_eq] at hextra
    exact hextra.1.1
  have hcases : ∀ x : BitVec 5, x &&& ~~~3 = 0 → x ≠ 3 → x = 0 ∨ x = 1 ∨ x = 2 := by decide
  exact hcases w.aux haux hne

/-- Settles O17: each node is one calculating firing (`fireState_completes`), whose latch holds the common result with the header that its entry sets. -/
theorem headerNodes : Obligations.HeaderNodes := by
  intro w sl s a b gives valid copies
  refine ⟨fun h => ?wget, fun h => ?wset, fun h => ?wmul, fun h => ?gapt, fun h => ?keyg, fun h => ?hdrg, fun h => ?hdrs⟩
  all_goals
    have hk := pktOk_of_turn h (by decide)
    obtain ⟨t, he, hl, hi, hf⟩ := fireState_completes h rfl hk
    refine ⟨t, he, ?_, hi, hf⟩
    rw [hl]
  case wget => exact ⟨rfl, rfl, fun l h16 hv => lane_splat _ _ h16 hv⟩
  case wset => exact ⟨reweigh_copies .., rfl⟩
  case wmul => exact ⟨reweigh_copies .., rfl⟩
  case gapt =>
    refine ⟨rfl, rfl, ?_⟩
    by_cases hg : (fireOf s sl (.node .gapt w)).a.kind = kGap
    · simp only [a, if_pos hg, resultTok]
      exact ⟨lane_packElems_four _ (l := 2) (by decide), lane_packElems_four _ (l := 0) (by decide),
        (lane_packElems_four _ (l := 1) (by decide)).trans (BitVec.ofNat_toNat ..), (lane_packElems_four _ (l := 3) (by decide)).trans (ofNat_mod_four _)⟩
    · simp only [a, if_neg hg, resultTok]
      exact ⟨lane_packElems_four _ (l := 2) (by decide), lane_packElems_four _ (l := 0) (by decide), lane_packElems_four _ (l := 1) (by decide),
        lane_packElems_four _ (l := 3) (by decide)⟩
  case keyg =>
    refine ⟨rfl, rfl, fun l h16 => (lane_splat _ _ h16 ?_).trans (BitVec.ofNat_toNat ..)⟩
    exact (BitVec.getLsbD_allOnes (v := 16)).trans (decide_eq_true h16)
  case hdrg => exact ⟨rfl, rfl, lowPair_setWidth _⟩
  case hdrs =>
    rcases hdrs_aux (nodeCheck_of_turn h) with e | e | e
    all_goals simp only [hdrsTok, e]
    · exact ⟨rfl, rfl, rfl, rfl, fun h2 => absurd h2 (by decide)⟩
    · exact ⟨rfl, rfl, rfl, rfl, fun h2 => absurd h2 (by decide)⟩
    · exact ⟨rfl, rfl, rfl, rfl, fun _ => rfl⟩

end Sys2Proof.Machine
end

section
/-! PROOFS. AGG (R69, R169): a window whose sum overflows under OV TRAP. -/
namespace Sys2Proof.Machine
open Sys2Proof

/-- AGG of F32 records at I0, their SUM to O0, under OV TRAP. -/
def aggTrapWord : NWord := { nullN with ty := .f32, sa := .queue 0, out := 1, ov := .trap }

/-- A record of weight 1.0 with the largest finite F32 in lane 0. -/
def largestRecord : VTok := { valid := 1, wt := wOne, key := 0, kind := kData, fmt := 6, thr := 0, pay := 0x7F7FFFFF }

/-- The slot in which the AGG stands. -/
abbrev homeSlot : SlotId := ⟨homeTile, 0⟩

/-- A compute tile of a running launch at the turn of its AGG, which keeps two largest records and has the window's WEND at its head. -/
def aggOverflowState : State :=
  updTile (setLaunch { State.reset with here := .slot homeSlot } homeLaunch homeRegion) homeTile fun _ =>
    { owner := some homeLaunch.handle, active := some 0, cfg := aput 0 (putFields [] 0 (wordN .agg aggTrapWord)) (64 + 16) 1,
      slots := [(0, { since := some 0, node := .agg [largestRecord, largestRecord] 0 })], queues := [(0, headQ (.vec (wendTok 0 0 0)))] }

/-- The serials of the ARITH records on which the firings of the slot's pipeline wait after a step, 0 for none (R136). -/
def serialsAfter : Host.Outcome State Fault Refusal → List Nat
  | .next t => (pipeOf t homeSlot).map (·.arith)
  | _ => []

theorem serialsAfter_aggOverflow : serialsAfter (exec (.agg aggTrapWord) aggOverflowState) = [1, 0] := by decide +kernel

theorem aggOverflow_atTurn : AtTurn aggOverflowState homeSlot (.agg aggTrapWord) := ⟨rfl, by decide +kernel⟩

/-- Refutes O18: where an AGG window's sum overflows under OV TRAP, the firing that carries its result is tied to the ARITH record that R69 asks for
(`pushArith`), and so is not the untied one that the statement puts in the pipeline. The statement's clause on JOIN's emissions leaves out the mask of a match in
the same way. -/
theorem not_windowNodes : ¬ Obligations.WindowNodes := by
  unfold Obligations.WindowNodes
  intro h
  obtain ⟨-, hagg, -⟩ := h aggTrapWord homeSlot aggOverflowState
  obtain ⟨t, hexec, -, -, hend⟩ := hagg aggOverflow_atTurn (by decide)
  have hwend : (fireOf aggOverflowState homeSlot (.node .agg aggTrapWord)).a.kind = kWend := by decide +kernel
  rw [if_pos hwend] at hend
  obtain ⟨-, hpipe⟩ := hend
  have hempty : pipeOf aggOverflowState homeSlot = [] := rfl
  have hclaim : serialsAfter (exec (.agg aggTrapWord) aggOverflowState) = [0, 0] := by
    rw [hexec, serialsAfter, hpipe, hempty]
    rfl
  exact absurd (serialsAfter_aggOverflow.symm.trans hclaim) (by decide)

end Sys2Proof.Machine
end

section
/-! PROOFS. The router operators (R158 to R162): what each step function gives by the heads of its queues, and what the operator's turn makes of it. -/
namespace Sys2Proof.Machine
open Sys2Proof

/-! ## STEER (R159) -/

section
variable {now : Nat} {y : Op} {r : VTok} {c : Option Bool}

theorem stepSteer_noA (ha : headV y.ina = none) : stepSteer now y = none := by simp [stepSteer, ha]

theorem stepSteer_other (ha : headV y.ina = some r) (hr : countsAsData r = false) :
    stepSteer now y = some { y with ina := popO now y.ina, outT := some r, outF := some r } := by simp [stepSteer, ha, hr]

/-- A record waits for CIN and goes to the output that it selects. -/
theorem stepSteer_record (ha : headV y.ina = some r) (hr : countsAsData r = true) (hc : headC y.cin = c) :
    stepSteer now y = c.map fun b =>
      if b then { y with ina := popO now y.ina, cin := popO now y.cin, outT := some r }
      else { y with ina := popO now y.ina, cin := popO now y.cin, outF := some r } := by
  simp only [stepSteer, ha, hr, hc, if_true]
  rcases c with _ | _ | _ <;> rfl

/-! ## CARRY (R161) -/

section
variable (hl : y.loop = false)
include hl

theorem stepCarry_init_noA (ha : headV y.ina = none) : stepCarry now y = none := by simp [stepCarry, hl, ha]

theorem stepCarry_init (ha : headV y.ina = some r) :
    stepCarry now y = some { y with ina := popO now y.ina, outT := some r, loop := countsAsData r } := by simp [stepCarry, hl, ha]

end

section
variable (hl : y.loop = true)
include hl

theorem stepCarry_other (hb : headV y.inb = some r) (hr : countsAsData r = false) :
    stepCarry now y = some { y with inb := popO now y.inb, outT := some r } := by simp [stepCarry, hl, hb, hr]

theorem stepCarry_again (hb : headV y.inb = some r) (hr : countsAsData r = true) (hc : headC y.cin = some true) :
    stepCarry now y = some { y with inb := popO now y.inb, cin := popO now y.cin, outT := some r } := by simp [stepCarry, hl, hb, hr, hc]

/-- A 0 ends the loop, with a record at INB or without one. -/
theorem stepCarry_ends (hc : headC y.cin = some false) (hb : ∀ r, headV y.inb = some r → countsAsData r = true) :
    stepCarry now y = some { y with cin := popO now y.cin, loop := false } := by
  cases h : headV y.inb with
  | none => simp [stepCarry, hl, h, hc]
  | some r => simp [stepCarry, hl, h, hc, hb r h]

theorem stepCarry_noB (hb : headV y.inb = none) (hc : headC y.cin ≠ some false) : stepCarry now y = none := by
  rcases h : headC y.cin with _ | _ | _
  · simp [stepCarry, hl, hb, h]
  · exact absurd h hc
  · simp [stepCarry, hl, hb, h]

end

/-! ## INV (R162) -/

theorem stepInv_free_noA (hv : y.held = none) (ha : headV y.ina = none) : stepInv now y = none := by simp [stepInv, hv, ha]

theorem stepInv_takes (hv : y.held = none) (ha : headV y.ina = some r) :
    stepInv now y = some { y with ina := popO now y.ina, outT := some r, held := if countsAsData r then some r else none } := by
  simp [stepInv, hv, ha]

/-- A held record waits for CIN: a 1 sends it again, a 0 drops it. -/
theorem stepInv_holds (hv : y.held = some r) (hc : headC y.cin = c) :
    stepInv now y = c.map fun b =>
      if b then { y with cin := popO now y.cin, outT := some r } else { y with cin := popO now y.cin, held := none } := by
  simp only [stepInv, hv, hc]
  rcases c with _ | _ | _ <;> rfl

/-! ## MERGE (R160) -/

/-- The heads of INA and INB are tokens that are not records, with equal headers. -/
def PairedHeads (y : Op) : Prop :=
  ∃ p q, headV y.ina = some p ∧ headV y.inb = some q ∧ countsAsData p = false ∧ countsAsData q = false ∧ headerWord p = headerWord q

theorem pairedFence_of_paired (ha : headV y.ina = some r) (h : PairedHeads y) : pairedFence y = some r := by
  obtain ⟨p, q, hp, hq, hdp, hdq, he⟩ := h
  obtain rfl := Option.some.inj (ha.symm.trans hp)
  simp [pairedFence, ha, hq, hdp, hdq, he]

theorem pairedFence_of_not_paired (h : ¬ PairedHeads y) : pairedFence y = none := by
  unfold pairedFence
  split
  next a b ha hb =>
    refine if_neg fun hc => h ⟨a, b, ha, hb, ?_⟩
    simpa [and_assoc] using hc
  · rfl

theorem stepMerge_paired (ha : headV y.ina = some r) (h : PairedHeads y) :
    stepMerge now y = some { y with ina := popO now y.ina, inb := popO now y.inb, outT := some r } := by
  simp [stepMerge, pairedFence_of_paired ha h]

/-- The side of MERGE that CIN selects: it spends one of the records that it owes; owing none, it passes a record, or a gap marker, of whose count it owes
all but one, and without either it waits. `spend` and `pass` are the operator after that, by what the side then owes. -/
def mergeSide (head : Option VTok) (owed : Nat) (spend : Nat → Op) (pass : VTok → Nat → Op) : Option Op :=
  if 0 < owed then some (spend (owed - 1))
  else head.bind fun r => if countsAsData r then some (pass r owed) else if r.kind = kGap then some (pass r (r.key.toNat - 1)) else none

theorem stepMerge_noCtl (hn : ¬ PairedHeads y) (hc : headC y.cin = none) : stepMerge now y = none := by
  simp [stepMerge, pairedFence_of_not_paired hn, hc]

theorem stepMerge_sideA (hn : ¬ PairedHeads y) (hc : headC y.cin = some true) :
    stepMerge now y = mergeSide (headV y.ina) y.owedA (fun n => { y with cin := popO now y.cin, owedA := n })
      fun r n => { y with ina := popO now y.ina, cin := popO now y.cin, outT := some r, owedA := n } := by
  simp only [stepMerge, pairedFence_of_not_paired hn, hc, mergeSide]
  cases headV y.ina <;> rfl

theorem stepMerge_sideB (hn : ¬ PairedHeads y) (hc : headC y.cin = some false) :
    stepMerge now y = mergeSide (headV y.inb) y.owedB (fun n => { y with cin := popO now y.cin, owedB := n })
      fun r n => { y with inb := popO now y.inb, cin := popO now y.cin, outT := some r, owedB := n } := by
  simp only [stepMerge, pairedFence_of_not_paired hn, hc, mergeSide]
  cases headV y.inb <;> rfl

section
variable {head : Option VTok} {owed : Nat} {spend : Nat → Op} {pass : VTok → Nat → Op}

theorem mergeSide_owing (ho : 0 < owed) : mergeSide head owed spend pass = some (spend (owed - 1)) := if_pos ho

variable (ho : owed = 0)
include ho

theorem mergeSide_empty (hh : head = none) : mergeSide head owed spend pass = none := by simp [mergeSide, ho, hh]

theorem mergeSide_record (hh : head = some r) (hr : countsAsData r = true) : mergeSide head owed spend pass = some (pass r owed) := by
  simp [mergeSide, ho, hh, hr]

theorem mergeSide_gap (hh : head = some r) (hr : countsAsData r = false) (hk : r.kind = kGap) :
    mergeSide head owed spend pass = some (pass r (r.key.toNat - 1)) := by simp [mergeSide, ho, hh, hr, hk]

theorem mergeSide_other (hh : head = some r) (hr : countsAsData r = false) (hk : r.kind ≠ kGap) : mergeSide head owed spend pass = none := by
  simp [mergeSide, ho, hh, hr, hk]

end

end

/-! ## The turn of an operator (R142, R145, R158) -/

theorem getOp_setOp_same (x : Tile) (g : Fin 2) (z : Op) : getOp (setOp x g z) g = z := by
  match g with
  | 0 | 1 => rfl

theorem getOp_setOp_other (x : Tile) (g : Fin 2) (z : Op) : getOp (setOp x g z) (1 - g) = getOp x (1 - g) := by
  match g with
  | 0 | 1 => rfl

theorem setOp_queues (x : Tile) (g : Fin 2) (z : Op) : (setOp x g z).queues = x.queues := by
  match g with
  | 0 | 1 => rfl

theorem setOp_links (x : Tile) (g : Fin 2) (z : Op) : (setOp x g z).links = x.links := by
  match g with
  | 0 | 1 => rfl

/-- Nothing keeps an operator from stepping: no token waits at its outputs, it has not stepped in the cycle, its tile is not halted, and no queue of it
has handled an arrival in the cycle. -/
def OpFree (s : State) (u : TileId) (g : Fin 2) : Prop :=
  let x := getTile s u
  let y := getOp x g
  y.outT = none ∧ y.outF = none ∧ afind x.used (opUsed g) ≠ some s.clock ∧ tileHalted s u x = false ∧
    ∀ k < 3, arrived s x (8 + k + 3 * g.val) = false

/-- An operator's instruction completes, changing its tile alone, and there the operator and not its neighbour, the queues or the links. -/
def OpBecomes (u : TileId) (g : Fin 2) (s : State) (i : Instr) (z : Op) : Prop :=
  Completes i s fun t => TileFrame s t u ∧ t.launches = s.launches ∧ getOp (getTile t u) g = z ∧
    getOp (getTile t u) (1 - g) = getOp (getTile s u) (1 - g) ∧ (getTile t u).queues = (getTile s u).queues ∧ (getTile t u).links = (getTile s u).links

theorem exec_of_opInstr {x : Tile} {g : Fin 2} {i : Instr} (h : opInstr x g = some i) (s : State) : exec i s = atRouter i s := by
  cases opInstr_held (t := homeTile) h <;> rfl

section
variable {s : State} {u : TileId} {g : Fin 2} {i : Instr}

theorem opNext_of_free (hf : OpFree s u g) (hi : opInstr (getTile s u) g = some i) :
    opNext s u g = opStepOf s.clock (getOp (getTile s u) g) i := by
  obtain ⟨hT, hF, hused, hhalt, harr⟩ := hf
  have h0 := harr 0 (by decide)
  have h1 := harr 1 (by decide)
  have h2 := harr 2 (by decide)
  simp [opNext, hT, hF, hused, hhalt, hi, h0, h1, h2]

theorem opNext_of_waiting (h : (getOp (getTile s u) g).outT ≠ none ∨ (getOp (getTile s u) g).outF ≠ none) : opNext s u g = none := by
  rcases h with h | h <;> simp [opNext, Option.isSome_iff_ne_none.mpr h]

variable (hh : s.here = .router u g) (hi : opInstr (getTile s u) g = some i)
include hh hi

theorem waits_of_opNext (h : opNext s u g = none) : Waits i s := by
  rw [Waits, exec_of_opInstr hi]
  simp [atRouter, hh, hi, h]

theorem exec_of_opNext {z : Op} (h : opNext s u g = some z) :
    exec i s = .next (updTile s u fun x => setOp { x with used := aset x.used (opUsed g) s.clock } g z) := by
  rw [exec_of_opInstr hi]
  simp [atRouter, hh, hi, h]

theorem opBecomes_of_opNext {z : Op} (h : opNext s u g = some z) : OpBecomes u g s i z := by
  refine ⟨_, exec_of_opNext hh hi h, updTile_frame .., rfl, ?_⟩
  rw [getTile_updTile]
  exact ⟨getOp_setOp_same .., getOp_setOp_other .., setOp_queues .., setOp_links ..⟩

variable (hf : OpFree s u g)
include hf

theorem waits_of_step (h : opStepOf s.clock (getOp (getTile s u) g) i = none) : Waits i s :=
  waits_of_opNext hh hi ((opNext_of_free hf hi).trans h)

theorem opBecomes_of_step {z : Op} (h : opStepOf s.clock (getOp (getTile s u) g) i = some z) : OpBecomes u g s i z :=
  opBecomes_of_opNext hh hi ((opNext_of_free hf hi).trans h)

end

/-- Settles O53: a free operator at its turn makes its step function's step (`opBecomes_of_step`, `waits_of_step`), and of each step function there is an
equation per case of its heads. -/
theorem routerOperatorsStep : Obligations.RouterOperatorsStep := by
  intro u g s hh x y a b c takeA takeB takeC free acts idles
  refine ⟨fun i hi ho => waits_of_opNext hh hi (opNext_of_waiting ho), fun m k tt ff hi hf => ?steer, fun m n k tt hi hf => ?carry,
    fun m k tt hi hf => ?inv, fun m n k tt hi hf => ?merge⟩
  all_goals
    have becomes {z : Op} := opBecomes_of_step hh hi hf (z := z)
    have waits := waits_of_step hh hi hf
  case steer =>
    exact ⟨fun ha => waits (stepSteer_noA ha),
      fun r ha hr => ⟨fun hc => becomes (stepSteer_record ha hr hc), fun hc => becomes (stepSteer_record ha hr hc), fun hc => waits (stepSteer_record ha hr hc)⟩,
      fun r ha hr => becomes (stepSteer_other ha hr)⟩
  case carry =>
    exact ⟨fun hl => ⟨fun r ha => becomes (stepCarry_init hl ha), fun ha => waits (stepCarry_init_noA hl ha)⟩,
      fun hl => ⟨fun r hb hr => becomes (stepCarry_other hl hb hr), fun r hb hr hc => becomes (stepCarry_again hl hb hr hc),
        fun hc hb => becomes (stepCarry_ends hl hc hb), fun hb hc => waits (stepCarry_noB hl hb hc)⟩⟩
  case inv =>
    exact ⟨fun hv => ⟨fun r ha => becomes (stepInv_takes hv ha), fun ha => waits (stepInv_free_noA hv ha)⟩,
      fun v hv => ⟨fun hc => becomes (stepInv_holds hv hc), fun hc => becomes (stepInv_holds hv hc), fun hc => waits (stepInv_holds hv hc)⟩⟩
  case merge =>
    refine ⟨fun p ha hp => becomes (stepMerge_paired ha hp), fun hn => ?_⟩
    have sideA := stepMerge_sideA (now := s.clock) hn
    have sideB := stepMerge_sideB (now := s.clock) hn
    exact ⟨fun hc => waits (stepMerge_noCtl hn hc),
      fun hc ho => becomes ((sideA hc).trans (mergeSide_owing ho)),
      fun p hc ho ha hr => becomes ((sideA hc).trans (mergeSide_record ho ha hr)),
      fun p hc ho ha hr hk => becomes ((sideA hc).trans (mergeSide_gap ho ha hr hk)),
      fun hc ho ha => waits ((sideA hc).trans (mergeSide_empty ho ha)),
      fun p hc ho ha hr hk => waits ((sideA hc).trans (mergeSide_other ho ha hr hk)),
      fun hc ho hb => waits ((sideB hc).trans (mergeSide_empty ho hb)),
      fun p hc ho hb hr hk => waits ((sideB hc).trans (mergeSide_other ho hb hr hk)),
      fun hc ho => becomes ((sideB hc).trans (mergeSide_owing ho)),
      fun p hc ho hb hr => becomes ((sideB hc).trans (mergeSide_record ho hb hr)),
      fun p hc ho hb hr hk => becomes ((sideB hc).trans (mergeSide_gap ho hb hr hk))⟩

end Sys2Proof.Machine
end

section
/-! PROOFS. What a firing's heads leave of its tile's launch (R14, R154), and the nodes that decide a pass or make a thread (R185, R192, R194, R195). -/
namespace Sys2Proof.Machine
open Sys2Proof

/-! ## A launch whose threads are less exact than before (R154) -/

/-- A thread whose exactness is left aside. -/
def exactView (y : Thread) : Thread := { y with inexact := false }

/-- A launch is another but for which of its threads are inexact. -/
structure ThreadsTainted (x z : Launch) : Prop where
  rest : z = { x with threads := z.threads }
  threads : ∀ k, (afind z.threads k).map exactView = (afind x.threads k).map exactView

theorem ThreadsTainted.refl (x : Launch) : ThreadsTainted x x := ⟨rfl, fun _ => rfl⟩

theorem ThreadsTainted.trans {x y z : Launch} (h : ThreadsTainted x y) (k : ThreadsTainted y z) : ThreadsTainted x z :=
  ⟨by rw [k.rest, h.rest], fun n => (k.threads n).trans (h.threads n)⟩

section
variable {x z : Launch} (h : ThreadsTainted x z)
include h

theorem ThreadsTainted.lr : z.lr = x.lr := by rw [h.rest]
theorem ThreadsTainted.active : z.active = x.active := by rw [h.rest]
theorem ThreadsTainted.planes : z.planes = x.planes := by rw [h.rest]
theorem ThreadsTainted.decided : z.decided = x.decided := by rw [h.rest]
theorem ThreadsTainted.getPlane (p : Nat) : getPlane z p = getPlane x p := by rw [Machine.getPlane, h.planes]; rfl
theorem ThreadsTainted.activePc : activePc z = activePc x := by simp only [Machine.activePc, h.active, h.getPlane]
theorem ThreadsTainted.fallPc : fallPc z = fallPc x := by simp only [Machine.fallPc, h.active, h.getPlane]

theorem ThreadsTainted.homeOf {s t : State} (hd : t.dies = s.dies) (l : LaunchId) : homeOf t l z = homeOf s l x := by
  have hg : ∀ d, getDie t d = getDie s d := fun d => by rw [getDie, hd]; rfl
  rw [h.rest]
  simp only [Machine.homeOf, clusterOf_of_dies hd, hg]

theorem ThreadsTainted.freeNumber :
    (List.range 256).find? (fun k => (afind z.threads k).isNone) = (List.range 256).find? fun k => (afind x.threads k).isNone := by
  have e : ∀ k, (afind z.threads k).isNone = (afind x.threads k).isNone := fun k => by simpa using congrArg Option.isNone (h.threads k)
  simp only [e]

theorem ThreadsTainted.findThread {thr : BitVec 8} {y : Thread} (hy : findThread x thr = some y) :
    ∃ v, findThread z thr = some v ∧ exactView v = exactView y := by
  have e := h.threads thr.toNat
  rw [show afind x.threads thr.toNat = some y from hy] at e
  exact Option.map_eq_some_iff.mp e

end

/-! ## What a firing's heads leave -/

/-- A tile's owner, its configuration and the order of issue are as before, and so are the launches, but for the exactness of the owner's threads. -/
structure HeadsTaken (u : TileId) (s t : State) : Prop where
  owner : ownerOf t u = ownerOf s u
  cfg : (getTile t u).cfg = (getTile s u).cfg
  seq : t.seq = s.seq
  mine : ∀ {l x}, findLaunch s l = some x → ∃ z, findLaunch t l = some z ∧ ThreadsTainted x z
  others : ∀ {l}, ownerOf s u = some l → SameLaunchesBut s t l

theorem HeadsTaken.trans {u : TileId} {a b c : State} (h : HeadsTaken u a b) (k : HeadsTaken u b c) : HeadsTaken u a c where
  owner := k.owner.trans h.owner
  cfg := k.cfg.trans h.cfg
  seq := k.seq.trans h.seq
  mine hx := by
    obtain ⟨y, hy, hxy⟩ := h.mine hx
    obtain ⟨z, hz, hyz⟩ := k.mine hy
    exact ⟨z, hz, hxy.trans hyz⟩
  others hl := (h.others hl).trans (k.others (h.owner.trans hl))

/-- A step that changes no launch, and leaves the tile's owner and configuration and the order of issue. -/
theorem HeadsTaken.of_tables {u : TileId} {s t : State} (ho : (getTile t u).owner = (getTile s u).owner) (hc : (getTile t u).cfg = (getTile s u).cfg)
    (hs : t.seq = s.seq) (hl : t.launches = s.launches) : HeadsTaken u s t := by
  have hf : ∀ l, findLaunch t l = findLaunch s l := fun l => by rw [findLaunch, hl]; rfl
  exact ⟨by rw [ownerOf, ho]; rfl, hc, hs, fun hx => ⟨_, (hf _).trans hx, .refl _⟩, fun _ k _ => hf k⟩

section
variable (u : TileId) (s : State)

theorem HeadsTaken.refl : HeadsTaken u s s := .of_tables rfl rfl rfl rfl

theorem HeadsTaken.foldl {β : Type} {f : State → β → State} (h : ∀ s x, HeadsTaken u s (f s x)) (l : List β) : HeadsTaken u s (l.foldl f s) :=
  l.foldlRecOn f (motive := HeadsTaken u s) (.refl u s) fun _ ht x _ => ht.trans (h _ x)

theorem headsTaken_setTile {x : Tile} (ho : x.owner = (getTile s u).owner) (hc : x.cfg = (getTile s u).cfg) : HeadsTaken u s (setTile s u x) :=
  .of_tables (by rwa [getTile_setTile]) (by rwa [getTile_setTile]) rfl rfl

theorem headsTaken_recT (r : Rec) : HeadsTaken u s (recT s u r) := by
  unfold recT recL
  dsimp only
  split
  · split
    · exact .refl u s
    · exact .of_tables rfl rfl rfl rfl
  · exact .of_tables rfl rfl rfl rfl

theorem headsTaken_recFirst (r : Rec) : HeadsTaken u s (recFirst s u r) := by
  unfold recFirst
  split
  · exact .refl u s
  · refine HeadsTaken.trans ?_ (headsTaken_recT ..)
    exact headsTaken_setTile u s rfl rfl

theorem headsTaken_countEv (t : TileId) (ev q n : Nat) : HeadsTaken u s (countEv s t ev q n) := by
  unfold countEv
  dsimp only
  split
  · exact .refl u s
  · exact .of_tables rfl rfl rfl rfl

theorem headsTaken_countTile (ev q : Nat) : HeadsTaken u s (countTile s u ev q) := by
  refine HeadsTaken.trans ?_ (headsTaken_countEv ..)
  exact headsTaken_setTile u s rfl rfl

/-- A thread of a launch marked inexact. -/
theorem threadsTainted_mark (x : Launch) {k : Nat} {y : Thread} (hy : afind x.threads k = some y) :
    ThreadsTainted x { x with threads := aset x.threads k { y with inexact := true } } := by
  refine ⟨rfl, fun n => ?_⟩
  by_cases hn : n = k
  · subst hn
    simp [hy, exactView]
  · simp [afind_aset_other _ _ hn]

theorem headsTaken_inexact (thr : BitVec 8) : HeadsTaken u s (inexact s u thr) := by
  unfold inexact updThread updLaunch
  cases ho : ownerOf s u with
  | none => exact .refl u s
  | some l =>
    dsimp only
    cases hl : findLaunch s l with
    | none => exact .refl u s
    | some x =>
      refine ⟨rfl, rfl, rfl, fun {k y} hy => ?_, fun {k} hk i hi => ?_⟩
      · by_cases hk : k = l
        · subst hk
          cases hl.symm.trans hy
          refine ⟨_, findLaunch_setLaunch .., ?_⟩
          split
          · exact .refl x
          next v hv => exact threadsTainted_mark x hv
        · exact ⟨y, (findLaunch_setLaunch_other _ _ hk).trans hy, .refl y⟩
      · cases ho.symm.trans hk
        exact findLaunch_setLaunch_other _ _ hi

theorem headsTaken_scratch (before after : List QEntry) (d c n : Nat) : HeadsTaken u s (scratch s u before after d c n) := by
  unfold scratch
  split
  · exact .refl u s
  · exact .of_tables rfl rfl rfl rfl

theorem headsTaken_putQ (q : Nat) (v : Queue) (n : Nat) : HeadsTaken u s (putQ s u q v n) := by
  unfold putQ
  exact (headsTaken_setTile u s (x := setQ (getTile s u) q v) rfl rfl).trans (headsTaken_scratch ..)

theorem headsTaken_takeHead (q : Nat) : HeadsTaken u s (takeHead s u q) := by
  have h : HeadsTaken u s (takeQ s u q) := headsTaken_putQ ..
  unfold takeHead
  dsimp only
  split
  · exact .refl u s
  split
  next v _ =>
    have k : HeadsTaken u s (if v.kind = kGap then inexact (takeQ s u q) u v.thr else takeQ s u q) := by
      split
      · exact h.trans (headsTaken_inexact ..)
      · exact h
    split
    · exact (k.trans (headsTaken_countTile ..)).trans (headsTaken_recFirst ..)
    · exact k
  · exact h

end

theorem headsTaken_thrMix (s : State) (sl : SlotId) (x : Tile) (qs : List Nat) : HeadsTaken sl.tile s (thrMix s sl x qs) := by
  unfold thrMix
  split
  · exact .refl ..
  split
  · exact .refl ..
  · exact (headsTaken_countTile ..).trans (headsTaken_recFirst ..)

theorem headsTaken_beginFire (s : State) (sl : SlotId) (qs : List Nat) : HeadsTaken sl.tile s (beginFire s sl qs) := by
  refine ((headsTaken_thrMix s sl (getTile s sl.tile) qs).trans (.foldl _ _ (fun s q => headsTaken_takeHead sl.tile s q) qs)).trans ?_
  exact headsTaken_setTile _ _ rfl rfl

/-- The constants of a plane (R50) after a firing's heads are taken. -/
theorem beginFire_constK (s : State) (sl : SlotId) (qs : List Nat) (p n : Nat) :
    constK (getTile (beginFire s sl qs) sl.tile) p n = constK (getTile s sl.tile) p n := by
  simp only [constK, cfgF, (headsTaken_beginFire s sl qs).cfg]

/-! ## Threads of a launch -/

section
variable (x : Launch) {thr k : BitVec 8}

theorem findThread_joinEntry_other (h : k ≠ thr) (pc : Word) : findThread (joinEntry x thr pc) k = findThread x k := by
  unfold joinEntry
  split
  · rfl
  · rw [findThread_seat, findThread_setThread_other _ _ h]

theorem findThread_aset {n : Nat} (hn : n < 256) (y : Thread) :
    findThread { x with threads := aset x.threads n y } (BitVec.ofNat 8 n) = some y := by
  simp [findThread, Nat.mod_eq_of_lt hn]

variable {x} in
/-- A thread that joins an entry queue waits for its block. -/
theorem findThread_joinEntry_same {y : Thread} (h : findThread x thr = some y) (pc : Word) :
    findThread (joinEntry x thr pc) thr = some { y with pc := pc, st := .waiting, exit := none, outs := [] } := by
  simp only [joinEntry, h]
  exact (findThread_seat ..).trans (findThread_setThread ..)

theorem findThread_unhold_other (h : k ≠ thr) : findThread (unhold x thr) k = findThread x k := by
  unfold unhold
  split
  · split
    · rw [findThread_joinEntry_other _ h, findThread_setThread_other _ _ h]
    · rfl
  · rfl

theorem findThread_freeThread_other (h : k ≠ thr) : findThread (freeThread x thr) k = findThread x k := by
  unfold freeThread
  split
  · split
    · exact afind_adel_other _ fun e => h (BitVec.eq_of_toNat_eq e)
    · rfl
  · rfl

variable {x} {y : Thread} (hy : findThread x thr = some y) (hf : y.st = .flight)
include hy hf

/-- A thread in flight is neither held nor ended. -/
theorem unhold_of_flight : unhold x thr = x := by simp [unhold, hy, hf]
theorem freeThread_of_flight : freeThread x thr = x := by simp [freeThread, hy, hf]

/-- R195: what a child's TJOIN does to its parent leaves the exit of a thread in flight, the parent itself among them. -/
theorem joinParent_keeps_exit (p : BitVec 8) (a : Word) : ∃ v, findThread (joinParent x p a) thr = some v ∧ v.exit = y.exit := by
  unfold joinParent
  by_cases hp : thr = p
  · subst hp
    simp only [hy]
    have hs := findThread_setThread x (thr := thr) { y with sum := y.sum + a, joins := y.joins - 1 }
    rw [unhold_of_flight hs hf, freeThread_of_flight hs hf]
    exact ⟨_, hs, rfl⟩
  · refine ⟨y, ?_, rfl⟩
    split
    · rw [findThread_freeThread_other _ hp, findThread_unhold_other _ hp, findThread_setThread_other _ _ hp, hy]
    · exact hy

end

/-! ## Exits (R185, R192, R195) -/

/-- The target of a node is that of its block's address (R192). -/
theorem target_eq_blockTarget (w : NWord) (s : State) (sl : SlotId) (v : View) (pc : Word) :
    target w (kOf s (fireOf s sl v)) pc = blockTarget s sl w pc := by
  unfold target blockTarget
  dsimp only
  split <;> rfl

/-- The first exit of a thread in flight is put down, and its launch changed as the node says. -/
theorem exitFire_first {s : State} {t : TileId} {thr : BitVec 8} {l : LaunchId} {x : Launch} {y : Thread} (ho : ownerOf s t = some l)
    (hl : findLaunch s l = some x) (hy : findThread x thr = some y) (hf : y.st = .flight) (hn : y.exit = none) (e : Launch → Exit)
    (also : Launch → Thread → Launch) :
    exitFire s t thr e also = setLaunch s l (also (setThread x thr { y with exit := some (e x) }) y) := by
  simp [exitFire, ho, hl, hy, hf, hn]

/-- What an exit does to its launch besides leaves the exits of threads in flight. -/
def KeepsExit (also : Launch → Thread → Launch) : Prop :=
  ∀ x y thr v, findThread x thr = some v → v.st = .flight → ∃ z, findThread (also x y) thr = some z ∧ z.exit = v.exit

theorem keepsExit_nothing : KeepsExit fun x _ => x := fun _ _ _ v hv _ => ⟨v, hv, rfl⟩

/-- R195: TJOIN also acts on the parent of its thread, where it has one. -/
theorem keepsExit_tjoin (a : Word) : KeepsExit fun x y => match y.parent with | some p => joinParent x p a | none => x := by
  intro x y thr v hv hf
  dsimp only
  split
  · exact joinParent_keeps_exit hv hf ..
  · exact ⟨v, hv, rfl⟩

section
variable {op : NodeOp} {w : NWord} {sl : SlotId} {s : State} {l : LaunchId} {x : Launch} {y : Thread} (ho : ownerOf s sl.tile = some l)
  (hl : findLaunch s l = some x)
include ho hl

/-- The owner's launch once a firing's heads are taken. -/
theorem launch_after_heads (qs : List Nat) : let z := beginFire s sl qs
    ownerOf z sl.tile = some l ∧ ∃ v, findLaunch z l = some v ∧ ThreadsTainted x v :=
  have h := headsTaken_beginFire s sl qs
  ⟨h.owner.trans ho, h.mine hl⟩

/-- An exit node decides the pass of its thread when it is the first to fire for it. -/
theorem actNode_decides (h : AtTurn s sl (nodeInstr op w)) {e : Fire → Launch → Exit} {also : Fire → Launch → Thread → Launch}
    (hx : exec (nodeInstr op w) s = actNode op w s fun sl f z => exitFire z sl.tile f.thr (e f) (also f))
    (hy : findThread x (fireOf s sl (.node op w)).thr = some y) (hf : y.st = .flight) (hn : y.exit = none) (hk : ∀ f, KeepsExit (also f))
    (he : ∀ f z, ThreadsTainted x z → e f z = e f x) :
    Completes (nodeInstr op w) s fun t => Issued s t sl ∧ TileFrame s t sl.tile ∧ SameLaunchesBut s t l ∧
      ∃ x' y', findLaunch t l = some x' ∧ findThread x' (fireOf s sl (.node op w)).thr = some y' ∧ y'.exit = some (e (fireOf s sl (.node op w)) x) := by
  have hb := (actNode_issues (fun _ => False) h (go := fun sl f z => exitFire z sl.tile f.thr (e f) (also f))
    fun _ _ hz => hz.then (keeps_exitFire ..)).begun (actNode_turn h _)
  refine ⟨_, hx.trans (actNode_turn h _), hb.issue, hb.toLeaves.frame, ?_⟩
  obtain ⟨ho', v, hv, hxv⟩ := launch_after_heads ho hl (namedOnce (.node op w))
  obtain ⟨y', hy', hyy⟩ := hxv.findThread hy
  have hst : y'.st = .flight := (congrArg Thread.st hyy :).trans hf
  have hex : y'.exit = none := (congrArg Thread.exit hyy :).trans hn
  obtain ⟨z, hz, hze⟩ := hk _ (setThread v _ { y' with exit := some (e _ v) }) y' _ _ (findThread_setThread ..) hst
  rw [exitFire_first ho' hv hy' hst hex]
  refine ⟨fun k hk => ?_, _, z, findLaunch_setLaunch .., hz, hze.trans (congrArg some (he _ v hxv))⟩
  exact (findLaunch_setLaunch_other _ _ hk).trans ((headsTaken_beginFire ..).others ho k hk)

end

/-- The exits of BX and BXC (R192). -/
def bxExit (w : NWord) (s : State) (f : Fire) (x : Launch) : Exit := .go (target w (kOf s f) (activePc x)) (w.aux.getLsbD 4)
def bxcExit (w : NWord) (s : State) (f : Fire) (x : Launch) : Exit :=
  .go (if f.a.pay.getLsbD 0 then target w (kOf s f) (activePc x) else fallPc x) (w.aux.getLsbD 4)

theorem execBx_eq (w : NWord) (s : State) :
    exec (nodeInstr .bx w) s = actNode .bx w s fun sl f z => exitFire z sl.tile f.thr (bxExit w s f) fun x _ => x := rfl
theorem execBxc_eq (w : NWord) (s : State) :
    exec (nodeInstr .bxc w) s = actNode .bxc w s fun sl f z => exitFire z sl.tile f.thr (bxcExit w s f) fun x _ => x := rfl

/-- Settles O19: each of the four is `exitFire` after its heads are taken, which leave the thread's state and the block's addresses. -/
theorem exitsDecideThePass : Obligations.ExitsDecideThePass := by
  unfold Obligations.ExitsDecideThePass
  intro w sl s l x y ho hl decides
  refine ⟨fun h hy hf hn => ?_, fun h hy hf hn => ?_, fun h hy hf hn => ?_, fun h hy hf hn => ?_⟩
  · rw [← target_eq_blockTarget w s sl (.node .bx w)]
    exact actNode_decides (e := bxExit w s) ho hl h (execBx_eq w s) hy hf hn (fun _ => keepsExit_nothing) fun f z hz => by
      rw [bxExit, hz.activePc]; rfl
  · rw [← target_eq_blockTarget w s sl (.node .bxc w)]
    exact actNode_decides (e := bxcExit w s) ho hl h (execBxc_eq w s) hy hf hn (fun _ => keepsExit_nothing) fun f z hz => by
      rw [bxcExit, hz.activePc, hz.fallPc]; rfl
  · exact actNode_decides (e := fun _ _ => .stop) ho hl h rfl hy hf hn (fun _ => keepsExit_nothing) fun _ _ _ => rfl
  · exact actNode_decides (e := fun _ _ => .stop) ho hl h rfl hy hf hn (fun f => keepsExit_tjoin (lowPair f.a.pay)) fun _ _ _ => rfl

/-! ## TSPAWN (R194) -/

/-- A launch with a child thread of a number, its parent owed one more join. -/
structure ChildMade (z : Launch) (n : Nat) (parent : BitVec 8) (joins : Nat) (pc : Word) (t : List Word) : Prop where
  child : ∃ c, afind z.threads n = some c ∧ c.pc = pc ∧ c.t = t ∧ c.parent = some parent ∧ c.st = .waiting
  owed : ∃ p, findThread z parent = some p ∧ p.joins = joins + 1

theorem spawn_makesChild {x : Launch} {parent : BitVec 8} {y : Thread} {n : Nat} (hy : findThread x parent = some y)
    (hn : (List.range 256).find? (fun k => (afind x.threads k).isNone) = some n) (pc a b c : Word) :
    ∃ z, spawn x parent pc a b c = (z, some n) ∧ ChildMade z n parent y.joins pc [a, b, c, parent.setWidth 64] := by
  have hlt : n < 256 := List.mem_range.mp (List.mem_of_find?_eq_some hn)
  have hnone : afind x.threads n = none := Option.isNone_iff_eq_none.mp (by simpa using List.find?_some hn)
  have hthr : (BitVec.ofNat 8 n).toNat = n := by simp [Nat.mod_eq_of_lt hlt]
  have hne : parent ≠ BitVec.ofNat 8 n := fun e => by
    rw [findThread, e, hthr, hnone] at hy
    cases hy
  have hpn : parent.toNat ≠ n := fun e => hne (BitVec.eq_of_toNat_eq (e.trans hthr.symm))
  simp only [spawn, hn, hy]
  refine ⟨_, rfl, ?_, ?_⟩
  · have hc := findThread_joinEntry_same (findThread_aset (setThread x parent { y with joins := y.joins + 1 }) hlt
      { pc := pc, t := [a, b, c, parent.setWidth 64], parent := some parent }) pc
    rw [findThread, hthr] at hc
    exact ⟨_, hc, rfl, rfl, rfl, rfl⟩
  · refine ⟨{ y with joins := y.joins + 1 }, ?_, rfl⟩
    rw [findThread_joinEntry_other _ hne]
    exact (afind_aset_other _ _ hpn).trans (findThread_setThread ..)

theorem spawn_full {x : Launch} (hn : (List.range 256).find? (fun k => (afind x.threads k).isNone) = none) (parent : BitVec 8) (pc a b c : Word) :
    spawn x parent pc a b c = (x, none) := by simp only [spawn, hn]

/-- With OUT naming O2 alone, TSPAWN's result goes out there. -/
theorem pipeOf_spawnResult {w : NWord} (ho : w.out = 4) (sl : SlotId) (f : Fire) (r : Word) (s : State) :
    pipeOf (spawnResult w sl f r s) sl = pipeOf s sl ++ [results [(2, .sca ⟨r, f.thr⟩)]] := by
  rw [spawnResult, ho, pipeOf_eq, slotAt_pushEms, slotAt_setLatch]
  rfl

theorem pushEms_launches (s : State) (sl : SlotId) (es : List (Fin 4 × Tok)) : (pushEms s sl es).launches = s.launches := by
  unfold pushEms
  split <;> rfl

theorem findLaunch_spawnResult (w : NWord) (sl : SlotId) (f : Fire) (r : Word) (s : State) (l : LaunchId) :
    findLaunch (spawnResult w sl f r s) l = findLaunch s l := by
  rw [findLaunch, spawnResult, pushEms_launches]
  rfl

theorem countL_slots (s : State) (l : LaunchId) (n : Nat) (u : TileId) : SameSlots s (countL s l n) u := updLaunch_slots ..
theorem recFirstL_slots (s : State) (l : LaunchId) (r : Rec) (u : TileId) : SameSlots s (recFirstL s l r) u := by
  unfold recFirstL
  split
  · exact .refl s u
  split
  · exact .refl s u
  · exact (setLaunch_slots ..).trans (recL_slots ..)

/-- Settles O20: the lowest free number is as before the heads were taken, for they change the exactness of threads alone. -/
theorem spawnMakesChild : Obligations.SpawnMakesChild := by
  unfold Obligations.SpawnMakesChild
  intro w sl s l x y h ho hl hout
  dsimp only
  intro hy
  obtain ⟨ho', v, hv, hxv⟩ := launch_after_heads ho hl (namedOnce (.node .tspawn w))
  obtain ⟨y', hy', hyy⟩ := hxv.findThread hy
  have hpipe := beginFire_pipe s sl (namedOnce (.node .tspawn w))
  have e : execTspawn w s = .next _ := actNode_turn h _
  simp only [ho', hv, hxv.activePc, target_eq_blockTarget] at e
  generalize fireOf s sl (.node .tspawn w) = f at e hy' ⊢
  split
  next n hn =>
    obtain ⟨z, hz, ⟨c, hc, hpc, ht, hp, hst⟩, p, hfp, hj⟩ := spawn_makesChild hy' (hxv.freeNumber.trans hn) (blockTarget s sl w (activePc x))
      (lowPair f.a.pay) (lowPair f.b.pay) (lowPair f.c.pay)
    simp only [hz] at e
    have hb := (tspawn_issues (fun _ => False) h).begun e
    refine ⟨_, e, hb.issue, hb.toLeaves.frame, ?_, z, c, p,
      (findLaunch_spawnResult ..).trans (findLaunch_setLaunch ..), hc, hpc, ht, hp, hst, hfp, hj.trans ?_⟩
    · rw [pipeOf_spawnResult hout]
      exact congrArg (· ++ _) hpipe
    · exact congrArg (· + 1) (congrArg Thread.joins hyy :)
  next hn =>
    simp only [spawn_full (hxv.freeNumber.trans hn)] at e
    have hb := (tspawn_issues (fun _ => False) h).begun e
    refine ⟨_, e, hb.issue, hb.toLeaves.frame, ?_⟩
    rw [pipeOf_spawnResult hout, pipeOf_eq, ((countL_slots ..).trans (recFirstL_slots ..)).slotAt]
    exact congrArg (· ++ _) hpipe

end Sys2Proof.Machine
end

section
/-! PROOFS. The synchronisation nodes (R189, R196, R197, R277): DSEL, SEQ, BTOK, EVPOST, BARN, and the release of a barrier. -/
namespace Sys2Proof.Machine
open Sys2Proof

/-! ## DSEL (R189) -/

/-- A launch whose phase has been decided for a plane. -/
def decidedFor (x : Launch) (p : Fin 4) : Launch := { x with dsel := some (.plane p), decided := true }

/-- A phase's first decision for a plane that holds a block and is not the active one stands. -/
theorem decidePlane_first {s : State} {l : LaunchId} {x : Launch} {p : Fin 4} (hl : findLaunch s l = some x) (ha : x.active ≠ some p)
    (hd : x.decided = false) (hp : (getPlane x p.val).st ≠ .invalid) :
    decidePlane s l p = setLaunch s l (decidedFor x p) := by
  unfold decidePlane
  simp only [hl, if_neg ha, hd, Bool.false_eq_true, if_false]
  cases hst : (getPlane x p.val).st with
  | invalid => exact absurd hst hp
  | _ => rfl

/-- The plane that a DSEL names: bits 1:0 of lane 0. -/
theorem lane_zero_mod_four (p : Payload) : (lane p 0).toNat % 4 = (p.extractLsb' 0 2).toNat := by
  simp only [lane, Nat.mul_zero, BitVec.extractLsb'_toNat, Nat.shiftRight_zero]
  omega

section
variable {w : NWord} {sl : SlotId} {s : State} {l : LaunchId} {x : Launch} (ho : ownerOf s sl.tile = some l) (hl : findLaunch s l = some x)
include ho hl

theorem dsel_decides (h : AtTurn s sl (.dsel w)) {p : Fin 4} (hp : p = Fin.ofNat 4 ((lane (fireOf s sl (.node .dsel w)).a.pay 0).toNat % 4))
    (ha : x.active ≠ some p) (hst : (getPlane x p.val).st ≠ .invalid) (hd : x.decided = false) :
    Completes (.dsel w) s fun t => Issued s t sl ∧ TileFrame s t sl.tile ∧
      ∃ x', findLaunch t l = some x' ∧ x'.dsel = some (.plane p) ∧ x'.decided = true := by
  obtain ⟨ho', v, hv, hxv⟩ := launch_after_heads ho hl (namedOnce (.node .dsel w))
  have e : execDsel w s = .next _ := actNode_turn h _
  rw [lane_zero_mod_four] at hp
  simp only [ho', ← hp] at e
  rw [decidePlane_first hv (by rwa [hxv.active]) (by rwa [hxv.decided]) (by rwa [hxv.getPlane])] at e
  have hb := (dsel_issues (fun _ => False) h).begun e
  exact ⟨_, e, hb.issue, hb.toLeaves.frame, _, findLaunch_setLaunch .., rfl, rfl⟩

end

/-! ## SEQ (R196) -/

theorem lane_seqTok (n : Nat) (thr : BitVec 8) : lane (seqTok n thr).pay 0 = BitVec.ofNat 32 n := by
  apply BitVec.eq_of_toNat_eq
  have he := elem_packElems (w := 32) (by decide) [n] 0 (by decide)
  rw [BitVec.toNat_ofNat]
  exact he

/-- The queues whose heads a start of SEQ takes. -/
def seqStartHeads (w : NWord) : List Nat :=
  ((match w.sa with | .queue q => [q.val] | _ => []) ++ (match w.sc with | .queue q => [q.val] | _ => [])).eraseDups

/-- The state in which SEQ has emitted iteration `i` of a run. -/
def seqEmitted (w : NWord) (sl : SlotId) (s : State) (i : Nat) (thr : BitVec 8) (n : NodeSt) (z : State) : State :=
  pushEms (setLatch (setNode z sl n) sl (seqTok (seqValue w (kOf s (fireOf s sl (.node .seq w))) i) thr)) sl
    (seqEms w.out (seqValue w (kOf s (fireOf s sl (.node .seq w))) i) thr)

section
variable {w : NWord} (hout : w.out = 9) (sl : SlotId) (s z : State)
include hout

theorem slotAt_seqEmitted (i : Nat) (thr : BitVec 8) (n : NodeSt) :
    let v := seqTok (seqValue w (kOf s (fireOf s sl (.node .seq w))) i) thr
    slotAt (seqEmitted w sl s i thr n z) sl =
      { slotAt z sl with node := n, latch := v, pipe := (slotAt z sl).pipe ++ [results [(0, .vec v), (3, .ctl true)]] } := by
  rw [seqEmitted, hout, slotAt_pushEms, slotAt_setLatch, slotAt_setNode]
  rfl

theorem slotAt_seqEnd : slotAt (pushEms z sl (seqEnd w.out)) sl = { slotAt z sl with pipe := (slotAt z sl).pipe ++ [results [(3, .ctl false)]] } := by
  rw [hout, slotAt_pushEms]
  rfl

/-- What SEQ emits for an iteration, as the two ports of OUT carry it. -/
theorem seqEmitted_emits (i : Nat) (thr : BitVec 8) (n : NodeSt) (hz : pipeOf z sl = pipeOf s sl) :
    ∃ v : VTok, pipeOf (seqEmitted w sl s i thr n z) sl = pipeOf s sl ++ [results [(0, .vec v), (3, .ctl true)]] ∧ v.valid = 1 ∧ v.fmt = 1 ∧
      v.thr = thr ∧ lane v.pay 0 = BitVec.ofNat 32 (seqValue w (kOf s (fireOf s sl (.node .seq w))) i) := by
  refine ⟨_, ?_, rfl, rfl, rfl, lane_seqTok ..⟩
  rw [pipeOf_eq, slotAt_seqEmitted hout, ← hz]
  rfl

end

theorem markIssue_pipe (s : State) (sl : SlotId) : pipeOf (markIssue s sl) sl = pipeOf s sl := by
  simp only [pipeOf, markIssue, getTile_updTile, getSlot_updSlot]
  rfl

theorem markIssue_constK (s : State) (sl : SlotId) (p n : Nat) : constK (getTile (markIssue s sl) sl.tile) p n = constK (getTile s sl.tile) p n := by
  rw [markIssue, getTile_updTile]
  rfl

/-- The constants that a SEQ reads after a step that leaves its tile's. -/
theorem kOf_setNode {s z : State} {sl : SlotId} {v : View} (h : ∀ p n, constK (getTile z sl.tile) p n = constK (getTile s sl.tile) p n) (n : NodeSt) :
    kOf (setNode z sl n) (fireOf s sl v) = kOf s (fireOf s sl v) := by
  funext k
  refine Eq.trans ?_ (h _ k)
  rw [kOf, setNode, show (fireOf s sl v).sl = sl from rfl, getTile_updTile]
  rfl

section
variable {w : NWord} {sl : SlotId} {s : State}

/-- A SEQ that is not in a run can only start one. -/
theorem seqStep_start_of_idle {x : Tile} {y : Slot} (hn : ∀ n i k thr, y.node ≠ .seq n i k thr true) (hs : seqStep x y w ≠ .none) :
    seqStep x y w = .start := by
  by_contra hne
  obtain ⟨n, i, k, thr, hy⟩ := seqStep_running hne hs
  exact hn n i k thr hy

theorem seqIssue_start (hs : seqStep (getTile s sl.tile) (getSlot (getTile s sl.tile) sl.slot.val) w = .start) :
    let f := fireOf s sl (.node .seq w)
    let n := (lane f.c.pay 0).toNat
    let z := beginFire s sl (seqStartHeads w)
    seqIssue w sl s = if n = 0 then pushEms z sl (seqEnd w.out) else seqEmitted w sl s 0 f.thr (.seq n 1 0 f.thr true) z := by
  unfold seqIssue
  dsimp only
  rw [hs]
  dsimp only
  rw [kOf_setNode (beginFire_constK s sl _)]
  rfl

variable {n i taken : Nat} {thr : BitVec 8} (hy : slotNode s sl = .seq n i taken thr true)
include hy

theorem seqIssue_emit (hs : seqStep (getTile s sl.tile) (getSlot (getTile s sl.tile) sl.slot.val) w = .emit) :
    seqIssue w sl s = if i < n then seqEmitted w sl s i thr (.seq n (i + 1) taken thr true) (markIssue s sl)
      else pushEms (setNode (markIssue s sl) sl .idle) sl (seqEnd w.out) := by
  rw [slotNode] at hy
  unfold seqIssue
  dsimp only
  rw [hs, hy]
  dsimp only
  rw [kOf_setNode (markIssue_constK s sl)]
  rfl

theorem seqIssue_done (hs : seqStep (getTile s sl.tile) (getSlot (getTile s sl.tile) sl.slot.val) w = .done) :
    ∃ qs, seqIssue w sl s = setNode (beginFire s sl qs) sl (.seq n i (taken + 1) thr true) := by
  rw [slotNode] at hy
  unfold seqIssue
  dsimp only
  rw [hs, hy]
  exact ⟨_, rfl⟩

end

/-- An issue of SEQ, by what holds of the state that it leaves. -/
theorem completes_seq {w : NWord} {sl : SlotId} {s : State} (h : AtTurn s sl (.seq w)) {q : State → Prop} (hq : q (seqIssue w sl s)) :
    Completes (.seq w) s fun t => Issued s t sl ∧ TileFrame s t sl.tile ∧ q t :=
  have hb := begun_seqIssue (fun _ => False) h
  ⟨_, atSlot_turn h _, hb.issue, hb.toLeaves.frame, hq⟩


/-! ## BTOK (R197) -/

/-- A BARRIER token of a key. -/
def barrierTok (key : BitVec 16) (thr : BitVec 8) : VTok :=
  { valid := 0, wt := wOne, key := key, kind := kBarrier, fmt := 0, thr := thr, pay := 0 }

/-- BTOK emits a BARRIER token of its IMM16 and its head's thread. -/
theorem btok_emits {w : NWord} {sl : SlotId} {s : State} (h : AtTurn s sl (.btok w)) (hout : w.out = 1) :
    Completes (.btok w) s fun t => Issued s t sl ∧ TileFrame s t sl.tile ∧
      pipeOf t sl = pipeOf s sl ++ [results [(0, .vec (barrierTok w.imm (fireOf s sl (.node .btok w)).thr))]] := by
  have e : execBtok w s = .next _ := actNode_turn h _
  have hb := (btok_issues (fun _ => False) h).begun e
  refine ⟨_, e, hb.issue, hb.toLeaves.frame, ?_⟩
  rw [pipeOf_eq, slotAt_pushEms, slotAt_setLatch, hout, ← beginFire_pipe s sl (namedOnce (.node .btok w))]
  rfl

/-! ## EVPOST (R197) -/

/-- A record of a tile that a launch owns, as it stands in the launch's home. -/
theorem recT_of_owner {s : State} {u : TileId} {l : LaunchId} {x : Launch} (ho : ownerOf s u = some l) (hl : findLaunch s l = some x) (r : Rec) :
    recT s u r = raiseRec s (homeOf s l x) { r with row := u.row.val, col := u.col.val, ctx := x.lr.ctx, handle := l.handle } := by
  simp [recT, recL, ho, hl]

/-- The USER record of an EVPOST, under its launch's context and handle. -/
def userRec (w : NWord) (sl : SlotId) (f : Fire) (l : LaunchId) (x : Launch) : Rec :=
  { kind := 0x26, ctx := x.lr.ctx, row := sl.tile.row.val, col := sl.tile.col.val, thr := f.thr, tag := w.imm, handle := l.handle,
    p0 := f.a.pay.extractLsb' 0 64, p1 := f.a.pay.extractLsb' 64 64 }

theorem evpost_raises {w : NWord} {sl : SlotId} {s : State} {l : LaunchId} {x : Launch} (ho : ownerOf s sl.tile = some l) (hl : findLaunch s l = some x)
    (h : AtTurn s sl (.evpost w)) :
    Completes (.evpost w) s fun t => Issued s t sl ∧ TileFrame s t sl.tile ∧
      ∃ pre, (getCl t (homeOf s l x)).pend = pre ++ [userRec w sl (fireOf s sl (.node .evpost w)) l x] := by
  obtain ⟨ho', v, hv, hxv⟩ := launch_after_heads ho hl (namedOnce (.node .evpost w))
  have e : execEvpost w s = .next _ := actNode_turn h _
  have hb := (evpost_issues (fun _ => False) h).begun e
  refine ⟨_, e, hb.issue, hb.toLeaves.frame, ?_⟩
  rw [recT_of_owner ho' hv, hxv.lr, hxv.homeOf (beginFire_frame ..).2.2.1]
  exact ⟨_, congrArg Cluster.pend (getCl_updCl ..)⟩

/-! ## BARN (R197, R277) -/

/-- The first episode whose arrivals do not number EXPECT. -/
theorem claimEpisode_first {e : Nat} (he : e ≠ 0) (counts : List Nat) :
    counts.getD (claimEpisode e counts).1 0 < e ∧ ∀ j, j < (claimEpisode e counts).1 → e ≤ counts.getD j 0 := by
  induction counts with
  | nil => exact ⟨Nat.pos_of_ne_zero he, fun j hj => absurd hj (Nat.not_lt_zero j)⟩
  | cons n ns ih =>
    unfold claimEpisode
    split
    next hn => exact ⟨hn, fun j hj => absurd hj (Nat.not_lt_zero j)⟩
    next hn =>
      obtain ⟨hk, hj⟩ := ih
      refine ⟨hk, fun j hlt => ?_⟩
      cases j with
      | zero => exact Nat.not_lt.mp hn
      | succ j => exact hj j (Nat.lt_of_succ_lt_succ hlt)

theorem arriveBar_made {y : Barrier} (he : barExpect y ≠ 0) (before : Nat) (l : Option LaunchId) (thr : BitVec 8) :
    let k := (claimEpisode (barExpect y) y.counts).1
    ∃ z, arriveBar y y.ctx before l thr = .made z (y.gen + k) ∧ z.made = y.made ++ [⟨y.gen + k, before, l, thr⟩] ∧ z.arrived = y.arrived := by
  simp only [arriveBar, he, if_false, ne_eq, not_true_eq_false]
  exact ⟨_, rfl, rfl, rfl⟩

theorem getBar_of_coreView {x y : Cluster} (h : coreView x = coreView y) (b : Nat) : getBar x b = getBar y b := by
  have hb : x.bars = y.bars := (congrArg Cluster.bars h :)
  rw [getBar, hb]
  rfl

theorem getBar_setBar (s : State) (c : ClusterId) (b : Nat) (y : Barrier) : getBar (getCl (setBar s c b y) c) b = y := by simp [getBar, setBar]

theorem tileCtx_of_owner {s : State} {u : TileId} {l : LaunchId} {x : Launch} (ho : ownerOf s u = some l) (hl : findLaunch s l = some x) :
    tileCtx s u = x.lr.ctx := by simp [tileCtx, ho, hl]

theorem beginFire_barns (s : State) (sl : SlotId) (qs : List Nat) : (slotAt (beginFire s sl qs) sl).barns = (slotAt s sl).barns := by
  rw [slotAt_beginFire]

theorem slotAt_setBar (s : State) (c : ClusterId) (b : Nat) (y : Barrier) (sl : SlotId) : slotAt (setBar s c b y) sl = slotAt s sl := rfl

section
variable {w : NWord} {sl : SlotId} {s : State} {l : LaunchId} {x : Launch} (ho : ownerOf s sl.tile = some l) (hl : findLaunch s l = some x)
include ho hl

theorem barn_arrives (h : AtTurn s sl (.barn w)) :
    let c := clusterOf s sl.tile
    let b := w.imm.toNat % 512
    let y := getBar (getCl s c) b
    let f := fireOf s sl (.node .barn w)
    let k := (claimEpisode (barExpect y) y.counts).1
    barExpect y ≠ 0 → y.ctx = x.lr.ctx →
    Completes (.barn w) s fun t => Begun (· = c) sl s t ∧
      (getBar (getCl t c) b).made = y.made ++ [⟨y.gen + k, s.seq, some l, f.thr⟩] ∧ (getBar (getCl t c) b).arrived = y.arrived ∧
      (slotAt t sl).barns = (slotAt s sl).barns ++ [(f.thr, b, y.gen + k)] := by
  intro c b y f k he hc
  obtain ⟨ho', v, hv, hxv⟩ := launch_after_heads ho hl (namedOnce (.node .barn w))
  obtain ⟨z, hz, hmade, harr⟩ := arriveBar_made he s.seq (some l) f.thr
  have hcx : tileCtx (beginFire s sl (namedOnce (.node .barn w))) sl.tile = y.ctx := by rw [tileCtx_of_owner ho' hv, hxv.lr, hc]
  have hy : getBar (getCl (beginFire s sl (namedOnce (.node .barn w))) c) b = y := getBar_of_coreView (beginFire_coreView ..) b
  have e : execBarn w s = .next _ := actNode_turn h _
  simp only [beginFire_clusterOf, hcx, ho', (headsTaken_beginFire ..).seq] at e
  change execBarn w s = .next (match arriveBar (getBar (getCl _ c) b) y.ctx s.seq (some l) f.thr with | .bad _ => _ | .made _ _ => _) at e
  rw [hy, hz] at e
  refine ⟨_, e, (barn_issues h).begun e, ?_, ?_, ?_⟩
  · exact (congrArg Barrier.made (getBar_setBar ..)).trans hmade
  · exact (congrArg Barrier.arrived (getBar_setBar ..)).trans harr
  · rw [slotAt, getTile_updTile, getSlot_updSlot]
    exact congrArg (· ++ [(f.thr, b, y.gen + k)]) (beginFire_barns s sl (namedOnce (.node .barn w)))

end

/-! ## RELEASE (R277) -/

/-- A table whose every value is changed by a function of its key. -/
theorem aget_map_keyed {α : Type} (d : α) (m : Assoc α) (f : Nat → α → α) (i : Nat) (hd : f i d = d) :
    aget d (m.map fun (k, y) => (k, f k y)) i = f i (aget d m i) := by
  induction m with
  | nil => exact hd.symm
  | cons p m ih =>
    obtain ⟨k, y⟩ := p
    simp only [List.map_cons, aget]
    split
    next hk => rw [hk]
    next => exact ih

section
variable (b ep : Nat)

theorem getSlot_barnTile (x : Tile) (k : Nat) : getSlot (barnTile b ep x) k = barnSlot b ep (barnOut x k) (getSlot x k) :=
  aget_map_keyed _ _ (fun k y => barnSlot b ep (barnOut x k) y) k rfl

theorem barnSlot_barns (o : BitVec 4) (y : Slot) : (barnSlot b ep o y).barns = y.barns.filter fun e => !(decide (e.2.1 = b) && decide (e.2.2 ≤ ep)) := by
  simp only [barnSlot, List.partition_eq_filter_filter]
  rfl

theorem barnSlot_none_due {y : Slot} (h : ∀ e ∈ y.barns, (decide (e.2.1 = b) && decide (e.2.2 ≤ ep)) = false) (o : BitVec 4) : barnSlot b ep o y = y := by
  have hgo : y.barns.filter (fun e => decide (e.2.1 = b) && decide (e.2.2 ≤ ep)) = [] := List.filter_eq_nil_iff.mpr fun e he => by rw [h e he]; nofun
  have hstay : y.barns.filter (fun e => !(decide (e.2.1 = b) && decide (e.2.2 ≤ ep))) = y.barns := List.filter_eq_self.mpr fun e he => by rw [h e he]; rfl
  unfold barnSlot
  rw [List.partition_eq_filter_filter]
  change { y with barns := y.barns.filter fun e => !(decide (e.2.1 = b) && decide (e.2.2 ≤ ep)),
                  pipe := y.pipe ++ (y.barns.filter fun e => decide (e.2.1 = b) && decide (e.2.2 ≤ ep)).map _ } = y
  rw [hgo, hstay, List.map_nil, List.append_nil]

/-- The outputs that have gone out do not go out again. -/
theorem barnSlot_barnSlot (o o' : BitVec 4) (y : Slot) : barnSlot b ep o' (barnSlot b ep o y) = barnSlot b ep o y := by
  refine barnSlot_none_due b ep (fun e he => ?_) o'
  rw [barnSlot_barns] at he
  exact (Bool.not_eq_true' _).mp (List.mem_filter.mp he).2

theorem barnTile_barnTile (x : Tile) : barnTile b ep (barnTile b ep x) = barnTile b ep x := by
  simp only [barnTile, List.map_map]
  congr 1
  refine List.map_congr_left fun e _ => ?_
  simp only [Function.comp_apply, barnSlot_barnSlot]

/-- The one output that a BARN with OUT naming O0 owes. -/
theorem barnSlot_owed {y : Slot} {thr : BitVec 8} (h : y.barns = [(thr, b, ep)]) :
    (barnSlot b ep 1 y).barns = [] ∧ (barnSlot b ep 1 y).pipe = y.pipe ++
      [results [(0, .vec (barrierTok (BitVec.ofNat 16 b) thr))]] := by
  simp [barnSlot, h]
  rfl

end

/-- A tile lies in the rectangle of its physical cluster. -/
theorem mem_rectTiles_of_cluster (t : TileId) : t ∈ rectTiles t.die ((pclOf t).val / 8 * 8) ((pclOf t).val % 8 * 8) 8 8 := by
  obtain ⟨d, ⟨r, hr⟩, ⟨c, hc⟩⟩ := t
  simp only [rectTiles, List.mem_flatMap, List.mem_map, List.mem_range]
  have hp : (pclOf ⟨d, ⟨r, hr⟩, ⟨c, hc⟩⟩).val = r / 8 * 8 + c / 8 := by simp [pclOf, fin64]; omega
  rw [hp]
  refine ⟨r % 8, Nat.mod_lt _ (by decide), c % 8, Nat.mod_lt _ (by decide), ?_⟩
  simp only [TileId.mk.injEq, true_and, fin64, Fin.ext_iff, Fin.val_ofNat]
  omega

/-- The state in which a barrier has been released, its outputs still owed. -/
def releasedBar (s : State) (c : ClusterId) (b : Nat) : State :=
  let y := getBar (getCl s c) b
  updCl (setBar s c b { y with arrived := 0, reports := 0, gen := y.gen + 1, counts := y.counts.tail, sent := false, reporters := [] }) c
    fun x => { x with ef := true }

theorem releaseBar_eq (s : State) (c : ClusterId) (b : Nat) : releaseBar s c b =
    updTiles (releasedBar s c b) (rectTiles c.die ((pclOfLcl s c).val / 8 * 8) ((pclOfLcl s c).val % 8 * 8) 8 8) (barnTile b (getBar (getCl s c) b).gen) := rfl

theorem releaseBar_sameMem (s : State) (c : ClusterId) (b : Nat) : SameMem s (releaseBar s c b) := by
  rw [releaseBar_eq]
  exact SameMem.trans (b := releasedBar s c b) (.of_eq rfl rfl rfl rfl rfl) (updTiles_onlyTilesSlices ..).2.1

theorem getTile_releaseBar {s : State} {c : ClusterId} {u : TileId} (b : Nat) (hd : c.die = u.die) (hp : pclOfLcl s c = pclOf u) :
    getTile (releaseBar s c b) u = barnTile b (getBar (getCl s c) b).gen (getTile s u) := by
  rw [releaseBar_eq, getTile_updTiles fun x => barnTile_barnTile b _ x, hd, hp, if_pos (mem_rectTiles_of_cluster u)]
  rfl

theorem execRelease_due {s : State} {c : ClusterId} {b : Fin 512} (h : s.here = .barrier c b) (he : barExpect (getBar (getCl s c) b.val) ≠ 0)
    (ha : (getBar (getCl s c) b.val).arrived = barExpect (getBar (getCl s c) b.val)) (hs : barSpan (getBar (getCl s c) b.val) = false) :
    execRelease s = .next (releaseBar s c b.val) := by
  simp [execRelease, h, he, ha, hs]

/-- A release sends the one output that a BARN of its cluster owes for the episode. -/
theorem release_sends {w : NWord} {sl : SlotId} {s : State} {c : ClusterId} {b : Fin 512} {thr : BitVec 8} (h : s.here = .barrier c b)
    (hd : c.die = sl.tile.die) (hp : pclOfLcl s c = pclOf sl.tile) (he : barExpect (getBar (getCl s c) b.val) ≠ 0)
    (ha : (getBar (getCl s c) b.val).arrived = barExpect (getBar (getCl s c) b.val)) (hs : barSpan (getBar (getCl s c) b.val) = false)
    (hi : slotInstr (getTile s sl.tile) sl.slot.val = some (.barn w)) (hout : w.out = 1)
    (hbarns : (getSlot (getTile s sl.tile) sl.slot.val).barns = [(thr, b.val, (getBar (getCl s c) b.val).gen)]) :
    Completes .release s fun t => SameMem s t ∧ (getSlot (getTile t sl.tile) sl.slot.val).barns = [] ∧
      pipeOf t sl = pipeOf s sl ++ [results [(0, .vec (barrierTok (BitVec.ofNat 16 b.val) thr))]] := by
  have hsl : getSlot (getTile (releaseBar s c b.val) sl.tile) sl.slot.val =
      barnSlot b.val (getBar (getCl s c) b.val).gen 1 (getSlot (getTile s sl.tile) sl.slot.val) := by
    rw [getTile_releaseBar b.val hd hp, getSlot_barnTile, barnOut, hi, ← hout]
  obtain ⟨hnone, hpipe⟩ := barnSlot_owed b.val (getBar (getCl s c) b.val).gen hbarns
  refine ⟨_, execRelease_due h he ha hs, releaseBar_sameMem .., by rw [hsl, hnone], ?_⟩
  rw [pipeOf, hsl, hpipe]
  rfl

/-- Settles O21, node by node: what each does after its heads are taken, or SEQ by its step; and the release by what it makes of one slot. -/
theorem synchronisationNodes : Obligations.SynchronisationNodes := by
  unfold Obligations.SynchronisationNodes
  intro w sl s l x ho hl
  refine ⟨fun h ha hst hd => dsel_decides ho hl h rfl ha hst hd, ?_, fun h hout => ?_, evpost_raises ho hl,
    fun h he hc => ?_, fun c b thr hh hd hp he ha hs hi hout hbarns => ?_⟩
  · intro h hout f value emits n
    refine ⟨fun hn => completes_seq h ?_, fun n i taken thr hy => ⟨fun hs => completes_seq h ?_, fun hs => completes_seq h ?_⟩⟩
    · have hs := seqStep_start_of_idle hn (seqStep_of_want (canFire_instr h.2) (canFire_want h.2))
      rw [seqIssue_start hs]
      split
      · rw [pipeOf_eq, slotAt_seqEnd hout, ← beginFire_pipe s sl (seqStartHeads w)]
        rfl
      · exact ⟨congrArg Slot.node (slotAt_seqEmitted hout ..), seqEmitted_emits hout sl s _ 0 f.thr _ (beginFire_pipe ..)⟩
    · rw [seqIssue_emit hy hs]
      split
      · exact ⟨congrArg Slot.node (slotAt_seqEmitted hout ..), seqEmitted_emits hout sl s _ i thr _ (markIssue_pipe ..)⟩
      · rw [slotNode_eq, pipeOf_eq, slotAt_seqEnd hout, slotAt_setNode, ← markIssue_pipe s sl]
        exact ⟨rfl, rfl⟩
    · obtain ⟨qs, e⟩ := seqIssue_done hy hs
      rw [e, slotNode_eq, pipeOf_eq, latchOf_eq, slotAt_setNode, slotAt_beginFire]
      exact ⟨rfl, rfl, rfl⟩
  · obtain ⟨t, e, hi, hf, hp⟩ := btok_emits h hout
    exact ⟨t, e, hi, hf, _, hp, rfl, rfl, rfl⟩
  · obtain ⟨t, e, hb, hmade, harr, hbarns⟩ := barn_arrives ho hl h he hc
    obtain ⟨hk, hj⟩ := claimEpisode_first he (getBar (getCl s (clusterOf s sl.tile)) (w.imm.toNat % 512)).counts
    exact ⟨t, e, hb.issue, hb.mem, hb.tiles, hb.cores, hb.dies, _, hk, hj, hmade, harr, hbarns⟩
  · obtain ⟨t, e, hm, hn, hp⟩ := release_sends hh hd hp he ha hs hi hout hbarns
    exact ⟨t, e, hm, hn, _, hp, rfl, rfl, rfl, rfl⟩

end Sys2Proof.Machine
end

section
/-! PROOFS. The posts of a core about bindings, planes and modules (R177 to R183, R189, R190, R198, R257 to R261): each gives a status or does what it asks
for, and goes on to the next word. -/
namespace Sys2Proof.Machine
open Sys2Proof

/-! ## A post that gives a value -/

/-- What a post of a core leaves of the other cores, the tiles, the package and its own registers before it gives its value. -/
structure PostStep (c : ClusterId) (s t : State) : Prop where
  cores : SameCoresBut s t (· = c)
  tiles : t.tiles = s.tiles
  package : SamePackage s t
  regs : (getCl t c).regs = (getCl s c).regs

/-- A step of the tables of launches and dies alone. -/
theorem PostStep.of_tables {c : ClusterId} {s t : State} (hc : t.clusters = s.clusters) (ht : t.tiles = s.tiles) (hp : SamePackage s t) :
    PostStep c s t :=
  have hg : ∀ e, getCl t e = getCl s e := fun e => by rw [getCl, hc]; rfl
  ⟨fun e _ => by rw [hg], ht, hp, by rw [hg]⟩

theorem PostStep.refl (c : ClusterId) (s : State) : PostStep c s s := .of_tables rfl rfl (.refl s)
theorem postStep_setLaunch (c : ClusterId) (s : State) (l : LaunchId) (y : Launch) : PostStep c s (setLaunch s l y) := .of_tables rfl rfl (.refl s)
theorem postStep_updDie (c : ClusterId) (s : State) (d : Fin 4) (f : Die → Die) : PostStep c s (updDie s d f) := .of_tables rfl rfl (.refl s)

section
variable {c : ClusterId} {s t : State}

/-- The value of a post in its register, and the next pc. -/
theorem giveX_regs_of_step (h : (getCl t c).regs = (getCl s c).regs) (r : Fin 32) (v pc : Word) : SameRegsBut s (giveX t c r v pc) c r := fun q hq => by
  rw [giveX_regs t c r v pc q hq, getX, getX, h]

/-- A post that takes a step of its own and gives a value. -/
theorem completes_gives {i : Instr} {r : Fin 32} {v pc : Word} (e : exec i s = .next (giveX t c r v pc)) (h : PostStep c s t) {q : State → Prop}
    (hq : q (giveX t c r v pc)) :
    Completes i s fun u => SameCoresBut s u (· = c) ∧ u.tiles = s.tiles ∧ SamePackage s u ∧ (getCl u c).pc = pc ∧ SameRegsBut s u c r ∧
      (r ≠ 0 → getX (getCl u c) r = v) ∧ q u := by
  obtain ⟨-, htiles, -, -, -, hcores, hpkg⟩ := giveX_onlyCore t c r v pc
  exact ⟨_, e, h.cores.trans hcores, htiles.trans h.tiles, h.package.trans hpkg, giveX_pc .., giveX_regs_of_step h.regs r v pc, giveX_getX _ _ _ _ _, hq⟩

/-- Nothing but the core's register and pc has changed. -/
theorem giveX_still (s : State) (c : ClusterId) (r : Fin 32) (v pc : Word) :
    SameMem s (giveX s c r v pc) ∧ (giveX s c r v pc).launches = s.launches ∧ (giveX s c r v pc).dies = s.dies ∧
      specialView (getCl (giveX s c r v pc) c) = specialView (getCl s c) := by
  obtain ⟨hmem, -, hlaunches, -, hdies, -, hview, -, -⟩ := giveX_coreFrame s c r v pc
  exact ⟨hmem, hlaunches, hdies, hview⟩

theorem getDie_giveX (s : State) (c : ClusterId) (r : Fin 32) (v pc : Word) (d : Fin 4) : getDie (giveX s c r v pc) d = getDie s d := rfl

/-- A status given, and nothing else. -/
theorem completes_refuses {i : Instr} {r : Fin 32} {v pc : Word} {n : Nat} (e : exec i s = .next (giveX s c r (status n) pc)) (hv : status n = v) :
    Completes i s fun u => SameCoresBut s u (· = c) ∧ u.tiles = s.tiles ∧ SamePackage s u ∧ (getCl u c).pc = pc ∧ SameRegsBut s u c r ∧
      (r ≠ 0 → getX (getCl u c) r = v) ∧
      SameMem s u ∧ u.launches = s.launches ∧ u.dies = s.dies ∧ specialView (getCl u c) = specialView (getCl s c) := by
  subst hv
  exact completes_gives e (.refl c s) (giveX_still ..)

/-- One launch changed, and of the core its register and pc. -/
theorem giveX_setLaunch_onLaunch (s : State) (c : ClusterId) (l : LaunchId) (y : Launch) (r : Fin 32) (v pc : Word) :
    let t := giveX (setLaunch s l y) c r v pc
    SameMem s t ∧ SameLaunchesBut s t l ∧ findLaunch t l = some y ∧ specialView (getCl t c) = specialView (getCl s c) := by
  obtain ⟨hmem, -, -, hview⟩ := giveX_still (setLaunch s l y) c r v pc
  exact ⟨SameMem.trans (b := setLaunch s l y) (.of_eq rfl rfl rfl rfl rfl) hmem, fun k hk => findLaunch_setLaunch_other _ _ hk, findLaunch_setLaunch ..,
    hview⟩

end

theorem status_one : status 1 = -1 := by decide
theorem status_three : status 3 = -3 := by decide
theorem status_four : status 4 = -4 := by decide

/-- A launch that a core may name by a handle is one of the machine's. -/
theorem findLaunch_of_myLaunch {s : State} {c : ClusterId} {a : Word} {l : LaunchId} {y : Launch} (h : myLaunch s c a = some (l, y)) :
    findLaunch s l = some y := by
  unfold myLaunch at h
  dsimp only at h
  split at h
  next z hz =>
    split at h
    · cases h
      exact hz
    · cases h
  · cases h

/-- The state in which a post has given a value, after a step of its own. -/
def posted (w : CWord) (s : State) (c : ClusterId) (t : State) (v : Word) : State := giveX t c w.xd v ((getCl s c).pc + coreSize w.long)

/-- A launch whose binding of a port has been closed. -/
def closedAt (y : Launch) (p : Nat) : Launch := { y with streams := aupd {} y.streams p fun z => { z with closed := true } }

theorem getStream_closedAt (y : Launch) (p : Nat) : getStream (closedAt y p) p = { getStream y p with closed := true } := by
  simp [getStream, closedAt, aupd]

/-- The load that a CFGLD asks for. -/
def postedLoad (w : CWord) (c : ClusterId) (pc : Word) (y : Launch) : Load :=
  { pc := pc, plane := Fin.ofNat 4 w.imm.toNat, cfgld := true, deferred := y.active = some (Fin.ofNat 4 w.imm.toNat), core := some c }

/-- The fields that an RSW of one command asks for, at the tiles of every copy (R190). -/
def rswFields (l : LaunchId) (y : Launch) (p : Fin 4) (i j fn : Nat) (v : BitVec 16) : List (Nat × Nat × BitVec 16) :=
  ((copyTiles l y (getPlane y p.val).fh (getPlane y p.val).fw).filter fun e => e.2.1 = i && e.2.2 = j).map fun e => (tileKey e.1, fn, v)

theorem rswFields_value {l : LaunchId} {y : Launch} {p : Fin 4} {i j fn : Nat} {v : BitVec 16} : ∀ g ∈ rswFields l y p i j fn v, g.2 = (fn, v) := by
  intro g hg
  obtain ⟨e, -, rfl⟩ := List.mem_map.mp hg
  rfl

/-- Whether the fields of an RSW, written at the tiles that they name, pass the checks of a block (R141). -/
def rswFits (s : State) (l : LaunchId) (y : Launch) (p : Fin 4) (fs : List (Nat × Nat × BitVec 16)) : Bool :=
  (copyTiles l y (getPlane y p.val).fh (getPlane y p.val).fw).all fun (t, _, _) =>
    !(fs.any fun e => e.1 = tileKey t) || boxesOk (withFields (getTile s t) p.val (tileKey t) fs) p.val

theorem rswFits_of_boxesOk {s : State} {l : LaunchId} {y : Launch} {p : Fin 4} {fs : List (Nat × Nat × BitVec 16)}
    (h : ∀ e ∈ copyTiles l y (getPlane y p.val).fh (getPlane y p.val).fw, boxesOk (withFields (getTile s e.1) p.val (tileKey e.1) fs) p.val = true) :
    rswFits s l y p fs = true := by
  refine List.all_eq_true.mpr fun e he => ?_
  have hb := h e he
  obtain ⟨t, i, j⟩ := e
  simp only [hb, Bool.or_true]

/-! ## Posts about a launch (R180, R189, R190, R260) -/

section
variable {w : CWord} {c : ClusterId} {s : State} (h : CoreTurn s c w)
include h

section
variable (hm : myLaunch s c (getX (getCl s c) w.xa) = none)
include hm

theorem sclose_noLaunch : execSclose w s = .next (posted w s c s (status 3)) := by rw [execSclose, atCore_turn h, hm]; rfl
theorem cfgld_noLaunch : execCfgld w s = .next (posted w s c s (status 3)) := by rw [execCfgld, atCore_turn h, hm]; rfl
theorem rsw_noLaunch : execRsw w s = .next (posted w s c s (status 3)) := by rw [execRsw, atCore_turn h, hm]; rfl
theorem dselc_noLaunch : execDselc w s = .next (posted w s c s (status 3)) := by rw [execDselc, atCore_turn h, hm]; rfl

end

variable {l : LaunchId} {y : Launch} (hm : myLaunch s c (getX (getCl s c) w.xa) = some (l, y))
include hm

theorem sclose_unbound (hp : (getStream y (w.imm.toNat % 16)).words = []) : execSclose w s = .next (posted w s c s (status 1)) := by
  rw [execSclose, atCore_turn h, hm]
  simp only [hp]
  rfl

theorem sclose_closes (hp : (getStream y (w.imm.toNat % 16)).words ≠ []) :
    execSclose w s = .next (posted w s c (setLaunch s l (closedAt y (w.imm.toNat % 16))) 0) := by
  rw [execSclose, atCore_turn h, hm]
  simp only [List.isEmpty_iff, hp, if_false, updStream, updLaunch_of_find (findLaunch_of_myLaunch hm)]
  rfl

theorem cfgld_noRegion (hc : y.corner = none) : execCfgld w s = .next (posted w s c s (status 1)) := by
  rw [execCfgld, atCore_turn h, hm]
  simp only [hc]
  rfl

theorem cfgld_loads (hc : y.corner ≠ none) :
    execCfgld w s = .next (posted w s c (setLaunch s l { y with loads := y.loads ++ [postedLoad w c (getX (getCl s c) w.xb) y] }) 0) := by
  rw [execCfgld, atCore_turn h, hm]
  simp only [Option.isNone_iff_eq_none, hc, if_false]
  rfl

theorem rsw_noPlane (ha : y.active = none) : execRsw w s = .next (posted w s c s (status 1)) := by
  rw [execRsw, atCore_turn h, hm]
  simp only [ha]
  rfl

theorem dselc_noPlane (ha : y.active = none) : execDselc w s = .next (posted w s c s (status 1)) := by
  rw [execDselc, atCore_turn h, hm]
  simp only [ha]
  rfl

theorem dselc_decides {p : Fin 4} (ha : y.active = some p) (hd : y.decided = false) (hp : Fin.ofNat 4 w.imm.toNat ≠ p)
    (hst : (getPlane y (w.imm.toNat % 4)).st ≠ .invalid) :
    execDselc w s = .next (posted w s c (setLaunch s l (decidedFor y (Fin.ofNat 4 w.imm.toNat))) 0) := by
  have hne : y.active ≠ some (Fin.ofNat 4 w.imm.toNat) := fun e => hp (Option.some.inj (e.symm.trans ha))
  have hn : y.active.isNone = false := by rw [ha]; rfl
  rw [execDselc, atCore_turn h, hm]
  simp only [hn, Bool.false_eq_true, if_false]
  rw [decidePlane_first (findLaunch_of_myLaunch hm) hne hd hst]
  rfl

section
variable {p : Fin 4} {i j fn : Nat} {v : BitVec 16} (ha : y.active = some p) (h1 : w.imm.getLsbD 1 = false)
  (hr : rswCmd ((getX (getCl s c) w.xb).setWidth 32) = some (i, j, fn, v))
include ha h1 hr

/-- R190: a command outside the block gives -1. -/
theorem rsw_outside (ho : ¬ (i < (getPlane y p.val).fh ∧ j < (getPlane y p.val).fw)) : execRsw w s = .next (posted w s c s (status 1)) := by
  rw [BitVec.setWidth_eq_extractLsb' (by decide)] at hr
  rw [execRsw, atCore_turn h, hm]
  simp only [ha, h1, Bool.false_eq_true, if_false, List.map_cons, List.map_nil, hr, List.all_cons, List.all_nil, Bool.and_true, ho, decide_false,
    Bool.not_false, if_true]
  rfl

/-- R190: a command inside the block that nothing refuses waits as the region's pending one. -/
theorem rsw_waits (hi : i < (getPlane y p.val).fh ∧ j < (getPlane y p.val).fw) (hn : y.rsws = []) (hf : rswFits s l y p (rswFields l y p i j fn v) = true) :
    execRsw w s = .next (posted w s c (setLaunch s l { y with rsws := [⟨w.imm.getLsbD 0, p, rswFields l y p i j fn v⟩] }) 0) := by
  rw [BitVec.setWidth_eq_extractLsb' (by decide)] at hr
  rw [rswFits, rswFields] at hf
  rw [execRsw, atCore_turn h, hm]
  simp only [ha, h1, Bool.false_eq_true, if_false, List.map_cons, List.map_nil, hr, List.all_cons, List.all_nil, Bool.and_true, hi.1, hi.2, and_self,
    decide_true, Bool.not_true, hn, List.filter_nil, List.flatMap_nil, List.nil_append, List.flatMap_cons, List.append_nil, hf]
  rfl

end
end

/-! ## SBIND (R260, R261) -/

/-- The port that a descriptor names (R261). -/
def descPort (ws : List Word) : Nat := (ws.getD 3 0).toNat / 256 % 16

/-- The word of a record that names the binding of a port (R25). -/
def bindWord (rec_ : Word) (port : Nat) : Word := rec_ + word (0x80 + 8 * port)

theorem fld_descPort (ws : List Word) : fld (ws.getD 3 0) 11 8 = descPort ws := by
  rw [fld_eq_div_mod]
  rfl

/-- The CTX of a record (R25). -/
theorem fld_ctx_iff (v : Word) (ctx : BitVec 12) : fld v 51 40 = ctx.toNat ↔ v.extractLsb' 40 12 = ctx := by
  rw [fld_eq_div_mod, ← BitVec.toNat_inj, BitVec.extractLsb'_toNat, Nat.shiftRight_eq_div_pow]

section
variable {w : CWord} {c : ClusterId} {s : State} {ws rs : List Word} (h : CoreTurn s c w)
include h

theorem sbind_misaligned (ha : (getX (getCl s c) w.xa).toNat % 64 ≠ 0) : execSbind w s = .next (posted w s c s (status 1)) := withDesc_misaligned h 1 _ ha
theorem modld_misaligned (ha : (getX (getCl s c) w.xa).toNat % 64 ≠ 0) : execModld w s = .next (posted w s c s (status 1)) := withDesc_misaligned h 1 _ ha

variable (ha : (getX (getCl s c) w.xa).toNat % 64 = 0) (hd : readDesc c 1 (getX (getCl s c) w.xa) s = .words ws s)
include ha hd

theorem sbind_bad (hb : (getX (getCl s c) w.xb).toNat % 64 ≠ 0 ∨ descOk (descPort ws) ws = false) : execSbind w s = .next (posted w s c s (status 1)) := by
  have hc : fld (getX (getCl s c) w.xb) 5 0 ≠ 0 ∨ (!descOk (descPort ws) ws) = true := hb.imp (by rw [fld_low6]; exact id) fun e => by rw [e]; rfl
  rw [execSbind, withDesc_words h 1 _ ha hd]
  simp only [fld_descPort, if_pos hc]
  rfl

variable (hb : (getX (getCl s c) w.xb).toNat % 64 = 0) (hok : descOk (descPort ws) ws = true) (hr : readDesc c 1 (getX (getCl s c) w.xb) s = .words rs s)
include hb hok hr

theorem sbind_otherContext (hm : (getCl s c).mode = false) (hx : (rs.getD 2 0).extractLsb' 40 12 ≠ (getCl s c).ctx) :
    execSbind w s = .next (posted w s c s (status 3)) := by
  have hx' : fld (rs.getD 2 0) 51 40 ≠ (getCl s c).ctx.toNat := mt (fld_ctx_iff ..).mp hx
  rw [execSbind, withDesc_words h 1 _ ha hd]
  simp only [fld_descPort, fld_low6, hb, hok, hr, hm, ne_eq, hx', not_true_eq_false, not_false_eq_true, Bool.not_true, Bool.not_false,
    Bool.false_eq_true, or_self, and_self, if_false, if_true]
  rfl

theorem sbind_binds (hx : (getCl s c).mode = true ∨ (rs.getD 2 0).extractLsb' 40 12 = (getCl s c).ctx)
    (hlo : (bindWord (getX (getCl s c) w.xb) (descPort ws)).toNat < 0x40000) (hl : locTrap (getCl s c) (bindWord (getX (getCl s c) w.xb) (descPort ws)) 8 = none) :
    execSbind w s = .next (posted w s c
      (coreStore s c (bindWord (getX (getCl s c) w.xb) (descPort ws)) .loc (bytesOf 8 (getX (getCl s c) w.xa).toNat)) 0) := by
  have hx' : ¬ ((!(getCl s c).mode) = true ∧ fld (rs.getD 2 0) 51 40 ≠ (getCl s c).ctx.toNat) := by
    rintro ⟨h1, h2⟩
    rcases hx with e | e
    · rw [e] at h1
      cases h1
    · exact h2 ((fld_ctx_iff ..).mpr e)
  have hs := withStore_loc s (fun wh => .done (putX (coreStore s c (bindWord (getX (getCl s c) w.xb) (descPort ws)) wh
    (bytesOf 8 (getX (getCl s c) w.xa).toNat)) c w.xd 0)) hlo hl (c := c)
  rw [bindWord] at hs ⊢
  rw [execSbind, withDesc_words h 1 _ ha hd]
  simp only [fld_descPort, fld_low6, hb, hok, hr, ne_eq, not_true_eq_false, Bool.not_true, Bool.false_eq_true, or_self, if_false, if_neg hx']
  exact congrArg (fun r => Host.Outcome.next (coreNext w s c r)) hs

end

/-! ## Modules (R176, R181, R182) -/

section
variable {w : CWord} {c : ClusterId} {s : State} (h : CoreTurn s c w)
include h

section
variable {ws : List Word} (ha : (getX (getCl s c) w.xa).toNat % 64 = 0) (hd : readDesc c 1 (getX (getCl s c) w.xa) s = .words ws s)
  (hsb : (getCl s c).sb = [])
include ha hd hsb

theorem modld_bad (hp : parseModule ws = none) : execModld w s = .next (posted w s c s (status 1)) := by
  rw [execModld, withDesc_words h 1 _ ha hd]
  simp only [hsb, hp]
  rfl

/-- A module put in the table of a die, its lines gone from the configuration caches (R176). -/
def moduleLoaded (s : State) (c : ClusterId) (k : Nat) (m : Module) : State :=
  cfgInvalidate (updDie s c.die fun y => { y with modules := aset y.modules k m }) c.die m.ctx m.base m.size

theorem modld_loads {base : Word} {size k : Nat} (hp : parseModule ws = some (base, size, false)) (hfree : ∀ e ∈ (getDie s c.die).modules, e.2.st = 0)
    (hk : (List.range 256).find? (fun k => decide ((aget ({} : Module) (getDie s c.die).modules k).st = 0)) = some k)
    (hg : (aget ({} : Module) (getDie s c.die).modules k).gen + 1 ≠ 0) :
    let m : Module := { st := modLoaded, gen := (aget ({} : Module) (getDie s c.die).modules k).gen + 1, ctx := (getCl s c).ctx,
                        base := base, size := size, cl := c.lcl }
    execModld w s = .next (posted w s c (moduleLoaded s c k m) (word (k * 65536 + m.gen.toNat))) := by
  have hany : ((getDie s c.die).modules.any fun (_, m) => decide (m.st = modLoaded ∧ m.ctx = (getCl s c).ctx ∧ m.base.toNat < base.toNat + size ∧
      base.toNat < m.base.toNat + m.size)) = false :=
    List.any_eq_false.mpr fun e he => by simp [hfree e he, modLoaded]
  rw [execModld, withDesc_words h 1 _ ha hd]
  simp only [hsb, hp, hany, hk, hg, List.isEmpty_nil, Bool.not_true, Bool.false_eq_true, if_false]
  rfl

end

theorem modul_none (hm : modOf (getDie s c.die) (getX (getCl s c) w.xa) = none) : execModul w s = .next (posted w s c s (status 3)) := by
  rw [execModul, atCore_turn h, hm]
  rfl

variable {k : Nat} {m : Module} (hm : modOf (getDie s c.die) (getX (getCl s c) w.xa) = some (k, m)) (hx : (getCl s c).mode = true ∨ m.ctx = (getCl s c).ctx)
include hm hx

theorem modul_unloading (hs : m.st = modUnloading) : execModul w s = .next (posted w s c s (status 4)) := by
  have hc : (!(getCl s c).mode && decide (m.ctx ≠ (getCl s c).ctx)) = false := by rcases hx with e | e <;> simp [e]
  rw [execModul, atCore_turn h, hm]
  simp only [hc, hs, Bool.false_eq_true, if_false, if_true]
  rfl

theorem modul_unloads (hs : m.st ≠ modUnloading) : execModul w s = .next (posted w s c
    (updDie s c.die fun y => { y with modules := aset y.modules k { m with st := modUnloading } }) 0) := by
  have hc : (!(getCl s c).mode && decide (m.ctx ≠ (getCl s c).ctx)) = false := by rcases hx with e | e <;> simp [e]
  rw [execModul, atCore_turn h, hm]
  simp only [hc, hs, Bool.false_eq_true, if_false]
  rfl

end

/-! ### Lines leave the configuration caches (R176) -/

/-- Whether a line of a configuration cache lies outside a context's range of addresses. -/
def lineOutside (ctx : BitVec 12) (base : Word) (size : Nat) (l : CacheLine) : Bool :=
  !(l.ctx = ctx && decide (base.toNat ≤ 64 * l.line ∧ 64 * l.line < base.toNat + size))

/-- A cluster of a die with only the lines outside a range in its L2. -/
def linesLeft (d : Fin 4) (ctx : BitVec 12) (base : Word) (size k : Nat) (x : Cluster) : Cluster :=
  if k / 64 = d.val then { x with l2 := x.l2.filter (lineOutside ctx base size) } else x

section
variable (s : State) (d : Fin 4) (ctx : BitVec 12) (base : Word) (size : Nat)

theorem linesLeft_regs (k : Nat) (x : Cluster) : (linesLeft d ctx base size k x).regs = x.regs := by
  unfold linesLeft
  split <;> rfl

theorem cfgInvalidate_clusters :
    (cfgInvalidate s d ctx base size).clusters = s.clusters.map fun (k, x) => (k, linesLeft d ctx base size k x) := by
  unfold cfgInvalidate
  dsimp only
  refine List.map_congr_left fun e _ => ?_
  unfold linesLeft
  split <;> rfl

theorem getCl_cfgInvalidate (e : ClusterId) : getCl (cfgInvalidate s d ctx base size) e = linesLeft d ctx base size (clKey e) (getCl s e) := by
  rw [getCl, cfgInvalidate_clusters]
  exact aget_map_keyed _ _ _ _ (by unfold linesLeft; split <;> rfl)

theorem cfgInvalidate_modules : (getDie (cfgInvalidate s d ctx base size) d).modules = (getDie s d).modules := by
  unfold cfgInvalidate
  exact (congrArg Die.modules (getDie_setDie s d { getDie s d with l3 := _ }) :)

end

section
variable (s : State) (c : ClusterId) (k : Nat) (m : Module)

theorem moduleLoaded_regs : (getCl (moduleLoaded s c k m) c).regs = (getCl s c).regs := by
  rw [moduleLoaded, getCl_cfgInvalidate, linesLeft_regs]
  rfl

theorem moduleLoaded_sameMem : SameMem s (moduleLoaded s c k m) := .of_eq rfl rfl rfl rfl rfl
theorem moduleLoaded_modules : (getDie (moduleLoaded s c k m) c.die).modules = aset (getDie s c.die).modules k m := by
  rw [moduleLoaded, cfgInvalidate_modules, updDie, getDie_setDie]

end

/-! ## CPF (R180) -/

/-- A fetch of configuration lines leaves the tiles, the launches and every core's registers. -/
structure FetchStep (s t : State) : Prop where
  tiles : t.tiles = s.tiles
  launches : t.launches = s.launches
  regs : ∀ e, (getCl t e).regs = (getCl s e).regs

theorem FetchStep.refl (s : State) : FetchStep s s := ⟨rfl, rfl, fun _ => rfl⟩
theorem FetchStep.trans {a b d : State} (h : FetchStep a b) (k : FetchStep b d) : FetchStep a d :=
  ⟨k.tiles.trans h.tiles, k.launches.trans h.launches, fun e => (k.regs e).trans (h.regs e)⟩

/-- A cluster changed elsewhere than in its registers. -/
theorem fetchStep_updCl (s : State) (c : ClusterId) {f : Cluster → Cluster} (hf : ∀ x, (f x).regs = x.regs) : FetchStep s (updCl s c f) :=
  ⟨rfl, rfl, fun e => by
    by_cases he : e = c
    · subst he
      rw [getCl_updCl, hf]
    · rw [getCl_updCl_other _ _ he]⟩

theorem fetchStep_updDie (s : State) (d : Fin 4) (f : Die → Die) : FetchStep s (updDie s d f) := ⟨rfl, rfl, fun _ => rfl⟩

theorem fetchStep_markAcc (s : State) (d : Fin 4) (ctx : BitVec 12) (o : Option Nat) : FetchStep s (markAcc s d ctx o) := by
  cases o <;> exact ⟨rfl, rfl, fun _ => rfl⟩

theorem SameTables.fetchStep {s t : State} (h : SameTables s t) : FetchStep s t := by
  obtain ⟨ht, hl, hc⟩ := h
  exact ⟨ht, hl, fun e => by rw [getCl, hc]; rfl⟩

theorem fetchStep_cfgLine (s : State) (c : ClusterId) (l2 : Bool) (es : List (Nat × RangeEntry)) (ctx : BitVec 12) (va : Word) :
    FetchStep s (cfgLine s c l2 es ctx va).1 := by
  have fill2 : ∀ (e : CacheLine) (z : State), FetchStep s z → FetchStep s (if l2 then updCl z c fun x => { x with l2 := cfgPut 2 e x.l2 } else z) :=
    fun e z hz => by
      split
      · exact hz.trans (fetchStep_updCl z c fun _ => rfl)
      · exact hz
  unfold cfgLine
  dsimp only
  split
  · exact fill2 _ _ (.refl s)
  split
  · exact fill2 _ _ (fetchStep_updDie ..)
  split
  · exact fill2 _ _ (((touch_sameTables ..).fetchStep.trans (fetchStep_markAcc ..)).trans (fetchStep_updDie ..))
  · exact .refl s

theorem fetchStep_cfgLines (c : ClusterId) (l2 : Bool) (es : List (Nat × RangeEntry)) (ctx : BitVec 12) (n : Nat) (va : Word) (s : State) :
    FetchStep s (cfgLines c l2 es ctx n va s).1 := by
  induction n generalizing va s with
  | zero => exact .refl s
  | succ n ih =>
    have h := fetchStep_cfgLine s c l2 es ctx va
    unfold cfgLines
    split
    next e => rwa [e] at h
    next s1 _ _ e =>
      rw [e] at h
      have k := ih (va + 64) s1
      split
      next e' => rw [e'] at k; exact h.trans k
      next e' => rw [e'] at k; exact h.trans k

theorem fetchStep_countLinesCl (s : State) (c : ClusterId) (ctx : BitVec 12) (ks : List Nat) : FetchStep s (countLinesCl s c ctx ks) :=
  ks.foldlRecOn _ (motive := FetchStep s) (.refl s) fun z hz k _ => hz.trans (by
    unfold countCluster
    dsimp only
    split
    · exact .refl z
    · exact fetchStep_updCl z c (f := fun x => { x with ctrs := _ }) fun _ => rfl)

theorem fetchStep_countCl (s : State) (c : ClusterId) (n : Nat) : FetchStep s (countCl s c n) := fetchStep_updCl s c fun _ => rfl

/-- CPF is done whatever its lines give, and leaves every register. -/
theorem cpf_fetches {w : CWord} {c : ClusterId} {s : State} (h : CoreTurn s c w) :
    ∃ t, execCpf w s = .next (setPc t c ((getCl s c).pc + coreSize w.long)) ∧ FetchStep s t := by
  rw [execCpf, atCore_turn h]
  have hdrop := fetchStep_countCl s c cntCpf
  dsimp only
  split
  · exact ⟨_, rfl, hdrop⟩
  have hline := fetchStep_cfgLine s c (!w.imm.getLsbD 0) (coreTable (getCl s c)) (getCl s c).ctx (getX (getCl s c) w.xa)
  split
  · exact ⟨_, rfl, hdrop⟩
  next s1 _ _ e =>
    rw [e] at hline
    split
    · exact ⟨_, rfl, hline.trans (fetchStep_countLinesCl ..)⟩
    next n _ =>
      have hlines := fetchStep_cfgLines c (!w.imm.getLsbD 0) (coreTable (getCl s c)) (getCl s c).ctx ((4 * n + 63) / 64) (getX (getCl s c) w.xa + 64) s1
      split
      · exact ⟨_, rfl, hdrop⟩
      next e' =>
        rw [e'] at hlines
        exact ⟨_, rfl, (hline.trans hlines).trans (fetchStep_countLinesCl ..)⟩

/-! ## The posts together -/

theorem coreStore_loc_regs (s : State) (c : ClusterId) (a : Word) (bs : List Byte) : (getCl (coreStore s c a .loc bs) c).regs = (getCl s c).regs := by
  rw [coreStore, getCl_updCl]

/-- A binding, by a store of local memory, of a word of a record. -/
theorem locWord_posted_coreStore (w : CWord) (s : State) (c : ClusterId) (a v v' : Word) :
    locWord (getCl (posted w s c (coreStore s c a .loc (bytesOf 8 v.toNat)) v') c) a.toNat = v := by
  rw [posted, getCl_giveX, coreStore, getCl_updCl]
  refine (locWord_of_loc (setX_loc ..)).trans ((locWord_writeBytes ..).trans ?_)
  rw [word, BitVec.ofNat_toNat, BitVec.setWidth_eq]

/-- Settles O48, post by post: what each gives by its operands, and of SCLOSE, CFGLD, RSW and DSELC by the launch that the handle names. -/
theorem configurationPosts : Obligations.ConfigurationPosts := by
  unfold Obligations.ConfigurationPosts
  intro w c s h x a b after gives still onLaunch
  refine ⟨fun hm => ?_, fun l y hm => ⟨?_, ?_, ?_, ?_, ?_⟩, fun ha => ?_, fun ws rs ha hd => ⟨?_, ?_, ?_, ?_⟩, ?_, ?_, ?_⟩
  · exact ⟨completes_refuses (sclose_noLaunch h hm) status_three, completes_refuses (cfgld_noLaunch h hm) status_three,
      completes_refuses (rsw_noLaunch h hm) status_three, completes_refuses (dselc_noLaunch h hm) status_three⟩
  · dsimp only
    split
    next hp => exact completes_refuses (sclose_unbound h hm hp) status_one
    next hp => exact completes_gives (i := .sclose w) (sclose_closes h hm hp) (postStep_setLaunch ..) ⟨_, giveX_setLaunch_onLaunch .., getStream_closedAt ..⟩
  · split
    next hc => exact completes_refuses (cfgld_noRegion h hm hc) status_one
    next hc =>
      exact completes_gives (i := .cfgld w) (cfgld_loads h hm hc) (postStep_setLaunch ..)
        ⟨postedLoad w c b y, giveX_setLaunch_onLaunch .., rfl, rfl, rfl⟩
  · intro p ha hd hp hst
    exact completes_gives (i := .dselc w) (dselc_decides h hm ha hd hp hst) (postStep_setLaunch ..) (giveX_setLaunch_onLaunch ..)
  · exact fun ha => ⟨completes_refuses (rsw_noPlane h hm ha) status_one, completes_refuses (dselc_noPlane h hm ha) status_one⟩
  · intro p i j fn v ha h1 hr
    refine ⟨fun ho => completes_refuses (rsw_outside h hm ha h1 hr ho) status_one, fun hi hj hn hf => ?_⟩
    have hfit : rswFits s l y p (rswFields l y p i j fn v) = true := rswFits_of_boxesOk fun e he => hf e he _ rswFields_value
    exact completes_gives (i := .rsw w) (rsw_waits h hm ha h1 hr ⟨hi, hj⟩ hn hfit) (postStep_setLaunch ..) ⟨_, giveX_setLaunch_onLaunch .., rswFields_value⟩
  · exact ⟨completes_refuses (sbind_misaligned h ha) status_one, completes_refuses (modld_misaligned h ha) status_one⟩
  · exact fun hb => completes_refuses (sbind_bad h ha hd hb) status_one
  · refine fun hb hok hr => ⟨fun hm hx => completes_refuses (sbind_otherContext h ha hd hb hok hr hm hx) status_three, fun hx hlo hl => ?_⟩
    have hs := coreStore_onlyCore_loc s c (bindWord b (descPort ws)) (bytesOf 8 a.toNat)
    obtain ⟨hmem, htiles, hlaunches, -, -, hcores, hpkg⟩ := hs.trans (giveX_onlyCore _ c w.xd 0 after)
    obtain ⟨-, hstiles, -, -, -, hscores, hspkg⟩ := hs
    exact completes_gives (i := .sbind w) (sbind_binds h ha hd hb hok hr hx hlo hl) ⟨hscores, hstiles, hspkg, coreStore_loc_regs ..⟩
      ⟨hmem, hlaunches, locWord_posted_coreStore w s c (bindWord b (descPort ws)) a 0⟩
  · exact fun hsb hp => completes_refuses (modld_bad h ha hd hsb hp) status_one
  · intro base size k hsb hp hfree hk gen hg
    refine ⟨_, modld_loads h ha hd hsb hp hfree hk hg, ?_, rfl, rfl, giveX_pc .., giveX_regs_of_step (moduleLoaded_regs ..) _ _ _, giveX_getX _ _ _ _ _, ?_⟩
    · exact (moduleLoaded_sameMem ..).trans (giveX_onlyCore ..).1
    · rw [posted, getDie_giveX, moduleLoaded_modules, aget_aset_same]
  · exact fun hm => completes_refuses (modul_none h hm) status_three
  · intro k m hm hx
    split
    next hs => exact completes_refuses (modul_unloading h hm hx hs) status_four
    next hs =>
      refine completes_gives (i := .modul w) (modul_unloads h hm hx hs) (postStep_updDie ..) ⟨.of_eq rfl rfl rfl rfl rfl, rfl, ?_⟩
      rw [getDie_giveX, updDie, getDie_setDie, aget_aset_same]
  · obtain ⟨t, e, ht⟩ := cpf_fetches h
    refine ⟨_, e, ?_, ?_, ht.tiles, ht.launches⟩
    · exact (congrArg Cluster.regs (getCl_updCl ..)).trans (ht.regs c)
    · exact congrArg Cluster.pc (getCl_updCl ..)

end Sys2Proof.Machine
end

section
/-! PROOFS. What reset leaves (R203, R264, R266, R267, R305): memory in canonical form, and every core with the values of an unlisted cluster. -/
namespace Sys2Proof.Machine

/-! ## Reset -/

/-- A cluster that nothing has written. -/
@[simp] theorem getCl_reset (c : ClusterId) : getCl State.reset c = {} := rfl

theorem canonical_reset : Canonical State.reset := ⟨reset_memory_wf, rfl, rfl⟩

theorem readBytes_nil (a n : Nat) : readBytes [] a n = List.replicate n 0 := by
  induction n generalizing a with
  | zero => rfl
  | succ n ih => rw [readBytes, ih, List.replicate_succ]; rfl

/-- Every field of an unlisted range entry is 0. -/
theorem rangeField_default (f : Nat) : rangeField {} f = 0 := by
  unfold rangeField
  split
  · rfl
  · split
    · rfl
    · split <;> rfl

theorem regRead_range (s : State) (c : ClusterId) {n : Nat} (h : 0x100 ≤ n) (h' : n ≤ 0x1FF) :
    regRead s c n = rangeField (aget {} (getCl s c).ranges ((n - 0x100) / 4)) (n % 4) := by
  have hown : ¬ n < 0x100 := by omega
  simp [regRead, hown, within, h, h']

/-- No record is held or lost in an unlisted cluster. -/
theorem eqstat_default (s : State) (c : ClusterId) : coreReg s c {} 0x011 = 0 := by simp [coreReg, word]

/-- Settles O8: each table of an unlisted cluster is empty, so each register reads as its default. -/
theorem resetLeaves : Obligations.ResetLeaves := by
  refine ⟨canonical_reset, fun c => ⟨rfl, rfl, rfl, rfl, rfl, eqstat_default State.reset c, fun n h h' => ?_, fun _ _ => rfl, fun _ _ _ => readBytes_nil _ _⟩⟩
  rw [regRead_range _ _ h h']
  exact rangeField_default _

end Sys2Proof.Machine
end

section
/-! PROOFS. The memory nodes that make no access of their own (R210, R211, R247, R256): AGEN's pass, CJOIN's count, BKGIVE's place in its port queue. -/
namespace Sys2Proof.Machine
open Sys2Proof

/-! ## A tile's port -/

/-- A tile's port is as before: its queue, its limits, its copies of range entries. -/
def SamePort (u : TileId) (s t : State) : Prop := (getTile t u).port = (getTile s u).port

theorem SamePort.trans {u : TileId} {a b c : State} (h : SamePort u a b) (k : SamePort u b c) : SamePort u a c := Eq.trans k h

section
variable (u : TileId) (s : State)

theorem SamePort.refl : SamePort u s s := rfl

theorem SamePort.foldl {β : Type} {f : State → β → State} (h : ∀ s x, SamePort u s (f s x)) (l : List β) : SamePort u s (l.foldl f s) :=
  l.foldlRecOn f (motive := SamePort u s) (.refl u s) fun _ ht x _ => ht.trans (h _ x)

theorem SamePort.of_tiles {t : State} (h : t.tiles = s.tiles) : SamePort u s t := congrArg Tile.port (getTile_of_tiles h u)

theorem setTile_samePort {x : Tile} (h : x.port = (getTile s u).port) : SamePort u s (setTile s u x) := by rwa [SamePort, getTile_setTile]

theorem countTile_samePort (ev q : Nat) : SamePort u s (countTile s u ev q) := (congrArg Tile.port (getTile_countTile s u ev q) :)

theorem recFirst_samePort (r : Rec) : SamePort u s (recFirst s u r) := by
  unfold recFirst
  split
  · exact .refl u s
  · refine SamePort.trans ?_ (.of_tiles u _ (recT_tiles ..))
    exact setTile_samePort u s rfl

theorem inexact_samePort (thr : BitVec 8) : SamePort u s (inexact s u thr) := .of_tiles u s (inexact_tiles ..)

theorem takeQ_samePort (q : Nat) : SamePort u s (takeQ s u q) := by
  unfold takeQ putQ
  exact (setTile_samePort u s (x := setQ (getTile s u) q _) rfl).trans (.of_tiles u _ (scratch_tiles ..))

theorem takeHead_samePort (q : Nat) : SamePort u s (takeHead s u q) := by
  have h : SamePort u s (takeQ s u q) := takeQ_samePort ..
  unfold takeHead
  dsimp only
  split
  · exact .refl u s
  split
  next v _ =>
    have k : SamePort u s (if v.kind = kGap then inexact (takeQ s u q) u v.thr else takeQ s u q) := by
      split
      · exact h.trans (inexact_samePort ..)
      · exact h
    split
    · exact (k.trans (countTile_samePort ..)).trans (recFirst_samePort ..)
    · exact k
  · exact h

end

theorem thrMix_samePort (s : State) (sl : SlotId) (x : Tile) (qs : List Nat) : SamePort sl.tile s (thrMix s sl x qs) := by
  unfold thrMix
  split
  · exact .refl ..
  split
  · exact .refl ..
  · exact (countTile_samePort ..).trans (recFirst_samePort ..)

theorem beginFire_samePort (s : State) (sl : SlotId) (qs : List Nat) : SamePort sl.tile s (beginFire s sl qs) := by
  refine ((thrMix_samePort s sl (getTile s sl.tile) qs).trans (.foldl _ _ (fun s q => takeHead_samePort sl.tile s q) qs)).trans ?_
  exact setTile_samePort _ _ rfl

theorem pushPipe_samePort (s : State) (sl : SlotId) (f : Firing) : SamePort sl.tile s (pushPipe s sl f) := setTile_samePort _ _ rfl

theorem pushEms_samePort (s : State) (sl : SlotId) (es : List (Fin 4 × Tok)) : SamePort sl.tile s (pushEms s sl es) := by
  unfold pushEms
  split
  · exact .refl ..
  · exact pushPipe_samePort ..

/-- A write of a port leaves the queue of its tile's port, whichever fills it overtakes (R242). -/
theorem staleFills_samePort (s : State) (t : TileId) (a : Access) : SamePort t s (staleFills s t a) := by
  unfold staleFills
  split
  · split <;> exact .refl ..
  · exact .refl ..

/-- An access enters its port queue at the tail (R240). -/
theorem enterPort_queue (s : State) (sl : SlotId) (a : Access) :
    (getTile (enterPort s sl a) sl.tile).port.queue = (getTile s sl.tile).port.queue ++ [a] := by
  have h := congrArg Port.queue (staleFills_samePort s sl.tile a)
  unfold enterPort
  dsimp only
  split
  · rw [pushEms_samePort, getTile_updTile, ← h]
  split
  · rw [pushPipe_samePort, getTile_updTile, ← h]
  · rw [getTile_updTile, ← h]

/-! ## AGEN (R247) -/

theorem and_not_63 (a : Word) : a &&& ~~~63 = word (a.toNat / 64 * 64) := by
  have h63 (i : Nat) : Nat.testBit 63 i = decide (i < 6) := Nat.testBit_two_pow_sub_one 6 i
  apply BitVec.eq_of_getLsbD_eq
  intro i hi
  have hw : (word (a.toNat / 64 * 64)).getLsbD i = (decide (6 ≤ i) && a.getLsbD i) := by
    rw [word, BitVec.getLsbD_ofNat, Nat.testBit_mul_two_pow (i := 6), Nat.testBit_div_two_pow (n := 6)]
    by_cases h : 6 ≤ i <;> simp [hi, h, BitVec.testBit_toNat]
  rw [hw, BitVec.getLsbD_and, BitVec.getLsbD_not, show (63 : Word) = BitVec.ofNat 64 63 from rfl, BitVec.getLsbD_ofNat, h63]
  by_cases h : i < 6
  · simp [hi, h]
  · simp [hi, h, Nat.not_lt.mp h, Bool.and_comm]

/-- The addresses of an AGEN firing (R247): how many, the first, and the stride; from A alone where B is ZERO. -/
def passCount (w : MWord) (f : Fire) : Nat := if w.sb = .zero then fld (lowPair f.a.pay) 63 48 else fld (lowPair f.b.pay) 63 32
def passBase (w : MWord) (f : Fire) : Word := if w.sb = .zero then word (fld (lowPair f.a.pay) 47 6 * 64) else lowPair f.a.pay &&& ~~~63
def passStride (w : MWord) (f : Fire) : Int := if w.sb = .zero then 1 else sint 32 (fld (lowPair f.b.pay) 31 0)

theorem passCount_eq (w : MWord) (f : Fire) : passCount w f =
    if w.sb = .zero then (lowPair f.a.pay).toNat / 2 ^ 48 else (lowPair f.b.pay).toNat / 2 ^ 32 := by
  have ha := (lowPair f.a.pay).isLt
  have hb := (lowPair f.b.pay).isLt
  unfold passCount
  split <;> rw [fld_eq_div_mod, Nat.mod_eq_of_lt (by omega)]

theorem passBase_of_zero {w : MWord} (h : w.sb = .zero) (f : Fire) :
    passBase w f = word ((lowPair f.a.pay).toNat % 2 ^ 48 / 64 * 64) := by
  have e : (lowPair f.a.pay).toNat / 2 ^ 6 % 2 ^ 42 = (lowPair f.a.pay).toNat % 2 ^ 48 / 64 := by omega
  rw [passBase, if_pos h, fld_eq_div_mod, e]

theorem passBase_of_ne_zero {w : MWord} (h : w.sb ≠ .zero) (f : Fire) : passBase w f = word ((lowPair f.a.pay).toNat / 64 * 64) := by
  rw [passBase, if_neg h, and_not_63]

theorem sint_32_low (b : Word) : sint 32 (fld b 31 0) = (b.setWidth 32).toInt := by
  have e : (b.setWidth 32).toNat = fld b 31 0 := by simp [fld_eq_div_mod]
  rw [BitVec.toInt_eq_toNat_cond, e, sint]
  congr 1
  simp; omega

section
variable {w : MWord} {sl : SlotId} {s : State}

theorem execAgen_turn (h : AtTurn s sl (.agen w)) :
    let f := fireOf s sl (.mem .agen w)
    let z := beginFire s sl (namedOnce (.mem .agen w))
    execAgen w s = .next (if passCount w f = 0 then z else setNode z sl (.agen (passCount w f) 0 (passBase w f) (passStride w f) f.thr [])) := by
  intro f z
  rw [execAgen, atSlot_turn h]
  unfold passCount passBase passStride
  by_cases hb : w.sb = .zero <;> simp only [hb, if_true, if_false] <;> rfl

theorem agen_begins (h : AtTurn s sl (.agen w)) :
    let a := lowPair (fireOf s sl (.mem .agen w)).a.pay
    let b := lowPair (fireOf s sl (.mem .agen w)).b.pay
    Completes (.agen w) s fun t => Issued s t sl ∧ TileFrame s t sl.tile ∧
      (w.sb = .zero → a.toNat / 2 ^ 48 ≠ 0 →
        slotNode t sl = .agen (a.toNat / 2 ^ 48) 0 (word (a.toNat % 2 ^ 48 / 64 * 64)) 1 (fireOf s sl (.mem .agen w)).thr []) ∧
      (w.sb ≠ .zero → b.toNat / 2 ^ 32 ≠ 0 →
        slotNode t sl = .agen (b.toNat / 2 ^ 32) 0 (word (a.toNat / 64 * 64)) (b.setWidth 32).toInt (fireOf s sl (.mem .agen w)).thr []) ∧
      ((if w.sb = .zero then a.toNat / 2 ^ 48 else b.toNat / 2 ^ 32) = 0 → slotNode t sl = slotNode s sl) := by
  intro a b
  have hn := passCount_eq w (fireOf s sl (.mem .agen w))
  have he := execAgen_turn h
  have hb := (agen_issues (fun _ => False) h).begun he
  refine ⟨_, he, hb.issue, hb.toLeaves.frame, fun hz h0 => ?_, fun hz h0 => ?_, fun h0 => ?_⟩
  · rw [if_pos hz] at hn
    rw [if_neg (hn ▸ h0), slotNode_eq, slotAt_setNode, hn, passBase_of_zero hz, passStride, if_pos hz]
  · rw [if_neg hz] at hn
    rw [if_neg (hn ▸ h0), slotNode_eq, slotAt_setNode, hn, passBase_of_ne_zero hz, passStride, if_neg hz, sint_32_low]
  · rw [if_pos (hn.trans h0), beginFire_node]

/-! ## CJOIN (R256) -/

/-- The firings that a CJOIN has counted. -/
def joinCount (n : NodeSt) : Nat := match n with | .cjoin n => n | _ => 0

theorem execCjoin_turn (h : AtTurn s sl (.cjoin w)) :
    let f := fireOf s sl (.mem .cjoin w)
    let z := beginFire s sl (namedOnce (.mem .cjoin w))
    execCjoin w s = .next (if joinCount (slotNode s sl) + 1 = w.imm.toNat
      then pushEms (setLatch (setNode z sl (.cjoin 0)) sl f.a) sl (emsOf w.out { f.a with thr := f.thr })
      else setNode z sl (.cjoin (joinCount (slotNode s sl) + 1))) := atSlot_turn h _

theorem cjoin_counts (h : AtTurn s sl (.cjoin w)) {n : Nat} (hn : slotNode s sl = .cjoin n ∨ slotNode s sl = .idle ∧ n = 0) (ho : w.out ≠ 0) :
    Completes (.cjoin w) s fun t => Issued s t sl ∧ TileFrame s t sl.tile ∧
      let f := fireOf s sl (.mem .cjoin w)
      if n + 1 = w.imm.toNat then slotNode t sl = .cjoin 0 ∧ pipeOf t sl = pipeOf s sl ++ [results (emsOf w.out { f.a with thr := f.thr })]
      else slotNode t sl = .cjoin (n + 1) ∧ pipeOf t sl = pipeOf s sl := by
  have hcount : joinCount (slotNode s sl) = n := by
    obtain hn | ⟨hn, rfl⟩ := hn <;> rw [hn] <;> rfl
  have he := execCjoin_turn h
  rw [hcount] at he
  have hb := (cjoin_issues (fun _ => False) h).begun he
  have hp := beginFire_pipe s sl (namedOnce (.mem .cjoin w))
  rw [pipeOf_eq] at hp
  refine ⟨_, he, hb.issue, hb.toLeaves.frame, ?_⟩
  dsimp only
  split
  · rw [slotNode_eq, pipeOf_eq, slotAt_pushEms, slotAt_setLatch, slotAt_setNode, hp, if_neg (emsOf_ne_nil ho _)]
    exact ⟨rfl, rfl⟩
  · rw [slotNode_eq, pipeOf_eq, slotAt_setNode, hp]
    exact ⟨rfl, rfl⟩

/-! ## BKGIVE (R210, R211) -/

/-- The give of a firing: in place of an address it has its bank's byte offset. -/
def giveOf (s : State) (sl : SlotId) (w : MWord) : Access :=
  { accessOf s sl .bkgive w (fireOf s sl (.mem .bkgive w)) with ea := word (w.imm.toNat % 16 * 131072) }

theorem execBkgive_turn (h : AtTurn s sl (.bkgive w)) : execBkgive w s =
    .next (enterPort { beginFire s sl (namedOnce (.mem .bkgive w)) with seq := s.seq + 1 } sl (giveOf s sl w)) := atSlot_turn h _

theorem bkgive_parks (h : AtTurn s sl (.bkgive w)) :
    Completes (.bkgive w) s fun t => Issued s t sl ∧ TileFrame s t sl.tile ∧
      ∃ a : Access, (getTile t sl.tile).port.queue = (getTile s sl.tile).port.queue ++ [a] ∧ a.op = .bkgive ∧ a.w = w ∧
        a.thr = (fireOf s sl (.mem .bkgive w)).thr ∧ a.ea = word (w.imm.toNat % 16 * 131072) := by
  have hb := (bkgive_issues (fun _ => False) h).begun (execBkgive_turn h)
  refine ⟨_, execBkgive_turn h, hb.issue, hb.toLeaves.frame, giveOf s sl w, (enterPort_queue ..).trans ?_, rfl, rfl, rfl, rfl⟩
  exact congrArg (fun p : Port => p.queue ++ _) (beginFire_samePort s sl _)

end

/-- Settles O24: each node's firing takes its heads, and then does what its own lemma says. -/
theorem addressAndJoinNodes : Obligations.AddressAndJoinNodes :=
  fun _ _ _ => ⟨agen_begins, fun h _ hn ho => cjoin_counts h hn ho, bkgive_parks⟩

end Sys2Proof.Machine
end

section
/-! PROOFS. AGEN_EMIT (R209, R247): one address of a pass, to the ports of OUT, and the token of the bank that gates it. -/
namespace Sys2Proof.Machine
open Sys2Proof

/-! ## What an emission leaves -/

/-- The token of an address (R247). -/
def addrTok (a : Word) (thr : BitVec 8) : VTok := { valueTok a thr with fmt := 12 }

theorem lowPair_addrTok (a : Word) (thr : BitVec 8) : lowPair (addrTok a thr).pay = a := by
  apply BitVec.eq_of_getLsbD_eq
  intro i hi
  simp [lowPair, addrTok, valueTok, hi, show i < 512 by omega]

/-- A pass after its i-th of n addresses. -/
def passAfter (n i : Nat) (base : Word) (stride : Int) (thr : BitVec 8) (banks : List Nat) : NodeSt :=
  if i + 1 < n then .agen n (i + 1) base stride thr banks else .idle

/-- A pass's address sent: in the latch, and on the ports of OUT. -/
def sendAddr (w : MWord) (sl : SlotId) (a : Word) (thr : BitVec 8) (next : NodeSt) (s : State) : State :=
  pushEms (setNode (setLatch (noteEmit s sl) sl (addrTok a thr)) sl next) sl (emsOf w.out (addrTok a thr))

section
variable (w : MWord) (sl : SlotId) (a : Word) (thr : BitVec 8) (next : NodeSt) (s : State)

theorem slotAt_noteEmit : slotAt (noteEmit s sl) sl = slotAt s sl := by simp [slotAt, noteEmit, getSlot]

theorem slotAt_sendAddr : slotAt (sendAddr w sl a thr next s) sl =
    { slotAt s sl with latch := addrTok a thr, node := next,
                       pipe := (slotAt s sl).pipe ++ (if emsOf w.out (addrTok a thr) = [] then [] else [results (emsOf w.out (addrTok a thr))]) } := by
  rw [sendAddr, slotAt_pushEms, slotAt_setNode, slotAt_setLatch, slotAt_noteEmit]

theorem sendAddr_frame : TileFrame s (sendAddr w sl a thr next s) sl.tile :=
  (((updTile_frame ..).trans (setLatch_frame ..)).trans (setNode_frame ..)).trans (pushEms_frame ..)

end

theorem sint_16_toNat (b : BitVec 16) : sint 16 b.toNat = b.toInt := by
  rw [BitVec.toInt_eq_toNat_cond, sint]
  congr 1
  simp; omega

/-- The bank tokens of a pass once it has taken the one that gates an address, where it had to (R209). -/
def banksAfter (banks : List Nat) : Option Nat → List Nat
  | none => banks
  | some b => if banks.contains b then banks else b :: banks

/-- The token of the bank taken from its cluster. -/
def takeBank (s : State) (c : ClusterId) (banks : List Nat) : Option Nat → State
  | none => s
  | some b => if banks.contains b then s else updCl s c fun y => { y with bktok := y.bktok &&& ~~~(1#32 <<< b) }

/-- What taking a bank's token leaves of the clusters. -/
def BankTaken (s t : State) (c : ClusterId) (banks : List Nat) : Option Nat → Prop
  | some b => if banks.contains b then SameCores s t else SameCoresBut s t (· = c) ∧ (getCl t c).bktok = (getCl s c).bktok &&& ~~~(1#32 <<< b)
  | none => SameCores s t

theorem bktok_of_coreView {x y : Cluster} (h : coreView x = coreView y) : x.bktok = y.bktok := (congrArg Cluster.bktok h :)

theorem takeBank_taken {s t : State} {c : ClusterId} {banks : List Nat} {o : Option Nat} (h : SameCores (takeBank s c banks o) t) :
    BankTaken s t c banks o := by
  cases o with
  | none => exact h
  | some b =>
    by_cases hc : banks.contains b = true
    · simp only [takeBank, BankTaken, if_pos hc] at h ⊢
      exact h
    · simp only [takeBank, BankTaken, if_neg hc] at h ⊢
      refine ⟨fun e he => (h e id).trans ?_, (bktok_of_coreView (h c id)).trans ?_⟩
      · rw [getCl_updCl_other _ _ he]
      · rw [getCl_updCl]

theorem slotAt_takeBank (s : State) (c : ClusterId) (banks : List Nat) (o : Option Nat) (sl : SlotId) :
    slotAt (takeBank s c banks o) sl = slotAt s sl := by
  unfold takeBank
  split
  · rfl
  · split <;> rfl

theorem takeBank_onlyCore (s : State) (c : ClusterId) (banks : List Nat) (o : Option Nat) : OnlyCore s (takeBank s c banks o) c := by
  unfold takeBank
  split
  · exact .refl s c
  · split
    · exact .refl s c
    · exact updCl_onlyCore ..

/-! ## AGEN_EMIT -/

section
variable {s : State} {sl : SlotId} {w : MWord} {n i : Nat} {base : Word} {stride : Int} {thr : BitVec 8} {banks : List Nat}
  (hh : s.here = .slot sl) (hi : slotInstr (getTile s sl.tile) sl.slot.val = some (.agen w))
  (hn : slotNode s sl = .agen n i base stride thr banks) (hg : gateClosed s sl.tile = false)
  (ho : heldOn (getTile s sl.tile) (.mem .agen w) = none) (ht : tileHalted s sl.tile (getTile s sl.tile) = false)
  (hu : afind (getTile s sl.tile).used (slotEmit sl.slot.val) ≠ some s.clock)
  (hb : ∀ b, agenBank w (agenAddr w base stride i) = some b → banks.contains b = false → (getCl s (clusterOf s sl.tile)).bktok.getLsbD b = true)
include hh hi hn hg ho ht hu hb

theorem execAgenEmit_sends : execAgenEmit s = .next (sendAddr w sl (agenAddr w base stride i) thr
    (passAfter n i base stride thr (banksAfter banks (agenBank w (agenAddr w base stride i))))
    (takeBank s (clusterOf s sl.tile) banks (agenBank w (agenAddr w base stride i)))) := by
  have hn' : (getSlot (getTile s sl.tile) sl.slot.val).node = .agen n i base stride thr banks := hn
  simp only [execAgenEmit, hh, hi, hn', hg, ho, ht, decide_eq_false hu, Option.isSome_none, Bool.or_self, Bool.false_eq_true, if_false]
  cases hbank : agenBank w (agenAddr w base stride i) with
  | none => rfl
  | some b =>
    cases hc : banks.contains b with
    | true => simp only [banksAfter, takeBank, hc, if_true]; rfl
    | false => simp only [banksAfter, takeBank, hc, hb b hbank hc, Bool.false_eq_true, if_true, if_false]; rfl

theorem agenEmit_emits :
    Completes .agenEmit s fun t =>
      (latchOf t sl).kind = kData ∧ (latchOf t sl).thr = thr ∧ lowPair (latchOf t sl).pay = agenAddr w base stride i ∧ (latchOf t sl).fmt = 12 ∧
      (w.out ≠ 0 → pipeOf t sl = pipeOf s sl ++ [results (emsOf w.out (latchOf t sl))]) ∧
      BankTaken s t (clusterOf s sl.tile) banks (agenBank w (agenAddr w base stride i)) ∧
      (n ≤ i + 1 → slotNode t sl = .idle) ∧ (i + 1 < n → ∃ bs, slotNode t sl = .agen n (i + 1) base stride thr bs) ∧
      SameMem s t ∧ SameTilesBut s t (· = sl.tile) ∧ SamePackage s t := by
  obtain ⟨hm, ht', -, -, -, -, hp⟩ := takeBank_onlyCore s (clusterOf s sl.tile) banks (agenBank w (agenAddr w base stride i))
  obtain ⟨km, kc, -, kt, kp⟩ := sendAddr_frame w sl (agenAddr w base stride i) thr (passAfter n i base stride thr (banksAfter banks (agenBank w (agenAddr w base stride i))))
    (takeBank s (clusterOf s sl.tile) banks (agenBank w (agenAddr w base stride i)))
  have hs := slotAt_sendAddr w sl (agenAddr w base stride i) thr (passAfter n i base stride thr (banksAfter banks (agenBank w (agenAddr w base stride i))))
    (takeBank s (clusterOf s sl.tile) banks (agenBank w (agenAddr w base stride i)))
  rw [slotAt_takeBank] at hs
  refine ⟨_, execAgenEmit_sends hh hi hn hg ho ht hu hb, ?_⟩
  dsimp only
  rw [latchOf_eq, pipeOf_eq, slotNode_eq, hs]
  refine ⟨rfl, rfl, lowPair_addrTok .., rfl, fun hw => ?_, takeBank_taken kc, fun h => if_neg (by omega), fun h => ⟨_, if_pos h⟩, hm.trans km,
    fun u hu => (kt u hu).trans (getTile_of_tiles ht' u), hp.trans kp⟩
  dsimp only
  rw [if_neg (emsOf_ne_nil hw _)]
  rfl

end

/-- Settles O28: the emission is `sendAddr`, after its bank's token is taken where one gates the address. -/
theorem passEmitsItsAddresses : Obligations.PassEmitsItsAddresses := by
  intro s sl w n i base stride thr banks hh hi hn hg ho ht hu
  have ha : base + BitVec.ofInt 64 (64 * (w.imm.toInt + stride * i)) = agenAddr w base stride i := by rw [agenAddr, sint_16_toNat]
  rw [ha]
  intro a c hb
  obtain ⟨t, he, h1, h2, h3, h4, h5, h6, h7⟩ := agenEmit_emits hh hi hn hg ho ht hu hb
  exact ⟨t, he, h1, h2, h3, h4, h5, by unfold BankTaken at h6; exact h6, h7⟩

end Sys2Proof.Machine
end

section
/-! PROOFS. Writes of ring, slice, window, barrier and range registers as system mode makes them (R205, R206, R233, R236, R276, R305). -/
namespace Sys2Proof.Machine
open Sys2Proof

/-! ## The move of a register, and the writer of each range of numbers -/

theorem within_iff {n lo hi : Nat} : within n lo hi = true ↔ lo ≤ n ∧ n ≤ hi := by simp [within]

theorem within_of_le {n lo hi : Nat} (h : lo ≤ n) (h' : n ≤ hi) : within n lo hi = true := within_iff.mpr ⟨h, h'⟩

theorem within_of_not {n lo hi : Nat} (h : n < lo ∨ hi < n) : within n lo hi = false := by simp [within]; omega

/-- The moves that stand for a register's write. -/
theorem registerMove_writes {i : Instr} {ok : Nat → Word → Bool} (hi : ∀ s, exec i s = atRegister ok s) {s : State} {c : ClusterId} {reg : BitVec 16}
    {v : Word} (h : s.here = .register c reg v) (ha : regAssigned reg.toNat = true) (hok : ok reg.toNat v = true) (hp : reg.toNat < 0xE00) :
    exec i s = .next (backToMode s (regWrite (asSystem s c) c reg.toNat v) c) := by
  rw [hi, atRegister_writes h ha hok, regWriteSys_of_ne_pwr s c v (by omega)]

section
variable {n : Nat}

theorem regAssigned_range (h : 0x100 ≤ n) (h' : n ≤ 0x1FF) : regAssigned n = true := by simp [regAssigned, regSys, within_of_le h h']
theorem regAssigned_ring (h : 0x200 ≤ n) (h' : n ≤ 0x21F) : regAssigned n = true := by
  simp [regAssigned, regBoth, within_of_le h (show n ≤ 0x220 by omega)]
theorem regAssigned_slarea (h : 0x300 ≤ n) (h' : n ≤ 0x31F) : regAssigned n = true := by simp [regAssigned, regBoth, within_of_le h h']
theorem regAssigned_swin (h : 0x400 ≤ n) (h' : n ≤ 0x4FF) : regAssigned n = true := by simp [regAssigned, regBoth, within_of_le h h']
theorem regAssigned_barcfg (h : 0x800 ≤ n) (h' : n ≤ 0x9FF) : regAssigned n = true := by
  simp [regAssigned, regBoth, within_of_le h (show n ≤ 0xBFF by omega)]

variable (s : State) (c : ClusterId) (v : Word)

theorem regWrite_range (h : 0x100 ≤ n) (h' : n ≤ 0x1FF) : regWrite s c n v = updCl s c fun x => rangeWrite x ((n - 0x100) / 4) (n % 4) v := by
  rw [regWrite, if_neg (by omega), if_pos (within_of_le h h')]

theorem regWrite_ring (h : 0x200 ≤ n) (h' : n ≤ 0x21F) : regWrite s c n v = ringWrite s c n v := by
  rw [regWrite, if_neg (by omega), within_of_not (by omega), if_neg Bool.false_ne_true, if_neg (by omega), if_pos (within_of_le h h')]

theorem regWrite_slarea (h : 0x300 ≤ n) (h' : n ≤ 0x31F) : regWrite s c n v = slareaWrite s c n v := by
  have hlow (lo hi : Nat) (k : hi < 0x300) : within n lo hi = false := within_of_not (by omega)
  simp [regWrite, hlow, within_of_le h h', show ¬ n < 0x100 by omega, show n ≠ 0x220 by omega]

theorem regWrite_swin (h : 0x400 ≤ n) (h' : n ≤ 0x4FF) : regWrite s c n v = swinWrite s c n v := by
  have hlow (lo hi : Nat) (k : hi < 0x400) : within n lo hi = false := within_of_not (by omega)
  simp [regWrite, hlow, within_of_le h h', show ¬ n < 0x100 by omega, show n ≠ 0x220 by omega]

theorem regWrite_barcfg (h : 0x800 ≤ n) (h' : n ≤ 0x9FF) : regWrite s c n v = barcfgWrite s c (n - 0x800) v := by
  have hlow (lo hi : Nat) (k : hi < 0x800) : within n lo hi = false := within_of_not (by omega)
  simp [regWrite, hlow, within_of_le h h', show ¬ n < 0x100 by omega, show n ≠ 0x220 by omega]

end

theorem getCl_asSystem (s : State) (c : ClusterId) : getCl (asSystem s c) c = { getCl s c with mode := true } := getCl_updCl ..

/-- A field up to a word's top bit. -/
theorem fld_top (v : Word) (lo : Nat) (h : lo ≤ 64) : fld v 63 lo = v.toNat / 2 ^ lo := by
  have hv : v.toNat < 2 ^ lo * 2 ^ (64 - lo) := by rw [← pow_add, Nat.add_sub_cancel' h]; exact v.isLt
  rw [fld_eq_div_mod, Nat.mod_eq_of_lt (Nat.div_lt_of_lt_mul hv)]

/-- A cluster with one more record raised in it. -/
def raised (kind n : Nat) (v : Word) (x : Cluster) : Cluster := { x with pend := x.pend ++ [{ kind := kind, ctx := x.ctx, p0 := word n, p1 := v }] }

theorem refuseReg_eq (s : State) (c : ClusterId) (kind n : Nat) (v : Word) : refuseReg s c kind n v = updCl s c (raised kind n v) := rfl

theorem refuseReg_completes (s : State) (c : ClusterId) (kind n : Nat) (v : Word) :
    OnlyCore s (backToMode s (refuseReg (asSystem s c) c kind n v) c) c ∧
    getCl (backToMode s (refuseReg (asSystem s c) c kind n v) c) c = raised kind n v (getCl s c) :=
  backToMode_updCl s c (raised kind n v)

/-! ## RGEOM and RPTR (R205, R206) -/

/-- A value that RGEOM takes. -/
def GeomFits (v : Word) : Prop :=
  v.toNat / 2 ^ 49 = 0 ∧ v.toNat / 2 ^ 32 % 2 ^ 16 ≠ 0 ∧ v.toNat / 2 ^ 16 % 2 ^ 16 ≠ 0 ∧
  v.toNat / 2 ^ 16 % 2 ^ 16 % (v.toNat / 2 ^ 32 % 2 ^ 16) = 0 ∧ v.toNat % 2 ^ 16 + v.toNat / 2 ^ 16 % 2 ^ 16 ≤ 32768

/-- A ring with the geometry of a value, empty. -/
def withGeom (v : Word) (r : Ring) : Ring :=
  { r with few := v.getLsbD 48, tsz := v.toNat / 2 ^ 32 % 2 ^ 16, size := v.toNat / 2 ^ 16 % 2 ^ 16, base := v.toNat % 2 ^ 16, head := 0, tail := 0 }

theorem geomFits_iff (v : Word) : GeomFits v ↔
    fld v 63 49 = 0 ∧ fld v 47 32 ≠ 0 ∧ fld v 31 16 ≠ 0 ∧ fld v 31 16 % fld v 47 32 = 0 ∧ fld v 15 0 + fld v 31 16 ≤ 32768 := by
  simp only [GeomFits, fld_top v 49 (by omega), fld_eq_div_mod, Nat.reduceAdd, Nat.reduceSub, Nat.pow_zero, Nat.div_one]

section
variable (s : State) (c : ClusterId) {n : Nat} {v : Word}

theorem ringWrite_takes (hn : n % 2 = 0) (hi : ringIdle (getCl s c) ((n - 0x200) / 2) = true) (hv : GeomFits v) :
    ringWrite s c n v = updCl s c fun x => setRing x ((n - 0x200) / 2) (withGeom v (getRing x ((n - 0x200) / 2))) := by
  have hfit := (geomFits_iff v).mp hv
  simp only [ringWrite, hn, if_true]
  rw [if_pos ⟨hi, hfit⟩]
  simp only [withGeom, wbit, fld_eq_div_mod, Nat.reduceAdd, Nat.reduceSub, Nat.pow_zero, Nat.div_one]

theorem ringWrite_refuses (hn : n % 2 = 0) (hr : ringIdle (getCl s c) ((n - 0x200) / 2) = false ∨ ¬ GeomFits v) :
    ringWrite s c n v = refuseReg s c 0x10 n v := by
  simp only [ringWrite, hn, if_true]
  rw [if_neg]
  rintro ⟨hi, hfit⟩
  obtain hr | hr := hr
  · rw [hi] at hr; cases hr
  · exact hr ((geomFits_iff v).mpr hfit)

/-- A ring as an RPTR write leaves it: its pointers 0, every granule of it empty. -/
def ringCleared (x : Cluster) (k : Nat) : Cluster := emptyRing (setRing x k { getRing x k with head := 0, tail := 0 }) k

theorem ringWrite_clears (hn : n % 2 = 1) (hb : v.getLsbD 32 = true) (hi : ringIdle (getCl s c) ((n - 0x200) / 2) = true) (hv : v.toNat / 2 ^ 33 = 0) :
    ringWrite s c n v = updCl s c fun x => ringCleared x ((n - 0x200) / 2) := by
  have hv' : fld v 63 33 = 0 := by rw [fld_top v 33 (by omega), hv]
  simp only [ringWrite, hn, wbit, hb, hi, hv', one_ne_zero, Bool.not_true, Bool.false_eq_true, if_false, and_self, if_true]
  rfl

end

theorem bufFillAll_rings (x : Cluster) (space first n : Nat) (b : Bool) : (bufFillAll x space first n b).rings = x.rings :=
  (List.range n).foldlRecOn _ (motive := fun y : Cluster => y.rings = x.rings) rfl fun _ h _ _ => h

theorem bufIsFull_bufSetFull (x : Cluster) (space g h : Nat) (b : Bool) :
    bufIsFull (bufSetFull x space g b) space h = if h = g then b else bufIsFull x space h := by
  simp only [bufIsFull, bufSetFull, aget_aput, granKey, Nat.add_left_cancel_iff]

/-- Several granules' bits set: those of the run, and no other of the buffer. -/
theorem bufIsFull_bufFillAll (x : Cluster) (space first n : Nat) (b : Bool) (g : Nat) :
    bufIsFull (bufFillAll x space first n b) space g = if first ≤ g ∧ g < first + n then b else bufIsFull x space g := by
  induction n with
  | zero =>
    have h : ¬ (first ≤ g ∧ g < first + 0) := by omega
    rw [if_neg h]; rfl
  | succ n ih =>
    rw [bufFillAll, List.range_succ, List.foldl_append, List.foldl_cons, List.foldl_nil, bufIsFull_bufSetFull, ← bufFillAll, ih]
    by_cases h : g = first + n
    · rw [if_pos h, if_pos (by omega)]
    · rw [if_neg h]
      exact if_congr (by omega) rfl rfl

theorem ringCleared_leaves (x : Cluster) (k : Nat) : getRing (ringCleared x k) k = { getRing x k with head := 0, tail := 0 } ∧
    ∀ g, (getRing x k).base ≤ g → g < (getRing x k).base + (getRing x k).size → bufIsFull (ringCleared x k) (ringSpace k) g = false := by
  refine ⟨?_, fun g h h' => ?_⟩
  · rw [ringCleared, emptyRing, getRing, bufFillAll_rings]
    exact getRing_setRing ..
  · rw [ringCleared, emptyRing, bufIsFull_bufFillAll, getRing_setRing, if_pos ⟨h, h'⟩]

section
variable {c : ClusterId} {reg : BitVec 16} {v : Word} {s : State} (h : s.here = .register c reg v) (h1 : 0x200 ≤ reg.toNat) (h2 : reg.toNat ≤ 0x21F)
include h h1 h2

theorem exec_rgeomWrite (hn : reg.toNat % 2 = 0) : exec .rgeomWrite s = .next (backToMode s (ringWrite (asSystem s c) c reg.toNat v) c) := by
  rw [registerMove_writes (ok := fun n _ => within n 0x200 0x21F && n % 2 = 0) (fun _ => rfl) h (regAssigned_ring h1 h2)
    (by simp [within_of_le h1 h2, hn]) (by omega), regWrite_ring _ c v h1 h2]

theorem rgeomWrite_takes (hn : reg.toNat % 2 = 0) (hi : ringIdle (getCl s c) ((reg.toNat - 0x200) / 2) = true) (hv : GeomFits v) :
    Completes .rgeomWrite s fun t => OnlyCore s t c ∧
      getRing (getCl t c) ((reg.toNat - 0x200) / 2) = withGeom v (getRing (getCl s c) ((reg.toNat - 0x200) / 2)) := by
  refine ⟨_, exec_rgeomWrite h h1 h2 hn, ?_⟩
  rw [ringWrite_takes _ c hn (by rw [getCl_asSystem]; exact hi) hv]
  obtain ⟨hf, hc⟩ := backToMode_updCl s c fun x => setRing x ((reg.toNat - 0x200) / 2) (withGeom v (getRing x ((reg.toNat - 0x200) / 2)))
  rw [hc]
  exact ⟨hf, getRing_setRing ..⟩

theorem rgeomWrite_refuses (hn : reg.toNat % 2 = 0) (hr : ringIdle (getCl s c) ((reg.toNat - 0x200) / 2) = false ∨ ¬ GeomFits v) :
    Completes .rgeomWrite s fun t => OnlyCore s t c ∧ getCl t c = raised 0x10 reg.toNat v (getCl s c) := by
  refine ⟨_, exec_rgeomWrite h h1 h2 hn, ?_⟩
  rw [ringWrite_refuses _ c hn (by rw [getCl_asSystem]; exact hr)]
  exact refuseReg_completes ..

theorem rptrClear_clears (hn : reg.toNat % 2 = 1) (hb : v.getLsbD 32 = true) (hi : ringIdle (getCl s c) ((reg.toNat - 0x200) / 2) = true)
    (hv : v.toNat / 2 ^ 33 = 0) :
    let k := (reg.toNat - 0x200) / 2
    Completes .rptrClear s fun t => OnlyCore s t c ∧ getRing (getCl t c) k = { getRing (getCl s c) k with head := 0, tail := 0 } ∧
      ∀ g, (getRing (getCl s c) k).base ≤ g → g < (getRing (getCl s c) k).base + (getRing (getCl s c) k).size →
        bufIsFull (getCl t c) (ringSpace k) g = false := by
  intro k
  refine ⟨_, registerMove_writes (ok := fun n v => within n 0x200 0x21F && n % 2 = 1 && wbit v 32) (fun _ => rfl) h (regAssigned_ring h1 h2)
    (by simp [within_of_le h1 h2, hn, wbit, hb]) (by omega), ?_⟩
  rw [regWrite_ring _ c v h1 h2, ringWrite_clears _ c hn hb (by rw [getCl_asSystem]; exact hi) hv]
  obtain ⟨hf, hc⟩ := backToMode_updCl s c fun x => ringCleared x k
  rw [hc]
  exact ⟨hf, ringCleared_leaves { getCl s c with mode := true } k⟩

end

/-! ## SLAREA and SWIN (R233, R236) -/

/-- A slice changed alone, with a core put back in its mode. -/
theorem backToMode_setSlice (s : State) (c : ClusterId) (h : SliceId) (y : Slice) :
    let t := backToMode s (setSlice (asSystem s c) h y) c
    SameMem s t ∧ t.tiles = s.tiles ∧ SameCores s t ∧ getSlice t h = y ∧ ∀ g, g ≠ h → getSlice t g = getSlice s g := by
  intro t
  have hc : SameCores (asSystem s c) (setSlice (asSystem s c) h y) := .of_eq rfl
  exact ⟨.of_eq rfl rfl rfl rfl rfl, rfl, backToMode_sameCores hc, getSlice_setSlice (asSystem s c) h y,
    fun g hg => getSlice_setSlice_other (asSystem s c) y hg⟩

/-- A slice that keeps no windows, its area set: the lines of the units that leave the tagged area have left it. -/
def withArea (v : Word) (y : Slice) : Slice :=
  { y with smap := v.extractLsb' 0 12, tags := y.tags.filter fun l => !wbit v l.way,
           hot := y.hot.filter fun l => (y.tags.filter fun l => !wbit v l.way).any fun z => z.line = l.line }

section
variable (s : State) (c : ClusterId) {n : Nat} {v : Word}

theorem slareaWrite_takes (hv : v.toNat / 2 ^ 12 = 0) (hw : (getSlice s (sliceOfCore s c (n - 0x300))).wins = []) :
    slareaWrite s c n v = setSlice s (sliceOfCore s c (n - 0x300)) (withArea v (getSlice s (sliceOfCore s c (n - 0x300)))) := by
  have hf : fld v 63 12 = 0 := by rw [fld_top v 12 (by omega), hv]
  unfold slareaWrite
  dsimp only
  rw [if_pos ⟨hf, by rw [hw]; rfl⟩]
  rfl

theorem slareaWrite_refuses (hv : v.toNat / 2 ^ 12 ≠ 0) : slareaWrite s c n v = refuseReg s c 0x15 n v := by
  have hf : ¬ fld v 63 12 = 0 := by rwa [fld_top v 12 (by omega)]
  simp only [slareaWrite, hf, false_and, if_false]

theorem fld_eq_zero_of_bits {hi lo : Nat} (h : ∀ i, lo ≤ i → i ≤ hi → v.getLsbD i = false) : fld v hi lo = 0 := by
  apply Nat.eq_of_testBit_eq
  intro k
  rw [fld, Nat.testBit_mod_two_pow, Nat.testBit_shiftRight, BitVec.testBit_toNat, Nat.zero_testBit]
  by_cases hk : k < hi + 1 - lo
  · rw [h (lo + k) (by omega) (by omega), Bool.and_false]
  · rw [decide_eq_false hk, Bool.false_and]

/-- A value with no bit outside SWIN's two fields. -/
theorem bit_of_swinMask (hv : v &&& ~~~0x00FF000000000000 = 0) {i : Nat} (h : i < 48 ∨ 56 ≤ i) : v.getLsbD i = false := by
  by_cases h64 : i < 64
  · have hm : (0x00FF000000000000 : Word).getLsbD i = false := by
      have e : (0x00FF000000000000 : Nat) = (2 ^ 8 - 1) * 2 ^ 48 := by norm_num
      rw [show (0x00FF000000000000 : Word) = BitVec.ofNat 64 0x00FF000000000000 from rfl, BitVec.getLsbD_ofNat, e, Nat.testBit_mul_two_pow,
        Nat.testBit_two_pow_sub_one]
      simp; omega
    have hb := congrArg (fun w : Word => w.getLsbD i) hv
    rw [BitVec.getLsbD_and, BitVec.getLsbD_not, hm] at hb
    simpa [h64] using hb
  · exact BitVec.getLsbD_of_ge v i (by omega)

/-- The window that a value asks for. -/
def windowAsked (v : Word) : Window := { ubase := v.toNat / 2 ^ 52 % 16, usize := v.toNat / 2 ^ 48 % 16 }

theorem swinWrite_takes (hv : v &&& ~~~0x00FF000000000000 = 0) (hw : (getSlice s (sliceOfCore s c ((n - 0x400) / 8))).wins = [])
    (hb : (windowAsked v).ubase ≤ 11) (hz : (windowAsked v).ubase + (windowAsked v).usize ≤ 12)
    (hu : ∀ u, (windowAsked v).ubase ≤ u → u < (windowAsked v).ubase + (windowAsked v).usize →
      (getSlice s (sliceOfCore s c ((n - 0x400) / 8))).smap.getLsbD u = true) :
    swinWrite s c n v = setSlice s (sliceOfCore s c ((n - 0x400) / 8))
      { getSlice s (sliceOfCore s c ((n - 0x400) / 8)) with wins := aset [] (n % 8) (windowAsked v) } := by
  have hbase : fld v 55 52 = (windowAsked v).ubase := fld_eq_div_mod ..
  have hsize : fld v 51 48 = (windowAsked v).usize := fld_eq_div_mod ..
  have he : ({ ubase := (windowAsked v).ubase, usize := (windowAsked v).usize } : Window) = windowAsked v := rfl
  have hfields : fld v 63 58 = 0 ∧ (!wbit v 56) = true ∧ fld v 47 46 = 0 ∧ fld v 31 30 = 0 ∧ fld v 15 0 = 0 :=
    ⟨fld_eq_zero_of_bits fun i h _ => bit_of_swinMask hv (by omega), by rw [wbit, bit_of_swinMask hv (by omega)]; rfl,
      fld_eq_zero_of_bits fun i _ h => bit_of_swinMask hv (by omega), fld_eq_zero_of_bits fun i _ h => bit_of_swinMask hv (by omega),
      fld_eq_zero_of_bits fun i _ h => bit_of_swinMask hv (by omega)⟩
  have hfree : ((winUnits (windowAsked v)).all fun u => (getSlice s (sliceOfCore s c ((n - 0x400) / 8))).smap.getLsbD u && true) = true := by
    simp only [winUnits, List.all_map, List.all_eq_true, List.mem_range, Function.comp, Bool.and_true]
    exact fun i hi => hu _ (by omega) (by omega)
  simp only [swinWrite, hbase, hsize, he, hw, List.filter_nil, List.all_nil, aget_nil, hfree, Bool.not_false]
  rw [if_pos ⟨trivial, hb, hz, trivial, hfields⟩]

theorem swinWrite_refuses (hz : 12 < (windowAsked v).ubase + (windowAsked v).usize) : swinWrite s c n v = refuseReg s c 0x15 n v := by
  have hno : ¬ fld v 55 52 + fld v 51 48 ≤ 12 := by
    simpa only [windowAsked, fld_eq_div_mod, Nat.reduceAdd, Nat.reduceSub, Nat.reducePow, Nat.not_le] using hz
  simp only [swinWrite, hno, false_and, and_false, if_false]

end

section
variable {c : ClusterId} {reg : BitVec 16} {v : Word} {s : State} (h : s.here = .register c reg v)
include h

section
variable (h1 : 0x300 ≤ reg.toNat) (h2 : reg.toNat ≤ 0x31F)
include h1 h2

theorem exec_slareaWrite : exec .slareaWrite s = .next (backToMode s (slareaWrite (asSystem s c) c reg.toNat v) c) := by
  rw [registerMove_writes (ok := fun n _ => within n 0x300 0x31F) (fun _ => rfl) h (regAssigned_slarea h1 h2) (within_of_le h1 h2) (by omega),
    regWrite_slarea _ c v h1 h2]

theorem slareaWrite_sets (hv : v.toNat / 2 ^ 12 = 0) (hw : (getSlice s (sliceOfCore s c (reg.toNat - 0x300))).wins = []) :
    let i := sliceOfCore s c (reg.toNat - 0x300)
    Completes .slareaWrite s fun t => SameMem s t ∧ t.tiles = s.tiles ∧ SameCores s t ∧
      (getSlice t i).smap = v.setWidth 12 ∧ ∀ g, g ≠ i → getSlice t g = getSlice s g := by
  intro i
  refine ⟨_, exec_slareaWrite h h1 h2, ?_⟩
  rw [slareaWrite_takes (asSystem s c) c hv hw]
  obtain ⟨hmem, htiles, hcores, hmine, hothers⟩ := backToMode_setSlice s c i (withArea v (getSlice s i))
  refine ⟨hmem, htiles, hcores, (congrArg Slice.smap hmine).trans ?_, hothers⟩
  exact BitVec.eq_of_getLsbD_eq fun k hk => by simp [withArea, hk]

theorem slareaWrite_leaves (hv : v.toNat / 2 ^ 12 ≠ 0) : Completes .slareaWrite s fun t => OnlyCore s t c ∧ t.slices = s.slices := by
  refine ⟨_, exec_slareaWrite h h1 h2, ?_⟩
  rw [slareaWrite_refuses _ c hv]
  exact ⟨(refuseReg_completes ..).1, rfl⟩

end

section
variable (h1 : 0x400 ≤ reg.toNat) (h2 : reg.toNat ≤ 0x4FF)
include h1 h2

theorem exec_swinWrite : exec .swinWrite s = .next (backToMode s (swinWrite (asSystem s c) c reg.toNat v) c) := by
  rw [registerMove_writes (ok := fun n _ => within n 0x400 0x4FF) (fun _ => rfl) h (regAssigned_swin h1 h2) (within_of_le h1 h2) (by omega),
    regWrite_swin _ c v h1 h2]

theorem swinWrite_sets (hv : v &&& ~~~0x00FF000000000000 = 0) (hw : (getSlice s (sliceOfCore s c ((reg.toNat - 0x400) / 8))).wins = [])
    (hb : (windowAsked v).ubase ≤ 11) (hz : (windowAsked v).ubase + (windowAsked v).usize ≤ 12)
    (hu : ∀ u, (windowAsked v).ubase ≤ u → u < (windowAsked v).ubase + (windowAsked v).usize →
      (getSlice s (sliceOfCore s c ((reg.toNat - 0x400) / 8))).smap.getLsbD u = true) :
    let i := sliceOfCore s c ((reg.toNat - 0x400) / 8)
    Completes .swinWrite s fun t => SameMem s t ∧ t.tiles = s.tiles ∧ SameCores s t ∧
      aget ({} : Window) (getSlice t i).wins (reg.toNat % 8) = windowAsked v ∧ ∀ g, g ≠ i → getSlice t g = getSlice s g := by
  intro i
  refine ⟨_, exec_swinWrite h h1 h2, ?_⟩
  rw [swinWrite_takes (asSystem s c) c hv hw hb hz hu]
  obtain ⟨hmem, htiles, hcores, hmine, hothers⟩ := backToMode_setSlice s c i { getSlice s i with wins := aset [] (reg.toNat % 8) (windowAsked v) }
  refine ⟨hmem, htiles, hcores, ?_, hothers⟩
  exact (congrArg (fun y : Slice => aget ({} : Window) y.wins (reg.toNat % 8)) hmine).trans (aget_aset_same ..)

theorem swinWrite_leaves (hz : 12 < (windowAsked v).ubase + (windowAsked v).usize) :
    Completes .swinWrite s fun t => OnlyCore s t c ∧ t.slices = s.slices := by
  refine ⟨_, exec_swinWrite h h1 h2, ?_⟩
  rw [swinWrite_refuses _ c hz]
  exact ⟨(refuseReg_completes ..).1, rfl⟩

end

/-! ## BARCFG (R276) -/

/-- A value that a barrier takes for its BARCFG. -/
def BarFits (y : Barrier) (v : Word) : Prop :=
  y.arrived = 0 ∧ y.reports = 0 ∧ v.toNat / 2 ^ 16 % 2 ^ 27 = 0 ∧ 1 ≤ v.toNat / 2 ^ 61 ∧ v.toNat / 2 ^ 61 ≤ 5 ∧
  (v.getLsbD 60 = true → 1 ≤ v.toNat / 2 ^ 43 % 2 ^ 9 ∧ v.toNat / 2 ^ 43 % 2 ^ 9 ≤ 256)

omit h in
theorem barFits_iff (y : Barrier) : BarFits y v ↔ y.arrived = 0 ∧ y.reports = 0 ∧ fld v 42 16 = 0 ∧ 1 ≤ fld v 63 61 ∧ fld v 63 61 ≤ 5 ∧
    (!wbit v 60 ∨ (1 ≤ fld v 51 43 ∧ fld v 51 43 ≤ 256)) := by
  simp only [BarFits, fld_top v 61 (by omega), fld_eq_div_mod, wbit, Nat.reduceAdd, Nat.reduceSub, Bool.not_eq_true', imp_iff_not_or, Bool.not_eq_true]

variable (h1 : 0x800 ≤ reg.toNat) (h2 : reg.toNat ≤ 0x9FF)
include h1 h2

theorem exec_barcfgWrite : exec .barcfgWrite s = .next (backToMode s (barcfgWrite (asSystem s c) c (reg.toNat - 0x800) v) c) := by
  rw [registerMove_writes (ok := fun n _ => within n 0x800 0x9FF) (fun _ => rfl) h (regAssigned_barcfg h1 h2) (within_of_le h1 h2) (by omega),
    regWrite_barcfg _ c v h1 h2]

theorem barcfgWrite_sets (hv : BarFits (getBar (getCl s c) (reg.toNat - 0x800)) v) :
    let b := reg.toNat - 0x800
    Completes .barcfgWrite s fun t => OnlyCore s t c ∧ getBar (getCl t c) b = { getBar (getCl s c) b with cfg := v, ctx := (getCl s c).ctx } := by
  intro b
  have he : barcfgWrite (asSystem s c) c b v =
      setBar (asSystem s c) c b { getBar (getCl s c) b with cfg := v, ctx := (getCl s c).ctx } := by
    rw [barcfgWrite, getCl_asSystem]
    exact if_pos ((barFits_iff _).mp hv)
  refine ⟨_, exec_barcfgWrite h h1 h2, ?_⟩
  rw [he]
  refine ⟨((updCl_onlyCore ..).trans (updCl_onlyCore ..)).trans (updCl_onlyCore ..), ?_⟩
  rw [backToMode, getCl_updCl]
  exact getBar_setBar ..

theorem barcfgWrite_refuses (hv : ¬ BarFits (getBar (getCl s c) (reg.toNat - 0x800)) v) :
    let b := reg.toNat - 0x800
    Completes .barcfgWrite s fun t => OnlyCore s t c ∧ getBar (getCl t c) b = getBar (getCl s c) b ∧
      (getCl t c).pend = (getCl s c).pend ++ [{ kind := 0x18, ctx := (getCl s c).ctx, p0 := word b, p1 := 2 }] := by
  intro b
  have he : barcfgWrite (asSystem s c) c b v =
      raiseRec (countCl (asSystem s c) c cntBarbad) c { kind := 0x18, ctx := (getCl s c).ctx, p0 := word b, p1 := 2 } := by
    rw [barcfgWrite, getCl_asSystem]
    exact if_neg fun k => hv ((barFits_iff _).mpr k)
  refine ⟨_, exec_barcfgWrite h h1 h2, ?_⟩
  rw [he]
  refine ⟨(((updCl_onlyCore ..).trans (updCl_onlyCore ..)).trans (updCl_onlyCore ..)).trans (updCl_onlyCore ..), ?_, ?_⟩ <;>
    simp [backToMode, asSystem, raiseRec, countCl, getBar]

end

/-! ## Range entries (R305) -/

section
variable {c : ClusterId} {reg : BitVec 16} {v : Word} {s : State} (h : s.here = .register c reg v)
  (h1 : 0x100 ≤ reg.toNat) (h2 : reg.toNat ≤ 0x1FF) (hn : reg.toNat % 4 = 1)
include h h1 h2 hn

/-- A write of an entry's limit. -/
theorem exec_rangeEntryWrite : exec .rangeEntryWrite s =
    .next (backToMode s (updCl (asSystem s c) c fun x => rangeWrite x ((reg.toNat - 0x100) / 4) 1 v) c) := by
  rw [registerMove_writes (ok := fun n _ => within n 0x100 0x1FF) (fun _ => rfl) h (regAssigned_range h1 h2) (within_of_le h1 h2) (by omega),
    regWrite_range _ c v h1 h2, hn]

theorem rangeEntryWrite_sets (hv : v.toNat % 2 ^ 16 = 0)
    (hb : coreBits (aset (getCl s c).ranges ((reg.toNat - 0x100) / 4)
      { aget ({} : RangeEntry) (getCl s c).ranges ((reg.toNat - 0x100) / 4) with lim := v }) ≤ 32768) :
    let k := (reg.toNat - 0x100) / 4
    Completes .rangeEntryWrite s fun t => OnlyCore s t c ∧
      aget ({} : RangeEntry) (getCl t c).ranges k = { aget ({} : RangeEntry) (getCl s c).ranges k with lim := v } := by
  intro k
  have hok : ¬ (rangeRsv 1 v = true ∨ 32768 < coreBits (aset (getCl s c).ranges k (setRangeField (aget ({} : RangeEntry) (getCl s c).ranges k) 1 v))) := by
    rintro (hr | hr)
    · simp [rangeRsv, fld_eq_div_mod] at hr
      exact hr hv
    · exact absurd hb (Nat.not_le.mpr hr)
  refine ⟨_, exec_rangeEntryWrite h h1 h2 hn, ?_⟩
  obtain ⟨hf, hc⟩ := backToMode_updCl s c fun x => rangeWrite x k 1 v
  rw [hc]
  refine ⟨hf, ?_⟩
  simp only [rangeWrite]
  rw [if_neg hok]
  exact aget_aset_same ..

theorem rangeEntryWrite_clears (hv : v.toNat % 2 ^ 16 ≠ 0) :
    let k := (reg.toNat - 0x100) / 4
    Completes .rangeEntryWrite s fun t => OnlyCore s t c ∧ aget ({} : RangeEntry) (getCl t c).ranges k =
      { aget ({} : RangeEntry) (getCl s c).ranges k with base := (aget ({} : RangeEntry) (getCl s c).ranges k).base &&& ~~~1 } := by
  intro k
  have hr : rangeRsv 1 v = true := by simpa [rangeRsv, fld_eq_div_mod] using hv
  refine ⟨_, exec_rangeEntryWrite h h1 h2 hn, ?_⟩
  obtain ⟨hf, hc⟩ := backToMode_updCl s c fun x => rangeWrite x k 1 v
  rw [hc]
  refine ⟨hf, ?_⟩
  simp only [rangeWrite]
  rw [if_pos (.inl hr)]
  exact aget_aset_same ..

end

/-- Settles O45: each move writes its register, which takes the value or refuses it, and the core is back in its mode. -/
theorem clusterRegistersAreWritten : Obligations.ClusterRegistersAreWritten := by
  intro c reg v s h x n
  refine ⟨fun h1 h2 => ⟨rgeomWrite_takes h h1 h2, rgeomWrite_refuses h h1 h2, rptrClear_clears h h1 h2⟩,
    fun h1 h2 => ⟨slareaWrite_sets h h1 h2, slareaWrite_leaves h h1 h2⟩, fun h1 h2 => ⟨swinWrite_sets h h1 h2, swinWrite_leaves h h1 h2⟩,
    fun h1 h2 => ⟨barcfgWrite_sets h h1 h2, barcfgWrite_refuses h h1 h2⟩,
    fun h1 h2 => ⟨fun hv hn hb => rangeEntryWrite_sets h h1 h2 hn hv hb, fun hv hn => rangeEntryWrite_clears h h1 h2 hn hv⟩⟩

end Sys2Proof.Machine
end

section
/-! PROOFS. An access that leaves its port (R246, R288, R310): what `finish` leaves of its tile, and that no LDF parks on the way. -/
namespace Sys2Proof.Machine
open Sys2Proof

/-! ## No parked LDF (R250) -/

theorem insertParked_ne_nil (p : Nat × TileId × Access) (l : List (Nat × TileId × Access)) : insertParked p l ≠ [] := by
  cases l with
  | nil => nofun
  | cons q l => unfold insertParked; split <;> nofun

/-- The parked LDFs of a port queue, put into a list of others. -/
def parkedOf (k : Nat) (q : List Access) (l : List (Nat × TileId × Access)) : List (Nat × TileId × Access) :=
  q.foldl (fun l a => match a.parked with | some n => insertParked (n, tileOfKey k, a) l | none => l) l

theorem parkedOf_eq_nil (k : Nat) (q : List Access) (l : List (Nat × TileId × Access)) :
    parkedOf k q l = [] ↔ l = [] ∧ ∀ a ∈ q, a.parked = none := by
  induction q generalizing l with
  | nil => simp [parkedOf]
  | cons a q ih =>
    rw [parkedOf, List.foldl_cons, ← parkedOf, ih]
    cases ha : a.parked with
    | none => simp [ha]
    | some n => simp [ha, insertParked_ne_nil]

theorem parkedAll_eq_nil {s : State} : parkedAll s = [] ↔ ∀ e ∈ s.tiles, ∀ a ∈ e.2.port.queue, a.parked = none := by
  have h : ∀ (m : Assoc Tile) (l : List (Nat × TileId × Access)),
      m.foldl (fun l e => parkedOf e.1 e.2.port.queue l) l = [] ↔ l = [] ∧ ∀ e ∈ m, ∀ a ∈ e.2.port.queue, a.parked = none := by
    intro m
    induction m with
    | nil => simp
    | cons e m ih => intro l; rw [List.foldl_cons, ih, parkedOf_eq_nil]; simp [and_assoc]
  exact (h s.tiles []).trans (and_iff_right rfl)

theorem mem_aset {α : Type} {m : Assoc α} {i : Nat} {v : α} {e : Nat × α} (h : e ∈ aset m i v) : e ∈ m ∨ e = (i, v) := by
  induction m with
  | nil => exact .inr (List.mem_singleton.mp h)
  | cons p m ih =>
    obtain ⟨k, w⟩ := p
    simp only [aset] at h
    split at h
    next hk =>
      obtain rfl | h := List.mem_cons.mp h
      · exact .inr (by rw [hk])
      · exact .inl (List.mem_cons_of_mem _ h)
    · split at h
      · obtain rfl | h := List.mem_cons.mp h
        · exact .inr rfl
        · exact .inl h
      · obtain rfl | h := List.mem_cons.mp h
        · exact .inl List.mem_cons_self
        · exact (ih h).imp_left (List.mem_cons_of_mem _)

/-- A tile put back with no parked LDF in its port queue. -/
theorem parkedAll_setTile {s : State} (h : parkedAll s = []) {t : TileId} {x : Tile} (hx : ∀ a ∈ x.port.queue, a.parked = none) :
    parkedAll (setTile s t x) = [] := by
  refine parkedAll_eq_nil.mpr fun e he => ?_
  obtain he | rfl := mem_aset he
  · exact parkedAll_eq_nil.mp h e he
  · exact hx

theorem unparked_of_parkedAll {s : State} (h : parkedAll s = []) (t : TileId) : ∀ a ∈ (getTile s t).port.queue, a.parked = none := by
  rw [getTile, aget_eq_afind]
  cases hx : afind s.tiles (tileKey t) with
  | none => exact fun a (ha : a ∈ []) => absurd ha List.not_mem_nil
  | some x => exact parkedAll_eq_nil.mp h _ (mem_of_afind hx)

/-- A step that parks no LDF where none is parked. -/
structure ParksNone (s t : State) : Prop where
  none : parkedAll s = [] → parkedAll t = []

theorem ParksNone.refl (s : State) : ParksNone s s := ⟨id⟩
theorem ParksNone.trans {a b c : State} (h : ParksNone a b) (k : ParksNone b c) : ParksNone a c := ⟨k.none ∘ h.none⟩
theorem ParksNone.of_tiles {s t : State} (h : t.tiles = s.tiles) : ParksNone s t := ⟨fun hs => (parkedAll_congr h).trans hs⟩

/-- A tile changed in a way that parks none of its accesses. -/
theorem setTile_parksNone (s : State) (t : TileId) {x : Tile} (h : ∀ a ∈ x.port.queue, ∃ b ∈ (getTile s t).port.queue, a.parked = b.parked) :
    ParksNone s (setTile s t x) := ⟨fun hs => parkedAll_setTile hs fun a ha => by
  obtain ⟨b, hb, e⟩ := h a ha
  exact e.trans (unparked_of_parkedAll hs t b hb)⟩

theorem updTile_parksNone (s : State) (t : TileId) (f : Tile → Tile) (h : ∀ x, (f x).port = x.port) : ParksNone s (updTile s t f) :=
  setTile_parksNone s t fun a ha => ⟨a, by rw [h] at ha; exact ha, rfl⟩

theorem countTile_parksNone (s : State) (t : TileId) (ev q : Nat) : ParksNone s (countTile s t ev q) :=
  (updTile_parksNone s t (fun x => { x with counts := aupd 0 x.counts ev (· + 1) }) fun _ => rfl).trans (.of_tiles (countEv_tiles ..))

theorem recFirst_parksNone (s : State) (t : TileId) (r : Rec) : ParksNone s (recFirst s t r) := by
  unfold recFirst
  split
  · exact .refl s
  · exact (updTile_parksNone s t (fun x => { x with first := r.kind :: x.first }) fun _ => rfl).trans (.of_tiles (recT_tiles ..))

theorem fillFiring_parksNone (s : State) (p : SlotId) (i : Nat) (e : List (Fin 4 × Tok)) : ParksNone s (fillFiring s p i e) := by
  unfold fillFiring
  exact updTile_parksNone _ _ _ fun _ => rfl

/-! ## finish -/

/-- An access's tile without it. -/
def leavePort (s : State) (t : TileId) (id : Nat) : State :=
  updTile s t fun x => { x with port := { x.port with queue := x.port.queue.filter fun b => b.id ≠ id } }

/-- A slot once an access of it has left the port: it goes on waiting only for another fault, and has the access's result, if there is one. -/
def afterAccess (still : Bool) (r : Option VTok) (y : Slot) : Slot :=
  { y with fault := y.fault && still, latch := match r with | some v => v | none => y.latch }

/-- What a finished access leaves of a tile's slot. -/
def finished (s : State) (t : TileId) (a : Access) (r : Option VTok) (ea : Word) (still : Bool) : State :=
  fillFiring (updTile (countTile (leavePort s t a.id) t 0x40 0) t fun x => updSlot x a.slot.val (afterAccess still r)) ⟨t, a.slot⟩ a.id (doneEms a r ea)

theorem finish_eq (s : State) (t : TileId) (a : Access) (r : Option VTok) (ea : Word) : ∃ still, finish s t a r ea = finished s t a r ea still := ⟨_, rfl⟩

section
variable (s : State) (t : TileId) (a : Access) (r : Option VTok) (ea : Word)

theorem finish_frame : TileFrame s (finish s t a r ea) t := by
  obtain ⟨still, h⟩ := finish_eq s t a r ea
  rw [h]
  exact (((updTile_frame ..).trans (countTile_frame ..)).trans (updTile_frame ..)).trans (updTile_frame ..)

theorem finish_tile : ∃ still, getTile (finish s t a r ea) t =
    updSlot (updSlot { getTile s t with port := { (getTile s t).port with queue := (getTile s t).port.queue.filter fun b => b.id ≠ a.id },
                                        counts := aupd 0 (getTile s t).counts 0x40 (· + 1) } a.slot.val (afterAccess still r)) a.slot.val fun y =>
      { y with pipe := y.pipe.map fun f => if f.id = a.id && !f.ready then { f with ready := true, ems := doneEms a r ea } else f } := by
  obtain ⟨still, h⟩ := finish_eq s t a r ea
  refine ⟨still, ?_⟩
  rw [h, finished, fillFiring, getTile_updTile, getTile_updTile, getTile_countTile, leavePort, getTile_updTile]

/-- A finished access has left its port queue, and no other has. -/
theorem finish_queue : (getTile (finish s t a r ea) t).port.queue = (getTile s t).port.queue.filter fun b => b.id ≠ a.id := by
  obtain ⟨still, h⟩ := finish_tile s t a r ea
  rw [h]
  rfl

theorem finish_counts {ev : Nat} (h : ev ≠ 0x40) : aget 0 (getTile (finish s t a r ea) t).counts ev = aget 0 (getTile s t).counts ev := by
  obtain ⟨still, ht⟩ := finish_tile s t a r ea
  rw [ht]
  exact (aget_aupd ..).trans (if_neg h)

theorem finish_slot : ∃ still, slotAt (finish s t a r ea) ⟨t, a.slot⟩ = { afterAccess still r (slotAt s ⟨t, a.slot⟩) with
    pipe := (slotAt s ⟨t, a.slot⟩).pipe.map fun f => if f.id = a.id && !f.ready then { f with ready := true, ems := doneEms a r ea } else f } := by
  obtain ⟨still, h⟩ := finish_tile s t a r ea
  refine ⟨still, ?_⟩
  rw [slotAt, h, getSlot_updSlot, getSlot_updSlot]
  rfl

theorem finish_latch (v : VTok) : latchOf (finish s t a (some v) ea) ⟨t, a.slot⟩ = v := by
  obtain ⟨still, h⟩ := finish_slot s t a (some v) ea
  rw [latchOf_eq, h]
  rfl

/-- The firing that waited for an access has its results. -/
theorem finish_fills {f : Firing} (hf : f ∈ pipeOf s ⟨t, a.slot⟩) (hid : f.id = a.id) (hr : f.ready = false) :
    { f with ready := true, ems := doneEms a r ea } ∈ pipeOf (finish s t a r ea) ⟨t, a.slot⟩ := by
  obtain ⟨still, h⟩ := finish_slot s t a r ea
  rw [pipeOf_eq, h]
  exact List.mem_map.mpr ⟨f, hf, by simp [hid, hr]⟩

theorem finish_launches : (finish s t a r ea).launches = s.launches := by
  obtain ⟨still, h⟩ := finish_eq s t a r ea
  rw [h]
  exact countTile_launches ..

theorem countTile_slices (ev q : Nat) : (countTile s t ev q).slices = s.slices := countEv_slices ..

theorem finish_slices : (finish s t a r ea).slices = s.slices := by
  obtain ⟨still, h⟩ := finish_eq s t a r ea
  rw [h]
  exact countTile_slices ..

theorem countEv_pend (ev q n : Nat) (c : ClusterId) : (getCl (countEv s t ev q n) c).pend = (getCl s c).pend := by
  unfold countEv
  dsimp only
  split
  · rfl
  · by_cases hc : c = clusterOf s t
    · subst hc; rw [getCl_setCl]
    · rw [getCl_setCl_other _ _ hc]

theorem countTile_pend (ev q : Nat) (c : ClusterId) : (getCl (countTile s t ev q) c).pend = (getCl s c).pend := countEv_pend ..

theorem finish_pend (c : ClusterId) : (getCl (finish s t a r ea) c).pend = (getCl s c).pend := by
  obtain ⟨still, h⟩ := finish_eq s t a r ea
  rw [h]
  exact countTile_pend ..

theorem finish_parksNone : ParksNone s (finish s t a r ea) := by
  obtain ⟨still, h⟩ := finish_eq s t a r ea
  rw [h]
  have hleave : ParksNone s (leavePort s t a.id) := setTile_parksNone s t fun b hb => ⟨b, (List.mem_filter.mp hb).1, rfl⟩
  have hslot := updTile_parksNone (countTile (leavePort s t a.id) t 0x40 0) t (fun x => updSlot x a.slot.val (afterAccess still r)) fun _ => rfl
  exact ((hleave.trans (countTile_parksNone ..)).trans hslot).trans (fillFiring_parksNone ..)

end

end Sys2Proof.Machine
end

section
/-! PROOFS. Accesses that are refused, and accesses that fault (R202, R245, R309, R310). -/
namespace Sys2Proof.Machine
open Sys2Proof

/-! ## PERFORM (R288) -/

/-- A step that an access may make: it leaves the cores, the other tiles and the package, and parks no LDF. -/
structure PortStep (t : TileId) (s u : State) : Prop where
  cores : SameCores s u
  tiles : SameTilesBut s u (· = t)
  package : SamePackage s u
  unparked : ParksNone s u

theorem PortStep.refl (t : TileId) (s : State) : PortStep t s s := ⟨.refl s, fun _ _ => rfl, .refl s, .refl s⟩

theorem PortStep.trans {t : TileId} {a b c : State} (h : PortStep t a b) (k : PortStep t b c) : PortStep t a c :=
  ⟨h.cores.trans k.cores, h.tiles.trans k.tiles, h.package.trans k.package, h.unparked.trans k.unparked⟩

theorem PortStep.of_frame {t : TileId} {s u : State} (h : TileFrame s u t) (k : ParksNone s u) : PortStep t s u :=
  ⟨h.2.1, h.2.2.2.1, h.2.2.2.2, k⟩

/-- A step that leaves the tiles, the cores and the package. -/
theorem PortStep.of_tiles {t : TileId} {s u : State} (ht : u.tiles = s.tiles) (hc : SameCores s u) (hp : SamePackage s u) : PortStep t s u :=
  ⟨hc, fun v _ => getTile_of_tiles ht v, hp, .of_tiles ht⟩

theorem execPerform_turn {s : State} {t : TileId} {a : Access} (h : Performs s t a) :
    execPerform s = .next (settle (performAt s t (getTile s t) a)) := by
  obtain ⟨hh, hf, hm, hb, hp, hw, hr, -, -⟩ := h
  simp only [execPerform, hh, hf, hm, hb, hp, hw, hr, decide_false, Option.isSome_none, Bool.not_true, Bool.or_self, Bool.false_eq_true, if_false]

/-- An access at its turn makes its step; with none parked no LDF follows it. -/
theorem perform_completes {s u : State} {t : TileId} {a : Access} (h : Performs s t a) (hu : performAt s t (getTile s t) a = u)
    (hp : ParksNone s u) {q : State → Prop} (hq : q u) : Completes .perform s q := by
  obtain ⟨-, -, -, -, -, -, -, -, hnone⟩ := id h
  exact ⟨u, (execPerform_turn h).trans (by rw [hu, settle_of_noneParked (hp.none hnone)]), hq⟩

/-! ## Refusals (R202, R309) -/

/-- What a refused access leaves: nothing is changed, the access has left its port, and a load gives no valid lane. -/
def Refused (s : State) (t : TileId) (a : Access) (u : State) : Prop :=
  SameMem s u ∧ SameCores s u ∧ SameTilesBut s u (· = t) ∧ (getTile u t).port.queue = (getTile s t).port.queue.filter (fun b => b.id ≠ a.id) ∧
  (loadsOp a.op = true → (latchOf u ⟨t, a.slot⟩).valid = 0)

theorem finish_refused {s z : State} {t : TileId} (a : Access) (hz : TileFrame s z t) (hp : SamePort t s z) (ea : Word) :
    Refused s t a (finish z t a (refusedTok a) ea) := by
  obtain ⟨hmem, hcores, -, htiles, -⟩ := hz.trans (finish_frame z t a (refusedTok a) ea)
  refine ⟨hmem, hcores, htiles, (finish_queue ..).trans ?_, fun hl => ?_⟩
  · exact congrArg (fun p : Port => p.queue.filter fun b => b.id ≠ a.id) hp
  · rw [refusedTok, if_pos hl, finish_latch]
    rfl

/-- What is counted and recorded of a refusal of a buffer or a window. -/
def bufRefusal (s : State) (t : TileId) (a : Access) (reason : Nat) : State :=
  recFirst (countTile s t 0x101 0) t { kind := 0x0F, thr := a.thr, sub := a.slot.val, p0 := a.ea, p1 := word (spaceNum a.w.space + flag (reason = 1) 8) }

section
variable (s : State) (t : TileId) (a : Access)

theorem bufPerm_eq (reason : Nat) : bufPerm s t a reason = finish (bufRefusal s t a reason) t a (refusedTok a) a.ea := rfl

theorem bufPerm_refused (reason : Nat) : Refused s t a (bufPerm s t a reason) ∧ ParksNone s (bufPerm s t a reason) := by
  rw [bufPerm_eq]
  exact ⟨finish_refused a ((countTile_frame ..).trans (recFirst_frame ..)) ((countTile_samePort ..).trans (recFirst_samePort ..)) _,
    ((countTile_parksNone s t _ _).trans (recFirst_parksNone _ t _)).trans (finish_parksNone ..)⟩

theorem permRefuse_frame (k src : Nat) : TileFrame s (permRefuse s t a k src) t :=
  ((countTile_frame ..).trans (recT_frame ..)).trans (inexact_frame ..)

theorem recT_samePort (u : TileId) (r : Rec) : SamePort u s (recT s t r) := .of_tiles u s (recT_tiles ..)

theorem permRefuse_samePort (k src : Nat) : SamePort t s (permRefuse s t a k src) :=
  ((countTile_samePort ..).trans (recT_samePort ..)).trans (inexact_samePort ..)

theorem permRefuse_parksNone (k src : Nat) : ParksNone s (permRefuse s t a k src) :=
  (countTile_parksNone s t 0x41 0).trans ((ParksNone.of_tiles (recT_tiles ..)).trans (.of_tiles (inexact_tiles ..)))

end

/-- A space of a typed buffer. -/
def isBuffer (p : Space) : Prop := p = .wbuf ∨ p = .abuf ∨ p = .cbuf

section
variable {s : State} {t : TileId} {a : Access}

theorem performAt_global (h : a.w.space = .global) (x : Tile) : performAt s t x a = performGlobal s t x a := by rw [performAt, h]
theorem performAt_window (h : a.w.space = .window) (x : Tile) : performAt s t x a = performWin s t a := by rw [performAt, h]
theorem performAt_buffer (h : isBuffer a.w.space) (x : Tile) : performAt s t x a = performBuf s t a (spaceNum a.w.space) := by
  obtain h | h | h := h <;> rw [performAt, h]

variable (h : Performs s t a)
include h

theorem performGlobal_miss (hpref : a.op ≠ .pref)
    (ht : translate s t.die (portTable (getTile s t).port.entries) (tileCtx s t) a.ea (needOf a.op) = .miss) :
    performGlobal s t (getTile s t) a = faultAccess s t a 1 0xFF 0 0 0 := by
  obtain ⟨-, -, -, -, -, -, -, hans, -⟩ := h
  simp only [performGlobal, hans, ht, if_neg hpref]

theorem performGlobal_perm {k : Nat}
    (ht : translate s t.die (portTable (getTile s t).port.entries) (tileCtx s t) a.ea (needOf a.op) = .perm k) :
    performGlobal s t (getTile s t) a = finish (permRefuse s t a k 0) t a (refusedTok a) a.ea := by
  obtain ⟨-, -, -, -, -, -, -, hans, -⟩ := h
  simp only [performGlobal, hans, ht]

theorem perform_permRefused (hs : a.w.space = .global) {k : Nat}
    (ht : translate s t.die (portTable (getTile s t).port.entries) (tileCtx s t) a.ea (needOf a.op) = .perm k) :
    Completes .perform s (Refused s t a) := by
  refine perform_completes h (u := finish (permRefuse s t a k 0) t a (refusedTok a) a.ea) ?_ ?_ ?_
  · exact (performAt_global hs _).trans (performGlobal_perm h ht)
  · exact (permRefuse_parksNone ..).trans (finish_parksNone ..)
  · exact finish_refused a (permRefuse_frame ..) (permRefuse_samePort ..) _

theorem perform_bufRefused (hs : isBuffer a.w.space)
    (hn : bufAllowed (spaceNum a.w.space) a.op = false ∨ bufSize (spaceNum a.w.space) ≤ a.ea.toNat / 64 * 64) : Completes .perform s (Refused s t a) := by
  have e : ∃ reason, performBuf s t a (spaceNum a.w.space) = bufPerm s t a reason := by
    unfold performBuf
    dsimp only
    rw [fld_top a.ea 6 (by omega)]
    by_cases ha : bufAllowed (spaceNum a.w.space) a.op = false
    · exact ⟨0, if_pos (by rw [ha]; rfl)⟩
    · refine ⟨1, (if_neg (by simpa using ha)).trans (if_pos ?_)⟩
      rw [Nat.mul_comm]
      exact hn.resolve_left ha
  obtain ⟨reason, e⟩ := e
  exact perform_completes h ((performAt_buffer hs _).trans e) (bufPerm_refused s t a reason).2 (bufPerm_refused s t a reason).1

theorem perform_winRefused (hs : a.w.space = .window) (hn : a.op ≠ .ld ∧ a.op ≠ .st ∨ a.ea.toNat / 2 ^ 23 ≠ 0 ∨
    1024 * (aget ({} : Window) (getSlice s (sliceOf t)).wins (a.ea.toNat / 2 ^ 20 % 8)).usize ≤ a.ea.toNat / 64 % 2 ^ 14) :
    Completes .perform s (Refused s t a) := by
  have e : ∃ reason, performWin s t a = bufPerm s t a reason := by
    unfold performWin
    dsimp only
    by_cases hop : a.op ≠ .ld ∧ a.op ≠ .st
    · exact ⟨0, if_pos hop⟩
    · refine ⟨1, (if_neg hop).trans (if_pos ?_)⟩
      rw [fld_top a.ea 23 (by omega), fld_eq_div_mod, fld_eq_div_mod]
      exact hn.resolve_left hop
  obtain ⟨reason, e⟩ := e
  exact perform_completes h ((performAt_window hs _).trans e) (bufPerm_refused s t a reason).2 (bufPerm_refused s t a reason).1

end

/-! ## Faults (R310) -/

/-- An access that stands with a fault, and its slot that issues nothing more. -/
def holdAccess (t : TileId) (a : Access) (st : FaultSt) (s : State) : State :=
  updTile (updAccess s t a.id fun b => { b with fault := st }) t fun x => updSlot x a.slot.val fun y => { y with fault := true }

/-- The page request of an access. -/
def faultReq (s : State) (t : TileId) (a : Access) (cause entry idx frame src : Nat) : PageReq :=
  { serial := 0, ctx := tileCtx s t, page := fld a.ea 63 16, gen := ctxGen s t.die (tileCtx s t), cause := cause, party := .node t a.id,
    handle := tileHandle s t, idx := idx, frame := frame, va := a.ea, thr := a.thr, src := src, entry := entry }

/-- The FAULT record of an access whose request has a number. -/
def faultRec (s : State) (t : TileId) (a : Access) (n cause entry src : Nat) : Rec :=
  { kind := 0x30, thr := a.thr, sub := a.slot.val, p0 := a.ea, p1 := faultP1 n (ctxGen s t.die (tileCtx s t)) entry src cause }

/-- Whether a party is a node of a tile. -/
def partyAt (t : TileId) (p : Party) : Bool := match p with | .node u _ => u = t | _ => false

section
variable {s : State} {t : TileId} {a : Access} {n : Nat}

theorem faultAccess_opens (hs : sameReq (getDie s t.die) (tileCtx s t) (fld a.ea 63 16) (partyAt t) = none) (hf : freeReq (getDie s t.die) = some n)
    (cause entry idx frame src : Nat) : faultAccess s t a cause entry idx frame src = holdAccess t a (.open_ n (getDie s t.die).serial)
      (recT (countTile (openReq s t.die n (faultReq s t a cause entry idx frame src)) t 0x41 0) t (faultRec s t a n cause entry src)) := by
  unfold faultAccess
  dsimp only
  split
  · next h => exact nomatch h.symm.trans hs
  · rw [hf]
    rfl

/-- A request that is not TIER's is put in its entry under the next serial number. -/
theorem openReq_eq {r : PageReq} (h : r.cause ≠ 3) (d : Fin 4) (k : Nat) : openReq s d k r =
    updDie s d fun x => { x with reqs := aset x.reqs k { r with serial := x.serial }, serial := x.serial + 1 } := by
  unfold openReq
  congr 1
  funext x
  exact if_neg h

theorem holdAccess_frame (st : FaultSt) : TileFrame s (holdAccess t a st s) t := (updTile_frame ..).trans (updTile_frame ..)

theorem holdAccess_tile (st : FaultSt) : getTile (holdAccess t a st s) t = updSlot { getTile s t with port := { (getTile s t).port with
    queue := (getTile s t).port.queue.map fun b => if b.id = a.id then { b with fault := st } else b } } a.slot.val fun y => { y with fault := true } := by
  rw [holdAccess, getTile_updTile, updAccess, getTile_updTile]

theorem holdAccess_ids (st : FaultSt) : (getTile (holdAccess t a st s) t).port.queue.map (·.id) = (getTile s t).port.queue.map (·.id) := by
  rw [holdAccess_tile]
  refine (List.map_map ..).trans (List.map_congr_left fun b _ => ?_)
  dsimp only [Function.comp]
  split <;> rfl

theorem holdAccess_slot (st : FaultSt) : (getSlot (getTile (holdAccess t a st s) t) a.slot.val).fault = true := by
  rw [holdAccess_tile, getSlot_updSlot]

theorem holdAccess_find (st : FaultSt) (h : findAccess (getTile s t) a.id = some a) :
    findAccess (getTile (holdAccess t a st s) t) a.id = some { a with fault := st } := by
  have e : ∀ b : Access, decide ((if b.id = a.id then { b with fault := st } else b).id = a.id) = decide (b.id = a.id) := fun b => by split <;> rfl
  have hfind : (getTile s t).port.queue.find? (fun b => decide (b.id = a.id)) = some a := h
  rw [holdAccess_tile, findAccess]
  refine (List.find?_map ..).trans ?_
  simp only [Function.comp_def, e, hfind, Option.map_some, if_true]

theorem holdAccess_parksNone (st : FaultSt) : ParksNone s (holdAccess t a st s) := by
  have h : ParksNone s (updAccess s t a.id fun b => { b with fault := st }) := setTile_parksNone s t fun b hb => by
    obtain ⟨c, hc, rfl⟩ := List.mem_map.mp hb
    exact ⟨c, hc, by split <;> rfl⟩
  have k : ParksNone _ (holdAccess t a st s) := updTile_parksNone _ _ _ fun _ => rfl
  exact h.trans k

/-- What a fault leaves that opens a request. -/
def Faulted (s : State) (t : TileId) (a : Access) (n : Nat) (u : State) : Prop :=
  SameMem s u ∧ SameCores s u ∧ SameTilesBut s u (· = t) ∧ (getTile u t).port.queue.map (·.id) = (getTile s t).port.queue.map (·.id) ∧
  (getSlot (getTile u t) a.slot.val).fault = true ∧
  ∃ r, afind (getDie u t.die).reqs n = some r ∧ r.cause = 1 ∧ r.page = a.ea.toNat / 65536 ∧ r.ctx = tileCtx s t ∧ r.va = a.ea ∧
    (findAccess (getTile s t) a.id = some a → (findAccess (getTile u t) a.id).map (·.fault) = some (.open_ n r.serial))

/-- A fault for want of an entry opens a request of cause 1 with a record. -/
theorem faultAccess_faulted (hs : sameReq (getDie s t.die) (tileCtx s t) (fld a.ea 63 16) (partyAt t) = none) (hf : freeReq (getDie s t.die) = some n)
    (entry idx frame src : Nat) : Faulted s t a n (faultAccess s t a 1 entry idx frame src) ∧ ParksNone s (faultAccess s t a 1 entry idx frame src) := by
  rw [faultAccess_opens hs hf, openReq_eq (r := faultReq s t a 1 entry idx frame src) (show (1 : Nat) ≠ 3 by decide)]
  generalize hr : faultReq s t a 1 entry idx frame src = r
  generalize hz : updDie s t.die (fun x => { x with reqs := aset x.reqs n { r with serial := x.serial }, serial := x.serial + 1 }) = z
  generalize he : faultRec s t a n 1 entry src = e
  have hzd : (getDie z t.die).reqs = aset (getDie s t.die).reqs n { r with serial := (getDie s t.die).serial } := by
    rw [← hz, updDie, getDie_setDie]
  have hzt : z.tiles = s.tiles := by rw [← hz]; rfl
  have hzm : SameMem s z := by rw [← hz]; exact .of_eq rfl rfl rfl rfl rfl
  have hzc : SameCores s z := by rw [← hz]; exact .of_eq rfl
  have hnote : TileFrame z (recT (countTile z t 0x41 0) t e) t := (countTile_frame ..).trans (recT_frame ..)
  have hport : SamePort t z (recT (countTile z t 0x41 0) t e) := (countTile_samePort ..).trans (recT_samePort ..)
  have hport' : (getTile (recT (countTile z t 0x41 0) t e) t).port = (getTile s t).port := (SamePort.of_tiles t s hzt).trans hport
  generalize hy : recT (countTile z t 0x41 0) t e = y at hnote hport'
  obtain ⟨hmem, hcores, hdies, htiles, -⟩ := hnote.trans (holdAccess_frame (a := a) (.open_ n (getDie s t.die).serial))
  have hreqs : afind (getDie (holdAccess t a (.open_ n (getDie s t.die).serial) y) t.die).reqs n =
      some { r with serial := (getDie s t.die).serial } := by
    rw [getDie, hdies]
    exact (congrArg (afind · n) hzd).trans (afind_aset_same ..)
  refine ⟨⟨hzm.trans hmem, hzc.trans hcores, fun v hv => (htiles v hv).trans (getTile_of_tiles hzt v), ?_, holdAccess_slot .., _, hreqs, ?_, ?_, ?_, ?_,
    fun hfind => ?_⟩, ?_⟩
  · rw [holdAccess_ids, hport']
  · rw [← hr]; rfl
  · rw [← hr]; exact fld_top a.ea 16 (by omega)
  · rw [← hr]; rfl
  · rw [← hr]; rfl
  · rw [holdAccess_find _ (by rw [findAccess, hport']; exact hfind)]
    rfl
  · rw [← hy]
    exact (ParksNone.of_tiles hzt).trans (((countTile_parksNone z t 0x41 0).trans (.of_tiles (recT_tiles ..))).trans (holdAccess_parksNone _))

end

/-- Settles O27: each refusal is `finish` after a count and a record; a fault opens a request and holds its slot. -/
theorem refusedAndFaultingAccesses : Obligations.RefusedAndFaultingAccesses := by
  intro s t a h hpref
  refine ⟨fun hs k => perform_permRefused h hs, perform_bufRefused h, perform_winRefused h, fun hs ht hreq n hn => ?_⟩
  have hpage : fld a.ea 63 16 = a.ea.toNat / 65536 := fld_top a.ea 16 (by omega)
  rw [← hpage] at hreq
  obtain ⟨⟨hmem, hcores, htiles, hids, hslot, r, hr, hcause, hat, hctx, hva, -⟩, hp⟩ := faultAccess_faulted hreq hn 0xFF 0 0 0
  refine perform_completes h (u := faultAccess s t a 1 0xFF 0 0 0) ?_ hp ⟨hmem, hcores, htiles, hids, hslot, r, hr, hcause, hat, hctx, hva⟩
  exact (performAt_global hs _).trans (performGlobal_miss h hpref ht)

end Sys2Proof.Machine
end

section
/-! PROOFS. A bank token that BKGIVE gives, and a page request that waited for a free entry (R211, R310). -/
namespace Sys2Proof.Machine
open Sys2Proof

section
variable {s z : State} {t : TileId} {a : Access} {l : LaunchId} {x : Launch}

/-! ## The first record of a kind of a launch (R272) -/

theorem recOnce_tiles (s : State) (t : TileId) (r : Rec) : (recOnce s t r).tiles = s.tiles := by
  unfold recOnce
  split
  · rfl
  · split
    · rfl
    · split
      · rfl
      · exact recT_tiles ..

theorem recOnce_frame (s : State) (t : TileId) (r : Rec) : TileFrame s (recOnce s t r) t := by
  unfold recOnce
  split
  · exact TileFrame.refl s t
  · split
    · exact TileFrame.refl s t
    · split
      · exact TileFrame.refl s t
      · next l _ _ x _ _ =>
        have h : TileFrame s (setLaunch s l { x with first := r.kind :: x.first }) t :=
          ⟨.of_eq rfl rfl rfl rfl rfl, .of_eq rfl, rfl, fun _ _ => rfl, .refl s⟩
        exact h.trans (recT_frame ..)

section
variable (ho : ownerOf s t = some l) (hx : findLaunch s l = some x)
include ho hx

theorem recT_of_launch (r : Rec) :
    recT s t r = raiseRec s (homeOf s l x) { r with row := t.row.val, col := t.col.val, ctx := x.lr.ctx, handle := l.handle } := by
  simp only [recT, ho, recL, hx]

theorem recOnce_of_launch (r : Rec) : recOnce s t r = if x.first.contains r.kind then s else
    raiseRec (setLaunch s l { x with first := r.kind :: x.first }) (homeOf s l x)
      { r with row := t.row.val, col := t.col.val, ctx := x.lr.ctx, handle := l.handle } := by
  have hown : ∀ y, ownerOf (setLaunch s l y) t = some l := fun _ => ho
  simp only [recOnce, ho, hx]
  split
  · rfl
  · rw [recT_of_launch (hown _) (findLaunch_setLaunch ..)]
    rfl

end

/-! ## A bank token given (R211) -/

/-- The record of a bank token given twice. -/
def dupRec (a : Access) (b : Nat) : Rec := { kind := 0x11, thr := a.thr, sub := a.slot.val, p0 := word b }

/-- A bank token given: the bank's bit set, or the give counted and recorded where the bit was set. -/
def giveToken (s : State) (t : TileId) (a : Access) (b : Nat) : State :=
  if (getCl s (clusterOf s t)).bktok.getLsbD b then recOnce (countTile s t 0x103 0) t (dupRec a b)
  else updCl s (clusterOf s t) fun y => { y with bktok := y.bktok ||| (1#32 <<< b) }

/-- The bit of a bank of a space. -/
def bankOf (a : Access) : Nat := (spaceNum a.w.space - 1) * 16 + a.ea.toNat / 2 ^ 17 % 16

theorem execBkgiveSet_gives (hh : s.here = .access t a.id) (hf : findAccess (getTile s t) a.id = some a) (hop : a.op = .bkgive)
    (hst : (getTile s t).port.start = true)
    (hd : storesDone s t a.thr a.seq (fun e => decide (spaceNum e.w.space = spaceNum a.w.space) && decide (fld e.ea 63 17 = a.ea.toNat / 2 ^ 17 % 16)) = true) :
    execBkgiveSet s = .next (finish (giveToken s t a (bankOf a)) t a none a.ea) := by
  have hn : fld a.ea 20 17 = a.ea.toNat / 2 ^ 17 % 16 := fld_eq_div_mod ..
  simp only [execBkgiveSet, hh, hf, hop, hst, hn, hd, ne_eq, not_true_eq_false, decide_false, Bool.not_true, Bool.or_self, Bool.false_eq_true, if_false]
  rfl

theorem or_bit_of_set {w b : Nat} {v : BitVec w} (h : v.getLsbD b = true) : v ||| 1#w <<< b = v := by
  refine BitVec.eq_of_getLsbD_eq fun i hi => ?_
  simp only [BitVec.getLsbD_or, BitVec.getLsbD_shiftLeft, BitVec.getLsbD_one]
  by_cases hb : i = b
  · subst hb; simp [h]
  · have : i - b ≠ 0 ∨ i < b := by omega
    obtain h0 | h0 := this <;> simp [h0]

section
variable (s t a) (b : Nat)

/-- What a given token leaves of memory, of the cores but its cluster's, and of the tiles but its own. -/
theorem giveToken_frame : SameMem s (giveToken s t a b) ∧ SameCoresBut s (giveToken s t a b) (· = clusterOf s t) ∧
    SameTilesBut s (giveToken s t a b) (· = t) ∧ SamePort t s (giveToken s t a b) := by
  unfold giveToken
  split
  · obtain ⟨hmem, hcores, -, htiles, -⟩ := (countTile_frame s t 0x103 0).trans (recOnce_frame _ t (dupRec a b))
    exact ⟨hmem, fun c _ => hcores c nofun, htiles, (countTile_samePort ..).trans (.of_tiles t _ (recOnce_tiles ..))⟩
  · exact ⟨.of_eq rfl rfl rfl rfl rfl, fun c hc => congrArg coreView (getCl_updCl_other _ _ hc), fun _ _ => rfl, rfl⟩

theorem giveToken_bktok : (getCl (giveToken s t a b) (clusterOf s t)).bktok = (getCl s (clusterOf s t)).bktok ||| (1#32 <<< b) := by
  unfold giveToken
  split
  · next h =>
    obtain ⟨-, hcores, -, -, -⟩ := (countTile_frame s t 0x103 0).trans (recOnce_frame _ t (dupRec a b))
    rw [or_bit_of_set h]
    exact bktok_of_coreView (hcores _ nofun)
  · rw [getCl_updCl]

theorem giveToken_counts : aget 0 (getTile (giveToken s t a b) t).counts 0x103 =
    aget 0 (getTile s t).counts 0x103 + (if (getCl s (clusterOf s t)).bktok.getLsbD b then 1 else 0) := by
  unfold giveToken
  split
  · rw [getTile_of_tiles (recOnce_tiles ..), getTile_countTile]
    exact (aget_aupd ..).trans (if_pos rfl)
  · rfl

/-- Whether the launch of a given token records it: the first given twice in a phase. -/
def firstDup (s : State) (t : TileId) (x : Launch) (b : Nat) : Bool := (getCl s (clusterOf s t)).bktok.getLsbD b && !x.first.contains 0x11

variable {s t}

theorem giveToken_records (ho : ownerOf s t = some l) (hx : findLaunch s l = some x) :
    (getCl (giveToken s t a b) (homeOf s l x)).pend = (getCl s (homeOf s l x)).pend ++ (if firstDup s t x b then
      [{ dupRec a b with ctx := x.lr.ctx, row := t.row.val, col := t.col.val, handle := l.handle }] else []) ∧
    (firstDup s t x b = true → ∃ x', findLaunch (giveToken s t a b) l = some x' ∧ x'.first.contains 0x11 = true) := by
  unfold giveToken firstDup
  by_cases hdup : (getCl s (clusterOf s t)).bktok.getLsbD b = true
  · have hown : ownerOf (countTile s t 0x103 0) t = some l := by rw [ownerOf, getTile_countTile]; exact ho
    have hfind : findLaunch (countTile s t 0x103 0) l = some x := by rw [findLaunch, countTile_launches]; exact hx
    have hhome : homeOf (countTile s t 0x103 0) l x = homeOf s l x :=
      (ThreadsTainted.refl x).homeOf (countTile_frame s t 0x103 0).2.2.1 l
    rw [if_pos hdup, recOnce_of_launch hown hfind, hhome, hdup, Bool.true_and]
    by_cases hc : x.first.contains 0x11 = true
    · rw [if_pos (show x.first.contains (dupRec a b).kind = true from hc), hc]
      exact ⟨by simp [countTile_pend], nofun⟩
    · rw [if_neg (show ¬ x.first.contains (dupRec a b).kind = true from hc), Bool.eq_false_of_not_eq_true hc]
      refine ⟨?_, fun _ => ⟨_, findLaunch_setLaunch .., by simp [dupRec]⟩⟩
      rw [raiseRec, getCl_updCl]
      exact congrArg (· ++ _) (countTile_pend ..)
  · rw [if_neg hdup, Bool.eq_false_of_not_eq_true hdup]
    refine ⟨?_, nofun⟩
    by_cases hc : homeOf s l x = clusterOf s t
    · rw [hc, getCl_updCl]; simp
    · rw [getCl_updCl_other _ _ hc]; simp

end

/-! ## A page request that waited (R310) -/

theorem execPageRequestOpen_opens {c : Nat} (hh : s.here = .access t a.id) (hf : findAccess (getTile s t) a.id = some a) (hw : a.fault = .waits c)
    (hop : a.op ≠ .mcast) (ht : translate s t.die (portTable (getTile s t).port.entries) (tileCtx s t) a.ea (needOf a.op) = .miss) :
    execPageRequestOpen s = .next (faultAccess s t a 1 0xFF 0 0 0) := by
  simp only [execPageRequestOpen, hh, hf, hw, ht, if_neg hop]

end

/-- Settles O30: a give is the bank's bit or its count and record, then `finish`; a request that waited opens as a fault's does. -/
theorem givesAndLateRequests : Obligations.GivesAndLateRequests := by
  intro s t a hh hf
  refine ⟨fun hop hst _ hd => ⟨_, execBkgiveSet_gives hh hf hop hst hd, ?_⟩, fun c hw hop ht hreq n hn => ?_⟩
  · obtain ⟨hm, hc, ht, hp⟩ := giveToken_frame s t a (bankOf a)
    obtain ⟨hmem, hcores, -, htiles, -⟩ := finish_frame (giveToken s t a (bankOf a)) t a none a.ea
    refine ⟨(bktok_of_coreView (hcores _ nofun)).trans (giveToken_bktok ..), hm.trans hmem,
      fun k hk => (hcores k nofun).trans (hc k hk), fun v hv => (htiles v hv).trans (ht v hv), ?_, ?_, fun l x ho hx => ?_⟩
    · rw [finish_queue, hp]
    · rw [finish_counts _ _ _ _ _ (by decide)]
      exact giveToken_counts ..
    · obtain ⟨hpend, hfirst⟩ := giveToken_records a (bankOf a) ho hx
      have hsame : findLaunch (finish (giveToken s t a (bankOf a)) t a none a.ea) l = findLaunch (giveToken s t a (bankOf a)) l :=
        congrArg (afind · (launchKey l)) (finish_launches ..)
      exact ⟨(finish_pend ..).trans hpend, fun h => hsame ▸ hfirst h⟩
  · have hpage : fld a.ea 63 16 = a.ea.toNat / 65536 := fld_top a.ea 16 (by omega)
    rw [← hpage] at hreq ⊢
    obtain ⟨⟨hmem, hcores, htiles, -, -, r, hr, hcause, hat, hctx, -, hfault⟩, -⟩ := faultAccess_faulted (a := a) hreq hn 0xFF 0 0 0
    exact ⟨_, execPageRequestOpen_opens hh hf hw hop ht, hmem, hcores, htiles, r, hr, hcause, hat.trans hpage.symm, hctx, hfault hf⟩

end Sys2Proof.Machine
end

section
/-! PROOFS. What an access does at its perform point, in memory, in a typed buffer and in a slice window (R245, R246, R248, R251, R287, R429). -/
namespace Sys2Proof.Machine
open Sys2Proof

/-! ## Bytes of a granule -/

theorem getD_readBytes (m : Assoc Byte) (a : Nat) {n i : Nat} (h : i < n) : (readBytes m a n).getD i 0 = aget memDefault m (a + i) := by
  induction n generalizing a i with
  | zero => omega
  | succ n ih =>
    cases i with
    | zero => rfl
    | succ i => rw [readBytes, List.getD_cons_succ, ih _ (by omega), Nat.add_assoc, Nat.add_comm 1 i]

theorem getD_payloadBytes (p : Payload) {i : Nat} (h : i < 64) : (payloadBytes p).getD i 0 = BitVec.ofNat 8 (elem 8 p i) := by
  rw [payloadBytes, getD_bytesOf _ h, elem, BitVec.extractLsb'_toNat, Nat.shiftRight_eq_div_pow]
  apply BitVec.eq_of_toNat_eq
  simp

theorem elem_payloadOf_bytes (m : Assoc Byte) (a : Nat) {i : Nat} (h : i < 64) :
    BitVec.ofNat 8 (elem 8 (payloadOf (readBytes m a 64)) i) = aget memDefault m (a + i) := by
  have hmid := ofBytes_readBytes_mid m a i 1 (63 - i)
  rw [show i + 1 + (63 - i) = 64 by omega] at hmid
  have he : elem 8 (payloadOf (readBytes m a 64)) i = (aget memDefault m (a + i)).toNat := by
    rw [elem, BitVec.extractLsb'_toNat, toNat_payloadOf (readBytes_length ..), Nat.shiftRight_eq_div_pow, Nat.pow_mul]
    exact hmid.trans (by simp [readBytes, ofBytes])
  rw [he, BitVec.ofNat_toNat, BitVec.setWidth_eq]

theorem laneBytes_length {old : List Byte} (h : old.length = 64) (v : BitVec 16) (p : Payload) : (laneBytes old v p).length = 64 := by
  simp [laneBytes, payloadBytes, h]

theorem getD_laneBytes {old : List Byte} (h : old.length = 64) (v : BitVec 16) (p : Payload) {i : Nat} (hi : i < 64) :
    (laneBytes old v p).getD i 0 = if v.getLsbD (i / 4) then BitVec.ofNat 8 (elem 8 p i) else old.getD i 0 := by
  have hp : (payloadBytes p).length = 64 := bytesOf_length ..
  rw [← getD_payloadBytes p hi, ← List.getElem_eq_getD (h := by rw [laneBytes_length h]; exact hi), ← List.getElem_eq_getD (h := by rw [hp]; exact hi),
    ← List.getElem_eq_getD (h := by rw [h]; exact hi)]
  simp only [laneBytes, List.getElem_map, List.getElem_zipIdx, List.getElem_zip, Nat.zero_add]

/-- The lanes of a payload written into a granule. -/
theorem granuleStored_laneBytes (m : Assoc Byte) (key : Nat) (v : BitVec 16) (p : Payload) :
    GranuleStored m (writeBytes m key (laneBytes (readBytes m key 64) v p)) key v p := by
  intro k
  have hl := readBytes_length m key 64
  rw [aget_writeBytes, laneBytes_length hl]
  by_cases hk : key ≤ k ∧ k < key + 64
  · rw [if_pos hk, getD_laneBytes hl v p (by omega), getD_readBytes _ _ (by omega), show key + (k - key) = k by omega]
    simp only [hk, true_and]
  · rw [if_neg hk, if_neg fun h => hk ⟨h.1, h.2.1⟩]

theorem granuleStored_none (m : Assoc Byte) (key : Nat) (p : Payload) : GranuleStored m m key 0 p := fun k => by simp

/-! ## A step at a granule, on the tables of its memory (R248) -/

/-- The bytes of a memory after the lanes written from a key on. -/
def storeLanes (m : Assoc Byte) (key : Nat) : Option (BitVec 16 × Payload) → Assoc Byte
  | some (v, p) => writeBytes m key (laneBytes (readBytes m key 64) v p)
  | none => m

/-- The poison marks of a memory after a write: a full one clears its granule's. -/
def clearPoison (m : Assoc Bool) (k : Nat) : Option (BitVec 16 × Payload) → Assoc Bool
  | some (v, _) => if v = 0xFFFF then aput false m k false else m
  | none => m

/-- The full-empty bits of a memory after one is left so. -/
def leaveFull (d : Bool) (m : Assoc Bool) (k : Nat) : Option Bool → Assoc Bool
  | some b => aput d m k b
  | none => m

theorem globalStep_eq (s : State) (g : Nat) (e : GranEff) : globalStep s g e =
    { s with mem := storeLanes s.mem (64 * g) e.write, poison := clearPoison s.poison g e.write, full := leaveFull true s.full g e.full } := by
  have h : 64 * g / 64 = g := Nat.mul_div_cancel_left g (by decide)
  unfold globalStep storeLanes clearPoison leaveFull setPoison setFull
  rw [h]
  cases e.write with
  | none => cases e.full <;> rfl
  | some w => cases e.full <;> dsimp only <;> split <;> rfl

theorem bufStep_eq (x : Cluster) (sp g : Nat) (e : GranEff) : bufStep x sp g e =
    { x with buf := storeLanes x.buf (bufKey sp (64 * g)) e.write, bufPoison := clearPoison x.bufPoison (granKey sp g) e.write,
             bufFull := leaveFull false x.bufFull (granKey sp g) e.full } := by
  unfold bufStep storeLanes clearPoison leaveFull
  cases e.write with
  | none => cases e.full <;> rfl
  | some w => cases e.full <;> dsimp only <;> split <;> rfl

/-! ## What an access does to its granule (R248, R251) -/

/-- What an access stores: an ATOM the new elements. -/
def storedPay (a : Access) (old : Payload) : Payload := if a.op = .atom then atomPay a.w old a.data a.cmp else a.data.pay
/-- The lanes that a load finds valid. -/
def loadedLanes (a : Access) (bad : Bool) : BitVec 16 := if bad then 0 else if a.op = .atom then a.data.valid else 0xFFFF
/-- Whether an access leaves its granule's full-empty bit as it says. -/
def setsFull (a : Access) : Prop := a.op = .stf ∨ a.op = .clre ∨ a.op = .ldf ∧ a.w.fe = true

section
variable (a : Access) (old : Payload) (bad : Bool)

theorem granEff_write : (granEff a old bad).write = if writesOp a.op then some (a.data.valid, storedPay a old) else none := by
  unfold granEff storedPay
  cases a.op <;> rfl

theorem granEff_full_of_sets (h : setsFull a) : (granEff a old bad).full = some (decide (a.op = .stf)) := by
  obtain h | h | ⟨h, hw⟩ := h
  · simp [granEff, h]
  · simp [granEff, h]
  · simp [granEff, h, hw]

theorem granEff_full_of_not (h : ¬ setsFull a) : (granEff a old bad).full = none := by
  unfold setsFull at h
  unfold granEff
  cases ho : a.op <;> simp_all

/-- The bytes that an access leaves. -/
theorem storeLanes_granEff (m : Assoc Byte) (key : Nat) :
    GranuleStored m (storeLanes m key (granEff a old bad).write) key (if writesOp a.op then a.data.valid else 0) (storedPay a old) := by
  rw [granEff_write]
  split
  · rw [storeLanes]
    exact granuleStored_laneBytes m key a.data.valid (storedPay a old)
  · rw [storeLanes]
    exact granuleStored_none m key (storedPay a old)

/-- The poison marks that it leaves. -/
theorem clearPoison_granEff (m : Assoc Bool) (k j : Nat) : aget false (clearPoison m k (granEff a old bad).write) j =
    if j = k ∧ writesOp a.op = true ∧ a.data.valid = 0xFFFF then false else aget false m j := by
  rw [granEff_write]
  by_cases hw : writesOp a.op = true
  · simp only [hw, if_true, clearPoison, true_and]
    by_cases hv : a.data.valid = 0xFFFF
    · simp only [hv, if_true, and_true, aget_aput]
    · simp only [hv, if_false, and_false]
  · simp only [hw, if_false, clearPoison, false_and, and_false, Bool.false_eq_true]

/-- The full-empty bits that it leaves. -/
theorem leaveFull_granEff (d : Bool) (m : Assoc Bool) (k j : Nat) : aget d (leaveFull d m k (granEff a old bad).full) j =
    if j = k ∧ (a.op = .stf ∨ a.op = .clre ∨ a.op = .ldf ∧ a.w.fe = true) then decide (a.op = .stf) else aget d m j := by
  by_cases h : setsFull a
  · rw [granEff_full_of_sets a old bad h]
    simp only [leaveFull, aget_aput, and_iff_left (show a.op = .stf ∨ a.op = .clre ∨ a.op = .ldf ∧ a.w.fe = true from h)]
  · rw [granEff_full_of_not a old bad h, if_neg fun k => h k.2]
    rfl

theorem granEff_result (h : loadsOp a.op = true) : (granEff a old bad).result = some (loadTok a (loadedLanes a bad) old) := by
  have hall : ∀ v : BitVec 16, v &&& 0xFFFF = v := fun v => BitVec.and_allOnes
  unfold granEff loadedLanes
  cases ho : a.op with
  | ld | ldf => cases bad <;> rfl
  | atom =>
    cases bad with
    | false => exact congrArg (fun v => some (loadTok a v old)) (hall _)
    | true => exact congrArg (fun v => some (loadTok a v old)) BitVec.and_zero
  | _ => exact absurd h (by rw [ho]; decide)

end

/-! ## The result of a load (R246) -/

section
variable {s z : State} {t : TileId} {a : Access}

theorem finish_loadGives {r : Option VTok} {v : BitVec 16} {p : Payload} {byte : Nat → Byte} (hz : loadsOp a.op = true → z.tiles = s.tiles)
    (hr : loadsOp a.op = true → r = some (loadTok a v p)) (hp : ∀ b, b < 64 → BitVec.ofNat 8 (elem 8 p b) = byte b) :
    LoadGives s (finish z t a r a.ea) t a v byte := by
  intro hl
  rw [hr hl, finish_latch]
  refine ⟨rfl, rfl, rfl, rfl, rfl, rfl, fun b hb hv => ?_, fun f hf hid hready => ?_⟩
  · rw [← hp b hb]
    change v.getLsbD (b / 4) = true at hv
    have hlane : laneOf 8 b = b / 4 := by unfold laneOf; omega
    rw [loadTok, elem_zeroInvalid (by decide) v p b (by omega), hlane, if_pos hv]
  · have hf' : f ∈ pipeOf z ⟨t, a.slot⟩ := by rw [pipeOf, getTile_of_tiles (hz hl)]; exact hf
    have hi : completesAtIssue a.op a.w = false := by simp [completesAtIssue, hl]
    have h := finish_fills z t a (some (loadTok a v p)) a.ea hf' hid hready
    rwa [doneEms, hi] at h

theorem tainted_tiles (bad : Bool) : (tainted s t a bad).tiles = s.tiles := by
  unfold tainted
  split
  · exact inexact_tiles ..
  · rfl

theorem tainted_frame (bad : Bool) : TileFrame s (tainted s t a bad) t := by
  unfold tainted
  split
  · exact inexact_frame ..
  · exact TileFrame.refl s t

/-- An access that leaves its port after a poisoned granule may have tainted its thread. -/
theorem taintedFinish_frame (bad : Bool) (r : Option VTok) (ea : Word) : TileFrame s (finish (tainted s t a bad) t a r ea) t :=
  (tainted_frame bad).trans (finish_frame ..)

theorem taintedFinish_queue (bad : Bool) (r : Option VTok) (ea : Word) :
    (getTile (finish (tainted s t a bad) t a r ea) t).port.queue = (getTile s t).port.queue.filter fun b => b.id ≠ a.id := by
  rw [finish_queue, getTile_of_tiles (tainted_tiles bad)]

theorem taintedFinish_parksNone (bad : Bool) (r : Option VTok) (ea : Word) : ParksNone s (finish (tainted s t a bad) t a r ea) :=
  (ParksNone.of_tiles (tainted_tiles bad)).trans (finish_parksNone ..)

end

/-! ## Global memory (R287) -/

section
variable (s : State) (d : Fin 4) (ctx : BitVec 12) (map : Option Nat)

theorem memByte_markAcc (b : Nat) :
    memByte (markAcc s d ctx map) b = if map.map (mapAddr s d ctx + ·) = some b then memByte s b ||| 4 else memByte s b := by
  cases map with
  | none => rfl
  | some i =>
    refine (aget_writeBytes ..).trans ?_
    simp only [Option.map_some, Option.some.injEq, List.length_singleton]
    by_cases h : mapAddr s d ctx + i = b
    · subst h
      simp only [if_true, Nat.le_refl, Nat.lt_add_one, and_self, Nat.sub_self, List.getD_cons_zero]
      rfl
    · rw [if_neg h, if_neg fun k => h (by omega)]
      rfl

theorem markAcc_eq : ∃ m, markAcc s d ctx map = { s with mem := m } := by
  cases map with
  | none => exact ⟨s.mem, rfl⟩
  | some i => exact ⟨_, rfl⟩

end

section
variable (s : State) (src : Option (Fin 4 × Fin 64)) (pa : Nat) (ctx : BitVec 12) (w : Bool)

/-- An access of a line at its home slice changes slices, and traffic of a die. -/
theorem touch_eq : ∃ sl ds, touch s src pa ctx w = { s with slices := sl, dies := ds } ∧
    ∀ d, (aget ({} : Die) ds d).tierbase = (aget ({} : Die) s.dies d).tierbase := by
  unfold touch
  dsimp only
  split
  · split
    · refine ⟨_, _, rfl, fun d => ?_⟩
      rw [aget_aset]
      split
      · next h => rw [h]; rfl
      · rfl
    · exact ⟨_, s.dies, rfl, fun _ => rfl⟩
  · exact ⟨_, s.dies, rfl, fun _ => rfl⟩

theorem touch_samePackage : SamePackage s (touch s src pa ctx w) := by
  obtain ⟨sl, ds, h, -⟩ := touch_eq s src pa ctx w
  rw [h]
  exact ⟨rfl, rfl, rfl, rfl, rfl, rfl, rfl, rfl, rfl, rfl⟩

theorem mem_markAcc_touch (d : Fin 4) (map : Option Nat) : (markAcc (touch s src pa ctx w) d ctx map).mem = (markAcc s d ctx map).mem := by
  obtain ⟨sl, ds, h, hb⟩ := touch_eq s src pa ctx w
  have ht : tierAddr (touch s src pa ctx w) d ctx = tierAddr s d ctx := by
    simp only [tierAddr, getDie, h, hb]
  have hm : (touch s src pa ctx w).mem = s.mem := by rw [h]
  cases map with
  | none => exact hm
  | some i =>
    simp only [markAcc, setResByte, resByte, memWrite, mapAddr, memWord, memRead, ht, hm]

end

section
variable (s : State) (t : TileId) (a : Access) (pa : Nat) (map : Option Nat)

/-- What an access does to its granule of memory. -/
def globalEff : GranEff := granEff a (payloadOf (memRead s (pa / 64 * 64) 64)) (isPoison s pa)

/-- Memory after an access, which has yet to leave its port. -/
def globalAfter : State :=
  globalStep (markAcc (touch s (srcOf t) pa (tileCtx s t) (writesOp a.op)) t.die (tileCtx s t) map) (pa / 64) (globalEff s a pa)

theorem globalAfter_eq : ∃ sl ds, globalAfter s t a pa map =
    { s with slices := sl, dies := ds, mem := storeLanes (markAcc s t.die (tileCtx s t) map).mem (64 * (pa / 64)) (globalEff s a pa).write,
             poison := clearPoison s.poison (pa / 64) (globalEff s a pa).write, full := leaveFull true s.full (pa / 64) (globalEff s a pa).full } := by
  obtain ⟨sl, ds, h, -⟩ := touch_eq s (srcOf t) pa (tileCtx s t) (writesOp a.op)
  refine ⟨sl, ds, ?_⟩
  have hm := mem_markAcc_touch s (srcOf t) pa (tileCtx s t) (writesOp a.op) t.die map
  obtain ⟨m, hk⟩ := markAcc_eq (touch s (srcOf t) pa (tileCtx s t) (writesOp a.op)) t.die (tileCtx s t) map
  rw [globalAfter, globalStep_eq, hm, hk, h]

end

section
variable {s : State} {t : TileId} {a : Access}

theorem performGlobal_ok {pa k : Nat} {map : Option Nat} (h : Performs s t a)
    (ht : translate s t.die (portTable (getTile s t).port.entries) (tileCtx s t) a.ea (needOf a.op) = .ok pa k map)
    (hfull : a.op = .ldf → isFull s pa = true) : performGlobal s t (getTile s t) a =
      finish (tainted (globalAfter s t a pa map) t a (isPoison s pa)) t a (globalEff s a pa).result a.ea := by
  have hpark : ¬ ((decide (a.op = .ldf) && !isFull s pa) = true) := fun hp => by
    obtain ⟨hop, hnot⟩ := Bool.and_eq_true_iff.mp hp
    rw [hfull (of_decide_eq_true hop)] at hnot
    exact absurd hnot (by decide)
  obtain ⟨-, -, -, -, -, -, -, hans, -⟩ := h
  simp only [performGlobal, hans, ht]
  exact if_neg hpark

/-- The byte that a write of lanes leaves, by its granule and its place in it. -/
theorem granuleStored_mod {old new : Assoc Byte} {g : Nat} {v : BitVec 16} {p : Payload} (h : GranuleStored old new (64 * g) v p) (b : Nat) :
    aget memDefault new b = if b / 64 = g ∧ v.getLsbD (b % 64 / 4) = true then BitVec.ofNat 8 (elem 8 p (b % 64)) else aget memDefault old b := by
  rw [h b]
  by_cases hb : b / 64 = g
  · have hk : 64 * g ≤ b ∧ b < 64 * g + 64 := by omega
    have hm : b - 64 * g = b % 64 := by omega
    simp only [hb, hk, hm, true_and]
  · rw [if_neg fun k => hb (by omega), if_neg fun k => hb k.1]

theorem access_global {pa k : Nat} {map : Option Nat} (h : Performs s t a) (hs : a.w.space = .global)
    (ht : translate s t.die (portTable (getTile s t).port.entries) (tileCtx s t) a.ea (needOf a.op) = .ok pa k map)
    (hfull : a.op = .ldf → isFull s pa = true) :
    Completes .perform s fun u =>
      let m := markAcc s t.die (tileCtx s t) map
      let new : Payload := if a.op = .atom then atomPay a.w (payloadOf (memRead s (pa / 64 * 64) 64)) a.data a.cmp else a.data.pay
      let writes (b : Nat) : Bool := writesOp a.op && b / 64 = pa / 64 && a.data.valid.getLsbD (b % 64 / 4)
      (∀ b, memByte u b = if writes b then BitVec.ofNat 8 (elem 8 new (b % 64)) else memByte m b) ∧
      (∀ b, memByte m b = if map.map (mapAddr s t.die (tileCtx s t) + ·) = some b then memByte s b ||| 4 else memByte s b) ∧
      (∀ g, isFull u (64 * g) = if g = pa / 64 ∧ (a.op = .stf ∨ a.op = .clre ∨ a.op = .ldf ∧ a.w.fe = true) then decide (a.op = .stf) else isFull s (64 * g)) ∧
      (∀ g, isPoison u (64 * g) = if g = pa / 64 ∧ writesOp a.op = true ∧ a.data.valid = 0xFFFF then false else isPoison s (64 * g)) ∧
      u.far = s.far ∧ (getTile u t).port.queue = (getTile s t).port.queue.filter (fun b => b.id ≠ a.id) ∧ SameCores s u ∧
      SameTilesBut s u (· = t) ∧ SamePackage s u ∧
      LoadGives s u t a (if isPoison s pa then 0 else if a.op = .atom then a.data.valid else 0xFFFF) (fun b => memByte s (pa / 64 * 64 + b)) := by
  obtain ⟨sl, ds, hz⟩ := globalAfter_eq s t a pa map
  obtain ⟨hmem, hcores, -, htiles, hpackage⟩ :=
    taintedFinish_frame (s := globalAfter s t a pa map) (t := t) (a := a) (isPoison s pa) (globalEff s a pa).result a.ea
  have hq := taintedFinish_queue (s := globalAfter s t a pa map) (t := t) (a := a) (isPoison s pa) (globalEff s a pa).result a.ea
  have hp := taintedFinish_parksNone (s := globalAfter s t a pa map) (t := t) (a := a) (isPoison s pa) (globalEff s a pa).result a.ea
  have hzt : (globalAfter s t a pa map).tiles = s.tiles := by rw [hz]
  refine perform_completes h ((performAt_global hs _).trans (performGlobal_ok h ht hfull)) ((ParksNone.of_tiles hzt).trans hp) ?_
  refine ⟨fun b => ?_, memByte_markAcc s t.die (tileCtx s t) map, fun g => ?_, fun g => ?_, ?_, ?_, ?_, fun v hv => ?_, ?_, ?_⟩
  · have hb := granuleStored_mod (storeLanes_granEff a (payloadOf (memRead s (pa / 64 * 64) 64)) (isPoison s pa)
      (markAcc s t.die (tileCtx s t) map).mem (64 * (pa / 64))) b
    rw [hmem.1 b id, hz]
    refine hb.trans ?_
    cases writesOp a.op <;> simp [storedPay, memByte]
  · have hg := leaveFull_granEff a (payloadOf (memRead s (pa / 64 * 64) 64)) (isPoison s pa) true s.full (pa / 64) (64 * g / 64)
    rw [(hmem.2.1 (64 * g) id).1, hz]
    refine hg.trans ?_
    rw [Nat.mul_div_cancel_left g (by decide), isFull, Nat.mul_div_cancel_left g (by decide)]
  · have hg := clearPoison_granEff a (payloadOf (memRead s (pa / 64 * 64) 64)) (isPoison s pa) s.poison (pa / 64) (64 * g / 64)
    rw [(hmem.2.1 (64 * g) id).2, hz]
    refine hg.trans ?_
    rw [Nat.mul_div_cancel_left g (by decide), isPoison, Nat.mul_div_cancel_left g (by decide)]
  · rw [hmem.2.2.1, hz]
  · rw [hq, getTile_of_tiles hzt]
  · exact (SameCores.of_eq (by rw [hz])).trans hcores
  · rw [htiles v hv, getTile_of_tiles hzt]
  · have hk : SamePackage s (globalAfter s t a pa map) := by rw [hz]; exact ⟨rfl, rfl, rfl, rfl, rfl, rfl, rfl, rfl, rfl, rfl⟩
    exact hk.trans hpackage
  · exact finish_loadGives (fun _ => (tainted_tiles _).trans hzt) (granEff_result a _ _) fun b hb => elem_payloadOf_bytes s.mem _ hb

/-! ## Typed buffers (R201, R202, R208) -/

/-- An operation that a buffer of a space takes: a load, or, but for CBUF, a store or CLRE. -/
def BufTakes (a : Access) : Prop :=
  a.op = .ld ∨ a.op = .ldf ∨ a.w.space ≠ .cbuf ∧ ((a.op = .st || a.op = .stf) = true ∨ a.op = .clre)

theorem bufAllowed_of_takes (hs : isBuffer a.w.space) (h : BufTakes a) : bufAllowed (spaceNum a.w.space) a.op = true := by
  have hc : a.w.space ≠ .cbuf → spaceNum a.w.space ≠ 3 := fun hn => by
    obtain hs | hs | hs := hs
    · rw [hs]; decide
    · rw [hs]; decide
    · exact absurd hs hn
  obtain h | h | ⟨hn, h | h⟩ := h
  · rw [h]; rfl
  · rw [h]; rfl
  · obtain h | h := Bool.or_eq_true_iff.mp h
    · rw [of_decide_eq_true h]; exact decide_eq_true (hc hn)
    · rw [of_decide_eq_true h]; exact decide_eq_true (hc hn)
  · rw [h]; exact decide_eq_true (hc hn)

theorem op_of_takes (h : BufTakes a) : a.op = .ld ∨ a.op = .ldf ∨ a.op = .st ∨ a.op = .stf ∨ a.op = .clre := by
  obtain h | h | ⟨-, h | h⟩ := h
  · exact .inl h
  · exact .inr (.inl h)
  · obtain h | h := Bool.or_eq_true_iff.mp h
    · exact .inr (.inr (.inl (of_decide_eq_true h)))
    · exact .inr (.inr (.inr (.inl (of_decide_eq_true h))))
  · exact .inr (.inr (.inr (.inr h)))

section
variable (s : State) (t : TileId) (a : Access)

/-- The granule of a buffer that an access names, and what the access does to it. -/
def bufGran (a : Access) : Nat := a.ea.toNat / 64
def bufBad : Bool := aget false (getCl s (clusterOf s t)).bufPoison (granKey (spaceNum a.w.space) (bufGran a))
def bufEff : GranEff := granEff a (granRead (getCl s (clusterOf s t)) (spaceNum a.w.space) (bufGran a)) (bufBad s t a)

/-- The buffers after an access, which has yet to leave its port. -/
def bufAfter : State := setCl s (clusterOf s t) (bufStep (getCl s (clusterOf s t)) (spaceNum a.w.space) (bufGran a) (bufEff s t a))

end

theorem performBuf_ok (hs : isBuffer a.w.space) (ho : BufTakes a) (hin : 64 * bufGran a < bufSize (spaceNum a.w.space))
    (hc : storesOp a.op = true → claimed (getCl s (clusterOf s t)) (spaceNum a.w.space) (bufGran a) = false)
    (hf : a.op = .ldf → bufIsFull (getCl s (clusterOf s t)) (spaceNum a.w.space) (bufGran a) = true) :
    performBuf s t a (spaceNum a.w.space) = finish (tainted (bufAfter s t a) t a (bufBad s t a)) t a (bufEff s t a).result a.ea := by
  have hg : fld a.ea 63 6 = bufGran a := fld_top a.ea 6 (by omega)
  have h1 : ¬ ((!bufAllowed (spaceNum a.w.space) a.op) = true) := by rw [bufAllowed_of_takes hs ho]; decide
  have h2 : ¬ ((storesOp a.op && claimed (getCl s (clusterOf s t)) (spaceNum a.w.space) (bufGran a)) = true) := fun h => by
    obtain ⟨hst, hcl⟩ := Bool.and_eq_true_iff.mp h
    exact absurd ((hc hst).symm.trans hcl) (by decide)
  have h3 : ¬ ((decide (a.op = .ldf) && !bufIsFull (getCl s (clusterOf s t)) (spaceNum a.w.space) (bufGran a)) = true) := fun h => by
    obtain ⟨hop, hnot⟩ := Bool.and_eq_true_iff.mp h
    rw [hf (of_decide_eq_true hop)] at hnot
    exact absurd hnot (by decide)
  unfold performBuf
  dsimp only
  rw [hg]
  exact (if_neg h1).trans ((if_neg (Nat.not_le.mpr hin)).trans ((if_neg h2).trans (if_neg h3)))

theorem access_buffer (h : Performs s t a) (hs : isBuffer a.w.space) :
    let c := clusterOf s t
    let x := getCl s c
    let sp := spaceNum a.w.space
    let g := a.ea.toNat / 64
    let stores : Bool := a.op = .st || a.op = .stf
    BufTakes a → 64 * g < bufSize sp → (stores = true ∨ a.op = .clre → claimed x sp g = false) → (a.op = .ldf → bufIsFull x sp g = true) →
    Completes .perform s fun u =>
      let y := getCl u c
      GranuleStored x.buf y.buf (bufKey sp (64 * g)) (if stores then a.data.valid else 0) a.data.pay ∧
      (∀ k, aget false y.bufFull k =
        if k = granKey sp g ∧ (a.op = .stf ∨ a.op = .clre ∨ a.op = .ldf ∧ a.w.fe = true) then decide (a.op = .stf) else aget false x.bufFull k) ∧
      (∀ k, aget false y.bufPoison k =
        if k = granKey sp g ∧ stores = true ∧ a.data.valid = 0xFFFF then false else aget false x.bufPoison k) ∧
      coreView { y with buf := x.buf, bufFull := x.bufFull, bufPoison := x.bufPoison } = coreView x ∧
      (getTile u t).port.queue = (getTile s t).port.queue.filter (fun b => b.id ≠ a.id) ∧ SameMem s u ∧ SameCoresBut s u (· = c) ∧
      SameTilesBut s u (· = t) ∧ SamePackage s u ∧
      LoadGives s u t a (if aget false x.bufPoison (granKey sp g) then 0 else 0xFFFF) (fun b => aget memDefault x.buf (bufKey sp (64 * g) + b)) := by
  intro c x sp g stores ho hin hc hf
  have hop := op_of_takes ho
  have hnat : a.op ≠ .atom := fun e => by rw [e] at hop; simp at hop
  have hstores : stores = writesOp a.op := by
    obtain h | h | h | h | h := hop <;> simp [stores, h, writesOp]
  have hstore : storesOp a.op = true → stores = true ∨ a.op = .clre := by
    obtain h | h | h | h | h := hop <;> simp [stores, h, storesOp]
  obtain ⟨hmem, hcores, -, htiles, hpackage⟩ :=
    taintedFinish_frame (s := bufAfter s t a) (t := t) (a := a) (bufBad s t a) (bufEff s t a).result a.ea
  have hq := taintedFinish_queue (s := bufAfter s t a) (t := t) (a := a) (bufBad s t a) (bufEff s t a).result a.ea
  have hp := taintedFinish_parksNone (s := bufAfter s t a) (t := t) (a := a) (bufBad s t a) (bufEff s t a).result a.ea
  have hset : ParksNone s (bufAfter s t a) := .of_tiles rfl
  have hcl : getCl (bufAfter s t a) c = bufStep x sp g (bufEff s t a) := getCl_setCl ..
  have hv : loadedLanes a (bufBad s t a) = if aget false x.bufPoison (granKey sp g) then 0 else 0xFFFF := by
    rw [loadedLanes, if_neg hnat]
    rfl
  have hload := finish_loadGives (s := s) (z := tainted (bufAfter s t a) t a (bufBad s t a)) (t := t) (fun _ => tainted_tiles _)
    (granEff_result a (granRead x sp g) (bufBad s t a)) fun b hb => elem_payloadOf_bytes x.buf (bufKey sp (64 * g)) hb
  refine perform_completes h ((performAt_buffer hs _).trans (performBuf_ok hs ho hin (fun hst => hc (hstore hst)) hf))
    (hset.trans hp) ?_
  have hy := hcores c id
  rw [hcl, bufStep_eq] at hy
  change LoadGives s (finish (tainted (bufAfter s t a) t a (bufBad s t a)) t a (bufEff s t a).result a.ea) t a _ _ at hload
  generalize finish (tainted (bufAfter s t a) t a (bufBad s t a)) t a (bufEff s t a).result a.ea = u at *
  have hbuf : (getCl u c).buf = storeLanes x.buf (bufKey sp (64 * g)) (bufEff s t a).write := (congrArg Cluster.buf hy :)
  have hfull : (getCl u c).bufFull = leaveFull false x.bufFull (granKey sp g) (bufEff s t a).full := (congrArg Cluster.bufFull hy :)
  have hbad : (getCl u c).bufPoison = clearPoison x.bufPoison (granKey sp g) (bufEff s t a).write := (congrArg Cluster.bufPoison hy :)
  refine ⟨?_, fun k => ?_, fun k => ?_, ?_, hq, hmem, fun k hk => (hcores k id).trans (congrArg coreView (getCl_setCl_other _ _ hk)), htiles, hpackage, ?_⟩
  · rw [hbuf, hstores]
    have hb := storeLanes_granEff a (granRead x sp g) (bufBad s t a) x.buf (bufKey sp (64 * g))
    rwa [storedPay, if_neg hnat] at hb
  · rw [hfull]
    exact leaveFull_granEff a (granRead x sp g) (bufBad s t a) false x.bufFull (granKey sp g) k
  · rw [hbad, hstores]
    exact clearPoison_granEff a (granRead x sp g) (bufBad s t a) x.bufPoison (granKey sp g) k
  · exact congrArg (fun z : Cluster => { z with buf := x.buf, bufFull := x.bufFull, bufPoison := x.bufPoison }) hy
  · rw [← hv]
    exact hload

/-! ## Slice windows (R235, R245) -/

theorem rereadWindows_port (s : State) (t : TileId) : SamePort t s (rereadWindows s t) := by
  unfold rereadWindows
  dsimp only
  rw [SamePort, getTile_updTile]
  split
  · rfl
  · split <;> rfl

theorem rereadWindows_frame (s : State) (t : TileId) : TileFrame s (rereadWindows s t) t := by
  unfold rereadWindows
  exact TileFrame.trans ⟨.of_eq rfl rfl rfl rfl rfl, .of_eq rfl, rfl, fun _ _ => rfl, .refl s⟩ (updTile_frame ..)

theorem rereadWindows_data (s : State) (t : TileId) : (getSlice (rereadWindows s t) (sliceOf t)).data = (getSlice s (sliceOf t)).data := by
  refine (congrArg Slice.data (getSlice_setSlice ..)).trans rfl

theorem rereadWindows_otherSlice (s : State) (t : TileId) {z : SliceId} (h : z ≠ sliceOf t) : getSlice (rereadWindows s t) z = getSlice s z :=
  getSlice_setSlice_other _ _ h

theorem setSlice_parksNone (s : State) (z : SliceId) (y : Slice) : ParksNone s (setSlice s z y) := .of_tiles rfl

theorem rereadWindows_parksNone (s : State) (t : TileId) : ParksNone s (rereadWindows s t) := by
  unfold rereadWindows
  dsimp only
  refine (setSlice_parksNone s (sliceOf t) _).trans (updTile_parksNone _ t _ fun x => ?_)
  split
  · rfl
  · split <;> rfl

section
variable (s : State) (t : TileId) (a : Access)

/-- The place of the granule of a window that an access names, and what the access does to it. -/
def winAt (s : State) (t : TileId) (a : Access) : Nat :=
  winByte (aget ({} : Window) (getSlice s (sliceOf t)).wins (a.ea.toNat / 2 ^ 20 % 8)) (a.ea.toNat / 64 % 2 ^ 14)
def winEff : GranEff := granEff a (payloadOf (readBytes (getSlice s (sliceOf t)).data (winAt s t a) 64)) false

/-- The tile and its slice after a store into a window. -/
def winStored (v : BitVec 16) (p : Payload) : State :=
  rereadWindows (setSlice s (sliceOf t) { getSlice s (sliceOf t) with
    data := storeLanes (getSlice s (sliceOf t)).data (winAt s t a) (some (v, p)) }) t

/-- The same after an access, which has yet to leave its port. -/
def winAfter : State := match (winEff s t a).write with | some (v, p) => winStored s t a v p | none => s

/-- What a store into a window leaves. -/
theorem winStored_leaves (v : BitVec 16) (p : Payload) :
    TileFrame s (winStored s t a v p) t ∧ SamePort t s (winStored s t a v p) ∧ ParksNone s (winStored s t a v p) ∧
    (∀ z, z ≠ sliceOf t → getSlice (winStored s t a v p) z = getSlice s z) ∧
    (getSlice (winStored s t a v p) (sliceOf t)).data = storeLanes (getSlice s (sliceOf t)).data (winAt s t a) (some (v, p)) := by
  have hset : ∀ y, TileFrame s (setSlice s (sliceOf t) y) t := fun y => ⟨.of_eq rfl rfl rfl rfl rfl, .of_eq rfl, rfl, fun _ _ => rfl, .refl s⟩
  refine ⟨(hset _).trans (rereadWindows_frame ..), rereadWindows_port .., (setSlice_parksNone ..).trans (rereadWindows_parksNone ..), fun z hz => ?_, ?_⟩
  · exact (rereadWindows_otherSlice _ _ hz).trans (getSlice_setSlice_other _ _ hz)
  · exact (rereadWindows_data ..).trans (congrArg Slice.data (getSlice_setSlice ..))

theorem winAfter_leaves : TileFrame s (winAfter s t a) t ∧ SamePort t s (winAfter s t a) ∧ ParksNone s (winAfter s t a) ∧
    (∀ z, z ≠ sliceOf t → getSlice (winAfter s t a) z = getSlice s z) ∧
    (getSlice (winAfter s t a) (sliceOf t)).data = storeLanes (getSlice s (sliceOf t)).data (winAt s t a) (winEff s t a).write := by
  unfold winAfter
  cases (winEff s t a).write with
  | none => exact ⟨TileFrame.refl s t, rfl, .refl s, fun _ _ => rfl, rfl⟩
  | some w => exact winStored_leaves s t a w.1 w.2

theorem winAfter_load (h : a.op = .ld) : winAfter s t a = s := by
  have hw : (winEff s t a).write = none := by rw [winEff, granEff_write, h]; rfl
  rw [winAfter, hw]

variable {s t a}

theorem performWin_ok (ho : a.op = .ld ∨ a.op = .st) (h0 : a.ea.toNat / 2 ^ 23 = 0)
    (hin : a.ea.toNat / 64 % 2 ^ 14 < 1024 * (aget ({} : Window) (getSlice s (sliceOf t)).wins (a.ea.toNat / 2 ^ 20 % 8)).usize) :
    performWin s t a = finish (winAfter s t a) t a (winEff s t a).result a.ea := by
  have hop : ¬ (a.op ≠ .ld ∧ a.op ≠ .st) := fun h => ho.elim h.1 h.2
  unfold performWin
  dsimp only
  rw [fld_top a.ea 23 (by omega), fld_eq_div_mod, fld_eq_div_mod, if_neg hop, if_neg fun h => h.elim (fun h => h h0) (Nat.not_le.mpr hin)]
  rfl

theorem access_window (h : Performs s t a) (hs : a.w.space = .window) (ho : a.op = .ld ∨ a.op = .st) :
    let y := getSlice s (sliceOf t)
    let w := aget ({} : Window) y.wins (a.ea.toNat / 2 ^ 20 % 8)
    let n := a.ea.toNat / 64 % 2 ^ 14
    a.ea.toNat / 2 ^ 23 = 0 → n < 1024 * w.usize →
    Completes .perform s fun u =>
      GranuleStored y.data (getSlice u (sliceOf t)).data (winByte w n) (if a.op = .st then a.data.valid else 0) a.data.pay ∧
      (getTile u t).port.queue = (getTile s t).port.queue.filter (fun b => b.id ≠ a.id) ∧ SameMem s u ∧ SameCores s u ∧
      SameTilesBut s u (· = t) ∧ SamePackage s u ∧ (∀ z, z ≠ sliceOf t → getSlice u z = getSlice s z) ∧
      LoadGives s u t a 0xFFFF (fun b => aget memDefault y.data (winByte w n + b)) := by
  intro y w n h0 hin
  obtain ⟨hframe, hport, hparks, hother, hdata⟩ := winAfter_leaves s t a
  obtain ⟨hmem, hcores, -, htiles, hpackage⟩ := hframe.trans (finish_frame (winAfter s t a) t a (winEff s t a).result a.ea)
  have hslices : ∀ z, getSlice (finish (winAfter s t a) t a (winEff s t a).result a.ea) z = getSlice (winAfter s t a) z := fun z =>
    congrArg (aget ({} : Slice) · (sliceKey z)) (finish_slices ..)
  refine perform_completes h ((performAt_window hs _).trans (performWin_ok ho h0 hin)) (hparks.trans (finish_parksNone ..)) ?_
  refine ⟨?_, ?_, hmem, hcores, htiles, hpackage, fun z hz => (hslices z).trans (hother z hz), ?_⟩
  · have hb := storeLanes_granEff a (payloadOf (readBytes y.data (winAt s t a) 64)) false y.data (winAt s t a)
    rw [hslices, hdata]
    obtain ho | ho := ho
    · simp only [ho, storedPay] at hb ⊢
      exact hb
    · simp only [ho, storedPay] at hb ⊢
      exact hb
  · rw [finish_queue, hport]
  · have hres : loadsOp a.op = true →
        (winEff s t a).result = some (loadTok a 0xFFFF (payloadOf (readBytes (getSlice s (sliceOf t)).data (winAt s t a) 64))) := fun hl => by
      have hnat : a.op ≠ .atom := fun e => by rw [e] at ho; exact ho.elim nofun nofun
      rw [winEff, granEff_result a _ _ hl, loadedLanes, if_neg hnat]
      rfl
    refine finish_loadGives (fun hl => ?_) hres fun b hb => elem_payloadOf_bytes y.data _ hb
    have hld : a.op = .ld := ho.resolve_right fun e => by rw [e] at hl; exact absurd hl (by decide)
    rw [winAfter_load s t a hld]

end

end

/-- Settles O25: each access is its granule's step on the tables of its memory, then `finish`. -/
theorem accessesPerform : Obligations.AccessesPerform :=
  ⟨fun _ _ _ _ _ _ h hs ht hf => access_global h hs ht hf, fun _ _ _ h hs => access_buffer h hs, fun _ _ _ h hs ho => access_window h hs ho⟩

end Sys2Proof.Machine
end

section
/-! PROOFS. The operations of the array: how one starts or is refused, and how it retires (R208, R212 to R215, R289). -/
namespace Sys2Proof.Machine
open Sys2Proof

/-! ## A cluster changed in full-empty bits alone (R208) -/

/-- A cluster is another but for the full-empty bits of its buffers and the granules that wait for one. -/
def OnlyGrans (x y : Cluster) : Prop := ∃ e f, y = { x with empt := e, bufFull := f }

section
variable {x y z : Cluster}

theorem OnlyGrans.refl (x : Cluster) : OnlyGrans x x := ⟨x.empt, x.bufFull, rfl⟩

theorem OnlyGrans.trans (h : OnlyGrans x y) (k : OnlyGrans y z) : OnlyGrans x z := by
  obtain ⟨_, _, rfl⟩ := h
  obtain ⟨e, f, rfl⟩ := k
  exact ⟨e, f, rfl⟩

theorem OnlyGrans.foldl {β : Type} {f : Cluster → β → Cluster} (h : ∀ x i, OnlyGrans x (f x i)) (l : List β) (x : Cluster) : OnlyGrans x (l.foldl f x) := by
  induction l generalizing x with
  | nil => exact .refl x
  | cons i l ih => exact (h x i).trans (ih _)

theorem OnlyGrans.getRing (h : OnlyGrans x y) (n : Nat) : getRing y n = getRing x n := by
  obtain ⟨e, f, rfl⟩ := h
  rfl

theorem OnlyGrans.getMq (h : OnlyGrans x y) (q : Nat) : getMq y q = getMq x q := by
  obtain ⟨e, f, rfl⟩ := h
  rfl

theorem bufSetFull_onlyGrans (x : Cluster) (sp g : Nat) (b : Bool) : OnlyGrans x (bufSetFull x sp g b) := ⟨_, _, rfl⟩

theorem emptyTile_onlyGrans (x : Cluster) (n : Nat) (t : BitVec 16) : OnlyGrans x (emptyTile x n t) := by
  unfold emptyTile
  dsimp only
  split
  · refine .foldl (fun y i => ?_) _ x
    split
    · exact ⟨_, _, rfl⟩
    · exact bufSetFull_onlyGrans ..
  · exact .refl x

theorem emptyDue_onlyGrans (x : Cluster) : OnlyGrans x (emptyDue x) := by
  have h : OnlyGrans x { x with empt := x.empt.filter fun k => claimed x (k / 2 ^ 16) (k % 2 ^ 16) } := ⟨_, _, rfl⟩
  refine h.trans (.foldl (fun y k => ?_) _ _)
  split
  · exact .refl y
  · exact bufSetFull_onlyGrans ..

theorem popRing_onlyGrans (x : Cluster) (n k : Nat) :
    OnlyGrans (setRing x n { getRing x n with head := (getRing x n).head + BitVec.ofNat 16 k }) (popRing x n k) :=
  .foldl (fun y _ => emptyTile_onlyGrans y n _) _ _

end

/-! ## Starting (R212 to R214) -/

section
variable {s : State} {c : ClusterId} {q : Fin 2} {o : MOp} {pre post : List MOp} {i : Instr}

/-- An operation that is the next of its queue to start. -/
structure StartTurn (s : State) (c : ClusterId) (q : Fin 2) (pre post : List MOp) (o : MOp) (i : Instr) : Prop where
  queue : getMq (getCl s c) q.val = pre ++ o :: post
  earlier : ∀ e ∈ pre, e.started = true
  waits : o.started = false
  decodes : decodeMatrix o.tok = some i

/-- A queue whose operation has started with a cause. -/
def startedWith (s : State) (c : ClusterId) (q : Fin 2) (pre post : List MOp) (o : MOp) (cause : Nat) : State :=
  setCl s c (setMq (getCl s c) q.val (pre ++ { placeOp (getCl s c) pre o with started := true, cause := cause } :: post))

/-- Whether R214's rule for an MSTC that keeps no scales refuses an operation. -/
def storesUnscaled (i : Instr) : Bool :=
  match i with
  | .mstc _ => decide ((xw i).tyc = 0 ∧ (xw i).ofmt ≠ 3)
  | _ => false

theorem startOp_eq (h : StartTurn s c q pre post o i) (err : Bool) : startOp s c q err =
    if o.cause ≠ 0 || !halfLegal (getCl s c) q.val i o.part then startedWith s c q pre post o 4
    else if storesUnscaled i then startedWith s c q pre post o 6
    else if tilesReady (getCl s c) pre i then startedWith s c q pre post o (if err then 5 else tilesCheck (getCl s c) pre i)
    else s := by
  obtain ⟨hqueue, hpre, hwaits, hdec⟩ := h
  have hsplit : splitFirst (fun o => !o.started) (pre ++ o :: post) = some (pre, o, post) :=
    splitFirst_append (fun e he => by rw [hpre e he]; rfl) (by rw [hwaits]; rfl)
  unfold startOp
  simp only [hqueue, hsplit, hdec]
  rfl

/-- What a start leaves, whatever it does to the queue. -/
theorem startOp_onlyCore (h : StartTurn s c q pre post o i) (err : Bool) : OnlyCore s (startOp s c q err) c := by
  have hput : ∀ k, OnlyCore s (startedWith s c q pre post o k) c := fun _ => setCl_onlyCore ..
  rw [startOp_eq h]
  split
  · exact hput 4
  · split
    · exact hput 6
    · split
      · exact hput _
      · exact .refl s c

theorem getMq_startedWith (k : Nat) : getMq (getCl (startedWith s c q pre post o k) c) q.val =
    pre ++ { placeOp (getCl s c) pre o with started := true, cause := k } :: post := by
  rw [startedWith, getCl_setCl, getMq_setMq]

/-- R212, R330: an operation that its half may not take is refused with cause 4. -/
theorem getMq_startOp_illegal (h : StartTurn s c q pre post o i) (err : Bool) (hn : o.cause ≠ 0 ∨ halfLegal (getCl s c) q.val i o.part = false) :
    getMq (getCl (startOp s c q err) c) q.val = pre ++ { placeOp (getCl s c) pre o with started := true, cause := 4 } :: post := by
  have hc : (decide (o.cause ≠ 0) || !halfLegal (getCl s c) q.val i o.part) = true := by
    obtain hn | hn := hn
    · rw [decide_eq_true hn]; rfl
    · rw [hn, Bool.not_false, Bool.or_true]
  rw [startOp_eq h, if_pos hc, getMq_startedWith]

/-- R208, R214: a legal operation starts once its tiles are available. -/
theorem getMq_startOp_legal (h : StartTurn s c q pre post o i) (err : Bool) (hc : o.cause = 0) (hl : halfLegal (getCl s c) q.val i o.part = true)
    (hs : storesUnscaled i = false) : getMq (getCl (startOp s c q err) c) q.val =
      if tilesReady (getCl s c) pre i then
        pre ++ { placeOp (getCl s c) pre o with started := true, cause := if err then 5 else tilesCheck (getCl s c) pre i } :: post
      else pre ++ o :: post := by
  have hn : ¬ ((decide (o.cause ≠ 0) || !halfLegal (getCl s c) q.val i o.part) = true) := by simp [hc, hl]
  rw [startOp_eq h, if_neg hn, hs, if_neg (by decide)]
  split
  · exact getMq_startedWith _
  · exact h.queue

theorem storesUnscaled_of_not (h : ¬ ∃ w, i = .mstc w ∧ w.tyc = 0 ∧ w.ofmt ≠ 3) : storesUnscaled i = false := by
  unfold storesUnscaled
  split
  · next w => exact decide_eq_false fun hw => h ⟨w, rfl, hw⟩
  · rfl

end

/-! ## Retiring (R208, R215, R289) -/

/-- A pop, and a publish, that an operation named. -/
def popDue (r : Option (Nat × Bool)) (x : Cluster) : Cluster := match r with | some (n, true) => popRing x n 1 | _ => x
def pubDue (r : Option (Nat × Bool)) (x : Cluster) : Cluster := match r with | some (n, true) => pubRing x n 1 | _ => x

/-- The tiles by which an operation moves a ring on. -/
def movesBy (r : Option (Nat × Bool)) (n : Nat) : BitVec 16 := if r = some (n, true) then 1#16 else 0#16

theorem getRing_setRing_other (x : Cluster) {n m : Nat} (r : Ring) (h : m ≠ n) : getRing (setRing x n r) m = getRing x m := by
  simp only [getRing, setRing]
  exact aget_aset_other _ _ _ h

theorem getRing_popDue (r : Option (Nat × Bool)) (x : Cluster) (m : Nat) :
    getRing (popDue r x) m = { getRing x m with head := (getRing x m).head + movesBy r m } := by
  unfold popDue movesBy
  split
  · next n =>
    by_cases h : m = n
    · subst h; rw [if_pos rfl]; exact getRing_popRing ..
    · rw [if_neg fun e => h (by injection e with e; injection e with e; exact e.symm), (popRing_onlyGrans x n 1).getRing, getRing_setRing_other _ _ h,
        BitVec.add_zero]
  · next hn => rw [if_neg (hn m), BitVec.add_zero]

theorem getRing_pubDue (r : Option (Nat × Bool)) (x : Cluster) (m : Nat) :
    getRing (pubDue r x) m = { getRing x m with tail := (getRing x m).tail + movesBy r m } := by
  unfold pubDue movesBy
  split
  · next n =>
    by_cases h : m = n
    · subst h; rw [if_pos rfl]; exact getRing_pubRing ..
    · rw [if_neg fun e => h (by injection e with e; injection e with e; exact e.symm), pubRing, getRing_setRing_other _ _ h, BitVec.add_zero]
  · next hn => rw [if_neg (hn m), BitVec.add_zero]

theorem getMq_popDue (r : Option (Nat × Bool)) (x : Cluster) (q : Nat) : getMq (popDue r x) q = getMq x q := by
  unfold popDue
  split
  · exact (popRing_onlyGrans ..).getMq q
  · rfl

theorem getMq_pubDue (r : Option (Nat × Bool)) (x : Cluster) (q : Nat) : getMq (pubDue r x) q = getMq x q := by
  unfold pubDue
  split <;> rfl

theorem settleMode_rings (x : Cluster) (n : Nat) : getRing (settleMode x) n = getRing x n := by
  unfold settleMode
  split
  · split <;> rfl
  · rfl

theorem settleMode_mqs (x : Cluster) (q : Nat) : getMq (settleMode x) q = getMq x q := by
  unfold settleMode
  split
  · split <;> rfl
  · rfl

/-- A cluster after the pops and the publish of an accepted operation. -/
def movedOn (o : MOp) (x : Cluster) : Cluster :=
  if o.cause = 0 then pubDue (opUse o).dst (popDue (opUse o).b (popDue (opUse o).a x)) else x

/-- A cluster whose oldest operation of a queue has retired. -/
def retired (x : Cluster) (q : Nat) (o : MOp) (rest : List MOp) : Cluster := settleMode (emptyDue (movedOn o (setMq x q rest)))

section
variable (x : Cluster) (q : Nat) (o : MOp) (rest : List MOp)

theorem getMq_retired : getMq (retired x q o rest) q = rest := by
  rw [retired, settleMode_mqs, (emptyDue_onlyGrans _).getMq, movedOn]
  split
  · rw [getMq_pubDue, getMq_popDue, getMq_popDue, getMq_setMq]
  · exact getMq_setMq ..

theorem getRing_retired (n : Nat) : getRing (retired x q o rest) n = if o.cause = 0 then
    { getRing x n with head := (getRing x n).head + movesBy (opUse o).a n + movesBy (opUse o).b n, tail := (getRing x n).tail + movesBy (opUse o).dst n }
    else getRing x n := by
  rw [retired, settleMode_rings, (emptyDue_onlyGrans _).getRing, movedOn]
  split
  · rw [getRing_pubDue, getRing_popDue, getRing_popDue]
    rfl
  · rfl

end

/-- A retirement is counted at its MXN's tile, and recorded if it was refused. -/
def noteRetired (s : State) (o : MOp) (half : Nat) : State :=
  if o.cause = 0 then countEv s o.tile 0x30 half 1
  else recT (countEv s o.tile 0x31 half 1) o.tile
    { kind := 0x12, thr := o.thr, sub := o.slot.val, p0 := retireValue o.tok o.cause, p1 := word half }

/-- OUT of the MXN at a slot. -/
def mxnOut (x : Tile) (k : Nat) : BitVec 4 := match slotInstr x k with | some (.mxn w) => w.out | _ => 0

section
variable (s : State) (o : MOp) (half : Nat)

theorem noteRetired_frame : TileFrame s (noteRetired s o half) o.tile := by
  unfold noteRetired
  split
  · exact countEv_frame ..
  · exact (countEv_frame ..).trans (recT_frame ..)

theorem noteRetired_tiles : (noteRetired s o half).tiles = s.tiles := by
  unfold noteRetired
  split
  · exact countEv_tiles ..
  · exact (recT_tiles ..).trans (countEv_tiles ..)

end

/-- The state that a retirement leaves. -/
def retireState (s : State) (c : ClusterId) (q : Fin 2) (o : MOp) (rest : List MOp) : State :=
  fillFiring (noteRetired (setCl s c (retired (getCl s c) q.val o rest)) o (opHalf (getCl s c) q.val o)) ⟨o.tile, o.slot⟩ o.id
    (valueEms (mxnOut (getTile s o.tile) o.slot.val) (retireValue o.tok o.cause) (o.cause = 0) o.thr)

section
variable {s : State} {c : ClusterId} {q : Fin 2} {o : MOp} {rest : List MOp}

theorem execMatrixRetire_retires (hh : s.here = .array c q) (hq : getMq (getCl s c) q.val = o :: rest) (hs : o.started = true)
    (hd : o.ran = true ∧ o.todo = [] ∨ o.cause ≠ 0) : execMatrixRetire s = .next (retireState s c q o rest) := by
  have hdue : (o.started && (o.ran && o.todo.isEmpty || decide (o.cause ≠ 0))) = true := by
    obtain ⟨hr, ht⟩ | hc := hd
    · simp [hs, hr, ht]
    · simp [hs, hc]
  have ht : ∀ x half, getTile (noteRetired (setCl s c x) o half) o.tile = getTile s o.tile := fun x half => getTile_of_tiles (noteRetired_tiles ..) _
  rw [retireState, ← ht (retired (getCl s c) q.val o rest) (opHalf (getCl s c) q.val o)]
  unfold execMatrixRetire
  simp only [hh, hq, hdue, if_true]
  unfold noteRetired retired movedOn
  split <;> rfl

/-- The word of a retirement token: its token's upper bits, and the cause (R215). -/
theorem retireValue_eq (tok : Word) (cause : Nat) :
    retireValue tok cause = word (tok.toNat / 2 ^ 53 * 2 ^ 53 + (if cause = 0 then 0 else 256 + cause)) := by
  have htop : fld tok 63 55 = tok.toNat / 2 ^ 55 := fld_top tok 55 (by omega)
  have hmid : fld tok 54 53 = tok.toNat / 2 ^ 53 % 4 := fld_eq_div_mod ..
  have hsum : tok.toNat / 2 ^ 55 * 2 ^ 55 + tok.toNat / 2 ^ 53 % 4 * 2 ^ 53 = tok.toNat / 2 ^ 53 * 2 ^ 53 := by omega
  have hcause : (if cause = 0 then 0 else 256) + cause = if cause = 0 then 0 else 256 + cause := by
    by_cases h : cause = 0
    · rw [if_pos h, if_pos h, h]
    · rw [if_neg h, if_neg h]
  rw [retireValue, htop, hmid, hsum, Nat.add_assoc, hcause]

theorem matrixRetire_retires (hh : s.here = .array c q) (hq : getMq (getCl s c) q.val = o :: rest) (hs : o.started = true)
    (hd : o.ran = true ∧ o.todo = [] ∨ o.cause ≠ 0) :
    Completes .matrixRetire s fun u => SameMem s u ∧ SameCoresBut s u (· = c) ∧ SameTilesBut s u (· = o.tile) ∧
      getMq (getCl u c) q.val = rest ∧
      (∀ n, getRing (getCl u c) n = getRing (retired (getCl s c) q.val o rest) n) ∧
      (∀ f ∈ pipeOf s ⟨o.tile, o.slot⟩, f.id = o.id → f.ready = false →
        { f with ready := true, ems := valueEms (mxnOut (getTile s o.tile) o.slot.val) (retireValue o.tok o.cause) (o.cause = 0) o.thr } ∈
          pipeOf u ⟨o.tile, o.slot⟩) := by
  refine ⟨_, execMatrixRetire_retires hh hq hs hd, ?_⟩
  obtain ⟨hmem, hcores, -, htiles, -⟩ :=
    (noteRetired_frame (setCl s c (retired (getCl s c) q.val o rest)) o (opHalf (getCl s c) q.val o)).trans
      (updTile_frame _ o.tile fun x => updSlot x o.slot.val fun y => { y with pipe := y.pipe.map fun f => if f.id = o.id && !f.ready then
        { f with ready := true, ems := valueEms (mxnOut (getTile s o.tile) o.slot.val) (retireValue o.tok o.cause) (o.cause = 0) o.thr } else f })
  have hc := hcores c id
  rw [getCl_setCl] at hc
  refine ⟨hmem, fun k hk => (hcores k id).trans (congrArg coreView (getCl_setCl_other _ _ hk)), htiles, ?_, fun n => ?_, fun f hf hid hr => ?_⟩
  · exact (getMq_of_coreView hc _).trans (getMq_retired ..)
  · exact getRing_of_coreView hc n
  · rw [retireState, pipeOf_eq, slotAt_fillFiring]
    have ht := getTile_of_tiles (noteRetired_tiles (setCl s c (retired (getCl s c) q.val o rest)) o (opHalf (getCl s c) q.val o)) o.tile
    rw [slotAt, ht]
    exact List.mem_map.mpr ⟨f, hf, by simp [hid, hr]⟩

end

/-- Settles O35: a start is one of three placements in its queue; a retirement is the named pops and publish and the token. -/
theorem arrayOperationsStartAndRetire : Obligations.ArrayOperationsStartAndRetire := by
  intro s c q o x
  refine ⟨fun pre post i hh hq hpre hw hd => ?_, fun pre n pop => ⟨fun h => ?_, fun h => ?_, fun h => ?_⟩, fun rest hh hq hs hdue => ?_⟩
  · have h : StartTurn s c q pre post o i := ⟨hq, hpre, hw, hd⟩
    have hexec : execMatrixOpStart s = .next (startOp s c q (s.here = .rowError c q)) := by
      obtain hh | hh := hh <;> simp [execMatrixOpStart, hh]
    obtain ⟨hmem, htiles, -, -, -, hcores, -⟩ := startOp_onlyCore h (s.here = .rowError c q)
    refine ⟨_, hexec, hmem, htiles, hcores, getMq_startOp_illegal h _, fun hc hl hn => ?_⟩
    simpa using getMq_startOp_legal h (s.here = .rowError c q) hc hl (storesUnscaled_of_not hn)
  · simp only [placeOp, h]
  · simp only [placeOp, h]
  · simp only [placeOp, h]
  · obtain ⟨u, hu, hmem, hcores, htiles, hmq, hring, hfill⟩ := matrixRetire_retires hh hq hs hdue
    refine ⟨u, hu, hmem, hcores, htiles, hmq, fun n => ?_, fun f hf hid hr => ⟨_, hfill f hf hid hr, fun w hw ho => ?_⟩⟩
    · dsimp only
      rw [hring, getRing_retired]
      split
      · exact ⟨rfl, rfl⟩
      · rfl
    · have hout : mxnOut (getTile s o.tile) o.slot.val = 4 := by rw [mxnOut, hw]; exact ho
      rw [hout, retireValue_eq]
      rfl

end Sys2Proof.Machine
end

section
/-! PROOFS. The posts of a core to its engines (R198, R227, R391, R395 to R397, R433): each gives a status, or puts its descriptor at a queue's end. -/
namespace Sys2Proof.Machine
open Sys2Proof

/-! ## A post to an engine -/

/-- A post has given a value, the rest as it stood but for what the post says. -/
def PostGives (i : Instr) (s s' : State) (c : ClusterId) (rd : Fin 32) (pc v : Word) (q : State → Prop) : Prop :=
  Completes i s fun t => SameMem s' t ∧ SameCoresBut s' t (· = c) ∧ t.tiles = s'.tiles ∧ t.launches = s'.launches ∧ SamePackage s' t ∧
    (getCl t c).pc = pc ∧ SameRegsBut s' t c rd ∧ (rd ≠ 0 → getX (getCl t c) rd = v) ∧ q t

/-- No engine has changed. -/
def EnginesStand (c : ClusterId) (s t : State) : Prop := t.dies = s.dies ∧ (getCl t c).copy = (getCl s c).copy

theorem postGives_of {i : Instr} {s s' z : State} {c : ClusterId} {rd : Fin 32} {pc v : Word} (e : exec i s = .next (giveX z c rd v pc))
    (hm : SameMem s' z) (hl : z.launches = s'.launches) (h : PostStep c s' z) {q : State → Prop} (hq : q (giveX z c rd v pc)) :
    PostGives i s s' c rd pc v q := by
  obtain ⟨hmem, htiles, hlaunches, -, -, hcores, hpkg⟩ := giveX_onlyCore z c rd v pc
  exact ⟨_, e, hm.trans hmem, h.cores.trans hcores, htiles.trans h.tiles, hlaunches.trans hl, h.package.trans hpkg, giveX_pc ..,
    giveX_regs_of_step h.regs rd v pc, giveX_getX _ _ _ _ _, hq⟩

theorem giveX_enginesStand (s : State) (c : ClusterId) (rd : Fin 32) (v pc : Word) : EnginesStand c s (giveX s c rd v pc) := by
  obtain ⟨-, -, hdies, hview⟩ := giveX_still s c rd v pc
  exact ⟨hdies, (congrArg Cluster.copy hview :)⟩

theorem status_two : status 2 = -2 := by decide
theorem status_five : status 5 = -5 := by decide

section
variable {w : CWord} {c : ClusterId} {s s1 : State} {i : Instr} {v : Word}

/-- A value given, and nothing else. -/
theorem postGives_value (e : exec i s = .next (posted w s c s1 v)) :
    PostGives i s s1 c w.xd ((getCl s c).pc + coreSize w.long) v (EnginesStand c s1) :=
  postGives_of e (.refl s1) rfl (.refl c s1) (giveX_enginesStand ..)

theorem postGives_status {n : Nat} (e : exec i s = .next (posted w s c s1 (status n))) (hv : status n = v) :
    PostGives i s s1 c w.xd ((getCl s c).pc + coreSize w.long) v (EnginesStand c s1) := hv ▸ postGives_value e

/-! ## The end of a queue -/

/-- An engine with a descriptor at its queue's end. -/
def joinQueue (ws : List Word) (c : ClusterId) (ctx : BitVec 12) (y : Engine) : Engine :=
  { y with queue := y.queue ++ [{ num := y.next, words := ws, core := c, ctx := ctx }], next := y.next + 1 }

/-- A descriptor stands at the end of an engine's queue, under the engine's next number. -/
def Joins (e : EngineId) (ws : List Word) (c : ClusterId) (ctx : BitVec 12) (s t : State) : Prop :=
  (getEngine t e).queue = (getEngine s e).queue ++ [{ num := (getEngine s e).next, words := ws, core := c, ctx := ctx }] ∧
  (getEngine t e).next = (getEngine s e).next + 1

/-- The engines that a core posts to. -/
def postable (c : ClusterId) (e : EngineId) : Prop := e = .copy c ∨ e = .collective c.die

theorem getEngine_updEngine {e : EngineId} (he : postable c e) (s : State) (f : Engine → Engine) : getEngine (updEngine s e f) e = f (getEngine s e) := by
  obtain rfl | rfl := he
  · simp only [getEngine, updEngine, getCl_updCl]
  · simp only [getEngine, updEngine, updDie, getDie_setDie]

theorem getEngine_giveX {e : EngineId} (he : postable c e) (s : State) (rd : Fin 32) (v pc : Word) : getEngine (giveX s c rd v pc) e = getEngine s e := by
  obtain ⟨hdies, hcopy⟩ := giveX_enginesStand s c rd v pc
  obtain rfl | rfl := he
  · exact hcopy
  · exact congrArg (fun d => (aget ({} : Die) d c.die.val).collective) hdies

theorem updEngine_step {e : EngineId} (he : postable c e) (s : State) (f : Engine → Engine) :
    SameMem s (updEngine s e f) ∧ (updEngine s e f).launches = s.launches ∧ PostStep c s (updEngine s e f) := by
  obtain rfl | rfl := he
  · obtain ⟨hmem, htiles, hlaunches, -, -, hcores, hpkg⟩ := updCl_onlyCore s c fun x => { x with copy := f x.copy }
    exact ⟨hmem, hlaunches, hcores, htiles, hpkg, by rw [updEngine, getCl_updCl]⟩
  · exact ⟨.of_eq rfl rfl rfl rfl rfl, rfl, postStep_updDie c s c.die fun y => { y with collective := f y.collective }⟩

variable {e : EngineId} {x : Cluster} {ws : List Word}

theorem postTo_full (hn : 32 ≤ (getEngine s1 e).queue.length) : coreNext w s c (postTo e w c x ws s1) = posted w s c s1 (status 5) := by
  rw [postTo, if_pos hn]
  rfl

theorem postTo_joins (hn : (getEngine s1 e).queue.length < 32) :
    coreNext w s c (postTo e w c x ws s1) = posted w s c (updEngine s1 e (joinQueue ws c x.ctx)) (word (getEngine s1 e).next) := by
  rw [postTo, if_neg (Nat.not_le.mpr hn)]
  rfl

/-- A post to a queue of 32 with room joins it; one to a full queue is refused. -/
theorem postGives_postTo (he : postable c e) (hx : exec i s = .next (coreNext w s c (postTo e w c x ws s1))) :
    (32 ≤ (getEngine s1 e).queue.length → PostGives i s s1 c w.xd ((getCl s c).pc + coreSize w.long) (-5) (EnginesStand c s1)) ∧
    ((getEngine s1 e).queue.length < 32 →
      PostGives i s s1 c w.xd ((getCl s c).pc + coreSize w.long) (word (getEngine s1 e).next) (Joins e ws c x.ctx s1)) := by
  refine ⟨fun hn => postGives_status (hx.trans (congrArg _ (postTo_full hn))) status_five, fun hn => ?_⟩
  obtain ⟨hm, hl, hp⟩ := updEngine_step he s1 (joinQueue ws c x.ctx)
  refine postGives_of (hx.trans (congrArg _ (postTo_joins hn))) hm hl hp ?_
  rw [Joins, getEngine_giveX he, getEngine_updEngine he]
  exact ⟨rfl, rfl⟩

end

/-! ## What the core's entries cover (R433) -/

/-- A counter that a post names is covered, or there is none. -/
def CntOk (x : Cluster) (va : Word) : Prop := va = 0 ∨ coreCovers x va = true

theorem cntOk_iff (x : Cluster) (va : Word) : (decide (va ≠ 0) && !coreCovers x va) = false ↔ CntOk x va := by
  simp only [CntOk, Bool.and_eq_false_iff, decide_eq_false_iff_not, ne_eq, not_not, Bool.not_eq_false']

/-- Whether the ranges of a copy are covered. -/
def CopyCovered (x : Cluster) (ws : List Word) : Prop :=
  CntOk x (ws.getD 4 0) ∧ coreCovers x (ws.getD 0 0) = true ∧ ((ws.getD 3 0).toNat / 2 ^ 12 % 16 = 0 → coreCovers x (ws.getD 1 0) = true)

theorem copyCovered_iff (x : Cluster) (ws : List Word) :
    ((decide (ws.getD 4 0 ≠ 0) && !coreCovers x (ws.getD 4 0)) || !coreCovers x (ws.getD 0 0) ||
      (decide (fld (ws.getD 3 0) 15 12 = 0) && !coreCovers x (ws.getD 1 0))) = false ↔ CopyCovered x ws := by
  have hs : fld (ws.getD 3 0) 15 12 = (ws.getD 3 0).toNat / 2 ^ 12 % 16 := fld_eq_div_mod ..
  rw [Bool.or_eq_false_iff, Bool.or_eq_false_iff, cntOk_iff, hs, and_assoc, CopyCovered, Bool.not_eq_false', Bool.and_eq_false_imp, decide_eq_true_iff,
    Bool.not_eq_false']

/-- Whether the ranges of a collective are covered. -/
def ColCovered (x : Cluster) (ws : List Word) : Prop :=
  CntOk x (ws.getD 5 0) ∧ coreCovers x (ws.getD 0 0) = true ∧ coreCovers x (ws.getD 1 0) = true

theorem colCovered_iff (x : Cluster) (ws : List Word) :
    ((decide (ws.getD 5 0 ≠ 0) && !coreCovers x (ws.getD 5 0)) || !coreCovers x (ws.getD 0 0) || !coreCovers x (ws.getD 1 0)) = false ↔
      ColCovered x ws := by
  rw [Bool.or_eq_false_iff, Bool.or_eq_false_iff, cntOk_iff, and_assoc, ColCovered, Bool.not_eq_false', Bool.not_eq_false']

/-- The endpoint that a work request names (R396). -/
def postedEp (ws : List Word) : Nat := (ws.getD 3 0).toNat / 2 ^ 32 % 256

/-- Whether a work request's endpoint is the context's, and its ranges are covered. -/
def WrCovered (s : State) (d : Fin 4) (x : Cluster) (ws : List Word) : Prop :=
  wbit (epWord s d (postedEp ws) 0) 63 = true ∧ epCtx s d (postedEp ws) = x.ctx ∧ CntOk x (ws.getD 4 0) ∧ coreCovers x (ws.getD 0 0) = true

theorem wrCovered_iff (s : State) (d : Fin 4) (x : Cluster) (ws : List Word) :
    (!wbit (epWord s d (postedEp ws) 0) 63 || decide (epCtx s d (postedEp ws) ≠ x.ctx) ||
      (decide (ws.getD 4 0 ≠ 0) && !coreCovers x (ws.getD 4 0)) || !coreCovers x (ws.getD 0 0)) = false ↔ WrCovered s d x ws := by
  rw [Bool.or_eq_false_iff, Bool.or_eq_false_iff, Bool.or_eq_false_iff, cntOk_iff, and_assoc, and_assoc, WrCovered, Bool.not_eq_false', Bool.not_eq_false',
    decide_eq_false_iff_not, ne_eq, not_not]

section
variable {w : CWord} {c : ClusterId} {s : State} (h : CoreTurn s c w)
include h

/-! ## CPYPOST (R227) -/

section
variable (ha : (getX (getCl s c) w.xa).toNat % 64 = 0) {ws : List Word} {s1 : State} (hd : readDesc c 1 (getX (getCl s c) w.xa) s = .words ws s1)
include ha hd

theorem cpypost_badFields (hf : copyFieldsOk (getCl s c) ws = false) : execCpypost w s = .next (posted w s c s1 (status 1)) := by
  rw [execCpypost, withDesc_words h _ _ ha hd]
  simp only [hf, Bool.not_false, if_true]
  rfl

theorem cpypost_uncovered (hf : copyFieldsOk (getCl s c) ws = true) (hn : ¬ CopyCovered (getCl s c) ws) :
    execCpypost w s = .next (posted w s c s1 (status 3)) := by
  rw [← copyCovered_iff, Bool.not_eq_false] at hn
  rw [execCpypost, withDesc_words h _ _ ha hd]
  simp only [hf, Bool.not_true, Bool.false_eq_true, if_false]
  rw [if_pos hn]
  rfl

theorem cpypost_posts (hf : copyFieldsOk (getCl s c) ws = true) (hn : CopyCovered (getCl s c) ws) :
    execCpypost w s = .next (coreNext w s c (postTo (.copy c) w c (getCl s c) ws s1)) := by
  rw [← copyCovered_iff] at hn
  rw [execCpypost, withDesc_words h _ _ ha hd]
  simp only [hf, Bool.not_true, Bool.false_eq_true, if_false]
  rw [if_neg (Bool.eq_false_iff.mp hn)]

/-! ## COLPOST (R391) -/

theorem colpost_badFields (hf : colFieldsOk s1 c.die (getCl s c).ctx ws = false) : execColpost w s = .next (posted w s c s1 (status 1)) := by
  rw [execColpost, withDesc_words h _ _ ha hd]
  simp only [hf, Bool.not_false, if_true]
  rfl

/-- The transfer that a descriptor asks a collective for. -/
def colAsked (ws : List Word) (c : ClusterId) (ctx : BitVec 12) : Transfer := { num := 0, words := ws, core := c, ctx := ctx }

section
variable (hf : colFieldsOk s1 c.die (getCl s c).ctx ws = true)
include hf

theorem colpost_noMembers (hm : colMembers s1 c.die (getCl s c).ctx (colRanks (colAsked ws c (getCl s c).ctx)) = none) :
    execColpost w s = .next (posted w s c s1 (status 2)) := by
  rw [execColpost, withDesc_words h _ _ ha hd]
  rw [colAsked] at hm
  simp only [hf, Bool.not_true, Bool.false_eq_true, if_false, hm]
  rfl

variable {ms : List (Nat × Fin 4)} (hm : colMembers s1 c.die (getCl s c).ctx (colRanks (colAsked ws c (getCl s c).ctx)) = some ms)
include hm

theorem colpost_notMember (hme : ms[colMe (colAsked ws c (getCl s c).ctx)]? ≠ some (Config.deviceNumber.toNat, c.die)) :
    execColpost w s = .next (posted w s c s1 (status 2)) := by
  rw [execColpost, withDesc_words h _ _ ha hd]
  rw [colAsked] at hm hme
  simp only [hf, Bool.not_true, Bool.false_eq_true, if_false, hm]
  rw [if_pos hme]
  rfl

variable (hme : ms[colMe (colAsked ws c (getCl s c).ctx)]? = some (Config.deviceNumber.toNat, c.die))
include hme

theorem colpost_uncovered (hn : ¬ ColCovered (getCl s c) ws) : execColpost w s = .next (posted w s c s1 (status 3)) := by
  rw [← colCovered_iff, Bool.not_eq_false] at hn
  rw [execColpost, withDesc_words h _ _ ha hd]
  rw [colAsked] at hm hme
  simp only [hf, Bool.not_true, Bool.false_eq_true, if_false, hm]
  rw [if_neg (not_not.mpr hme), if_pos hn]
  rfl

theorem colpost_posts (hn : ColCovered (getCl s c) ws) :
    execColpost w s = .next (coreNext w s c (postTo (.collective c.die) w c (getCl s c) ws s1)) := by
  rw [← colCovered_iff] at hn
  rw [execColpost, withDesc_words h _ _ ha hd]
  rw [colAsked] at hm hme
  simp only [hf, Bool.not_true, Bool.false_eq_true, if_false, hm]
  rw [if_neg (not_not.mpr hme), if_neg (Bool.eq_false_iff.mp hn)]

end
end

/-! ## NEPOST, NEPOLL (R395 to R397) -/

theorem engineOff_turn : engineOff s = !(getDie s c.die).nectl.getLsbD 63 := by
  obtain ⟨hh, -⟩ := h
  simp only [engineOff, hh, wbit]

theorem nepost_off (hoff : (getDie s c.die).nectl.getLsbD 63 = false) : execNepost w s = .next (posted w s c s (status 5)) := by
  rw [execNepost, engineOff_turn h, hoff, if_pos (by decide), atCore_turn h]
  rfl

variable (hon : (getDie s c.die).nectl.getLsbD 63 = true)
include hon

/-- What NEPOST does with its descriptor while the engine is on. -/
def nepostDesc (w : CWord) (c : ClusterId) (x : Cluster) (ws : List Word) (s : State) : CoreRes :=
  if !wrFieldsOk (getDie s c.die) ws then .done (putX s c w.xd (status 1))
  else if !wbit (epWord s c.die (postedEp ws) 0) 63 || decide (epCtx s c.die (postedEp ws) ≠ x.ctx) ||
      (decide (ws.getD 4 0 ≠ 0) && !coreCovers x (ws.getD 4 0)) || !coreCovers x (ws.getD 0 0) then .done (putX s c w.xd (status 3))
  else if 256 ≤ (getDie s c.die).wreqs.length then .done (putX s c w.xd (status 5))
  else .done (putX (updDie s c.die fun y => { y with wreqs := y.wreqs ++ [{ num := y.nextWr, words := ws, core := c, ctx := x.ctx }], nextWr := y.nextWr + 1 })
    c w.xd (word (getDie s c.die).nextWr))

theorem execNepost_on : execNepost w s = withDesc w s 1 (nepostDesc w) := by
  have hep : ∀ ws : List Word, fld (ws.getD 3 0) 39 32 = postedEp ws := fun ws => fld_eq_div_mod ..
  rw [execNepost, engineOff_turn h, hon, if_neg (by decide)]
  simp only [hep]
  rfl

variable (ha : (getX (getCl s c) w.xa).toNat % 64 = 0) {ws : List Word} {s1 : State} (hd : readDesc c 1 (getX (getCl s c) w.xa) s = .words ws s1)
include ha hd

theorem nepost_badFields (hf : wrFieldsOk (getDie s1 c.die) ws = false) : execNepost w s = .next (posted w s c s1 (status 1)) := by
  rw [execNepost_on h hon, withDesc_words h _ _ ha hd, nepostDesc, hf, if_pos (by decide)]
  rfl

variable (hf : wrFieldsOk (getDie s1 c.die) ws = true)
include hf

theorem nepost_uncovered (hn : ¬ WrCovered s1 c.die (getCl s c) ws) : execNepost w s = .next (posted w s c s1 (status 3)) := by
  rw [← wrCovered_iff, Bool.not_eq_false] at hn
  rw [execNepost_on h hon, withDesc_words h _ _ ha hd, nepostDesc, hf, if_neg (by decide), if_pos hn]
  rfl

variable (hn : WrCovered s1 c.die (getCl s c) ws)
include hn

theorem nepost_full (hl : 256 ≤ (getDie s1 c.die).wreqs.length) : execNepost w s = .next (posted w s c s1 (status 5)) := by
  rw [← wrCovered_iff] at hn
  rw [execNepost_on h hon, withDesc_words h _ _ ha hd, nepostDesc, hf, if_neg (by decide), if_neg (Bool.eq_false_iff.mp hn), if_pos hl]
  rfl

/-- A die with a work request at its queue's end. -/
def joinWreqs (ws : List Word) (c : ClusterId) (ctx : BitVec 12) (y : Die) : Die :=
  { y with wreqs := y.wreqs ++ [{ num := y.nextWr, words := ws, core := c, ctx := ctx }], nextWr := y.nextWr + 1 }

theorem nepost_joins (hl : (getDie s1 c.die).wreqs.length < 256) : execNepost w s =
    .next (posted w s c (updDie s1 c.die (joinWreqs ws c (getCl s c).ctx)) (word (getDie s1 c.die).nextWr)) := by
  rw [← wrCovered_iff] at hn
  rw [execNepost_on h hon, withDesc_words h _ _ ha hd, nepostDesc, hf, if_neg (by decide), if_neg (Bool.eq_false_iff.mp hn), if_neg (Nat.not_le.mpr hl)]
  rfl

end

/-- What NEPOLL answers. -/
def pollAnswer (y : Die) (n : Nat) (ctx : BitVec 12) : Word :=
  if y.wreqs.any fun q => q.num = n && q.ctx = ctx then 0
  else match y.completed.find? fun q => q.1 = n && q.2.1 = ctx with
    | some q => word (0x100 + q.2.2)
    | none => status 1

theorem nepoll_answers {w : CWord} {c : ClusterId} {s : State} (h : CoreTurn s c w) :
    execNepoll w s = .next (posted w s c s (pollAnswer (getDie s c.die) (getX (getCl s c) w.xa).toNat (getCl s c).ctx)) := by
  rw [execNepoll, atCore_turn h]
  rfl

section
variable {y : Die} {n : Nat} {ctx : BitVec 12}

theorem any_mine : (y.wreqs.any fun q => q.num = n && q.ctx = ctx) = true ↔ ∃ q ∈ y.wreqs, q.num = n ∧ q.ctx = ctx := by
  simp only [List.any_eq_true, Bool.and_eq_true, decide_eq_true_iff]

theorem pollAnswer_mine (h : ∃ q ∈ y.wreqs, q.num = n ∧ q.ctx = ctx) : pollAnswer y n ctx = 0 := if_pos (any_mine.mpr h)

variable (h : ¬ ∃ q ∈ y.wreqs, q.num = n ∧ q.ctx = ctx)
include h

theorem pollAnswer_none (hd : (y.completed.find? fun q => q.1 = n && q.2.1 = ctx) = none) : pollAnswer y n ctx = -1 := by
  rw [pollAnswer, if_neg (mt any_mine.mp h), hd]
  exact status_one

theorem pollAnswer_done {q : Nat × BitVec 12 × Nat} (hd : (y.completed.find? fun q => q.1 = n && q.2.1 = ctx) = some q) :
    pollAnswer y n ctx = word (0x100 + q.2.2) := by
  rw [pollAnswer, if_neg (mt any_mine.mp h), hd]

end

/-- Settles O49: each post is a status given, or its descriptor put at a queue's end and its number given. -/
theorem enginePosts : Obligations.EnginePosts := by
  intro w c s s1 ws h x a after y gives still joins covered cntOk on
  have hoff : ¬ on → (getDie s c.die).nectl.getLsbD 63 = false := fun hn => Bool.eq_false_iff.mpr hn
  have misaligned : ∀ {i go}, exec i s = withDesc w s 1 go → a.toNat % 64 ≠ 0 → gives i s (-1) (still s) := fun e ha =>
    postGives_status (e.trans (withDesc_misaligned h 1 _ ha)) status_one
  have waits : ∀ {i go}, exec i s = withDesc w s 1 go → a.toNat % 64 = 0 → readDesc c 1 a s = .wait → Waits i s := fun e ha hd =>
    e.trans (withDesc_wait h 1 _ ha hd)
  obtain ⟨_, copy⟩ : ∃ go, execCpypost w s = withDesc w s 1 go := ⟨_, rfl⟩
  obtain ⟨_, col⟩ : ∃ go, execColpost w s = withDesc w s 1 go := ⟨_, rfl⟩
  refine ⟨fun hn => postGives_status (nepost_off h (hoff hn)) status_five,
    fun ha => ⟨misaligned copy ha, misaligned col ha, fun hon => misaligned (execNepost_on h hon) ha⟩,
    fun ha hd => ⟨waits copy ha hd, waits col ha hd, fun hon => waits (execNepost_on h hon) ha hd⟩,
    fun ha hd => ⟨fun hf => postGives_status (cpypost_badFields h ha hd hf) status_one, ⟨fun hf hn => ?_, fun hf hn => ?_, fun hf hn => ?_⟩,
      ⟨fun hf => postGives_status (colpost_badFields h ha hd hf) status_one, fun hf => ⟨fun hm => ?_, fun ms hm => ⟨fun hme => ?_, fun hme hn => ?_,
        fun hme hn => ?_, fun hme hn => ?_⟩⟩⟩,
      ⟨fun hon hf => postGives_status (nepost_badFields h hon ha hd hf) status_one, fun hon hf hn => ?_, fun hon hf hn hl => ?_, fun hon hf hn hl => ?_⟩⟩,
    ⟨fun hm => ?_, fun hm hd => ?_, fun n ctx st hm hd => ?_⟩⟩
  · exact postGives_status (cpypost_uncovered h ha hd hf hn) status_three
  · exact (postGives_postTo (i := .cpypost w) (.inl rfl) (cpypost_posts h ha hd hf hn)).1
  · exact (postGives_postTo (i := .cpypost w) (.inl rfl) (cpypost_posts h ha hd hf hn)).2
  · exact postGives_status (colpost_noMembers h ha hd hf hm) status_two
  · exact postGives_status (colpost_notMember h ha hd hf hm hme) status_two
  · exact postGives_status (colpost_uncovered h ha hd hf hm hme hn) status_three
  · exact (postGives_postTo (i := .colpost w) (.inr rfl) (colpost_posts h ha hd hf hm hme hn)).1
  · exact (postGives_postTo (i := .colpost w) (.inr rfl) (colpost_posts h ha hd hf hm hme hn)).2
  · exact postGives_status (nepost_uncovered h hon ha hd hf hn) status_three
  · exact postGives_status (nepost_full h hon ha hd hf hn hl) status_five
  · refine postGives_of (i := .nepost w) (s' := s1) (nepost_joins h hon ha hd hf hn hl) (.of_eq rfl rfl rfl rfl rfl) rfl (postStep_updDie ..) ?_
    rw [getDie_giveX, updDie, getDie_setDie]
    exact ⟨rfl, rfl⟩
  · exact postGives_value ((nepoll_answers h).trans (by rw [pollAnswer_mine hm]))
  · exact postGives_value ((nepoll_answers h).trans (by rw [pollAnswer_none hm hd]))
  · exact postGives_value ((nepoll_answers h).trans (by rw [pollAnswer_done hm hd]))

end Sys2Proof.Machine
end

section
/-! PROOFS. Engines: an engine's access, a granule that it writes, a counter that it adds to, a fault that it records (R228, R310, R313, R432). -/
namespace Sys2Proof.Machine
open Sys2Proof

section
variable {s : State} {e : EngineId} {core : ClusterId} {ctx : BitVec 12} {va : Word} {need : Need} {pa k : Nat}

/-! ## An access (R310, R313) -/

/-- An access that translates, of a page without a residency byte, changes nothing. -/
theorem engAccess_ok (ht : translate s (engDie e) (coreTable (getCl s core)) ctx va need = .ok pa k none) (src : Nat) :
    engAccess s e core ctx va need src none = (s, .at_ pa) := by
  simp only [engAccess, knownWaits, knownFailed, Bool.false_eq_true, if_false, ht, markAcc]

theorem engAccess_denied (ht : translate s (engDie e) (coreTable (getCl s core)) ctx va need = .perm k) (src : Nat) :
    engAccess s e core ctx va need src none = (s, .denied k) := by
  simp only [engAccess, knownWaits, knownFailed, Bool.false_eq_true, if_false, ht]

end

/-! ## A granule that an engine writes (R203, R228, R429) -/

/-- A granule written and set full, with the poison of its source. -/
def putGran (s : State) (phys : Option (Fin 4 × Fin 64)) (ctx : BitVec 12) (pa : Nat) (bs : List Byte) (bad : Bool) : State :=
  setPoison (fillGran s phys ctx pa bs) pa bad

section
variable {s : State} (phys : Option (Fin 4 × Fin 64)) (ctx : BitVec 12) (pa : Nat) (bs : List Byte) (bad : Bool)

theorem putGran_sameTables : SameTables s (putGran s phys ctx pa bs bad) := (fillGran_sameTables s phys ctx pa bs).trans ⟨rfl, rfl, rfl⟩

theorem engPut_eq (hp : parkedAll s = []) : engPut s phys ctx pa bs bad = putGran s phys ctx pa bs bad :=
  settle_of_noneParked ((parkedAll_congr (putGran_sameTables phys ctx pa bs bad).1).trans hp)

theorem isFull_putGran : isFull (putGran s phys ctx pa bs bad) pa = true := isFull_fillGran ..

theorem isPoison_putGran : isPoison (putGran s phys ctx pa bs bad) pa = bad := (isPoison_setPoison ..).trans (if_pos rfl)

variable {pa bs}

theorem putGran_sameMemBut (hl : bs.length = 64) :
    SameMemBut s (putGran s phys ctx pa bs bad) (fun a => pa ≤ a ∧ a < pa + 64) (fun g => g = pa / 64) := by
  obtain ⟨hbyte, hgran, hfar⟩ := fillGran_sameMemBut s phys ctx pa bs
  rw [hl] at hbyte
  exact ⟨hbyte, fun a ha => ⟨(hgran a ha).1, ((isPoison_setPoison ..).trans (if_neg ha)).trans (hgran a ha).2⟩, hfar⟩

theorem memRead_putGran (hl : bs.length = 64) : memRead (putGran s phys ctx pa bs bad) pa 64 = bs := by
  have h := memRead_fillGran_mid s phys ctx pa [] bs [] (List.append_nil _).symm
  rwa [hl] at h

end

theorem memByte_of_memRead {s t : State} {a b n : Nat} (h : memRead t a n = memRead s b n) {i : Nat} (hi : i < n) : memByte t (a + i) = memByte s (b + i) := by
  have e := congrArg (fun l : List Byte => l.getD i 0) h
  simp only [memRead, getD_readBytes _ _ hi] at e
  exact e

/-! ## A counter that an engine adds to (R432) -/

theorem bumpAt_counts {s : State} (hp : parkedAll s = []) (src : Option (Fin 4 × Fin 64)) (ctx : BitVec 12) (pa : Nat) :
    SameTables s (bumpAt s src ctx pa) ∧ SameMemBut s (bumpAt s src ctx pa) (fun a => pa ≤ a ∧ a < pa + 8) (fun g => g = pa / 64) ∧
    memWord (bumpAt s src ctx pa) pa = memWord s pa + 1 ∧ isFull (bumpAt s src ctx pa) pa = true := by
  have hb : bumpAt s src ctx pa = fillGran s src ctx pa (bytesOf 8 (memWord s pa + 1).toNat) := settle_fillGran _ _ _ _ _ hp
  have hm := fillGran_sameMemBut s src ctx pa (bytesOf 8 (memWord s pa + 1).toNat)
  have hr := memRead_fillGran_mid s src ctx pa [] (bytesOf 8 (memWord s pa + 1).toNat) [] (List.append_nil _).symm
  rw [bytesOf_length] at hm hr
  rw [hb]
  exact ⟨fillGran_sameTables .., hm, (memWord_of_memRead hr).trans (BitVec.ofNat_toNat ..), isFull_fillGran ..⟩

/-! ## A fault that an engine records (R311, R344) -/

theorem countCluster_onlyCore (s : State) (c : ClusterId) (ctx : BitVec 12) (ev n : Nat) : OnlyCore s (countCluster s c ctx ev n) c := by
  unfold countCluster
  dsimp only
  split
  · exact .refl s c
  · exact setCl_onlyCore ..

/-- A count changes the counters alone. -/
theorem getCl_countCluster (s : State) (c : ClusterId) (ctx : BitVec 12) (ev n : Nat) :
    ∃ k, getCl (countCluster s c ctx ev n) c = { getCl s c with ctrs := k } := by
  unfold countCluster
  dsimp only
  split
  · exact ⟨_, rfl⟩
  · exact ⟨_, getCl_setCl ..⟩

section
variable (s : State) (c : ClusterId) (r : Rec)

theorem engFaultRec_onlyCore : OnlyCore s (engFaultRec s c r) c := (updCl_onlyCore ..).trans (countCluster_onlyCore ..)

theorem getCl_engFaultRec : ∃ k, getCl (engFaultRec s c r) c = { getCl s c with ctrs := k, pend := (getCl s c).pend ++ [r] } := by
  obtain ⟨k, h⟩ := getCl_countCluster (raiseRec s c r) c r.ctx 0x41 1
  rw [raiseRec, getCl_updCl] at h
  exact ⟨k, h⟩

end

end Sys2Proof.Machine
end

section
/-! PROOFS. The copy engine: starts, granules in any order, segments skipped, given up and replayed, the end of a copy (R228, R313, R427, R432). -/
namespace Sys2Proof.Machine
open Sys2Proof

/-! ## The copy at the head of the queue -/

/-- A cluster with another copy at the head of its engine's queue. -/
def withCopy (x : Cluster) (z : Transfer) (rest : List Transfer) : Cluster := { x with copy := { x.copy with queue := z :: rest } }

section
variable {s : State} {c : ClusterId} {tr : Transfer} {rest : List Transfer} (hq : (getCl s c).copy.queue = tr :: rest)
include hq

theorem headT_copy : headT s (.copy c) = some tr := congrArg List.head? hq

theorem updHead_copy (f : Transfer → Transfer) : updHead s (.copy c) f = setCl s c (withCopy (getCl s c) (f tr) rest) := by
  simp only [updHead, updEngine, updCl, hq, withCopy]

theorem popHead_copy : popHead s (.copy c) = setCl s c { getCl s c with copy := { (getCl s c).copy with queue := rest } } := by
  simp only [popHead, updEngine, updCl, hq, List.tail_cons]

theorem updHead_onlyCore (f : Transfer → Transfer) : OnlyCore s (updHead s (.copy c) f) c := by
  rw [updHead_copy hq]
  exact setCl_onlyCore ..

/-- A copy that fills no ring publishes no tile. -/
theorem publishTiles_ringless (hr : copyRing tr = none) (n : Nat) : publishTiles n s c = s := by
  cases n with
  | zero => rfl
  | succ n => simp only [publishTiles, headT_copy hq, hr]

end

section
variable {c : ClusterId} {s : State} {tr : Transfer} {rest : List Transfer}

/-- A cluster's copy after a step that leaves the cluster, then with another copy at its head. -/
theorem updHead_after {z : State} (hz : getCl z c = getCl s c) (hq : (getCl s c).copy.queue = tr :: rest) (f : Transfer → Transfer) :
    getCl (updHead z (.copy c) f) c = withCopy (getCl s c) (f tr) rest := by
  rw [updHead_copy (by rw [hz]; exact hq), getCl_setCl, hz]

/-! ## COPY_START (R228, R427) -/

theorem copyStart_starts (hq : (getCl s c).copy.queue = tr :: rest) (hh : s.here = .engine (.copy c)) (hc : clocked s c = true) :
    Completes .copyStart s fun t => OnlyCore s t c ∧ getCl t c = withCopy (getCl s c) { tr with started := true } rest := by
  have e : execCopyStart s = .next (updHead s (.copy c) fun t => { t with started := true }) := by
    simp only [execCopyStart, hh, hc, if_true]
  refine ⟨_, e, ?_, updHead_after rfl hq _⟩
  rw [updHead_copy hq]
  exact setCl_onlyCore ..

theorem copy_unclocked (hh : s.here = .engine (.copy c)) (hc : clocked s c = false) :
    Waits .copyStart s ∧ Waits .engineDone s ∧ Waits .fixupReplay s := by
  refine ⟨?_, ?_, ?_⟩
  · show execCopyStart s = .next s
    simp only [execCopyStart, hh, hc, Bool.false_eq_true, if_false]
  · show execEngineDone s = .next s
    simp only [execEngineDone, hh, hc, Bool.and_false, Bool.false_and, Bool.false_eq_true, if_false]
    split <;> rfl
  · show execFixupReplay s = .next s
    simp only [execFixupReplay, hh, hc, Bool.and_false, Bool.false_and, Bool.false_eq_true, if_false]
    split
    · rfl
    · split <;> rfl

/-! ## A granule of a copy (R228, R313) -/

theorem execEngineWrite_copy (hq : (getCl s c).copy.queue = tr :: rest) {k : Nat} (hh : s.here = .granule (.copy c) k) :
    execEngineWrite s = .next (if tr.started && clocked s c then copyWrite s c tr k else s) := by
  simp only [execEngineWrite, hh, headT_copy hq]

/-- A granule of a copy at its turn: the copy started, the granule open, the list of skipped segments not full, and no other segment under replay. -/
structure CopyGranule (s : State) (c : ClusterId) (tr : Transfer) (k : Nat) : Prop where
  here : s.here = .granule (.copy c) k
  clocked : clocked s c = true
  started : tr.started = true
  isOpen : granOpen (.copy c) tr k = true
  room : tr.fix.length < 64
  behind : behindReplay tr (segOf (.copy c) tr k) (copyReplays (getCl s c) c tr) = false

section
variable {k : Nat} (hq : (getCl s c).copy.queue = tr :: rest) (h : CopyGranule s c tr k)
include hq h

theorem CopyGranule.exec : execEngineWrite s = .next (copyWrite s c tr k) := by
  rw [execEngineWrite_copy hq h.here, h.started, h.clocked]
  rfl

end

/-- The guards of a granule that a copy writes. -/
theorem CopyGranule.guard {k : Nat} (h : CopyGranule s c tr k) : (!granOpen (.copy c) tr k || decide (64 ≤ tr.fix.length) || false ||
    behindReplay tr (segOf (.copy c) tr k) (copyReplays (getCl s c) c tr)) = false := by
  obtain ⟨-, -, -, hopen, hroom, hbehind⟩ := h
  simp only [hopen, hbehind, decide_eq_false (Nat.not_le.mpr hroom), Bool.not_true, Bool.or_self]

/-- The physical cluster of a core, for the traffic that its engine makes. -/
def physOf (s : State) (c : ClusterId) : Option (Fin 4 × Fin 64) := some (c.die, pclOfLcl s c)

/-- The granule of a buffer that takes a copy's k-th granule, where the copy fills no ring. -/
def copyInto (tr : Transfer) (k : Nat) : Nat := (tr.words.getD 1 0).toNat / 64 + k

theorem copyGran_ringless {k : Nat} (x : Cluster) (hr : copyRing tr = none) : copyGran x tr k = some (copyInto tr k) := by
  have hf : fld (tr.words.getD 1 0) 63 6 = (tr.words.getD 1 0).toNat / 64 := fld_top _ 6 (by omega)
  simp only [copyGran, hr, hf, copyInto]

/-- A granule put in a buffer, with the poison of its source. -/
def putInto (x : Cluster) (sp g : Nat) (p : Payload) (bad : Bool) : Cluster :=
  { granPut x sp g p with bufPoison := aput false (granPut x sp g p).bufPoison (granKey sp g) bad }

theorem regs_putInto (x : Cluster) (sp g : Nat) (p : Payload) (bad : Bool) (z : Transfer) :
    (withCopy (putInto x sp g p bad) z rest).regs = x.regs := by
  simp only [withCopy, putInto, granPut, bufSetFull, bufWrite]

theorem granRead_putInto (x : Cluster) (sp g : Nat) (p : Payload) (bad : Bool) (z : Transfer) :
    granRead (withCopy (putInto x sp g p bad) z rest) sp g = p := by
  have h : granRead (withCopy (putInto x sp g p bad) z rest) sp g = granRead (granPut x sp g p) sp g := rfl
  rw [h, granRead_granPut, if_pos rfl]

theorem bufIsFull_putInto (x : Cluster) (sp g : Nat) (p : Payload) (bad : Bool) (z : Transfer) :
    bufIsFull (withCopy (putInto x sp g p bad) z rest) sp g = true := by
  have h : bufIsFull (withCopy (putInto x sp g p bad) z rest) sp g = bufIsFull (granPut x sp g p) sp g := rfl
  rw [h, bufIsFull_granPut, if_pos rfl]

section
variable {k pa i : Nat} (h : CopyGranule s c tr k) (hcore : tr.core = c)
include h hcore

theorem copyWrite_memory (hspace : cpSpace tr = 0) {qa j : Nat}
    (hs : translate s c.die (coreTable (getCl s c)) tr.ctx (cpSrc tr k) .r = .ok pa i none)
    (hd : translate s c.die (coreTable (getCl s c)) tr.ctx (cpDst tr k) .w = .ok qa j none) : copyWrite s c tr k =
      copyNote (engPut (touch s (physOf s c) pa tr.ctx false) (physOf s c) tr.ctx qa (memRead s pa 64) (isPoison s pa)) c k := by
  have hsrc := engAccess_ok (e := .copy c) (core := tr.core) (s := s) (by rw [hcore]; exact hs) 3
  have hdst := engAccess_ok (e := .copy c) (core := tr.core) (s := s) (by rw [hcore]; exact hd) 3
  unfold copyWrite
  simp only [hspace, ne_eq, not_true_eq_false, decide_false, Bool.false_and, h.guard, Bool.false_eq_true, if_false, hsrc, hdst, if_true]
  rfl

theorem copyWrite_denied (hspace : cpSpace tr = 0) {n : Nat}
    (hs : translate s c.die (coreTable (getCl s c)) tr.ctx (cpSrc tr k) .r = .perm n) : copyWrite s c tr k =
      publishTiles 65536 (skipSeg s (.copy c) tr k (cpSrc tr k) 3 (.denied n)) c := by
  have hsrc := engAccess_denied (e := .copy c) (core := tr.core) (s := s) (by rw [hcore]; exact hs) 3
  unfold copyWrite
  simp only [hspace, ne_eq, not_true_eq_false, decide_false, Bool.false_and, h.guard, Bool.false_eq_true, if_false, hsrc]

theorem copyWrite_buffer (hspace : cpSpace tr ≠ 0) (hr : copyRing tr = none) (hcl : claimed (getCl s c) (cpSpace tr) (copyInto tr k) = false)
    (hs : translate s c.die (coreTable (getCl s c)) tr.ctx (cpSrc tr k) .r = .ok pa i none) : copyWrite s c tr k =
      copyNote (settle (updCl (touch s (physOf s c) pa tr.ctx false) c fun y =>
        putInto y (cpSpace tr) (copyInto tr k) (payloadOf (memRead s pa 64)) (isPoison s pa))) c k := by
  have hsrc := engAccess_ok (e := .copy c) (core := tr.core) (s := s) (by rw [hcore]; exact hs) 3
  have hg := copyGran_ringless (k := k) (getCl s c) hr
  unfold copyWrite
  simp only [hg, hcl, Bool.and_false, h.guard, Bool.false_eq_true, if_false, hsrc, if_neg hspace]
  rfl

end

/-- A copy whose k-th granule is written. -/
def wrote (k : Nat) (t : Transfer) : Transfer := { t with written := k :: t.written }

theorem copyNote_ringless {z : State} (hq : (getCl z c).copy.queue = tr :: rest) (hr : copyRing tr = none) (k : Nat) :
    copyNote z c k = updHead z (.copy c) (wrote k) := by
  have hn : (getCl (updHead z (.copy c) (wrote k)) c).copy.queue = wrote k tr :: rest := by rw [updHead_copy hq, getCl_setCl]; rfl
  exact publishTiles_ringless hn hr _

section
variable {k pa i : Nat} (hq : (getCl s c).copy.queue = tr :: rest) (h : CopyGranule s c tr k) (hcore : tr.core = c) (hr : copyRing tr = none)
include hq h hcore hr

/-- R228: a granule copied to memory. -/
theorem engineWrite_copiesToMemory {qa j : Nat} (hspace : cpSpace tr = 0)
    (hs : translate s c.die (coreTable (getCl s c)) tr.ctx (cpSrc tr k) .r = .ok pa i none)
    (hd : translate s c.die (coreTable (getCl s c)) tr.ctx (cpDst tr k) .w = .ok qa j none) (hp : parkedAll s = []) :
    Completes .engineWrite s fun t => SameMemBut s t (fun a => qa ≤ a ∧ a < qa + 64) (fun g => g = qa / 64) ∧ t.tiles = s.tiles ∧
      t.launches = s.launches ∧ SameCoresBut s t (· = c) ∧ (∀ n, n < 64 → memByte t (qa + n) = memByte s (pa + n)) ∧ isFull t qa = true ∧
      isPoison t qa = isPoison s pa ∧ getCl t c = withCopy (getCl s c) { tr with written := k :: tr.written } rest := by
  have htouch := touch_sameTables s (physOf s c) pa tr.ctx false
  have hmem := touch_sameMem s (physOf s c) pa tr.ctx false
  have hl : (memRead s pa 64).length = 64 := readBytes_length ..
  have e : execEngineWrite s = .next (copyNote (putGran (touch s (physOf s c) pa tr.ctx false) (physOf s c) tr.ctx qa (memRead s pa 64) (isPoison s pa)) c k) := by
    rw [h.exec hq, copyWrite_memory h hcore hspace hs hd, engPut_eq _ _ _ _ _ ((parkedAll_congr htouch.1).trans hp)]
  have hput := putGran_sameMemBut (s := touch s (physOf s c) pa tr.ctx false) (pa := qa) (physOf s c) tr.ctx (isPoison s pa) hl
  have hbytes := memRead_putGran (s := touch s (physOf s c) pa tr.ctx false) (pa := qa) (physOf s c) tr.ctx (isPoison s pa) hl
  have hfull := isFull_putGran (s := touch s (physOf s c) pa tr.ctx false) (physOf s c) tr.ctx qa (memRead s pa 64) (isPoison s pa)
  have hpois := isPoison_putGran (s := touch s (physOf s c) pa tr.ctx false) (physOf s c) tr.ctx qa (memRead s pa 64) (isPoison s pa)
  obtain ⟨htiles, hlaunches, hclusters⟩ :=
    htouch.trans (putGran_sameTables (s := touch s (physOf s c) pa tr.ctx false) (physOf s c) tr.ctx qa (memRead s pa 64) (isPoison s pa))
  generalize putGran (touch s (physOf s c) pa tr.ctx false) (physOf s c) tr.ctx qa (memRead s pa 64) (isPoison s pa) = z at *
  have hz : getCl z c = getCl s c := by rw [getCl, hclusters]; rfl
  have hqz : (getCl z c).copy.queue = tr :: rest := by rw [hz]; exact hq
  rw [copyNote_ringless hqz hr] at e
  obtain ⟨humem, hutiles, hulaunches, -, -, hucores, -⟩ := updHead_onlyCore hqz (wrote k)
  refine ⟨_, e, ((hmem.but _ _).trans hput).trans (humem.but _ _), hutiles.trans htiles, hulaunches.trans hlaunches,
    fun d hd => (hucores d hd).trans ((SameCores.of_eq hclusters) d id), fun n hn => ?_, ?_, ?_, updHead_after hz hq (wrote k)⟩
  · rw [humem.1 _ id]
    exact memByte_of_memRead hbytes hn
  · rw [(humem.2.1 qa id).1, hfull]
  · rw [(humem.2.1 qa id).2, hpois]

/-- R311: the FAULT record of a copy's access for want of a permission. -/
def copyPermRec (s : State) (c : ClusterId) (tr : Transfer) (va : Word) (n : Nat) : Rec :=
  { kind := 0x30, ctx := tr.ctx, p0 := va, p1 := faultP1 0xFF (ctxGen s c.die tr.ctx) n 3 2 }

/-- R313: a segment of a copy without a permission is given up, and recorded. -/
theorem engineWrite_copyDenied (hspace : cpSpace tr = 0) (hn : tr.permed = false) {n : Nat}
    (hs : translate s c.die (coreTable (getCl s c)) tr.ctx (cpSrc tr k) .r = .perm n) :
    Completes .engineWrite s fun t => SameMem s t ∧ t.tiles = s.tiles ∧
      (getCl t c).copy.queue = { tr with failed := segOf (.copy c) tr k :: tr.failed, permed := true } :: rest ∧
      (getCl t c).pend = (getCl s c).pend ++ [copyPermRec s c tr (cpSrc tr k) n] := by
  obtain ⟨ctrs, hz⟩ := getCl_engFaultRec s c (copyPermRec s c tr (cpSrc tr k) n)
  obtain ⟨hzmem, hztiles, -⟩ := engFaultRec_onlyCore s c (copyPermRec s c tr (cpSrc tr k) n)
  have hskip : skipSeg s (.copy c) tr k (cpSrc tr k) 3 (.denied n) =
      updHead (engFaultRec s c (copyPermRec s c tr (cpSrc tr k) n)) (.copy c) fun t => { t with failed := segOf (.copy c) tr k :: t.failed, permed := true } := by
    simp only [skipSeg, hn, Bool.false_eq_true, if_false, hcore]
    rfl
  generalize engFaultRec s c (copyPermRec s c tr (cpSrc tr k) n) = z at *
  have hqz : (getCl z c).copy.queue = tr :: rest := by rw [hz]; exact hq
  have hu := updHead_after (s := z) rfl hqz fun t => { t with failed := segOf (.copy c) tr k :: t.failed, permed := true }
  have hqu : (getCl (updHead z (.copy c) fun t => { t with failed := segOf (.copy c) tr k :: t.failed, permed := true }) c).copy.queue =
      { tr with failed := segOf (.copy c) tr k :: tr.failed, permed := true } :: rest := by rw [hu]; rfl
  obtain ⟨humem, hutiles, -⟩ := updHead_onlyCore hqz fun t => { t with failed := segOf (.copy c) tr k :: t.failed, permed := true }
  have e : execEngineWrite s = .next (updHead z (.copy c) fun t => { t with failed := segOf (.copy c) tr k :: t.failed, permed := true }) := by
    rw [h.exec hq, copyWrite_denied h hcore hspace hs, hskip, publishTiles_ringless hqu hr]
  refine ⟨_, e, hzmem.trans humem, hutiles.trans hztiles, hqu, ?_⟩
  rw [hu]
  exact congrArg Cluster.pend hz

/-- R228: a granule copied into a typed buffer. -/
theorem engineWrite_copiesToBuffer (hspace : cpSpace tr ≠ 0) (hcl : claimed (getCl s c) (cpSpace tr) (copyInto tr k) = false) (hp : parkedAll s = [])
    (hs : translate s c.die (coreTable (getCl s c)) tr.ctx (cpSrc tr k) .r = .ok pa i none) :
    Completes .engineWrite s fun t => SameMem s t ∧ t.tiles = s.tiles ∧ t.launches = s.launches ∧ SameCoresBut s t (· = c) ∧
      (getCl t c).regs = (getCl s c).regs ∧ granRead (getCl t c) (cpSpace tr) (copyInto tr k) = payloadOf (memRead s pa 64) ∧
      bufIsFull (getCl t c) (cpSpace tr) (copyInto tr k) = true ∧ (getCl t c).copy.queue = { tr with written := k :: tr.written } :: rest := by
  have hz : ∃ z, z = updCl (touch s (physOf s c) pa tr.ctx false) c fun y =>
    putInto y (cpSpace tr) (copyInto tr k) (payloadOf (memRead s pa 64)) (isPoison s pa) := ⟨_, rfl⟩
  obtain ⟨z, hz⟩ := hz
  obtain ⟨htiles, hlaunches, hclusters⟩ := touch_sameTables s (physOf s c) pa tr.ctx false
  have hcl' : getCl (touch s (physOf s c) pa tr.ctx false) c = getCl s c := by rw [getCl, hclusters]; rfl
  obtain ⟨hzmem, hztiles, hzlaunches, -, -, hzcores, -⟩ := updCl_onlyCore (touch s (physOf s c) pa tr.ctx false) c fun y =>
    putInto y (cpSpace tr) (copyInto tr k) (payloadOf (memRead s pa 64)) (isPoison s pa)
  rw [← hz] at hzmem hztiles hzlaunches hzcores
  have hzc : getCl z c = putInto (getCl s c) (cpSpace tr) (copyInto tr k) (payloadOf (memRead s pa 64)) (isPoison s pa) := by
    rw [hz, getCl_updCl, hcl']
  have e : execEngineWrite s = .next (copyNote z c k) := by
    rw [h.exec hq, copyWrite_buffer h hcore hspace hr hcl hs, ← hz,
      settle_of_noneParked ((parkedAll_congr (hztiles.trans htiles)).trans hp)]
  have hqz : (getCl z c).copy.queue = tr :: rest := by rw [hzc]; exact hq
  rw [copyNote_ringless hqz hr] at e
  have hu : getCl (updHead z (.copy c) (wrote k)) c = withCopy (getCl z c) (wrote k tr) rest := updHead_after rfl hqz (wrote k)
  obtain ⟨humem, hutiles, hulaunches, -, -, hucores, -⟩ := updHead_onlyCore hqz (wrote k)
  refine ⟨_, e, ((touch_sameMem ..).trans hzmem).trans humem, hutiles.trans (hztiles.trans htiles), hulaunches.trans (hzlaunches.trans hlaunches),
    fun d hd => (hucores d hd).trans ((hzcores d hd).trans ((SameCores.of_eq hclusters) d id)), ?_, ?_, ?_, ?_⟩
  · rw [hu, hzc, regs_putInto]
  · rw [hu, hzc]
    exact granRead_putInto ..
  · rw [hu, hzc]
    exact bufIsFull_putInto ..
  · rw [hu]; rfl

end

theorem copyWrite_waits {k : Nat} (h : granOpen (.copy c) tr k = false ∨ 64 ≤ tr.fix.length ∨
    behindReplay tr (segOf (.copy c) tr k) (copyReplays (getCl s c) c tr) = true) : copyWrite s c tr k = s := by
  unfold copyWrite
  refine if_pos ?_
  obtain h | h | h := h
  · simp only [h, Bool.not_false, Bool.true_or]
  · simp only [h, decide_true, Bool.or_true, Bool.true_or]
  · simp only [h, Bool.or_true]

theorem engineWrite_copyWaits (hq : (getCl s c).copy.queue = tr :: rest) {k : Nat} (hh : s.here = .granule (.copy c) k)
    (h : clocked s c = false ∨ tr.started = false ∨ granOpen (.copy c) tr k = false ∨ 64 ≤ tr.fix.length ∨
      behindReplay tr (segOf (.copy c) tr k) (copyReplays (getCl s c) c tr) = true) : Waits .engineWrite s := by
  refine (execEngineWrite_copy hq hh).trans (congrArg _ ?_)
  obtain h | h | h := h
  · simp only [h, Bool.and_false, Bool.false_eq_true, if_false]
  · simp only [h, Bool.false_and, Bool.false_eq_true, if_false]
  · split
    · exact copyWrite_waits h
    · rfl

/-! ## The end of a copy (R228, R432) -/

theorem execEngineDone_copy (hq : (getCl s c).copy.queue = tr :: rest) (hh : s.here = .engine (.copy c)) :
    execEngineDone s = .next (if tr.started && clocked s c && jobDone (.copy c) tr then copyDone s c tr else s) := by
  simp only [execEngineDone, hh, headT_copy hq]

theorem engineDone_copyWaits (hq : (getCl s c).copy.queue = tr :: rest) (hh : s.here = .engine (.copy c))
    (h : tr.started = false ∨ jobDone (.copy c) tr = false) : Waits .engineDone s := by
  refine (execEngineDone_copy hq hh).trans (congrArg _ ?_)
  obtain h | h := h
  · simp only [h, Bool.false_and, Bool.false_eq_true, if_false]
  · simp only [h, Bool.and_false, Bool.false_eq_true, if_false]

/-- A copy's bank token given, the first time that the copy ends. -/
def copyGives (s : State) (c : ClusterId) (tr : Transfer) : State :=
  if tr.step = 0 ∧ wbit (tr.words.getD 3 0) 6 then
    updCl s c fun x => { x with bktok := x.bktok ||| (1#32 <<< ((tr.words.getD 3 0).toNat / 2 % 32)) }
  else s

/-- A copy that leaves its queue, with its record if it asks for one. -/
def copyLeaves (s : State) (c : ClusterId) (tr : Transfer) : State :=
  popHead (if wbit (tr.words.getD 3 0) 0 then raiseRec s tr.core { kind := 0x24, ctx := tr.ctx, p0 := word tr.num } else s) (.copy c)

theorem copyGives_onlyCore (s : State) (c : ClusterId) (tr : Transfer) : OnlyCore s (copyGives s c tr) c := by
  unfold copyGives
  split
  · exact updCl_onlyCore ..
  · exact .refl s c

theorem copyGives_same (s : State) (c : ClusterId) (tr : Transfer) :
    (getCl (copyGives s c tr) c).copy = (getCl s c).copy ∧ (getCl (copyGives s c tr) c).pend = (getCl s c).pend := by
  unfold copyGives
  split
  · rw [getCl_updCl]
    exact ⟨rfl, rfl⟩
  · exact ⟨rfl, rfl⟩

theorem copyGives_bktok (hstep : tr.step = 0) : (getCl (copyGives s c tr) c).bktok = if (tr.words.getD 3 0).getLsbD 6 then
    (getCl s c).bktok ||| (1#32 <<< ((tr.words.getD 3 0).toNat / 2 % 32)) else (getCl s c).bktok := by
  unfold copyGives
  by_cases h : (tr.words.getD 3 0).getLsbD 6 = true
  · rw [if_pos ⟨hstep, h⟩, if_pos h, getCl_updCl]
  · rw [if_neg fun k => h k.2, if_neg h]

/-- What a copy that leaves its queue changes: its queue and the records. -/
theorem copyLeaves_leaves (hq : (getCl s c).copy.queue = tr :: rest) (hcore : tr.core = c) : OnlyCore s (copyLeaves s c tr) c ∧
    getCl (copyLeaves s c tr) c = { getCl s c with
      copy := { (getCl s c).copy with queue := rest }
      pend := (getCl s c).pend ++ if (tr.words.getD 3 0).getLsbD 0 then [{ kind := 0x24, ctx := tr.ctx, p0 := word tr.num }] else [] } := by
  unfold copyLeaves
  rw [hcore]
  by_cases h : (tr.words.getD 3 0).getLsbD 0 = true
  · rw [if_pos h, if_pos (show wbit (tr.words.getD 3 0) 0 = true from h)]
    have hqz : (getCl (raiseRec s c { kind := 0x24, ctx := tr.ctx, p0 := word tr.num }) c).copy.queue = tr :: rest := by
      rw [raiseRec, getCl_updCl]; exact hq
    rw [popHead_copy hqz]
    refine ⟨(updCl_onlyCore ..).trans (setCl_onlyCore ..), ?_⟩
    rw [getCl_setCl, raiseRec, getCl_updCl]
  · rw [if_neg h, if_neg (show ¬ wbit (tr.words.getD 3 0) 0 = true from h), popHead_copy hq]
    refine ⟨setCl_onlyCore .., ?_⟩
    rw [getCl_setCl, List.append_nil]

/-- The copy's engine bumps its counter for no failed segment. -/
theorem copyDone_silent (hcnt : tr.words.getD 4 0 = 0) : copyDone s c tr = copyLeaves (copyGives s c tr) c tr := by
  have hf : fld (tr.words.getD 3 0) 5 1 = (tr.words.getD 3 0).toNat / 2 % 32 := fld_eq_div_mod ..
  unfold copyDone
  simp only [engBump, hcnt, if_true, hf]
  rfl

theorem translate_copyGives (d : Fin 4) (es : List (Nat × RangeEntry)) (ctx : BitVec 12) (va : Word) (need : Need) :
    translate (copyGives s c tr) d es ctx va need = translate s d es ctx va need := by
  unfold copyGives
  split <;> rfl

theorem copyDone_counts (hcore : tr.core = c) (hcnt : tr.words.getD 4 0 ≠ 0) (hb : tr.bump = none) (hf : tr.failed = []) {pa i : Nat}
    (ht : translate s c.die (coreTable (getCl s c)) tr.ctx (tr.words.getD 4 0) .w = .ok pa i none) :
    copyDone s c tr = copyLeaves (bumpAt (copyGives s c tr) (physOf s c) tr.ctx pa) c tr := by
  have hfld : fld (tr.words.getD 3 0) 5 1 = (tr.words.getD 3 0).toNat / 2 % 32 := fld_eq_div_mod ..
  have htable : coreTable (getCl (copyGives s c tr) c) = coreTable (getCl s c) := by
    unfold copyGives
    split
    · rw [getCl_updCl]; rfl
    · rfl
  have hacc := engAccess_ok (e := .copy c) (core := tr.core) (s := copyGives s c tr) (ctx := tr.ctx) (va := tr.words.getD 4 0) (need := .w)
    (by rw [hcore, htable, translate_copyGives]; exact ht) 3
  unfold copyGives at hacc ⊢
  unfold copyDone
  simp only [engBump, hfld, hcnt, if_false, hb, hf, List.length_nil, if_true, hacc]
  rfl

section
variable (hq : (getCl s c).copy.queue = tr :: rest) (hh : s.here = .engine (.copy c)) (hcore : tr.core = c) (hc : clocked s c = true)
  (hs : tr.started = true) (hj : jobDone (.copy c) tr = true)
include hq hh hcore hc hs hj

theorem engineDone_copySilent (hstep : tr.step = 0) (hcnt : tr.words.getD 4 0 = 0) : Completes .engineDone s fun t => OnlyCore s t c ∧
    (getCl t c).copy.queue = rest ∧ (getCl t c).bktok = (if (tr.words.getD 3 0).getLsbD 6 then
      (getCl s c).bktok ||| (1#32 <<< ((tr.words.getD 3 0).toNat / 2 % 32)) else (getCl s c).bktok) ∧
    (getCl t c).pend = (getCl s c).pend ++ if (tr.words.getD 3 0).getLsbD 0 then [{ kind := 0x24, ctx := tr.ctx, p0 := word tr.num }] else [] := by
  have e : execEngineDone s = .next (copyLeaves (copyGives s c tr) c tr) := by
    rw [execEngineDone_copy hq hh, hs, hc, hj, ← copyDone_silent hcnt]
    rfl
  obtain ⟨hcopy, hpend⟩ := copyGives_same s c tr
  obtain ⟨honly, hcl⟩ := copyLeaves_leaves (s := copyGives s c tr) (by rw [hcopy]; exact hq) hcore
  refine ⟨_, e, (copyGives_onlyCore s c tr).trans honly, ?_, ?_, ?_⟩
  · rw [hcl]
  · rw [hcl]
    exact copyGives_bktok hstep
  · rw [hcl, hpend]

theorem engineDone_copyCounts (hcnt : tr.words.getD 4 0 ≠ 0) (hb : tr.bump = none) (hf : tr.failed = []) (hp : parkedAll s = []) {pa i : Nat}
    (ht : translate s c.die (coreTable (getCl s c)) tr.ctx (tr.words.getD 4 0) .w = .ok pa i none) : Completes .engineDone s fun t =>
    SameMemBut s t (fun a => pa ≤ a ∧ a < pa + 8) (fun g => g = pa / 64) ∧ memWord t pa = memWord s pa + 1 ∧ isFull t pa = true ∧
    (getCl t c).copy.queue = rest := by
  have e : execEngineDone s = .next (copyLeaves (bumpAt (copyGives s c tr) (physOf s c) tr.ctx pa) c tr) := by
    rw [execEngineDone_copy hq hh, hs, hc, hj, ← copyDone_counts hcore hcnt hb hf ht]
    rfl
  obtain ⟨hgmem, hgtiles, -⟩ := copyGives_onlyCore s c tr
  obtain ⟨⟨-, -, hclusters⟩, hmem, hword, hfull⟩ := bumpAt_counts ((parkedAll_congr hgtiles).trans hp) (physOf s c) tr.ctx pa
  generalize bumpAt (copyGives s c tr) (physOf s c) tr.ctx pa = z at *
  have hz : (getCl z c).copy.queue = tr :: rest := by
    have hg : getCl z c = getCl (copyGives s c tr) c := by rw [getCl, hclusters]; rfl
    rw [hg, (copyGives_same s c tr).1]
    exact hq
  obtain ⟨⟨hlmem, -⟩, hcl⟩ := copyLeaves_leaves hz hcore
  refine ⟨_, e, ((hgmem.but _ _).trans hmem).trans (hlmem.but _ _), ?_, ?_, ?_⟩
  · rw [hlmem.memWord, hword, hgmem.memWord]
  · rw [(hlmem.2.1 pa id).1, hfull]
  · rw [hcl]

end

/-! ## Skipped segments replayed (R313; log 33) -/

/-- Whether a copy has no ordinary segment to go on with. -/
def copyLast (s : State) (c : ClusterId) (tr : Transfer) : Prop :=
  (∀ k, k < jobLen (.copy c) tr → granOpen (.copy c) tr k = false) ∨ 64 ≤ tr.fix.length ∨ ringStuck s c tr = true

theorem copyLast_iff : (((List.range (jobLen (.copy c) tr)).all fun k => !granOpen (.copy c) tr k) || decide (64 ≤ tr.fix.length) || ringStuck s c tr) = true ↔
    copyLast s c tr := by
  simp only [copyLast, Bool.or_eq_true, List.all_eq_true, List.mem_range, Bool.not_eq_true', decide_eq_true_iff, or_assoc]

theorem execFixupReplay_copy (hq : (getCl s c).copy.queue = tr :: rest) (hh : s.here = .engine (.copy c)) {f : Fixup} {fs : List Fixup}
    (hf : tr.fix = f :: fs) : execFixupReplay s = .next (if tr.started && clocked s c && !copyReplays (getCl s c) c tr &&
      (((List.range (jobLen (.copy c) tr)).all fun k => !granOpen (.copy c) tr k) || decide (64 ≤ tr.fix.length) || ringStuck s c tr) then
      replayFix s (.copy c) tr f 3 else s) := by
  simp only [execFixupReplay, hh, headT_copy hq, hf]

theorem fixupReplay_copyWaits (hq : (getCl s c).copy.queue = tr :: rest) (hh : s.here = .engine (.copy c))
    (h : ¬ copyLast s c tr ∨ copyReplays (getCl s c) c tr = true) : Waits .fixupReplay s := by
  cases hf : tr.fix with
  | nil =>
    show execFixupReplay s = .next s
    simp only [execFixupReplay, hh, headT_copy hq, hf]
  | cons f fs =>
    refine (execFixupReplay_copy hq hh hf).trans (congrArg _ ?_)
    obtain h | h := h
    · rw [← copyLast_iff, Bool.not_eq_true] at h
      simp only [h, Bool.and_false, Bool.false_eq_true, if_false]
    · simp only [h, Bool.not_true, Bool.and_false, Bool.false_and, Bool.false_eq_true, if_false]

section
variable {f : Fixup} {fs : List Fixup} (hq : (getCl s c).copy.queue = tr :: rest) (hh : s.here = .engine (.copy c)) (hc : clocked s c = true)
  (hs : tr.started = true) (hf : tr.fix = f :: fs) (hl : copyLast s c tr) (hr : copyReplays (getCl s c) c tr = false)
include hq hh hc hs hf hl hr

theorem fixupReplay_copyTurn : execFixupReplay s = .next (replayFix s (.copy c) tr f 3) := by
  rw [execFixupReplay_copy hq hh hf, hs, hc, hr, copyLast_iff.mpr hl]
  rfl

theorem fixupReplay_copyStands (hw : reqStands s c.die (f.req, f.serial) = true) : Waits .fixupReplay s :=
  (fixupReplay_copyTurn hq hh hc hs hf hl hr).trans (congrArg _ (if_pos hw))

theorem fixupReplay_copyAgain (hw : reqStands s c.die (f.req, f.serial) = false) (hn : reqFailed s c.die f.serial = false) :
    Completes .fixupReplay s fun t => OnlyCore s t c ∧ getCl t c = withCopy (getCl s c) { tr with fix := fs, cur := some f.first } rest := by
  have e : replayFix s (.copy c) tr f 3 = updHead s (.copy c) fun t => { t with fix := t.fix.tail, cur := some f.first } := by
    simp only [replayFix, engDie, hw, hn, Bool.false_eq_true, if_false]
  refine ⟨_, (fixupReplay_copyTurn hq hh hc hs hf hl hr).trans (congrArg _ e), updHead_onlyCore hq _, (updHead_after rfl hq _).trans ?_⟩
  simp only [hf, List.tail_cons]

/-- R311: the FAULT record of a copy's access whose request failed. -/
def copyFatalRec (s : State) (c : ClusterId) (tr : Transfer) (f : Fixup) : Rec :=
  { kind := 0x30, ctx := tr.ctx, p0 := f.va, p1 := faultP1 f.req (failedAs s c.die f.serial).2 (failedAs s c.die f.serial).1 3 4 }

theorem fixupReplay_copyFails (hcore : tr.core = c) (hw : reqStands s c.die (f.req, f.serial) = false) (hn : reqFailed s c.die f.serial = true)
    (hfatal : tr.fataled = false) (hring : copyRing tr = none) : Completes .fixupReplay s fun t => OnlyCore s t c ∧
      (getCl t c).copy.queue = { tr with fix := fs, failed := f.first :: tr.failed, fataled := true, cur := none } :: rest ∧
      (getCl t c).pend = (getCl s c).pend ++ [copyFatalRec s c tr f] := by
  obtain ⟨ctrs, hz⟩ := getCl_engFaultRec s c (copyFatalRec s c tr f)
  have honly := engFaultRec_onlyCore s c (copyFatalRec s c tr f)
  have e : replayFix s (.copy c) tr f 3 = publishTiles 65536 (updHead (engFaultRec s c (copyFatalRec s c tr f)) (.copy c) fun t =>
      { t with fix := t.fix.tail, failed := f.first :: t.failed, fataled := true, cur := none }) c := by
    simp only [replayFix, engDie, hw, hn, hfatal, Bool.false_eq_true, if_false, if_true, hcore]
    rfl
  generalize engFaultRec s c (copyFatalRec s c tr f) = z at *
  have hqz : (getCl z c).copy.queue = tr :: rest := by rw [hz]; exact hq
  have hu := updHead_after (s := z) rfl hqz fun t => { t with fix := t.fix.tail, failed := f.first :: t.failed, fataled := true, cur := none }
  have hqu : (getCl (updHead z (.copy c) fun t => { t with fix := t.fix.tail, failed := f.first :: t.failed, fataled := true, cur := none }) c).copy.queue =
      { tr with fix := fs, failed := f.first :: tr.failed, fataled := true, cur := none } :: rest := by
    rw [hu, withCopy]
    simp only [hf, List.tail_cons]
  rw [publishTiles_ringless hqu hring] at e
  refine ⟨_, (fixupReplay_copyTurn hq hh hc hs hf hl hr).trans (congrArg _ e), honly.trans (updHead_onlyCore hqz _), hqu, ?_⟩
  rw [hu]
  exact congrArg Cluster.pend hz

end

end

end Sys2Proof.Machine
end

section
/-! PROOFS. Ports of Yunajor Link: flits sent and kept for replay, ports that go down and come up (R328, R389; log 62). -/
namespace Sys2Proof.Machine
open Sys2Proof

/-! ## Dies and ports changed twice -/

theorem aset_aset {α : Type} (m : Assoc α) (i : Nat) (x y : α) : aset (aset m i x) i y = aset m i y := by
  induction m with
  | nil => simp [aset]
  | cons e m ih =>
    obtain ⟨k, v⟩ := e
    simp only [aset]
    split
    · next h => simp [aset, h]
    · next h =>
      split
      · simp [aset]
      · next hk => simp only [aset, if_neg h, if_neg hk, ih]

theorem aupd_aupd {α : Type} (d : α) (m : Assoc α) (i : Nat) (f g : α → α) : aupd d (aupd d m i f) i g = aupd d m i fun x => g (f x) := by
  simp only [aupd, aget_aset_same, aset_aset]

theorem updDie_updDie (s : State) (d : Fin 4) (f g : Die → Die) : updDie (updDie s d f) d g = updDie s d fun x => g (f x) := by
  simp only [updDie, getDie_setDie]
  simp only [setDie, aset_aset]

theorem updYl_updYl (s : State) (d : Fin 4) (p : Fin 16) (f g : YlPort → YlPort) : updYl (updYl s d p f) d p g = updYl s d p fun y => g (f y) := by
  simp only [updYl, updDie_updDie, aupd_aupd]

theorem getDie_updDie (s : State) (d : Fin 4) (f : Die → Die) : getDie (updDie s d f) d = f (getDie s d) := getDie_setDie ..

section
variable (s : State) (d : Fin 4) (p : Fin 16) (f : YlPort → YlPort)

@[simp] theorem getYl_updYl : getYl (updYl s d p f) d p = f (getYl s d p) := by
  simp only [getYl, updYl, getDie_updDie]
  exact aget_aset_same ..

theorem getYl_updYl_other {q : Fin 16} (h : q ≠ p) : getYl (updYl s d p f) d q = getYl s d q := by
  have hv : q.val ≠ p.val := fun e => h (Fin.ext e)
  simp only [getYl, updYl, getDie_updDie]
  exact aget_aset_other _ _ _ hv

theorem updYl_congr {g : YlPort → YlPort} (h : f (getYl s d p) = g (getYl s d p)) : updYl s d p f = updYl s d p g := by
  simp only [updYl, updDie, aupd]
  exact congrArg (fun y => setDie s d { getDie s d with yl := aset (getDie s d).yl p.val y }) h

end

/-! ## What a link leaves -/

/-- A step of dies and of what leaves the package alone: memory, tiles, clusters and launches are as before. -/
def LinkKeeps (s t : State) : Prop := SameMem s t ∧ t.tiles = s.tiles ∧ t.clusters = s.clusters ∧ t.launches = s.launches

theorem LinkKeeps.refl (s : State) : LinkKeeps s s := ⟨.refl s, rfl, rfl, rfl⟩

theorem LinkKeeps.trans {a b c : State} (h : LinkKeeps a b) (k : LinkKeeps b c) : LinkKeeps a c := by
  obtain ⟨hm, ht, hc, hl⟩ := h
  obtain ⟨km, kt, kc, kl⟩ := k
  exact ⟨hm.trans km, kt.trans ht, kc.trans hc, kl.trans hl⟩

theorem LinkKeeps.foldl {β : Type} {f : State → β → State} (h : ∀ s b, LinkKeeps s (f s b)) (l : List β) (s : State) : LinkKeeps s (l.foldl f s) := by
  induction l generalizing s with
  | nil => exact .refl s
  | cons b l ih => exact (h s b).trans (ih _)

theorem linkKeeps_updDie (s : State) (d : Fin 4) (f : Die → Die) : LinkKeeps s (updDie s d f) := ⟨.of_eq rfl rfl rfl rfl rfl, rfl, rfl, rfl⟩

section
variable (s : State) (d : Fin 4) (p : Fin 16)

theorem linkKeeps_updYl (f : YlPort → YlPort) : LinkKeeps s (updYl s d p f) := linkKeeps_updDie ..
theorem linkKeeps_emitLink (b : FlitBody) : LinkKeeps s (emitLink s d p b) := ⟨.of_eq rfl rfl rfl rfl rfl, rfl, rfl, rfl⟩
theorem linkKeeps_resend (fs : List Flit) : LinkKeeps s (resend s d p fs) := ⟨.of_eq rfl rfl rfl rfl rfl, rfl, rfl, rfl⟩
theorem linkKeeps_portDrop (n : Nat) (b : Bool) (key : BitVec 12) (core : Option ClusterId) (ctx : BitVec 12) :
    LinkKeeps s (portDrop s d n b key core ctx) := linkKeeps_updDie ..

@[simp] theorem getYl_emitLink (e : Fin 4) (q : Fin 16) (b : FlitBody) : getYl (emitLink s d p b) e q = getYl s e q := rfl
@[simp] theorem getYl_resend (e : Fin 4) (q : Fin 16) (fs : List Flit) : getYl (resend s d p fs) e q = getYl s e q := rfl

/-! ## A flit sent (R389) -/

theorem linkKeeps_emitFlit (f : Flit) : LinkKeeps s (emitFlit s d p f) := by
  unfold emitFlit
  dsimp only
  split
  · exact linkKeeps_updYl ..
  · exact ⟨.of_eq rfl rfl rfl rfl rfl, rfl, rfl, rfl⟩

/-- A port that has sent a flit, kept for replay under the port's next number. -/
def sentOn (f : Flit) (y : YlPort) : YlPort := { y with nextSeq := y.nextSeq + 1, sent := y.sent ++ [{ f with seq := y.nextSeq }] }

variable {s d p}

/-- With room in the replay buffer a flit leaves at once. -/
theorem emitFlit_room {f : Flit} (h : (getYl s d p).sent.length < 512) : emitFlit s d p f =
    { updYl s d p (sentOn f) with out := s.out ++ [.flit d p { f with seq := (getYl s d p).nextSeq }] } := by
  have e : updYl s d p (fun y => { y with nextSeq := y.nextSeq + 1, sent := y.sent ++ [{ f with seq := (getYl s d p).nextSeq }] }) = updYl s d p (sentOn f) :=
    updYl_congr _ _ _ _ rfl
  unfold emitFlit
  dsimp only
  rw [if_neg (show ¬ ylBuffer ≤ (getYl s d p).sent.length from Nat.not_le.mpr h), e]
  rfl

/-- A flit sent leaves which state its port is in, and how many failures and replays it has met. -/
theorem emitFlit_state (f : Flit) : (getYl (emitFlit s d p f) d p).st = (getYl s d p).st ∧ (getYl (emitFlit s d p f) d p).fails = (getYl s d p).fails := by
  by_cases h : (getYl s d p).sent.length < 512
  · rw [emitFlit_room h]
    have e : getYl { updYl s d p (sentOn f) with out := s.out ++ [.flit d p { f with seq := (getYl s d p).nextSeq }] } d p = sentOn f (getYl s d p) :=
      getYl_updYl ..
    rw [e]
    exact ⟨rfl, rfl⟩
  · have e : emitFlit s d p f = updYl s d p fun y => { y with waiting := y.waiting ++ [f] } := if_pos (Nat.not_lt.mp h)
    rw [e, getYl_updYl]
    exact ⟨rfl, rfl⟩

theorem emitFlit_other {q : Fin 16} (hq : q ≠ p) (f : Flit) : getYl (emitFlit s d p f) d q = getYl s d q := by
  unfold emitFlit
  dsimp only
  split
  · exact getYl_updYl_other _ _ _ _ hq
  · exact getYl_updYl_other s d p _ hq

/-! ## Flits that waited (R389) -/

theorem linkKeeps_drainYl (n : Nat) (s : State) (d : Fin 4) (p : Fin 16) : LinkKeeps s (drainYl n s d p) := by
  induction n generalizing s with
  | zero => exact .refl s
  | succ n ih =>
    unfold drainYl
    split
    · exact .refl s
    · split
      · exact .refl s
      · exact ((linkKeeps_updYl ..).trans (linkKeeps_emitFlit ..)).trans (ih _)

theorem drainYl_state (n : Nat) (s : State) (d : Fin 4) (p : Fin 16) :
    (getYl (drainYl n s d p) d p).st = (getYl s d p).st ∧ (getYl (drainYl n s d p) d p).fails = (getYl s d p).fails := by
  induction n generalizing s with
  | zero => exact ⟨rfl, rfl⟩
  | succ n ih =>
    unfold drainYl
    split
    · exact ⟨rfl, rfl⟩
    · next f fs _ =>
      split
      · exact ⟨rfl, rfl⟩
      · obtain ⟨h1, h2⟩ := ih (emitFlit (updYl s d p fun y => { y with waiting := fs }) d p f)
        obtain ⟨k1, k2⟩ := emitFlit_state (s := updYl s d p fun y => { y with waiting := fs }) (d := d) (p := p) f
        rw [getYl_updYl] at k1 k2
        exact ⟨h1.trans k1, h2.trans k2⟩

/-- The flit that waited leaves, when the replay buffer has room. -/
theorem drainYl_one {g : Flit} (hw : (getYl s d p).waiting = [g]) (h : (getYl s d p).sent.length < 512) : drainYl 1 s d p =
    { updYl s d p (fun y => sentOn g { y with waiting := [] }) with out := s.out ++ [.flit d p { g with seq := (getYl s d p).nextSeq }] } := by
  have e : drainYl 1 s d p = emitFlit (updYl s d p fun y => { y with waiting := [] }) d p g := by
    simp only [drainYl, hw, if_neg (show ¬ ylBuffer ≤ (getYl s d p).sent.length from Nat.not_le.mpr h)]
  rw [e, emitFlit_room (by rw [getYl_updYl]; exact h), getYl_updYl, updYl_updYl]
  rfl

end

/-! ## A port that goes down (R389; log 62) -/

section
variable {s : State} {d : Fin 4} {p q : Fin 16} {f : Flit}

/-- The other port by which a flit goes on is up. -/
theorem up_of_otherWay (h : otherWay s d f = some q) : (getYl s d q).st = 2 := by
  have hm : q ∈ ylUp (getDie s d) := List.mem_of_mem_filter (List.mem_of_find?_eq_some h)
  obtain ⟨i, hi, he⟩ := List.mem_filterMap.mp hm
  split at he
  · next hst =>
    obtain rfl := Option.some.inj he
    have hv : (Fin.ofNat 16 i).val = i := Nat.mod_eq_of_lt (List.mem_range.mp hi)
    rw [getYl, hv]
    exact hst
  · exact nomatch he

/-- A port down: it retrains, its row of failures over. -/
def downPort (y : YlPort) : YlPort := { y with st := 1, fails := 0 }

/-- The flits of a port that go no other way stay. -/
def stays (s : State) (d : Fin 4) (f : Flit) : Bool := (otherWay s d f).isNone

/-- What a port that goes down keeps. -/
def keptDown (s : State) (d : Fin 4) (y : YlPort) : YlPort := { y with sent := y.sent.filter (stays s d), waiting := y.waiting.filter (stays s d) }

/-- A flit of a port that has gone down moves to another port, or stays. -/
def moveFlit (s1 : State) (d : Fin 4) (z : State) (f : Flit) : State := match otherWay s1 d f with | some q => emitFlit z d q f | none => z

theorem portDown_eq (s : State) (d : Fin 4) (p : Fin 16) : portDown s d p =
    let s1 := updYl s d p downPort
    ((getYl s1 d p).sent ++ (getYl s1 d p).waiting).foldl (moveFlit s1 d) (updYl s1 d p (keptDown s1 d)) := rfl

theorem linkKeeps_moveFlit (s1 : State) (d : Fin 4) (z : State) (f : Flit) : LinkKeeps z (moveFlit s1 d z f) := by
  unfold moveFlit
  split
  · exact linkKeeps_emitFlit ..
  · exact .refl z

theorem linkKeeps_portDown (s : State) (d : Fin 4) (p : Fin 16) : LinkKeeps s (portDown s d p) := by
  rw [portDown_eq]
  exact ((linkKeeps_updYl ..).trans (linkKeeps_updYl ..)).trans (.foldl (linkKeeps_moveFlit _ d) _ _)

/-- A flit that moves from a port that is down leaves that port as it is. -/
theorem getYl_moveFlits {s1 : State} (hp : (getYl s1 d p).st ≠ 2) (l : List Flit) (z : State) :
    getYl (l.foldl (moveFlit s1 d) z) d p = getYl z d p := by
  induction l generalizing z with
  | nil => rfl
  | cons f l ih =>
    rw [List.foldl_cons, ih, moveFlit]
    split
    · next q hq =>
      have hne : p ≠ q := fun e => hp (by rw [e]; exact up_of_otherWay hq)
      exact emitFlit_other hne f
    · rfl

theorem getYl_portDown (s : State) (d : Fin 4) (p : Fin 16) :
    getYl (portDown s d p) d p = keptDown (updYl s d p downPort) d (downPort (getYl s d p)) := by
  have hst : (getYl (updYl s d p downPort) d p).st ≠ 2 := by
    rw [getYl_updYl]
    exact (by decide : (1 : BitVec 2) ≠ 2)
  rw [portDown_eq]
  dsimp only
  rw [getYl_moveFlits hst, getYl_updYl, getYl_updYl]

/-- With no other port up everything stays. -/
theorem otherWay_alone (h : ∀ q, q ≠ p → (getYl s d q).st ≠ 2) (f : Flit) : otherWay (updYl s d p downPort) d f = none := by
  cases hw : otherWay (updYl s d p downPort) d f with
  | none => rfl
  | some q =>
    have hup := up_of_otherWay hw
    by_cases hq : q = p
    · subst hq
      rw [getYl_updYl] at hup
      exact absurd hup (by decide : (1 : BitVec 2) ≠ 2)
    · rw [getYl_updYl_other _ _ _ _ hq] at hup
      exact absurd hup (h q hq)

theorem portDown_alone (h : ∀ q, q ≠ p → (getYl s d q).st ≠ 2) : portDown s d p = updYl s d p downPort := by
  have hw := otherWay_alone h
  have hstay : ∀ f, stays (updYl s d p downPort) d f = true := fun f => by rw [stays, hw]; rfl
  have hfold : ∀ (l : List Flit) (z : State), l.foldl (moveFlit (updYl s d p downPort) d) z = z := by
    intro l
    induction l with
    | nil => exact fun _ => rfl
    | cons f l ih => intro z; rw [List.foldl_cons, moveFlit, hw]; exact ih z
  have hkept : ∀ y, keptDown (updYl s d p downPort) d y = y := fun y => by
    rw [keptDown, List.filter_eq_self.mpr fun f _ => hstay f, List.filter_eq_self.mpr fun f _ => hstay f]
  rw [portDown_eq]
  dsimp only
  rw [hfold, updYl_updYl]
  simp only [hkept]

/-- The one flit that a port had kept moves to another port with room. -/
theorem portDown_moves {g : Flit} (hs : (getYl s d p).sent = [g]) (hw : (getYl s d p).waiting = []) (ho : otherWay (updYl s d p downPort) d g = some q)
    (hroom : (getYl s d q).sent.length < 512) :
    (portDown s d p).out = s.out ++ [.flit d q { g with seq := (getYl s d q).nextSeq }] := by
  have hne : q ≠ p := fun e => by
    have hup := up_of_otherWay ho
    rw [e, getYl_updYl] at hup
    exact absurd hup (by decide : (1 : BitVec 2) ≠ 2)
  have hq : getYl (updYl (updYl s d p downPort) d p (keptDown (updYl s d p downPort) d)) d q = getYl s d q := by
    rw [getYl_updYl_other _ _ _ _ hne, getYl_updYl_other _ _ _ _ hne]
  rw [portDown_eq]
  dsimp only
  rw [getYl_updYl]
  have hl : (downPort (getYl s d p)).sent ++ (downPort (getYl s d p)).waiting = [g] := by
    show (getYl s d p).sent ++ (getYl s d p).waiting = [g]
    rw [hs, hw]
    rfl
  rw [hl, List.foldl_cons, List.foldl_nil, moveFlit, ho]
  dsimp only
  rw [emitFlit_room (by rw [hq]; exact hroom), hq]
  rfl

end

end Sys2Proof.Machine
end

section
/-! PROOFS. FLIT_RECEIVE and LINK_TRAINING_DONE: each kind of flit that a port takes (R328, R389, R390; log 62). -/
namespace Sys2Proof.Machine
open Sys2Proof

/-- A flit that a link sends of its own. -/
def linkFlit (d : Fin 4) (p : Fin 16) (b : FlitBody) : OutItem := .flit d p { dev := 0, die := 0, seq := 0, pkey := 0, crcOk := true, body := b }

section
variable {s : State} {d : Fin 4} {p : Fin 16} {f : Flit} (hh : s.here = .flit d p f)
include hh

theorem flitReceive_down (hst : (getYl s d p).st ≠ 2) : Waits .flitReceive s := by
  show execFlitReceive s = .next s
  simp only [execFlitReceive, hh, ne_eq, hst, not_false_eq_true, if_true]

variable (hst : (getYl s d p).st = 2)
include hst

/-! ## A flit that fails its CRC -/

/-- The row of failures of the flit expected next, with this one. -/
def failsOf (y : YlPort) (f : Flit) : Nat := if f.seq = y.expect then y.fails + 1 else y.fails

theorem execFlitReceive_bad (hc : f.crcOk = false) : execFlitReceive s = .next (badFlit s d p f) := by
  simp only [execFlitReceive, hh, ne_eq, hst, not_true_eq_false, if_false, hc, Bool.not_false, if_true]

/-- A port that counts a bad flit. -/
def badCounted (y : YlPort) : YlPort := { y with crcerr := min 65535 (y.crcerr + 1) }

theorem flitReceive_asksReplay (hc : f.crcOk = false) (hn : failsOf (getYl s d p) f ≤ 16) : Completes .flitReceive s fun t =>
    LinkKeeps s t ∧ t.out = s.out ++ [linkFlit d p (.replay f.seq)] ∧
    getYl t d p = { getYl s d p with crcerr := min 65535 ((getYl s d p).crcerr + 1), replay := min 65535 ((getYl s d p).replay + 1),
                                     fails := failsOf (getYl s d p) f } := by
  have e : badFlit s d p f = emitLink (updYl s d p fun y =>
      { y with crcerr := satAdd 65535 y.crcerr 1, replay := satAdd 65535 y.replay 1, fails := failsOf (getYl s d p) f }) d p (.replay f.seq) :=
    if_neg (Nat.not_lt.mpr hn)
  refine ⟨_, (execFlitReceive_bad hh hst hc).trans (congrArg _ e), (linkKeeps_updYl ..).trans (linkKeeps_emitLink ..), rfl, ?_⟩
  rw [getYl_emitLink, getYl_updYl]
  rfl

/-- R389, log 62: at the seventeenth failure the port goes down. -/
theorem flitReceive_goesDown (hc : f.crcOk = false) (hn : 16 < failsOf (getYl s d p) f) :
    execFlitReceive s = .next (portDown (updYl s d p badCounted) d p) :=
  (execFlitReceive_bad hh hst hc).trans (congrArg _ (if_pos hn))

/-- A port whose seventeenth failure in a row has come. -/
def failedPort (y : YlPort) : YlPort := { y with st := 1, fails := 0, crcerr := min 65535 (y.crcerr + 1) }

/-- R389, log 62: what the port that goes down keeps moves to ports that are up. -/
theorem flitReceive_moves (hc : f.crcOk = false) (hn : 16 < failsOf (getYl s d p) f) : Completes .flitReceive s fun t =>
    LinkKeeps s t ∧ (getYl t d p).st = 1 ∧ (getYl t d p).fails = 0 ∧ (getYl t d p).replay = (getYl s d p).replay ∧
    ((∀ q, q ≠ p → (getYl s d q).st ≠ 2) → getYl t d p = failedPort (getYl s d p) ∧ t.out = s.out) ∧
    (∀ g q, (getYl s d p).sent = [g] → (getYl s d p).waiting = [] → otherWay (updYl s d p fun _ => failedPort (getYl s d p)) d g = some q →
      (getYl s d q).sent.length < 512 →
      getYl t d p = { failedPort (getYl s d p) with sent := [] } ∧ t.out = s.out ++ [.flit d q { g with seq := (getYl s d q).nextSeq }]) := by
  have hs1 : updYl (updYl s d p badCounted) d p downPort = updYl s d p fun _ => failedPort (getYl s d p) := by
    rw [updYl_updYl]
    exact updYl_congr _ _ _ _ rfl
  have ht : getYl (portDown (updYl s d p badCounted) d p) d p =
      keptDown (updYl s d p fun _ => failedPort (getYl s d p)) d (failedPort (getYl s d p)) := by
    rw [getYl_portDown, hs1, getYl_updYl]
    rfl
  have hother : ∀ q, q ≠ p → getYl (updYl s d p badCounted) d q = getYl s d q := fun q hq => getYl_updYl_other _ _ _ _ hq
  refine ⟨_, flitReceive_goesDown hh hst hc hn, (linkKeeps_updYl ..).trans (linkKeeps_portDown ..), ?_, ?_, ?_, fun hq => ?_, fun g q hs hw ho hroom => ?_⟩
  · rw [ht]; rfl
  · rw [ht]; rfl
  · rw [ht]; rfl
  · rw [portDown_alone fun q hne => by rw [hother q hne]; exact hq q hne, hs1, getYl_updYl]
    exact ⟨rfl, rfl⟩
  · have hne : q ≠ p := fun e => by
      have hup := up_of_otherWay ho
      rw [e, getYl_updYl] at hup
      exact absurd hup (by decide : (1 : BitVec 2) ≠ 2)
    have hgo : stays (updYl s d p fun _ => failedPort (getYl s d p)) d g = false := by rw [stays, ho]; rfl
    have hkept : keptDown (updYl s d p fun _ => failedPort (getYl s d p)) d (failedPort (getYl s d p)) = { failedPort (getYl s d p) with sent := [] } := by
      have hs' : (failedPort (getYl s d p)).sent = [g] := hs
      have hw' : (failedPort (getYl s d p)).waiting = [] := hw
      rw [keptDown, hs', hw', List.filter_cons_of_neg (by rw [hgo]; decide), List.filter_nil]
      exact congrArg (fun l => { failedPort (getYl s d p) with sent := [], waiting := l }) hw'.symm
    have hout := portDown_moves (s := updYl s d p badCounted) (d := d) (p := p) (q := q) (g := g) (by rw [getYl_updYl]; exact hs)
      (by rw [getYl_updYl]; exact hw) (by rw [hs1]; exact ho) (by rw [hother q hne]; exact hroom)
    rw [hother q hne] at hout
    exact ⟨ht.trans hkept, hout⟩

/-! ## The link's own flits -/

theorem execFlitReceive_ack {n : Nat} (hc : f.crcOk = true) (hb : f.body = .ack n) : execFlitReceive s =
    .next (drainYl (getYl s d p).waiting.length (updYl s d p fun y => { y with sent := y.sent.filter fun g => decide (n ≤ g.seq) }) d p) := by
  simp only [execFlitReceive, hh, ne_eq, hst, not_true_eq_false, if_false, hc, Bool.not_true, Bool.false_eq_true, hb]

theorem flitReceive_ack {n : Nat} (hc : f.crcOk = true) (hb : f.body = .ack n) : Completes .flitReceive s fun t => LinkKeeps s t ∧
    ((getYl s d p).waiting = [] → t.out = s.out ∧ getYl t d p = { getYl s d p with sent := (getYl s d p).sent.filter fun g => decide (n ≤ g.seq) }) ∧
    ∀ g, (getYl s d p).waiting = [g] → ((getYl s d p).sent.filter fun g => decide (n ≤ g.seq)).length < 512 →
      t.out = s.out ++ [.flit d p { g with seq := (getYl s d p).nextSeq }] ∧
      getYl t d p = { getYl s d p with sent := ((getYl s d p).sent.filter fun g => decide (n ≤ g.seq)) ++ [{ g with seq := (getYl s d p).nextSeq }],
                                       nextSeq := (getYl s d p).nextSeq + 1, waiting := [] } := by
  refine ⟨_, execFlitReceive_ack hh hst hc hb, (linkKeeps_updYl ..).trans (linkKeeps_drainYl ..), fun hw => ?_, fun g hw hroom => ?_⟩
  · rw [hw]
    exact ⟨rfl, getYl_updYl ..⟩
  · rw [hw, List.length_singleton, drainYl_one (g := g) (by rw [getYl_updYl]; exact hw) (by rw [getYl_updYl]; exact hroom), getYl_updYl, updYl_updYl]
    exact ⟨rfl, getYl_updYl ..⟩

theorem flitReceive_replay {n : Nat} (hc : f.crcOk = true) (hb : f.body = .replay n) : Completes .flitReceive s fun t => LinkKeeps s t ∧
    getYl t d p = replayFrom n (getYl s d p) ∧
    t.out = s.out ++ ((replayFrom n (getYl s d p)).sent.filter fun g => decide (n ≤ g.seq)).map fun g => .flit d p g := by
  have e : execFlitReceive s = .next (resend (updYl s d p (replayFrom n)) d p ((replayFrom n (getYl s d p)).sent.filter fun g => decide (n ≤ g.seq))) := by
    simp only [execFlitReceive, hh, ne_eq, hst, not_true_eq_false, if_false, hc, Bool.not_true, Bool.false_eq_true, hb, getYl_updYl]
  exact ⟨_, e, (linkKeeps_updYl ..).trans (linkKeeps_resend ..), getYl_updYl .., rfl⟩

/-! ## Flits for a die (R328, R390) -/

section
variable (hc : f.crcOk = true) (hb : ∀ n, f.body ≠ .ack n ∧ f.body ≠ .replay n)
include hc hb

/-- A port that has taken the flit expected next. -/
def tookFlit (y : YlPort) : YlPort := { y with expect := y.expect + 1, fails := 0 }

/-- A flit taken and acknowledged. -/
def acked (s : State) (d : Fin 4) (p : Fin 16) : State := emitLink (updYl s d p tookFlit) d p (.ack ((getYl s d p).expect + 1))

theorem execFlitReceive_other : execFlitReceive s =
    if f.seq ≠ (getYl s d p).expect then .next s
    else if !keyPasses (getDie s d) f.pkey.toNat p.val then .next (portDrop (acked s d p) d p.val true f.pkey none 0)
    else if f.dev ≠ Config.deviceNumber.toNat then .next (acked s d p)
    else .next (deliverFlit (acked s d p) f.die (some (d, p)) f.pkey f.body) := by
  simp only [execFlitReceive, hh, ne_eq, hst, not_true_eq_false, if_false, hc, Bool.not_true, Bool.false_eq_true]
  cases hfb : f.body with
  | ack n => exact absurd hfb (hb n).1
  | replay n => exact absurd hfb (hb n).2
  | _ => rfl

theorem flitReceive_outOfOrder (hn : f.seq ≠ (getYl s d p).expect) : Waits .flitReceive s :=
  (execFlitReceive_other hh hst hc hb).trans (if_pos hn)

variable (he : f.seq = (getYl s d p).expect)
include he

theorem execFlitReceive_keyFails (hk : keyPasses (getDie s d) f.pkey.toNat p.val = false) :
    execFlitReceive s = .next (portDrop (acked s d p) d p.val true f.pkey none 0) := by
  rw [execFlitReceive_other hh hst hc hb, if_neg (not_not.mpr he), hk, if_pos (by decide)]

theorem execFlitReceive_delivers (hk : keyPasses (getDie s d) f.pkey.toNat p.val = true) (hdev : f.dev = Config.deviceNumber.toNat) :
    execFlitReceive s = .next (deliverFlit (acked s d p) f.die (some (d, p)) f.pkey f.body) := by
  rw [execFlitReceive_other hh hst hc hb, if_neg (not_not.mpr he), hk, if_neg (by decide), if_neg (not_not.mpr hdev)]

end
end

section
variable (s : State) (d : Fin 4) (p : Fin 16)

theorem linkKeeps_acked : LinkKeeps s (acked s d p) := (linkKeeps_updYl ..).trans (linkKeeps_emitLink ..)
theorem out_acked : (acked s d p).out = s.out ++ [linkFlit d p (.ack ((getYl s d p).expect + 1))] := rfl
theorem getYl_acked : getYl (acked s d p) d p = tookFlit (getYl s d p) := getYl_updYl ..
theorem getDie_acked : getDie (acked s d p) d = { getDie s d with yl := aupd {} (getDie s d).yl p.val tookFlit } :=
  (getDie_updDie s d fun x => { x with yl := aupd {} x.yl p.val tookFlit } :)

/-! ## Drops (R328) -/

/-- Whether drops of a port are those of a flit of a key that a peer sent. -/
def fromPeer (key : BitVec 12) (y : PortDrop) : Prop := y.key = key ∧ y.core = none ∧ y.ctx = 0

theorem fromPeer_iff (key : BitVec 12) (y : PortDrop) : (decide (y.key = key) && decide (y.core = none) && decide (y.ctx = 0)) = true ↔ fromPeer key y := by
  simp only [Bool.and_eq_true, decide_eq_true_iff, fromPeer, and_assoc]

theorem noteDrop_new {key : BitVec 12} {l : List PortDrop} (h : ∀ y ∈ l, ¬ fromPeer key y) :
    noteDrop key none 0 l = l ++ [{ count := 1, key := key, core := none, ctx := 0 }] := by
  refine if_neg fun ha => ?_
  obtain ⟨y, hy, hs⟩ := List.any_eq_true.mp ha
  exact h y hy ((fromPeer_iff key y).mp hs)

theorem noteDrop_counts {key : BitVec 12} {l : List PortDrop} {y : PortDrop} (hy : y ∈ l) (hs : fromPeer key y) :
    { y with count := y.count + 1 } ∈ noteDrop key none 0 l := by
  have hsame := (fromPeer_iff key y).mpr hs
  have e : noteDrop key none 0 l = l.map fun y => if decide (y.key = key) && decide (y.core = none) && decide (y.ctx = 0) then { y with count := y.count + 1 } else y :=
    if_pos (List.any_eq_true.mpr ⟨y, hy, hsame⟩)
  rw [e]
  exact List.mem_map.mpr ⟨y, hy, if_pos hsame⟩

theorem getYl_portDrop (n : Nat) (key : BitVec 12) : getYl (portDrop s d n true key none 0) d p = getYl s d p := by
  simp only [getYl, portDrop, getDie_updDie]

theorem drops_portDrop (key : BitVec 12) : aget [] (getDie (portDrop s d p.val true key none 0) d).portDrops (2 * p.val + 1) =
    noteDrop key none 0 (aget [] (getDie s d).portDrops (2 * p.val + 1)) := by
  simp only [portDrop, getDie_updDie]
  exact aget_aset_same ..

/-! ## What a flit asks a die for (R390) -/

/-- The answer to a peer's request. -/
def answerFlit (dev : Nat) (die : Fin 4) (key : BitVec 12) (b : FlitBody) : Flit := { dev := dev, die := die, seq := 0, pkey := key, crcOk := true, body := b }

variable {s d p}

/-- An answer sent by a port with room, after a step that leaves the dies' ports. -/
theorem emitFlit_answers {z : State} (hz : getYl z d p = tookFlit (getYl s d p)) (ho : z.out = s.out ++ [linkFlit d p (.ack ((getYl s d p).expect + 1))])
    (hroom : (getYl s d p).sent.length < 512) (g : Flit) : (emitFlit z d p g).out =
      s.out ++ [linkFlit d p (.ack ((getYl s d p).expect + 1)), .flit d p { g with seq := (getYl s d p).nextSeq }] := by
  rw [emitFlit_room (by rw [hz]; exact hroom), hz, ho]
  exact List.append_assoc ..

end

section
variable {s : State} {d : Fin 4} {p : Fin 16} {f : Flit} (hh : s.here = .flit d p f) (hst : (getYl s d p).st = 2) (hc : f.crcOk = true)
  (hb : ∀ n, f.body ≠ .ack n ∧ f.body ≠ .replay n) (he : f.seq = (getYl s d p).expect)
include hh hst hc hb he

/-- R328: a flit whose key the port does not pass is dropped, and counted by sender and key. -/
theorem flitReceive_drops (hk : keyPasses (getDie s d) f.pkey.toNat p.val = false) : Completes .flitReceive s fun t => LinkKeeps s t ∧
    t.out = s.out ++ [linkFlit d p (.ack ((getYl s d p).expect + 1))] ∧ getYl t d p = tookFlit (getYl s d p) ∧
    aget [] (getDie t d).portDrops (2 * p.val + 1) = noteDrop f.pkey none 0 (aget [] (getDie s d).portDrops (2 * p.val + 1)) := by
  refine ⟨_, execFlitReceive_keyFails hh hst hc hb he hk, (linkKeeps_acked ..).trans (linkKeeps_portDrop ..), rfl, ?_, ?_⟩
  · rw [getYl_portDrop, getYl_acked]
  · rw [drops_portDrop, getDie_acked]

variable (hk : keyPasses (getDie s d) f.pkey.toNat p.val = true) (hdev : f.dev = Config.deviceNumber.toNat)
include hk hdev

theorem flitReceive_chunk {tag : Word} {rank off : Nat} {bs : List Byte} {bad : Bool} (hdie : f.die = d) (hbody : f.body = .chunk tag rank off bs bad) :
    Completes .flitReceive s fun t => LinkKeeps s t ∧ t.out = s.out ++ [linkFlit d p (.ack ((getYl s d p).expect + 1))] ∧
      (getDie t d).chunks = (getDie s d).chunks ++ [⟨f.pkey.toNat, tag, rank, off, bs, bad⟩] := by
  have e := execFlitReceive_delivers hh hst hc hb he hk hdev
  rw [hbody, hdie, deliverFlit] at e
  refine ⟨_, e, (linkKeeps_acked ..).trans (linkKeeps_updDie ..), rfl, ?_⟩
  rw [getDie_updDie, getDie_acked]

/-- What a peer's word of a post leaves: it is heard, unless the engine has used the post up beforehand. -/
def heardJoin (key : BitVec 12) (tag : Word) (rank : Nat) (shape : List Nat) (x : Die) : Die :=
  if !shape.isEmpty && x.skipJoins.contains (key.toNat, rank) then { x with skipJoins := x.skipJoins.erase (key.toNat, rank) }
  else { x with joins := x.joins ++ [⟨key.toNat, tag, rank, shape⟩] }

theorem flitReceive_join {tag : Word} {rank : Nat} {shape : List Nat} (hdie : f.die = d) (hbody : f.body = .join tag rank shape) :
    Completes .flitReceive s fun t => LinkKeeps s t ∧ t.out = s.out ++ [linkFlit d p (.ack ((getYl s d p).expect + 1))] ∧
      if shape ≠ [] ∧ (f.pkey.toNat, rank) ∈ (getDie s d).skipJoins then
        (getDie t d).joins = (getDie s d).joins ∧ (getDie t d).skipJoins = (getDie s d).skipJoins.erase (f.pkey.toNat, rank)
      else (getDie t d).joins = (getDie s d).joins ++ [⟨f.pkey.toNat, tag, rank, shape⟩] ∧ (getDie t d).skipJoins = (getDie s d).skipJoins := by
  have e : execFlitReceive s = .next (updDie (acked s d p) d (heardJoin f.pkey tag rank shape)) := by
    have h := execFlitReceive_delivers hh hst hc hb he hk hdev
    rw [hbody, hdie, deliverFlit] at h
    exact h
  have hiff : (!shape.isEmpty && (getDie s d).skipJoins.contains (f.pkey.toNat, rank)) = true ↔
      shape ≠ [] ∧ (f.pkey.toNat, rank) ∈ (getDie s d).skipJoins := by
    simp only [Bool.and_eq_true, Bool.not_eq_true', List.isEmpty_eq_false_iff, List.contains_iff_mem]
  refine ⟨_, e, (linkKeeps_acked ..).trans (linkKeeps_updDie ..), rfl, ?_⟩
  rw [getDie_updDie, getDie_acked, heardJoin]
  dsimp only
  by_cases h : shape ≠ [] ∧ (f.pkey.toNat, rank) ∈ (getDie s d).skipJoins
  · rw [if_pos h, if_pos (hiff.mpr h)]
    exact ⟨rfl, rfl⟩
  · rw [if_neg h, if_neg (mt hiff.mp h)]
    exact ⟨rfl, rfl⟩

variable (hroom : (getYl s d p).sent.length < 512)
include hroom

/-- The address of the granule that a peer's request names. -/
def askedGran (pa : Nat) : Nat := pa % 2 ^ 39 / 64 * 64

theorem flitReceive_readRequest {n dev : Nat} {die : Fin 4} {pa : Nat} (hbody : f.body = .readRequest n dev die pa) :
    Completes .flitReceive s fun t => LinkKeeps s t ∧ t.out = s.out ++ [linkFlit d p (.ack ((getYl s d p).expect + 1)),
      .flit d p { answerFlit dev die f.pkey (.reply n (memRead s (askedGran pa) 64) (isFull s (askedGran pa))) with seq := (getYl s d p).nextSeq }] := by
  have e : execFlitReceive s = .next (emitFlit (touch (acked s d p) none (askedGran pa) 0 false) d p
      (answerFlit dev die f.pkey (.reply n (memRead s (askedGran pa) 64) (isFull s (askedGran pa))))) := by
    have h := execFlitReceive_delivers hh hst hc hb he hk hdev
    rw [hbody, deliverFlit] at h
    exact h
  obtain ⟨ht, hl, hcl⟩ := touch_sameTables (acked s d p) none (askedGran pa) 0 false
  have hz : LinkKeeps (acked s d p) (touch (acked s d p) none (askedGran pa) 0 false) := ⟨touch_sameMem .., ht, hcl, hl⟩
  have hy : getYl (touch (acked s d p) none (askedGran pa) 0 false) d p = tookFlit (getYl s d p) := getYl_acked s d p
  exact ⟨_, e, ((linkKeeps_acked ..).trans hz).trans (linkKeeps_emitFlit ..), emitFlit_answers hy rfl hroom _⟩

/-- A granule written for a peer, with the full-empty bit that it gives. -/
def writeFor (s : State) (g : Nat) (bs : List Byte) (full : Bool) : State := setPoison (setFull (memWrite (touch s none g 0 true) g bs) g full) g false

theorem flitReceive_writeRequest {n dev : Nat} {die : Fin 4} {pa : Nat} {bs : List Byte} {full : Bool}
    (hbody : f.body = .writeRequest n dev die pa bs full) (hl : bs.length = 64) (hp : parkedAll s = []) : Completes .flitReceive s fun t =>
      SameMemBut s t (fun a => askedGran pa ≤ a ∧ a < askedGran pa + 64) (fun b => b = askedGran pa / 64) ∧ memRead t (askedGran pa) 64 = bs ∧
      isFull t (askedGran pa) = full ∧ isPoison t (askedGran pa) = false ∧ t.tiles = s.tiles ∧ t.clusters = s.clusters ∧
      t.out = s.out ++ [linkFlit d p (.ack ((getYl s d p).expect + 1)),
        .flit d p { answerFlit dev die f.pkey (.reply n [] full) with seq := (getYl s d p).nextSeq }] := by
  have e : execFlitReceive s = .next (emitFlit (settle (writeFor (acked s d p) (askedGran pa) bs full)) d p (answerFlit dev die f.pkey (.reply n [] full))) := by
    have h := execFlitReceive_delivers hh hst hc hb he hk hdev
    rw [hbody, deliverFlit, List.take_of_length_le (le_of_eq hl)] at h
    exact h
  have hset : settle (writeFor (acked s d p) (askedGran pa) bs full) = writeFor (acked s d p) (askedGran pa) bs full := settle_of_noneParked hp
  rw [hset] at e
  obtain ⟨hmem, htiles, hclusters, -⟩ := linkKeeps_emitFlit (writeFor (acked s d p) (askedGran pa) bs full) d p (answerFlit dev die f.pkey (.reply n [] full))
  have hread := readBytes_writeBytes_same s.mem (askedGran pa) bs
  rw [hl] at hread
  refine ⟨_, e, ⟨fun a ha => ?_, fun a ha => ⟨?_, ?_⟩, hmem.2.2.1, hmem.2.2.2⟩, (hmem.memRead _ _).trans hread, ?_, ?_, htiles, hclusters, ?_⟩
  · rw [hmem.1 a id]
    exact aget_writeBytes_other _ _ _ (by rwa [hl])
  · rw [(hmem.2.1 a id).1]
    exact (isFull_setFull ..).trans (if_neg ha)
  · rw [(hmem.2.1 a id).2]
    exact (isPoison_setPoison ..).trans (if_neg ha)
  · rw [(hmem.2.1 _ id).1]
    exact (isFull_setFull ..).trans (if_pos rfl)
  · rw [(hmem.2.1 _ id).2]
    exact (isPoison_setPoison ..).trans (if_pos rfl)
  · have hy : getYl (writeFor (acked s d p) (askedGran pa) bs full) d p = tookFlit (getYl s d p) := getYl_acked s d p
    exact emitFlit_answers hy rfl hroom _

end

/-! ## LINK_TRAINING_DONE (R389) -/

section
variable {s : State} {d : Fin 4} {p : Fin 18} {b : Bool} (hh : s.here = .port d p b) (hp : p.val < 16)
include hh hp

theorem linkTrainingDone_up (hst : (getYl s d (Fin.ofNat 16 p.val)).st = 2) : Waits .linkTrainingDone s := by
  show execLinkTrainingDone s = .next s
  simp only [execLinkTrainingDone, hh, hp, if_true, hst]

/-- A port that has come up, with what it had not seen acknowledged sent again. -/
def cameUp (s : State) (d : Fin 4) (q : Fin 16) : State := resend (updYl s d q fun y => { y with st := 2, fails := 0 }) d q (getYl s d q).sent

theorem linkTrainingDone_trains (hst : (getYl s d (Fin.ofNat 16 p.val)).st ≠ 2) : Completes .linkTrainingDone s fun t =>
    let q : Fin 16 := Fin.ofNat 16 p.val
    let y := getYl s d q
    let again := y.sent.map fun f => OutItem.flit d q f
    LinkKeeps s t ∧ (getYl t d q).st = 2 ∧ (getYl t d q).fails = 0 ∧
    (y.waiting = [] → getYl t d q = { y with st := 2, fails := 0 } ∧ t.out = s.out ++ again) ∧
    ∀ g, y.waiting = [g] → y.sent.length < 512 → t.out = s.out ++ again ++ [.flit d q { g with seq := y.nextSeq }] ∧ (getYl t d q).waiting = [] := by
  have e : execLinkTrainingDone s =
      .next (drainYl (getYl s d (Fin.ofNat 16 p.val)).waiting.length (cameUp s d (Fin.ofNat 16 p.val)) d (Fin.ofNat 16 p.val)) := by
    simp only [execLinkTrainingDone, hh, hp, if_true, hst, if_false]
    rfl
  have hup : getYl (cameUp s d (Fin.ofNat 16 p.val)) d (Fin.ofNat 16 p.val) = { getYl s d (Fin.ofNat 16 p.val) with st := 2, fails := 0 } := getYl_updYl ..
  obtain ⟨h1, h2⟩ := drainYl_state (getYl s d (Fin.ofNat 16 p.val)).waiting.length (cameUp s d (Fin.ofNat 16 p.val)) d (Fin.ofNat 16 p.val)
  rw [hup] at h1 h2
  refine ⟨_, e, ((linkKeeps_updYl ..).trans (linkKeeps_resend ..)).trans (linkKeeps_drainYl ..), h1, h2, fun hw => ?_, fun g hw hroom => ?_⟩
  · have hdrain : ∀ z, drainYl (getYl s d (Fin.ofNat 16 p.val)).waiting.length z d (Fin.ofNat 16 p.val) = z := fun z => by rw [hw]; rfl
    rw [hdrain]
    exact ⟨hup, rfl⟩
  · rw [hw, List.length_singleton, drainYl_one (g := g) (by rw [hup]; exact hw) (by rw [hup]; exact hroom), hup]
    refine ⟨rfl, ?_⟩
    exact congrArg YlPort.waiting (getYl_updYl (cameUp s d (Fin.ofNat 16 p.val)) d (Fin.ofNat 16 p.val) _)

end

end Sys2Proof.Machine
end

section
/-! PROOFS. The collective engine: its start, granules of the source and of the destination, its end (R329, R391, R392; log 61). -/
namespace Sys2Proof.Machine
open Sys2Proof

/-! ## The collective at the head of the queue -/

/-- A die with another transfer at the head of its collective engine's queue. -/
def withCol (x : Die) (z : Transfer) (rest : List Transfer) : Die := { x with collective := { x.collective with queue := z :: rest } }

section
variable {s : State} {d : Fin 4} {tr : Transfer} {rest : List Transfer} (hq : (getDie s d).collective.queue = tr :: rest)
include hq

theorem headT_col : headT s (.collective d) = some tr := congrArg List.head? hq

theorem updHead_col (f : Transfer → Transfer) : updHead s (.collective d) f = setDie s d (withCol (getDie s d) (f tr) rest) := by
  simp only [updHead, updEngine, updDie, hq, withCol]

theorem popHead_col : popHead s (.collective d) = setDie s d { getDie s d with collective := { (getDie s d).collective with queue := rest } } := by
  simp only [popHead, updEngine, updDie, hq, List.tail_cons]

theorem getDie_updHead_col (f : Transfer → Transfer) : getDie (updHead s (.collective d) f) d = withCol (getDie s d) (f tr) rest := by
  rw [updHead_col hq, getDie_setDie]

end

theorem linkKeeps_updHead_col (s : State) (d : Fin 4) (f : Transfer → Transfer) : LinkKeeps s (updHead s (.collective d) f) := linkKeeps_updDie ..

/-! ## Messages to members (R389, R392) -/

/-- What messages to members leave of their sender's die: the transfer at its head but for its status, and all that the engine has heard. -/
structure ColSent (d : Fin 4) (s t : State) : Prop where
  keeps : LinkKeeps s t
  head : ∀ z rest, (getDie s d).collective.queue = z :: rest → ∃ st, (getDie t d).collective.queue = { z with status := st } :: rest
  chunks : ∀ x ∈ (getDie s d).chunks, x ∈ (getDie t d).chunks
  told : ∀ x ∈ (getDie s d).peersDone, x ∈ (getDie t d).peersDone

theorem ColSent.refl (d : Fin 4) (s : State) : ColSent d s s := ⟨.refl s, fun z _ h => ⟨z.status, h⟩, fun _ h => h, fun _ h => h⟩

theorem ColSent.trans {d : Fin 4} {a b c : State} (h : ColSent d a b) (k : ColSent d b c) : ColSent d a c :=
  ⟨h.keeps.trans k.keeps, fun z rest hz => by
    obtain ⟨st, hb⟩ := h.head z rest hz
    obtain ⟨st', hc⟩ := k.head _ _ hb
    exact ⟨st', hc⟩, fun x hx => k.chunks x (h.chunks x hx), fun x hx => k.told x (h.told x hx)⟩

/-- A die that has heard more, its collective's queue as it was. -/
structure HeardMore (x y : Die) : Prop where
  collective : y.collective = x.collective
  chunks : ∀ c ∈ x.chunks, c ∈ y.chunks
  told : ∀ c ∈ x.peersDone, c ∈ y.peersDone

theorem HeardMore.refl (x : Die) : HeardMore x x := ⟨rfl, fun _ h => h, fun _ h => h⟩

theorem colSent_updDie (d : Fin 4) (s : State) (e : Fin 4) {f : Die → Die} (h : ∀ x, HeardMore x (f x)) : ColSent d s (updDie s e f) := by
  have hd : HeardMore (getDie s d) (getDie (updDie s e f) d) := by
    by_cases he : d = e
    · subst he
      rw [getDie_updDie]
      exact h _
    · rw [updDie, getDie_setDie_other _ _ he]
      exact .refl _
  exact ⟨linkKeeps_updDie .., fun z rest hz => ⟨z.status, by rw [hd.collective]; exact hz⟩, hd.chunks, hd.told⟩

theorem colSent_emitFlit (d : Fin 4) (s : State) (e : Fin 4) (p : Fin 16) (f : Flit) : ColSent d s (emitFlit s e p f) := by
  have hy : ∀ g, ColSent d s (updYl s e p g) := fun g => colSent_updDie d s e fun x => ⟨rfl, fun _ h => h, fun _ h => h⟩
  unfold emitFlit
  dsimp only
  split
  · exact hy _
  · obtain ⟨hkeeps, hhead, hchunks, htold⟩ := hy fun y => { y with nextSeq := y.nextSeq + 1, sent := y.sent ++ [{ f with seq := (getYl s e p).nextSeq }] }
    exact ⟨hkeeps.trans ⟨.of_eq rfl rfl rfl rfl rfl, rfl, rfl, rfl⟩, hhead, hchunks, htold⟩

theorem colSent_sendAway (s : State) (d : Fin 4) (core : Option ClusterId) (ctx : BitVec 12) (peer : Nat × Fin 4) (b : FlitBody) :
    ColSent d s (sendAway s d core ctx peer b).1 := by
  unfold sendAway
  dsimp only
  split
  · exact colSent_emitFlit ..
  · split
    · dsimp only [portDrop]
      exact colSent_updDie d s d fun x => ⟨rfl, fun _ h => h, fun _ h => h⟩
    · exact .refl d s

/-- A message of a collective. -/
def isColMessage : FlitBody → Bool
  | .join _ _ _ | .chunk _ _ _ _ _ | .done _ _ => true
  | _ => false

theorem colSent_deliverFlit (d : Fin 4) (s : State) (e : Fin 4) (key : BitVec 12) {b : FlitBody} (hb : isColMessage b = true) :
    ColSent d s (deliverFlit s e none key b) := by
  unfold deliverFlit
  cases b with
  | join tag rank shape =>
    refine colSent_updDie d s e fun x => ?_
    split
    · exact ⟨rfl, fun _ h => h, fun _ h => h⟩
    · exact ⟨rfl, fun _ h => h, fun _ h => h⟩
  | chunk tag rank off bytes bad => exact colSent_updDie d s e fun x => ⟨rfl, fun _ h => List.mem_append_left _ h, fun _ h => h⟩
  | done tag rank => exact colSent_updDie d s e fun x => ⟨rfl, fun _ h => h, fun _ h => List.mem_append_left _ h⟩
  | readRequest | writeRequest | reply | ack | replay => exact nomatch hb

theorem colSent_sendTo (s : State) (d : Fin 4) (core : ClusterId) (ctx : BitVec 12) (peer : Nat × Fin 4) {b : FlitBody} (hb : isColMessage b = true) :
    ColSent d s (sendTo s d core ctx peer b).1 := by
  unfold sendTo
  split
  · exact colSent_deliverFlit d s _ _ hb
  · exact colSent_sendAway ..

/-- A transfer left with no port up ends with status LINK. -/
theorem colSent_linkStatus (s : State) (d : Fin 4) : ColSent d s (updHead s (.collective d) fun t => { t with status := 5 }) := by
  cases hq : (getDie s d).collective.queue with
  | nil =>
    have hd : getDie (updHead s (.collective d) fun t => { t with status := 5 }) d = getDie s d := by
      have h : updHead s (.collective d) (fun t => { t with status := 5 }) = setDie s d (getDie s d) := by
        simp only [updHead, updEngine, updDie, hq]
      rw [h, getDie_setDie]
    exact ⟨linkKeeps_updHead_col .., fun z rest hz => (List.cons_ne_nil z rest (hz.symm.trans hq)).elim, fun x hx => by rw [hd]; exact hx,
      fun x hx => by rw [hd]; exact hx⟩
  | cons z rest =>
    have hd := getDie_updHead_col hq fun t => { t with status := 5 }
    refine ⟨linkKeeps_updHead_col .., fun y l hy => ⟨5, ?_⟩, fun x hx => by rw [hd]; exact hx, fun x hx => by rw [hd]; exact hx⟩
    obtain ⟨rfl, rfl⟩ := List.cons.inj (hq.symm.trans hy)
    rw [hd]
    rfl

theorem colSent_colSend (d : Fin 4) (tr : Transfer) (ranks : List Nat) {b : FlitBody} (hb : isColMessage b = true) (s : State) :
    ColSent d s (colSend s d tr ranks b) := by
  unfold colSend
  induction ranks generalizing s with
  | nil => exact .refl d s
  | cons r ranks ih =>
    rw [List.foldl_cons]
    refine ColSent.trans ?_ (ih _)
    split
    · next peer _ =>
      have h := colSent_sendTo s d tr.core tr.ctx peer hb
      split
      · next s1 he => rw [he] at h; exact h
      · next s1 he => rw [he] at h; exact h.trans (colSent_linkStatus s1 d)
    · exact .refl d s

/-! ## COLLECTIVE_START (R329, R392) -/

section
variable {s : State} {d : Fin 4} {tr : Transfer} {rest : List Transfer} (hq : (getDie s d).collective.queue = tr :: rest)
include hq

theorem collectiveStart_waits (hh : s.here = .engine (.collective d)) (hs : tr.started = true) : Waits .collectiveStart s := by
  show execCollectiveStart s = .next s
  simp only [execCollectiveStart, hh, headT_col hq, hs, if_true]

/-- Log 61: a rank that names no member ends the collective with status 5. -/
theorem collectiveStart_refuses (hh : s.here = .engine (.collective d)) (hs : tr.started = false) (hm : colMembers s d tr.ctx (colRanks tr) = none) :
    Completes .collectiveStart s fun t => SameMem s t ∧ t.tiles = s.tiles ∧ t.clusters = s.clusters ∧
      (getDie t d).collective.queue = { tr with started := true, status := 5 } :: rest := by
  have e : execCollectiveStart s = .next (updHead s (.collective d) fun t => { t with started := true, status := 5 }) := by
    simp only [execCollectiveStart, hh, headT_col hq, hs, Bool.false_eq_true, if_false, hm]
  obtain ⟨hmem, ht, hc, -⟩ := linkKeeps_updHead_col s d fun t => { t with started := true, status := 5 }
  exact ⟨_, e, hmem, ht, hc, congrArg (fun x : Die => x.collective.queue) (getDie_updHead_col hq _)⟩

theorem collectiveStart_starts (hh : s.here = .engine (.collective d)) (hs : tr.started = false) {ms : List (Nat × Fin 4)}
    (hm : colMembers s d tr.ctx (colRanks tr) = some ms) : Completes .collectiveStart s fun t => SameMem s t ∧ t.tiles = s.tiles ∧
      t.clusters = s.clusters ∧ ∃ z, (getDie t d).collective.queue = z :: rest ∧ z.started = true ∧ z.ranks = ms ∧ z.words = tr.words ∧ z.written = tr.written := by
  have e : execCollectiveStart s = .next (colSend (updHead s (.collective d) fun t => { t with started := true, ranks := ms }) d { tr with ranks := ms }
      (colOthers tr) (.join (colTag tr) (colMe tr) (colShape tr))) := by
    simp only [execCollectiveStart, hh, headT_col hq, hs, Bool.false_eq_true, if_false, hm]
  have hd := getDie_updHead_col hq fun t => { t with started := true, ranks := ms }
  obtain ⟨hkeeps, hhead, -, -⟩ := colSent_colSend d { tr with ranks := ms } (colOthers tr) (b := .join (colTag tr) (colMe tr) (colShape tr)) rfl
    (updHead s (.collective d) fun t => { t with started := true, ranks := ms })
  obtain ⟨st, hz⟩ := hhead { tr with started := true, ranks := ms } rest (by rw [hd]; rfl)
  obtain ⟨hmem, ht, hc, -⟩ := (linkKeeps_updHead_col s d fun t => { t with started := true, ranks := ms }).trans hkeeps
  exact ⟨_, e, hmem, ht, hc, _, hz, rfl, rfl, rfl, rfl⟩

end

/-! ## A granule of a collective (R392) -/

/-- A granule of a collective at its turn: started and under way, the granule open, the list of skipped segments not full, the members agreeing, and no
other segment under replay. -/
structure ColGranule (s : State) (d : Fin 4) (tr : Transfer) (k : Nat) : Prop where
  here : s.here = .granule (.collective d) k
  started : tr.started = true
  status : tr.status = 0
  isOpen : granOpen (.collective d) tr k = true
  room : tr.fix.length < 64
  behind : behindReplay tr (segOf (.collective d) tr k) (colReplays (getDie s d) (ctxKey s d tr.ctx) d tr) = false
  agree : colMismatch (getDie s d) (ctxKey s d tr.ctx) tr = false

section
variable {s : State} {d : Fin 4} {tr : Transfer} {rest : List Transfer} {k pa i : Nat} (hq : (getDie s d).collective.queue = tr :: rest)
  (h : ColGranule s d tr k)

theorem ColGranule.guard (h : ColGranule s d tr k) : (!granOpen (.collective d) tr k || decide (64 ≤ tr.fix.length) || decide (tr.status ≠ 0) ||
    colMismatch (getDie s d) (ctxKey s d tr.ctx) tr ||
    behindReplay tr (segOf (.collective d) tr k) (colReplays (getDie s d) (ctxKey s d tr.ctx) d tr)) = false := by
  obtain ⟨-, -, hstatus, hopen, hroom, hbehind, hagree⟩ := h
  simp only [hopen, hbehind, hagree, hstatus, ne_eq, not_true_eq_false, decide_false, decide_eq_false (Nat.not_le.mpr hroom), Bool.not_true, Bool.or_self]

include hq h

theorem ColGranule.exec : execEngineWrite s = .next (colWrite s d tr k) := by
  obtain ⟨hhere, hstarted, -⟩ := h
  simp only [execEngineWrite, hhere, headT_col hq, hstarted, if_true]

/-- A collective whose k-th granule is written or read. -/
def colNoted (k : Nat) (s : State) (d : Fin 4) : State := updHead s (.collective d) fun t => { t with written := k :: t.written }

/-- R392: a granule of the destination, combined of the members' and written. -/
theorem engineWrite_combines {cs : List Chunk} (hk : colSrcLen tr ≤ k) (hcs : colSources (getDie s d) (ctxKey s d tr.ctx) tr (k - colSrcLen tr) = some cs)
    (hbytes : ∀ x ∈ cs, x.bytes ≠ [])
    (ht : translate s d (coreTable (getCl s tr.core)) tr.ctx (tr.words.getD 1 0 + word (64 * (k - colSrcLen tr))) .w = .ok pa i none)
    (hp : parkedAll s = []) : Completes .engineWrite s fun t => SameMemBut s t (fun a => pa ≤ a ∧ a < pa + 64) (fun g => g = pa / 64) ∧
      t.tiles = s.tiles ∧ t.clusters = s.clusters ∧ memRead t pa 64 = payloadBytes (colCombine tr (cs.map fun x => payloadOf x.bytes)) ∧
      isFull t pa = true ∧ isPoison t pa = cs.any (·.bad) ∧ (getDie t d).collective.queue = { tr with written := k :: tr.written } :: rest := by
  have hacc := engAccess_ok (e := .collective d) ht 4
  have hany : (cs.any fun c => c.bytes.isEmpty) = false := List.any_eq_false.mpr fun x hx => by
    rw [List.isEmpty_iff]
    exact hbytes x hx
  have hl : (payloadBytes (colCombine tr (cs.map fun x => payloadOf x.bytes))).length = 64 := bytesOf_length ..
  have e : execEngineWrite s = .next (colNoted k (putGran s none tr.ctx pa (payloadBytes (colCombine tr (cs.map fun x => payloadOf x.bytes))) (cs.any (·.bad))) d) := by
    rw [h.exec hq, ← engPut_eq _ _ _ _ _ hp]
    unfold colWrite
    simp only [h.guard, Bool.false_eq_true, if_false, if_neg (Nat.not_lt.mpr hk), hcs, hany, hacc]
    rfl
  have hput := putGran_sameMemBut (s := s) (pa := pa) none tr.ctx (cs.any (·.bad)) hl
  have hread := memRead_putGran (s := s) (pa := pa) none tr.ctx (cs.any (·.bad)) hl
  have hfull := isFull_putGran (s := s) none tr.ctx pa (payloadBytes (colCombine tr (cs.map fun x => payloadOf x.bytes))) (cs.any (·.bad))
  have hpois := isPoison_putGran (s := s) none tr.ctx pa (payloadBytes (colCombine tr (cs.map fun x => payloadOf x.bytes))) (cs.any (·.bad))
  obtain ⟨htiles, -, hclusters⟩ := putGran_sameTables (s := s) none tr.ctx pa (payloadBytes (colCombine tr (cs.map fun x => payloadOf x.bytes))) (cs.any (·.bad))
  have hqz : (getDie (putGran s none tr.ctx pa (payloadBytes (colCombine tr (cs.map fun x => payloadOf x.bytes))) (cs.any (·.bad))) d).collective.queue =
    tr :: rest := hq
  generalize putGran s none tr.ctx pa (payloadBytes (colCombine tr (cs.map fun x => payloadOf x.bytes))) (cs.any (·.bad)) = z at *
  obtain ⟨hmem, hutiles, huclusters, -⟩ := linkKeeps_updHead_col z d fun t => { t with written := k :: t.written }
  refine ⟨_, e, hput.trans (hmem.but _ _), hutiles.trans htiles, huclusters.trans hclusters, (hmem.memRead _ _).trans hread, ?_, ?_, ?_⟩
  · exact (hmem.2.1 pa id).1.trans hfull
  · exact (hmem.2.1 pa id).2.trans hpois
  · exact congrArg (fun x : Die => x.collective.queue) (getDie_updHead_col hqz _)

/-- R392: a granule of the source, read, kept and given to the members. -/
theorem engineWrite_gives (hk : k < colSrcLen tr)
    (ht : translate s d (coreTable (getCl s tr.core)) tr.ctx (tr.words.getD 0 0 + word (64 * k)) .r = .ok pa i none) :
    Completes .engineWrite s fun t => SameMem s t ∧ t.tiles = s.tiles ∧ t.clusters = s.clusters ∧
      ⟨ctxKey s d tr.ctx, colTag tr, colMe tr, k, memRead s pa 64, isPoison s pa⟩ ∈ (getDie t d).chunks ∧
      ∃ z, (getDie t d).collective.queue = z :: rest ∧ z.written = k :: tr.written := by
  have hacc := engAccess_ok (e := .collective d) ht 4
  have e : execEngineWrite s = .next (colNoted k (colGive (touch s none pa tr.ctx false) d tr k (memRead s pa 64) (isPoison s pa)) d) := by
    rw [h.exec hq]
    unfold colWrite
    simp only [h.guard, Bool.false_eq_true, if_false, if_pos hk, hacc]
    rfl
  obtain ⟨htiles, hlaunches, hclusters⟩ := touch_sameTables s none pa tr.ctx false
  have htouch : LinkKeeps s (touch s none pa tr.ctx false) := ⟨touch_sameMem .., htiles, hclusters, hlaunches⟩
  have hdie : getDie (touch s none pa tr.ctx false) d = getDie s d := rfl
  have hkey : ctxKey (touch s none pa tr.ctx false) d tr.ctx = ctxKey s d tr.ctx := rfl
  have hgive : colGive (touch s none pa tr.ctx false) d tr k (memRead s pa 64) (isPoison s pa) = colSend (updDie (touch s none pa tr.ctx false) d fun x =>
      { x with chunks := x.chunks ++ [⟨ctxKey s d tr.ctx, colTag tr, colMe tr, k, memRead s pa 64, isPoison s pa⟩] }) d tr (colTakers tr k)
      (.chunk (colTag tr) (colMe tr) k (memRead s pa 64) (isPoison s pa)) := by
    rw [colGive, hkey]
  rw [hgive] at e
  generalize touch s none pa tr.ctx false = y at *
  have hkept := linkKeeps_updDie y d fun x => { x with chunks := x.chunks ++ [⟨ctxKey s d tr.ctx, colTag tr, colMe tr, k, memRead s pa 64, isPoison s pa⟩] }
  have hd := getDie_updDie y d fun x => { x with chunks := x.chunks ++ [⟨ctxKey s d tr.ctx, colTag tr, colMe tr, k, memRead s pa 64, isPoison s pa⟩] }
  rw [hdie] at hd
  generalize updDie y d (fun x => { x with chunks := x.chunks ++ [⟨ctxKey s d tr.ctx, colTag tr, colMe tr, k, memRead s pa 64, isPoison s pa⟩] }) = z at *
  obtain ⟨hkeeps, hhead, hchunks, -⟩ := colSent_colSend d tr (colTakers tr k) (b := .chunk (colTag tr) (colMe tr) k (memRead s pa 64) (isPoison s pa)) rfl z
  obtain ⟨st, hst⟩ := hhead tr rest (by rw [hd]; exact hq)
  generalize colSend z d tr (colTakers tr k) (.chunk (colTag tr) (colMe tr) k (memRead s pa 64) (isPoison s pa)) = u at *
  have hu := getDie_updHead_col hst fun t => { t with written := k :: t.written }
  obtain ⟨hmem, ht, hc, -⟩ := ((htouch.trans hkept).trans hkeeps).trans (linkKeeps_updHead_col u d fun t => { t with written := k :: t.written })
  refine ⟨_, e, hmem, ht, hc, ?_, _, congrArg (fun x : Die => x.collective.queue) hu, rfl⟩
  rw [colNoted, hu]
  exact hchunks _ (by rw [hd]; exact List.mem_append_right _ (List.mem_singleton.mpr rfl))

end

/-! ## The end of a collective (R392, R400) -/

section
variable {s : State} {d : Fin 4} {tr : Transfer} {rest : List Transfer}

theorem execEngineDone_col (hq : (getDie s d).collective.queue = tr :: rest) (hh : s.here = .engine (.collective d)) : execEngineDone s =
    .next (if tr.started && (jobDone (.collective d) tr || decide (colStatus s d tr ≠ 0)) then colDone s d tr else s) := by
  simp only [execEngineDone, hh, headT_col hq]

theorem engineDone_colWaits (hq : (getDie s d).collective.queue = tr :: rest) (hh : s.here = .engine (.collective d))
    (h : tr.started = false ∨ (jobDone (.collective d) tr = false ∧ colStatus s d tr = 0)) : Waits .engineDone s := by
  refine (execEngineDone_col hq hh).trans (congrArg _ (if_neg ?_))
  obtain h | ⟨hj, hst⟩ := h
  · simp only [h, Bool.false_and, Bool.false_eq_true, not_false_eq_true]
  · simp only [hj, hst, ne_eq, not_true_eq_false, decide_false, Bool.or_self, Bool.and_false, Bool.false_eq_true, not_false_eq_true]

theorem useUp_collective (key : Nat) (x : Die) (r : Nat) : (useUp key x r).collective = x.collective := by
  unfold useUp
  split <;> rfl

theorem colConsume_collective (x : Die) (key : Nat) (t : Transfer) (all : Bool) : (colConsume x key t all).collective = x.collective := by
  have hf : ∀ (l : List Nat) (y : Die), (l.foldl (useUp key) y).collective = y.collective := by
    intro l
    induction l with
    | nil => exact fun _ => rfl
    | cons r l ih => exact fun y => (ih _).trans (useUp_collective ..)
  unfold colConsume
  split
  · exact hf _ x
  · rfl

/-- The record of a collective's end. -/
def colRec (tr : Transfer) (st : Nat) : Rec := { kind := 0x28, ctx := tr.ctx, p0 := word tr.num, p1 := word (st + min tr.failed.length 255 * 256) }

/-- A collective that leaves its queue, with its record if it asks for one; what its engine has heard of it is used up. -/
def colLeaves (s : State) (d : Fin 4) (key : Nat) (tr : Transfer) (st : Nat) : State :=
  updDie (popHead (if wbit (tr.words.getD 3 0) 0 then raiseRec s tr.core (colRec tr st) else s) (.collective d)) d fun x => colConsume x key tr (st ≠ 0)

/-- What an end of a collective leaves. -/
structure ColEnds (s : State) (d : Fin 4) (tr : Transfer) (rest : List Transfer) (st : Nat) (t : State) : Prop where
  mem : SameMem s t
  tiles : t.tiles = s.tiles
  cores : SameCores s t
  queue : (getDie t d).collective.queue = rest
  pend : (getCl t tr.core).pend = (getCl s tr.core).pend ++ if (tr.words.getD 3 0).getLsbD 0 then [colRec tr st] else []

theorem colLeaves_ends {z : Transfer} (hq : (getDie s d).collective.queue = z :: rest) (key st : Nat) : ColEnds s d tr rest st (colLeaves s d key tr st) := by
  have hleave : ∀ u : State, SameMem s u → u.tiles = s.tiles → SameCores s u → getDie u d = getDie s d →
      (getCl u tr.core).pend = ((getCl s tr.core).pend ++ if (tr.words.getD 3 0).getLsbD 0 then [colRec tr st] else []) →
      ColEnds s d tr rest st (updDie (popHead u (.collective d)) d fun x => colConsume x key tr (st ≠ 0)) := fun u hm ht hc hd hp => by
    rw [popHead_col (rest := rest) (by rw [hd]; exact hq)]
    refine ⟨hm.trans (.of_eq rfl rfl rfl rfl rfl), ht, hc.trans (.of_eq rfl), ?_, hp⟩
    rw [getDie_updDie, colConsume_collective, getDie_setDie]
  unfold colLeaves
  by_cases h : (tr.words.getD 3 0).getLsbD 0 = true
  · rw [if_pos (show wbit (tr.words.getD 3 0) 0 = true from h)]
    obtain ⟨hm, hc, -⟩ := raiseRec_frame s tr.core (colRec tr st) ⟨0, 0, 0⟩
    refine hleave _ hm rfl hc rfl ?_
    rw [raiseRec, getCl_updCl, if_pos h]
  · rw [if_neg (show ¬ wbit (tr.words.getD 3 0) 0 = true from h)]
    refine hleave s (.refl s) rfl (.refl s) rfl ?_
    rw [if_neg h, List.append_nil]

/-- What the members hear at the end of a collective with a status. -/
def colTold (s : State) (d : Fin 4) (tr : Transfer) : State :=
  if tr.step ≠ 0 then s
  else if colStatus s d tr = 0 then updHead (colSend s d tr (colOthers tr) (.done (colTag tr) (colMe tr))) (.collective d) fun t => { t with step := 1 }
  else if colStatus s d tr = 6 then colSend s d tr (colUntold (getDie s d) (ctxKey s d tr.ctx) tr) (.join (colTag tr) (colMe tr) [])
  else s

/-- What a collective's end tells its members leaves memory, the cores, a transfer at the head, and all that the engine has heard. -/
theorem colTold_leaves (hq : (getDie s d).collective.queue = tr :: rest) : LinkKeeps s (colTold s d tr) ∧
    (∃ z, (getDie (colTold s d tr) d).collective.queue = z :: rest) ∧ ∀ x ∈ (getDie s d).peersDone, x ∈ (getDie (colTold s d tr) d).peersDone := by
  unfold colTold
  split
  · exact ⟨.refl s, ⟨tr, hq⟩, fun _ h => h⟩
  · split
    · obtain ⟨hkeeps, hhead, -, htold⟩ := colSent_colSend d tr (colOthers tr) (b := .done (colTag tr) (colMe tr)) rfl s
      obtain ⟨st, hz⟩ := hhead tr rest hq
      have hd := getDie_updHead_col hz fun t => { t with step := 1 }
      exact ⟨hkeeps.trans (linkKeeps_updHead_col ..), ⟨_, congrArg (fun x : Die => x.collective.queue) hd⟩, fun x hx => by rw [hd]; exact htold x hx⟩
    · split
      · obtain ⟨hkeeps, hhead, -, htold⟩ := colSent_colSend d tr (colUntold (getDie s d) (ctxKey s d tr.ctx) tr)
          (b := .join (colTag tr) (colMe tr) []) rfl s
        obtain ⟨st, hz⟩ := hhead tr rest hq
        exact ⟨hkeeps, ⟨_, hz⟩, htold⟩
      · exact ⟨.refl s, ⟨tr, hq⟩, fun _ h => h⟩

/-- A collective without a counter ends once its members have been heard, or with a status. -/
theorem colDone_silent (hcnt : tr.words.getD 5 0 = 0) (hst : colStatus s d tr ≠ 0 ∨
      ((colOthers tr).all fun r => (getDie (colTold s d tr) d).peersDone.contains (ctxKey s d tr.ctx, colTag tr, r)) = true) :
    colDone s d tr = colLeaves (colTold s d tr) d (ctxKey s d tr.ctx) tr (colStatus s d tr) := by
  have hn : ¬ (colStatus s d tr = 0 ∧
      (!((colOthers tr).all fun r => (getDie (colTold s d tr) d).peersDone.contains (ctxKey s d tr.ctx, colTag tr, r))) = true) := by
    rintro ⟨h0, hh⟩
    obtain h | h := hst
    · exact h h0
    · rw [h] at hh
      exact absurd hh (by decide)
  have e : colDone s d tr = if colStatus s d tr = 0 ∧
      (!((colOthers tr).all fun r => (getDie (colTold s d tr) d).peersDone.contains (ctxKey s d tr.ctx, colTag tr, r))) = true then colTold s d tr
      else colLeaves (colTold s d tr) d (ctxKey s d tr.ctx) tr (colStatus s d tr) := by
    unfold colDone
    simp only [engBump, hcnt, if_true]
    rfl
  rw [e, if_neg hn]

section
variable (hq : (getDie s d).collective.queue = tr :: rest) (hh : s.here = .engine (.collective d)) (hs : tr.started = true)
  (hcnt : tr.words.getD 5 0 = 0)
include hq hh hs hcnt

theorem engineDone_colEnds (hdue : jobDone (.collective d) tr = true ∨ colStatus s d tr ≠ 0) (hst : colStatus s d tr ≠ 0 ∨
      ((colOthers tr).all fun r => (getDie (colTold s d tr) d).peersDone.contains (ctxKey s d tr.ctx, colTag tr, r)) = true) :
    Completes .engineDone s (ColEnds s d tr rest (colStatus s d tr)) := by
  have hdue' : (tr.started && (jobDone (.collective d) tr || decide (colStatus s d tr ≠ 0))) = true := by
    rw [hs, Bool.true_and, Bool.or_eq_true, decide_eq_true_iff]
    exact hdue
  obtain ⟨⟨hm, ht, hc, -⟩, ⟨z, hz⟩, -⟩ := colTold_leaves hq
  obtain ⟨hmem, htiles, hcores, hqueue, hpend⟩ := colLeaves_ends (tr := tr) hz (ctxKey s d tr.ctx) (colStatus s d tr)
  have hcl : getCl (colTold s d tr) tr.core = getCl s tr.core := by rw [getCl, hc]; rfl
  rw [hcl] at hpend
  refine ⟨_, (execEngineDone_col hq hh).trans (congrArg _ ((if_pos hdue').trans (colDone_silent hcnt hst))), ?_⟩
  exact ⟨hm.trans hmem, htiles.trans ht, (SameCores.of_eq hc).trans hcores, hqueue, hpend⟩

/-- A collective whose members have all said that their sources are read ends without a status. -/
theorem engineDone_colComplete (hj : jobDone (.collective d) tr = true)
    (hheard : ∀ r ∈ colOthers tr, (ctxKey s d tr.ctx, colTag tr, r) ∈ (getDie s d).peersDone) :
    Completes .engineDone s (ColEnds s d tr rest (colStatus s d tr)) := by
  obtain ⟨-, -, htold⟩ := colTold_leaves hq
  refine engineDone_colEnds hq hh hs hcnt (.inl hj) (.inr (List.all_eq_true.mpr fun r hr => ?_))
  exact List.contains_iff_mem.mpr (htold _ (hheard r hr))

theorem engineDone_colFails (hst : colStatus s d tr ≠ 0) : Completes .engineDone s (ColEnds s d tr rest (colStatus s d tr)) :=
  engineDone_colEnds hq hh hs hcnt (.inr hst) (.inl hst)

end
end

end Sys2Proof.Machine
end

section
/-! PROOFS. Copies, collectives and links together: the clauses of O56 (R228, R313, R328, R389 to R392, R427, R432). -/
namespace Sys2Proof.Machine
open Sys2Proof

/-- A replay asked from a number that the port keeps no flit of: what it has sent is numbered anew from there (R389). -/
theorem replayFrom_eq (n : Nat) (y : YlPort) : replayFrom n y = if n < y.nextSeq ∧ ∀ g ∈ y.sent, g.seq ≠ n then
    { y with sent := y.sent.zipIdx.map (fun (g, i) => { g with seq := n + i }), nextSeq := n + y.sent.length } else y := by
  have hnone : (!y.sent.any fun g => decide (g.seq = n)) = true ↔ ∀ g ∈ y.sent, g.seq ≠ n := by
    simp only [Bool.not_eq_true', List.any_eq_false, decide_eq_true_iff, ne_eq]
  simp only [replayFrom, hnone]

/-- Settles O56: a lemma per clause, about the copy engine, the collective engine, a link's flits, and a port's training. -/
theorem enginesAndLinks : Obligations.EnginesAndLinks := by
  refine ⟨fun c s tr rest hq hcore => ?copies, fun d s tr rest hq => ?collectives, fun d p f s hh => ?flits, fun d p b s hh hp => ?training⟩
  case copies =>
    refine ⟨fun hh hc => copyStart_starts hq hh hc, fun hh hc => copy_unclocked hh hc, ?_, ?_, ?_, ?_, ?_, ?_, ?_, ?_, ?_⟩
    · exact fun k pa qa i j hh hc hs ho hroom hb hspace hr ht hw _ hp =>
        engineWrite_copiesToMemory hq ⟨hh, hc, hs, ho, hroom, hb⟩ hcore hr hspace ht hw hp
    · exact fun k n hh hc hs ho hroom hb hspace hr hn ht => engineWrite_copyDenied hq ⟨hh, hc, hs, ho, hroom, hb⟩ hcore hr hspace hn ht
    · exact fun k pa i hh hc hs ho hroom hb hspace hr hcl hp ht => engineWrite_copiesToBuffer hq ⟨hh, hc, hs, ho, hroom, hb⟩ hcore hr hspace hcl hp ht
    · exact fun k hh h => engineWrite_copyWaits hq hh h
    · exact fun hh h => engineDone_copyWaits hq hh h
    · exact fun hh hc hs hj hstep hcnt => engineDone_copySilent hq hh hcore hc hs hj hstep hcnt
    · exact fun pa i hh hc hs hj hcnt hb hf hp ht => engineDone_copyCounts hq hh hcore hc hs hj hcnt hb hf hp ht
    · exact fun hh h => fixupReplay_copyWaits hq hh h
    · exact fun f fs hh hc hs hf hl hr => ⟨fun hw => fixupReplay_copyStands hq hh hc hs hf hl hr hw,
        fun hw hn => fixupReplay_copyAgain hq hh hc hs hf hl hr hw hn, fun hw hn hfatal hring => fixupReplay_copyFails hq hh hc hs hf hl hr hcore hw hn hfatal hring⟩
  case collectives =>
    refine ⟨fun hh hs => collectiveStart_waits hq hh hs, fun hh hs hm => collectiveStart_refuses hq hh hs hm, fun ms hh hs hm => collectiveStart_starts hq hh hs hm,
      ?_, ?_, fun hh h => engineDone_colWaits hq hh h, ?_, ?_⟩
    · exact fun k cs pa i hh hs hst ho hroom hb ha hk hcs hbytes ht _ hp =>
        engineWrite_combines hq ⟨hh, hs, hst, ho, hroom, hb, ha⟩ hk hcs hbytes ht hp
    · exact fun k pa i hh hs hst ho hroom hb ha hk ht => engineWrite_gives hq ⟨hh, hs, hst, ho, hroom, hb, ha⟩ hk ht
    · intro hh hs hj hst hheard hcnt
      obtain ⟨t, e, hmem, htiles, hcores, hqueue, hpend⟩ := engineDone_colComplete hq hh hs hcnt hj hheard
      rw [hst, colRec, Nat.zero_add] at hpend
      exact ⟨t, e, hmem, htiles, hcores, hqueue, hpend⟩
    · intro hh hs hst hcnt
      obtain ⟨t, e, hmem, htiles, hcores, hqueue, hpend⟩ := engineDone_colFails hq hh hs hcnt hst
      exact ⟨t, e, hmem, htiles, hcores, hqueue, hpend⟩
  case flits =>
    refine ⟨fun h => flitReceive_down hh h, fun hst hc hn => flitReceive_asksReplay hh hst hc hn, fun hst hc hn => flitReceive_moves hh hst hc hn,
      fun n hst hc hb => flitReceive_ack hh hst hc hb, fun n hst hc hb => ?_, fun hst hc hb => ⟨fun hn => flitReceive_outOfOrder hh hst hc hb hn, ?_, ?_, ?_, ?_⟩⟩
    · have h := flitReceive_replay hh hst hc hb
      simp only [replayFrom_eq] at h
      exact h
    · intro he hk
      obtain ⟨t, e, hkeeps, hout, hy, hdrops⟩ := flitReceive_drops hh hst hc hb he hk
      exact ⟨t, e, hkeeps, hout, hy, fun hnew => hdrops.trans (noteDrop_new hnew), fun y hy hs => (congrArg (_ ∈ ·) hdrops).mpr (noteDrop_counts hy hs)⟩
    · exact fun tag rank off bs bad he hk hdev hdie hbody => flitReceive_chunk hh hst hc hb he hk hdev hdie hbody
    · exact fun tag rank shape he hk hdev hdie hbody => flitReceive_join hh hst hc hb he hk hdev hdie hbody
    · exact fun he hk hdev hroom => ⟨fun id dev die pa hbody => flitReceive_readRequest hh hst hc hb he hk hdev hroom hbody,
        fun id dev die pa bs full hbody hl hp => flitReceive_writeRequest hh hst hc hb he hk hdev hroom hbody hl hp⟩
  case training =>
    refine ⟨fun hst => linkTrainingDone_up hh hp hst, fun hst => ?_⟩
    obtain ⟨t, e, ⟨hmem, htiles, hclusters, -⟩, h⟩ := linkTrainingDone_trains hh hp hst
    exact ⟨t, e, hmem, htiles, hclusters, h⟩

end Sys2Proof.Machine
end
